-- ==== Sys2Proof/Word.lean ====
section
/-! DEFINITION. The words of the machine, and the plainest operations on them. -/

namespace Sys2Proof

/-- A lane element: 32 bits (02 R28). -/
abbrev Word := BitVec 32
/-- A scalar register or an address as a register holds it: 64 bits (04 R78, 05 R116). -/
abbrev DWord := BitVec 64
/-- One byte of memory. -/
abbrev Byte := BitVec 8
/-- A lane mask: bit L is lane L (04 R91). -/
abbrev Mask := BitVec 64
/-- A program counter: a 48-bit virtual address (03 R44). -/
abbrev Pc := BitVec 48
/-- A 7-bit operand code (03 R50). -/
abbrev Code := BitVec 7
/-- The 64 elements of one vector line, or of one queue entry, lane 0 first (04 Table 4-4). -/
abbrev Line := List Word

/-- The type index t of a typed float mnemonic (03 Table 3-7). -/
inductive FType where
  | f32 | f64 | f16x2 | bf16x2
  deriving DecidableEq, Repr

end Sys2Proof
end

