-- ==== Sys2Proof/Syntax.lean ====
section
/-! DEFINITION. The instructions and events: one constructor per row of spec/opcode_table.json.
Fields keep the letters of the table, s written sel; a field of one bit is a Bool, an operand field its 7-bit code. -/

namespace Sys2Proof

/-- Every row of the opcode table: the instructions with words first, then the steps of the engines,
the host, the peers and the root controller, whose parameters are the choices of their environment. -/
inductive Instr where
  | vadd (e g : Bool) (d a b : BitVec 7)
  | vsub (e g : Bool) (d a b : BitVec 7)
  | vmullo (e g : Bool) (d a b : BitVec 7)
  | vmulhis (e g : Bool) (d a b : BitVec 7)
  | vmulhiu (e g : Bool) (d a b : BitVec 7)
  | vmad (e g : Bool) (d a b : BitVec 7)
  | vadds (e g : Bool) (d a b : BitVec 7)
  | vsubs (e g : Bool) (d a b : BitVec 7)
  | vaddx2 (e g : Bool) (d a b : BitVec 7)
  | vsubx2 (e g : Bool) (d a b : BitVec 7)
  | vmins (e g : Bool) (d a b : BitVec 7)
  | vminu (e g : Bool) (d a b : BitVec 7)
  | vmaxs (e g : Bool) (d a b : BitVec 7)
  | vmaxu (e g : Bool) (d a b : BitVec 7)
  | vdot4s (e g : Bool) (d a b : BitVec 7)
  | vdot4u (e g : Bool) (d a b : BitVec 7)
  | vand (e g : Bool) (d a b : BitVec 7)
  | vor (e g : Bool) (d a b : BitVec 7)
  | vxor (e g : Bool) (d a b : BitVec 7)
  | vandn (e g : Bool) (d a b : BitVec 7)
  | vshl (e g : Bool) (d a b : BitVec 7)
  | vshru (e g : Bool) (d a b : BitVec 7)
  | vshrs (e g : Bool) (d a b : BitVec 7)
  | vrot (e g : Bool) (d a b : BitVec 7)
  | vbfeu (e g : Bool) (d a b : BitVec 7)
  | vbfes (e g : Bool) (d a b : BitVec 7)
  | vbfi (e g : Bool) (d a b : BitVec 7)
  | vsel (e g : Bool) (d a b : BitVec 7)
  | vpopc (e : Bool) (d a : BitVec 7)
  | vclz (e : Bool) (d a : BitVec 7)
  | vctz (e : Bool) (d a : BitVec 7)
  | vbrev (e : Bool) (d a : BitVec 7)
  | vnot (e : Bool) (d a : BitVec 7)
  | vabs (e : Bool) (d a : BitVec 7)
  | vneg (e : Bool) (d a : BitVec 7)
  | vsx8 (e : Bool) (d a : BitVec 7)
  | vsx16 (e : Bool) (d a : BitVec 7)
  | vzx8 (e : Bool) (d a : BitVec 7)
  | vzx16 (e : Bool) (d a : BitVec 7)
  | vmov (e : Bool) (d a : BitVec 7)
  | vcmpeq (e g : Bool) (d a b : BitVec 7)
  | vcmplts (e g : Bool) (d a b : BitVec 7)
  | vcmpltu (e g : Bool) (d a b : BitVec 7)
  | vcmples (e g : Bool) (d a b : BitVec 7)
  | vcmpleu (e g : Bool) (d a b : BitVec 7)
  | vshfl (e f : Bool) (d a b : BitVec 7)
  | vshflx (e f : Bool) (d a b : BitVec 7)
  | vshflup (e f : Bool) (d a b : BitVec 7)
  | vshfldn (e f : Bool) (d a b : BitVec 7)
  | vrdlane (e g : Bool) (d a b : BitVec 7)
  | vwrlane (e g : Bool) (d a b : BitVec 7)
  | vredadd (e : Bool) (d a : BitVec 7)
  | vredmins (e : Bool) (d a : BitVec 7)
  | vredmaxs (e : Bool) (d a : BitVec 7)
  | vredand (e : Bool) (d a : BitVec 7)
  | vredor (e : Bool) (d a : BitVec 7)
  | vscanadd (e : Bool) (d a : BitVec 7)
  | vballot (e : Bool) (d a : BitVec 7)
  | vaddi (d a : BitVec 7) (i : BitVec 9)
  | vmuli (d a : BitVec 7) (i : BitVec 9)
  | vandi (d a : BitVec 7) (i : BitVec 9)
  | vori (d a : BitVec 7) (i : BitVec 9)
  | vxori (d a : BitVec 7) (i : BitVec 9)
  | vshli (d a : BitVec 7) (i : BitVec 9)
  | vshrui (d a : BitVec 7) (i : BitVec 9)
  | vshrsi (d a : BitVec 7) (i : BitVec 9)
  | vcmpeqi (d a : BitVec 7) (i : BitVec 9)
  | vcmpltsi (d a : BitVec 7) (i : BitVec 9)
  | vcmpltui (d a : BitVec 7) (i : BitVec 9)
  | vfadd (t : FType) (e g : Bool) (d a b : BitVec 7)
  | vfsub (t : FType) (e g : Bool) (d a b : BitVec 7)
  | vfmul (t : FType) (e g : Bool) (d a b : BitVec 7)
  | vffma (t : FType) (e g : Bool) (d a b : BitVec 7)
  | vffms (t : FType) (e g : Bool) (d a b : BitVec 7)
  | vfmin (t : FType) (e g : Bool) (d a b : BitVec 7)
  | vfmax (t : FType) (e g : Bool) (d a b : BitVec 7)
  | vfcmpeq (t : FType) (e g : Bool) (d a b : BitVec 7)
  | vfcmplt (t : FType) (e g : Bool) (d a b : BitVec 7)
  | vfcmple (t : FType) (e g : Bool) (d a b : BitVec 7)
  | vfcmpun (t : FType) (e g : Bool) (d a b : BitVec 7)
  | vfsqrt (t : FType) (e : Bool) (d a : BitVec 7)
  | vfrsq (t : FType) (e : Bool) (d a : BitVec 7)
  | vfrcp (t : FType) (e : Bool) (d a : BitVec 7)
  | vfexp2 (t : FType) (e : Bool) (d a : BitVec 7)
  | vflog2 (t : FType) (e : Bool) (d a : BitVec 7)
  | vfsinpi (t : FType) (e : Bool) (d a : BitVec 7)
  | vfcospi (t : FType) (e : Bool) (d a : BitVec 7)
  | vftanh (t : FType) (e : Bool) (d a : BitVec 7)
  | vfabs (t : FType) (e : Bool) (d a : BitVec 7)
  | vfneg (t : FType) (e : Bool) (d a : BitVec 7)
  | vffloor (t : FType) (e : Bool) (d a : BitVec 7)
  | vfceil (t : FType) (e : Bool) (d a : BitVec 7)
  | vftrunc (t : FType) (e : Bool) (d a : BitVec 7)
  | vfrne (t : FType) (e : Bool) (d a : BitVec 7)
  | vffrac (t : FType) (e : Bool) (d a : BitVec 7)
  | vfclass (t : FType) (e : Bool) (d a : BitVec 7)
  | vcvt (e : Bool) (d a c : BitVec 7)
  | vcvts (e : Bool) (d a c : BitVec 7)
  | vpackF16 (e g : Bool) (d a b : BitVec 7)
  | vpackBf16 (e g : Bool) (d a b : BitVec 7)
  | vfscaleF32 (e g : Bool) (d a b : BitVec 7)
  | vfscaleF64 (e g : Bool) (d a b : BitVec 7)
  | vfdot2F16 (e g : Bool) (d a b : BitVec 7)
  | vfdot2Bf16 (e g : Bool) (d a b : BitVec 7)
  | sadd (e g : Bool) (d a b : BitVec 7)
  | ssub (e g : Bool) (d a b : BitVec 7)
  | smul (e g : Bool) (d a b : BitVec 7)
  | smulhu (e g : Bool) (d a b : BitVec 7)
  | smulhs (e g : Bool) (d a b : BitVec 7)
  | sdivu (e g : Bool) (d a b : BitVec 7)
  | sdivs (e g : Bool) (d a b : BitVec 7)
  | sremu (e g : Bool) (d a b : BitVec 7)
  | srems (e g : Bool) (d a b : BitVec 7)
  | smins (e g : Bool) (d a b : BitVec 7)
  | sminu (e g : Bool) (d a b : BitVec 7)
  | smaxs (e g : Bool) (d a b : BitVec 7)
  | smaxu (e g : Bool) (d a b : BitVec 7)
  | sand (e g : Bool) (d a b : BitVec 7)
  | sor (e g : Bool) (d a b : BitVec 7)
  | sxor (e g : Bool) (d a b : BitVec 7)
  | sandn (e g : Bool) (d a b : BitVec 7)
  | sshl (e g : Bool) (d a b : BitVec 7)
  | sshru (e g : Bool) (d a b : BitVec 7)
  | sshrs (e g : Bool) (d a b : BitVec 7)
  | sbfe (e g : Bool) (d a b : BitVec 7)
  | sbfi (e g : Bool) (d a b : BitVec 7)
  | spopc (e : Bool) (d a : BitVec 7)
  | sclz (e : Bool) (d a : BitVec 7)
  | sctz (e : Bool) (d a : BitVec 7)
  | sbrev (e : Bool) (d a : BitVec 7)
  | snot (e : Bool) (d a : BitVec 7)
  | sneg (e : Bool) (d a : BitVec 7)
  | ssx32 (e : Bool) (d a : BitVec 7)
  | szx32 (e : Bool) (d a : BitVec 7)
  | smov (e : Bool) (d a : BitVec 7)
  | scmpeq (e g : Bool) (d a b : BitVec 7)
  | scmplts (e g : Bool) (d a b : BitVec 7)
  | scmpltu (e g : Bool) (d a b : BitVec 7)
  | scmples (e g : Bool) (d a b : BitVec 7)
  | scmpleu (e g : Bool) (d a b : BitVec 7)
  | ssel (e g : Bool) (d a b : BitVec 7)
  | sgetst (d sel : BitVec 7)
  | ssetst (e g : Bool) (a b : BitVec 7)
  | sfadd (e g : Bool) (d a b : BitVec 7)
  | sfsub (e g : Bool) (d a b : BitVec 7)
  | sfmul (e g : Bool) (d a b : BitVec 7)
  | sffma (e g : Bool) (d a b : BitVec 7)
  | sfcmplt (e g : Bool) (d a b : BitVec 7)
  | sfcvt (e : Bool) (d a n : BitVec 7)
  | saddi (d a : BitVec 7) (i : BitVec 9)
  | sandi (d a : BitVec 7) (i : BitVec 9)
  | sori (d a : BitVec 7) (i : BitVec 9)
  | sxori (d a : BitVec 7) (i : BitVec 9)
  | sshli (d a : BitVec 7) (i : BitVec 9)
  | sshrui (d a : BitVec 7) (i : BitVec 9)
  | sshrsi (d a : BitVec 7) (i : BitVec 9)
  | scmpeqi (d a : BitVec 7) (i : BitVec 9)
  | scmpltsi (d a : BitVec 7) (i : BitVec 9)
  | scmpltui (d a : BitVec 7) (i : BitVec 9)
  | bri (a : BitVec 7) (n : BitVec 9)
  | jr (e : Bool) (a : BitVec 7)
  | callr (e : Bool) (a : BitVec 7)
  | exit
  | exitto (a : BitVec 7) (n : BitVec 9)
  | spawn (d a : BitVec 7)
  | bar
  | barSp
  | parv (d : BitVec 7) (n : BitVec 5) (k : BitVec 3)
  | pwait (a : BitVec 7) (k : BitVec 3)
  | win (i : BitVec 9)
  | winq (d : BitVec 7)
  | vsw (k : BitVec 9)
  | yield
  | nop
  | sysc (n : BitVec 9)
  | brk (n : BitVec 9)
  | tret
  | enq (e g : Bool) (d a b : BitVec 7)
  | join (e : Bool) (d a : BitVec 7)
  | msd (e : Bool) (d a n : BitVec 7)
  | msdWithdraw (e : Bool) (d a : BitVec 7)
  | msx (e g : Bool) (d a b : BitVec 7)
  | hstat (d sel : BitVec 7)
  | hstatLog (e : Bool) (d a sel : BitVec 7)
  | sigmask (e : Bool) (d a : BitVec 7)
  | sighand (e : Bool) (d a : BitVec 7)
  | sighandCause (d : BitVec 7)
  | sighandTaddr (d : BitVec 7)
  | sighandTmask (d : BitVec 7)
  | sighandFaddr (d : BitVec 7)
  | pget (d : BitVec 7) (sel : BitVec 9)
  | pset (a : BitVec 7) (sel : BitVec 9)
  | unpark (e g : Bool) (d a b : BitVec 7)
  | sig (e : Bool) (d a : BitVec 7)
  | tinj (e g : Bool) (d a b : BitVec 7)
  | swapo (e g : Bool) (d a b : BitVec 7)
  | swapi (e g : Bool) (d a b : BitVec 7)
  | sysrp (e g : Bool) (d a b : BitVec 7)
  | tlbinv (e g : Bool) (a b : BitVec 7)
  | tfence (sel : BitVec 3)
  | tprobe (e g : Bool) (d a b : BitVec 7)
  | aspill (e g : Bool) (d a b : BitVec 7)
  | afill (e g : Bool) (d a b : BitVec 7)
  | chres (e g : Bool) (d a b : BitVec 7)
  | chabt (e g : Bool) (d a b : BitVec 7)
  | lmapw (e g : Bool) (d a b : BitVec 7)
  | chkmFloor (d a : BitVec 7)
  | chkmLmap (d a : BitVec 7)
  | chkmLfail (d a : BitVec 7)
  | chkmCmap (d a : BitVec 7)
  | chkmCnt (d a : BitVec 7)
  | chkmClr (d a : BitVec 7)
  | trcfg (g : Bool) (d sel b : BitVec 7)
  | bpset (e g : Bool) (d a b : BitVec 7)
  | wpset (e g : Bool) (d a b : BitVec 7)
  | smpl (d : BitVec 7) (p : BitVec 5)
  | garmShare (e g : Bool) (d a b : BitVec 7)
  | garmRead (e g : Bool) (d a b : BitVec 7)
  | garmRelease (e g : Bool) (d a b : BitVec 7)
  | dcfg (g : Bool) (d sel b : BitVec 7)
  | carve (g : Bool) (d b : BitVec 7)
  | ctxon (g : Bool) (d b : BitVec 7)
  | ctxoff (g : Bool) (d b : BitVec 7)
  | qarm (g : Bool) (d b : BitVec 7)
  | kill (g : Bool) (d b : BitVec 7)
  | vreq (e g : Bool) (d a b : BitVec 7)
  | halt (e : Bool) (d a : BitVec 7)
  | resm (e : Bool) (d a : BitVec 7)
  | intfwAck (e g : Bool) (d a b : BitVec 7)
  | intfwFwd (e g : Bool) (d a b : BitVec 7)
  | intfwRaise (e g : Bool) (d a b : BitVec 7)
  | intfwSend (e g : Bool) (d a b : BitVec 7)
  | ldb (d a : BitVec 7) (i : BitVec 9)
  | ldbs (d a : BitVec 7) (i : BitVec 9)
  | ldh (d a : BitVec 7) (i : BitVec 9)
  | ldhs (d a : BitVec 7) (i : BitVec 9)
  | ldw (d a : BitVec 7) (i : BitVec 9)
  | ldd (d a : BitVec 7) (i : BitVec 9)
  | ldq (d a : BitVec 7) (i : BitVec 9)
  | stb (d a : BitVec 7) (i : BitVec 9)
  | sth (d a : BitVec 7) (i : BitVec 9)
  | stw (d a : BitVec 7) (i : BitVec 9)
  | std (d a : BitVec 7) (i : BitVec 9)
  | stq (d a : BitVec 7) (i : BitVec 9)
  | sld (d a : BitVec 7) (i : BitVec 9)
  | sldw (d a : BitVec 7) (i : BitVec 9)
  | sst (d a : BitVec 7) (i : BitVec 9)
  | sstw (d a : BitVec 7) (i : BitVec 9)
  | ldwx (e g : Bool) (d a b : BitVec 7)
  | stwx (e g : Bool) (d a b : BitVec 7)
  | lda (d a : BitVec 7) (sel : BitVec 3) (z : BitVec 2)
  | stl (d a : BitVec 7) (sel : BitVec 3) (z : BitVec 2)
  | fence (sel : BitVec 3)
  | xfence (sel p q : BitVec 3)
  | atadd (e g : Bool) (d a b : BitVec 7)
  | atmins (e g : Bool) (d a b : BitVec 7)
  | atminu (e g : Bool) (d a b : BitVec 7)
  | atmaxs (e g : Bool) (d a b : BitVec 7)
  | atmaxu (e g : Bool) (d a b : BitVec 7)
  | atand (e g : Bool) (d a b : BitVec 7)
  | ator (e g : Bool) (d a b : BitVec 7)
  | atxor (e g : Bool) (d a b : BitVec 7)
  | atxchg (e g : Bool) (d a b : BitVec 7)
  | atcas (e g : Bool) (d a b : BitVec 7)
  | atfadd (e g : Bool) (d a b : BitVec 7)
  | atdadd (e g : Bool) (d a b : BitVec 7)
  | atdcas (e g : Bool) (d a b : BitVec 7)
  | vatfadd (e g : Bool) (a b : BitVec 7)
  | vatbadd (e g : Bool) (a b : BitVec 7)
  | vatfmax (e g : Bool) (a b : BitVec 7)
  | vatiadd (e g : Bool) (a b : BitVec 7)
  | waitc (e g : Bool) (sel : BitVec 3) (t : BitVec 4) (c : BitVec 2) (w : Bool) (r : BitVec 4) (b : BitVec 7)
  | pref (a : BitVec 7) (i : BitVec 9)
  | cinv (a : BitVec 7) (i : BitVec 9)
  | cwb (a : BitVec 7) (i : BitVec 9)
  | ldpv (d a : BitVec 7) (z : Bool) (o : BitVec 8)
  | stpv (d a : BitVec 7) (z : Bool) (o : BitVec 8)
  | ldbc (d a : BitVec 7) (i : BitVec 9)
  | cpgt (e g : Bool) (c : BitVec 3) (k : BitVec 4) (a b : BitVec 7)
  | cptg (e g : Bool) (c : BitVec 3) (k : BitVec 4) (a b : BitVec 7)
  | cpgg (e g : Bool) (c : BitVec 3) (k : BitVec 4) (a b : BitVec 7)
  | cpat (e g : Bool) (c : BitVec 3) (k : BitVec 4) (a b : BitVec 7)
  | cpgs (e g : Bool) (c : BitVec 3) (k : BitVec 4) (a b : BitVec 7)
  | cpsg (e g : Bool) (c : BitVec 3) (k : BitVec 4) (a b : BitVec 7)
  | cpix (e g : Bool) (c : BitVec 3) (k : BitVec 4) (a b : BitVec 7)
  | tld (e : Bool) (d a : BitVec 7) (m : BitVec 2) (n : BitVec 5)
  | tst (e : Bool) (d a : BitVec 7) (m : BitVec 2) (n : BitVec 5)
  | cwp (e g : Bool) (a b : BitVec 7)
  | cwait (e : Bool) (a : BitVec 7)
  | cdone (e : Bool) (d a : BitVec 7)
  | cfill (e g : Bool) (c : BitVec 3) (k : BitVec 4) (a b : BitVec 7)
  | ccan (c : BitVec 3)
  | mmaBf16 (e g : Bool) (k : BitVec 4) (sel : BitVec 2) (z : Bool) (a b : BitVec 7)
  | mmaF16 (e g : Bool) (k : BitVec 4) (sel : BitVec 2) (z : Bool) (a b : BitVec 7)
  | mmaE4m3 (e g : Bool) (k : BitVec 4) (sel : BitVec 2) (z : Bool) (a b : BitVec 7)
  | mmaE5m2 (e g : Bool) (k : BitVec 4) (sel : BitVec 2) (z : Bool) (a b : BitVec 7)
  | mmaMxe2m1 (e g : Bool) (k : BitVec 4) (sel : BitVec 2) (z : Bool) (a b : BitVec 7)
  | mmaMxe4m3 (e g : Bool) (k : BitVec 4) (sel : BitVec 2) (z : Bool) (a b : BitVec 7)
  | mmaMxe2m3 (e g : Bool) (k : BitVec 4) (sel : BitVec 2) (z : Bool) (a b : BitVec 7)
  | mmaI8 (e g : Bool) (k : BitVec 4) (sel : BitVec 2) (z : Bool) (a b : BitVec 7)
  | mgang (e : Bool) (a : BitVec 7)
  | macq (d : BitVec 7) (w : Bool) (n : BitVec 4)
  | mrel (a : BitVec 7)
  | mzero (k : BitVec 4)
  | mdrain (e : Bool) (d a v : BitVec 7)
  | mcfg (d : BitVec 7) (c : BitVec 3)
  | mstat (e : Bool) (d a : BitVec 7)
  | mwait (e : Bool) (a : BitVec 7)
  | br (a : BitVec 7) (o : BitVec 16)
  | brz (a : BitVec 7) (o : BitVec 16)
  | bru (a : BitVec 7) (o : BitVec 16)
  | bruz (a : BitVec 7) (o : BitVec 16)
  | brs (a : BitVec 7) (o : BitVec 16)
  | jmp (o : BitVec 23)
  | call (o : BitVec 23)
  | sloop (a : BitVec 7) (o : BitVec 16)
  | smovl (d : BitVec 7) (i : BitVec 16)
  | smovh (d : BitVec 7) (i : BitVec 16)
  | smovx (d : BitVec 7) (i : BitVec 16)
  | smovt (d : BitVec 7) (i : BitVec 16)
  | vmovl (d : BitVec 7) (i : BitVec 16)
  | vmovh (d : BitVec 7) (i : BitVec 16)
  | strandAged (key : Nat)
  | lineFill (key n : Nat)
  | lineEvict (key n : Nat)
  | frontierRefill (key : Nat)
  | producerWriteback (key place : Nat)
  | floatWriteback (key place : Nat)
  | successorStart (key : Nat)
  | slotFree (key : Nat)
  | binAgeExpiry (ccb b : Nat)
  | gatherFormation (ccb : Nat)
  | l1Fill (core line : Nat)
  | storeLost (core place : Nat)
  | accessTimeout (key place : Nat) (lanes : Mask)
  | promotionRequest (line : Nat)
  | monitorFire (place : Nat)
  | waitcPoll (key : Nat)
  | monitorWake (key : Nat)
  | tailPoll (q : Nat)
  | commandStart (core ccb ch : Nat)
  | deliveryUnit (core ccb ch : Nat)
  | commandCompletion (core ccb ch : Nat)
  | channelFault (core ccb ch : Nat)
  | rendezvousComplete (core place : Nat)
  | rendezvousTimeout (core place : Nat)
  | mmaOperationComplete (core : Nat) (error : Bool) (column : Nat)
  | macqRetry (key : Nat)
  | drainEntryReady (key q : Nat) (bad : Bool)
  | accDeadlockSwap (core : Nat)
  | mxnSet (core : Nat)
  | columnMapOut (core column : Nat)
  | walkComplete (core pasid : Nat) (user : Bool) (kind va : Nat)
  | heldEventEntry (core : Nat)
  | machineCheck (ccb sub : Nat)
  | tailRead (q : Nat)
  | recordPop (q : Nat)
  | queueResume (q : Nat)
  | starvationAge (record : Bool) (id : Nat)
  | cohortPlacement (q : Nat)
  | promotion (ccb : Nat)
  | demotion (ccb : Nat)
  | quantumExpiry (ccb : Nat)
  | preemption
  | switchRequest (ccb target : Nat)
  | variantSwitch (ccb : Nat)
  | switchTimeout (ccb : Nat)
  | swapOut (ccb : Nat)
  | swapIn (ccb : Nat)
  | migration (ccb core : Nat)
  | carveModeChange (core : Nat)
  | cohortCompletion (ccb : Nat)
  | launchCompletion (id : Nat)
  | debugStop (ccb : Nat)
  | sampleTag (core bench : Nat)
  | sampleRecord (core place : Nat)
  | laneReissue (key lane : Nat) (passes : Bool)
  | lmapUpdate (core bench : Nat)
  | cloneReplay (core bench : Nat) (bad : Bool)
  | patrolRead (line : Nat)
  | hostMemWrite (addr size value : Nat)
  | hostMemRead (addr size : Nat)
  | bar0Access (fn off size : Nat) (write : Bool) (value : Nat)
  | mailboxDoorbell (fn m value : Nat)
  | flushComplete (core : Nat)
  | atsInvalidationRequest (pasid va count : Nat)
  | peerInboundAccess (aid addr kind size value cmp : Nat)
  | portDown (u : Nat)
  | portWidthChange (u lanes : Nat)
  | claimTimerExpiry (src : Nat)
  | icack (src : Nat)
  | msixUnmask (fn vec : Nat)
  | integrityCheckFail (portC : Bool) (fn : Nat)
  | ideKeyManagement (fn : Nat) (secure : Bool)
  | spdmRequest (index : Nat)
  | keyExchange
  | lockInterfaceRequest (fn : Nat)
  | startInterfaceRequest (fn : Nat)
  | stopInterfaceRequest (fn : Nat)
  | getDeviceInterfaceReport (fn : Nat)
  | hostConfigWrite (fn item v : Nat)
  | functionLevelReset (fn : Nat)
  | powerFail
  | drainComplete
  | gdone
  | gskip (handle : Nat)
  | policySliceEnd
  | extentWrites
  | sealLog
  | railCollapse
  | supplyReturn
  | logErase
  | thermalAlarm (temp : Nat)
  | thermalTrip
  | powerAlarm (watts : Nat)
  | powerAlarmEnd
  | powerGood
  | stage1 (ok : Bool)
  | stage2 (ok : Bool) (root entry : Nat)
  | firmwareUpdate (slot version size digest : Nat) (verified : Bool)
  | activateFirmware (root entry : Nat)
  | getState
  | startScrub (nonce : Nat)
  | grant (id : Nat)
  | revoke
  | getRecord
  | revokeDeadline
  | scrubComplete (lines : List Nat) (covered : Nat)
  | registerWrite (block off value : Nat)
  | hostSnoop (addr size : Nat) (takes : Bool) (value : Nat)
  | globalObservationResponse (core : Nat) (relaxed : Bool) (place : Nat)
  | portUp (port lanes : Nat)
  | portPDown
  | portCError (lost : Bool)
  | portPError
  | resetDevice
  | serviceCoreMessage (core : Nat)
  deriving DecidableEq, Repr

end Sys2Proof
end

