-- ==== Sys2Proof/WellFormed.lean ====
section
/-! DEFINITION. The checks on the sub-fields of an immediate that the decoder makes: a reserved value raises 0x01 (03 R59,
R60, Table 3-13). Conversion codes, operand codes and lines are checked by the instructions themselves. -/

namespace Sys2Proof

/-- Scope codes 0 to 4 are .co to .dv and .sy; 5 is .rm, which an acquire alone may name (03 Table 3-17). -/
def scopeOk {n : Nat} (acquires : Bool) (x : BitVec n) : Bool := x.toNat < 5 || (acquires && x.toNat == 5)

/-- Path codes 0 to 6 (03 Table 3-18). -/
def pathOk {n : Nat} (x : BitVec n) : Bool := x.toNat != 7

/-- A selector of a register that is read with bit 6 set: B and its trap bit are then unused (R48). -/
def unusedWhenRead (sel b : BitVec 7) (g : Bool) : Bool := sel.toNat < 64 || (b == 0 && !g)

/-- Whether the decoder gives this instruction: no reserved value in a sub-field, and for words that several rows share,
the row that the word's value names, or the first. An event has no sub-field. -/
def Instr.wellFormed : Instr → Bool
  | .lda _ _ sel z => scopeOk true sel && z.toNat < 2
  | .stl _ _ sel z => scopeOk false sel && z.toNat < 2
  | .fence sel => scopeOk true sel
  | .xfence sel p q => scopeOk false sel && pathOk p && pathOk q
  | .tfence sel => scopeOk false sel
  | .waitc _ _ sel _ c _ _ _ => scopeOk true sel && c.toNat != 3
  | .sgetst _ sel => sel.toNat < 7
  | .sfcvt _ _ _ n => n.toNat < 7
  | .bri _ n => n.toNat != 0
  | .exitto _ n => n.toNat ≤ 96
  | .win i => i.toNat % 8 == 0
  | .mmaBf16 _ _ _ sel _ _ _ | .mmaF16 _ _ _ sel _ _ _ | .mmaE4m3 _ _ _ sel _ _ _ | .mmaE5m2 _ _ _ sel _ _ _
  | .mmaMxe2m1 _ _ _ sel _ _ _ | .mmaMxe4m3 _ _ _ sel _ _ _ | .mmaMxe2m3 _ _ _ sel _ _ _ | .mmaI8 _ _ _ sel _ _ _ =>
    sel.toNat != 3
  | .mdrain _ _ _ v => v.toNat < 4
  | .smpl _ p => p.toNat == 0 || (8 ≤ p.toNat && p.toNat ≤ 24)
  | .msd _ _ _ n => 1 ≤ n.toNat && n.toNat ≤ 8
  | .hstat _ sel => sel.toNat ≤ 3
  | .hstatLog _ _ _ sel => 4 ≤ sel.toNat && sel.toNat ≤ 6
  | .trcfg g _ sel b => sel.toNat % 64 ≤ 10 && unusedWhenRead sel b g
  | .dcfg g _ sel b =>
    (sel.toNat ≤ 9 || (64 ≤ sel.toNat && sel.toNat ≤ 73) || (80 ≤ sel.toNat && sel.toNat ≤ 84)) && unusedWhenRead sel b g
  | .garmRead .. | .garmRelease .. | .intfwFwd .. | .intfwRaise .. | .intfwSend .. => false
  | _ => true

end Sys2Proof
end

