-- ==== Sys2Proof/Decode.lean ====
section
/-! DEFINITION. The decoder, total on any word, and the encoder (03 R44 to R60). -/

namespace Sys2Proof

/-- Why a word is no instruction; each raises cause 0x01 (03 Table 3-13). -/
inductive DecodeFault where
  /-- Reserved opcode, function or selector, or a non-zero unused field (R48, R56). -/
  | reserved
  /-- A reserved value in an immediate sub-field, a conversion code or a selector (R60). -/
  | subField
  deriving DecidableEq, Repr

/-- Bits [lo + n - 1 : lo] of a word. -/
def bitsAt (lo n : Nat) (w : BitVec 32) : BitVec n := BitVec.ofNat n (w.toNat / 2 ^ lo)

/-- Bit lo of a word. -/
def bitAt (lo : Nat) (w : BitVec 32) : Bool := w.toNat / 2 ^ lo % 2 == 1

/-- The n bits from bit lo hold the value v. -/
def fix (lo n v : Nat) (w : BitVec 32) : Bool := w.toNat / 2 ^ lo % 2 ^ n == v

/-- The instruction, if the unused fields hold zero (R48). -/
def take (ok : Bool) (i : Instr) : Except DecodeFault Instr :=
  if ok then .ok i else .error .reserved

/-- The type index in the opcode of a typed float instruction (03 Table 3-7). -/
def FType.index : FType → Nat
  | .f32 => 0 | .f64 => 1 | .f16x2 => 2 | .bf16x2 => 3


/-- Class 0b00: the opcode in bits [29:23] chooses the row (03 R56). -/
def decodeVector (op : Nat) (w : BitVec 32) : Except DecodeFault Instr :=
  match op with
  | 0 => .ok (.vadd (bitAt 22 w) (bitAt 21 w) (bitsAt 14 7 w) (bitsAt 7 7 w) (bitsAt 0 7 w))
  | 1 => .ok (.vsub (bitAt 22 w) (bitAt 21 w) (bitsAt 14 7 w) (bitsAt 7 7 w) (bitsAt 0 7 w))
  | 2 => .ok (.vmullo (bitAt 22 w) (bitAt 21 w) (bitsAt 14 7 w) (bitsAt 7 7 w) (bitsAt 0 7 w))
  | 3 => .ok (.vmulhis (bitAt 22 w) (bitAt 21 w) (bitsAt 14 7 w) (bitsAt 7 7 w) (bitsAt 0 7 w))
  | 4 => .ok (.vmulhiu (bitAt 22 w) (bitAt 21 w) (bitsAt 14 7 w) (bitsAt 7 7 w) (bitsAt 0 7 w))
  | 5 => .ok (.vmad (bitAt 22 w) (bitAt 21 w) (bitsAt 14 7 w) (bitsAt 7 7 w) (bitsAt 0 7 w))
  | 6 => .ok (.vadds (bitAt 22 w) (bitAt 21 w) (bitsAt 14 7 w) (bitsAt 7 7 w) (bitsAt 0 7 w))
  | 7 => .ok (.vsubs (bitAt 22 w) (bitAt 21 w) (bitsAt 14 7 w) (bitsAt 7 7 w) (bitsAt 0 7 w))
  | 8 => .ok (.vaddx2 (bitAt 22 w) (bitAt 21 w) (bitsAt 14 7 w) (bitsAt 7 7 w) (bitsAt 0 7 w))
  | 9 => .ok (.vsubx2 (bitAt 22 w) (bitAt 21 w) (bitsAt 14 7 w) (bitsAt 7 7 w) (bitsAt 0 7 w))
  | 10 => .ok (.vmins (bitAt 22 w) (bitAt 21 w) (bitsAt 14 7 w) (bitsAt 7 7 w) (bitsAt 0 7 w))
  | 11 => .ok (.vminu (bitAt 22 w) (bitAt 21 w) (bitsAt 14 7 w) (bitsAt 7 7 w) (bitsAt 0 7 w))
  | 12 => .ok (.vmaxs (bitAt 22 w) (bitAt 21 w) (bitsAt 14 7 w) (bitsAt 7 7 w) (bitsAt 0 7 w))
  | 13 => .ok (.vmaxu (bitAt 22 w) (bitAt 21 w) (bitsAt 14 7 w) (bitsAt 7 7 w) (bitsAt 0 7 w))
  | 14 => .ok (.vdot4s (bitAt 22 w) (bitAt 21 w) (bitsAt 14 7 w) (bitsAt 7 7 w) (bitsAt 0 7 w))
  | 15 => .ok (.vdot4u (bitAt 22 w) (bitAt 21 w) (bitsAt 14 7 w) (bitsAt 7 7 w) (bitsAt 0 7 w))
  | 16 => .ok (.vand (bitAt 22 w) (bitAt 21 w) (bitsAt 14 7 w) (bitsAt 7 7 w) (bitsAt 0 7 w))
  | 17 => .ok (.vor (bitAt 22 w) (bitAt 21 w) (bitsAt 14 7 w) (bitsAt 7 7 w) (bitsAt 0 7 w))
  | 18 => .ok (.vxor (bitAt 22 w) (bitAt 21 w) (bitsAt 14 7 w) (bitsAt 7 7 w) (bitsAt 0 7 w))
  | 19 => .ok (.vandn (bitAt 22 w) (bitAt 21 w) (bitsAt 14 7 w) (bitsAt 7 7 w) (bitsAt 0 7 w))
  | 20 => .ok (.vshl (bitAt 22 w) (bitAt 21 w) (bitsAt 14 7 w) (bitsAt 7 7 w) (bitsAt 0 7 w))
  | 21 => .ok (.vshru (bitAt 22 w) (bitAt 21 w) (bitsAt 14 7 w) (bitsAt 7 7 w) (bitsAt 0 7 w))
  | 22 => .ok (.vshrs (bitAt 22 w) (bitAt 21 w) (bitsAt 14 7 w) (bitsAt 7 7 w) (bitsAt 0 7 w))
  | 23 => .ok (.vrot (bitAt 22 w) (bitAt 21 w) (bitsAt 14 7 w) (bitsAt 7 7 w) (bitsAt 0 7 w))
  | 24 => .ok (.vbfeu (bitAt 22 w) (bitAt 21 w) (bitsAt 14 7 w) (bitsAt 7 7 w) (bitsAt 0 7 w))
  | 25 => .ok (.vbfes (bitAt 22 w) (bitAt 21 w) (bitsAt 14 7 w) (bitsAt 7 7 w) (bitsAt 0 7 w))
  | 26 => .ok (.vbfi (bitAt 22 w) (bitAt 21 w) (bitsAt 14 7 w) (bitsAt 7 7 w) (bitsAt 0 7 w))
  | 27 => .ok (.vsel (bitAt 22 w) (bitAt 21 w) (bitsAt 14 7 w) (bitsAt 7 7 w) (bitsAt 0 7 w))
  | 28 =>
    if fix 0 7 0 w && fix 21 1 0 w then .ok (.vpopc (bitAt 22 w) (bitsAt 14 7 w) (bitsAt 7 7 w))
    else if fix 0 7 1 w && fix 21 1 0 w then .ok (.vclz (bitAt 22 w) (bitsAt 14 7 w) (bitsAt 7 7 w))
    else if fix 0 7 2 w && fix 21 1 0 w then .ok (.vctz (bitAt 22 w) (bitsAt 14 7 w) (bitsAt 7 7 w))
    else if fix 0 7 3 w && fix 21 1 0 w then .ok (.vbrev (bitAt 22 w) (bitsAt 14 7 w) (bitsAt 7 7 w))
    else if fix 0 7 4 w && fix 21 1 0 w then .ok (.vnot (bitAt 22 w) (bitsAt 14 7 w) (bitsAt 7 7 w))
    else if fix 0 7 5 w && fix 21 1 0 w then .ok (.vabs (bitAt 22 w) (bitsAt 14 7 w) (bitsAt 7 7 w))
    else if fix 0 7 6 w && fix 21 1 0 w then .ok (.vneg (bitAt 22 w) (bitsAt 14 7 w) (bitsAt 7 7 w))
    else if fix 0 7 7 w && fix 21 1 0 w then .ok (.vsx8 (bitAt 22 w) (bitsAt 14 7 w) (bitsAt 7 7 w))
    else if fix 0 7 8 w && fix 21 1 0 w then .ok (.vsx16 (bitAt 22 w) (bitsAt 14 7 w) (bitsAt 7 7 w))
    else if fix 0 7 9 w && fix 21 1 0 w then .ok (.vzx8 (bitAt 22 w) (bitsAt 14 7 w) (bitsAt 7 7 w))
    else if fix 0 7 10 w && fix 21 1 0 w then .ok (.vzx16 (bitAt 22 w) (bitsAt 14 7 w) (bitsAt 7 7 w))
    else .error .reserved
  | 29 => take (fix 0 7 0 w && fix 21 1 0 w) (.vmov (bitAt 22 w) (bitsAt 14 7 w) (bitsAt 7 7 w))
  | 30 => .ok (.vcmpeq (bitAt 22 w) (bitAt 21 w) (bitsAt 14 7 w) (bitsAt 7 7 w) (bitsAt 0 7 w))
  | 31 => .ok (.vcmplts (bitAt 22 w) (bitAt 21 w) (bitsAt 14 7 w) (bitsAt 7 7 w) (bitsAt 0 7 w))
  | 32 => .ok (.vcmpltu (bitAt 22 w) (bitAt 21 w) (bitsAt 14 7 w) (bitsAt 7 7 w) (bitsAt 0 7 w))
  | 33 => .ok (.vcmples (bitAt 22 w) (bitAt 21 w) (bitsAt 14 7 w) (bitsAt 7 7 w) (bitsAt 0 7 w))
  | 34 => .ok (.vcmpleu (bitAt 22 w) (bitAt 21 w) (bitsAt 14 7 w) (bitsAt 7 7 w) (bitsAt 0 7 w))
  | 35 => .ok (.vshfl (bitAt 22 w) (bitAt 21 w) (bitsAt 14 7 w) (bitsAt 7 7 w) (bitsAt 0 7 w))
  | 36 => .ok (.vshflx (bitAt 22 w) (bitAt 21 w) (bitsAt 14 7 w) (bitsAt 7 7 w) (bitsAt 0 7 w))
  | 37 => .ok (.vshflup (bitAt 22 w) (bitAt 21 w) (bitsAt 14 7 w) (bitsAt 7 7 w) (bitsAt 0 7 w))
  | 38 => .ok (.vshfldn (bitAt 22 w) (bitAt 21 w) (bitsAt 14 7 w) (bitsAt 7 7 w) (bitsAt 0 7 w))
  | 39 => .ok (.vrdlane (bitAt 22 w) (bitAt 21 w) (bitsAt 14 7 w) (bitsAt 7 7 w) (bitsAt 0 7 w))
  | 40 => .ok (.vwrlane (bitAt 22 w) (bitAt 21 w) (bitsAt 14 7 w) (bitsAt 7 7 w) (bitsAt 0 7 w))
  | 41 => take (fix 0 7 0 w && fix 21 1 0 w) (.vredadd (bitAt 22 w) (bitsAt 14 7 w) (bitsAt 7 7 w))
  | 42 => take (fix 0 7 0 w && fix 21 1 0 w) (.vredmins (bitAt 22 w) (bitsAt 14 7 w) (bitsAt 7 7 w))
  | 43 => take (fix 0 7 0 w && fix 21 1 0 w) (.vredmaxs (bitAt 22 w) (bitsAt 14 7 w) (bitsAt 7 7 w))
  | 44 => take (fix 0 7 0 w && fix 21 1 0 w) (.vredand (bitAt 22 w) (bitsAt 14 7 w) (bitsAt 7 7 w))
  | 45 => take (fix 0 7 0 w && fix 21 1 0 w) (.vredor (bitAt 22 w) (bitsAt 14 7 w) (bitsAt 7 7 w))
  | 46 => take (fix 0 7 0 w && fix 21 1 0 w) (.vscanadd (bitAt 22 w) (bitsAt 14 7 w) (bitsAt 7 7 w))
  | 47 => take (fix 0 7 0 w && fix 21 1 0 w) (.vballot (bitAt 22 w) (bitsAt 14 7 w) (bitsAt 7 7 w))
  | 48 => .ok (.vaddi (bitsAt 16 7 w) (bitsAt 9 7 w) (bitsAt 0 9 w))
  | 49 => .ok (.vmuli (bitsAt 16 7 w) (bitsAt 9 7 w) (bitsAt 0 9 w))
  | 50 => .ok (.vandi (bitsAt 16 7 w) (bitsAt 9 7 w) (bitsAt 0 9 w))
  | 51 => .ok (.vori (bitsAt 16 7 w) (bitsAt 9 7 w) (bitsAt 0 9 w))
  | 52 => .ok (.vxori (bitsAt 16 7 w) (bitsAt 9 7 w) (bitsAt 0 9 w))
  | 53 => .ok (.vshli (bitsAt 16 7 w) (bitsAt 9 7 w) (bitsAt 0 9 w))
  | 54 => .ok (.vshrui (bitsAt 16 7 w) (bitsAt 9 7 w) (bitsAt 0 9 w))
  | 55 => .ok (.vshrsi (bitsAt 16 7 w) (bitsAt 9 7 w) (bitsAt 0 9 w))
  | 56 => .ok (.vcmpeqi (bitsAt 16 7 w) (bitsAt 9 7 w) (bitsAt 0 9 w))
  | 57 => .ok (.vcmpltsi (bitsAt 16 7 w) (bitsAt 9 7 w) (bitsAt 0 9 w))
  | 58 => .ok (.vcmpltui (bitsAt 16 7 w) (bitsAt 9 7 w) (bitsAt 0 9 w))
  | 64 => .ok (.vfadd .f32 (bitAt 22 w) (bitAt 21 w) (bitsAt 14 7 w) (bitsAt 7 7 w) (bitsAt 0 7 w))
  | 65 => .ok (.vfadd .f64 (bitAt 22 w) (bitAt 21 w) (bitsAt 14 7 w) (bitsAt 7 7 w) (bitsAt 0 7 w))
  | 66 => .ok (.vfadd .f16x2 (bitAt 22 w) (bitAt 21 w) (bitsAt 14 7 w) (bitsAt 7 7 w) (bitsAt 0 7 w))
  | 67 => .ok (.vfadd .bf16x2 (bitAt 22 w) (bitAt 21 w) (bitsAt 14 7 w) (bitsAt 7 7 w) (bitsAt 0 7 w))
  | 68 => .ok (.vfsub .f32 (bitAt 22 w) (bitAt 21 w) (bitsAt 14 7 w) (bitsAt 7 7 w) (bitsAt 0 7 w))
  | 69 => .ok (.vfsub .f64 (bitAt 22 w) (bitAt 21 w) (bitsAt 14 7 w) (bitsAt 7 7 w) (bitsAt 0 7 w))
  | 70 => .ok (.vfsub .f16x2 (bitAt 22 w) (bitAt 21 w) (bitsAt 14 7 w) (bitsAt 7 7 w) (bitsAt 0 7 w))
  | 71 => .ok (.vfsub .bf16x2 (bitAt 22 w) (bitAt 21 w) (bitsAt 14 7 w) (bitsAt 7 7 w) (bitsAt 0 7 w))
  | 72 => .ok (.vfmul .f32 (bitAt 22 w) (bitAt 21 w) (bitsAt 14 7 w) (bitsAt 7 7 w) (bitsAt 0 7 w))
  | 73 => .ok (.vfmul .f64 (bitAt 22 w) (bitAt 21 w) (bitsAt 14 7 w) (bitsAt 7 7 w) (bitsAt 0 7 w))
  | 74 => .ok (.vfmul .f16x2 (bitAt 22 w) (bitAt 21 w) (bitsAt 14 7 w) (bitsAt 7 7 w) (bitsAt 0 7 w))
  | 75 => .ok (.vfmul .bf16x2 (bitAt 22 w) (bitAt 21 w) (bitsAt 14 7 w) (bitsAt 7 7 w) (bitsAt 0 7 w))
  | 76 => .ok (.vffma .f32 (bitAt 22 w) (bitAt 21 w) (bitsAt 14 7 w) (bitsAt 7 7 w) (bitsAt 0 7 w))
  | 77 => .ok (.vffma .f64 (bitAt 22 w) (bitAt 21 w) (bitsAt 14 7 w) (bitsAt 7 7 w) (bitsAt 0 7 w))
  | 78 => .ok (.vffma .f16x2 (bitAt 22 w) (bitAt 21 w) (bitsAt 14 7 w) (bitsAt 7 7 w) (bitsAt 0 7 w))
  | 79 => .ok (.vffma .bf16x2 (bitAt 22 w) (bitAt 21 w) (bitsAt 14 7 w) (bitsAt 7 7 w) (bitsAt 0 7 w))
  | 80 => .ok (.vffms .f32 (bitAt 22 w) (bitAt 21 w) (bitsAt 14 7 w) (bitsAt 7 7 w) (bitsAt 0 7 w))
  | 81 => .ok (.vffms .f64 (bitAt 22 w) (bitAt 21 w) (bitsAt 14 7 w) (bitsAt 7 7 w) (bitsAt 0 7 w))
  | 82 => .ok (.vffms .f16x2 (bitAt 22 w) (bitAt 21 w) (bitsAt 14 7 w) (bitsAt 7 7 w) (bitsAt 0 7 w))
  | 83 => .ok (.vffms .bf16x2 (bitAt 22 w) (bitAt 21 w) (bitsAt 14 7 w) (bitsAt 7 7 w) (bitsAt 0 7 w))
  | 84 => .ok (.vfmin .f32 (bitAt 22 w) (bitAt 21 w) (bitsAt 14 7 w) (bitsAt 7 7 w) (bitsAt 0 7 w))
  | 85 => .ok (.vfmin .f64 (bitAt 22 w) (bitAt 21 w) (bitsAt 14 7 w) (bitsAt 7 7 w) (bitsAt 0 7 w))
  | 86 => .ok (.vfmin .f16x2 (bitAt 22 w) (bitAt 21 w) (bitsAt 14 7 w) (bitsAt 7 7 w) (bitsAt 0 7 w))
  | 87 => .ok (.vfmin .bf16x2 (bitAt 22 w) (bitAt 21 w) (bitsAt 14 7 w) (bitsAt 7 7 w) (bitsAt 0 7 w))
  | 88 => .ok (.vfmax .f32 (bitAt 22 w) (bitAt 21 w) (bitsAt 14 7 w) (bitsAt 7 7 w) (bitsAt 0 7 w))
  | 89 => .ok (.vfmax .f64 (bitAt 22 w) (bitAt 21 w) (bitsAt 14 7 w) (bitsAt 7 7 w) (bitsAt 0 7 w))
  | 90 => .ok (.vfmax .f16x2 (bitAt 22 w) (bitAt 21 w) (bitsAt 14 7 w) (bitsAt 7 7 w) (bitsAt 0 7 w))
  | 91 => .ok (.vfmax .bf16x2 (bitAt 22 w) (bitAt 21 w) (bitsAt 14 7 w) (bitsAt 7 7 w) (bitsAt 0 7 w))
  | 92 => .ok (.vfcmpeq .f32 (bitAt 22 w) (bitAt 21 w) (bitsAt 14 7 w) (bitsAt 7 7 w) (bitsAt 0 7 w))
  | 93 => .ok (.vfcmpeq .f64 (bitAt 22 w) (bitAt 21 w) (bitsAt 14 7 w) (bitsAt 7 7 w) (bitsAt 0 7 w))
  | 94 => .ok (.vfcmpeq .f16x2 (bitAt 22 w) (bitAt 21 w) (bitsAt 14 7 w) (bitsAt 7 7 w) (bitsAt 0 7 w))
  | 95 => .ok (.vfcmpeq .bf16x2 (bitAt 22 w) (bitAt 21 w) (bitsAt 14 7 w) (bitsAt 7 7 w) (bitsAt 0 7 w))
  | 96 => .ok (.vfcmplt .f32 (bitAt 22 w) (bitAt 21 w) (bitsAt 14 7 w) (bitsAt 7 7 w) (bitsAt 0 7 w))
  | 97 => .ok (.vfcmplt .f64 (bitAt 22 w) (bitAt 21 w) (bitsAt 14 7 w) (bitsAt 7 7 w) (bitsAt 0 7 w))
  | 98 => .ok (.vfcmplt .f16x2 (bitAt 22 w) (bitAt 21 w) (bitsAt 14 7 w) (bitsAt 7 7 w) (bitsAt 0 7 w))
  | 99 => .ok (.vfcmplt .bf16x2 (bitAt 22 w) (bitAt 21 w) (bitsAt 14 7 w) (bitsAt 7 7 w) (bitsAt 0 7 w))
  | 100 => .ok (.vfcmple .f32 (bitAt 22 w) (bitAt 21 w) (bitsAt 14 7 w) (bitsAt 7 7 w) (bitsAt 0 7 w))
  | 101 => .ok (.vfcmple .f64 (bitAt 22 w) (bitAt 21 w) (bitsAt 14 7 w) (bitsAt 7 7 w) (bitsAt 0 7 w))
  | 102 => .ok (.vfcmple .f16x2 (bitAt 22 w) (bitAt 21 w) (bitsAt 14 7 w) (bitsAt 7 7 w) (bitsAt 0 7 w))
  | 103 => .ok (.vfcmple .bf16x2 (bitAt 22 w) (bitAt 21 w) (bitsAt 14 7 w) (bitsAt 7 7 w) (bitsAt 0 7 w))
  | 104 => .ok (.vfcmpun .f32 (bitAt 22 w) (bitAt 21 w) (bitsAt 14 7 w) (bitsAt 7 7 w) (bitsAt 0 7 w))
  | 105 => .ok (.vfcmpun .f64 (bitAt 22 w) (bitAt 21 w) (bitsAt 14 7 w) (bitsAt 7 7 w) (bitsAt 0 7 w))
  | 106 => .ok (.vfcmpun .f16x2 (bitAt 22 w) (bitAt 21 w) (bitsAt 14 7 w) (bitsAt 7 7 w) (bitsAt 0 7 w))
  | 107 => .ok (.vfcmpun .bf16x2 (bitAt 22 w) (bitAt 21 w) (bitsAt 14 7 w) (bitsAt 7 7 w) (bitsAt 0 7 w))
  | 108 =>
    if fix 0 7 0 w && fix 21 1 0 w then .ok (.vfsqrt .f32 (bitAt 22 w) (bitsAt 14 7 w) (bitsAt 7 7 w))
    else if fix 0 7 1 w && fix 21 1 0 w then .ok (.vfrsq .f32 (bitAt 22 w) (bitsAt 14 7 w) (bitsAt 7 7 w))
    else if fix 0 7 2 w && fix 21 1 0 w then .ok (.vfrcp .f32 (bitAt 22 w) (bitsAt 14 7 w) (bitsAt 7 7 w))
    else if fix 0 7 3 w && fix 21 1 0 w then .ok (.vfexp2 .f32 (bitAt 22 w) (bitsAt 14 7 w) (bitsAt 7 7 w))
    else if fix 0 7 4 w && fix 21 1 0 w then .ok (.vflog2 .f32 (bitAt 22 w) (bitsAt 14 7 w) (bitsAt 7 7 w))
    else if fix 0 7 5 w && fix 21 1 0 w then .ok (.vfsinpi .f32 (bitAt 22 w) (bitsAt 14 7 w) (bitsAt 7 7 w))
    else if fix 0 7 6 w && fix 21 1 0 w then .ok (.vfcospi .f32 (bitAt 22 w) (bitsAt 14 7 w) (bitsAt 7 7 w))
    else if fix 0 7 7 w && fix 21 1 0 w then .ok (.vftanh .f32 (bitAt 22 w) (bitsAt 14 7 w) (bitsAt 7 7 w))
    else if fix 0 7 8 w && fix 21 1 0 w then .ok (.vfabs .f32 (bitAt 22 w) (bitsAt 14 7 w) (bitsAt 7 7 w))
    else if fix 0 7 9 w && fix 21 1 0 w then .ok (.vfneg .f32 (bitAt 22 w) (bitsAt 14 7 w) (bitsAt 7 7 w))
    else if fix 0 7 10 w && fix 21 1 0 w then .ok (.vffloor .f32 (bitAt 22 w) (bitsAt 14 7 w) (bitsAt 7 7 w))
    else if fix 0 7 11 w && fix 21 1 0 w then .ok (.vfceil .f32 (bitAt 22 w) (bitsAt 14 7 w) (bitsAt 7 7 w))
    else if fix 0 7 12 w && fix 21 1 0 w then .ok (.vftrunc .f32 (bitAt 22 w) (bitsAt 14 7 w) (bitsAt 7 7 w))
    else if fix 0 7 13 w && fix 21 1 0 w then .ok (.vfrne .f32 (bitAt 22 w) (bitsAt 14 7 w) (bitsAt 7 7 w))
    else if fix 0 7 14 w && fix 21 1 0 w then .ok (.vffrac .f32 (bitAt 22 w) (bitsAt 14 7 w) (bitsAt 7 7 w))
    else if fix 0 7 15 w && fix 21 1 0 w then .ok (.vfclass .f32 (bitAt 22 w) (bitsAt 14 7 w) (bitsAt 7 7 w))
    else .error .reserved
  | 109 =>
    if fix 0 7 0 w && fix 21 1 0 w then .ok (.vfsqrt .f64 (bitAt 22 w) (bitsAt 14 7 w) (bitsAt 7 7 w))
    else if fix 0 7 1 w && fix 21 1 0 w then .ok (.vfrsq .f64 (bitAt 22 w) (bitsAt 14 7 w) (bitsAt 7 7 w))
    else if fix 0 7 2 w && fix 21 1 0 w then .ok (.vfrcp .f64 (bitAt 22 w) (bitsAt 14 7 w) (bitsAt 7 7 w))
    else if fix 0 7 3 w && fix 21 1 0 w then .ok (.vfexp2 .f64 (bitAt 22 w) (bitsAt 14 7 w) (bitsAt 7 7 w))
    else if fix 0 7 4 w && fix 21 1 0 w then .ok (.vflog2 .f64 (bitAt 22 w) (bitsAt 14 7 w) (bitsAt 7 7 w))
    else if fix 0 7 5 w && fix 21 1 0 w then .ok (.vfsinpi .f64 (bitAt 22 w) (bitsAt 14 7 w) (bitsAt 7 7 w))
    else if fix 0 7 6 w && fix 21 1 0 w then .ok (.vfcospi .f64 (bitAt 22 w) (bitsAt 14 7 w) (bitsAt 7 7 w))
    else if fix 0 7 7 w && fix 21 1 0 w then .ok (.vftanh .f64 (bitAt 22 w) (bitsAt 14 7 w) (bitsAt 7 7 w))
    else if fix 0 7 8 w && fix 21 1 0 w then .ok (.vfabs .f64 (bitAt 22 w) (bitsAt 14 7 w) (bitsAt 7 7 w))
    else if fix 0 7 9 w && fix 21 1 0 w then .ok (.vfneg .f64 (bitAt 22 w) (bitsAt 14 7 w) (bitsAt 7 7 w))
    else if fix 0 7 10 w && fix 21 1 0 w then .ok (.vffloor .f64 (bitAt 22 w) (bitsAt 14 7 w) (bitsAt 7 7 w))
    else if fix 0 7 11 w && fix 21 1 0 w then .ok (.vfceil .f64 (bitAt 22 w) (bitsAt 14 7 w) (bitsAt 7 7 w))
    else if fix 0 7 12 w && fix 21 1 0 w then .ok (.vftrunc .f64 (bitAt 22 w) (bitsAt 14 7 w) (bitsAt 7 7 w))
    else if fix 0 7 13 w && fix 21 1 0 w then .ok (.vfrne .f64 (bitAt 22 w) (bitsAt 14 7 w) (bitsAt 7 7 w))
    else if fix 0 7 14 w && fix 21 1 0 w then .ok (.vffrac .f64 (bitAt 22 w) (bitsAt 14 7 w) (bitsAt 7 7 w))
    else if fix 0 7 15 w && fix 21 1 0 w then .ok (.vfclass .f64 (bitAt 22 w) (bitsAt 14 7 w) (bitsAt 7 7 w))
    else .error .reserved
  | 110 =>
    if fix 0 7 0 w && fix 21 1 0 w then .ok (.vfsqrt .f16x2 (bitAt 22 w) (bitsAt 14 7 w) (bitsAt 7 7 w))
    else if fix 0 7 1 w && fix 21 1 0 w then .ok (.vfrsq .f16x2 (bitAt 22 w) (bitsAt 14 7 w) (bitsAt 7 7 w))
    else if fix 0 7 2 w && fix 21 1 0 w then .ok (.vfrcp .f16x2 (bitAt 22 w) (bitsAt 14 7 w) (bitsAt 7 7 w))
    else if fix 0 7 3 w && fix 21 1 0 w then .ok (.vfexp2 .f16x2 (bitAt 22 w) (bitsAt 14 7 w) (bitsAt 7 7 w))
    else if fix 0 7 4 w && fix 21 1 0 w then .ok (.vflog2 .f16x2 (bitAt 22 w) (bitsAt 14 7 w) (bitsAt 7 7 w))
    else if fix 0 7 5 w && fix 21 1 0 w then .ok (.vfsinpi .f16x2 (bitAt 22 w) (bitsAt 14 7 w) (bitsAt 7 7 w))
    else if fix 0 7 6 w && fix 21 1 0 w then .ok (.vfcospi .f16x2 (bitAt 22 w) (bitsAt 14 7 w) (bitsAt 7 7 w))
    else if fix 0 7 7 w && fix 21 1 0 w then .ok (.vftanh .f16x2 (bitAt 22 w) (bitsAt 14 7 w) (bitsAt 7 7 w))
    else if fix 0 7 8 w && fix 21 1 0 w then .ok (.vfabs .f16x2 (bitAt 22 w) (bitsAt 14 7 w) (bitsAt 7 7 w))
    else if fix 0 7 9 w && fix 21 1 0 w then .ok (.vfneg .f16x2 (bitAt 22 w) (bitsAt 14 7 w) (bitsAt 7 7 w))
    else if fix 0 7 10 w && fix 21 1 0 w then .ok (.vffloor .f16x2 (bitAt 22 w) (bitsAt 14 7 w) (bitsAt 7 7 w))
    else if fix 0 7 11 w && fix 21 1 0 w then .ok (.vfceil .f16x2 (bitAt 22 w) (bitsAt 14 7 w) (bitsAt 7 7 w))
    else if fix 0 7 12 w && fix 21 1 0 w then .ok (.vftrunc .f16x2 (bitAt 22 w) (bitsAt 14 7 w) (bitsAt 7 7 w))
    else if fix 0 7 13 w && fix 21 1 0 w then .ok (.vfrne .f16x2 (bitAt 22 w) (bitsAt 14 7 w) (bitsAt 7 7 w))
    else if fix 0 7 14 w && fix 21 1 0 w then .ok (.vffrac .f16x2 (bitAt 22 w) (bitsAt 14 7 w) (bitsAt 7 7 w))
    else if fix 0 7 15 w && fix 21 1 0 w then .ok (.vfclass .f16x2 (bitAt 22 w) (bitsAt 14 7 w) (bitsAt 7 7 w))
    else .error .reserved
  | 111 =>
    if fix 0 7 0 w && fix 21 1 0 w then .ok (.vfsqrt .bf16x2 (bitAt 22 w) (bitsAt 14 7 w) (bitsAt 7 7 w))
    else if fix 0 7 1 w && fix 21 1 0 w then .ok (.vfrsq .bf16x2 (bitAt 22 w) (bitsAt 14 7 w) (bitsAt 7 7 w))
    else if fix 0 7 2 w && fix 21 1 0 w then .ok (.vfrcp .bf16x2 (bitAt 22 w) (bitsAt 14 7 w) (bitsAt 7 7 w))
    else if fix 0 7 3 w && fix 21 1 0 w then .ok (.vfexp2 .bf16x2 (bitAt 22 w) (bitsAt 14 7 w) (bitsAt 7 7 w))
    else if fix 0 7 4 w && fix 21 1 0 w then .ok (.vflog2 .bf16x2 (bitAt 22 w) (bitsAt 14 7 w) (bitsAt 7 7 w))
    else if fix 0 7 5 w && fix 21 1 0 w then .ok (.vfsinpi .bf16x2 (bitAt 22 w) (bitsAt 14 7 w) (bitsAt 7 7 w))
    else if fix 0 7 6 w && fix 21 1 0 w then .ok (.vfcospi .bf16x2 (bitAt 22 w) (bitsAt 14 7 w) (bitsAt 7 7 w))
    else if fix 0 7 7 w && fix 21 1 0 w then .ok (.vftanh .bf16x2 (bitAt 22 w) (bitsAt 14 7 w) (bitsAt 7 7 w))
    else if fix 0 7 8 w && fix 21 1 0 w then .ok (.vfabs .bf16x2 (bitAt 22 w) (bitsAt 14 7 w) (bitsAt 7 7 w))
    else if fix 0 7 9 w && fix 21 1 0 w then .ok (.vfneg .bf16x2 (bitAt 22 w) (bitsAt 14 7 w) (bitsAt 7 7 w))
    else if fix 0 7 10 w && fix 21 1 0 w then .ok (.vffloor .bf16x2 (bitAt 22 w) (bitsAt 14 7 w) (bitsAt 7 7 w))
    else if fix 0 7 11 w && fix 21 1 0 w then .ok (.vfceil .bf16x2 (bitAt 22 w) (bitsAt 14 7 w) (bitsAt 7 7 w))
    else if fix 0 7 12 w && fix 21 1 0 w then .ok (.vftrunc .bf16x2 (bitAt 22 w) (bitsAt 14 7 w) (bitsAt 7 7 w))
    else if fix 0 7 13 w && fix 21 1 0 w then .ok (.vfrne .bf16x2 (bitAt 22 w) (bitsAt 14 7 w) (bitsAt 7 7 w))
    else if fix 0 7 14 w && fix 21 1 0 w then .ok (.vffrac .bf16x2 (bitAt 22 w) (bitsAt 14 7 w) (bitsAt 7 7 w))
    else if fix 0 7 15 w && fix 21 1 0 w then .ok (.vfclass .bf16x2 (bitAt 22 w) (bitsAt 14 7 w) (bitsAt 7 7 w))
    else .error .reserved
  | 112 => take (fix 21 1 0 w) (.vcvt (bitAt 22 w) (bitsAt 14 7 w) (bitsAt 7 7 w) (bitsAt 0 7 w))
  | 113 => take (fix 21 1 0 w) (.vcvts (bitAt 22 w) (bitsAt 14 7 w) (bitsAt 7 7 w) (bitsAt 0 7 w))
  | 114 => .ok (.vpackF16 (bitAt 22 w) (bitAt 21 w) (bitsAt 14 7 w) (bitsAt 7 7 w) (bitsAt 0 7 w))
  | 115 => .ok (.vpackBf16 (bitAt 22 w) (bitAt 21 w) (bitsAt 14 7 w) (bitsAt 7 7 w) (bitsAt 0 7 w))
  | 116 => .ok (.vfscaleF32 (bitAt 22 w) (bitAt 21 w) (bitsAt 14 7 w) (bitsAt 7 7 w) (bitsAt 0 7 w))
  | 117 => .ok (.vfscaleF64 (bitAt 22 w) (bitAt 21 w) (bitsAt 14 7 w) (bitsAt 7 7 w) (bitsAt 0 7 w))
  | 118 => .ok (.vfdot2F16 (bitAt 22 w) (bitAt 21 w) (bitsAt 14 7 w) (bitsAt 7 7 w) (bitsAt 0 7 w))
  | 119 => .ok (.vfdot2Bf16 (bitAt 22 w) (bitAt 21 w) (bitsAt 14 7 w) (bitsAt 7 7 w) (bitsAt 0 7 w))
  | _ => .error .reserved

/-- Class 0b01: the opcode in bits [29:23] chooses the row (03 R56). -/
def decodeScalar (op : Nat) (w : BitVec 32) : Except DecodeFault Instr :=
  match op with
  | 0 => .ok (.sadd (bitAt 22 w) (bitAt 21 w) (bitsAt 14 7 w) (bitsAt 7 7 w) (bitsAt 0 7 w))
  | 1 => .ok (.ssub (bitAt 22 w) (bitAt 21 w) (bitsAt 14 7 w) (bitsAt 7 7 w) (bitsAt 0 7 w))
  | 2 => .ok (.smul (bitAt 22 w) (bitAt 21 w) (bitsAt 14 7 w) (bitsAt 7 7 w) (bitsAt 0 7 w))
  | 3 => .ok (.smulhu (bitAt 22 w) (bitAt 21 w) (bitsAt 14 7 w) (bitsAt 7 7 w) (bitsAt 0 7 w))
  | 4 => .ok (.smulhs (bitAt 22 w) (bitAt 21 w) (bitsAt 14 7 w) (bitsAt 7 7 w) (bitsAt 0 7 w))
  | 5 => .ok (.sdivu (bitAt 22 w) (bitAt 21 w) (bitsAt 14 7 w) (bitsAt 7 7 w) (bitsAt 0 7 w))
  | 6 => .ok (.sdivs (bitAt 22 w) (bitAt 21 w) (bitsAt 14 7 w) (bitsAt 7 7 w) (bitsAt 0 7 w))
  | 7 => .ok (.sremu (bitAt 22 w) (bitAt 21 w) (bitsAt 14 7 w) (bitsAt 7 7 w) (bitsAt 0 7 w))
  | 8 => .ok (.srems (bitAt 22 w) (bitAt 21 w) (bitsAt 14 7 w) (bitsAt 7 7 w) (bitsAt 0 7 w))
  | 9 => .ok (.smins (bitAt 22 w) (bitAt 21 w) (bitsAt 14 7 w) (bitsAt 7 7 w) (bitsAt 0 7 w))
  | 10 => .ok (.sminu (bitAt 22 w) (bitAt 21 w) (bitsAt 14 7 w) (bitsAt 7 7 w) (bitsAt 0 7 w))
  | 11 => .ok (.smaxs (bitAt 22 w) (bitAt 21 w) (bitsAt 14 7 w) (bitsAt 7 7 w) (bitsAt 0 7 w))
  | 12 => .ok (.smaxu (bitAt 22 w) (bitAt 21 w) (bitsAt 14 7 w) (bitsAt 7 7 w) (bitsAt 0 7 w))
  | 13 => .ok (.sand (bitAt 22 w) (bitAt 21 w) (bitsAt 14 7 w) (bitsAt 7 7 w) (bitsAt 0 7 w))
  | 14 => .ok (.sor (bitAt 22 w) (bitAt 21 w) (bitsAt 14 7 w) (bitsAt 7 7 w) (bitsAt 0 7 w))
  | 15 => .ok (.sxor (bitAt 22 w) (bitAt 21 w) (bitsAt 14 7 w) (bitsAt 7 7 w) (bitsAt 0 7 w))
  | 16 => .ok (.sandn (bitAt 22 w) (bitAt 21 w) (bitsAt 14 7 w) (bitsAt 7 7 w) (bitsAt 0 7 w))
  | 17 => .ok (.sshl (bitAt 22 w) (bitAt 21 w) (bitsAt 14 7 w) (bitsAt 7 7 w) (bitsAt 0 7 w))
  | 18 => .ok (.sshru (bitAt 22 w) (bitAt 21 w) (bitsAt 14 7 w) (bitsAt 7 7 w) (bitsAt 0 7 w))
  | 19 => .ok (.sshrs (bitAt 22 w) (bitAt 21 w) (bitsAt 14 7 w) (bitsAt 7 7 w) (bitsAt 0 7 w))
  | 20 => .ok (.sbfe (bitAt 22 w) (bitAt 21 w) (bitsAt 14 7 w) (bitsAt 7 7 w) (bitsAt 0 7 w))
  | 21 => .ok (.sbfi (bitAt 22 w) (bitAt 21 w) (bitsAt 14 7 w) (bitsAt 7 7 w) (bitsAt 0 7 w))
  | 22 =>
    if fix 0 7 0 w && fix 21 1 0 w then .ok (.spopc (bitAt 22 w) (bitsAt 14 7 w) (bitsAt 7 7 w))
    else if fix 0 7 1 w && fix 21 1 0 w then .ok (.sclz (bitAt 22 w) (bitsAt 14 7 w) (bitsAt 7 7 w))
    else if fix 0 7 2 w && fix 21 1 0 w then .ok (.sctz (bitAt 22 w) (bitsAt 14 7 w) (bitsAt 7 7 w))
    else if fix 0 7 3 w && fix 21 1 0 w then .ok (.sbrev (bitAt 22 w) (bitsAt 14 7 w) (bitsAt 7 7 w))
    else if fix 0 7 4 w && fix 21 1 0 w then .ok (.snot (bitAt 22 w) (bitsAt 14 7 w) (bitsAt 7 7 w))
    else if fix 0 7 5 w && fix 21 1 0 w then .ok (.sneg (bitAt 22 w) (bitsAt 14 7 w) (bitsAt 7 7 w))
    else if fix 0 7 6 w && fix 21 1 0 w then .ok (.ssx32 (bitAt 22 w) (bitsAt 14 7 w) (bitsAt 7 7 w))
    else if fix 0 7 7 w && fix 21 1 0 w then .ok (.szx32 (bitAt 22 w) (bitsAt 14 7 w) (bitsAt 7 7 w))
    else .error .reserved
  | 23 => take (fix 0 7 0 w && fix 21 1 0 w) (.smov (bitAt 22 w) (bitsAt 14 7 w) (bitsAt 7 7 w))
  | 24 => .ok (.scmpeq (bitAt 22 w) (bitAt 21 w) (bitsAt 14 7 w) (bitsAt 7 7 w) (bitsAt 0 7 w))
  | 25 => .ok (.scmplts (bitAt 22 w) (bitAt 21 w) (bitsAt 14 7 w) (bitsAt 7 7 w) (bitsAt 0 7 w))
  | 26 => .ok (.scmpltu (bitAt 22 w) (bitAt 21 w) (bitsAt 14 7 w) (bitsAt 7 7 w) (bitsAt 0 7 w))
  | 27 => .ok (.scmples (bitAt 22 w) (bitAt 21 w) (bitsAt 14 7 w) (bitsAt 7 7 w) (bitsAt 0 7 w))
  | 28 => .ok (.scmpleu (bitAt 22 w) (bitAt 21 w) (bitsAt 14 7 w) (bitsAt 7 7 w) (bitsAt 0 7 w))
  | 29 => .ok (.ssel (bitAt 22 w) (bitAt 21 w) (bitsAt 14 7 w) (bitsAt 7 7 w) (bitsAt 0 7 w))
  | 30 => take (fix 0 7 0 w && fix 21 2 0 w) (.sgetst (bitsAt 14 7 w) (bitsAt 7 7 w))
  | 31 => take (fix 14 7 0 w) (.ssetst (bitAt 22 w) (bitAt 21 w) (bitsAt 7 7 w) (bitsAt 0 7 w))
  | 32 => .ok (.sfadd (bitAt 22 w) (bitAt 21 w) (bitsAt 14 7 w) (bitsAt 7 7 w) (bitsAt 0 7 w))
  | 33 => .ok (.sfsub (bitAt 22 w) (bitAt 21 w) (bitsAt 14 7 w) (bitsAt 7 7 w) (bitsAt 0 7 w))
  | 34 => .ok (.sfmul (bitAt 22 w) (bitAt 21 w) (bitsAt 14 7 w) (bitsAt 7 7 w) (bitsAt 0 7 w))
  | 35 => .ok (.sffma (bitAt 22 w) (bitAt 21 w) (bitsAt 14 7 w) (bitsAt 7 7 w) (bitsAt 0 7 w))
  | 36 => .ok (.sfcmplt (bitAt 22 w) (bitAt 21 w) (bitsAt 14 7 w) (bitsAt 7 7 w) (bitsAt 0 7 w))
  | 37 => take (fix 21 1 0 w) (.sfcvt (bitAt 22 w) (bitsAt 14 7 w) (bitsAt 7 7 w) (bitsAt 0 7 w))
  | 38 => .ok (.saddi (bitsAt 16 7 w) (bitsAt 9 7 w) (bitsAt 0 9 w))
  | 39 => .ok (.sandi (bitsAt 16 7 w) (bitsAt 9 7 w) (bitsAt 0 9 w))
  | 40 => .ok (.sori (bitsAt 16 7 w) (bitsAt 9 7 w) (bitsAt 0 9 w))
  | 41 => .ok (.sxori (bitsAt 16 7 w) (bitsAt 9 7 w) (bitsAt 0 9 w))
  | 42 => .ok (.sshli (bitsAt 16 7 w) (bitsAt 9 7 w) (bitsAt 0 9 w))
  | 43 => .ok (.sshrui (bitsAt 16 7 w) (bitsAt 9 7 w) (bitsAt 0 9 w))
  | 44 => .ok (.sshrsi (bitsAt 16 7 w) (bitsAt 9 7 w) (bitsAt 0 9 w))
  | 45 => .ok (.scmpeqi (bitsAt 16 7 w) (bitsAt 9 7 w) (bitsAt 0 9 w))
  | 46 => .ok (.scmpltsi (bitsAt 16 7 w) (bitsAt 9 7 w) (bitsAt 0 9 w))
  | 47 => .ok (.scmpltui (bitsAt 16 7 w) (bitsAt 9 7 w) (bitsAt 0 9 w))
  | 64 => take (fix 16 7 0 w) (.bri (bitsAt 9 7 w) (bitsAt 0 9 w))
  | 65 => take (fix 0 7 0 w && fix 14 8 0 w) (.jr (bitAt 22 w) (bitsAt 7 7 w))
  | 66 => take (fix 0 7 0 w && fix 14 8 0 w) (.callr (bitAt 22 w) (bitsAt 7 7 w))
  | 67 => take (fix 0 23 0 w) (.exit)
  | 68 => take (fix 16 7 0 w) (.exitto (bitsAt 9 7 w) (bitsAt 0 9 w))
  | 69 => take (fix 0 9 0 w) (.spawn (bitsAt 16 7 w) (bitsAt 9 7 w))
  | 70 =>
    if fix 0 23 0 w then .ok (.bar)
    else if fix 0 23 1 w then .ok (.barSp)
    else .error .reserved
  | 71 => take (fix 8 8 0 w) (.parv (bitsAt 16 7 w) (bitsAt 3 5 w) (bitsAt 0 3 w))
  | 72 => take (fix 3 6 0 w && fix 16 7 0 w) (.pwait (bitsAt 9 7 w) (bitsAt 0 3 w))
  | 73 => take (fix 9 14 0 w) (.win (bitsAt 0 9 w))
  | 74 => take (fix 0 14 0 w && fix 21 2 0 w) (.winq (bitsAt 14 7 w))
  | 75 => take (fix 9 14 0 w) (.vsw (bitsAt 0 9 w))
  | 76 => take (fix 0 23 0 w) (.yield)
  | 77 => take (fix 0 23 0 w) (.nop)
  | 78 => take (fix 9 14 0 w) (.sysc (bitsAt 0 9 w))
  | 79 => take (fix 9 14 0 w) (.brk (bitsAt 0 9 w))
  | 80 => take (fix 0 23 0 w) (.tret)
  | 81 => .ok (.enq (bitAt 22 w) (bitAt 21 w) (bitsAt 14 7 w) (bitsAt 7 7 w) (bitsAt 0 7 w))
  | 82 => take (fix 0 7 0 w && fix 21 1 0 w) (.join (bitAt 22 w) (bitsAt 14 7 w) (bitsAt 7 7 w))
  | 83 =>
    if fix 0 7 0 w && fix 21 1 0 w then .ok (.msdWithdraw (bitAt 22 w) (bitsAt 14 7 w) (bitsAt 7 7 w))
    else if fix 21 1 0 w then .ok (.msd (bitAt 22 w) (bitsAt 14 7 w) (bitsAt 7 7 w) (bitsAt 0 7 w))
    else .error .reserved
  | 84 => .ok (.msx (bitAt 22 w) (bitAt 21 w) (bitsAt 14 7 w) (bitsAt 7 7 w) (bitsAt 0 7 w))
  | 85 =>
    if (w.toNat % 128 < 4) && fix 7 7 0 w && fix 21 2 0 w then .ok (.hstat (bitsAt 14 7 w) (bitsAt 0 7 w))
    else if fix 21 1 0 w then .ok (.hstatLog (bitAt 22 w) (bitsAt 14 7 w) (bitsAt 7 7 w) (bitsAt 0 7 w))
    else .error .reserved
  | 86 => take (fix 0 7 0 w && fix 21 1 0 w) (.sigmask (bitAt 22 w) (bitsAt 14 7 w) (bitsAt 7 7 w))
  | 87 =>
    if fix 0 14 1 w && fix 21 2 0 w then .ok (.sighandCause (bitsAt 14 7 w))
    else if fix 0 14 2 w && fix 21 2 0 w then .ok (.sighandTaddr (bitsAt 14 7 w))
    else if fix 0 14 3 w && fix 21 2 0 w then .ok (.sighandTmask (bitsAt 14 7 w))
    else if fix 0 14 4 w && fix 21 2 0 w then .ok (.sighandFaddr (bitsAt 14 7 w))
    else if fix 0 7 0 w && fix 21 1 0 w then .ok (.sighand (bitAt 22 w) (bitsAt 14 7 w) (bitsAt 7 7 w))
    else .error .reserved
  | 96 => take (fix 9 7 0 w) (.pget (bitsAt 16 7 w) (bitsAt 0 9 w))
  | 97 => take (fix 16 7 0 w) (.pset (bitsAt 9 7 w) (bitsAt 0 9 w))
  | 98 => .ok (.unpark (bitAt 22 w) (bitAt 21 w) (bitsAt 14 7 w) (bitsAt 7 7 w) (bitsAt 0 7 w))
  | 99 => take (fix 0 7 0 w && fix 21 1 0 w) (.sig (bitAt 22 w) (bitsAt 14 7 w) (bitsAt 7 7 w))
  | 100 => .ok (.tinj (bitAt 22 w) (bitAt 21 w) (bitsAt 14 7 w) (bitsAt 7 7 w) (bitsAt 0 7 w))
  | 101 => .ok (.swapo (bitAt 22 w) (bitAt 21 w) (bitsAt 14 7 w) (bitsAt 7 7 w) (bitsAt 0 7 w))
  | 102 => .ok (.swapi (bitAt 22 w) (bitAt 21 w) (bitsAt 14 7 w) (bitsAt 7 7 w) (bitsAt 0 7 w))
  | 103 => .ok (.sysrp (bitAt 22 w) (bitAt 21 w) (bitsAt 14 7 w) (bitsAt 7 7 w) (bitsAt 0 7 w))
  | 104 => take (fix 14 7 0 w) (.tlbinv (bitAt 22 w) (bitAt 21 w) (bitsAt 7 7 w) (bitsAt 0 7 w))
  | 105 => take (fix 0 6 0 w && fix 9 14 0 w) (.tfence (bitsAt 6 3 w))
  | 106 => .ok (.tprobe (bitAt 22 w) (bitAt 21 w) (bitsAt 14 7 w) (bitsAt 7 7 w) (bitsAt 0 7 w))
  | 107 => .ok (.aspill (bitAt 22 w) (bitAt 21 w) (bitsAt 14 7 w) (bitsAt 7 7 w) (bitsAt 0 7 w))
  | 108 => .ok (.afill (bitAt 22 w) (bitAt 21 w) (bitsAt 14 7 w) (bitsAt 7 7 w) (bitsAt 0 7 w))
  | 109 => .ok (.chres (bitAt 22 w) (bitAt 21 w) (bitsAt 14 7 w) (bitsAt 7 7 w) (bitsAt 0 7 w))
  | 110 => .ok (.chabt (bitAt 22 w) (bitAt 21 w) (bitsAt 14 7 w) (bitsAt 7 7 w) (bitsAt 0 7 w))
  | 111 => .ok (.lmapw (bitAt 22 w) (bitAt 21 w) (bitsAt 14 7 w) (bitsAt 7 7 w) (bitsAt 0 7 w))
  | 112 =>
    if fix 0 9 0 w then .ok (.chkmFloor (bitsAt 16 7 w) (bitsAt 9 7 w))
    else if fix 0 9 1 w then .ok (.chkmLmap (bitsAt 16 7 w) (bitsAt 9 7 w))
    else if fix 0 9 2 w then .ok (.chkmLfail (bitsAt 16 7 w) (bitsAt 9 7 w))
    else if fix 0 9 3 w then .ok (.chkmCmap (bitsAt 16 7 w) (bitsAt 9 7 w))
    else if fix 0 9 4 w then .ok (.chkmCnt (bitsAt 16 7 w) (bitsAt 9 7 w))
    else if fix 0 9 5 w then .ok (.chkmClr (bitsAt 16 7 w) (bitsAt 9 7 w))
    else .error .reserved
  | 113 => take (fix 22 1 0 w) (.trcfg (bitAt 21 w) (bitsAt 14 7 w) (bitsAt 7 7 w) (bitsAt 0 7 w))
  | 114 => .ok (.bpset (bitAt 22 w) (bitAt 21 w) (bitsAt 14 7 w) (bitsAt 7 7 w) (bitsAt 0 7 w))
  | 115 => .ok (.wpset (bitAt 22 w) (bitAt 21 w) (bitsAt 14 7 w) (bitsAt 7 7 w) (bitsAt 0 7 w))
  | 116 => take (fix 5 11 0 w) (.smpl (bitsAt 16 7 w) (bitsAt 0 5 w))
  | 117 => .ok (.garmShare (bitAt 22 w) (bitAt 21 w) (bitsAt 14 7 w) (bitsAt 7 7 w) (bitsAt 0 7 w))
  | 118 =>
    if fix 7 7 16 w && fix 22 1 0 w then .ok (.carve (bitAt 21 w) (bitsAt 14 7 w) (bitsAt 0 7 w))
    else if fix 7 7 17 w && fix 22 1 0 w then .ok (.ctxon (bitAt 21 w) (bitsAt 14 7 w) (bitsAt 0 7 w))
    else if fix 7 7 18 w && fix 22 1 0 w then .ok (.ctxoff (bitAt 21 w) (bitsAt 14 7 w) (bitsAt 0 7 w))
    else if fix 7 7 19 w && fix 22 1 0 w then .ok (.qarm (bitAt 21 w) (bitsAt 14 7 w) (bitsAt 0 7 w))
    else if fix 7 7 20 w && fix 22 1 0 w then .ok (.kill (bitAt 21 w) (bitsAt 14 7 w) (bitsAt 0 7 w))
    else if fix 22 1 0 w then .ok (.dcfg (bitAt 21 w) (bitsAt 14 7 w) (bitsAt 7 7 w) (bitsAt 0 7 w))
    else .error .reserved
  | 119 => .ok (.vreq (bitAt 22 w) (bitAt 21 w) (bitsAt 14 7 w) (bitsAt 7 7 w) (bitsAt 0 7 w))
  | 120 => take (fix 0 7 0 w && fix 21 1 0 w) (.halt (bitAt 22 w) (bitsAt 14 7 w) (bitsAt 7 7 w))
  | 121 => take (fix 0 7 0 w && fix 21 1 0 w) (.resm (bitAt 22 w) (bitsAt 14 7 w) (bitsAt 7 7 w))
  | 122 => .ok (.intfwAck (bitAt 22 w) (bitAt 21 w) (bitsAt 14 7 w) (bitsAt 7 7 w) (bitsAt 0 7 w))
  | _ => .error .reserved

/-- Class 0b10: the opcode in bits [29:23] chooses the row (03 R56). -/
noncomputable def decodeMemory (op : Nat) (w : BitVec 32) : Except DecodeFault Instr :=
  match op with
  | 0 => .ok (.ldb (bitsAt 16 7 w) (bitsAt 9 7 w) (bitsAt 0 9 w))
  | 1 => .ok (.ldbs (bitsAt 16 7 w) (bitsAt 9 7 w) (bitsAt 0 9 w))
  | 2 => .ok (.ldh (bitsAt 16 7 w) (bitsAt 9 7 w) (bitsAt 0 9 w))
  | 3 => .ok (.ldhs (bitsAt 16 7 w) (bitsAt 9 7 w) (bitsAt 0 9 w))
  | 4 => .ok (.ldw (bitsAt 16 7 w) (bitsAt 9 7 w) (bitsAt 0 9 w))
  | 5 => .ok (.ldd (bitsAt 16 7 w) (bitsAt 9 7 w) (bitsAt 0 9 w))
  | 6 => .ok (.ldq (bitsAt 16 7 w) (bitsAt 9 7 w) (bitsAt 0 9 w))
  | 7 => .ok (.stb (bitsAt 16 7 w) (bitsAt 9 7 w) (bitsAt 0 9 w))
  | 8 => .ok (.sth (bitsAt 16 7 w) (bitsAt 9 7 w) (bitsAt 0 9 w))
  | 9 => .ok (.stw (bitsAt 16 7 w) (bitsAt 9 7 w) (bitsAt 0 9 w))
  | 10 => .ok (.std (bitsAt 16 7 w) (bitsAt 9 7 w) (bitsAt 0 9 w))
  | 11 => .ok (.stq (bitsAt 16 7 w) (bitsAt 9 7 w) (bitsAt 0 9 w))
  | 12 => .ok (.sld (bitsAt 16 7 w) (bitsAt 9 7 w) (bitsAt 0 9 w))
  | 13 => .ok (.sldw (bitsAt 16 7 w) (bitsAt 9 7 w) (bitsAt 0 9 w))
  | 14 => .ok (.sst (bitsAt 16 7 w) (bitsAt 9 7 w) (bitsAt 0 9 w))
  | 15 => .ok (.sstw (bitsAt 16 7 w) (bitsAt 9 7 w) (bitsAt 0 9 w))
  | 16 => .ok (.ldwx (bitAt 22 w) (bitAt 21 w) (bitsAt 14 7 w) (bitsAt 7 7 w) (bitsAt 0 7 w))
  | 17 => .ok (.stwx (bitAt 22 w) (bitAt 21 w) (bitsAt 14 7 w) (bitsAt 7 7 w) (bitsAt 0 7 w))
  | 18 => take (fix 0 4 0 w) (.lda (bitsAt 16 7 w) (bitsAt 9 7 w) (bitsAt 6 3 w) (bitsAt 4 2 w))
  | 19 => take (fix 0 4 0 w) (.stl (bitsAt 16 7 w) (bitsAt 9 7 w) (bitsAt 6 3 w) (bitsAt 4 2 w))
  | 20 => take (fix 0 6 0 w && fix 9 14 0 w) (.fence (bitsAt 6 3 w))
  | 21 => take (fix 9 14 0 w) (.xfence (bitsAt 6 3 w) (bitsAt 3 3 w) (bitsAt 0 3 w))
  | 22 => .ok (.atadd (bitAt 22 w) (bitAt 21 w) (bitsAt 14 7 w) (bitsAt 7 7 w) (bitsAt 0 7 w))
  | 23 => .ok (.atmins (bitAt 22 w) (bitAt 21 w) (bitsAt 14 7 w) (bitsAt 7 7 w) (bitsAt 0 7 w))
  | 24 => .ok (.atminu (bitAt 22 w) (bitAt 21 w) (bitsAt 14 7 w) (bitsAt 7 7 w) (bitsAt 0 7 w))
  | 25 => .ok (.atmaxs (bitAt 22 w) (bitAt 21 w) (bitsAt 14 7 w) (bitsAt 7 7 w) (bitsAt 0 7 w))
  | 26 => .ok (.atmaxu (bitAt 22 w) (bitAt 21 w) (bitsAt 14 7 w) (bitsAt 7 7 w) (bitsAt 0 7 w))
  | 27 => .ok (.atand (bitAt 22 w) (bitAt 21 w) (bitsAt 14 7 w) (bitsAt 7 7 w) (bitsAt 0 7 w))
  | 28 => .ok (.ator (bitAt 22 w) (bitAt 21 w) (bitsAt 14 7 w) (bitsAt 7 7 w) (bitsAt 0 7 w))
  | 29 => .ok (.atxor (bitAt 22 w) (bitAt 21 w) (bitsAt 14 7 w) (bitsAt 7 7 w) (bitsAt 0 7 w))
  | 30 => .ok (.atxchg (bitAt 22 w) (bitAt 21 w) (bitsAt 14 7 w) (bitsAt 7 7 w) (bitsAt 0 7 w))
  | 31 => .ok (.atcas (bitAt 22 w) (bitAt 21 w) (bitsAt 14 7 w) (bitsAt 7 7 w) (bitsAt 0 7 w))
  | 32 => .ok (.atfadd (bitAt 22 w) (bitAt 21 w) (bitsAt 14 7 w) (bitsAt 7 7 w) (bitsAt 0 7 w))
  | 33 => .ok (.atdadd (bitAt 22 w) (bitAt 21 w) (bitsAt 14 7 w) (bitsAt 7 7 w) (bitsAt 0 7 w))
  | 34 => .ok (.atdcas (bitAt 22 w) (bitAt 21 w) (bitsAt 14 7 w) (bitsAt 7 7 w) (bitsAt 0 7 w))
  | 35 => take (fix 14 7 0 w) (.vatfadd (bitAt 22 w) (bitAt 21 w) (bitsAt 7 7 w) (bitsAt 0 7 w))
  | 36 => take (fix 14 7 0 w) (.vatbadd (bitAt 22 w) (bitAt 21 w) (bitsAt 7 7 w) (bitsAt 0 7 w))
  | 37 => take (fix 14 7 0 w) (.vatfmax (bitAt 22 w) (bitAt 21 w) (bitsAt 7 7 w) (bitsAt 0 7 w))
  | 38 => take (fix 14 7 0 w) (.vatiadd (bitAt 22 w) (bitAt 21 w) (bitsAt 7 7 w) (bitsAt 0 7 w))
  | 39 => .ok (.waitc (bitAt 22 w) (bitAt 21 w) (bitsAt 18 3 w) (bitsAt 14 4 w) (bitsAt 12 2 w) (bitAt 11 w) (bitsAt 7 4 w) (bitsAt 0 7 w))
  | 40 => take (fix 16 7 0 w) (.pref (bitsAt 9 7 w) (bitsAt 0 9 w))
  | 41 => take (fix 16 7 0 w) (.cinv (bitsAt 9 7 w) (bitsAt 0 9 w))
  | 42 => take (fix 16 7 0 w) (.cwb (bitsAt 9 7 w) (bitsAt 0 9 w))
  | 43 => .ok (.ldpv (bitsAt 16 7 w) (bitsAt 9 7 w) (bitAt 8 w) (bitsAt 0 8 w))
  | 44 => .ok (.stpv (bitsAt 16 7 w) (bitsAt 9 7 w) (bitAt 8 w) (bitsAt 0 8 w))
  | 45 => .ok (.ldbc (bitsAt 16 7 w) (bitsAt 9 7 w) (bitsAt 0 9 w))
  | 64 => .ok (.cpgt (bitAt 22 w) (bitAt 21 w) (bitsAt 18 3 w) (bitsAt 14 4 w) (bitsAt 7 7 w) (bitsAt 0 7 w))
  | 65 => .ok (.cptg (bitAt 22 w) (bitAt 21 w) (bitsAt 18 3 w) (bitsAt 14 4 w) (bitsAt 7 7 w) (bitsAt 0 7 w))
  | 66 => .ok (.cpgg (bitAt 22 w) (bitAt 21 w) (bitsAt 18 3 w) (bitsAt 14 4 w) (bitsAt 7 7 w) (bitsAt 0 7 w))
  | 67 => .ok (.cpat (bitAt 22 w) (bitAt 21 w) (bitsAt 18 3 w) (bitsAt 14 4 w) (bitsAt 7 7 w) (bitsAt 0 7 w))
  | 68 => .ok (.cpgs (bitAt 22 w) (bitAt 21 w) (bitsAt 18 3 w) (bitsAt 14 4 w) (bitsAt 7 7 w) (bitsAt 0 7 w))
  | 69 => .ok (.cpsg (bitAt 22 w) (bitAt 21 w) (bitsAt 18 3 w) (bitsAt 14 4 w) (bitsAt 7 7 w) (bitsAt 0 7 w))
  | 70 => .ok (.cpix (bitAt 22 w) (bitAt 21 w) (bitsAt 18 3 w) (bitsAt 14 4 w) (bitsAt 7 7 w) (bitsAt 0 7 w))
  | 71 => take (fix 21 1 0 w) (.tld (bitAt 22 w) (bitsAt 14 7 w) (bitsAt 7 7 w) (bitsAt 5 2 w) (bitsAt 0 5 w))
  | 72 => take (fix 21 1 0 w) (.tst (bitAt 22 w) (bitsAt 14 7 w) (bitsAt 7 7 w) (bitsAt 5 2 w) (bitsAt 0 5 w))
  | 73 => take (fix 14 7 0 w) (.cwp (bitAt 22 w) (bitAt 21 w) (bitsAt 7 7 w) (bitsAt 0 7 w))
  | 74 => take (fix 0 7 0 w && fix 14 8 0 w) (.cwait (bitAt 22 w) (bitsAt 7 7 w))
  | 75 => take (fix 0 7 0 w && fix 21 1 0 w) (.cdone (bitAt 22 w) (bitsAt 14 7 w) (bitsAt 7 7 w))
  | 76 => .ok (.cfill (bitAt 22 w) (bitAt 21 w) (bitsAt 18 3 w) (bitsAt 14 4 w) (bitsAt 7 7 w) (bitsAt 0 7 w))
  | 77 => take (fix 0 18 0 w && fix 21 2 0 w) (.ccan (bitsAt 18 3 w))
  | 96 => .ok (.mmaBf16 (bitAt 22 w) (bitAt 21 w) (bitsAt 17 4 w) (bitsAt 15 2 w) (bitAt 14 w) (bitsAt 7 7 w) (bitsAt 0 7 w))
  | 97 => .ok (.mmaF16 (bitAt 22 w) (bitAt 21 w) (bitsAt 17 4 w) (bitsAt 15 2 w) (bitAt 14 w) (bitsAt 7 7 w) (bitsAt 0 7 w))
  | 98 => .ok (.mmaE4m3 (bitAt 22 w) (bitAt 21 w) (bitsAt 17 4 w) (bitsAt 15 2 w) (bitAt 14 w) (bitsAt 7 7 w) (bitsAt 0 7 w))
  | 99 => .ok (.mmaE5m2 (bitAt 22 w) (bitAt 21 w) (bitsAt 17 4 w) (bitsAt 15 2 w) (bitAt 14 w) (bitsAt 7 7 w) (bitsAt 0 7 w))
  | 100 => .ok (.mmaMxe2m1 (bitAt 22 w) (bitAt 21 w) (bitsAt 17 4 w) (bitsAt 15 2 w) (bitAt 14 w) (bitsAt 7 7 w) (bitsAt 0 7 w))
  | 101 => .ok (.mmaMxe4m3 (bitAt 22 w) (bitAt 21 w) (bitsAt 17 4 w) (bitsAt 15 2 w) (bitAt 14 w) (bitsAt 7 7 w) (bitsAt 0 7 w))
  | 102 => .ok (.mmaMxe2m3 (bitAt 22 w) (bitAt 21 w) (bitsAt 17 4 w) (bitsAt 15 2 w) (bitAt 14 w) (bitsAt 7 7 w) (bitsAt 0 7 w))
  | 103 => .ok (.mmaI8 (bitAt 22 w) (bitAt 21 w) (bitsAt 17 4 w) (bitsAt 15 2 w) (bitAt 14 w) (bitsAt 7 7 w) (bitsAt 0 7 w))
  | 104 => take (fix 0 7 0 w && fix 14 8 0 w) (.mgang (bitAt 22 w) (bitsAt 7 7 w))
  | 105 => take (fix 4 4 0 w && fix 9 7 0 w) (.macq (bitsAt 16 7 w) (bitAt 8 w) (bitsAt 0 4 w))
  | 106 => take (fix 0 9 0 w && fix 16 7 0 w) (.mrel (bitsAt 9 7 w))
  | 107 => take (fix 4 19 0 w) (.mzero (bitsAt 0 4 w))
  | 108 => take (fix 21 1 0 w) (.mdrain (bitAt 22 w) (bitsAt 14 7 w) (bitsAt 7 7 w) (bitsAt 0 7 w))
  | 109 => take (fix 3 13 0 w) (.mcfg (bitsAt 16 7 w) (bitsAt 0 3 w))
  | 110 => take (fix 0 7 0 w && fix 21 1 0 w) (.mstat (bitAt 22 w) (bitsAt 14 7 w) (bitsAt 7 7 w))
  | 111 => take (fix 0 7 0 w && fix 14 8 0 w) (.mwait (bitAt 22 w) (bitsAt 7 7 w))
  | _ => .error .reserved

/-- Class 0b11: the opcode in bits [29:23] chooses the row (03 R56). -/
noncomputable def decodeLong (op : Nat) (w : BitVec 32) : Except DecodeFault Instr :=
  match op with
  | 0 => .ok (.br (bitsAt 16 7 w) (bitsAt 0 16 w))
  | 1 => .ok (.brz (bitsAt 16 7 w) (bitsAt 0 16 w))
  | 2 => .ok (.bru (bitsAt 16 7 w) (bitsAt 0 16 w))
  | 3 => .ok (.bruz (bitsAt 16 7 w) (bitsAt 0 16 w))
  | 4 => .ok (.brs (bitsAt 16 7 w) (bitsAt 0 16 w))
  | 5 => .ok (.jmp (bitsAt 0 23 w))
  | 6 => .ok (.call (bitsAt 0 23 w))
  | 7 => .ok (.sloop (bitsAt 16 7 w) (bitsAt 0 16 w))
  | 8 => .ok (.smovl (bitsAt 16 7 w) (bitsAt 0 16 w))
  | 9 => .ok (.smovh (bitsAt 16 7 w) (bitsAt 0 16 w))
  | 10 => .ok (.smovx (bitsAt 16 7 w) (bitsAt 0 16 w))
  | 11 => .ok (.smovt (bitsAt 16 7 w) (bitsAt 0 16 w))
  | 12 => .ok (.vmovl (bitsAt 16 7 w) (bitsAt 0 16 w))
  | 13 => .ok (.vmovh (bitsAt 16 7 w) (bitsAt 0 16 w))
  | _ => .error .reserved

/-- The row of the opcode table that a word names, before the sub-field checks. -/
noncomputable def decodeRow (w : BitVec 32) : Except DecodeFault Instr :=
  let op := w.toNat / 8388608 % 128
  match w.toNat / 1073741824 with
  | 0 => decodeVector op w
  | 1 => decodeScalar op w
  | 2 => decodeMemory op w
  | _ => decodeLong op w

/-- The decoder: the instruction a word stands for, or the reason it is none (R59). -/
noncomputable def decode (w : BitVec 32) : Except DecodeFault Instr :=
  match decodeRow w with
  | .ok i => if i.wellFormed then .ok i else .error .subField
  | .error f => .error f

/-- A word from its four bytes, lowest address first (R44, little-endian). -/
def wordOfBytes : List (BitVec 8) → BitVec 32
  | b0 :: b1 :: b2 :: b3 :: _ =>
    BitVec.ofNat 32 (b0.toNat + b1.toNat * 256 + b2.toNat * 65536 + b3.toNat * 16777216)
  | _ => 0

/-- The four bytes of a word, lowest address first (R44). -/
def bytesOfWord (w : BitVec 32) : List (BitVec 8) :=
  [0, 8, 16, 24].map fun k => BitVec.ofNat 8 (w.toNat / 2 ^ k)

/-- What the decoder reads from an instruction whose bits are w (bit 0 the least significant of the word). -/
noncomputable def decodeTableWord (nbits w : Nat) : Option Instr :=
  match decode (wordOfBytes (bytesOfWord (BitVec.ofNat 32 (w % 2 ^ nbits)))) with
  | .ok i => some i
  | .error _ => none


/-- The 32-bit word of an instruction (03 R44, R45); an event has no word. -/
def encode : Instr → Option (BitVec 32)
  | .vadd e g d a b => some (BitVec.ofNat 32 (0 + e.toNat * 4194304 + g.toNat * 2097152 + d.toNat * 16384 + a.toNat * 128 + b.toNat))
  | .vsub e g d a b => some (BitVec.ofNat 32 (8388608 + e.toNat * 4194304 + g.toNat * 2097152 + d.toNat * 16384 + a.toNat * 128 + b.toNat))
  | .vmullo e g d a b => some (BitVec.ofNat 32 (16777216 + e.toNat * 4194304 + g.toNat * 2097152 + d.toNat * 16384 + a.toNat * 128 + b.toNat))
  | .vmulhis e g d a b => some (BitVec.ofNat 32 (25165824 + e.toNat * 4194304 + g.toNat * 2097152 + d.toNat * 16384 + a.toNat * 128 + b.toNat))
  | .vmulhiu e g d a b => some (BitVec.ofNat 32 (33554432 + e.toNat * 4194304 + g.toNat * 2097152 + d.toNat * 16384 + a.toNat * 128 + b.toNat))
  | .vmad e g d a b => some (BitVec.ofNat 32 (41943040 + e.toNat * 4194304 + g.toNat * 2097152 + d.toNat * 16384 + a.toNat * 128 + b.toNat))
  | .vadds e g d a b => some (BitVec.ofNat 32 (50331648 + e.toNat * 4194304 + g.toNat * 2097152 + d.toNat * 16384 + a.toNat * 128 + b.toNat))
  | .vsubs e g d a b => some (BitVec.ofNat 32 (58720256 + e.toNat * 4194304 + g.toNat * 2097152 + d.toNat * 16384 + a.toNat * 128 + b.toNat))
  | .vaddx2 e g d a b => some (BitVec.ofNat 32 (67108864 + e.toNat * 4194304 + g.toNat * 2097152 + d.toNat * 16384 + a.toNat * 128 + b.toNat))
  | .vsubx2 e g d a b => some (BitVec.ofNat 32 (75497472 + e.toNat * 4194304 + g.toNat * 2097152 + d.toNat * 16384 + a.toNat * 128 + b.toNat))
  | .vmins e g d a b => some (BitVec.ofNat 32 (83886080 + e.toNat * 4194304 + g.toNat * 2097152 + d.toNat * 16384 + a.toNat * 128 + b.toNat))
  | .vminu e g d a b => some (BitVec.ofNat 32 (92274688 + e.toNat * 4194304 + g.toNat * 2097152 + d.toNat * 16384 + a.toNat * 128 + b.toNat))
  | .vmaxs e g d a b => some (BitVec.ofNat 32 (100663296 + e.toNat * 4194304 + g.toNat * 2097152 + d.toNat * 16384 + a.toNat * 128 + b.toNat))
  | .vmaxu e g d a b => some (BitVec.ofNat 32 (109051904 + e.toNat * 4194304 + g.toNat * 2097152 + d.toNat * 16384 + a.toNat * 128 + b.toNat))
  | .vdot4s e g d a b => some (BitVec.ofNat 32 (117440512 + e.toNat * 4194304 + g.toNat * 2097152 + d.toNat * 16384 + a.toNat * 128 + b.toNat))
  | .vdot4u e g d a b => some (BitVec.ofNat 32 (125829120 + e.toNat * 4194304 + g.toNat * 2097152 + d.toNat * 16384 + a.toNat * 128 + b.toNat))
  | .vand e g d a b => some (BitVec.ofNat 32 (134217728 + e.toNat * 4194304 + g.toNat * 2097152 + d.toNat * 16384 + a.toNat * 128 + b.toNat))
  | .vor e g d a b => some (BitVec.ofNat 32 (142606336 + e.toNat * 4194304 + g.toNat * 2097152 + d.toNat * 16384 + a.toNat * 128 + b.toNat))
  | .vxor e g d a b => some (BitVec.ofNat 32 (150994944 + e.toNat * 4194304 + g.toNat * 2097152 + d.toNat * 16384 + a.toNat * 128 + b.toNat))
  | .vandn e g d a b => some (BitVec.ofNat 32 (159383552 + e.toNat * 4194304 + g.toNat * 2097152 + d.toNat * 16384 + a.toNat * 128 + b.toNat))
  | .vshl e g d a b => some (BitVec.ofNat 32 (167772160 + e.toNat * 4194304 + g.toNat * 2097152 + d.toNat * 16384 + a.toNat * 128 + b.toNat))
  | .vshru e g d a b => some (BitVec.ofNat 32 (176160768 + e.toNat * 4194304 + g.toNat * 2097152 + d.toNat * 16384 + a.toNat * 128 + b.toNat))
  | .vshrs e g d a b => some (BitVec.ofNat 32 (184549376 + e.toNat * 4194304 + g.toNat * 2097152 + d.toNat * 16384 + a.toNat * 128 + b.toNat))
  | .vrot e g d a b => some (BitVec.ofNat 32 (192937984 + e.toNat * 4194304 + g.toNat * 2097152 + d.toNat * 16384 + a.toNat * 128 + b.toNat))
  | .vbfeu e g d a b => some (BitVec.ofNat 32 (201326592 + e.toNat * 4194304 + g.toNat * 2097152 + d.toNat * 16384 + a.toNat * 128 + b.toNat))
  | .vbfes e g d a b => some (BitVec.ofNat 32 (209715200 + e.toNat * 4194304 + g.toNat * 2097152 + d.toNat * 16384 + a.toNat * 128 + b.toNat))
  | .vbfi e g d a b => some (BitVec.ofNat 32 (218103808 + e.toNat * 4194304 + g.toNat * 2097152 + d.toNat * 16384 + a.toNat * 128 + b.toNat))
  | .vsel e g d a b => some (BitVec.ofNat 32 (226492416 + e.toNat * 4194304 + g.toNat * 2097152 + d.toNat * 16384 + a.toNat * 128 + b.toNat))
  | .vpopc e d a => some (BitVec.ofNat 32 (234881024 + e.toNat * 4194304 + d.toNat * 16384 + a.toNat * 128))
  | .vclz e d a => some (BitVec.ofNat 32 (234881025 + e.toNat * 4194304 + d.toNat * 16384 + a.toNat * 128))
  | .vctz e d a => some (BitVec.ofNat 32 (234881026 + e.toNat * 4194304 + d.toNat * 16384 + a.toNat * 128))
  | .vbrev e d a => some (BitVec.ofNat 32 (234881027 + e.toNat * 4194304 + d.toNat * 16384 + a.toNat * 128))
  | .vnot e d a => some (BitVec.ofNat 32 (234881028 + e.toNat * 4194304 + d.toNat * 16384 + a.toNat * 128))
  | .vabs e d a => some (BitVec.ofNat 32 (234881029 + e.toNat * 4194304 + d.toNat * 16384 + a.toNat * 128))
  | .vneg e d a => some (BitVec.ofNat 32 (234881030 + e.toNat * 4194304 + d.toNat * 16384 + a.toNat * 128))
  | .vsx8 e d a => some (BitVec.ofNat 32 (234881031 + e.toNat * 4194304 + d.toNat * 16384 + a.toNat * 128))
  | .vsx16 e d a => some (BitVec.ofNat 32 (234881032 + e.toNat * 4194304 + d.toNat * 16384 + a.toNat * 128))
  | .vzx8 e d a => some (BitVec.ofNat 32 (234881033 + e.toNat * 4194304 + d.toNat * 16384 + a.toNat * 128))
  | .vzx16 e d a => some (BitVec.ofNat 32 (234881034 + e.toNat * 4194304 + d.toNat * 16384 + a.toNat * 128))
  | .vmov e d a => some (BitVec.ofNat 32 (243269632 + e.toNat * 4194304 + d.toNat * 16384 + a.toNat * 128))
  | .vcmpeq e g d a b => some (BitVec.ofNat 32 (251658240 + e.toNat * 4194304 + g.toNat * 2097152 + d.toNat * 16384 + a.toNat * 128 + b.toNat))
  | .vcmplts e g d a b => some (BitVec.ofNat 32 (260046848 + e.toNat * 4194304 + g.toNat * 2097152 + d.toNat * 16384 + a.toNat * 128 + b.toNat))
  | .vcmpltu e g d a b => some (BitVec.ofNat 32 (268435456 + e.toNat * 4194304 + g.toNat * 2097152 + d.toNat * 16384 + a.toNat * 128 + b.toNat))
  | .vcmples e g d a b => some (BitVec.ofNat 32 (276824064 + e.toNat * 4194304 + g.toNat * 2097152 + d.toNat * 16384 + a.toNat * 128 + b.toNat))
  | .vcmpleu e g d a b => some (BitVec.ofNat 32 (285212672 + e.toNat * 4194304 + g.toNat * 2097152 + d.toNat * 16384 + a.toNat * 128 + b.toNat))
  | .vshfl e f d a b => some (BitVec.ofNat 32 (293601280 + e.toNat * 4194304 + f.toNat * 2097152 + d.toNat * 16384 + a.toNat * 128 + b.toNat))
  | .vshflx e f d a b => some (BitVec.ofNat 32 (301989888 + e.toNat * 4194304 + f.toNat * 2097152 + d.toNat * 16384 + a.toNat * 128 + b.toNat))
  | .vshflup e f d a b => some (BitVec.ofNat 32 (310378496 + e.toNat * 4194304 + f.toNat * 2097152 + d.toNat * 16384 + a.toNat * 128 + b.toNat))
  | .vshfldn e f d a b => some (BitVec.ofNat 32 (318767104 + e.toNat * 4194304 + f.toNat * 2097152 + d.toNat * 16384 + a.toNat * 128 + b.toNat))
  | .vrdlane e g d a b => some (BitVec.ofNat 32 (327155712 + e.toNat * 4194304 + g.toNat * 2097152 + d.toNat * 16384 + a.toNat * 128 + b.toNat))
  | .vwrlane e g d a b => some (BitVec.ofNat 32 (335544320 + e.toNat * 4194304 + g.toNat * 2097152 + d.toNat * 16384 + a.toNat * 128 + b.toNat))
  | .vredadd e d a => some (BitVec.ofNat 32 (343932928 + e.toNat * 4194304 + d.toNat * 16384 + a.toNat * 128))
  | .vredmins e d a => some (BitVec.ofNat 32 (352321536 + e.toNat * 4194304 + d.toNat * 16384 + a.toNat * 128))
  | .vredmaxs e d a => some (BitVec.ofNat 32 (360710144 + e.toNat * 4194304 + d.toNat * 16384 + a.toNat * 128))
  | .vredand e d a => some (BitVec.ofNat 32 (369098752 + e.toNat * 4194304 + d.toNat * 16384 + a.toNat * 128))
  | .vredor e d a => some (BitVec.ofNat 32 (377487360 + e.toNat * 4194304 + d.toNat * 16384 + a.toNat * 128))
  | .vscanadd e d a => some (BitVec.ofNat 32 (385875968 + e.toNat * 4194304 + d.toNat * 16384 + a.toNat * 128))
  | .vballot e d a => some (BitVec.ofNat 32 (394264576 + e.toNat * 4194304 + d.toNat * 16384 + a.toNat * 128))
  | .vaddi d a i => some (BitVec.ofNat 32 (402653184 + d.toNat * 65536 + a.toNat * 512 + i.toNat))
  | .vmuli d a i => some (BitVec.ofNat 32 (411041792 + d.toNat * 65536 + a.toNat * 512 + i.toNat))
  | .vandi d a i => some (BitVec.ofNat 32 (419430400 + d.toNat * 65536 + a.toNat * 512 + i.toNat))
  | .vori d a i => some (BitVec.ofNat 32 (427819008 + d.toNat * 65536 + a.toNat * 512 + i.toNat))
  | .vxori d a i => some (BitVec.ofNat 32 (436207616 + d.toNat * 65536 + a.toNat * 512 + i.toNat))
  | .vshli d a i => some (BitVec.ofNat 32 (444596224 + d.toNat * 65536 + a.toNat * 512 + i.toNat))
  | .vshrui d a i => some (BitVec.ofNat 32 (452984832 + d.toNat * 65536 + a.toNat * 512 + i.toNat))
  | .vshrsi d a i => some (BitVec.ofNat 32 (461373440 + d.toNat * 65536 + a.toNat * 512 + i.toNat))
  | .vcmpeqi d a i => some (BitVec.ofNat 32 (469762048 + d.toNat * 65536 + a.toNat * 512 + i.toNat))
  | .vcmpltsi d a i => some (BitVec.ofNat 32 (478150656 + d.toNat * 65536 + a.toNat * 512 + i.toNat))
  | .vcmpltui d a i => some (BitVec.ofNat 32 (486539264 + d.toNat * 65536 + a.toNat * 512 + i.toNat))
  | .vfadd t e g d a b => some (BitVec.ofNat 32 (536870912 + t.index * 8388608 + e.toNat * 4194304 + g.toNat * 2097152 + d.toNat * 16384 + a.toNat * 128 + b.toNat))
  | .vfsub t e g d a b => some (BitVec.ofNat 32 (570425344 + t.index * 8388608 + e.toNat * 4194304 + g.toNat * 2097152 + d.toNat * 16384 + a.toNat * 128 + b.toNat))
  | .vfmul t e g d a b => some (BitVec.ofNat 32 (603979776 + t.index * 8388608 + e.toNat * 4194304 + g.toNat * 2097152 + d.toNat * 16384 + a.toNat * 128 + b.toNat))
  | .vffma t e g d a b => some (BitVec.ofNat 32 (637534208 + t.index * 8388608 + e.toNat * 4194304 + g.toNat * 2097152 + d.toNat * 16384 + a.toNat * 128 + b.toNat))
  | .vffms t e g d a b => some (BitVec.ofNat 32 (671088640 + t.index * 8388608 + e.toNat * 4194304 + g.toNat * 2097152 + d.toNat * 16384 + a.toNat * 128 + b.toNat))
  | .vfmin t e g d a b => some (BitVec.ofNat 32 (704643072 + t.index * 8388608 + e.toNat * 4194304 + g.toNat * 2097152 + d.toNat * 16384 + a.toNat * 128 + b.toNat))
  | .vfmax t e g d a b => some (BitVec.ofNat 32 (738197504 + t.index * 8388608 + e.toNat * 4194304 + g.toNat * 2097152 + d.toNat * 16384 + a.toNat * 128 + b.toNat))
  | .vfcmpeq t e g d a b => some (BitVec.ofNat 32 (771751936 + t.index * 8388608 + e.toNat * 4194304 + g.toNat * 2097152 + d.toNat * 16384 + a.toNat * 128 + b.toNat))
  | .vfcmplt t e g d a b => some (BitVec.ofNat 32 (805306368 + t.index * 8388608 + e.toNat * 4194304 + g.toNat * 2097152 + d.toNat * 16384 + a.toNat * 128 + b.toNat))
  | .vfcmple t e g d a b => some (BitVec.ofNat 32 (838860800 + t.index * 8388608 + e.toNat * 4194304 + g.toNat * 2097152 + d.toNat * 16384 + a.toNat * 128 + b.toNat))
  | .vfcmpun t e g d a b => some (BitVec.ofNat 32 (872415232 + t.index * 8388608 + e.toNat * 4194304 + g.toNat * 2097152 + d.toNat * 16384 + a.toNat * 128 + b.toNat))
  | .vfsqrt t e d a => some (BitVec.ofNat 32 (905969664 + t.index * 8388608 + e.toNat * 4194304 + d.toNat * 16384 + a.toNat * 128))
  | .vfrsq t e d a => some (BitVec.ofNat 32 (905969665 + t.index * 8388608 + e.toNat * 4194304 + d.toNat * 16384 + a.toNat * 128))
  | .vfrcp t e d a => some (BitVec.ofNat 32 (905969666 + t.index * 8388608 + e.toNat * 4194304 + d.toNat * 16384 + a.toNat * 128))
  | .vfexp2 t e d a => some (BitVec.ofNat 32 (905969667 + t.index * 8388608 + e.toNat * 4194304 + d.toNat * 16384 + a.toNat * 128))
  | .vflog2 t e d a => some (BitVec.ofNat 32 (905969668 + t.index * 8388608 + e.toNat * 4194304 + d.toNat * 16384 + a.toNat * 128))
  | .vfsinpi t e d a => some (BitVec.ofNat 32 (905969669 + t.index * 8388608 + e.toNat * 4194304 + d.toNat * 16384 + a.toNat * 128))
  | .vfcospi t e d a => some (BitVec.ofNat 32 (905969670 + t.index * 8388608 + e.toNat * 4194304 + d.toNat * 16384 + a.toNat * 128))
  | .vftanh t e d a => some (BitVec.ofNat 32 (905969671 + t.index * 8388608 + e.toNat * 4194304 + d.toNat * 16384 + a.toNat * 128))
  | .vfabs t e d a => some (BitVec.ofNat 32 (905969672 + t.index * 8388608 + e.toNat * 4194304 + d.toNat * 16384 + a.toNat * 128))
  | .vfneg t e d a => some (BitVec.ofNat 32 (905969673 + t.index * 8388608 + e.toNat * 4194304 + d.toNat * 16384 + a.toNat * 128))
  | .vffloor t e d a => some (BitVec.ofNat 32 (905969674 + t.index * 8388608 + e.toNat * 4194304 + d.toNat * 16384 + a.toNat * 128))
  | .vfceil t e d a => some (BitVec.ofNat 32 (905969675 + t.index * 8388608 + e.toNat * 4194304 + d.toNat * 16384 + a.toNat * 128))
  | .vftrunc t e d a => some (BitVec.ofNat 32 (905969676 + t.index * 8388608 + e.toNat * 4194304 + d.toNat * 16384 + a.toNat * 128))
  | .vfrne t e d a => some (BitVec.ofNat 32 (905969677 + t.index * 8388608 + e.toNat * 4194304 + d.toNat * 16384 + a.toNat * 128))
  | .vffrac t e d a => some (BitVec.ofNat 32 (905969678 + t.index * 8388608 + e.toNat * 4194304 + d.toNat * 16384 + a.toNat * 128))
  | .vfclass t e d a => some (BitVec.ofNat 32 (905969679 + t.index * 8388608 + e.toNat * 4194304 + d.toNat * 16384 + a.toNat * 128))
  | .vcvt e d a c => some (BitVec.ofNat 32 (939524096 + e.toNat * 4194304 + d.toNat * 16384 + a.toNat * 128 + c.toNat))
  | .vcvts e d a c => some (BitVec.ofNat 32 (947912704 + e.toNat * 4194304 + d.toNat * 16384 + a.toNat * 128 + c.toNat))
  | .vpackF16 e g d a b => some (BitVec.ofNat 32 (956301312 + e.toNat * 4194304 + g.toNat * 2097152 + d.toNat * 16384 + a.toNat * 128 + b.toNat))
  | .vpackBf16 e g d a b => some (BitVec.ofNat 32 (964689920 + e.toNat * 4194304 + g.toNat * 2097152 + d.toNat * 16384 + a.toNat * 128 + b.toNat))
  | .vfscaleF32 e g d a b => some (BitVec.ofNat 32 (973078528 + e.toNat * 4194304 + g.toNat * 2097152 + d.toNat * 16384 + a.toNat * 128 + b.toNat))
  | .vfscaleF64 e g d a b => some (BitVec.ofNat 32 (981467136 + e.toNat * 4194304 + g.toNat * 2097152 + d.toNat * 16384 + a.toNat * 128 + b.toNat))
  | .vfdot2F16 e g d a b => some (BitVec.ofNat 32 (989855744 + e.toNat * 4194304 + g.toNat * 2097152 + d.toNat * 16384 + a.toNat * 128 + b.toNat))
  | .vfdot2Bf16 e g d a b => some (BitVec.ofNat 32 (998244352 + e.toNat * 4194304 + g.toNat * 2097152 + d.toNat * 16384 + a.toNat * 128 + b.toNat))
  | .sadd e g d a b => some (BitVec.ofNat 32 (1073741824 + e.toNat * 4194304 + g.toNat * 2097152 + d.toNat * 16384 + a.toNat * 128 + b.toNat))
  | .ssub e g d a b => some (BitVec.ofNat 32 (1082130432 + e.toNat * 4194304 + g.toNat * 2097152 + d.toNat * 16384 + a.toNat * 128 + b.toNat))
  | .smul e g d a b => some (BitVec.ofNat 32 (1090519040 + e.toNat * 4194304 + g.toNat * 2097152 + d.toNat * 16384 + a.toNat * 128 + b.toNat))
  | .smulhu e g d a b => some (BitVec.ofNat 32 (1098907648 + e.toNat * 4194304 + g.toNat * 2097152 + d.toNat * 16384 + a.toNat * 128 + b.toNat))
  | .smulhs e g d a b => some (BitVec.ofNat 32 (1107296256 + e.toNat * 4194304 + g.toNat * 2097152 + d.toNat * 16384 + a.toNat * 128 + b.toNat))
  | .sdivu e g d a b => some (BitVec.ofNat 32 (1115684864 + e.toNat * 4194304 + g.toNat * 2097152 + d.toNat * 16384 + a.toNat * 128 + b.toNat))
  | .sdivs e g d a b => some (BitVec.ofNat 32 (1124073472 + e.toNat * 4194304 + g.toNat * 2097152 + d.toNat * 16384 + a.toNat * 128 + b.toNat))
  | .sremu e g d a b => some (BitVec.ofNat 32 (1132462080 + e.toNat * 4194304 + g.toNat * 2097152 + d.toNat * 16384 + a.toNat * 128 + b.toNat))
  | .srems e g d a b => some (BitVec.ofNat 32 (1140850688 + e.toNat * 4194304 + g.toNat * 2097152 + d.toNat * 16384 + a.toNat * 128 + b.toNat))
  | .smins e g d a b => some (BitVec.ofNat 32 (1149239296 + e.toNat * 4194304 + g.toNat * 2097152 + d.toNat * 16384 + a.toNat * 128 + b.toNat))
  | .sminu e g d a b => some (BitVec.ofNat 32 (1157627904 + e.toNat * 4194304 + g.toNat * 2097152 + d.toNat * 16384 + a.toNat * 128 + b.toNat))
  | .smaxs e g d a b => some (BitVec.ofNat 32 (1166016512 + e.toNat * 4194304 + g.toNat * 2097152 + d.toNat * 16384 + a.toNat * 128 + b.toNat))
  | .smaxu e g d a b => some (BitVec.ofNat 32 (1174405120 + e.toNat * 4194304 + g.toNat * 2097152 + d.toNat * 16384 + a.toNat * 128 + b.toNat))
  | .sand e g d a b => some (BitVec.ofNat 32 (1182793728 + e.toNat * 4194304 + g.toNat * 2097152 + d.toNat * 16384 + a.toNat * 128 + b.toNat))
  | .sor e g d a b => some (BitVec.ofNat 32 (1191182336 + e.toNat * 4194304 + g.toNat * 2097152 + d.toNat * 16384 + a.toNat * 128 + b.toNat))
  | .sxor e g d a b => some (BitVec.ofNat 32 (1199570944 + e.toNat * 4194304 + g.toNat * 2097152 + d.toNat * 16384 + a.toNat * 128 + b.toNat))
  | .sandn e g d a b => some (BitVec.ofNat 32 (1207959552 + e.toNat * 4194304 + g.toNat * 2097152 + d.toNat * 16384 + a.toNat * 128 + b.toNat))
  | .sshl e g d a b => some (BitVec.ofNat 32 (1216348160 + e.toNat * 4194304 + g.toNat * 2097152 + d.toNat * 16384 + a.toNat * 128 + b.toNat))
  | .sshru e g d a b => some (BitVec.ofNat 32 (1224736768 + e.toNat * 4194304 + g.toNat * 2097152 + d.toNat * 16384 + a.toNat * 128 + b.toNat))
  | .sshrs e g d a b => some (BitVec.ofNat 32 (1233125376 + e.toNat * 4194304 + g.toNat * 2097152 + d.toNat * 16384 + a.toNat * 128 + b.toNat))
  | .sbfe e g d a b => some (BitVec.ofNat 32 (1241513984 + e.toNat * 4194304 + g.toNat * 2097152 + d.toNat * 16384 + a.toNat * 128 + b.toNat))
  | .sbfi e g d a b => some (BitVec.ofNat 32 (1249902592 + e.toNat * 4194304 + g.toNat * 2097152 + d.toNat * 16384 + a.toNat * 128 + b.toNat))
  | .spopc e d a => some (BitVec.ofNat 32 (1258291200 + e.toNat * 4194304 + d.toNat * 16384 + a.toNat * 128))
  | .sclz e d a => some (BitVec.ofNat 32 (1258291201 + e.toNat * 4194304 + d.toNat * 16384 + a.toNat * 128))
  | .sctz e d a => some (BitVec.ofNat 32 (1258291202 + e.toNat * 4194304 + d.toNat * 16384 + a.toNat * 128))
  | .sbrev e d a => some (BitVec.ofNat 32 (1258291203 + e.toNat * 4194304 + d.toNat * 16384 + a.toNat * 128))
  | .snot e d a => some (BitVec.ofNat 32 (1258291204 + e.toNat * 4194304 + d.toNat * 16384 + a.toNat * 128))
  | .sneg e d a => some (BitVec.ofNat 32 (1258291205 + e.toNat * 4194304 + d.toNat * 16384 + a.toNat * 128))
  | .ssx32 e d a => some (BitVec.ofNat 32 (1258291206 + e.toNat * 4194304 + d.toNat * 16384 + a.toNat * 128))
  | .szx32 e d a => some (BitVec.ofNat 32 (1258291207 + e.toNat * 4194304 + d.toNat * 16384 + a.toNat * 128))
  | .smov e d a => some (BitVec.ofNat 32 (1266679808 + e.toNat * 4194304 + d.toNat * 16384 + a.toNat * 128))
  | .scmpeq e g d a b => some (BitVec.ofNat 32 (1275068416 + e.toNat * 4194304 + g.toNat * 2097152 + d.toNat * 16384 + a.toNat * 128 + b.toNat))
  | .scmplts e g d a b => some (BitVec.ofNat 32 (1283457024 + e.toNat * 4194304 + g.toNat * 2097152 + d.toNat * 16384 + a.toNat * 128 + b.toNat))
  | .scmpltu e g d a b => some (BitVec.ofNat 32 (1291845632 + e.toNat * 4194304 + g.toNat * 2097152 + d.toNat * 16384 + a.toNat * 128 + b.toNat))
  | .scmples e g d a b => some (BitVec.ofNat 32 (1300234240 + e.toNat * 4194304 + g.toNat * 2097152 + d.toNat * 16384 + a.toNat * 128 + b.toNat))
  | .scmpleu e g d a b => some (BitVec.ofNat 32 (1308622848 + e.toNat * 4194304 + g.toNat * 2097152 + d.toNat * 16384 + a.toNat * 128 + b.toNat))
  | .ssel e g d a b => some (BitVec.ofNat 32 (1317011456 + e.toNat * 4194304 + g.toNat * 2097152 + d.toNat * 16384 + a.toNat * 128 + b.toNat))
  | .sgetst d sel => some (BitVec.ofNat 32 (1325400064 + d.toNat * 16384 + sel.toNat * 128))
  | .ssetst e g a b => some (BitVec.ofNat 32 (1333788672 + e.toNat * 4194304 + g.toNat * 2097152 + a.toNat * 128 + b.toNat))
  | .sfadd e g d a b => some (BitVec.ofNat 32 (1342177280 + e.toNat * 4194304 + g.toNat * 2097152 + d.toNat * 16384 + a.toNat * 128 + b.toNat))
  | .sfsub e g d a b => some (BitVec.ofNat 32 (1350565888 + e.toNat * 4194304 + g.toNat * 2097152 + d.toNat * 16384 + a.toNat * 128 + b.toNat))
  | .sfmul e g d a b => some (BitVec.ofNat 32 (1358954496 + e.toNat * 4194304 + g.toNat * 2097152 + d.toNat * 16384 + a.toNat * 128 + b.toNat))
  | .sffma e g d a b => some (BitVec.ofNat 32 (1367343104 + e.toNat * 4194304 + g.toNat * 2097152 + d.toNat * 16384 + a.toNat * 128 + b.toNat))
  | .sfcmplt e g d a b => some (BitVec.ofNat 32 (1375731712 + e.toNat * 4194304 + g.toNat * 2097152 + d.toNat * 16384 + a.toNat * 128 + b.toNat))
  | .sfcvt e d a n => some (BitVec.ofNat 32 (1384120320 + e.toNat * 4194304 + d.toNat * 16384 + a.toNat * 128 + n.toNat))
  | .saddi d a i => some (BitVec.ofNat 32 (1392508928 + d.toNat * 65536 + a.toNat * 512 + i.toNat))
  | .sandi d a i => some (BitVec.ofNat 32 (1400897536 + d.toNat * 65536 + a.toNat * 512 + i.toNat))
  | .sori d a i => some (BitVec.ofNat 32 (1409286144 + d.toNat * 65536 + a.toNat * 512 + i.toNat))
  | .sxori d a i => some (BitVec.ofNat 32 (1417674752 + d.toNat * 65536 + a.toNat * 512 + i.toNat))
  | .sshli d a i => some (BitVec.ofNat 32 (1426063360 + d.toNat * 65536 + a.toNat * 512 + i.toNat))
  | .sshrui d a i => some (BitVec.ofNat 32 (1434451968 + d.toNat * 65536 + a.toNat * 512 + i.toNat))
  | .sshrsi d a i => some (BitVec.ofNat 32 (1442840576 + d.toNat * 65536 + a.toNat * 512 + i.toNat))
  | .scmpeqi d a i => some (BitVec.ofNat 32 (1451229184 + d.toNat * 65536 + a.toNat * 512 + i.toNat))
  | .scmpltsi d a i => some (BitVec.ofNat 32 (1459617792 + d.toNat * 65536 + a.toNat * 512 + i.toNat))
  | .scmpltui d a i => some (BitVec.ofNat 32 (1468006400 + d.toNat * 65536 + a.toNat * 512 + i.toNat))
  | .bri a n => some (BitVec.ofNat 32 (1610612736 + a.toNat * 512 + n.toNat))
  | .jr e a => some (BitVec.ofNat 32 (1619001344 + e.toNat * 4194304 + a.toNat * 128))
  | .callr e a => some (BitVec.ofNat 32 (1627389952 + e.toNat * 4194304 + a.toNat * 128))
  | .exit => some (BitVec.ofNat 32 (1635778560))
  | .exitto a n => some (BitVec.ofNat 32 (1644167168 + a.toNat * 512 + n.toNat))
  | .spawn d a => some (BitVec.ofNat 32 (1652555776 + d.toNat * 65536 + a.toNat * 512))
  | .bar => some (BitVec.ofNat 32 (1660944384))
  | .barSp => some (BitVec.ofNat 32 (1660944385))
  | .parv d n k => some (BitVec.ofNat 32 (1669332992 + d.toNat * 65536 + n.toNat * 8 + k.toNat))
  | .pwait a k => some (BitVec.ofNat 32 (1677721600 + a.toNat * 512 + k.toNat))
  | .win i => some (BitVec.ofNat 32 (1686110208 + i.toNat))
  | .winq d => some (BitVec.ofNat 32 (1694498816 + d.toNat * 16384))
  | .vsw k => some (BitVec.ofNat 32 (1702887424 + k.toNat))
  | .yield => some (BitVec.ofNat 32 (1711276032))
  | .nop => some (BitVec.ofNat 32 (1719664640))
  | .sysc n => some (BitVec.ofNat 32 (1728053248 + n.toNat))
  | .brk n => some (BitVec.ofNat 32 (1736441856 + n.toNat))
  | .tret => some (BitVec.ofNat 32 (1744830464))
  | .enq e g d a b => some (BitVec.ofNat 32 (1753219072 + e.toNat * 4194304 + g.toNat * 2097152 + d.toNat * 16384 + a.toNat * 128 + b.toNat))
  | .join e d a => some (BitVec.ofNat 32 (1761607680 + e.toNat * 4194304 + d.toNat * 16384 + a.toNat * 128))
  | .msd e d a n => some (BitVec.ofNat 32 (1769996288 + e.toNat * 4194304 + d.toNat * 16384 + a.toNat * 128 + n.toNat))
  | .msdWithdraw e d a => some (BitVec.ofNat 32 (1769996288 + e.toNat * 4194304 + d.toNat * 16384 + a.toNat * 128))
  | .msx e g d a b => some (BitVec.ofNat 32 (1778384896 + e.toNat * 4194304 + g.toNat * 2097152 + d.toNat * 16384 + a.toNat * 128 + b.toNat))
  | .hstat d sel => some (BitVec.ofNat 32 (1786773504 + d.toNat * 16384 + sel.toNat))
  | .hstatLog e d a sel => some (BitVec.ofNat 32 (1786773504 + e.toNat * 4194304 + d.toNat * 16384 + a.toNat * 128 + sel.toNat))
  | .sigmask e d a => some (BitVec.ofNat 32 (1795162112 + e.toNat * 4194304 + d.toNat * 16384 + a.toNat * 128))
  | .sighand e d a => some (BitVec.ofNat 32 (1803550720 + e.toNat * 4194304 + d.toNat * 16384 + a.toNat * 128))
  | .sighandCause d => some (BitVec.ofNat 32 (1803550721 + d.toNat * 16384))
  | .sighandTaddr d => some (BitVec.ofNat 32 (1803550722 + d.toNat * 16384))
  | .sighandTmask d => some (BitVec.ofNat 32 (1803550723 + d.toNat * 16384))
  | .sighandFaddr d => some (BitVec.ofNat 32 (1803550724 + d.toNat * 16384))
  | .pget d sel => some (BitVec.ofNat 32 (1879048192 + d.toNat * 65536 + sel.toNat))
  | .pset a sel => some (BitVec.ofNat 32 (1887436800 + a.toNat * 512 + sel.toNat))
  | .unpark e g d a b => some (BitVec.ofNat 32 (1895825408 + e.toNat * 4194304 + g.toNat * 2097152 + d.toNat * 16384 + a.toNat * 128 + b.toNat))
  | .sig e d a => some (BitVec.ofNat 32 (1904214016 + e.toNat * 4194304 + d.toNat * 16384 + a.toNat * 128))
  | .tinj e g d a b => some (BitVec.ofNat 32 (1912602624 + e.toNat * 4194304 + g.toNat * 2097152 + d.toNat * 16384 + a.toNat * 128 + b.toNat))
  | .swapo e g d a b => some (BitVec.ofNat 32 (1920991232 + e.toNat * 4194304 + g.toNat * 2097152 + d.toNat * 16384 + a.toNat * 128 + b.toNat))
  | .swapi e g d a b => some (BitVec.ofNat 32 (1929379840 + e.toNat * 4194304 + g.toNat * 2097152 + d.toNat * 16384 + a.toNat * 128 + b.toNat))
  | .sysrp e g d a b => some (BitVec.ofNat 32 (1937768448 + e.toNat * 4194304 + g.toNat * 2097152 + d.toNat * 16384 + a.toNat * 128 + b.toNat))
  | .tlbinv e g a b => some (BitVec.ofNat 32 (1946157056 + e.toNat * 4194304 + g.toNat * 2097152 + a.toNat * 128 + b.toNat))
  | .tfence sel => some (BitVec.ofNat 32 (1954545664 + sel.toNat * 64))
  | .tprobe e g d a b => some (BitVec.ofNat 32 (1962934272 + e.toNat * 4194304 + g.toNat * 2097152 + d.toNat * 16384 + a.toNat * 128 + b.toNat))
  | .aspill e g d a b => some (BitVec.ofNat 32 (1971322880 + e.toNat * 4194304 + g.toNat * 2097152 + d.toNat * 16384 + a.toNat * 128 + b.toNat))
  | .afill e g d a b => some (BitVec.ofNat 32 (1979711488 + e.toNat * 4194304 + g.toNat * 2097152 + d.toNat * 16384 + a.toNat * 128 + b.toNat))
  | .chres e g d a b => some (BitVec.ofNat 32 (1988100096 + e.toNat * 4194304 + g.toNat * 2097152 + d.toNat * 16384 + a.toNat * 128 + b.toNat))
  | .chabt e g d a b => some (BitVec.ofNat 32 (1996488704 + e.toNat * 4194304 + g.toNat * 2097152 + d.toNat * 16384 + a.toNat * 128 + b.toNat))
  | .lmapw e g d a b => some (BitVec.ofNat 32 (2004877312 + e.toNat * 4194304 + g.toNat * 2097152 + d.toNat * 16384 + a.toNat * 128 + b.toNat))
  | .chkmFloor d a => some (BitVec.ofNat 32 (2013265920 + d.toNat * 65536 + a.toNat * 512))
  | .chkmLmap d a => some (BitVec.ofNat 32 (2013265921 + d.toNat * 65536 + a.toNat * 512))
  | .chkmLfail d a => some (BitVec.ofNat 32 (2013265922 + d.toNat * 65536 + a.toNat * 512))
  | .chkmCmap d a => some (BitVec.ofNat 32 (2013265923 + d.toNat * 65536 + a.toNat * 512))
  | .chkmCnt d a => some (BitVec.ofNat 32 (2013265924 + d.toNat * 65536 + a.toNat * 512))
  | .chkmClr d a => some (BitVec.ofNat 32 (2013265925 + d.toNat * 65536 + a.toNat * 512))
  | .trcfg g d sel b => some (BitVec.ofNat 32 (2021654528 + g.toNat * 2097152 + d.toNat * 16384 + sel.toNat * 128 + b.toNat))
  | .bpset e g d a b => some (BitVec.ofNat 32 (2030043136 + e.toNat * 4194304 + g.toNat * 2097152 + d.toNat * 16384 + a.toNat * 128 + b.toNat))
  | .wpset e g d a b => some (BitVec.ofNat 32 (2038431744 + e.toNat * 4194304 + g.toNat * 2097152 + d.toNat * 16384 + a.toNat * 128 + b.toNat))
  | .smpl d p => some (BitVec.ofNat 32 (2046820352 + d.toNat * 65536 + p.toNat))
  | .garmShare e g d a b => some (BitVec.ofNat 32 (2055208960 + e.toNat * 4194304 + g.toNat * 2097152 + d.toNat * 16384 + a.toNat * 128 + b.toNat))
  | .garmRead e g d a b => some (BitVec.ofNat 32 (2055208960 + e.toNat * 4194304 + g.toNat * 2097152 + d.toNat * 16384 + a.toNat * 128 + b.toNat))
  | .garmRelease e g d a b => some (BitVec.ofNat 32 (2055208960 + e.toNat * 4194304 + g.toNat * 2097152 + d.toNat * 16384 + a.toNat * 128 + b.toNat))
  | .dcfg g d sel b => some (BitVec.ofNat 32 (2063597568 + g.toNat * 2097152 + d.toNat * 16384 + sel.toNat * 128 + b.toNat))
  | .carve g d b => some (BitVec.ofNat 32 (2063599616 + g.toNat * 2097152 + d.toNat * 16384 + b.toNat))
  | .ctxon g d b => some (BitVec.ofNat 32 (2063599744 + g.toNat * 2097152 + d.toNat * 16384 + b.toNat))
  | .ctxoff g d b => some (BitVec.ofNat 32 (2063599872 + g.toNat * 2097152 + d.toNat * 16384 + b.toNat))
  | .qarm g d b => some (BitVec.ofNat 32 (2063600000 + g.toNat * 2097152 + d.toNat * 16384 + b.toNat))
  | .kill g d b => some (BitVec.ofNat 32 (2063600128 + g.toNat * 2097152 + d.toNat * 16384 + b.toNat))
  | .vreq e g d a b => some (BitVec.ofNat 32 (2071986176 + e.toNat * 4194304 + g.toNat * 2097152 + d.toNat * 16384 + a.toNat * 128 + b.toNat))
  | .halt e d a => some (BitVec.ofNat 32 (2080374784 + e.toNat * 4194304 + d.toNat * 16384 + a.toNat * 128))
  | .resm e d a => some (BitVec.ofNat 32 (2088763392 + e.toNat * 4194304 + d.toNat * 16384 + a.toNat * 128))
  | .intfwAck e g d a b => some (BitVec.ofNat 32 (2097152000 + e.toNat * 4194304 + g.toNat * 2097152 + d.toNat * 16384 + a.toNat * 128 + b.toNat))
  | .intfwFwd e g d a b => some (BitVec.ofNat 32 (2097152000 + e.toNat * 4194304 + g.toNat * 2097152 + d.toNat * 16384 + a.toNat * 128 + b.toNat))
  | .intfwRaise e g d a b => some (BitVec.ofNat 32 (2097152000 + e.toNat * 4194304 + g.toNat * 2097152 + d.toNat * 16384 + a.toNat * 128 + b.toNat))
  | .intfwSend e g d a b => some (BitVec.ofNat 32 (2097152000 + e.toNat * 4194304 + g.toNat * 2097152 + d.toNat * 16384 + a.toNat * 128 + b.toNat))
  | .ldb d a i => some (BitVec.ofNat 32 (2147483648 + d.toNat * 65536 + a.toNat * 512 + i.toNat))
  | .ldbs d a i => some (BitVec.ofNat 32 (2155872256 + d.toNat * 65536 + a.toNat * 512 + i.toNat))
  | .ldh d a i => some (BitVec.ofNat 32 (2164260864 + d.toNat * 65536 + a.toNat * 512 + i.toNat))
  | .ldhs d a i => some (BitVec.ofNat 32 (2172649472 + d.toNat * 65536 + a.toNat * 512 + i.toNat))
  | .ldw d a i => some (BitVec.ofNat 32 (2181038080 + d.toNat * 65536 + a.toNat * 512 + i.toNat))
  | .ldd d a i => some (BitVec.ofNat 32 (2189426688 + d.toNat * 65536 + a.toNat * 512 + i.toNat))
  | .ldq d a i => some (BitVec.ofNat 32 (2197815296 + d.toNat * 65536 + a.toNat * 512 + i.toNat))
  | .stb d a i => some (BitVec.ofNat 32 (2206203904 + d.toNat * 65536 + a.toNat * 512 + i.toNat))
  | .sth d a i => some (BitVec.ofNat 32 (2214592512 + d.toNat * 65536 + a.toNat * 512 + i.toNat))
  | .stw d a i => some (BitVec.ofNat 32 (2222981120 + d.toNat * 65536 + a.toNat * 512 + i.toNat))
  | .std d a i => some (BitVec.ofNat 32 (2231369728 + d.toNat * 65536 + a.toNat * 512 + i.toNat))
  | .stq d a i => some (BitVec.ofNat 32 (2239758336 + d.toNat * 65536 + a.toNat * 512 + i.toNat))
  | .sld d a i => some (BitVec.ofNat 32 (2248146944 + d.toNat * 65536 + a.toNat * 512 + i.toNat))
  | .sldw d a i => some (BitVec.ofNat 32 (2256535552 + d.toNat * 65536 + a.toNat * 512 + i.toNat))
  | .sst d a i => some (BitVec.ofNat 32 (2264924160 + d.toNat * 65536 + a.toNat * 512 + i.toNat))
  | .sstw d a i => some (BitVec.ofNat 32 (2273312768 + d.toNat * 65536 + a.toNat * 512 + i.toNat))
  | .ldwx e g d a b => some (BitVec.ofNat 32 (2281701376 + e.toNat * 4194304 + g.toNat * 2097152 + d.toNat * 16384 + a.toNat * 128 + b.toNat))
  | .stwx e g d a b => some (BitVec.ofNat 32 (2290089984 + e.toNat * 4194304 + g.toNat * 2097152 + d.toNat * 16384 + a.toNat * 128 + b.toNat))
  | .lda d a sel z => some (BitVec.ofNat 32 (2298478592 + d.toNat * 65536 + a.toNat * 512 + sel.toNat * 64 + z.toNat * 16))
  | .stl d a sel z => some (BitVec.ofNat 32 (2306867200 + d.toNat * 65536 + a.toNat * 512 + sel.toNat * 64 + z.toNat * 16))
  | .fence sel => some (BitVec.ofNat 32 (2315255808 + sel.toNat * 64))
  | .xfence sel p q => some (BitVec.ofNat 32 (2323644416 + sel.toNat * 64 + p.toNat * 8 + q.toNat))
  | .atadd e g d a b => some (BitVec.ofNat 32 (2332033024 + e.toNat * 4194304 + g.toNat * 2097152 + d.toNat * 16384 + a.toNat * 128 + b.toNat))
  | .atmins e g d a b => some (BitVec.ofNat 32 (2340421632 + e.toNat * 4194304 + g.toNat * 2097152 + d.toNat * 16384 + a.toNat * 128 + b.toNat))
  | .atminu e g d a b => some (BitVec.ofNat 32 (2348810240 + e.toNat * 4194304 + g.toNat * 2097152 + d.toNat * 16384 + a.toNat * 128 + b.toNat))
  | .atmaxs e g d a b => some (BitVec.ofNat 32 (2357198848 + e.toNat * 4194304 + g.toNat * 2097152 + d.toNat * 16384 + a.toNat * 128 + b.toNat))
  | .atmaxu e g d a b => some (BitVec.ofNat 32 (2365587456 + e.toNat * 4194304 + g.toNat * 2097152 + d.toNat * 16384 + a.toNat * 128 + b.toNat))
  | .atand e g d a b => some (BitVec.ofNat 32 (2373976064 + e.toNat * 4194304 + g.toNat * 2097152 + d.toNat * 16384 + a.toNat * 128 + b.toNat))
  | .ator e g d a b => some (BitVec.ofNat 32 (2382364672 + e.toNat * 4194304 + g.toNat * 2097152 + d.toNat * 16384 + a.toNat * 128 + b.toNat))
  | .atxor e g d a b => some (BitVec.ofNat 32 (2390753280 + e.toNat * 4194304 + g.toNat * 2097152 + d.toNat * 16384 + a.toNat * 128 + b.toNat))
  | .atxchg e g d a b => some (BitVec.ofNat 32 (2399141888 + e.toNat * 4194304 + g.toNat * 2097152 + d.toNat * 16384 + a.toNat * 128 + b.toNat))
  | .atcas e g d a b => some (BitVec.ofNat 32 (2407530496 + e.toNat * 4194304 + g.toNat * 2097152 + d.toNat * 16384 + a.toNat * 128 + b.toNat))
  | .atfadd e g d a b => some (BitVec.ofNat 32 (2415919104 + e.toNat * 4194304 + g.toNat * 2097152 + d.toNat * 16384 + a.toNat * 128 + b.toNat))
  | .atdadd e g d a b => some (BitVec.ofNat 32 (2424307712 + e.toNat * 4194304 + g.toNat * 2097152 + d.toNat * 16384 + a.toNat * 128 + b.toNat))
  | .atdcas e g d a b => some (BitVec.ofNat 32 (2432696320 + e.toNat * 4194304 + g.toNat * 2097152 + d.toNat * 16384 + a.toNat * 128 + b.toNat))
  | .vatfadd e g a b => some (BitVec.ofNat 32 (2441084928 + e.toNat * 4194304 + g.toNat * 2097152 + a.toNat * 128 + b.toNat))
  | .vatbadd e g a b => some (BitVec.ofNat 32 (2449473536 + e.toNat * 4194304 + g.toNat * 2097152 + a.toNat * 128 + b.toNat))
  | .vatfmax e g a b => some (BitVec.ofNat 32 (2457862144 + e.toNat * 4194304 + g.toNat * 2097152 + a.toNat * 128 + b.toNat))
  | .vatiadd e g a b => some (BitVec.ofNat 32 (2466250752 + e.toNat * 4194304 + g.toNat * 2097152 + a.toNat * 128 + b.toNat))
  | .waitc e g sel t c w r b => some (BitVec.ofNat 32 (2474639360 + e.toNat * 4194304 + g.toNat * 2097152 + sel.toNat * 262144 + t.toNat * 16384 + c.toNat * 4096 + w.toNat * 2048 + r.toNat * 128 + b.toNat))
  | .pref a i => some (BitVec.ofNat 32 (2483027968 + a.toNat * 512 + i.toNat))
  | .cinv a i => some (BitVec.ofNat 32 (2491416576 + a.toNat * 512 + i.toNat))
  | .cwb a i => some (BitVec.ofNat 32 (2499805184 + a.toNat * 512 + i.toNat))
  | .ldpv d a z o => some (BitVec.ofNat 32 (2508193792 + d.toNat * 65536 + a.toNat * 512 + z.toNat * 256 + o.toNat))
  | .stpv d a z o => some (BitVec.ofNat 32 (2516582400 + d.toNat * 65536 + a.toNat * 512 + z.toNat * 256 + o.toNat))
  | .ldbc d a i => some (BitVec.ofNat 32 (2524971008 + d.toNat * 65536 + a.toNat * 512 + i.toNat))
  | .cpgt e g c k a b => some (BitVec.ofNat 32 (2684354560 + e.toNat * 4194304 + g.toNat * 2097152 + c.toNat * 262144 + k.toNat * 16384 + a.toNat * 128 + b.toNat))
  | .cptg e g c k a b => some (BitVec.ofNat 32 (2692743168 + e.toNat * 4194304 + g.toNat * 2097152 + c.toNat * 262144 + k.toNat * 16384 + a.toNat * 128 + b.toNat))
  | .cpgg e g c k a b => some (BitVec.ofNat 32 (2701131776 + e.toNat * 4194304 + g.toNat * 2097152 + c.toNat * 262144 + k.toNat * 16384 + a.toNat * 128 + b.toNat))
  | .cpat e g c k a b => some (BitVec.ofNat 32 (2709520384 + e.toNat * 4194304 + g.toNat * 2097152 + c.toNat * 262144 + k.toNat * 16384 + a.toNat * 128 + b.toNat))
  | .cpgs e g c k a b => some (BitVec.ofNat 32 (2717908992 + e.toNat * 4194304 + g.toNat * 2097152 + c.toNat * 262144 + k.toNat * 16384 + a.toNat * 128 + b.toNat))
  | .cpsg e g c k a b => some (BitVec.ofNat 32 (2726297600 + e.toNat * 4194304 + g.toNat * 2097152 + c.toNat * 262144 + k.toNat * 16384 + a.toNat * 128 + b.toNat))
  | .cpix e g c k a b => some (BitVec.ofNat 32 (2734686208 + e.toNat * 4194304 + g.toNat * 2097152 + c.toNat * 262144 + k.toNat * 16384 + a.toNat * 128 + b.toNat))
  | .tld e d a m n => some (BitVec.ofNat 32 (2743074816 + e.toNat * 4194304 + d.toNat * 16384 + a.toNat * 128 + m.toNat * 32 + n.toNat))
  | .tst e d a m n => some (BitVec.ofNat 32 (2751463424 + e.toNat * 4194304 + d.toNat * 16384 + a.toNat * 128 + m.toNat * 32 + n.toNat))
  | .cwp e g a b => some (BitVec.ofNat 32 (2759852032 + e.toNat * 4194304 + g.toNat * 2097152 + a.toNat * 128 + b.toNat))
  | .cwait e a => some (BitVec.ofNat 32 (2768240640 + e.toNat * 4194304 + a.toNat * 128))
  | .cdone e d a => some (BitVec.ofNat 32 (2776629248 + e.toNat * 4194304 + d.toNat * 16384 + a.toNat * 128))
  | .cfill e g c k a b => some (BitVec.ofNat 32 (2785017856 + e.toNat * 4194304 + g.toNat * 2097152 + c.toNat * 262144 + k.toNat * 16384 + a.toNat * 128 + b.toNat))
  | .ccan c => some (BitVec.ofNat 32 (2793406464 + c.toNat * 262144))
  | .mmaBf16 e g k sel z a b => some (BitVec.ofNat 32 (2952790016 + e.toNat * 4194304 + g.toNat * 2097152 + k.toNat * 131072 + sel.toNat * 32768 + z.toNat * 16384 + a.toNat * 128 + b.toNat))
  | .mmaF16 e g k sel z a b => some (BitVec.ofNat 32 (2961178624 + e.toNat * 4194304 + g.toNat * 2097152 + k.toNat * 131072 + sel.toNat * 32768 + z.toNat * 16384 + a.toNat * 128 + b.toNat))
  | .mmaE4m3 e g k sel z a b => some (BitVec.ofNat 32 (2969567232 + e.toNat * 4194304 + g.toNat * 2097152 + k.toNat * 131072 + sel.toNat * 32768 + z.toNat * 16384 + a.toNat * 128 + b.toNat))
  | .mmaE5m2 e g k sel z a b => some (BitVec.ofNat 32 (2977955840 + e.toNat * 4194304 + g.toNat * 2097152 + k.toNat * 131072 + sel.toNat * 32768 + z.toNat * 16384 + a.toNat * 128 + b.toNat))
  | .mmaMxe2m1 e g k sel z a b => some (BitVec.ofNat 32 (2986344448 + e.toNat * 4194304 + g.toNat * 2097152 + k.toNat * 131072 + sel.toNat * 32768 + z.toNat * 16384 + a.toNat * 128 + b.toNat))
  | .mmaMxe4m3 e g k sel z a b => some (BitVec.ofNat 32 (2994733056 + e.toNat * 4194304 + g.toNat * 2097152 + k.toNat * 131072 + sel.toNat * 32768 + z.toNat * 16384 + a.toNat * 128 + b.toNat))
  | .mmaMxe2m3 e g k sel z a b => some (BitVec.ofNat 32 (3003121664 + e.toNat * 4194304 + g.toNat * 2097152 + k.toNat * 131072 + sel.toNat * 32768 + z.toNat * 16384 + a.toNat * 128 + b.toNat))
  | .mmaI8 e g k sel z a b => some (BitVec.ofNat 32 (3011510272 + e.toNat * 4194304 + g.toNat * 2097152 + k.toNat * 131072 + sel.toNat * 32768 + z.toNat * 16384 + a.toNat * 128 + b.toNat))
  | .mgang e a => some (BitVec.ofNat 32 (3019898880 + e.toNat * 4194304 + a.toNat * 128))
  | .macq d w n => some (BitVec.ofNat 32 (3028287488 + d.toNat * 65536 + w.toNat * 256 + n.toNat))
  | .mrel a => some (BitVec.ofNat 32 (3036676096 + a.toNat * 512))
  | .mzero k => some (BitVec.ofNat 32 (3045064704 + k.toNat))
  | .mdrain e d a v => some (BitVec.ofNat 32 (3053453312 + e.toNat * 4194304 + d.toNat * 16384 + a.toNat * 128 + v.toNat))
  | .mcfg d c => some (BitVec.ofNat 32 (3061841920 + d.toNat * 65536 + c.toNat))
  | .mstat e d a => some (BitVec.ofNat 32 (3070230528 + e.toNat * 4194304 + d.toNat * 16384 + a.toNat * 128))
  | .mwait e a => some (BitVec.ofNat 32 (3078619136 + e.toNat * 4194304 + a.toNat * 128))
  | .br a o => some (BitVec.ofNat 32 (3221225472 + a.toNat * 65536 + o.toNat))
  | .brz a o => some (BitVec.ofNat 32 (3229614080 + a.toNat * 65536 + o.toNat))
  | .bru a o => some (BitVec.ofNat 32 (3238002688 + a.toNat * 65536 + o.toNat))
  | .bruz a o => some (BitVec.ofNat 32 (3246391296 + a.toNat * 65536 + o.toNat))
  | .brs a o => some (BitVec.ofNat 32 (3254779904 + a.toNat * 65536 + o.toNat))
  | .jmp o => some (BitVec.ofNat 32 (3263168512 + o.toNat))
  | .call o => some (BitVec.ofNat 32 (3271557120 + o.toNat))
  | .sloop a o => some (BitVec.ofNat 32 (3279945728 + a.toNat * 65536 + o.toNat))
  | .smovl d i => some (BitVec.ofNat 32 (3288334336 + d.toNat * 65536 + i.toNat))
  | .smovh d i => some (BitVec.ofNat 32 (3296722944 + d.toNat * 65536 + i.toNat))
  | .smovx d i => some (BitVec.ofNat 32 (3305111552 + d.toNat * 65536 + i.toNat))
  | .smovt d i => some (BitVec.ofNat 32 (3313500160 + d.toNat * 65536 + i.toNat))
  | .vmovl d i => some (BitVec.ofNat 32 (3321888768 + d.toNat * 65536 + i.toNat))
  | .vmovh d i => some (BitVec.ofNat 32 (3330277376 + d.toNat * 65536 + i.toNat))
  | .strandAged _ => none
  | .lineFill _ _ => none
  | .lineEvict _ _ => none
  | .frontierRefill _ => none
  | .producerWriteback _ _ => none
  | .floatWriteback _ _ => none
  | .successorStart _ => none
  | .slotFree _ => none
  | .binAgeExpiry _ _ => none
  | .gatherFormation _ => none
  | .l1Fill _ _ => none
  | .storeLost _ _ => none
  | .accessTimeout _ _ _ => none
  | .promotionRequest _ => none
  | .monitorFire _ => none
  | .waitcPoll _ => none
  | .monitorWake _ => none
  | .tailPoll _ => none
  | .commandStart _ _ _ => none
  | .deliveryUnit _ _ _ => none
  | .commandCompletion _ _ _ => none
  | .channelFault _ _ _ => none
  | .rendezvousComplete _ _ => none
  | .rendezvousTimeout _ _ => none
  | .mmaOperationComplete _ _ _ => none
  | .macqRetry _ => none
  | .drainEntryReady _ _ _ => none
  | .accDeadlockSwap _ => none
  | .mxnSet _ => none
  | .columnMapOut _ _ => none
  | .walkComplete _ _ _ _ _ => none
  | .heldEventEntry _ => none
  | .machineCheck _ _ => none
  | .tailRead _ => none
  | .recordPop _ => none
  | .queueResume _ => none
  | .starvationAge _ _ => none
  | .cohortPlacement _ => none
  | .promotion _ => none
  | .demotion _ => none
  | .quantumExpiry _ => none
  | .preemption => none
  | .switchRequest _ _ => none
  | .variantSwitch _ => none
  | .switchTimeout _ => none
  | .swapOut _ => none
  | .swapIn _ => none
  | .migration _ _ => none
  | .carveModeChange _ => none
  | .cohortCompletion _ => none
  | .launchCompletion _ => none
  | .debugStop _ => none
  | .sampleTag _ _ => none
  | .sampleRecord _ _ => none
  | .laneReissue _ _ _ => none
  | .lmapUpdate _ _ => none
  | .cloneReplay _ _ _ => none
  | .patrolRead _ => none
  | .hostMemWrite _ _ _ => none
  | .hostMemRead _ _ => none
  | .bar0Access _ _ _ _ _ => none
  | .mailboxDoorbell _ _ _ => none
  | .flushComplete _ => none
  | .atsInvalidationRequest _ _ _ => none
  | .peerInboundAccess _ _ _ _ _ _ => none
  | .portDown _ => none
  | .portWidthChange _ _ => none
  | .claimTimerExpiry _ => none
  | .icack _ => none
  | .msixUnmask _ _ => none
  | .integrityCheckFail _ _ => none
  | .ideKeyManagement _ _ => none
  | .spdmRequest _ => none
  | .keyExchange => none
  | .lockInterfaceRequest _ => none
  | .startInterfaceRequest _ => none
  | .stopInterfaceRequest _ => none
  | .getDeviceInterfaceReport _ => none
  | .hostConfigWrite _ _ _ => none
  | .functionLevelReset _ => none
  | .powerFail => none
  | .drainComplete => none
  | .gdone => none
  | .gskip _ => none
  | .policySliceEnd => none
  | .extentWrites => none
  | .sealLog => none
  | .railCollapse => none
  | .supplyReturn => none
  | .logErase => none
  | .thermalAlarm _ => none
  | .thermalTrip => none
  | .powerAlarm _ => none
  | .powerAlarmEnd => none
  | .powerGood => none
  | .stage1 _ => none
  | .stage2 _ _ _ => none
  | .firmwareUpdate _ _ _ _ _ => none
  | .activateFirmware _ _ => none
  | .getState => none
  | .startScrub _ => none
  | .grant _ => none
  | .revoke => none
  | .getRecord => none
  | .revokeDeadline => none
  | .scrubComplete _ _ => none
  | .registerWrite _ _ _ => none
  | .hostSnoop _ _ _ _ => none
  | .globalObservationResponse _ _ _ => none
  | .portUp _ _ => none
  | .portPDown => none
  | .portCError _ => none
  | .portPError => none
  | .resetDevice => none
  | .serviceCoreMessage _ => none

end Sys2Proof
end

