-- ==== Sys2Proof/Config.lean ====
section
/-! DEFINITION. What the spec leaves open: free values without a body, which no proof can see (log 7). -/

namespace Sys2Proof.Config

/-- A 64-bit free value, applied to the free counter of the state (log 7). -/
opaque freeDWord : Nat → BitVec 64
/-- A free natural number, applied to the free counter of the state (log 7). -/
opaque freeNat : Nat → Nat
/-- A free truth value, applied to the free counter of the state (log 7). -/
opaque freeBool : Nat → Bool
/-- What the device fixes and the spec does not give: 0 to 2 the version, size and digest of the mask ROM, 3 the digest of
the identity public key, 4 the certificate chain as a number (19 R482, Table 19-5; 15 R425). -/
opaque fixed : Nat → Nat
/-- The hash of a peer number and a line of it, which chooses the port of an access (15 R415). -/
opaque portHash : Nat → Nat → Nat
/-- The digest that a replay entry keeps of what its instruction wrote (17 R456). -/
opaque digest : List Nat → Nat

end Sys2Proof.Config
end

