-- ==== Sys2Proof/Machine/State.lean ====
section
/-! DEFINITION. The state of the device as plain data (04, 05 and the chapters named at each field), the two
ways a step can stop, and the state after reset. INVENTORY.md lists every field with its rule. -/

namespace Sys2Proof.Machine

/-- A table: pairs of a key and a value, keys strictly rising; a key not listed has the default value. -/
abbrev Tab (α : Type) := List (Nat × α)

/-- A memory: bytes by address, rising, none listed that is 0 (log 1). -/
abbrev Memory := List Host.Cell

/-- A step never stops with a fault: every cause of the spec is taken in a next state, and an access from outside to an
address that no space holds reaches no one (05 R118; 15 R408, R417). Safe: nothing raises it. -/
inductive Fault where
  deriving DecidableEq, Repr

/-- A step can be refused. -/
inductive Refusal where
  /-- Raised by an arm of `exec` that has no meaning yet. Safe. -/
  | notModelled (mnemonic : String)
  deriving DecidableEq, Repr

/-- The causes of 13 Table 13-1. -/
inductive Cause where
  | illegalOpcode | illegalOperand | privileged | registerEmpty | windowOverflow | divideByZero
  | nonUniformBranch | floatInvalid | floatDivideByZero | floatOverflow | floatUnderflow | floatInexact
  | brk | debugHit | systemCall | misaligned | pageNotPresent | permission | privateGuard
  | atomicUncached | nonCanonical | contextImage | tileBound | copyChannel | copyParameter
  | scratchBound | peerLink | hostLink | malformedTable | instructionFetch | accOwnerMiss
  | accSlotNotHeld | gangMismatch | matrixType | queueMisuse | gatherFull | barrierMisuse
  | switchMap | checkMismatch | uncorrectable | laneFailure | signal | joinUnderflow | monitorFull
  | powerFail | thermalAlarm | powerAlarm | serviceMessage | hostInterrupt | leaseRevocation
  | debuggerHalt | sampleBuffer | machineCheck
  deriving DecidableEq, Repr

/-- Why an entry of the frontier is held (06 R155, R179; 11 R297; 14 R388). -/
inductive Hold where
  | no | barrier | gang | switch
  deriving DecidableEq, Repr

/-- An event of a core's event queue before it is laid out as the words of 13 Table 13-2. -/
structure Event where
  cause : Cause
  sub : Nat := 0
  sync : Bool := false
  parked : Bool := false
  bench : Nat := 0
  slot : Nat := 0
  pasid : Nat := 0
  param : Nat := 0
  cib : DWord := 0
  taddr : DWord := 0
  tmask : Mask := 0
  pc : DWord := 0
  /-- Sequence number of its first fault record; none: all ones. -/
  seq : Option Nat := none
  deriving DecidableEq, Repr

/-- A frontier entry (04 Table 4-5), with what the replay queue and the sequencer keep of it. -/
structure Entry where
  mask : Mask := 0
  prio : BitVec 16 := 0
  pc : Pc := 0
  parked : Bool := false
  hold : Hold := .no
  /-- Place in the replay queue (13 R348, R353). -/
  order : Nat := 0
  /-- The cause that parked it, or that is held for it. -/
  cause : Option Cause := none
  /-- A cause of its lanes waits for a place in the event queue or the fault ring (13 R351): it stands at the
  instruction that raised it and is not parked yet. -/
  pending : Bool := false
  deriving DecidableEq, Repr

/-- A fault record before it is written (12 Table 12-4). -/
structure FaultRecord where
  addr : Nat
  mask : Mask
  pasid : Nat
  cause : Nat
  sub : Nat
  kind : Nat
  level : Nat
  channel : Option Nat
  core : Nat
  bench : Nat
  slot : Nat
  last : Nat
  deriving DecidableEq, Repr

/-- What an instruction raises for some of its lanes: the cause, the lanes, TADDR, the parameter, the sub-cause, the
fault records that go before its event (12 R336), and whether TADDR is a data address (13 R366). -/
structure Raise where
  cause : Cause
  mask : Mask
  taddr : DWord := 0
  param : Nat := 0
  sub : Nat := 0
  records : List FaultRecord := []
  data : Bool := false
  /-- The restart point is the next instruction although the cause's own is not (18 R471). -/
  next : Bool := false
  deriving DecidableEq, Repr

/-- What waits for a place in a core's event queue or fault ring (01 R13; 13 R351): a synchronous cause with its strand
and its entry, or an asynchronous event. -/
inductive Held where
  | cause (key : Nat) (e : Entry) (r : Raise)
  | event (e : Event)
  deriving DecidableEq, Repr

/-- A successor entry (06 R161). -/
structure Successor where
  pc : Pc
  lines : Nat
  base : Nat
  deriving DecidableEq, Repr

/-- An outstanding long-latency producer (04 R99): what it writes when PRODUCER_WRITEBACK comes, each line with
the mask of the written lanes and the new elements, each scalar with its value. -/
structure Producer where
  lines : List (Nat × Mask × Line) := []
  scalars : List (Nat × DWord) := []
  push : Option (Nat × Line) := none
  /-- Miss-status entries it holds until its reply (07 R213). -/
  replies : Nat := 0
  /-- Lanes whose access went to a host page, and to a peer page, and the place of the instruction: what an access
  time-out needs (07 R196). -/
  hostLanes : Mask := 0
  peerLanes : Mask := 0
  vas : List (Nat × DWord) := []
  /-- Of each lane whose access went to a peer: the peer address and the port on which it was sent (15 R415). -/
  sent : List (Nat × Nat × Nat) := []
  /-- The lanes of the entry, of a form that makes one access for all of them; else none. -/
  whole : Mask := 0
  pc : Pc := 0
  prio : BitVec 16 := 0
  issued : Nat := 0
  /-- The bytes of its lanes are tile bytes, which a move of the cohort waits for (10 R291). -/
  tile : Bool := false
  /-- A `tlbinv` has removed the translation of an access that is not answered yet (12 R339). -/
  stale : Bool := false
  deriving DecidableEq, Repr

/-- An outstanding float result (09 R250): the lines it writes with their masks and elements, or the entry it
pushes, the flags of each lane (lane 0 first), the instruction's lanes, address and priority, and STAT.TE at issue. -/
structure FloatResult where
  lines : List (Nat × Mask × Line) := []
  push : Option (Nat × Line) := none
  flags : List (BitVec 5) := []
  mask : Mask := 0
  pc : Pc := 0
  prio : BitVec 16 := 0
  te : BitVec 5 := 0
  /-- Flags of lanes 32 to 63 in shadow mode, united (17 R459). -/
  shadow : BitVec 5 := 0
  deriving DecidableEq, Repr

/-- How a waiting strand waits (07 R220, R222). -/
inductive WaitHow where
  /-- A monitor entry of the given place is armed. -/
  | armed (place : Nat)
  /-- The monitor has fired. -/
  | fired
  /-- No entry was free: the element is polled. -/
  | polling
  deriving DecidableEq, Repr

/-- A wait in progress of `waitc`, `cwp` or `cwait` (07 R219, R220; 10 R284, R285): the entry that waits, the
element, its condition (0 equal, 1 not equal, 2 at least) and comparand, the scope of its acquire and the scalar
that receives its status. -/
structure Wait where
  pc : Pc
  how : WaitHow
  va : DWord
  wide : Bool
  cond : Nat
  cmp : Nat
  scope : Nat
  status : Option Nat
  /-- It is `cwp` or `cwait`: what a command wrote is waited for (05 Table 5-5). -/
  engine : Bool := false
  /-- The peer address it watches and the port on which that was asked for (15 R415, R418). -/
  sent : Option (Nat × Nat) := none
  deriving DecidableEq, Repr

/-- One descriptor of a drain stream (11 R318, Table 11-6): its conversion, the next entry to be prepared, the
next entry to be popped, and its fields. -/
structure Drain where
  conv : Nat := 0
  prepared : Nat := 0
  popped : Nat := 0
  idx : Nat := 0
  col : Nat := 0
  cols : Nat := 1
  interleave : Bool := false
  clear : Bool := false
  saturate : Bool := false
  deriving DecidableEq, Repr

/-- A strand: its registers, its frontier, and the scheduling state of its slot (04 R78 to R105, 06 R155 to R174). -/
structure Strand where
  key : Nat := 0
  /-- The supervisor strand of its core (13 R349). -/
  sup : Bool := false
  cib : DWord := 0
  ccb : DWord := 0
  core : Nat := 0
  bench : Nat := 0
  slot : Nat := 0
  sidx : Nat := 0
  /-- Declared lines (04 Table 4-6, DESC). -/
  nlines : Nat := 0
  /-- Base of the strand's private area (s6 at start, 07 R206). -/
  privBase : DWord := 0
  scal : Tab DWord := []
  sFull : BitVec 64 := BitVec.allOnes 64
  vec : Tab Line := []
  vFull : BitVec 512 := BitVec.allOnes 512
  /-- Lines not resident in the register region (01 R8). -/
  absent : BitVec 512 := 0
  stat : DWord := 0
  wb : Nat := 0
  gang : DWord := 0
  cause : BitVec 6 := 0
  taddr : DWord := 0
  tmask : DWord := 0
  handler : DWord := 0
  sigmask : DWord := 0
  /-- FADDR, in a supervisor strand only (13 R366). -/
  faddr : DWord := 0
  frontier : List Entry := []
  /-- How many entries at the head of the frontier are in the slot (06 R158). -/
  resident : Nat := 8
  /-- The entries that the spill area of its image holds, as words (06 R158). -/
  spilled : List (Nat × Nat) := []
  /-- The next place in the replay queue (13 R353). -/
  nextOrder : Nat := 0
  succ : Option Successor := none
  /-- q5 of a user strand, oldest first (04 R102). -/
  replies : List DWord := []
  /-- The address of a release or an `xfence` whose flush the host has acknowledged (05 R148). -/
  flushed : Option Pc := none
  /-- Drain streams q0 to q3, oldest descriptor first (11 R318). -/
  drains : Tab (List Drain) := []
  /-- Entries kept ready, at most two a stream; none: its preparation read an uncorrectable error (11 R319). -/
  readyq : Tab (List (Option Line)) := []
  /-- The stream states as they stand in the matrix area (11 R319). -/
  streams : List Nat := []
  producers : List Producer := []
  floats : List FloatResult := []
  /-- The lines whose results of a shuffle, a lane write, a scan, a reduction or a ballot still travel, with the cycle from
  which each stands (06 R153; 08 R229). -/
  late : Tab Nat := []
  /-- Stall reason of 06 Table 6-1, 0 for none. -/
  stall : Nat := 0
  /-- When it was tried last and reported its stall reason. -/
  tried : Nat := 0
  lastIssue : Nat := 0
  /-- Counted ready cycles since its last issue (06 R152). -/
  ready : Nat := 0
  aged : Bool := false
  /-- Bench cycles left of a yield (06 R174). -/
  yield : Nat := 0
  /-- Waits in progress, at most one at an address (07 R220, R223). -/
  waits : List Wait := []
  /-- The strand has exited (06 R171), and when (06 R177). -/
  exited : Bool := false
  exitedAt : Nat := 0
  /-- Its slot is free (06 R171). -/
  freed : Bool := false
  /-- A code hit was passed over for the next issue of this address (18 R470). -/
  passed : Option Pc := none
  /-- The place of a `macq.w` that waits for physical slots, how many it wants, and since when (11 R312, R315). -/
  acquiring : Option (Pc × Nat × Nat) := none
  /-- Causes of lanes that have left the instruction which issues; they are taken with its own (13 R347). -/
  also : List Raise := []
  /-- The check engine's flags of lanes 32 to 63 in shadow mode (17 R459). -/
  shadowFl : BitVec 5 := 0
  /-- The address of an instruction whose clone replay found a mismatch (17 R458). -/
  cloneBad : Option Pc := none
  /-- Lanes whose clone comparison fails at the next vector instruction: a choice of the environment (17 R458). -/
  cloneLanes : Mask := 0
  /-- Lanes in which the next source it reads is uncorrectable: a choice of the environment (17 R463). -/
  flawed : Mask := 0
  /-- The strand's slot in its core (hot slot number while hot). -/
  hot : Bool := false
  deriving DecidableEq, Repr

/-- A phase barrier (06 Table 6-4). -/
structure Phase where
  cnt : Nat := 0
  ph : Bool := false
  n : Nat := 0
  act : Bool := false
  deriving DecidableEq, Repr

/-- A barrier of a cohort (06 R179, Table 6-4). -/
structure Barrier where
  pc : Pc := 0
  span : Bool := false
  /-- The strand slots that held an entry at it when the cohort was read back from its image. -/
  held : List Nat := []
  deriving DecidableEq, Repr

/-- Where a cohort stands (04 Table 4-3). -/
inductive Residency where
  | waiting | warm | hot | absent
  deriving DecidableEq, Repr

/-- A switch point of a variant: its number, the offset of its word, its line maps and its scratch carry
(03 R74, 14 Bundle layout). -/
structure SwitchPoint where
  point : Nat
  offset : Nat
  lines : List (Nat × Nat) := []
  scratchFrom : Nat := 0
  scratchBytes : Nat := 0
  deriving DecidableEq, Repr

/-- A variant record of a bundle (03 R77, 14 Bundle layout). -/
structure Variant where
  id : Nat := 0
  entry : Nat := 0
  strands : Nat := 1
  lines : Nat := 32
  /-- Roles: first strand, count, lines; and the first strand and count of the matrix role (11 R325). -/
  roles : List (Nat × Nat × Nat) := []
  matrixRole : Option (Nat × Nat) := none
  reservation : Nat := 0
  scratch : Nat := 0
  acc : Nat := 0
  carve : Nat := 0
  check : Nat := 0
  priv : Nat := 0
  points : List SwitchPoint := []
  deriving DecidableEq, Repr

/-- What an accumulator slot holds (11 Table 11-4, MODE). -/
inductive SlotMode where
  | clear | a48 | int48
  deriving DecidableEq, Repr

/-- An entry of a cohort's slot map (11 Table 11-4). -/
structure Slot where
  granted : Bool := false
  acquired : Bool := false
  resident : Bool := false
  saved : Bool := false
  mode : SlotMode := .clear
  err : Bool := false
  core : Nat := 0
  phys : Nat := 0
  deriving DecidableEq, Repr

/-- A transfer command of the copy engine (10 Tables 10-1, 10-2, 10-5). -/
inductive CopyOp where
  | cpgt | cptg | cpgg | cpat | cpgs | cpsg | cpix | cfill
  deriving DecidableEq, Repr

/-- An accepted command (10 R269 to R277): its parameters, the row and column of the next unit, what it has
delivered, and how it stands. -/
structure Command where
  op : CopyOp
  src : DWord
  dst : DWord
  len : Nat
  rows : Nat
  sstr : BitVec 32
  dstr : BitVec 32
  /-- The index address of `cpix`. -/
  index : DWord := 0
  tile : Bool := false
  sat : Bool := false
  conv : Nat := 0
  cwa : DWord
  pwa : DWord
  /-- Issued by a user strand (R288). -/
  user : Bool
  pasid : Nat
  core : Nat
  started : Bool := false
  base : Nat := 0
  row : Nat := 0
  col : Nat := 0
  /-- The index word of the row that has started, of `cpix` (R278). -/
  picked : Option Nat := none
  /-- The next byte it reads of the tile store, scratch or a slot is uncorrectable: a choice of the environment
  (R276; 17 R463). -/
  flawed : Bool := false
  delivered : Nat := 0
  /-- The sub-cause for which its channel is parked (R288). -/
  parked : Option Nat := none
  /-- CODE and XC with which it ends, once that is decided. -/
  ended : Option (Nat × Nat) := none
  /-- Its place among the matrix operations and accumulator commands of its cohort (R281). -/
  order : Nat := 0
  /-- Accepted before the last swap-in of its cohort (R291). -/
  old : Bool := false
  deriving DecidableEq, Repr

/-- Work that waits for resources (14 R377, R380): the head of a queue, or a cohort by its CCB. -/
inductive Item where
  | queue (q : Nat)
  | cohort (ccb : DWord)
  deriving DecidableEq, Repr

/-- Why a switch request was raised (14 R382, R387, R391): by `vreq`, for a richer variant, or to make room for a waiting
cohort: the item, and for a queue which of its cohorts that is. -/
inductive Asked where
  | vreq
  | richer
  | room (w : Item) (tag : List Nat)
  deriving DecidableEq, Repr

/-- A switch request (14 R387): its target and its cause. -/
structure SwitchRequest where
  target : Nat
  asked : Asked
  deriving DecidableEq, Repr

/-- A move that has been decided and waits for its cohort to drain (14 R392): a swap-out, a demotion, or a migration to
a core. -/
inductive Leave where
  | out
  | demote
  | migrate (core : Nat)
  deriving DecidableEq, Repr

/-- The rendezvous of a variant switch (14 R388): its point and the time of its first arrival. -/
structure SwitchMeet where
  point : Nat
  since : Nat
  deriving DecidableEq, Repr

/-- A cohort: its image's words that move with it, its shared registers and its place (04 R96, R102, 06 R182). -/
structure Cohort where
  ccb : DWord := 0
  pasid : Nat := 0
  ctx : Nat := 0
  launch : Nat := 0
  /-- Cohort index and the launch's cohort count (04 R81, Table 4-9). -/
  index : Nat := 0
  count : Nat := 1
  span : Nat := 0
  pos : Nat := 0
  /-- Variant id now, and the one chosen at admission (04 R113). -/
  vid : Nat := 0
  vid0 : Nat := 0
  variants : List Variant := []
  vmask : Nat := 0
  check : Nat := 0
  carve : Nat := 0
  cls : Nat := 0
  seq : Nat := 0
  residency : Residency := .waiting
  core : Nat := 0
  bundle : DWord := 0
  frame : DWord := 0
  /-- Priority map of the bundle, absolute addresses rising (06 R156). -/
  pmap : List (Nat × BitVec 16) := []
  cibs : List (Option DWord) := []
  scratch : Memory := []
  scratchImage : DWord := 0
  mailboxImage : DWord := 0
  /-- q4: entries oldest first, and the ring index of the oldest (04 R102). -/
  mailbox : List Line := []
  mailboxHead : Nat := 0
  /-- When the mailbox changed last: strands that waited for it before may go on. -/
  mailAt : Nat := 0
  barrier : Option Barrier := none
  spanArrived : Bool := false
  /-- The barrier and phase words as they stand in its image (06 R182). -/
  shown : List (Nat × Nat) := []
  phases : Tab Phase := []
  /-- Slot map (11 R307). -/
  slots : Tab Slot := []
  /-- The copy channels 0 to 7, oldest command first (10 R269). -/
  channels : Tab (List Command) := []
  /-- When the open gather bins opened, or the cohort was swapped in, and when closed ones became due (06 R176, R177). -/
  binOpened : Tab Nat := []
  binDue : Tab Nat := []
  /-- Where the image of each strand slot is, by slot, and the lines each image has room for (14 R376). -/
  privSlots : List Nat := []
  spanImage : DWord := 0
  /-- The bundle declares accumulators in some variant: it has a matrix area (11 R308). -/
  matrix : Bool := false
  request : Option SwitchRequest := none
  meet : Option SwitchMeet := none
  /-- Halt word: HALT, SKIP, WHY (18 R472), and a stop that is to be carried out. -/
  halted : Bool := false
  skip : Bool := false
  why : Nat := 0
  stopping : Bool := false
  /-- A move that is decided (14 R392), and the strands whose `swapo` or `halt` waits for it (14 R396, 18 R473). -/
  leaving : Option Leave := none
  waiters : List Nat := []
  /-- The strands whose wait such a swap-out has ended, and that have still to take their answer. -/
  outDone : List Nat := []
  /-- The frames it holds in its pool: first frame and count (14 R376). -/
  frames : List (Nat × Nat) := []
  /-- Held out by `swapo`; pinned to a core by `swapi` (14 R396, R397). -/
  heldOut : Bool := false
  pin : Option Nat := none
  /-- Stopped by a machine check, to be ended by firmware (13 R344). -/
  dead : Bool := false
  nmig : Bool := false
  nsw : Bool := false
  handle : Nat := 0
  /-- Held causes kept over a swap-out, oldest first (01 R14, 13 R367). -/
  kept : List Held := []
  /-- When it began to wait, when it was promoted, and whether it is aged (14 R380 to R382). -/
  waitSince : Nat := 0
  hotSince : Nat := 0
  aged : Bool := false
  /-- The next place in the order of its matrix operations and accumulator commands (10 R281, 11 R323). -/
  mxOrder : Nat := 0
  /-- The next word of its scratch that is saved is uncorrectable, and the next byte that `tld` or `tst` touches in its tile
  window: choices of the environment (17 R463). -/
  flawed : Bool := false
  flawedTile : Bool := false
  deriving DecidableEq, Repr

/-- A span of cohorts (04 R97, Table 4-11). -/
structure Span where
  size : Nat := 1
  image : DWord := 0
  ccbs : List DWord := []
  arrived : List Nat := []
  completed : List Nat := []
  /-- Address of the pending span barrier. -/
  pending : Option Pc := none
  /-- Held out by `swapo` or halted (14 R396, 18 R472). -/
  heldOut : Bool := false
  pasid : Nat := 0
  frames : List (Nat × Nat) := []
  /-- The core on which a position that has completed was last resident. -/
  cores : Tab Nat := []
  /-- Its words as they stand in its image (04 Table 4-11). -/
  shown : List (Nat × Nat) := []
  deriving DecidableEq, Repr

/-- A cached translation: PASID, first virtual address, the power of two of its size (17, 24 for a run, 30),
its level, and the leaf as installed (12 R332). -/
structure TlbEntry where
  pasid : Nat
  va : Nat
  size : Nat
  level : Nat
  leaf : Nat
  deriving DecidableEq, Repr

/-- A cached pointer entry: PASID, the level of the table it names, the address bits that select it, the entry. -/
structure PtrEntry where
  pasid : Nat
  level : Nat
  va : Nat
  entry : Nat
  deriving DecidableEq, Repr

/-- A slice translation cache (12 Table 12-3), newest first. -/
structure SliceCache where
  leaves : List TlbEntry := []
  pointers : List PtrEntry := []
  deriving DecidableEq, Repr

/-- An active context slot (14 R374, Table 14-5). -/
structure Context where
  pasid : Nat := 0
  /-- The root as a pointer entry of 12 Table 12-2. -/
  root : Nat := 0
  framePool : Nat := 0
  frameBytes : Nat := 0
  privPool : Nat := 0
  privSize : Nat := 0
  privCount : Nat := 0
  /-- Private slots that are taken (14 R376). -/
  privTaken : List Nat := []
  /-- Frames of the frame pool that are taken: first frame and count (14 R376). -/
  taken : List (Nat × Nat) := []
  vector : Nat := 0
  /-- CTXOFF has ended it, and accesses that it translated are still under way (14 R375; 12 R339). -/
  ending : Bool := false
  deriving DecidableEq, Repr

/-- A line of the L1: its 128 bytes as one little-endian number, and whether `ldpv` or `stpv` filled it (05 R129). -/
structure L1Line where
  data : Nat
  priv : Bool
  /-- Its 8-byte words that were uncorrectable at their home when it was filled (07 R196; 17 R463). -/
  bad : List Nat := []
  deriving DecidableEq, Repr

/-- A miss-status entry that waits for its fill (07 R213). -/
structure Miss where
  line : Nat
  since : Nat
  priv : Bool
  deriving DecidableEq, Repr

/-- A store to host or peer pages that is not acknowledged yet (07 R197, 15 R410): each byte with its old and new
value, the lanes, the lowest address, and whether a release narrower than the device orders it (07 R210). -/
structure Outstanding where
  peer : Bool
  key : Nat
  pasid : Nat := 0
  mask : Mask
  va : DWord
  ordered : Bool := false
  /-- It goes to a line under a UC mapping, whose writes are performed in order (15 R410). -/
  uc : Bool := false
  /-- A `tlbinv` has removed the translation that it was made with (12 R339). -/
  stale : Bool := false
  /-- The port on which it was sent to a peer (15 R415). -/
  port : Nat := 0
  cells : List (Nat × Byte × Byte)
  deriving DecidableEq, Repr

/-- Who waits on a monitor entry (07 R221, R224; 14 R373). -/
inductive Waiter where
  | strand (key : Nat) (pc : Pc)
  | tail (queue : Nat)
  | status (queue : Nat)
  /-- A `waitc` or `cwp` of a peer, by its accelerator ID (07 R220; 15 R417). -/
  | peer (aid : Nat)
  deriving DecidableEq, Repr

/-- An armed monitor entry (07 R221); `due` when a write has met its condition. -/
structure Monitor where
  /-- Location: 0 local, 1 host, 2 peer. -/
  loc : Nat
  addr : Nat
  /-- The virtual address it was armed with, for `tlbinv` (07 R223). -/
  va : Nat
  wide : Bool
  cond : Nat
  cmp : Nat
  pasid : Nat
  waiter : Waiter
  due : Bool := false
  deriving DecidableEq, Repr

/-- The element types and rules of a matrix form (11 Table 11-1). -/
inductive MxForm where
  | bf16 | f16 | e4m3 | e5m2 | mxe2m1 | mxe4m3 | mxe2m3 | i8
  deriving DecidableEq, Repr

/-- A member's arrival at a rendezvous (11 R297): its strand, the place of its held entry, and the lines of its A share,
of its B share and, in the leader of an MX form, of its scales. -/
structure Arrival where
  key : Nat
  sidx : Nat
  pc : Pc
  aLines : List Nat
  bLines : List Nat
  scales : List Nat
  deriving DecidableEq, Repr

/-- A pending gang of the rendezvous latch (11 R297). -/
structure Gang where
  ccb : DWord
  form : MxForm
  shape : Nat
  z : Bool
  k : Nat
  /-- GANG[34:0] of its members. -/
  members : Nat
  arrivals : List Arrival := []
  since : Nat
  /-- When its rendezvous completed: operations are accepted in that order (R293). -/
  metAt : Option Nat := none
  deriving DecidableEq, Repr

/-- An accepted joint operation with the lines it read (11 R293, R303, R305). -/
structure MxOp where
  ccb : DWord
  form : MxForm
  shape : Nat
  z : Bool
  k : Nat
  ta : Bool
  tb : Bool
  narrow : Bool
  aLines : List Line
  bLines : List Line
  scales : List Line
  order : Nat
  deriving DecidableEq, Repr

/-- The owner tag of a physical slot (11 R307): the cohort, its map index, whether it is resident, when it left. -/
structure Owner where
  ccb : DWord
  idx : Nat
  resident : Bool
  left : Nat := 0
  deriving DecidableEq, Repr

/-- The trace registers of a core (18 Table 18-3) and its record counts. -/
structure TraceRegs where
  tctl : DWord := 0
  rrb : DWord := 0
  rrn : DWord := 4
  rwa : DWord := 0
  rhd : DWord := 0
  srb : DWord := 0
  srn : DWord := 4
  swa : DWord := 0
  shd : DWord := 0
  lost : DWord := 0
  lanes : Nat := 0
  samples : Nat := 0
  deriving DecidableEq, Repr

/-- An instruction tagged by the sampler (18 R478). -/
structure SampleTag where
  key : Nat
  lane : Nat
  pc : Pc
  mask : Mask
  word : Word
  start : Nat
  stat : DWord
  stall : Nat := 0
  cib : DWord := 0
  /-- PASID, core, bench and hot slot, as the record holds them. -/
  place : Nat := 0
  /-- The level that its accesses reached, 7 where lanes of it raised a cause at once; and the strand's next place in the replay
  queue before it issued. -/
  reached : Nat := 0
  order : Nat := 0
  deriving DecidableEq, Repr

/-- An entry of a bench's clone replay queue (17 R456): the strand and the place of the instruction, the issue cycles it takes,
its word, the source values captured at its issue, and the digest of the results and flags it wrote. -/
structure Replay where
  key : Nat
  pc : Pc
  cycles : Nat
  word : Word := 0
  sources : List Nat := []
  digest : Nat := 0
  deriving DecidableEq, Repr

/-- A write pointer that rises once the units before it are performed (10 R275): where its word lies (0 local, 1 host, 2 peer),
its address there and its virtual address, and its value. -/
structure Pointer where
  loc : Nat
  addr : Nat
  va : Nat
  value : Nat
  deriving DecidableEq, Repr

/-- A copy write to host or peer pages without a response (05 R148; 15 R411, R416): the PASID and the address that it was
translated for, whether a `tlbinv` has removed that translation since (12 R339), the host or peer address, and of a peer write
the port, and the cohort and channel of its command. -/
structure FarWrite where
  pasid : Nat
  va : Nat
  stale : Bool := false
  addr : Nat := 0
  port : Nat := 0
  ccb : DWord := 0
  channel : Nat := 0
  /-- How many bytes its command had delivered before it, and its bytes with their old and new values. -/
  start : Nat := 0
  cells : List (Nat × Byte × Byte) := []
  /-- The pointer that is written once it and what was sent before it are acknowledged. -/
  pointer : Option Pointer := none
  deriving DecidableEq, Repr

/-- A flush on a core's relaxed channel (05 R148; 15 R411): the strand and the address that wait for it, and how many of the
writes sent before it have no response. -/
structure Flush where
  key : Nat
  pc : Pc
  before : Nat
  deriving DecidableEq, Repr

/-- A core's own state (INVENTORY.md, Core). -/
structure Core where
  evq : List Event := []
  /-- Causes and events held at their source, oldest first (13 R351). -/
  held : List Held := []
  frb : DWord := 0
  frt : DWord := 0
  frh : DWord := 0
  tgt : DWord := 0
  /-- The core translation cache, newest first (12 R332). -/
  tlb : List TlbEntry := []
  /-- L1 lines, by 2 x line number + 1 for a host line (05 R129). -/
  l1 : Tab L1Line := []
  misses : List Miss := []
  /-- The instruction cache: lines of 128 bytes, by 2 x line number + 1 for a host line (05 R120). -/
  icode : Tab Nat := []
  /-- Miss-status entries held until a reply (07 R213). -/
  replies : Nat := 0
  outstanding : List Outstanding := []
  /-- Copy writes to host pages not yet acknowledged, and the flushes that wait, oldest first (05 R148, 15 R411). -/
  relaxed : List FarWrite := []
  /-- Copy writes to peers that are not acknowledged (15 R416). -/
  peerCopies : List FarWrite := []
  flushing : List Flush := []
  /-- The copy channels of the core's supervisor strand (10 R269, R288). -/
  channels : Tab (List Command) := []
  /-- The tile store (10 R267): byte 256 x row + column. -/
  tile : Memory := []
  /-- Accumulators: slot x 8192 + row x 128 + column (11 R307). -/
  accs : Tab (BitVec 48) := []
  owners : Tab Owner := []
  latch : List Gang := []
  mxOps : List MxOp := []
  mxn : Bool := false
  /-- Carve mode (05 R122) and a change that waits (14 R401). -/
  carve : Nat := 0
  carveNext : Option (Nat × Bool) := none
  trace : TraceRegs := {}
  /-- Code comparators and watchpoints, as their A and B words (18 R468). -/
  codePoints : Tab (DWord × DWord) := []
  watchPoints : Tab (DWord × DWord) := []
  period : Nat := 0
  tags : Tab SampleTag := []
  tagWait : Tab Nat := []
  counters : Tab Nat := []
  cmap : DWord := BitVec.ofNat 64 (0xFFFFFFFFF * 512)
  columnMiss : List Nat := []
  columnsFailed : List Nat := []
  /-- Lane maps and failed lanes of the benches (17 R447): DIS 0x7F, no failed lane. -/
  lmap : Tab DWord := []
  lfail : Tab DWord := []
  replays : Tab (List Replay) := []
  powerAlarm : Bool := false
  /-- The supervisor strand has stopped on a machine check (13 R366). -/
  supStopped : Bool := false
  deriving DecidableEq, Repr

/-- The dispatch registers (14 Table 14-9). -/
structure DispatchRegs where
  qtb : DWord := 0
  ctb : DWord := 0
  quant : DWord := 11000
  wgt : DWord := 0x0101010101010101
  stv : DWord := 11000000
  latmax : DWord := 8800
  mrto : DWord := 65536
  sto : DWord := 65536
  pol : DWord := 7
  swcnt : DWord := 0
  deriving DecidableEq, Repr

/-- The record at a queue's head once it is being expanded (14 R370, R372): its words, its context slot, its bundle, and what
has been admitted so far. -/
structure Expansion where
  chained : Bool
  words : List Nat
  slot : Nat
  variants : List Variant
  pmap : List (Nat × BitVec 16)
  /-- When it was popped: its cohorts wait from then on (14 R377). -/
  since : Nat := 0
  placed : Nat := 0
  launch : Option Nat := none
  deriving DecidableEq, Repr

/-- A queue as the last QARM found it (14 R371), with what the dispatch engine keeps of it. -/
structure Queue where
  en : Bool := false
  dev : Bool := false
  n : Nat := 4
  ring : Nat := 0
  /-- TAIL as last read; whether its tail or status is polled (14 R372); whether a fire or a poll is to be acted on. -/
  tail : Nat := 0
  polling : Bool := false
  due : Bool := false
  /-- CODE of its status word (14 Table 14-4). -/
  code : Nat := 0
  expansion : Option Expansion := none
  /-- When the record at the head came there, and whether it is aged (14 R380). -/
  headSince : Nat := 0
  aged : Bool := false
  deriving DecidableEq, Repr

/-- A launch (14 R376, R386). -/
structure Launch where
  queue : Nat := 0
  pasid : Nat := 0
  slot : Nat := 0
  parent : Nat := 0
  /-- Cohorts not yet complete, and the frame of its launch block. -/
  left : Nat := 0
  block : Nat := 0
  deriving DecidableEq, Repr

/-- The dispatch engine (INVENTORY.md, Dispatch engine). -/
structure Dispatcher where
  regs : DispatchRegs := {}
  queues : Tab Queue := []
  launches : Tab Launch := []
  nextLaunch : Nat := 0
  nextSpan : Nat := 1
  lastCore : Nat := 191
  /-- The queue that was served last (14 R380). -/
  turn : Nat := 255
  nextSeq : Nat := 0
  /-- The waiting cohorts for which a switch request was dropped (14 R382), and the window that migrations clear (R394). -/
  dropped : List (Item × List Nat) := []
  clearing : Option Nat := none
  /-- Check-mode floor (17 R461). -/
  floor : Nat := 0
  deriving DecidableEq, Repr

/-- A claim entry of the interrupt claim table (15 Table 15-6), the time its timer expires, and the function and
vector an open claim keeps (R422). -/
structure Claim where
  open_ : Bool := false
  fn : Nat := 0
  vec : Nat := 0
  sct : Nat := 0
  hc : Bool := true
  sc : Bool := true
  cnt : Nat := 0
  timer : Option Nat := none
  openFn : Nat := 0
  openVec : Nat := 0
  deriving DecidableEq, Repr

/-- The states of a TDI (15 Table 15-8). -/
inductive Tdi where
  | unlocked | locked | run | error
  deriving DecidableEq, Repr

/-- A function of port P (15 R406, R427, R428, Table 15-9). -/
structure Function where
  tdi : Tdi := .unlocked
  /-- BAR0, 0 while unassigned. -/
  bar : Nat := 0
  memorySpace : Bool := false
  busMaster : Bool := false
  ats : Bool := false
  smallest : Nat := 0
  pasidEnable : Bool := false
  pasidExecute : Bool := false
  pasidPrivileged : Bool := false
  msixEnable : Bool := false
  msixMask : Bool := false
  /-- SR-IOV VF Enable and NumVFs, of PF0. -/
  vfEnable : Bool := false
  numVfs : Nat := 0
  /-- MSI-X table entries: 16 bytes as one number; and the vectors that are pending. -/
  msix : Tab Nat := []
  pending : List Nat := []
  /-- First context slot and count, first queue and count, local memory base and size (R427). -/
  slots : Nat × Nat := (0, 0)
  queues : Nat × Nat := (0, 0)
  memory : Nat × Nat := (0, 0)
  /-- Its selective IDE stream is keyed and secure. -/
  ide : Bool := false
  /-- The function whose stream covers it, where that is not its own (R426). -/
  streamOf : Option Nat := none
  /-- M as it stood at the lock (Table 15-10). -/
  lockM : Nat := 0
  deriving DecidableEq, Repr

/-- An ATS result: PASID, the virtual page of 4 KiB whose leaf it is cached with, untranslated page, host physical page
(15 R412). -/
structure AtsEntry where
  pasid : Nat
  va : Nat
  page : Nat
  host : Nat
  deriving DecidableEq, Repr

/-- An HDM decoder (R408): the base and size of its host physical range, its interleave ways, its granularity in bytes, the
device's position among the ways, and the DPA at which the range begins. -/
structure Decoder where
  base : Nat
  size : Nat
  ways : Nat
  grain : Nat
  pos : Nat
  dpa : Nat
  deriving DecidableEq, Repr

/-- The link engine (15; INVENTORY.md, Link engine). Ports: 0 is P, 1 is C, 2 + u is Uu. -/
structure Link where
  up : List Nat := []
  /-- The host answers accesses with an error, or not at all, though port C is up (12 R334, 15 R409): a choice of the
  environment. -/
  hostFails : Bool := false
  width : Tab Nat := []
  /-- The rate to which a port has trained, in GT/s or Gb/s per lane (Table 15-1). -/
  rate : Tab Nat := []
  /-- MSI-X messages that wait for port P, oldest first: function and vector (R405). -/
  waiting : List (Nat × Nat) := []
  decoders : Tab Decoder := []
  /-- CXL.mem writes that are acknowledged and stand in the ingress buffer, oldest first: address, bytes and value (R409). -/
  ingress : List (Nat × Nat × Nat) := []
  /-- What is keyed beside the selective streams of port P: 0 its link IDE, 1 CXL IDE of port C, 2 + u the encryption of Uu,
  14 + n a CXL.io stream of port C (R426). -/
  secured : List Nat := []
  intfwd : Nat := 50
  prt : Nat := 0
  pwbase : Nat := 0
  pwlimit : Nat := 0
  mbb : Nat := 0
  lostmsi : Nat := 0
  claims : Tab Claim := []
  functions : Tab Function := []
  atsCache : List AtsEntry := []
  /-- An SPDM session with PF0 over its DOE mailbox is open (R425). -/
  session : Bool := false
  deriving DecidableEq, Repr

/-! ### Guard engine (16) -/

/-- An extent of a declaration, with the local addresses of its 128 KiB pages (R433, R434). -/
structure Extent where
  base : Nat
  len : Nat
  prio : Nat
  frames : List Nat := []
  deriving DecidableEq, Repr

/-- A standing declaration. -/
structure Declaration where
  handle : Nat
  pasid : Nat
  extents : List Extent
  deriving DecidableEq, Repr

/-- The phases of the power-fail sequence (Table 16-6); `ended` once the log is sealed or nothing is written. -/
inductive Sequence where
  | none | drain | slice | writes | seal | ended
  deriving DecidableEq, Repr

/-- A chunk still to be written: its declaration, extent index and chunk index (R441). -/
structure Chunk where
  decl : Declaration
  index : Nat
  chunk : Nat
  deriving DecidableEq, Repr

/-- What the classification found of an extent of the held log (R445): its chunks, and the frames of those that are
verified, by chunk. -/
structure Classified where
  handle : Nat
  pasid : Nat
  index : Nat
  len : Nat
  chunks : Nat
  verified : List (Nat × Nat)
  deriving DecidableEq, Repr

/-- The guard engine and its hold-up store (INVENTORY.md, Guard engine). -/
structure Guard where
  shares : Tab Nat := []
  declarations : List Declaration := []
  nextHandle : Nat := 1
  epoch : Nat := 0
  sequence : Sequence := .none
  /-- When 0x30 was raised and when the policy slice opened (R438). -/
  since : Nat := 0
  sliceAt : Nat := 0
  /-- This sequence writes no log: one is held, or the lease is in REVOKING or SCRUBBING (R443, R490). -/
  noLog : Bool := false
  skipped : List Nat := []
  note : Memory := []
  chunks : List Chunk := []
  written : Nat := 0
  tripped : Bool := false
  abandoned : Bool := false
  /-- The pointer log: CCB, PWA, value and channel of each command (R439). -/
  pointers : List (Nat × Nat × Nat × Nat) := []
  /-- The hold-up store: its data area and its header area (R444), and whether a log is held. -/
  data : Memory := []
  header : Memory := []
  held : Bool := false
  /-- A released log whose areas are still to be erased. -/
  erasing : Bool := false
  sealed : Bool := false
  classes : List Classified := []
  /-- Local memory as it stood at the end of the drain, which the extents hold (R440). -/
  drained : Memory := []
  /-- The supply has returned during the sequence (R443). -/
  returned : Bool := false
  deriving DecidableEq, Repr

/-! ### Root controller (19) -/

/-- The states of the lease (Table 19-3). -/
inductive Lease where
  | vacant | scrubbing | ready | leased | revoking
  deriving DecidableEq, Repr

/-- A firmware image: version, size, SHAKE256-256 of its bytes as a number, and whether its signature verifies. -/
structure Image where
  version : Nat := 1
  size : Nat := 0
  digest : Nat := 0
  verified : Bool := false
  deriving DecidableEq, Repr

/-- A scrub completion record before it is laid out (Table 19-5). -/
structure ScrubRecord where
  status : Nat
  seq : Nat
  nonce : Nat
  measured : Nat
  written : Nat
  checked : Nat
  failed : List Nat
  /-- Bit i: region i was covered. -/
  covered : Nat
  retired : Nat
  index : Nat
  deriving DecidableEq, Repr

/-- The root controller: its stage, what it keeps in MRAM and flash, and its alarms (INVENTORY.md, Root controller). -/
structure Root where
  /-- The last start stage that has ended; none before power-good (R479). -/
  stage : Option Nat := none
  recovery : Bool := false
  /-- The device holds until a reset (R18, R443). -/
  hold : Bool := false
  /-- A thermal trip has come since power-good. -/
  tripped : Bool := false
  slotA : Image := { verified := true }
  slotB : Image := {}
  floor : Nat := 0
  customer : Option Image := none
  /-- The customer image runs on the service cores. -/
  running : Bool := false
  /-- The measurement log, each entry as a number of 64 bytes, and M (R482). -/
  log : List Nat := []
  m : Nat := 0
  identityIndex : Nat := 0
  recordIndex : Nat := 0
  lease : Lease := .vacant
  leaseId : Nat := 0
  scrubSeq : Nat := 0
  nonce : Nat := 0
  record : Option ScrubRecord := none
  revokedAt : Nat := 0
  /-- A REVOKE that came during a power-fail sequence (R490). -/
  revokeLater : Bool := false
  /-- Retired lines, and the failure record: failed physical lanes by 4 x core + bench, failed columns by core. -/
  retired : List Nat := []
  lanes : Tab (List Nat) := []
  columns : Tab (List Nat) := []
  threshold : Nat := 100
  powerLimit : Nat := 5400
  /-- Values clamped (R17). -/
  clamps : Nat := 0
  /-- The memories of the service cores, 64 MiB, and of the 48 I/O cores behind them, 256 KiB each (R488, R493). -/
  service : Memory := []
  /-- The operator root, as MRAM holds it from provisioning, and the root to which the requester of the open SPDM session on
  I3C has proved to belong (R486). -/
  operatorRoot : Nat := 0
  session : Option Nat := none
  /-- The address space and the entry point of the firmware that stage 2 started (R481). -/
  base : Nat × Nat := (0, 0)
  deriving DecidableEq, Repr

/-- The algorithms that the device reports over SPDM (15 R425). -/
inductive SpdmAlgorithm where
  | xmssShake256_20_256 | shake256 | ecdheSecp384r1 | aes256Gcm
  deriving DecidableEq, Repr

/-- What the device has sent to the outside world. -/
inductive Output where
  /-- An event the root controller receives (13 R366). -/
  | rootEvent (core : Nat) (e : Event)
  /-- A store to an MMIO page: its address, its bytes and its value (05 R151). -/
  | mmioWrite (addr size value : Nat)
  /-- An MSI-X message of a function and vector (15 R421, R424). -/
  | msix (fn vec : Nat)
  /-- An external interrupt at a service core: its number and the source, or the mailbox (15 R421, R423). -/
  | serviceInterrupt (core source : Nat)
  /-- The answer to a host, peer, SPDM, TDISP or management request: its words; none for Unsupported Request, an
  error response or poison. -/
  | answer (words : Option (List Nat))
  /-- A start stage that failed, reported over the management transport (19 R479). -/
  | stageFailed (stage : Nat)
  /-- The stepping that the root controller reports over the management transport at power-good (00 R2). -/
  | stepping (rev : Nat)
  /-- The monitor of a peer's wait at an address fires (15 R416; 07 R220). -/
  | peerFire (aid addr : Nat)
  /-- The algorithms of an SPDM answer (15 R425). -/
  | algorithms (l : List SpdmAlgorithm)
  deriving DecidableEq, Repr

/-- What a requester asks of SPDM that has no row of its own (15 R425): the algorithms, the certificate chain, a session on I3C
with the root to which the requester's certificate chains, or the end of a session. -/
inductive SpdmAsk where
  | algorithms
  | certificate
  | openI3c (root : Nat)
  | close (i3c : Bool)
  deriving DecidableEq, Repr

/-- What comes next when the agenda is not empty (log 8). -/
inductive Agenda where
  | event (i : Instr)
  | bench (core bench : Nat)
  | pass (cycles : Nat)
  | mismatch (key : Nat) (lanes : Mask)
  /-- An 8-byte word of local memory (0), of host memory (1) or of a peer's (2), by its address / 8, becomes uncorrectable
  (07 R196; 17 R463). -/
  | damage (loc : Nat) (word : Nat)
  /-- Lanes in which the next source that a strand reads of a register, a queue, scratch or the tile store is
  uncorrectable (17 R463). -/
  | flawStrand (key : Nat) (lanes : Mask)
  /-- The same for the next byte that the first command of a channel reads of the tile store, scratch or a slot. -/
  | flawCommand (core : Nat) (ccb : DWord) (channel : Nat)
  /-- From here on the host answers accesses through port C with errors, or answers them again (15 R409). -/
  | hostFails (b : Bool)
  /-- The next word of the scratch of a cohort that is saved, or the next byte that `tld` or `tst` touches in its tile window,
  is uncorrectable (17 R463). -/
  | flawCohort (ccb : DWord) (tile : Bool)
  /-- An error of one bit in the core store or the supervisor store of a core, or in its tile or accumulator store, is
  corrected (17 R462, R463). -/
  | corrected (core : Nat) (tile : Bool)
  /-- A peer stores to its own memory (15 R416). -/
  | peerWrite (addr size value : Nat)
  /-- A copy write of a core to a peer is acknowledged (15 R416). -/
  | peerAck (core place : Nat)
  /-- The host reads an item of the configuration space of a function (00 R2). -/
  | configRead (fn item : Nat)
  /-- A service core reads a register of a block (15 Table 15-5; 16 Table 16-5). -/
  | registerRead (block off : Nat)
  /-- A service core or an I/O core stores to its memory, or reads it (19 R488). -/
  | serviceWrite (addr size value : Nat)
  | serviceRead (addr size : Nat)
  /-- The host programs an HDM decoder, or makes a CXL.mem access by host physical address (15 R408). -/
  | decoder (i : Nat) (d : Decoder)
  | hdmRead (hpa size : Nat)
  | hdmWrite (hpa size value : Nat)
  /-- A CXL.mem write of the host is acknowledged and stays in the ingress buffer; the oldest of these is performed (15 R409). -/
  | hostPosted (addr size value : Nat)
  | ingress
  /-- An SPDM request, keys of what is not a selective stream of port P, its loss of integrity, or the stream by which a function
  is covered (15 R425, R426). -/
  | spdm (a : SpdmAsk)
  | linkKeys (id : Nat) (secure : Bool)
  | linkIntegrity (id : Nat)
  | coverStream (fn : Nat) (owner : Option Nat)
  deriving DecidableEq, Repr

/-- The device (INVENTORY.md, State). -/
structure State where
  local_ : Memory := []
  host : Memory := []
  peer : Memory := []
  strands : Tab Strand := []
  cohorts : Tab Cohort := []
  spans : Tab Span := []
  cores : Tab Core := []
  /-- Slice translation caches (12 R332). -/
  slices : Tab SliceCache := []
  /-- Monitor entries by 512 x slice + index (07 R221). -/
  monitors : Tab Monitor := []
  /-- Promotion marks: line (as in an L1) and core (07 R210). -/
  marks : Tab Nat := []
  disp : Dispatcher := {}
  link : Link := {}
  guard : Guard := {}
  root : Root := {}
  /-- Active context slots (14 R374) and the root of the firmware address space (12 R326). -/
  contexts : Tab Context := []
  fwRoot : Nat := 0
  /-- 8-byte words that carry an uncorrectable error, by address / 8 (17 R463). -/
  ueLocal : List Nat := []
  ueHost : List Nat := []
  uePeer : List Nat := []
  outputs : List Output := []
  /-- Places in the streams of free values (log 7). -/
  free : Nat := 0
  agenda : List Agenda := []
  now : Nat := 0
  /-- The value of `now` when stage 2 ended: CYC counts from it (18 R466). -/
  stage2At : Nat := 0
  /-- The strand that issues. -/
  curKey : Nat := 2 ^ 64
  /-- The bench offered the next issue. -/
  turn : Nat := 0
  /-- The farthest level that the accesses of the issue have reached (18 Table 18-5). -/
  reached : Nat := 0
  deriving DecidableEq, Repr

/-- The state after reset: every table empty, every field at its default (INVENTORY.md lists the values). -/
def State.reset : State := {}

end Sys2Proof.Machine
end

