-- ==== Sys2Proof/Machine/Base.lean ====
section
/-! DEFINITION. The named operations over tables, memories, strands, frontiers and event queues that every engine uses
(04 R91, R99; 06 R155 to R158; 13 R350, R351). -/

namespace Sys2Proof.Machine

/-! ### Tables and memories -/

/-- The value at a key; `d` where none is listed. -/
def Tab.get {α : Type} (d : α) : Tab α → Nat → α
  | [], _ => d
  | (k, v) :: t, x => if x = k then v else Tab.get d t x

/-- Whether a key is listed. -/
def Tab.has {α : Type} : Tab α → Nat → Bool
  | [], _ => false
  | (k, _) :: t, x => x == k || Tab.has t x

/-- List a value at a key, keeping the keys rising. -/
def Tab.put {α : Type} : Tab α → Nat → α → Tab α
  | [], x, v => [(x, v)]
  | (k, w) :: t, x, v =>
    if x < k then (x, v) :: (k, w) :: t
    else if x = k then (x, v) :: t
    else (k, w) :: Tab.put t x v

/-- Unlist a key. -/
def Tab.del {α : Type} : Tab α → Nat → Tab α
  | [], _ => []
  | (k, w) :: t, x => if x = k then Tab.del t x else (k, w) :: Tab.del t x

/-- Store a value, listing it only if it differs from the default. -/
def Tab.set {α : Type} [DecidableEq α] (d : α) (t : Tab α) (x : Nat) (v : α) : Tab α :=
  if v = d then Tab.del t x else Tab.put t x v

/-- The canonical form of a memory: addresses strictly rising, no byte equal to the default. -/
def Memory.wf : Memory → Bool
  | [] => true
  | [(_, b)] => b != 0
  | (a, b) :: (a', b') :: t => decide (a < a') && b != 0 && Memory.wf ((a', b') :: t)

/-- One byte of a memory. -/
def Memory.read (m : Memory) (a : Nat) : Byte := Tab.get 0 m a

/-- Write one byte, keeping the canonical form. -/
def Memory.write (m : Memory) (a : Nat) (b : Byte) : Memory := Tab.set 0 m a b

/-- n bytes from address a as a number, lowest address first (00 R4). -/
def Memory.readN (m : Memory) (a : Nat) : Nat → Nat
  | 0 => 0
  | n + 1 => (Memory.read m a).toNat + 256 * Memory.readN m (a + 1) n

/-- Write the low n bytes of a number at address a, lowest address first (00 R4). -/
def Memory.writeN (m : Memory) (a : Nat) : Nat → Nat → Memory
  | 0, _ => m
  | n + 1, v => Memory.writeN (Memory.write m a (BitVec.ofNat 8 v)) (a + 1) n (v / 256)

/-- Write zero to n bytes from address a. -/
def Memory.clear (m : Memory) (a n : Nat) : Memory := m.filter fun x => decide (x.1 < a ∨ a + n ≤ x.1)

/-! ### Lists and bits -/

/-- The distinct elements of a list, in order of first place. -/
def distinct {α : Type} [DecidableEq α] (l : List α) : List α :=
  l.foldl (fun acc x => if x ∈ acc then acc else acc ++ [x]) []

/-- Keys in lexicographic order. -/
def keyBefore : List Nat → List Nat → Bool
  | x :: t, y :: u => decide (x < y) || (x == y && keyBefore t u)
  | _, _ => false

/-- Insert a value by its key, after the values whose keys are not greater. -/
def insertKeyed {α : Type} (x : List Nat × α) : List (List Nat × α) → List (List Nat × α)
  | [] => [x]
  | y :: t => if keyBefore x.1 y.1 then x :: y :: t else y :: insertKeyed x t

/-- Values in the order of their keys; those of equal keys as they stand. -/
def sortKeyed {α : Type} (key : α → List Nat) (l : List α) : List α :=
  (l.foldl (fun acc x => insertKeyed (key x, x) acc) []).map fun x => x.2

/-- Insert a number into a list of distinct numbers in ascending order. -/
def insertNat (x : Nat) : List Nat → List Nat
  | [] => [x]
  | y :: t => if x < y then x :: y :: t else if x = y then y :: t else y :: insertNat x t

/-- Bit i of a number. -/
def natBit (v i : Nat) : Bool := v / 2 ^ i % 2 == 1

/-- Bits [lo + n - 1 : lo] of a number. -/
def natBits (v lo n : Nat) : Nat := v / 2 ^ lo % 2 ^ n

/-- A word with one bit set or cleared. -/
def setBit {w : Nat} (x : BitVec w) (i : Nat) (b : Bool) : BitVec w :=
  if b then x ||| BitVec.ofNat w (2 ^ i) else x &&& ~~~ BitVec.ofNat w (2 ^ i)

/-- The lanes of a mask, ascending. -/
def lanesOf (m : Mask) : List Nat := (List.range 64).filter fun l => m.getLsbD l

/-- The mask of the lanes that satisfy a test. -/
def maskOf (p : Nat → Bool) : Mask :=
  BitVec.ofNat 64 ((List.range 64).foldr (fun l acc => (if p l then 1 else 0) + 2 * acc) 0)

/-- The number of lanes of a mask. -/
def laneCount (m : Mask) : Nat := (lanesOf m).length

/-! ### Causes -/

/-- The code of a cause (13 Table 13-1). -/
def Cause.code : Cause → Nat
  | .illegalOpcode => 0x01 | .illegalOperand => 0x02 | .privileged => 0x03 | .registerEmpty => 0x04
  | .windowOverflow => 0x05 | .divideByZero => 0x06 | .nonUniformBranch => 0x07 | .floatInvalid => 0x08
  | .floatDivideByZero => 0x09 | .floatOverflow => 0x0A | .floatUnderflow => 0x0B | .floatInexact => 0x0C
  | .brk => 0x0D | .debugHit => 0x0E | .systemCall => 0x0F | .misaligned => 0x10 | .pageNotPresent => 0x11
  | .permission => 0x12 | .privateGuard => 0x13 | .atomicUncached => 0x14 | .nonCanonical => 0x15
  | .contextImage => 0x16 | .tileBound => 0x17 | .copyChannel => 0x18 | .copyParameter => 0x19
  | .scratchBound => 0x1A | .peerLink => 0x1B | .hostLink => 0x1C | .malformedTable => 0x1D
  | .instructionFetch => 0x1E | .accOwnerMiss => 0x20 | .accSlotNotHeld => 0x21 | .gangMismatch => 0x22
  | .matrixType => 0x23 | .queueMisuse => 0x24 | .gatherFull => 0x25 | .barrierMisuse => 0x26
  | .switchMap => 0x27 | .checkMismatch => 0x28 | .uncorrectable => 0x29 | .laneFailure => 0x2A
  | .signal => 0x2B | .joinUnderflow => 0x2C | .monitorFull => 0x2D | .powerFail => 0x30
  | .thermalAlarm => 0x31 | .powerAlarm => 0x32 | .serviceMessage => 0x33 | .hostInterrupt => 0x34
  | .leaseRevocation => 0x35 | .debuggerHalt => 0x36 | .sampleBuffer => 0x37 | .machineCheck => 0x3F

/-- The causes of codes 0x08 to 0x0D, which a user handler may take (R357). -/
def Cause.user (c : Cause) : Bool := decide (0x08 ≤ c.code) && decide (c.code ≤ 0x0D)

/-- The causes whose restart point is the next instruction (Table 13-1, N). -/
def Cause.restartNext (c : Cause) : Bool := c.user || decide (c = .systemCall)

/-- The causes of which a second event on one core merges into one that stands or is held (R351). -/
def Cause.merges : Cause → Bool
  | .laneFailure | .monitorFull | .thermalAlarm | .powerAlarm | .serviceMessage | .hostInterrupt
  | .leaseRevocation | .sampleBuffer => true
  | _ => false

/-! ### Strands, cohorts and cores -/

/-- The key of the supervisor strand of a core. -/
def supKey (core : Nat) : Nat := 2 ^ 64 + core

/-- What an unlisted key reads: a supervisor strand before firmware starts it (log 4), else an empty strand. -/
def Strand.fresh (k : Nat) : Strand :=
  if k < 2 ^ 64 then { key := k }
  else { key := k, sup := true, core := k - 2 ^ 64, nlines := 64, stat := BitVec.ofNat 64 (2 ^ 63) }

def State.strand (s : State) (k : Nat) : Strand := Tab.get (Strand.fresh k) s.strands k
def State.setStrand (s : State) (k : Nat) (st : Strand) : State := { s with strands := Tab.put s.strands k st }
/-- The strand that issues. -/
def State.cur (s : State) : Strand := s.strand s.curKey
def State.setCur (s : State) (st : Strand) : State := s.setStrand s.curKey st
def State.core (s : State) (c : Nat) : Core := Tab.get {} s.cores c
def State.setCore (s : State) (c : Nat) (k : Core) : State := { s with cores := Tab.put s.cores c k }
def State.cohort (s : State) (ccb : DWord) : Cohort := Tab.get { ccb := ccb } s.cohorts ccb.toNat
def State.setCohort (s : State) (ccb : DWord) (c : Cohort) : State :=
  { s with cohorts := Tab.put s.cohorts ccb.toNat c }
/-- The cohort of the strand that issues. -/
def State.curCohort (s : State) : Cohort := s.cohort s.cur.ccb
def State.setCurCohort (s : State) (c : Cohort) : State := s.setCohort s.cur.ccb c

/-- The next place in the streams of free values (log 7). -/
def State.tick (s : State) : State := { s with free := s.free + 1 }

/-! ### STAT (04 Table 4-7) -/

def Strand.priv (st : Strand) : Bool := st.stat.getLsbD 63
def Strand.tm (st : Strand) : Bool := st.stat.getLsbD 62
/-- Check mode: 0 off, 1 clone, 2 shadow. -/
def Strand.chk (st : Strand) : Nat := natBits st.stat.toNat 60 2
def Strand.shadow (st : Strand) : Bool := st.chk == 2
def Strand.frm (st : Strand) : Nat := natBits st.stat.toNat 16 2
def Strand.te (st : Strand) : BitVec 5 := BitVec.ofNat 5 (natBits st.stat.toNat 8 5)
def Strand.fl (st : Strand) : BitVec 5 := BitVec.ofNat 5 (natBits st.stat.toNat 0 5)
def Strand.setTm (st : Strand) (b : Bool) : Strand := { st with stat := setBit st.stat 62 b }
/-- Write the bits of STAT that a mask names; of the flags the shadow flags take the same (17 R459). -/
def Strand.writeStat (st : Strand) (m v : DWord) : Strand :=
  { st with
    stat := (st.stat &&& ~~~ m) ||| (v &&& m)
    shadowFl := (st.shadowFl &&& ~~~ m.setWidth 5) ||| (v.setWidth 5 &&& m.setWidth 5) }
/-- Unite flags into STAT.FL (R33, R251), and others into the shadow flags (17 R459). -/
def Strand.addFlags (st : Strand) (f g : BitVec 5) : Strand :=
  { st with stat := st.stat ||| BitVec.ofNat 64 f.toNat, shadowFl := st.shadowFl ||| g }

/-! ### Registers -/

/-- A line of zeros. -/
def zeroLine : Line := List.replicate 64 0
/-- Lane l of a line. -/
def laneOf (x : Line) (l : Nat) : Word := x.getD l 0
/-- The line whose lanes in m come from f, the others from x (08 R227). -/
def mergeLine (x : Line) (m : Mask) (f : Nat → Word) : Line :=
  (List.range 64).map fun l => if m.getLsbD l then f l else laneOf x l

def Strand.scalar (st : Strand) (m : Nat) : DWord := Tab.get 0 st.scal m
/-- A write of a scalar sets its full/empty bit (04 R99). -/
def Strand.setScalar (st : Strand) (m : Nat) (v : DWord) : Strand :=
  { st with scal := Tab.set 0 st.scal m v, sFull := setBit st.sFull m true }
def Strand.emptyScalar (st : Strand) (m : Nat) : Strand := { st with sFull := setBit st.sFull m false }
/-- Line n of the strand, counted from line 0 of the image. -/
def Strand.line (st : Strand) (n : Nat) : Line := Tab.get zeroLine st.vec n
/-- A write of a line sets its full/empty bit (04 R99). -/
def Strand.setLine (st : Strand) (n : Nat) (x : Line) : Strand :=
  { st with vec := Tab.set zeroLine st.vec n x, vFull := setBit st.vFull n true }
def Strand.emptyLine (st : Strand) (n : Nat) : Strand := { st with vFull := setBit st.vFull n false }
/-- Write the lanes of m of line n (08 R227). -/
def Strand.writeLanes (st : Strand) (n : Nat) (m : Mask) (f : Nat → Word) : Strand :=
  st.setLine n (mergeLine (st.line n) m f)

/-- The wait in progress at an address (07 R220). -/
def Strand.waitAt (st : Strand) (pc : Pc) : Option Wait := st.waits.find? fun w => w.pc == pc
/-- A stall reason that has lost its ground is none until the strand is tried again. -/
def Strand.wake (st : Strand) (r : Nat) : Strand := if st.stall = r then { st with stall := 0 } else st
/-- Begin a wait, or change one. -/
def Strand.setWait (st : Strand) (w : Wait) : Strand :=
  { st with waits := st.waits.filter (fun x => x.pc != w.pc) ++ [w] }
/-- Waits that satisfy a test are over without an end of their own: their status scalars are full again, as they were
before (07 R194, R223). -/
def Strand.leaveWaits (st : Strand) (p : Wait → Bool) : Strand :=
  { st with
    waits := st.waits.filter fun w => !p w
    sFull := (st.waits.filter p).foldl (fun f w => match w.status with | some m => setBit f m true | none => f) st.sFull }

/-- A scalar write issued while the frontier holds more than one valid entry sets STAT.SDW (06 R178). -/
def Strand.markScalarWrite (st : Strand) : Strand :=
  if st.frontier.length > 1 then { st with stat := setBit st.stat 57 true } else st

/-! ### The frontier (06 R155 to R160) -/

/-- The frontier order (04 R91, 13 R348). -/
def Entry.before (a b : Entry) : Bool :=
  if a.prio = b.prio then
    if a.pc = b.pc then
      if a.parked = b.parked then decide (a.order < b.order) else b.parked
    else decide (a.pc.toNat < b.pc.toNat)
  else decide (b.prio.toNat < a.prio.toNat)

/-- Insert an entry in frontier order, after the entries equal to it. -/
def insertEntry (e : Entry) : List Entry → List Entry
  | [] => [e]
  | x :: t => if e.before x then e :: x :: t else x :: insertEntry e t

/-- Whether two entries merge: neither parked, and no cause held for one of them (R157, 13 R351). -/
def Entry.joins (a b : Entry) : Bool :=
  a.pc == b.pc && a.prio == b.prio && !a.parked && !b.parked && !a.pending && !b.pending

/-- One entry of two that merge; held if one of them is held (R179). -/
def Entry.join (a b : Entry) : Entry :=
  { a with mask := a.mask ||| b.mask, hold := if a.hold = .no then b.hold else a.hold }

/-- Merge neighbours with equal PC and PRIO, neither parked (R157). -/
def mergeEntries : List Entry → List Entry
  | [] => []
  | x :: t =>
    match mergeEntries t with
    | [] => [x]
    | y :: u => if x.joins y then x.join y :: u else x :: y :: u

/-- Put the entries into frontier order and merge them. -/
def orderFrontier (l : List Entry) : List Entry := mergeEntries (l.foldl (fun acc e => insertEntry e acc) [])

/-- The candidate entry: the first valid entry that is not held (R155). -/
def candidate? (st : Strand) : Option Entry := st.frontier.find? fun e => decide (e.hold = .no)
def candidate (st : Strand) : Entry := (candidate? st).getD {}

/-- The frontier without the candidate entry. -/
def dropCandidate : List Entry → List Entry
  | [] => []
  | e :: t => if e.hold = .no then t else e :: dropCandidate t

/-- prio(PC): the value of the last priority-map entry at or below the PC (R156); 0 in a supervisor strand. -/
def prioIn (pmap : List (Nat × BitVec 16)) (pc : Pc) : BitVec 16 :=
  pmap.foldl (fun acc x => if x.1 ≤ pc.toNat then x.2 else acc) 0
def State.prioOf (s : State) (st : Strand) (pc : Pc) : BitVec 16 :=
  if st.sup then 0 else prioIn (s.cohort st.ccb).pmap pc

/-- The priority of an entry at pc that comes from an entry of priority p: 0xFFFF is kept (R156, R159). -/
def State.nextPrio (s : State) (st : Strand) (p : BitVec 16) (pc : Pc) : BitVec 16 :=
  if p = 0xFFFF then 0xFFFF else s.prioOf st pc

/-- How many entries of a new frontier stand in the slot: those before the first entry that was spilled, at
most 8 (R158). -/
def residentAfter (old : Strand) (new : List Entry) : Nat :=
  match old.frontier.drop old.resident with
  | [] => min 8 new.length
  | x :: _ => min 8 (new.filter fun e => !x.before e && !(decide (e.pc = x.pc ∧ e.prio = x.prio))).length

/-- Give a strand a new frontier, ordered and merged. -/
def Strand.setFrontier (st : Strand) (l : List Entry) : Strand :=
  let f := orderFrontier l
  { st with frontier := f, resident := residentAfter st f }

/-- The next address in sequence, modulo 2^48 (R47). -/
def nextPc (pc : Pc) : Pc := pc + 4

/-! ### Events and parked entries (13 R345, R350, R351) -/

/-- The twelve words of an event, as lanes 0 to 11 of a popped entry, the other lanes zero (Table 13-2). -/
def Event.words (e : Event) : Line :=
  let lo (x : BitVec 64) : Word := BitVec.ofNat 32 x.toNat
  let hi (x : BitVec 64) : Word := BitVec.ofNat 32 (x.toNat / 2 ^ 32)
  let sq : DWord := match e.seq with | some n => BitVec.ofNat 64 n | none => BitVec.allOnes 64
  let w0 := e.cause.code + e.sub % 64 * 64 + e.sync.toNat * 4096 + e.parked.toNat * 8192
    + e.bench % 4 * 16384 + e.slot % 64 * 65536
  let w1 := e.pasid % 2 ^ 20 + e.param % 512 * 2 ^ 20
  [BitVec.ofNat 32 w0, BitVec.ofNat 32 w1, lo e.cib, hi e.cib, lo e.taddr, hi e.taddr,
   lo e.tmask, hi e.tmask, lo e.pc, hi e.pc, lo sq, hi sq] ++ List.replicate 52 0

/-- Whether an event of this code stands in a core's queue or is held (R351). -/
def Core.hasEvent (k : Core) (c : Cause) : Bool :=
  k.evq.any (fun e => decide (e.cause = c))
    || k.held.any fun h => match h with | .event e => decide (e.cause = c) | .cause _ _ _ => false

/-- Whether the event queue of a core has a free place and nothing waits for one (R351). -/
def Core.queueRoom (k : Core) : Bool := decide (k.evq.length < 64) && k.held.isEmpty

/-- Put an event into a core's queue. -/
def Core.enter (k : Core) (e : Event) : Core := { k with evq := k.evq ++ [e] }

/-- An asynchronous event enters its core's queue; with the queue full, or others held before it, it is held (R351). -/
def State.postEvent (s : State) (core : Nat) (e : Event) : State :=
  let k := s.core core
  if e.cause.merges && k.hasEvent e.cause then s
  else s.setCore core (if k.queueRoom then k.enter e else { k with held := k.held ++ [.event e] })

/-- A PC as a register holds it. -/
def pcWord (pc : Pc) : DWord := BitVec.ofNat 64 pc.toNat

/-! ### Variants -/

/-- The keys of the strands that hold slots of a cohort. -/
def Cohort.keys (c : Cohort) : List Nat := c.cibs.filterMap fun x => x.map fun a => a.toNat
/-- The variant a cohort runs. -/
def Cohort.variant (c : Cohort) : Variant := (c.variants.find? fun v => v.id == c.vid).getD {}
/-- The declared lines of strand slot k of a variant (03 R72). -/
def Variant.linesOf (v : Variant) (k : Nat) : Nat :=
  match v.roles.find? fun r => decide (r.1 ≤ k ∧ k < r.1 + r.2.1) with
  | some r => r.2.2
  | none => v.lines

end Sys2Proof.Machine
end

