-- ==== Sys2Proof/Machine/Translate.lean ====
section
/-! DEFINITION. The translation engine: table walks, checks, accessed and dirty bits, caches, fault records
(12 R326 to R336, R494). -/

namespace Sys2Proof.Machine

/-- What an access does to a page (12 Table 12-4, kind). -/
inductive Access where
  | read | write | atomic | fetch
  deriving DecidableEq, Repr

def Access.code : Access → Nat
  | .read => 0 | .write => 1 | .atomic => 2 | .fetch => 3

/-- Where a physical address lies (05 Table 5-1). -/
inductive Loc where
  | dev | host | peer | mmio
  deriving DecidableEq, Repr

/-- A physical place: its location, its address (a peer's number stands above bit 42), whether the page is UC,
and whether the frame is locked. -/
structure Phys where
  loc : Loc
  addr : Nat
  uc : Bool
  locked : Bool
  deriving DecidableEq, Repr

/-! ### Writes at the home of a line, by any party -/

/-- The number of a location: 0 local, 1 host, 2 peer, 3 MMIO. -/
def Loc.code : Loc → Nat
  | .dev => 0 | .host => 1 | .peer => 2 | .mmio => 3

/-- The memory of a location. -/
def State.memory (s : State) : Loc → Memory
  | .dev => s.local_ | .host => s.host | .peer => s.peer | .mmio => []

/-- The condition of a wait: 0 equal, 1 not equal, 2 unsigned at least (07 R219). -/
def condHolds (cond v cmp : Nat) : Bool :=
  if cond = 0 then v == cmp else if cond = 1 then v != cmp else decide (cmp ≤ v)

/-- After a write to bytes a to a + n - 1 of a location, each monitor that watches one of them and finds its
condition on the new value is due to fire (07 R221). -/
def State.noteWrite (s : State) (l : Loc) (a n : Nat) : State :=
  if s.monitors.isEmpty then s
  else { s with monitors := s.monitors.map fun x =>
    let m := x.2
    let w := if m.wide then 8 else 4
    if m.loc = l.code ∧ a < m.addr + w ∧ m.addr < a + n
        ∧ condHolds m.cond (Memory.readN (s.memory l) m.addr w) m.cmp = true then (x.1, { m with due := true })
    else x }

/-- The 8-byte words that lie wholly in a range. -/
def wholeWords (a n w : Nat) : Bool := decide (a ≤ 8 * w ∧ 8 * w + 8 ≤ a + n)

/-- The promotion marks that a write to a range leaves: those of other lines (07 R210). -/
def clearMarks (host : Bool) (a n : Nat) (t : Tab Nat) : Tab Nat :=
  t.filter fun x => !(x.1 % 2 == host.toNat && decide (a / 128 ≤ x.1 / 2 ∧ x.1 / 2 ≤ (a + n - 1) / 128))

/-- Bytes that are written again are not the bytes of a store under way any more: if that store is lost they stay
(05 R135). -/
def Core.overwrite (k : Core) (peer : Bool) (a n : Nat) : Core :=
  let keep (l : List (Nat × Byte × Byte)) : List (Nat × Byte × Byte) := l.filter fun x => decide (x.1 < a ∨ a + n ≤ x.1)
  let copied (l : List FarWrite) : List FarWrite := l.map fun w => { w with cells := keep w.cells }
  { k with
    outstanding := k.outstanding.map fun o => if o.peer = peer then { o with cells := keep o.cells } else o
    relaxed := if peer then k.relaxed else copied k.relaxed
    peerCopies := if peer then copied k.peerCopies else k.peerCopies }
def State.overwrite (s : State) (peer : Bool) (a n : Nat) : State :=
  { s with cores := s.cores.map fun k => (k.1, k.2.overwrite peer a n) }

/-- Write the low n bytes of v at an address of a location, which no monitor has tested yet. A word written whole loses
its error mark (17 R463; log 13), and a line its promotion mark (07 R210). -/
def State.putQuiet (s : State) (l : Loc) (a n v : Nat) : State :=
  match l with
  | .dev => { s with
      local_ := Memory.writeN s.local_ a n v, ueLocal := s.ueLocal.filter fun w => !wholeWords a n w,
      marks := clearMarks false a n s.marks }
  | .host => { s.overwrite false a n with
      host := Memory.writeN s.host a n v, ueHost := s.ueHost.filter fun w => !wholeWords a n w,
      marks := clearMarks true a n s.marks }
  | .peer => { s.overwrite true a n with
      peer := Memory.writeN s.peer a n v, uePeer := s.uePeer.filter fun w => !wholeWords a n w }
  | .mmio => s

/-- Write the low n bytes of v at an address of a location, and let its monitors test their conditions (07 R221). -/
def State.putBytes (s : State) (l : Loc) (a n v : Nat) : State :=
  if l = .mmio then s else (s.putQuiet l a n v).noteWrite l a n

/-- Write zero to n bytes of a location: what `putBytes` does with the value 0. -/
def State.clearBytes (s : State) (l : Loc) (a n : Nat) : State :=
  match l with
  | .dev => { s with
      local_ := Memory.clear s.local_ a n, ueLocal := s.ueLocal.filter fun w => !wholeWords a n w,
      marks := clearMarks false a n s.marks }.noteWrite l a n
  | .host => { s.overwrite false a n with
      host := Memory.clear s.host a n, ueHost := s.ueHost.filter fun w => !wholeWords a n w,
      marks := clearMarks true a n s.marks }.noteWrite l a n
  | .peer => { s.overwrite true a n with
      peer := Memory.clear s.peer a n, uePeer := s.uePeer.filter fun w => !wholeWords a n w }.noteWrite l a n
  | .mmio => s

/-- The 8-byte words of a location that carry an uncorrectable error. -/
def State.errors (s : State) : Loc → List Nat
  | .dev => s.ueLocal | .host => s.ueHost | .peer => s.uePeer | .mmio => []

/-- An 8-byte word of a location becomes uncorrectable (17 R463). -/
def State.damage (s : State) (l : Loc) (w : Nat) : State :=
  if (s.errors l).contains w then s
  else
    match l with
    | .dev => { s with ueLocal := w :: s.ueLocal }
    | .host => { s with ueHost := w :: s.ueHost }
    | .peer => { s with uePeer := w :: s.uePeer }
    | .mmio => s

/-- Whether one of n bytes at an address is in one of a list of words. -/
def touchesWord (a n : Nat) (l : List Nat) : Bool := l.any fun w => decide (8 * w < a + n ∧ a < 8 * w + 8)

/-- Whether one of n bytes at an address carries an uncorrectable error. -/
def State.errorAt (s : State) (l : Loc) (a n : Nat) : Bool := touchesWord a n (s.errors l)

/-! ### Entries (Table 12-2) -/

def entV (x : Nat) : Bool := natBit x 0
def entL (x : Nat) : Bool := natBit x 1
def entR (x : Nat) : Bool := natBit x 2
def entW (x : Nat) : Bool := natBit x 3
def entX (x : Nat) : Bool := natBit x 4
def entU (x : Nat) : Bool := natBit x 5
def entA (x : Nat) : Bool := natBit x 6
def entD (x : Nat) : Bool := natBit x 7
def entCH (x : Nat) : Bool := natBit x 8
def entLK (x : Nat) : Bool := natBit x 9
def entMT (x : Nat) : Bool := natBit x 10
def entLoc (x : Nat) : Nat := natBits x 11 2
def entPeer (x : Nat) : Nat := natBits x 54 10
/-- The physical address of an entry, a multiple of 64 KiB. -/
def entPa (x : Nat) : Nat := natBits x 16 36 * 65536

/-- Whether a present entry read at a level is malformed (R328). -/
def malformed (level x : Nat) : Bool :=
  (decide (level = 1) && entL x) || (decide (level = 3) && !entL x)
  || natBits x 52 2 != 0 || natBits x 13 3 != 0
  || (!entL x && (natBits x 2 9 != 0 || entPeer x != 0 || decide (1 < entLoc x)))
  || (entL x && decide (level = 3) && natBit x 16)
  || (entL x && decide (level = 2) && natBits x 16 14 != 0)
  || (entPeer x != 0 && decide (entLoc x ≠ 2))
  || (entL x && decide (entLoc x = 0) && natBits x 42 10 != 0)
  || (entL x && entW x && !entR x)
  || (entL x && decide (level = 2) && entCH x)

/-- The index of an address into the table of a level (Table 12-1). -/
def tableIndex (level va : Nat) : Nat :=
  if level = 1 then natBits va 43 13 else if level = 2 then natBits va 30 13 else natBits va 17 13

/-- The power of two of the page that a leaf of a level maps. -/
def pageBits (level : Nat) : Nat := if level = 2 then 30 else 17

/-- How a walk ends: a leaf with its level and the place of its entry, or a cause with the level. -/
inductive WalkEnd where
  | leaf (x level addr : Nat) (host : Bool)
  | fail (c : Cause) (level : Nat)
  deriving DecidableEq, Repr

/-- Stage 2 has ended: cores are online, and port C and the UALink ports carry traffic (19 R479). -/
def State.online (s : State) : Bool := decide (s.root.stage = some 2)

/-- Port C carries accesses to host pages, MMIO over its CXL.io, and the host answers them (15 R405, R409). -/
def State.hostUp (s : State) : Bool := s.online && s.link.up.contains 1 && !s.link.hostFails

/-- Read a table entry: its value, or the cause that its read meets (R334). -/
def State.readEntry (s : State) (host : Bool) (a : Nat) : Except Cause Nat :=
  if host then
    if !s.hostUp then .error .hostLink
    else if s.ueHost.contains (a / 8) then .error .uncorrectable else .ok (Memory.readN s.host a 8)
  else if s.ueLocal.contains (a / 8) then .error .uncorrectable
  else .ok (Memory.readN s.local_ a 8)

/-- Walk from a pointer entry whose table stands at a level (R328). -/
def State.walkFrom (s : State) (va : Nat) : Nat → Nat → Nat → WalkEnd
  | 0, level, _ => .fail .malformedTable level
  | fuel + 1, level, ptr =>
    let host := decide (entLoc ptr = 1)
    let a := entPa ptr + 8 * tableIndex level va
    match s.readEntry host a with
    | .error c => .fail c level
    | .ok x =>
      if !entV x then .fail .pageNotPresent level
      else if malformed level x then .fail .malformedTable level
      else if entL x then .leaf x level a host
      else s.walkFrom va fuel (level + 1) x

/-- The root pointer of a PASID: the firmware's, or an active slot's (R326, R494). -/
def State.rootOf (s : State) (pasid : Nat) : Option Nat :=
  if pasid = 0 then some s.fwRoot
  else (s.contexts.find? fun c => c.2.pasid == pasid && !c.2.ending).map fun c => c.2.root

/-- A walk from the root, without caches; a root that is not present stops it at level 1. -/
def State.rootWalk (s : State) (root va : Nat) : WalkEnd :=
  if entV root then s.walkFrom va 3 1 root else .fail .pageNotPresent 1

/-- The translation slice of an address (R333). -/
def transSlice (pasid va : Nat) : Nat := (va / 2 ^ 24 + pasid) % 192

/-- The address bits that select the table of a level. -/
def tableTag (level va : Nat) : Nat := if level = 2 then va / 2 ^ 43 else va / 2 ^ 30

/-- The pointer entry from which a walk starts: the deepest one that the slice holds, else the root (Table 12-3). -/
def State.walkStart (s : State) (pasid va root : Nat) : Option (Nat × Nat) :=
  let l := (Tab.get {} s.slices (transSlice pasid va)).pointers
  let at_ (level : Nat) := l.find? fun x => x.pasid == pasid && x.level == level && x.va == tableTag level va
  match at_ 3, at_ 2 with
  | some x, _ => some (3, x.entry)
  | none, some x => some (2, x.entry)
  | none, none => if entV root then some (1, root) else none

/-- The walk of an access. -/
def State.walk (s : State) (pasid root va : Nat) : WalkEnd :=
  match s.walkStart pasid va root with
  | some (l, ptr) => s.walkFrom va 3 l ptr
  | none => .fail .pageNotPresent 1

/-- The pointer entries that a walk from a level passes, with the level of the table each names. -/
def State.pathFrom (s : State) (va : Nat) : Nat → Nat → Nat → List (Nat × Nat)
  | 0, _, _ => []
  | fuel + 1, level, ptr =>
    match s.readEntry (decide (entLoc ptr = 1)) (entPa ptr + 8 * tableIndex level va) with
    | .error _ => []
    | .ok x => if !entV x || malformed level x || entL x then [] else (level + 1, x) :: s.pathFrom va fuel (level + 1) x

/-! ### Checks (R329) -/

/-- The cause that the bits of a leaf give an access of a kind (R329). -/
def leafCause (x : Nat) (user : Bool) (k : Access) : Option Cause :=
  if !entR x && !entW x && !entX x then some .privateGuard
  else if user && !entU x then some .permission
  else match k with
    | .read => if entR x then none else some .permission
    | .write => if entW x then none else some .permission
    | .atomic => if entR x && entW x then none else some .permission
    | .fetch => if entX x then none else some .permission

/-- The cause that an access meets at a leaf: that of R329, and a fetch from a peer or MMIO page is refused too (R342). -/
def accessCause (x : Nat) (user : Bool) (k : Access) : Option Cause :=
  match leafCause x user k with
  | some c => some c
  | none => if k = .fetch ∧ 2 ≤ entLoc x then some .permission else none

/-- Whether an access of a kind writes. -/
def Access.writes : Access → Bool
  | .write | .atomic => true
  | .read | .fetch => false

/-- The place that a leaf gives an address. -/
def leafPhys (x level va : Nat) : Phys :=
  let off := va % 2 ^ pageBits level
  let pa := entPa x / 2 ^ pageBits level * 2 ^ pageBits level + off
  let l : Loc := if entLoc x = 0 then .dev else if entLoc x = 1 then .host else if entLoc x = 2 then .peer else .mmio
  { loc := l, addr := if entLoc x = 2 then entPeer x * 2 ^ 42 + pa % 2 ^ 42 else pa, uc := entMT x, locked := entLK x }

/-! ### Caches (R332, R333) -/

def TlbEntry.covers (t : TlbEntry) (pasid va : Nat) : Bool := t.pasid == pasid && va / 2 ^ t.size * 2 ^ t.size == t.va

/-- The leaf that a cached entry gives an address: of a run, the page at the address's offset (R330). -/
def TlbEntry.leafFor (t : TlbEntry) (va : Nat) : Nat :=
  if t.size = 24 then
    t.leaf - entPa t.leaf + entPa t.leaf / 2 ^ 24 * 2 ^ 24 + va % 2 ^ 24 / 2 ^ 17 * 2 ^ 17
  else t.leaf

/-- The cached entry of an address: in the core's cache, then in the slice's (R333). -/
def State.cachedEntry (s : State) (core : Option Nat) (pasid va : Nat) : Option TlbEntry :=
  match core.bind fun c => (s.core c).tlb.find? fun t => t.covers pasid va with
  | some t => some t
  | none => (Tab.get {} s.slices (transSlice pasid va)).leaves.find? fun t => t.covers pasid va

/-- The cached leaf of an address with its level. -/
def State.cachedLeaf (s : State) (core : Option Nat) (pasid va : Nat) : Option (Nat × Nat) :=
  (s.cachedEntry core pasid va).map fun t => (t.leafFor va, t.level)

/-- A cache entry for a leaf: a run where the contiguity hint is set (R330). -/
def cacheEntry (pasid va leaf level : Nat) : TlbEntry :=
  let size := if level = 3 ∧ entCH leaf then 24 else pageBits level
  { pasid := pasid, va := va / 2 ^ size * 2 ^ size, size := size, level := level, leaf := leaf }

/-- Put an entry first in a cache of a capacity; the oldest leaves a full cache (log 12). -/
def installIn (cap : Nat) (e : TlbEntry) (l : List TlbEntry) : List TlbEntry :=
  (e :: l.filter fun t => !(t.pasid == e.pasid && t.va == e.va && t.size == e.size)).take cap

/-- Put a pointer entry first in a slice's cache. -/
def installPointer (p : PtrEntry) (l : List PtrEntry) : List PtrEntry :=
  (p :: l.filter fun x => !(x.pasid == p.pasid && x.level == p.level && x.va == p.va)).take 512

/-- A hit in the slice's cache is installed in the core's (R333); a hit in the core's leaves it as it is. -/
def State.keepEntry (s : State) (core : Option Nat) (t : TlbEntry) : State :=
  match core with
  | none => s
  | some c =>
    let k := s.core c
    if k.tlb.contains t then s else s.setCore c { k with tlb := installIn 1024 t k.tlb }

/-- Install a leaf and the pointers of its path in the slice's cache (R332, R333). -/
def State.installSlice (s : State) (pasid va leaf level : Nat) (path : List (Nat × Nat)) : State :=
  let i := transSlice pasid va
  let sl := Tab.get {} s.slices i
  let ps := path.map fun x => ({ pasid := pasid, level := x.1, va := tableTag x.1 va, entry := x.2 } : PtrEntry)
  { s with slices := Tab.put s.slices i {
      leaves := installIn 4096 (cacheEntry pasid va leaf level) sl.leaves,
      pointers := ps.foldl (fun l p => installPointer p l) sl.pointers } }

/-- Install a leaf in the slice's and, for an access of a core, in the core's cache (R332, R333). -/
def State.installLeaf (s : State) (core : Option Nat) (pasid va leaf level : Nat) (path : List (Nat × Nat)) : State :=
  let s1 := s.installSlice pasid va leaf level path
  match core with
  | some c => let k := s1.core c; s1.setCore c { k with tlb := installIn 1024 (cacheEntry pasid va leaf level) k.tlb }
  | none => s1

/-- Set A, and D for a write, in the entry that was walked (R331). -/
def State.setAccessed (s : State) (x addr : Nat) (host dirty : Bool) : State × Nat :=
  let x1 := if entA x then x else x + 64
  let x2 := if dirty && !entD x then x1 + 128 else x1
  if x2 = x then (s, x)
  else if host then (s.putBytes .host addr 8 x2, x2)
  else (s.putBytes .dev addr 8 x2, x2)

/-- What a fault record says of a translation: the level at which its walk stopped, 0 where none was made, and whether
its leaf maps 1 GiB (Table 12-4). -/
structure Walked where
  level : Nat
  big : Bool := false
  deriving DecidableEq, Repr

/-- The outcome of a translation: a place or a cause, with what its walk found, or nothing at all for a PASID without an
active slot (R494). -/
inductive Xlat where
  | ok (p : Phys) (w : Walked)
  | fail (c : Cause) (w : Walked)
  | dropped
  deriving DecidableEq, Repr

/-- The walk of an access that no cache serves, with its checks, its A and D bits and its installation. The place of a
page of a run keeps its offset in the run, whichever entry was walked (R330). -/
def State.walkAccess (s : State) (core : Option Nat) (pasid : Nat) (user : Bool) (k : Access) (va root : Nat) : State × Xlat :=
  match s.walk pasid root va with
  | .fail c l => (s, .fail c { level := l })
  | .leaf x l a h =>
    match accessCause x user k with
    | some c => (s, .fail c { level := l, big := decide (l = 2) })
    | none =>
      let (s1, x1) := s.setAccessed x a h k.writes
      let path := (match s.walkStart pasid va root with
        | some (lv, ptr) => s.pathFrom va 3 lv ptr
        | none => [])
      (s1.installLeaf core pasid va x1 l path,
        .ok (leafPhys ((cacheEntry pasid va x1 l).leafFor va) l va) { level := l, big := decide (l = 2) })

/-- The function that a context belongs to: the one whose assigned slots hold its slot, else PF0 (15 R427). -/
def State.functionOf (s : State) (pasid : Nat) : Function :=
  let slot := ((s.contexts.find? fun c => c.2.pasid == pasid).map fun c => c.1).getD 0
  let own := s.link.functions.find? fun f => decide (f.2.slots.1 ≤ slot ∧ slot < f.2.slots.1 + f.2.slots.2)
  match own with
  | some f => f.2
  | none => Tab.get {} s.link.functions 0

/-- The host physical page of an untranslated one: the cached ATS result, else an answer of the host, which is
cached with the leaf of its virtual page (15 R412). -/
def State.atsPage (s : State) (pasid va page : Nat) : State × Nat :=
  match s.link.atsCache.find? fun x => x.pasid == pasid && x.va == va && x.page == page with
  | some x => (s, x.host)
  | none =>
    let h := Config.freeNat s.free % 2 ^ 40
    ({ s.tick with link := { s.link with
        atsCache := { pasid := pasid, va := va, page := page, host := h } :: s.link.atsCache } }, h)

/-- With ATS Enable set, the PA of a host leaf is an untranslated address (15 R412). -/
def State.atsPlace (s : State) (pasid va : Nat) (p : Phys) : State × Phys :=
  if p.loc = .host ∧ (s.functionOf pasid).ats = true then
    let (s1, h) := s.atsPage pasid (va / 4096) (p.addr / 4096)
    (s1, { p with addr := h * 4096 + p.addr % 4096 })
  else (s, p)

/-- The translation of an access before ATS (R333): a cached leaf is checked, and walked again by a write that finds D
clear (R331). -/
def State.translateLeaf (s : State) (core : Option Nat) (pasid : Nat) (user : Bool) (k : Access) (va : Nat) : State × Xlat :=
  match s.rootOf pasid with
  | none => (s, .dropped)
  | some root =>
    match s.cachedEntry core pasid va with
    | some t =>
      let x := t.leafFor va
      let w : Walked := { level := 0, big := decide (t.level = 2) }
      match accessCause x user k with
      | some c => (s, .fail c w)
      | none =>
        if k.writes && !entD x then s.walkAccess core pasid user k va root
        else (s.keepEntry core t, .ok (leafPhys x t.level va) w)
    | none => s.walkAccess core pasid user k va root

/-- The translation of an access of a core, or of an engine that belongs to none (R333, 15 R412). -/
def State.translateFor (s : State) (core : Option Nat) (pasid : Nat) (user : Bool) (k : Access) (va : Nat) : State × Xlat :=
  match s.translateLeaf core pasid user k va with
  | (s1, .ok p w) => let (s2, q) := s1.atsPlace pasid va p; (s2, .ok q w)
  | (s1, .fail c w) => (s1, .fail c w)
  | (s1, .dropped) => (s1, .dropped)
def State.translate (s : State) (core pasid : Nat) (user : Bool) (k : Access) (va : Nat) : State × Xlat :=
  s.translateFor (some core) pasid user k va

/-- Whether an address lies in the scratch aperture, which no access translates (05 R116). -/
def inAperture (va : DWord) : Bool := va.toNat / 2 ^ 40 == 0xFFFF
def canonical (va : DWord) : Bool := va.toNat / 2 ^ 56 == 0
/-- Whether an address is one that the translation engine maps (05 R116). -/
def translates (va : Nat) : Bool := decide (va < 2 ^ 56) && va / 2 ^ 40 != 0xFFFF

/-- The leaf with which an engine reaches an address, and its level: what the slice holds, else what a walk finds, with no
check of its bits (R333). -/
def State.engineLeaf (s : State) (pasid va : Nat) : Option (Nat × Nat) :=
  if !translates va then none
  else
    match s.rootOf pasid, s.cachedLeaf none pasid va with
    | none, _ => none
    | some _, some x => some x
    | some root, none =>
      match s.walk pasid root va with
      | .leaf x l _ _ => some ((cacheEntry pasid va x l).leafFor va, l)
      | .fail _ _ => none

/-- The place of an address of a locked frame, as the engines reach images and rings. -/
def State.engineAddr (s : State) (pasid va : Nat) : Option Phys :=
  (s.engineLeaf pasid va).map fun x => (s.atsPlace pasid va (leafPhys x.1 x.2 va)).2

/-! ### Reading and writing as an engine (images, rings, completion words) -/

/-- n bytes at a virtual address of a context; nothing if it is not mapped to local or host memory. -/
def State.engineRead (s : State) (pasid va n : Nat) : Option Nat :=
  match s.engineAddr pasid va with
  | some p => if p.loc = .mmio then none else some (Memory.readN (s.memory p.loc) p.addr n)
  | none => none

/-- An engine's access to a page: a walk, where the slice does not hold the leaf or a write finds D clear in it, sets A in the
leaf, and D if it writes, and the slice holds it then (R331, R333). -/
def State.walkEngine (s : State) (pasid va : Nat) (dirty : Bool) : State :=
  match s.rootOf pasid with
  | none => s
  | some root =>
    if (s.cachedLeaf none pasid va).any fun x => !dirty || entD x.1 then s
    else
      match s.walk pasid root va with
      | .leaf x l a h =>
        let path := (match s.walkStart pasid va root with
          | some (lv, ptr) => s.pathFrom va 3 lv ptr
          | none => [])
        let (s1, x1) := s.setAccessed x a h dirty
        s1.installSlice pasid va x1 l path
      | .fail _ _ => s

/-- An engine's access to a page: its walk, and the ATS result that is kept with the leaf (15 R412). -/
def State.touch (s : State) (pasid va : Nat) (dirty : Bool) : State :=
  if !translates va then s
  else
    let s1 := s.walkEngine pasid va dirty
    match s1.engineLeaf pasid va with
    | some x => (s1.atsPlace pasid va (leafPhys x.1 x.2 va)).1
    | none => s1

/-- An engine reads n bytes: it touches each page of 128 KiB that they lie in (R331). -/
def State.touchRange (s : State) (pasid va n : Nat) : State :=
  (List.range ((va + n - 1) / 2 ^ 17 - va / 2 ^ 17 + 1)).foldl (fun s i =>
    s.touch pasid (if i = 0 then va else (va / 2 ^ 17 + i) * 2 ^ 17) false) s

/-- Write n bytes at a virtual address of a context; nothing happens if it is not mapped. -/
def State.engineWrite (s : State) (pasid va n v : Nat) : State :=
  let s1 := s.touch pasid va true
  match s1.engineAddr pasid va with
  | some p => s1.putBytes p.loc p.addr n v
  | none => s1

/-- 8-byte words of an image, counted from a virtual address of a context, keep the mark of an uncorrectable value that is
written there (17 R463). -/
def State.poison (s : State) (pasid va : Nat) (words : List Nat) : State :=
  words.foldl (fun s w =>
    match s.engineAddr pasid (va + 8 * w) with
    | some p => s.damage p.loc (p.addr / 8)
    | none => s) s

/-! ### Fault records (R336, 13 R352) -/

/-- Whether the fault ring of a core is full (13 R352). -/
def Core.ringFull (k : Core) : Bool := decide ((k.frt - k.frh).toNat ≥ 4096)
/-- How many records the fault ring of a core has room for. -/
def Core.ringRoom (k : Core) : Nat := 4096 - (k.frt - k.frh).toNat

/-- Write one record into the ring of its core: its number, and the state after. -/
def State.writeRecord (s : State) (r : FaultRecord) : State × Nat :=
  let k := s.core r.core
  let n := k.frt.toNat
  let a := k.frb.toNat + 32 * (n % 4096)
  let w2 := r.pasid % 2 ^ 20 + r.cause * 2 ^ 20 + r.sub * 2 ^ 26 + r.kind * 2 ^ 32 + r.level * 2 ^ 34
    + r.channel.isSome.toNat * 2 ^ 36 + r.channel.getD 0 * 2 ^ 37 + r.core * 2 ^ 40 + r.bench * 2 ^ 48 + r.slot * 2 ^ 50
  let s1 := (((s.engineWrite 0 a 8 r.addr).engineWrite 0 (a + 8) 8 r.mask.toNat).engineWrite 0 (a + 16) 8 w2).engineWrite
    0 (a + 24) 8 r.last
  (s1.setCore r.core { s1.core r.core with frt := k.frt + 1 }, n)

/-- Write records in order: the number of the first, and the state after. -/
def State.writeRecords (s : State) (l : List FaultRecord) : State × Option Nat :=
  l.foldl (fun acc r => let (s1, n) := acc.1.writeRecord r; (s1, some (acc.2.getD n))) (s, none)

end Sys2Proof.Machine
end

