-- ==== Sys2Proof/Machine/Notice.lean ====
section
/-! DEFINITION. Notices that engines send: asynchronous causes, machine checks, interrupts toward the host and the
service cores, and the lane records of the trace engine (13 R344, R345; 15 R419 to R424; 18 R475, R476). -/

namespace Sys2Proof.Machine

/-! ### Interrupts (15 R421, R424) -/

def State.function (s : State) (f : Nat) : Function := Tab.get {} s.link.functions f
def State.setFunction (s : State) (f : Nat) (x : Function) : State :=
  { s with link := { s.link with functions := Tab.put s.link.functions f x } }

def State.output (s : State) (o : Output) : State := { s with outputs := s.outputs ++ [o] }

/-- Whether a vector of a function is masked: by the function mask or by its table entry (bit 96). -/
def Function.masked (f : Function) (vec : Nat) : Bool := f.msixMask || natBit (Tab.get 0 f.msix vec) 96

/-- Count n messages as dropped; the count stays at its largest value (R420). -/
def State.countLostMsix (s : State) (n : Nat) : State :=
  { s with link := { s.link with lostmsi := min (s.link.lostmsi + n) (2 ^ 64 - 1) } }

/-- A message leaves on port P, or waits while port P cannot send (R405). -/
def State.postMsix (s : State) (fn vec : Nat) : State :=
  if s.link.up.contains 0 then s.output (.msix fn vec)
  else { s with link := { s.link with waiting := s.link.waiting ++ [(fn, vec)] } }

/-- Send an MSI-X message as PCIe does: dropped and counted with MSI-X disabled or the TDI in ERROR, pending with
the vector masked; the Bool says that it was dropped (R424). -/
def State.sendMsix (s : State) (fn vec : Nat) : State × Bool :=
  let f := s.function fn
  if !f.msixEnable || decide (f.tdi = .error) then (s.countLostMsix 1, true)
  else if f.masked vec then
    (s.setFunction fn { f with pending := if f.pending.contains vec then f.pending else f.pending ++ [vec] }, false)
  else (s.postMsix fn vec, false)

def State.claim (s : State) (i : Nat) : Claim := Tab.get {} s.link.claims i
def State.setClaim (s : State) (i : Nat) (c : Claim) : State :=
  { s with link := { s.link with claims := Tab.put s.link.claims i c } }

/-- Core cycles in a microsecond (01 R2: 1.1 GHz). -/
def cyclesPerMicro : Nat := 1100

/-- Source s fires (R421). -/
def State.fire (s : State) (i : Nat) : State :=
  let c := { s.claim i with cnt := ((s.claim i).cnt + 1) % 2 ^ 32 }
  if c.open_ then s.setClaim i c
  else if c.sc then
    (s.setClaim i { c with
      open_ := true, openFn := c.fn, openVec := c.vec,
      timer := if c.hc then some (s.now + s.link.intfwd * cyclesPerMicro) else none }).output (.serviceInterrupt c.sct i)
  else if c.hc then ((s.setClaim i c).sendMsix c.fn c.vec).1
  else s.setClaim i c

/-! ### Events and machine checks -/

/-- A machine check of a cohort: its strands issue nothing further, 0x3F goes to the supervisor of its core, and
source 0x222 fires (13 R344, 15 Table 15-4). -/
def State.machineCheck (s : State) (ccb : DWord) (sub : Nat) : State :=
  let c := s.cohort ccb
  let s1 := s.setCohort ccb { c with dead := true }
  (s1.postEvent c.core { cause := .machineCheck, sub := sub, pasid := c.pasid, cib := ccb }).fire 0x222

/-- CYC of a core (18 R466). -/
def State.cycles (s : State) : DWord := BitVec.ofNat 64 (s.now - s.stage2At)

/-! ### Lane records (18 R475, R476) -/

/-- Add one to a field of 32 bits of LOST, which stops at its largest value. -/
def addLost (lost : DWord) (shift : Nat) : DWord :=
  if natBits lost.toNat shift 32 = 2 ^ 32 - 1 then lost else lost + BitVec.ofNat 64 (2 ^ shift)

/-- The third word of a lane record (Table 18-4). -/
def State.recordPlace (s : State) (st : Strand) (idx : Nat) : Nat :=
  let c := s.cohort st.ccb
  c.pasid + st.core * 2 ^ 20 + st.bench * 2 ^ 28 + st.slot % 64 * 2 ^ 30 + st.sidx * 2 ^ 36 + c.vid * 2 ^ 41 + idx * 2 ^ 43

/-- Write one lane record into the ring of the strand's core; a full ring drops it and counts it in LOST. -/
def State.laneRecord (s : State) (st : Strand) (kind idx lane : Nat) (pc : Pc) (value : DWord) : State :=
  let k := s.core st.core
  let t := k.trace
  let n := 2 ^ t.rrn.toNat
  if n ≤ t.lanes - t.rhd.toNat then
    s.setCore st.core { k with trace := { t with lost := addLost t.lost (if kind = 4 then 0 else 32) } }
  else
    let a := t.rrb.toNat + 32 * (t.lanes % n)
    let s1 := s.engineWrite 0 a 8 (pc.toNat + lane * 2 ^ 48 + kind * 2 ^ 56)
    let s2 := (s1.engineWrite 0 (a + 8) 8 value.toNat).engineWrite 0 (a + 16) 8 (s.recordPlace st idx)
    let s3 := s2.engineWrite 0 (a + 24) 8 s.cycles.toNat
    let s4 := s3.setCore st.core { s3.core st.core with trace := { t with lanes := t.lanes + 1 } }
    if t.rwa = 0 then s4 else s4.engineWrite 0 t.rwa.toNat 8 (t.lanes + 1)

/-- One lane record for each lane of a mask, with a value by lane. -/
def State.laneRecords (s : State) (st : Strand) (kind idx : Nat) (m : Mask) (pc : Pc) (v : Nat → DWord) : State :=
  (lanesOf m).foldl (fun s l => s.laneRecord st kind idx l pc (v l)) s

/-- The flow records of an outcome: kind 4 for each lane that goes to a target, while TCTL says so (R476). -/
def State.flow (s : State) (e : Entry) (m : Mask) (target : Pc) : State :=
  let st := s.cur
  let tctl := (s.core st.core).trace.tctl.toNat
  if natBit tctl 0 && (!natBit tctl 1 || natBits tctl 20 20 == (s.cohort st.ccb).pasid) then
    s.laneRecords st 4 0 m e.pc fun _ => pcWord target
  else s

/-! ### Stops of a cohort for the debugger (18 R472) -/

/-- A hit marks its cohort to be stopped: the first cause of the halt is kept, and the stop is carried out at the
next instruction boundary (DEBUG_STOP). -/
def State.stopCohort (s : State) (ccb : DWord) (why : Nat) : State :=
  let c := s.cohort ccb
  if c.halted then s else s.setCohort ccb { c with halted := true, why := why, stopping := true }

end Sys2Proof.Machine
end

