-- ==== Sys2Proof/Machine/Ops.lean ====
section
/-! DEFINITION. Taking a cause and returning from a handler; barriers, rendezvous that fail, and how an issue ends
(06 R155 to R160, R179, R180; 13 R343 to R358, R366). -/

namespace Sys2Proof.Machine

/-! ### Causes of strands (13 R345, R351, R357, R366) -/

/-- deliver(c, m, p, v): the lanes enter the handler (R357). The lanes have left their entries before. -/
def Strand.deliver (st : Strand) (code : Nat) (m : Mask) (p : DWord) (v : Nat) : Strand :=
  let h : Pc := BitVec.ofNat 48 (st.handler.toNat / 4 * 4 + 16 * v)
  { (st.setFrontier (st.frontier ++ [{ mask := m, prio := 0xFFFF, pc := h }])).setTm true with
    cause := BitVec.ofNat 6 code, taddr := p, tmask := m }

/-- Whether a user-class cause raised by an entry of priority p goes to the user handler (R357). -/
def Strand.handlerOpen (st : Strand) (p : BitVec 16) : Bool :=
  st.handler.getLsbD 0 && !st.tm && decide (p ≠ 0xFFFF)
    && st.frontier.all (fun e => decide (e.prio ≠ 0xFFFF))

/-- The supervisor strand of a core stops on a machine check of sub-cause 2, an asynchronous cause: the root controller
is told, and source 0x222 fires (R366, 15 Table 15-4). -/
def State.stopSupervisor (s : State) (core : Nat) (e : Event) : State :=
  ((s.setCore core { s.core core with supStopped := true }).output
    (.rootEvent core { e with cause := .machineCheck, sub := 2, sync := false })).fire 0x222

/-- A supervisor strand takes its own cause in its own handler, at 16 x c from HANDLER (R366). -/
def State.raiseSupervisor (s : State) (k : Nat) (e : Entry) (r : Raise) : State :=
  let st := s.strand k
  if st.handler.getLsbD 0 && !st.tm then
    let st1 := st.deliver r.cause.code r.mask (pcWord e.pc) r.cause.code
    s.setStrand k { st1 with faddr := if r.data then r.taddr else st1.faddr }
  else
    let st1 := st.setFrontier (st.frontier ++ [{ e with mask := r.mask, hold := .no }])
    (s.setStrand k st1).stopSupervisor st.core
      { cause := r.cause, tmask := r.mask, pc := pcWord e.pc, taddr := r.taddr }

/-- The event of a synchronous cause (Table 13-2), with the number of its first fault record. -/
def State.causeEvent (s : State) (st : Strand) (e : Entry) (r : Raise) (seq : Option Nat) : Event :=
  { cause := r.cause, sub := r.sub, sync := true, parked := true, bench := st.bench, slot := st.slot,
    pasid := (s.cohort st.ccb).pasid, param := r.param, cib := st.cib, taddr := r.taddr, tmask := r.mask,
    pc := pcWord e.pc, seq := seq }

/-- Whether the lanes of a raise resume after its instruction (Table 13-1, restart N). -/
def Raise.restartsNext (r : Raise) : Bool := r.cause.restartNext || r.next

/-- The lanes of a synchronous cause form a parked entry at the restart point; its fault records are written, and then its
event enters the queue (R345, 06 R159, 12 R336). -/
def State.parkNow (s : State) (k : Nat) (e : Entry) (r : Raise) : State :=
  let (s1, seq) := s.writeRecords r.records
  let st := s1.strand k
  let rpc := if r.restartsNext then nextPc e.pc else e.pc
  let en : Entry := {
    mask := r.mask, prio := s1.nextPrio st e.prio rpc, pc := rpc, parked := true, order := st.nextOrder, cause := some r.cause }
  let s2 := s1.setStrand k { st.setFrontier (st.frontier ++ [en]) with nextOrder := st.nextOrder + 1 }
  s2.setCore st.core ((s2.core st.core).enter (s1.causeEvent st e r seq))

/-- Whether a synchronous cause finds a place for its event and for each of its fault records (R351, 12 R336). -/
def Core.roomFor (k : Core) (r : Raise) : Bool := decide (k.evq.length < 64) && decide (r.records.length ≤ k.ringRoom)

/-- A synchronous cause that goes to the supervisor: its lanes park, or without a free place the cause is held and they
stay at the instruction, which no entry of the strand passes (01 R13; 13 R351). -/
def State.park (s : State) (k : Nat) (e : Entry) (r : Raise) : State :=
  let st := s.strand k
  let c := s.core st.core
  if c.held.isEmpty && c.roomFor r then s.parkNow k e r
  else
    let en : Entry := { mask := r.mask, prio := e.prio, pc := e.pc, cause := some r.cause, pending := true }
    let s1 := s.setStrand k (st.setFrontier (st.frontier ++ [en]))
    s1.setCore st.core { s1.core st.core with held := (s1.core st.core).held ++ [.cause k e r] }

/-- Count an event of the check engine of a core; the counter stops at its largest value (17 R462). -/
def State.countCheck (s : State) (core i : Nat) : State :=
  let k := s.core core
  s.setCore core { k with counters := Tab.put k.counters i (min 0xFFFFFFFF (Tab.get 0 k.counters i + 1)) }

/-- Taking a synchronous cause: the supervisor strand in its own handler, a user-class cause in the user
handler where it is open, and every other in a parked entry with an event (R345, R346, R357, R366). An uncorrectable error is counted (17 R462). -/
def State.takeCause (s0 : State) (k : Nat) (e : Entry) (r : Raise) : State :=
  let st := s0.strand k
  let s := if r.cause = .uncorrectable ∨ r.sub = Cause.uncorrectable.code then s0.countCheck st.core 2 else s0
  if st.sup then s.raiseSupervisor k e r
  else if r.cause.user && st.handlerOpen e.prio then
    s.setStrand k (st.deliver r.cause.code r.mask (pcWord e.pc) (r.cause.code - 8))
  else s.park k e r

/-- Insert a raise by its cause code, the lower first (R346, R347). -/
def insertRaise (r : Raise) : List Raise → List Raise
  | [] => [r]
  | x :: t => if r.cause.code < x.cause.code then r :: x :: t else x :: insertRaise r t
def orderRaises (l : List Raise) : List Raise := l.foldl (fun acc r => insertRaise r acc) []

/-! ### Barriers (06 R179, R180) -/

/-- A strand's frontier and successor are both empty: it has exited (R171). -/
def Strand.done (st : Strand) : Bool := st.frontier.isEmpty && st.succ.isNone
/-- Whether a strand has arrived: every valid entry is held at the barrier (R179). -/
def Strand.atBarrier (st : Strand) : Bool :=
  !st.frontier.isEmpty && st.frontier.all fun e => decide (e.hold = .barrier)
/-- Whether every strand of a cohort that has not exited has arrived. -/
def State.cohortArrived (s : State) (c : Cohort) : Bool :=
  c.barrier.isSome && c.keys.all fun k => (s.strand k).exited || (s.strand k).atBarrier

/-- The entries held at the barrier of a cohort go on at p + 4, and the barrier state clears (R180). -/
def State.releaseBarrier (s : State) (ccb : DWord) : State :=
  let c := s.cohort ccb
  let s1 := c.keys.foldl (fun (s : State) k =>
    let st := s.strand k
    s.setStrand k (st.setFrontier (st.frontier.map fun e =>
      if e.hold = .barrier then
        { e with pc := nextPc e.pc, prio := s.prioOf st (nextPc e.pc), hold := .no }
      else e))) s
  s1.setCohort ccb { s1.cohort ccb with barrier := none, spanArrived := false }

/-- A strand that starts while a barrier is pending must also arrive: its cohort has not arrived at a span barrier any more
(R179). -/
def State.unarrive (s : State) (ccb : DWord) : State :=
  let c := s.cohort ccb
  if c.spanArrived then
    let sp := Tab.get {} s.spans c.span
    { s.setCohort ccb { c with spanArrived := false } with
      spans := Tab.put s.spans c.span { sp with arrived := sp.arrived.filter fun p => p != c.pos } }
  else s

/-- The invalidation of an acquire wider than the core: all lines but the private ones (05 R129, 07 R209). -/
def State.invalidateL1 (s : State) (core : Nat) : State :=
  let k := s.core core
  s.setCore core { k with l1 := k.l1.filter fun x => x.2.priv }

/-- Whether a position of a span has arrived at the pending span barrier: it has completed, its cohort has arrived, or its
cohort has no strand that has not exited, for no barrier waits for threads in bins (R177, R180). -/
def State.positionArrived (s : State) (sp : Span) (p : Nat) : Bool :=
  sp.arrived.contains p || sp.completed.contains p
    || (match sp.ccbs[p]? with
      | some x => Tab.has s.cohorts x.toNat && (s.cohort x).keys.all fun k => (s.strand k).exited
      | none => false)

/-- A span barrier of which every position has arrived completes: its cohorts go on, and what their strands have written is
seen on each of their cores (R180; 05 Table 5-5). That of cohorts which are absent completes when they are read back. -/
def State.checkSpan (s : State) (id : Nat) : State :=
  let sp := Tab.get {} s.spans id
  if sp.pending.isNone || (sp.ccbs.any fun x => decide ((s.cohort x).residency = .absent))
      || !(List.range sp.size).all fun p => s.positionArrived sp p then s
  else
    let s1 := { s with spans := Tab.put s.spans id { sp with arrived := [], pending := none } }
    sp.ccbs.foldl (fun (s : State) x =>
      if (s.cohort x).spanArrived then (s.releaseBarrier x).invalidateL1 (s.cohort x).core else s) s1

/-- Complete a pending barrier of a cohort if its last arrival has come (R180); the barrier of an absent cohort stands in its
images, and completes when they are read back. -/
def State.checkBarrier (s : State) (ccb : DWord) : State :=
  let c := s.cohort ccb
  match c.barrier with
  | none => s.checkSpan c.span
  | some b =>
    if !s.cohortArrived c ∨ c.residency = .absent then s
    else
      let sp := Tab.get {} s.spans c.span
      if !b.span || decide (sp.size ≤ 1) then s.releaseBarrier ccb
      else
        let arr := if sp.arrived.contains c.pos then sp.arrived else sp.arrived ++ [c.pos]
        let s1 := s.setCohort ccb { c with spanArrived := true }
        ({ s1 with spans := Tab.put s1.spans c.span { sp with arrived := arr, pending := some b.pc } } : State).checkSpan c.span

/-! ### Rendezvous that fail (11 R299) -/

/-- The member count of a GANG, and the strand slots it lists (11 Table 11-2). -/
def gangCount (g : Nat) : Nat := natBits g 32 3
def gangMembers (g : Nat) : List Nat := (List.range (gangCount g)).map fun p => natBits g (5 * p) 5

/-- Whether a strand holds an entry at the `mma` of an arrival. -/
def Strand.holdsGang (st : Strand) (pc : Pc) : Bool := st.frontier.any fun e => decide (e.hold = .gang) && e.pc == pc

/-- The held entry of an arrival raises a cause and leaves the rendezvous. -/
def State.raiseArrival (s : State) (a : Arrival) (c : Cause) (taddr : DWord) : State :=
  let st := s.strand a.key
  match st.frontier.find? fun e => decide (e.hold = .gang) && e.pc == a.pc with
  | none => s
  | some e =>
    (s.setStrand a.key (st.setFrontier (st.frontier.filter fun x => decide (x ≠ e)))).takeCause a.key { e with hold := .no }
      { cause := c, mask := e.mask, taddr := taddr }

/-- The order of the events that one gang raises in one cycle: the entry of higher PRIO, then the lower lowest lane, bench
and slot (13 R347). -/
def State.arrivalRank (s : State) (a : Arrival) : List Nat :=
  let st := s.strand a.key
  match st.frontier.find? fun e => decide (e.hold = .gang) && e.pc == a.pc with
  | none => []
  | some e => [0xFFFF - e.prio.toNat, (lanesOf e.mask).headD 64, st.bench, st.slot]

/-- Gangs of a core fail in one cycle: every arrived member of them, and a strand that would not join, raises a cause, in the
order of R347, and their latch entries are cleared. -/
def State.failGangs (s : State) (core : Nat) (gs : List Gang) (more : List Arrival) (c : Cause) : State :=
  let k := s.core core
  (sortKeyed s.arrivalRank (gs.flatMap (fun g => g.arrivals) ++ more)).foldl (fun s a => s.raiseArrival a c 0)
    (s.setCore core { k with latch := k.latch.filter fun x => decide (x ∉ gs) })

/-- A strand that exits fails the rendezvous that list it (11 R299). -/
def State.failGangsOf (s : State) (st : Strand) : State :=
  s.failGangs st.core ((s.core st.core).latch.filter fun g => g.ccb == st.ccb && (gangMembers g.members).contains st.sidx) [] .gangMismatch

/-- After the frontier of a strand has changed: an empty one without a successor has exited (R171), rendezvous that list
it fail (11 R299), and a barrier of its cohort may complete (R180). -/
def State.afterFrontier (s : State) (k : Nat) : State :=
  let st := s.strand k
  if st.sup then s
  else
    let s1 := s.setStrand k { st with
      exited := st.exited || st.done, exitedAt := if st.done && !st.exited then s.now else st.exitedAt }
    let s2 := if st.done && !st.exited then s1.failGangsOf st else s1
    if st.done || (s2.cohort st.ccb).barrier.isSome then s2.checkBarrier st.ccb else s2

/-- One issue ends: the candidate entry is removed, the outcomes are inserted, the causes are taken, those of lanes that have
left the instruction before among them, the frontier is merged (06 R157, R159; 13 R347). -/
def State.settle (s : State) (outs : List (Pc × Mask)) (raises : List Raise) : State :=
  let st := s.cur
  let e := candidate st
  let ins := (outs.filter fun o => decide (o.2 ≠ 0)).map fun o =>
    ({ mask := o.2, prio := s.nextPrio st e.prio o.1, pc := o.1 } : Entry)
  let st1 := { st.setFrontier (dropCandidate st.frontier ++ ins) with
    stall := 0, lastIssue := s.now, ready := 0, aged := false, also := []
    flushed := if st.flushed = some e.pc then none else st.flushed }
  ((orderRaises ((st.also ++ raises).filter fun r => decide (r.mask ≠ 0))).foldl (fun s r => s.takeCause s.curKey e r)
    (s.setCur st1)).afterFrontier s.curKey

/-- The candidate entry is held where it stands (06 R155, R179). -/
def State.holdCandidate (s : State) (h : Hold) : State :=
  let st := s.cur
  let e := candidate st
  ((s.setCur { st.setFrontier (dropCandidate st.frontier ++ [{ e with hold := h }]) with
    stall := 0, lastIssue := s.now, ready := 0, aged := false })).afterFrontier s.curKey

/-- The ordinary outcome: the lanes of the entry go on to PC + 4. -/
def State.advance (s : State) : State :=
  s.settle [(nextPc (candidate s.cur).pc, (candidate s.cur).mask)] []

/-- One cause for every lane of the issuing entry, with no other effect; TADDR is the PC (R59, 13 Table 13-2). -/
def State.raiseAll (s : State) (c : Cause) : State :=
  s.settle [] [{ cause := c, mask := (candidate s.cur).mask, taddr := pcWord (candidate s.cur).pc }]

/-- One cause for every lane of the issuing entry with the TADDR given (06 R163). -/
def State.raiseAllAt (s : State) (c : Cause) (taddr : DWord) : State :=
  s.settle [] [{ cause := c, mask := (candidate s.cur).mask, taddr := taddr }]

/-- A strand for which nothing issues reports a stall reason (06 R162); one of 1 to 11 ends its run of ready cycles
(04 R84, 06 R152). -/
def Strand.withStall (st : Strand) (r : Nat) : Strand :=
  if 1 ≤ r ∧ r ≤ 11 then { st with stall := r, ready := 0, aged := false } else { st with stall := r }
def State.stallWith (s : State) (r : Nat) : State := s.setCur { s.cur.withStall r with tried := s.now }

/-- Where `tret` goes: after the instruction for the causes that restart at the next one, else to it (R358, R366); PC[1:0] are
zero (03 R44). -/
def Strand.returnPc (st : Strand) : Pc :=
  let c := st.cause.toNat
  let next := decide (0x08 ≤ c ∧ c ≤ 0x0D) || (st.sup && c == 0x0F)
  BitVec.ofNat 48 ((if next then st.taddr.toNat + 4 else st.taddr.toNat) / 4 * 4)

/-- The return from a handler, `tret`: the lanes go to an entry of ordinary priority, and STAT.TM clears with the last
handler entry
(R358). The lanes may be the last arrival at a barrier (06 R179). -/
def State.returnFromHandler (s : State) : State :=
  let st := s.cur
  let e := candidate st
  let r := st.returnPc
  let rest := dropCandidate st.frontier
  let st1 := { st.setFrontier (rest ++ [{ mask := e.mask, prio := s.prioOf st r, pc := r }]) with
    stall := 0, lastIssue := s.now, ready := 0, aged := false }
  (s.setCur (if st1.frontier.all (fun x => decide (x.prio ≠ 0xFFFF)) then st1.setTm false else st1)).afterFrontier s.curKey

end Sys2Proof.Machine
end

