-- ==== Sys2Proof/Machine/Image.lean ====
section
/-! DEFINITION. Context images, cohort images and span images: where they lie, what is written into them when a
cohort leaves, and what is read back when it returns (04 R90 to R97; 06 R182; 11 Table 11-5). -/

namespace Sys2Proof.Machine

/-! ### Where the structures lie -/

/-- The most lines that any variant gives strand slot k: the size of its image (14 R376). -/
def Cohort.maxLines (c : Cohort) (k : Nat) : Nat :=
  c.variants.foldl (fun m v => if k < v.strands then max m (v.linesOf k) else m) 0
/-- The most scratch that any variant declares. -/
def Cohort.maxScratch (c : Cohort) : Nat := c.variants.foldl (fun m v => max m v.scratch) 0

/-- The size of a cohort image with its spawn memory, and its matrix area if it has one (14 R376). -/
def Cohort.imageBytes (c : Cohort) : Nat := if c.matrix then 0x23000 + 0x181000 else 0x23000

/-- A structure of the dispatch engine that an address lies in, with the offset (10 R288). -/
inductive Struct where
  | strand (key off : Nat)
  | cohort (ccb : DWord) (off : Nat)
  | span (id off : Nat)
  | mailbox (ccb : DWord) (off : Nat)
  | scratch (ccb : DWord) (off : Nat)
  deriving DecidableEq, Repr

/-- The offset of a place in a range of virtual addresses of a context, page by page. -/
def State.offsetIn (s : State) (pasid base size : Nat) (p : Phys) : Option Nat :=
  (List.range (size / 2 ^ 17 + 2)).findSome? fun i =>
    let va := (base / 2 ^ 17 + i) * 2 ^ 17
    match s.engineAddr pasid va with
    | some q =>
      let v := va + p.addr % 2 ^ 17
      if q.loc = p.loc ∧ q.addr / 2 ^ 17 = p.addr / 2 ^ 17 ∧ base ≤ v ∧ v < base + size then some (v - base) else none
    | none => none

/-- The structure of a cohort that a place lies in. -/
def State.structOf (s : State) (c : Cohort) (p : Phys) : Option Struct :=
  let look (base size : Nat) (f : Nat → Struct) : Option Struct :=
    if base = 0 then none else (s.offsetIn c.pasid base size p).map f
  let strands := c.cibs.zipIdx.findSome? fun x =>
    match x.1 with
    | some a => look a.toNat (0x1000 + c.maxLines x.2 * 0x100) (Struct.strand a.toNat)
    | none => none
  match strands with
  | some x => some x
  | none =>
    match look c.ccb.toNat c.imageBytes (Struct.cohort c.ccb) with
    | some x => some x
    | none =>
      match look c.mailboxImage.toNat 4096 (Struct.mailbox c.ccb) with
      | some x => some x
      | none =>
        match look c.scratchImage.toNat c.maxScratch (Struct.scratch c.ccb) with
        | some x => some x
        | none => look c.spanImage.toNat 4096 (Struct.span c.span)

/-- The structure that a place lies in, of any cohort. -/
def State.structAt (s : State) (p : Phys) : Option Struct :=
  s.cohorts.findSome? fun x => s.structOf x.2 p

/-! ### Words of an image, as engines read and write them -/

/-- Write a list of 8-byte words at offsets of a base. -/
def State.writeWords (s : State) (pasid base : Nat) (l : List (Nat × Nat)) : State :=
  l.foldl (fun s x => s.engineWrite pasid (base + x.1) 8 x.2) s

/-- Write n bytes of an image that lie in one page: zero but for the 8-byte words given. -/
def State.writeBlock (s : State) (pasid base n : Nat) (l : List (Nat × Nat)) : State :=
  match s.engineAddr pasid base with
  | some p =>
    (l.filter fun x => x.2 != 0).foldl (fun s x => s.putBytes p.loc (p.addr + x.1) 8 x.2)
      ((s.touch pasid base true).clearBytes p.loc p.addr n)
  | none => s

/-- n bytes of an image as one number; 0 if they cannot be read. -/
def State.imageBlock (s : State) (pasid a n : Nat) : Nat := (s.engineRead pasid a n).getD 0

/-- An 8-byte word of an image; 0 if it cannot be read. -/
def State.imageWord (s : State) (pasid a : Nat) : Nat := (s.engineRead pasid a 8).getD 0

/-- A frontier entry as two words (Table 4-5), and the successor entry, V = 0 and P = 1 (06 R161). -/
def Entry.low (e : Entry) : Nat := e.prio.toNat * 2 ^ 48 + e.pc.toNat / 4 * 4 + 2 + e.parked.toNat
def Entry.image (e : Entry) : Nat × Nat := (e.low, e.mask.toNat)
def Successor.image (x : Successor) : Nat × Nat := (x.pc.toNat / 4 * 4 + 1, x.lines + x.base * 2 ^ 16)
def frontierOffset (i : Nat) : Nat := if i < 8 then 16 * i else 0x400 + 16 * (i - 8)

/-- The entries of a strand's image in order: the valid ones, then the successor (R91, 06 R161). -/
def Strand.imageEntries (st : Strand) : List (Nat × Nat) :=
  st.frontier.map Entry.image ++ (match st.succ with | some x => [x.image] | none => [])

/-- Entries as words of an image, the first at a position. -/
def entryWords (first : Nat) (l : List (Nat × Nat)) : List (Nat × Nat) :=
  l.zipIdx.flatMap fun x => [(frontierOffset (first + x.2), x.1.1), (frontierOffset (first + x.2) + 8, x.1.2)]

/-- The entries that stand in the spill area (06 R158). -/
def Strand.spill (st : Strand) : List (Nat × Nat) := st.imageEntries.drop 8

/-- The full/empty bits of lines, those at or above the declared count as 1 (R93). -/
def Strand.lineBits (st : Strand) (w : Nat) : Nat :=
  (List.range 64).foldr (fun i acc =>
    (if st.nlines ≤ 64 * w + i ∨ st.vFull.getLsbD (64 * w + i) = true then 1 else 0) + 2 * acc) 0

/-- The words of the control area of a strand image, 0x000 to 0x3FF (Tables 4-4 and 4-6). The replies of q5 stand from
ring entry 0 on, the oldest there: which ring index is the oldest is the model's choice (log 87). -/
def Strand.controlWords (st : Strand) : List (Nat × Nat) :=
  entryWords 0 (st.imageEntries.take 8) ++
  [(0x080, st.stat.toNat), (0x088, st.wb), (0x090, st.gang.toNat), (0x098, st.cause.toNat),
   (0x0A0, st.taddr.toNat), (0x0A8, st.tmask.toNat), (0x0B0, st.handler.toNat), (0x0B8, st.sigmask.toNat),
   (0x0C0, st.nlines + st.sidx * 2 ^ 16 + st.bench * 2 ^ 24)]
  ++ (List.range 64).map (fun m => (0x100 + 8 * m, (st.scalar m).toNat))
  ++ (List.range 8).map (fun w => (0x300 + 8 * w, st.lineBits w))
  ++ [(0x340, st.sFull.toNat), (0x348, st.spill.length), (0x350, st.replies.length)]
  ++ (List.range 4).map (fun i => (0x358 + 8 * i, (st.replies.getD i 0).toNat))

/-- A vector line as one number of 256 bytes, lane 0 lowest. -/
def lineNat (x : Line) : Nat := x.foldr (fun w acc => w.toNat + 2 ^ 32 * acc) 0
def natLine (v : Nat) : Line := (List.range 64).map fun l => BitVec.ofNat 32 (natBits v (32 * l) 32)

/-- The spill area follows the frontier: entries 8 and up are written at once, and the positions they have left become
invalid (06 R158, R91). -/
def State.saveSpill (s : State) (k : Nat) : State :=
  let st := s.strand k
  if st.spill = st.spilled then s
  else
    let gone := List.replicate (st.spilled.length - st.spill.length) (0, 0)
    (s.writeWords (s.cohort st.ccb).pasid st.cib.toNat (entryWords 8 (st.spill ++ gone))).setStrand k
      { st with spilled := st.spill }

/-- Write the control area of a strand's image, and its spill area: at a swap-out and at a demotion (R95, R392). -/
def State.saveControl (s : State) (k : Nat) : State :=
  let st := s.strand k
  (s.writeBlock (s.cohort st.ccb).pasid st.cib.toNat 0x400 st.controlWords).saveSpill k

/-- The line of a strand that is written to its image first keeps the mark of elements that are uncorrectable: two elements
share a word (17 R463). -/
def State.poisonLine (s : State) (k n : Nat) : State :=
  let st := s.strand k
  if st.flawed = 0 then s
  else
    (s.poison (s.cohort st.ccb).pasid (st.cib.toNat + 0x1000 + 0x100 * n) (distinct ((lanesOf st.flawed).map fun l => l / 2))).setStrand k
      { st with flawed := 0 }

/-- Write the resident vector lines of a strand into its image (R8, R88). -/
def State.saveLines (s : State) (k : Nat) : State :=
  let st := s.strand k
  let ns := (List.range st.nlines).filter fun n => !st.absent.getLsbD n
  let s1 := ns.foldl (fun s n =>
    s.engineWrite (s.cohort st.ccb).pasid (st.cib.toNat + 0x1000 + 0x100 * n) 256 (lineNat (st.line n))) s
  match ns with
  | n :: _ => s1.poisonLine k n
  | [] => s1

/-- A frontier entry read from an image: held at the barrier address given (06 R179); the replay queue lists a parked
entry by its place, and keeps the cause that it knew (13 R353). -/
def loadEntry (old : List Entry) (barrier : Option Pc) (lo hi place : Nat) : Option Entry :=
  if natBit lo 1 then
    let pc : Pc := BitVec.ofNat 48 (lo % 2 ^ 48 / 4 * 4)
    let m : Mask := BitVec.ofNat 64 hi
    let parked := natBit lo 0
    some {
      mask := m, prio := BitVec.ofNat 16 (lo / 2 ^ 48), pc := pc, parked := parked, order := place
      hold := if !parked && barrier == some pc then .barrier else .no
      cause := if parked then (old.find? fun o => o.pc == pc && o.mask == m && o.parked).bind fun o => o.cause else none }
  else none

/-- A successor entry read from an image (06 R161). -/
def loadSuccessor (lo hi : Nat) : Option Successor :=
  if natBit lo 0 && !natBit lo 1 then
    some { pc := BitVec.ofNat 48 (lo % 2 ^ 48 / 4 * 4), lines := natBits hi 0 7, base := natBits hi 16 9 }
  else none

/-- The lanes of a held cause leave the entries they stand in for an entry of their own (13 R351, R367). -/
def Strand.holdCause (st : Strand) (e : Entry) (r : Raise) : Strand :=
  let cut := (st.frontier.map fun x => if x.parked then x else { x with mask := x.mask &&& ~~~ r.mask }).filter fun x =>
    decide (x.mask ≠ 0)
  st.setFrontier (cut ++ [{ mask := r.mask, prio := e.prio, pc := e.pc, cause := some r.cause, pending := true }])

/-- STAT as it is read from an image: PRIV, CHK and VAR are the cohort's, and reserved bits read as zero (R103, 00 R5). -/
def loadStat (c : Cohort) (w : Nat) : DWord :=
  BitVec.ofNat 64 (natBits w 0 5 + natBits w 8 5 * 2 ^ 8 + natBits w 16 2 * 2 ^ 16 + natBits w 57 1 * 2 ^ 57
    + c.vid % 4 * 2 ^ 58 + c.check % 4 * 2 ^ 60 + natBits w 62 1 * 2 ^ 62)

/-- Read a strand back from its image (R393, 13 R353): the fields of Tables 4-4 to 4-6, the entries that the spill count
covers, and its lines. -/
def State.loadStrand (s : State) (k : Nat) : State :=
  let st := s.strand k
  let c := s.cohort st.ccb
  let base := st.cib.toNat
  let image := s.imageBlock c.pasid base 0x400
  let w (o : Nat) : Nat := natBits image (8 * o) 64
  let d (o : Nat) : DWord := BitVec.ofNat 64 (w o)
  let spill := (List.range (natBits (w 0x348) 0 8)).map fun i =>
    let v := s.imageBlock c.pasid (base + frontierOffset (8 + i)) 16
    (v % 2 ^ 64, v / 2 ^ 64)
  let words := (List.range 8).map (fun i => (w (16 * i), w (16 * i + 8))) ++ spill
  let desc := w 0x0C0
  let n := natBits (w 0x350) 0 3
  let first := natBits (w 0x350) 4 2
  let held := c.barrier.bind fun b => if b.held.contains (natBits desc 16 5) then some b.pc else none
  let fe : BitVec 512 := BitVec.ofNat 512 (natBits image (8 * 0x300) 512)
  let lines := (List.range (natBits desc 0 10)).map fun i =>
    (i, natLine (s.imageBlock c.pasid (base + 0x1000 + 0x100 * i) 256))
  let st1 : Strand := { st with
    stat := loadStat c (w 0x080), wb := natBits (w 0x088) 0 9, gang := BitVec.ofNat 64 (natBits (w 0x090) 0 30 + natBits (w 0x090) 32 6 * 2 ^ 32)
    cause := BitVec.ofNat 6 (w 0x098), taddr := d 0x0A0, tmask := d 0x0A8
    handler := BitVec.ofNat 64 (natBits (w 0x0B0) 0 1 + natBits (w 0x0B0) 2 46 * 4), sigmask := d 0x0B8
    nlines := natBits desc 0 10, sidx := natBits desc 16 5
    scal := (List.range 64).foldl (fun (t : Tab DWord) m => Tab.set 0 t m (d (0x100 + 8 * m))) []
    vec := lines.foldl (fun (t : Tab Line) x => Tab.set zeroLine t x.1 x.2) []
    absent := 0, vFull := fe, sFull := d 0x340, nextOrder := 200, spilled := spill, resident := 8
    frontier := orderFrontier (words.zipIdx.filterMap fun x => loadEntry st.frontier held x.1.1 x.1.2 x.2)
    succ := words.findSome? fun x => loadSuccessor x.1 x.2
    replies := (List.range n).map fun i => d (0x358 + 8 * ((first + i) % 4)) }
  s.setStrand k (c.kept.foldl (fun st h => match h with
    | .cause key e r => if key = k then st.holdCause e r else st
    | .event _ => st) st1)

/-! ### The cohort image (Table 4-8) -/

/-- Whether the image of a strand is backed by its live lines: while its cohort is resident (R95). -/
def State.resident (s : State) (ccb : DWord) : Bool :=
  decide ((s.cohort ccb).residency = .hot ∨ (s.cohort ccb).residency = .warm)

/-- The mask of strand slots whose strand satisfies a test. -/
def State.slotMask (s : State) (c : Cohort) (p : Strand → Bool) : Nat :=
  (List.range 32).foldr (fun k acc => (match c.cibs.getD k none with
    | some a => if p (s.strand a.toNat) then 1 else 0
    | none => 0) + 2 * acc) 0

/-- The barrier and phase words (06 Table 6-4). -/
def State.barrierWords (s : State) (c : Cohort) : List (Nat × Nat) :=
  let holds (st : Strand) : Bool := st.frontier.any fun e => decide (e.hold = .barrier)
  let head := match c.barrier with
    | none => [(0x040, 0), (0x048, 0)]
    | some b =>
      [(0x040, s.slotMask c Strand.atBarrier + 2 ^ 32 * s.slotMask c holds), (0x048, b.pc.toNat + b.span.toNat * 2 ^ 48)]
  let ph (k : Nat) : Nat :=
    let p := Tab.get {} c.phases k
    p.cnt + p.ph.toNat * 64 + p.n * 128 + p.act.toNat * 4096
  head ++ [(0x050, c.spanArrived.toNat)]
    ++ (List.range 4).map fun k => (0x060 + 8 * k, ph (2 * k) + 2 ^ 32 * ph (2 * k + 1))

/-- The barrier that an image holds, and its phase barriers (06 Table 6-4). -/
def loadBarrier (masks place : Nat) : Option Barrier :=
  if natBits masks 32 32 = 0 then none
  else some { pc := BitVec.ofNat 48 (natBits place 2 46 * 4), span := natBit place 48
              held := (List.range 32).filter fun k => natBit masks (32 + k) }
def loadPhase (w : Nat) : Phase := { cnt := natBits w 0 6, ph := natBit w 6, n := natBits w 7 5, act := natBit w 12 }

/-- A map entry of the slot map (11 Table 11-4). -/
def Slot.word (x : Slot) : Nat :=
  let m := match x.mode with | .clear => 0 | .a48 => 1 | .int48 => 2
  x.granted.toNat * 2 ^ 63 + x.acquired.toNat * 2 ^ 62 + x.resident.toNat * 2 ^ 61 + x.saved.toNat * 2 ^ 60
    + m * 2 ^ 58 + x.err.toNat * 2 ^ 57 + x.core * 2 ^ 40 + x.phys * 2 ^ 36

def Slot.ofWord (w : Nat) : Slot :=
  { granted := natBit w 63, acquired := natBit w 62, resident := natBit w 61, saved := natBit w 60
    mode := if natBits w 58 2 = 1 then .a48 else if natBits w 58 2 = 2 then .int48 else .clear
    err := natBit w 57, core := natBits w 40 8, phys := natBits w 36 4 }

/-- The halt word (18 Table 18-2). -/
def Cohort.haltWord (c : Cohort) : Nat := c.why * 16 + c.skip.toNat * 4 + c.halted.toNat

/-- The pending events that a cohort image keeps over a swap-out, at 0x080 to 0x0F7 (Table 4-8): their layout is not stated,
so each word is a free value while there are any (log 63). -/
def State.keptWords (s : State) (c : Cohort) : List (Nat × Nat) :=
  if c.kept.isEmpty then []
  else (List.range 15).map fun i => (0x080 + 8 * i, (Config.freeDWord (s.free + i)).toNat)

/-- The words of a cohort image that are not zero. -/
def State.cohortWords (s : State) (c : Cohort) : List (Nat × Nat) :=
  let v := c.variant
  let sp := Tab.get {} s.spans c.span
  [(0x000, (v.strands - 1) + c.vid * 2 ^ 8 + c.check * 2 ^ 12 + c.carve * 2 ^ 16 + c.cls * 2 ^ 20 + c.seq % 2 ^ 32 * 2 ^ 32),
   (0x008, c.ctx + c.pasid * 2 ^ 12), (0x010, c.scratchImage.toNat), (0x018, v.scratch),
   (0x020, c.pos + (sp.size - 1) * 16 + c.spanImage.toNat / 256 * 256),
   (0x028, c.vmask + (match c.request with | some r => 256 + r.target * 512 | none => 0)),
   (0x030, c.mailboxImage.toNat), (0x038, c.mailbox.length + c.mailboxHead * 256)]
  ++ s.barrierWords c ++ s.keptWords c ++ [(0x0F8, c.haltWord)]
  ++ (List.range 32).map (fun k => (0x100 + 8 * k, match c.cibs.getD k none with | some a => a.toNat | none => 0))
  ++ (List.range 16).map (fun i => (0x200 + 8 * i, (Tab.get {} c.slots i).word))

/-- Write a cohort image. -/
def State.saveCohort (s : State) (ccb : DWord) : State :=
  let c := s.cohort ccb
  let s1 := s.writeBlock c.pasid ccb.toNat 0x1000 (s.cohortWords c)
  { s1.setCohort ccb { s1.cohort ccb with shown := s.barrierWords c } with
    free := s.free + if c.kept.isEmpty then 0 else 15 }

/-- The barrier and phase words of a cohort in its image follow its barriers (06 R182). -/
def State.showBarrier (s : State) (ccb : DWord) : State :=
  let c := s.cohort ccb
  let w := s.barrierWords c
  if w = c.shown then s
  else (s.writeWords c.pasid ccb.toNat w).setCohort ccb { c with shown := w }

/-- One word of the image of a cohort that is absent follows a change of the cohort; a resident cohort's image is written
when it leaves. -/
def State.showWord (s : State) (ccb : DWord) (off w : Nat) : State :=
  let c := s.cohort ccb
  if c.residency = .absent then s.engineWrite c.pasid (ccb.toNat + off) 8 w else s

/-- Write the mailbox image: the entry at ring index j at 256 x j (R102). -/
def State.saveMailbox (s : State) (ccb : DWord) : State :=
  let c := s.cohort ccb
  c.mailbox.zipIdx.foldl (fun s x =>
    s.engineWrite c.pasid (c.mailboxImage.toNat + 256 * ((c.mailboxHead + x.2) % 16)) 256 (lineNat x.1)) s

/-- Write the scratch image of a cohort (05 R125); a word that is uncorrectable keeps its mark (17 R463). -/
def State.saveScratch (s : State) (ccb : DWord) : State :=
  let c := s.cohort ccb
  let s1 := (List.range ((c.variant.scratch + 7) / 8)).foldl (fun s i =>
    s.engineWrite c.pasid (c.scratchImage.toNat + 8 * i) 8 (Memory.readN c.scratch (8 * i) 8)) s
  if c.flawed = true ∧ c.variant.scratch ≠ 0 then
    (s1.poison c.pasid c.scratchImage.toNat [0]).setCohort ccb { c with flawed := false }
  else s1

/-- Read a cohort back from its image: its switch request and variant mask, barriers, phases, slot map and halt word, its
mailbox and its scratch (R96, R102; 05 R125; 06 R182; 11 R307; 14 R387). -/
def State.loadCohort (s : State) (ccb : DWord) : State :=
  let c := s.cohort ccb
  let image := s.imageBlock c.pasid ccb.toNat 0x300
  let w (o : Nat) : Nat := natBits image (8 * o) 64
  let head := natBits (w 0x038) 8 4
  let scratch := (List.range ((c.variant.scratch + 7) / 8)).foldl (fun (m : Memory) i =>
    Memory.writeN m (8 * i) 8 (s.imageWord c.pasid (c.scratchImage.toNat + 8 * i))) []
  let request : Option SwitchRequest :=
    if natBit (w 0x028) 8 then
      some { target := natBits (w 0x028) 9 2, asked := (c.request.map fun r => r.asked).getD .vreq }
    else none
  let c1 : Cohort := { c with
    vmask := natBits (w 0x028) 0 4, request := request
    barrier := loadBarrier (w 0x040) (w 0x048), spanArrived := natBit (w 0x050) 0
    phases := (List.range 8).foldl (fun (t : Tab Phase) k => Tab.set {} t k (loadPhase (natBits image (8 * (0x060 + 4 * k)) 32))) []
    slots := (List.range 16).foldl (fun (t : Tab Slot) i => Tab.set {} t i (Slot.ofWord (w (0x200 + 8 * i)))) []
    halted := natBit (w 0x0F8) 0, skip := natBit (w 0x0F8) 2, why := natBits (w 0x0F8) 4 4
    mailboxHead := head
    mailbox := (List.range (natBits (w 0x038) 0 5)).map fun i =>
      natLine (s.imageBlock c.pasid (c.mailboxImage.toNat + 256 * ((head + i) % 16)) 256)
    scratch := scratch }
  s.setCohort ccb { c1 with shown := s.barrierWords c1 }

/-- Descriptor state of a drain stream in the matrix area (11 R319): valid, conversion, next entry, descriptor. -/
def Drain.word (d : Drain) : Nat :=
  2 ^ 63 + d.conv * 2 ^ 56 + d.popped * 2 ^ 48 + d.interleave.toNat * 2 ^ 26 + d.clear.toNat * 2 ^ 25
    + d.saturate.toNat * 2 ^ 24 + (d.cols - 1) * 2 ^ 16 + d.col * 2 ^ 8 + d.idx

/-- The stream states of a strand as the matrix area holds them: four descriptors of each stream. -/
def Strand.streamWords (st : Strand) : List Nat :=
  (List.range 16).map fun i => match (Tab.get [] st.drains (i / 4))[i % 4]? with
    | some d => d.word
    | none => 0

/-- The matrix area follows the streams of a strand (R319, Table 11-5). -/
def State.saveDrains (s : State) (k : Nat) : State :=
  let st := s.strand k
  let c := s.cohort st.ccb
  if !c.matrix || st.streamWords == st.streams then s
  else
    (s.writeWords c.pasid (c.ccb.toNat + 0x23000 + 128 * st.sidx)
      (st.streamWords.zipIdx.map fun x => (8 * x.2, x.1))).setStrand k { st with streams := st.streamWords }

/-- A descriptor state as it is read back (11 R319). -/
def Drain.ofWord (w : Nat) : Drain :=
  { conv := natBits w 56 2, prepared := natBits w 48 8, popped := natBits w 48 8, interleave := natBit w 26
    clear := natBit w 25, saturate := natBit w 24, cols := natBits w 16 7 + 1, col := natBits w 8 7, idx := natBits w 0 4 }

/-- Read the stream states of a strand back from the matrix area (11 R319). -/
def State.loadDrains (s : State) (k : Nat) : State :=
  let st := s.strand k
  let c := s.cohort st.ccb
  if c.matrix then
    let at_ (i : Nat) : Nat := s.imageWord c.pasid (c.ccb.toNat + 0x23000 + 128 * st.sidx + 8 * i)
    s.setStrand k { st with
      readyq := [], streams := (List.range 16).map at_
      drains := (List.range 4).foldl (fun (t : Tab (List Drain)) q => Tab.set [] t q
        (((List.range 4).map fun d => at_ (4 * q + d)).filterMap fun w =>
          if natBit w 63 then some (Drain.ofWord w) else none)) [] }
  else s

/-! ### The span image (Table 4-11) -/

/-- The words of a span image. -/
def State.spanWords (s : State) (sp : Span) : List (Nat × Nat) :=
  let bits (l : List Nat) : Nat := l.foldl (fun acc p => acc + 2 ^ p) 0
  let here := sp.ccbs.zipIdx.all fun x => sp.completed.contains x.2 || s.resident x.1
  let out := sp.heldOut || sp.ccbs.zipIdx.any fun x => !sp.completed.contains x.2 && (s.cohort x.1).halted
  let core (x : DWord × Nat) : Nat := if sp.completed.contains x.2 then Tab.get 0 sp.cores x.2 else (s.cohort x.1).core
  [(0x000, (sp.size - 1) + here.toNat * 256 + out.toNat * 512),
   (0x008, bits sp.arrived + 2 ^ 16 * bits sp.completed),
   (0x010, match sp.pending with | some a => a.toNat + 2 ^ 48 | none => 0)]
  ++ sp.ccbs.zipIdx.flatMap fun x => [(0x080 + 8 * x.2, x.1.toNat), (0x100 + 8 * x.2, core x + 256)]

/-- Write the span image, when its words have changed. -/
def State.saveSpan (s : State) (id : Nat) : State :=
  let sp := Tab.get {} s.spans id
  let w := s.spanWords sp
  if sp.size ≤ 1 ∨ w = sp.shown then s
  else
    let s1 := s.writeBlock sp.pasid sp.image.toNat 0x1000 w
    { s1 with spans := Tab.put s1.spans id { sp with shown := w } }

/-! ### Errors of images (R94; 17 R463) -/

/-- The ranges of virtual addresses that hold the images of a cohort and its strands. -/
def Cohort.imageRanges (c : Cohort) : List (Nat × Nat) :=
  (c.cibs.zipIdx.filterMap fun x => x.1.map fun a => (a.toNat, 0x1000 + 256 * c.maxLines x.2))
    ++ [(c.ccb.toNat, 0x1000), (c.mailboxImage.toNat, if c.mailboxImage = 0 then 0 else 4096),
        (c.scratchImage.toNat, if c.scratchImage = 0 then 0 else c.variant.scratch)]

/-- Whether a range of a context is free of unlocked frames and of uncorrectable errors. -/
def State.rangeFaults (s : State) (pasid base size : Nat) : Bool × Bool :=
  (List.range (size / 2 ^ 17 + 2)).foldl (fun (acc : Bool × Bool) i =>
    let va := (base / 2 ^ 17 + i) * 2 ^ 17
    let lo := max va base
    let hi := min (va + 2 ^ 17) (base + size)
    if hi ≤ lo then acc
    else
      match s.engineAddr pasid lo with
      | some p => (acc.1 || !p.locked, acc.2 || s.errorAt p.loc p.addr (hi - lo))
      | none => (true, acc.2)) (false, false)

/-- Whether some image of a cohort lies in an unlocked frame, and whether one holds an uncorrectable error. -/
def State.imageFaults (s : State) (c : Cohort) : Bool × Bool :=
  let own := s.rangeFaults c.pasid c.ccb.toNat c.imageBytes
  c.cibs.zipIdx.foldl (fun (acc : Bool × Bool) x =>
    match x.1 with
    | some a =>
      let r := s.rangeFaults c.pasid a.toNat (0x1000 + c.maxLines x.2 * 0x100)
      (acc.1 || r.1, acc.2 || r.2)
    | none => acc) own

/-- The machine check that a move of a cohort meets in its images: sub-cause 1 where a page is not a locked frame, 3 where
what is read back carries an uncorrectable error. -/
def State.moveFault (s : State) (ccb : DWord) (reads : Bool) : Option Nat :=
  let c := s.cohort ccb
  let fs := c.imageRanges.map fun r => s.rangeFaults c.pasid r.1 r.2
  if fs.any fun f => f.1 then some 1
  else if reads && fs.any fun f => f.2 then some 3
  else none

end Sys2Proof.Machine
end

