-- ==== Sys2Proof/Machine/Operands.lean ====
section
/-! DEFINITION. Operand codes, what each position accepts, the values sources read, what a destination does, and
the checks and waits before an instruction executes (03 R49 to R55, R59; 04 R98, R99, R102; 06 R162; 08 R226, R227). -/

namespace Sys2Proof.Machine

/-- What a 7-bit field is, in the instruction that carries it. -/
inductive Role where
  | vsrc     -- vector-class source of 32 bits
  | vsrc64   -- vector-class source of 64 bits (02 R28)
  | useg     -- vector-class uniform source: s0-s15 or a special only (08 R237)
  | uany     -- vector-class uniform source of any code (03 R51)
  | ssrc     -- scalar-class source
  | vdst     -- vector register or queue register
  | vreg     -- vector register only
  | vdst64   -- pair of vector registers
  | vred     -- vector register, queue register or s0-s15 (08 R239)
  | vbal     -- s0-s15 or a pair (08 R241)
  | vquad    -- v0 to v92 and the three lines after it (07 R198)
  | vquadsrc -- the same as a source
  | vpairsrc -- pair of vector registers as a source (07 R206)
  | voct     -- eight lines from a vector register that is a multiple of 8 (07 R216)
  | sseg     -- s0-s15 of the vector-class table as source (07 R219, 10 R284)
  | ssegev   -- the same with an even number (10 Table 10-1)
  | vlines (n : Nat) (src : Bool)  -- n lines from a vector register on (10 R282)
  | vfrag    -- first vector register of a fragment share, which names its lines itself (11 R304)
  | dstream  -- q0 to q3 as the stream of a descriptor (11 R318)
  | seg      -- s0-s15 of the vector-class table as destination (08 R237)
  | sloop    -- s0-s15 of the vector-class table, read and written (06 R168)
  | sdst     -- scalar-class destination
  | sreg     -- s0-s63 only
  deriving DecidableEq, Repr

/-- One operand field of an instruction: its code, its role and its trap-if-empty bit. -/
structure Use where
  role : Role
  code : Code
  trap : Bool := false
  deriving DecidableEq, Repr

/-- Whether the role reads its operand. -/
def Role.source : Role → Bool
  | .vsrc | .vsrc64 | .useg | .uany | .ssrc | .vquadsrc | .vpairsrc | .voct | .sseg | .ssegev | .vfrag => true
  | .vlines _ src => src
  | .dstream | .vdst | .vreg | .vdst64 | .vred | .vbal | .vquad | .seg | .sloop | .sdst | .sreg => false

/-- Whether the role decodes its field by the scalar-class table (03 Table 3-4). -/
def Role.scalarClass : Role → Bool
  | .ssrc | .sdst | .sreg => true
  | _ => false

def isVreg (c : Nat) : Bool := decide (c < 0x60)
def isSeg (c : Nat) : Bool := decide (0x60 ≤ c) && decide (c < 0x70)
def isQueue (c : Nat) : Bool := decide (0x70 ≤ c) && decide (c < 0x76)
def isSpecial (c : Nat) : Bool := decide (0x78 ≤ c) && decide (c < 0x7F)

/-- The codes a position accepts; any other raises 0x02 (03 R50 to R53, 02 R28). -/
def Use.accepted (u : Use) : Bool :=
  let c := u.code.toNat
  match u.role with
  | .vsrc => isVreg c || isSeg c || isQueue c || isSpecial c
  | .vsrc64 => (isVreg c && c % 2 == 0) || isSeg c || isSpecial c
  | .useg => isSeg c || isSpecial c
  | .uany => isVreg c || isSeg c || isQueue c || isSpecial c
  | .ssrc => decide (c < 64) || isQueue c || isSpecial c
  | .vdst => isVreg c || isQueue c
  | .vreg | .vfrag | .vlines _ _ => isVreg c
  | .vdst64 | .vpairsrc => isVreg c && c % 2 == 0
  | .vred => isVreg c || isQueue c || isSeg c
  | .vbal => isSeg c || (isVreg c && c % 2 == 0)
  | .vquad | .vquadsrc => isVreg c && c % 4 == 0
  | .voct => isVreg c && c % 8 == 0
  | .seg | .sloop | .sseg => isSeg c
  | .ssegev => isSeg c && c % 2 == 0
  | .dstream => decide (0x70 ≤ c ∧ c ≤ 0x73)
  | .sdst => decide (c < 64) || isQueue c
  | .sreg => decide (c < 64)

/-- How many lines a vector register of the role stands for. -/
def Role.width : Role → Nat
  | .vsrc64 | .vdst64 | .vbal | .vpairsrc => 2
  | .vquad | .vquadsrc => 4
  | .voct => 8
  | .vlines n _ => n
  | .vfrag => 0
  | _ => 1

/-- The lines the field names, counted from line 0 of the image (04 R98). -/
def Use.lines (u : Use) (wb : Nat) : List Nat :=
  if !u.role.scalarClass && isVreg u.code.toNat then
    (List.range u.role.width).map fun k => wb + u.code.toNat + k
  else []

/-- The scalar the field names. -/
def Use.scalar? (u : Use) : Option Nat :=
  let c := u.code.toNat
  if u.role.scalarClass then (if c < 64 then some c else none)
  else if isSeg c then some (c - 0x60) else none

/-- The queue register the field pops or pushes. -/
def Use.queue? (u : Use) : Option Nat :=
  if isQueue u.code.toNat && decide (u.role ≠ .dstream) then some (u.code.toNat - 0x70) else none

/-! ### Queue registers (01 R10, 04 R102) -/

/-- The value of a 64-bit entry as lanes 0 and 1 (03 R52). -/
def pairLine (v : DWord) : Line :=
  [BitVec.ofNat 32 v.toNat, BitVec.ofNat 32 (v.toNat / 2 ^ 32)] ++ List.replicate 62 0

/-- Lanes 1 and 0 of an entry as one 64-bit value (03 R52). -/
def linePair (x : Line) : DWord := BitVec.ofNat 64 ((laneOf x 0).toNat + (laneOf x 1).toNat * 2 ^ 32)

/-- What the next pop of a queue register finds: an entry, nothing yet, or a cause with its TADDR
(04 Table 4-12). -/
inductive Peek where
  | entry (x : Line)
  | empty
  | bad (c : Cause) (taddr : DWord)
  deriving DecidableEq, Repr

/-- The next pop of a queue register by a strand: the event queue in a supervisor (13 R349), a drain stream
(11 R319), the mailbox of the cohort, or the reply queue. -/
def State.peek (s : State) (st : Strand) (q : Nat) : Peek :=
  let pc := pcWord (candidate st).pc
  if st.sup then
    if q = 5 then
      match (s.core st.core).evq with
      | [] => .empty
      | e :: _ => .entry e.words
    else .bad .queueMisuse pc
  else if q = 4 then
    match (s.cohort st.ccb).mailbox with
    | [] => .empty
    | x :: _ => .entry x
  else if q = 5 then
    match st.replies with
    | [] => .empty
    | v :: _ => .entry (pairLine v)
  else
    match Tab.get [] st.readyq q, Tab.get [] st.drains q with
    | some x :: _, _ => .entry x
    | none :: _, _ => .bad .uncorrectable pc
    | [], d :: _ =>
      let sl := Tab.get {} (s.cohort st.ccb).slots d.idx
      if sl.saved && !sl.resident then .bad .accOwnerMiss (st.ccb ||| BitVec.ofNat 64 d.idx) else .empty
    | [], [] => .empty

/-- Whether a strand may pop a queue register: q5 alone in the supervisor (13 R349). -/
def Strand.popsQueue (st : Strand) (q : Nat) : Bool := !st.sup || q == 5
/-- Whether a strand may push a queue register: q4 of a user strand alone (04 Table 4-12, 13 R349). -/
def Strand.pushes (st : Strand) (q : Nat) : Bool := !st.sup && q == 4

/-- The columns that entry n of a drain descriptor is built from (11 R319). -/
def Drain.columns (d : Drain) (n : Nat) : List Nat :=
  let w := if d.conv = 1 ∨ d.conv = 2 then 2 else 1
  let h := if d.interleave then n % 2 else 0
  let u := if d.interleave then n / 2 else n
  let c := d.col + 64 * h + u * w
  if w = 2 then [c, c + 1] else [c]

/-- How many entries a drain descriptor yields (11 R319). -/
def Drain.entries (d : Drain) : Nat :=
  d.cols * (if d.interleave then 2 else 1) / (if d.conv = 1 ∨ d.conv = 2 then 2 else 1)

/-- Clear the elements of the given columns of a physical slot (11 Table 11-6, CLR). -/
def Core.clearColumns (k : Core) (phys : Nat) (cols : List Nat) : Core :=
  { k with accs := k.accs.filter fun x =>
      !(x.1 / 8192 == phys && cols.contains (x.1 % 128)) }

/-- Take one entry of a drain stream: its elements are cleared under CLR, and a descriptor whose last entry has
been popped leaves the stream (11 R319). -/
def State.popDrain (s : State) (k : Nat) (q : Nat) : State :=
  let st := s.strand k
  match Tab.get [] st.drains q with
  | [] => s
  | d :: t =>
    let sl := Tab.get {} (s.cohort st.ccb).slots d.idx
    let d1 := { d with popped := d.popped + 1 }
    let rest := if d1.popped ≥ d1.entries then t else d1 :: t
    let s1 := s.setStrand k { st with
      drains := Tab.set [] st.drains q rest,
      readyq := Tab.set [] st.readyq q (Tab.get [] st.readyq q).tail }
    if d.clear && sl.resident then
      s1.setCore sl.core ((s1.core sl.core).clearColumns sl.phys (d.columns d.popped))
    else s1

/-- Pop one entry of a queue register of a strand (04 R102). A pop of the event queue is an acquire at .dv, which
leaves only the private lines in the L1 of the core (13 R352). -/
def State.popQueue (s : State) (k : Nat) (q : Nat) : State :=
  let st := s.strand k
  if st.sup then
    let c := s.core st.core
    s.setCore st.core { c with evq := c.evq.tail, l1 := c.l1.filter fun x => x.2.priv }
  else if q = 4 then
    let c := s.cohort st.ccb
    s.setCohort st.ccb { c with mailbox := c.mailbox.tail, mailboxHead := (c.mailboxHead + 1) % 16, mailAt := s.now }
  else if q = 5 then s.setStrand k { st with replies := st.replies.tail }
  else s.popDrain k q

/-- Push one entry to the mailbox of the strand's cohort (04 R102). -/
def State.pushQueue (s : State) (k : Nat) (x : Line) : State :=
  let c := s.cohort (s.strand k).ccb
  s.setCohort (s.strand k).ccb { c with mailbox := c.mailbox ++ [x], mailAt := s.now }

/-- The entries of a mailbox with those that instructions which have issued are still to push: each has its place from
its issue on, so that no later push finds the mailbox full (R10; 09 R246). -/
def State.mailboxLoad (s : State) (c : Cohort) : Nat :=
  c.mailbox.length + (c.keys.map fun k =>
    ((s.strand k).floats.filter fun f => f.push.isSome).length + ((s.strand k).producers.filter fun p => p.push.isSome).length).sum

/-- The queue registers the sources of an instruction name, each once (R10). -/
def sourceQueues (us : List Use) : List Nat :=
  (us.filter fun u => u.role.source).foldl (fun acc u =>
    match u.queue? with
    | some q => if acc.contains q then acc else acc ++ [q]
    | none => acc) []

/-- The queue registers the destinations name. -/
def destQueues (us : List Use) : List Nat :=
  (us.filter fun u => !u.role.source).filterMap fun u => u.queue?

/-- Pop every queue register that a source names, once each (R10). -/
def State.popSources (s : State) (us : List Use) : State :=
  (sourceQueues us).foldl (fun s q => s.popQueue s.curKey q) s

/-! ### Values of sources (03 Tables 3-3 and 3-4) -/

/-- The lane number a strand's lane L reads: L mod 32 in shadow mode (R51). -/
def Strand.laneNumber (st : Strand) (l : Nat) : Nat := if st.shadow then l % 32 else l
/-- The threads of a strand: 64, or 32 in shadow mode (R115). -/
def Strand.threads (st : Strand) : Nat := if st.shadow then 32 else 64

/-- The value of a special in lane L as 32 bits (Table 3-3). -/
def Strand.specialLane (st : Strand) (c l : Nat) : Nat :=
  if c = 0x79 then st.laneNumber l
  else if c = 0x7A then st.sidx
  else if c = 0x7B then st.sidx * st.threads + st.laneNumber l
  else if c = 0x7C then 1
  else if c = 0x7D then 0x3F800000
  else if c = 0x7E then 0xFFFFFFFF
  else 0

/-- The value of a special as a scalar-class source (Table 3-4). -/
def Strand.specialScalar (st : Strand) (c : Nat) : DWord :=
  if c = 0x7A then BitVec.ofNat 64 st.sidx
  else if c = 0x7B then BitVec.ofNat 64 (st.sidx * st.threads)
  else if c = 0x7C then 1
  else if c = 0x7D then 0x3F800000
  else if c = 0x7E then BitVec.allOnes 64
  else 0

/-- The 32-bit values a vector-class source gives to the lanes (Table 3-3). -/
def State.vsrc (s : State) (c : Code) : Line :=
  let st := s.cur
  let n := c.toNat
  if n < 0x60 then st.line (st.wb + n)
  else if n < 0x70 then List.replicate 64 (BitVec.ofNat 32 (st.scalar (n - 0x60)).toNat)
  else if n < 0x76 then
    match s.peek st (n - 0x70) with
    | .entry x => x
    | .empty => zeroLine
    | .bad _ _ => zeroLine
  else (List.range 64).map fun l => BitVec.ofNat 32 (st.specialLane n l)

/-- The 64-bit values a vector-class source gives to the lanes (02 R28). -/
def State.vsrc64 (s : State) (c : Code) : List DWord :=
  let st := s.cur
  let n := c.toNat
  if n < 0x60 then
    List.zipWith (fun (lo hi : Word) => BitVec.ofNat 64 (lo.toNat + hi.toNat * 2 ^ 32))
      (st.line (st.wb + n)) (st.line (st.wb + n + 1))
  else if n < 0x70 then List.replicate 64 (st.scalar (n - 0x60))
  else if n = 0x7E then List.replicate 64 (BitVec.allOnes 64)
  else (List.range 64).map fun l => BitVec.ofNat 64 (st.specialLane n l)

/-- The value of a scalar-class source (Table 3-4). -/
def State.ssrc (s : State) (c : Code) : DWord :=
  let st := s.cur
  let n := c.toNat
  if n < 0x40 then st.scalar n
  else if n < 0x76 then
    match s.peek st (n - 0x70) with
    | .entry x => linePair x
    | .empty => 0
    | .bad _ _ => 0
  else st.specialScalar n

/-- The 64-bit value of a vector-class field in a uniform position (03 R51): a scalar, a special by the scalar
table; lane 0 of a vector register pair's first line or of a queue entry otherwise. -/
def State.usrc (s : State) (c : Code) : DWord :=
  let st := s.cur
  let n := c.toNat
  if n < 0x60 then BitVec.ofNat 64 (laneOf (st.line (st.wb + n)) 0).toNat
  else if n < 0x70 then st.scalar (n - 0x60)
  else if n < 0x76 then
    match s.peek st (n - 0x70) with
    | .entry x => linePair x
    | .empty => 0
    | .bad _ _ => 0
  else st.specialScalar n

/-! ### Checks and waits before an instruction executes -/

/-- Hand a strand of the state to a function. -/
def State.onCur (s : State) (f : Strand → Strand) : State := s.setCur (f s.cur)

/-- Why an instruction does not execute: a stall reason, or one cause for all its lanes. -/
inductive Halt where
  | wait (reason : Nat)
  | trap (c : Cause) (taddr : DWord)
  deriving DecidableEq, Repr

/-- Whether a source is empty (R49): a declared line, a scalar or a queue; bits of other lines read 1 (04 R93). -/
def State.useEmpty (s : State) (st : Strand) (u : Use) : Bool :=
  (u.lines st.wb).any (fun n => decide (n < st.nlines) && !st.vFull.getLsbD n)
  || (match u.scalar? with | some m => !st.sFull.getLsbD m | none => false)
  || (match u.queue? with | some q => u.role.source && decide (s.peek st q = .empty) | none => false)

/-- Whether a queue register is used in a way its engine refuses (R10). -/
def Strand.misuses (st : Strand) (u : Use) : Bool :=
  match u.queue? with
  | none => false
  | some q => if u.role.source then !st.popsQueue q else !st.pushes q

/-- The lines of an instruction's fields. -/
def usedLines (us : List Use) (wb : Nat) : List Nat := us.flatMap fun u => u.lines wb

/-- The cause that the operand fields raise before any operand is read, lowest code first (R59, R49, R10). -/
def State.operandCause (s : State) (us : List Use) (bad priv : Bool) : Option Halt :=
  let st := s.cur
  let pc := pcWord (candidate st).pc
  if bad then some (.trap .illegalOpcode pc)
  else if us.any (fun u => !u.accepted) then some (.trap .illegalOperand pc)
  else if priv && !st.priv then some (.trap .privileged pc)
  else if us.any (fun u => u.trap && u.role.source && !st.misuses u && s.useEmpty st u) then
    some (.trap .registerEmpty pc)
  else if (usedLines us st.wb).any (fun n => decide (st.nlines ≤ n)) then some (.trap .windowOverflow pc)
  else
    match (sourceQueues us).filterMap (fun q => match s.peek st q with
        | .bad c t => some (c, t) | .entry _ => none | .empty => none) with
    | (c, t) :: _ => if us.any (fun u => st.misuses u) && c.code > 0x24 then some (.trap .queueMisuse pc)
                     else some (.trap c t)
    | [] => if us.any (fun u => st.misuses u) then some (.trap .queueMisuse pc) else none

/-- Whether an outstanding float result bears on a line or on a push (09 R250). -/
def Strand.floatBusy (st : Strand) (lines : List Nat) (push : Bool) : Bool :=
  st.floats.any fun f => f.lines.any (fun x => lines.contains x.1) || (push && f.push.isSome)

/-- Whether a result that travels across lanes has still to arrive in one of the lines (06 R153; 08 R229). -/
def Strand.lateIn (st : Strand) (now : Nat) (lines : List Nat) : Bool :=
  lines.any fun n => decide (now < Tab.get 0 st.late n)

/-- The lines of a strand that its arrivals at a rendezvous have named and the matrix engine has not read (11 R303). -/
def State.busyLines (s : State) (st : Strand) : List Nat :=
  (s.core st.core).latch.flatMap fun g => (g.arrivals.filter fun a => a.key == st.key && st.holdsGang a.pc).flatMap fun a =>
    a.aLines ++ a.bLines ++ a.scales

/-- Whether an instruction writes a line that the matrix engine has still to read (11 R303). -/
def State.matrixBusy (s : State) (st : Strand) (us : List Use) : Bool :=
  (usedLines (us.filter fun u => !u.role.source) st.wb).any fun n => (s.busyLines st).contains n

/-- The stall reason that holds an instruction back, the lowest that applies (06 R162); `replay` when the clone
replay queue holds it (17 R456, R457). -/
def State.operandWait (s : State) (us : List Use) (extra : List Nat) (replay : Bool) : Option Halt :=
  let st := s.cur
  let ls := usedLines us st.wb ++ extra
  let pops := sourceQueues us
  if ls.any (fun n => st.absent.getLsbD n) then some (.wait 7)
  else if ls.any (fun n => !st.vFull.getLsbD n)
      || us.any (fun u => match u.scalar? with | some m => !st.sFull.getLsbD m | none => false) then some (.wait 8)
  else if pops.any (fun q => decide (s.peek st q = .empty))
      || (destQueues us).any (fun q => decide (16 ≤ s.mailboxLoad (s.cohort st.ccb)) && !pops.contains q) then
    some (.wait 9)
  else if replay then some (.wait 11)
  else if st.floatBusy ls (!(destQueues us).isEmpty) || s.matrixBusy st us || st.lateIn s.now ls then some (.wait 12)
  else none

/-- What keeps an instruction from executing: a cause first, then a wait. -/
def State.halted (s : State) (us : List Use) (extra : List Nat) (bad priv replay : Bool) : Option Halt :=
  match s.operandCause us bad priv with
  | some h => some h
  | none => s.operandWait us extra replay

/-- The state in which an instruction that does not execute leaves the strand. -/
def State.halt (s : State) : Halt → State
  | .wait r => s.stallWith r
  | .trap c t => s.raiseAllAt c t

/-- The lanes of the issuing entry in which an instruction's sources are uncorrectable (17 R463); in shadow mode both lanes of
a pair (17 R460). -/
def State.flawedLanes (s : State) (us : List Use) : Mask :=
  let st := s.cur
  let low := (st.flawed ||| st.flawed >>> 32) &&& 0xFFFFFFFF
  if us.any fun u => u.role.source then (candidate st).mask &&& (if st.shadow then low ||| low <<< 32 else st.flawed)
  else 0

/-- Take lanes out of the candidate entry. -/
def cutCandidate (m : Mask) : List Entry → List Entry
  | [] => []
  | e :: t => if e.hold = .no then { e with mask := e.mask &&& ~~~ m } :: t else e :: cutCandidate m t

/-- An instruction reads uncorrectable values in the lanes of m: those raise 0x29 and restart at it, and the other lanes
execute (17 Table 17-7); the causes of both are taken in one order (13 R347). A supervisor strand stops on a machine check
instead (13 R366). -/
def State.readFlawed (s : State) (m : Mask) (k : State → State) : State :=
  let st := s.cur
  let e := candidate st
  let s0 := s.onCur fun st => { st with flawed := 0 }
  if st.sup then
    (s0.countCheck st.core 2).stopSupervisor st.core { cause := .uncorrectable, tmask := m, pc := pcWord e.pc }
  else if m = e.mask then s0.raiseAll .uncorrectable
  else
    let r : Raise := { cause := .uncorrectable, mask := m, taddr := pcWord e.pc }
    let s1 := k (s0.onCur fun st => { st with frontier := cutCandidate m st.frontier, also := [r] })
    if s1.cur.also = [] then s1
    else ((s1.onCur fun st => { st with also := [] }).takeCause s.curKey e r).afterFrontier s.curKey

/-- Run an instruction: nothing but its cause or its wait if it is held back, else its effect. -/
def runWith (s : State) (us : List Use) (extra : List Nat) (bad priv replay : Bool) (k : State → State) :
    Host.Outcome State Fault Refusal :=
  match s.halted us extra bad priv replay with
  | some h => .next (s.halt h)
  | none => .next (if s.flawedLanes us = 0 then k s else s.readFlawed (s.flawedLanes us) k)

/-- Run an instruction that the clone replay queue never holds. -/
def run (s : State) (us : List Use) (extra : List Nat) (bad priv : Bool) (k : State → State) :
    Host.Outcome State Fault Refusal :=
  runWith s us extra bad priv false k

/-! ### Clone mode and compare points (17 R455 to R460) -/

/-- DEG of the bench of a strand (17 Table 17-1). -/
def State.degraded (s : State) (st : Strand) : Bool :=
  (Tab.get (0x7F : DWord) (s.core st.core).lmap st.bench).getLsbD 63

/-- The replay queue of the bench of a strand. -/
def State.replayQueue (s : State) (st : Strand) : List Replay := Tab.get [] (s.core st.core).replays st.bench

/-- Whether an instruction of a clone-mode strand has too few idle lanes for its clones (R455). -/
def State.queuesReplay (s : State) (st : Strand) (m : Mask) : Bool :=
  st.chk == 1 && (if s.degraded st then
      decide (32 < 2 * laneCount (m &&& 0xFFFFFFFF)) || decide (32 < 2 * laneCount (m >>> 32))
    else decide (64 < 2 * laneCount m))

/-- Whether the replay queue of the bench has no room for an instruction of so many cycles (R456). -/
def State.replayFull (s : State) (st : Strand) (cycles : Nat) : Bool :=
  let q := s.replayQueue st
  decide (16 ≤ q.length) || decide (24 < (q.map fun r => r.cycles).sum + cycles)

/-- The elements of lines, one after the other. -/
def lineValues (l : List Line) : List Nat := l.flatMap fun x => x.map BitVec.toNat

/-- What the fields of an instruction hold when it issues: lines, scalars and the next entries of queues (R456). -/
def State.captured (s : State) (us : List Use) : List Nat :=
  let st := s.cur
  lineValues ((usedLines us st.wb).map st.line) ++ (us.filterMap fun u => u.scalar?.map fun m => (st.scalar m).toNat)
    ++ (sourceQueues us).flatMap fun q =>
      match s.peek st q with
      | .entry x => lineValues [x]
      | .empty => []
      | .bad _ _ => []

/-- The results and flags that an instruction has written, or has outstanding, since the state `old` (R456). -/
def State.written (s old : State) (us : List Use) : List Nat :=
  let st := s.cur
  lineValues ((usedLines (us.filter fun u => !u.role.source) st.wb).map st.line)
    ++ ((st.floats.drop old.cur.floats.length).flatMap fun f =>
      lineValues (f.lines.map fun x => x.2.2) ++ f.flags.map BitVec.toNat)
    ++ (st.producers.drop old.cur.producers.length).flatMap fun p =>
      lineValues (p.lines.map fun x => x.2.2) ++ p.scalars.map fun x => x.2.toNat

/-- Put the instruction that has issued in the state `old` into the replay queue of its bench, with its sources and the digest
of what it wrote (R455, R456). Its word is entered where it was fetched. -/
def State.pushReplay (s old : State) (us : List Use) (cycles : Nat) : State :=
  let st := old.cur
  let k := s.core st.core
  s.setCore st.core { k with
    replays := Tab.put k.replays st.bench (s.replayQueue st ++ [{
      key := st.key, pc := (candidate st).pc, cycles := cycles, sources := old.captured us
      digest := Config.digest (s.written old us) }]) }

/-- One cause of a compare point for the lanes given; TADDR is the address of the compared instruction (R458). -/
def mismatch (m : Mask) (pc : Pc) : Raise := { cause := .checkMismatch, mask := m, taddr := pcWord pc }

/-- An entry that an instruction has pushed to the mailbox holds zero in the lanes given; `old` is the state before the
instruction (R458; 08 R227). -/
def State.cutPush (s old : State) (bad : Mask) : State :=
  let c0 := old.cohort old.cur.ccb
  let c := s.cohort old.cur.ccb
  let popped := (c.mailboxHead + 16 - c0.mailboxHead) % 16
  if c0.mailbox.length < c.mailbox.length + popped then
    s.setCohort old.cur.ccb { c with
      mailbox := c.mailbox.dropLast ++ (c.mailbox.getLast?.map fun x => mergeLine x bad fun _ => 0).toList }
  else s

/-- The lanes of a clone mismatch write nothing and raise 0x28; the others have written, and a lane that has raised another
cause keeps it (R458). Where every lane mismatches the instruction does nothing else. `old` is the state before the
instruction. -/
def State.cloneFail (s old : State) (m : Mask) : State :=
  let st0 := old.cur
  let st1 := s.cur
  let e := candidate st0
  let bad := m &&& e.mask
  let keys := distinct ((st0.vec ++ st1.vec).map fun x => x.1)
  let vec := keys.foldl (fun (t : Tab Line) n => Tab.set zeroLine t n (mergeLine (st1.line n) bad (laneOf (st0.line n)))) st1.vec
  let cut (l : List (Nat × Mask × Line)) := l.map fun x => (x.1, x.2.1 &&& ~~~ bad, x.2.2)
  let stays (x : Entry) : Bool := x.parked || x.pending
  let gone := (st1.frontier.filter fun x => !stays x).foldl (fun (g : Mask) x => g ||| (x.mask &&& bad)) 0
  let left := (st1.frontier.map fun x => if stays x then x else { x with mask := x.mask &&& ~~~ bad }).filter fun x => decide (x.mask ≠ 0)
  let without (p : Nat × Line) : Nat × Line := (p.1, mergeLine p.2 bad fun _ => 0)
  let st2 := { st1.setFrontier left with
    vec := vec, cloneLanes := 0,
    producers := st1.producers.zipIdx.map fun p => if p.2 < st0.producers.length then p.1 else { p.1 with
      lines := cut p.1.lines, push := p.1.push.map without },
    floats := st1.floats.zipIdx.map fun f => if f.2 < st0.floats.length then f.1 else { f.1 with
      push := f.1.push.map without, lines := cut f.1.lines, mask := f.1.mask &&& ~~~ bad,
      flags := f.1.flags.zipIdx.map fun x => if bad.getLsbD x.2 then 0 else x.1 } }
  if gone = 0 then s.setCur { st1 with cloneLanes := 0 }
  else if gone = e.mask then
    ((old.countCheck st0.core 6).onCur fun st => { st with cloneLanes := 0 }).settle [] [mismatch gone e.pc]
  else (((((s.cutPush old bad).setCur st2).countCheck st1.core 6).takeCause s.curKey e (mismatch gone e.pc))).afterFrontier s.curKey

/-- Run an instruction of a vector engine that occupies its port for so many cycles (R455, R456). -/
def runVec (s : State) (cycles : Nat) (us : List Use) (extra : List Nat) (bad priv : Bool) (k : State → State) :
    Host.Outcome State Fault Refusal :=
  let st := s.cur
  let e := candidate st
  let c := if s.degraded st then 2 * cycles else cycles
  if s.queuesReplay st e.mask then
    runWith s us extra bad priv (s.replayFull st c) fun s => (k s).pushReplay s us c
  else if st.chk = 1 ∧ st.cloneLanes ≠ 0 then run s us extra bad priv fun s => (k s).cloneFail s st.cloneLanes
  else run s us extra bad priv k

/-- Run a compare point: it waits for the replays of its strand and raises the mismatch of one (R457, R458); in
shadow mode flags that differ are a mismatch of every lane, tested here if `flags` (R459, R460). -/
def runPointWith (flags : Bool) (s : State) (us : List Use) (extra : List Nat) (bad priv : Bool) (k : State → State) :
    Host.Outcome State Fault Refusal :=
  let st := s.cur
  runWith s us extra bad priv ((s.replayQueue st).any fun r => r.key == st.key) fun s =>
    match s.cur.cloneBad with
    | some pc => (s.onCur fun st => { st with cloneBad := none }).settle [] [mismatch (candidate s.cur).mask pc]
    | none =>
      if flags && s.cur.shadow && s.cur.fl != s.cur.shadowFl then
        (s.countCheck s.cur.core 7).settle [] [mismatch (candidate s.cur).mask (candidate s.cur).pc]
      else k s

/-- A compare point that compares nothing but the flags. -/
def runPoint (s : State) (us : List Use) (extra : List Nat) (bad priv : Bool) (k : State → State) :
    Host.Outcome State Fault Refusal :=
  runPointWith true s us extra bad priv k

/-- A compare point that compares the halves of its lanes as well, by `State.shadowDiff`. -/
def runCompare (s : State) (us : List Use) (extra : List Nat) (bad priv : Bool) (k : State → State) :
    Host.Outcome State Fault Refusal :=
  runPointWith false s us extra bad priv k

/-- The lanes of the entry that a shadow compare point finds to differ: both lanes of each pair for which the test fails;
where there is none, all of them if the flags differ (R459, R460). -/
def State.shadowDiff (s : State) (same : Nat → Nat → Bool) : Mask :=
  let st := s.cur
  let pairs := (candidate st).mask &&& maskOf fun l => !same (l % 32) (l % 32 + 32)
  if !st.shadow then 0
  else if pairs ≠ 0 then pairs
  else if st.fl ≠ st.shadowFl then (candidate st).mask
  else 0

/-- A compare point whose result is one for the entry: it goes on if the halves agree (R460). R460 names the lanes of pairs
that differ; where the one result of `vrdlane`, a reduction or `vballot` differs between the halves (08 R242), every lane
of the entry takes the cause: the model's choice (log 92). -/
def State.comparePoint (s : State) (same : Bool) (k : State → State) : State :=
  if (s.shadowDiff fun _ _ => same) = 0 then k s
  else (s.countCheck s.cur.core 7).settle [] [mismatch (candidate s.cur).mask (candidate s.cur).pc]

/-! ### Destinations -/

/-- Write the lanes of the issuing entry to a vector-class destination: a vector register, or one pushed entry
with zero in the other lanes (08 R227). `late` gives the write to PRODUCER_WRITEBACK (04 R99: a pop into a register). -/
def State.writeV (s : State) (d : Code) (late : Bool) (f : Nat → Word) : State :=
  let st := s.cur
  let m := (candidate st).mask
  if d.toNat < 0x60 then
    let n := st.wb + d.toNat
    if late then
      s.setCur { st.emptyLine n with producers := st.producers ++ [{ lines := [(n, m, mergeLine zeroLine m f)] }] }
    else s.setCur (st.writeLanes n m f)
  else s.pushQueue s.curKey (mergeLine zeroLine m f)

/-- A line receives a result that travels across lanes: dependents wait for it until 4 cycles after the issue (08 R229). -/
def Strand.delay (st : Strand) (now n : Nat) : Strand :=
  { st with late := Tab.put (st.late.filter fun x => decide (now < x.2)) n (now + 4) }

/-- As `writeV`, for a result that travels across lanes (08 R229). -/
def State.writeAcross (s : State) (d : Code) (late : Bool) (f : Nat → Word) : State :=
  let s1 := s.writeV d late f
  if d.toNat < 0x60 ∧ late = false then s1.onCur fun st => st.delay s.now (st.wb + d.toNat) else s1

/-- A value for a scalar: written now, or the scalar is emptied until its producer writes (04 R99). -/
def Strand.putScalar (st : Strand) (late : Bool) (m : Nat) (v : DWord) : Strand :=
  let st1 := st.markScalarWrite
  if late then { st1.emptyScalar m with producers := st1.producers ++ [{ scalars := [(m, v)] }] }
  else st1.setScalar m v

/-- Write a scalar-class destination: a scalar, or one pushed entry (03 R52); a scalar write of 06 R178. -/
def State.writeS (s : State) (d : Code) (late : Bool) (v : DWord) : State :=
  if d.toNat < 64 then s.onCur fun st => st.putScalar late d.toNat v
  else (s.onCur Strand.markScalarWrite).pushQueue s.curKey (pairLine v)

/-- Whether an instruction pops a queue into a register, which makes it a long-latency producer (04 R99). -/
def popsInto (us : List Use) : Bool := !(sourceQueues us).isEmpty

/-- Instructions a supervisor strand cannot use raise 0x01 there (13 R349). -/
def State.notSupervisor (s : State) : Bool := s.cur.sup

end Sys2Proof.Machine
end

