-- ==== Sys2Proof/Machine/Access.lean ====
section
/-! DEFINITION. The shared operations of the load-store engine: where an access goes and what it raises, the L1 and
the miss-status entries, stores that may be lost, watchpoints, releases and acquires, monitors
(05 R116 to R151; 07 R193 to R224; 18 R471). -/

namespace Sys2Proof.Machine

/-! ### Checks of one lane (07 R196, Table 7-1) -/

/-- What an access is, beyond its kind: an ordinary one, an atomic (with elements narrower than 32 bits or not), a
wait, cache control, a private access, or an access to the memory under an image by `enq`, `msd` or `msx` (04 R95). -/
inductive Form where
  | plain | atomic (narrow : Bool) | wait | cache | priv | record
  deriving DecidableEq, Repr

/-- Where one lane's access goes; `gone` is an access of a context that is ending (12 R494). -/
inductive Place where
  | scratch (ccb : DWord) (off : Nat)
  | phys (p : Phys)
  | line (key n byte : Nat)
  | gone
  deriving DecidableEq, Repr

/-- The place some bytes further on, in the same page. -/
def Place.shift (p : Place) (d : Nat) : Place :=
  match p with
  | .phys q => .phys { q with addr := q.addr + d }
  | .scratch c o => .scratch c (o + d)
  | .line key l y => .line key l (y + d)
  | .gone => .gone

/-- A place without what its leaf says of it: two leaves that map one address name one element (05 R144). -/
def Place.bare (p : Place) : Place :=
  match p with
  | .phys q => .phys { q with uc := false, locked := false }
  | .scratch c o => .scratch c o
  | .line key l y => .line key l y
  | .gone => .gone

/-- A lane's cause: its address and, where a fault record is to be written, what its walk found. -/
structure LaneFault where
  lane : Nat
  cause : Cause
  va : DWord
  walk : Option Walked := none
  deriving DecidableEq, Repr

/-- The PASID in which a strand's accesses are translated (04 R109, R112). -/
def State.pasidOf (s : State) (st : Strand) : Nat := if st.sup then 0 else (s.cohort st.ccb).pasid

/-- The scratch byte that an aperture access reaches: in the cohort's window or the span's (05 R123, R124). A position whose
cohort has completed has no scratch left, which R124 does not speak of: 0x1A, the model's choice (log 105). -/
def State.scratchPlace (s : State) (ccb : DWord) (va : DWord) (n : Nat) : Option (DWord × Nat) :=
  let c := s.cohort ccb
  let a := va.toNat
  if a < 0x00FFFF8000000000 then
    let off := a - 0x00FFFF0000000000
    if off + n ≤ c.variant.scratch then some (ccb, off) else none
  else
    let pos := (a - 0x00FFFF8000000000) / 0x200000
    let off := (a - 0x00FFFF8000000000) % 0x200000
    let sp := Tab.get {} s.spans c.span
    let owner := if pos = c.pos then some ccb else if pos < sp.size then sp.ccbs[pos]? else none
    match owner with
    | some x => if off + n ≤ (s.cohort x).variant.scratch then some (x, off) else none
    | none => none

/-- The place in a structure of the dispatch engine, or the refusal 0x16 (04 R95 to R97; 06 R175; 11 R308). -/
def State.imagePlace (s : State) (st : Strand) (k : Access) (f : Form) (p : Phys) : Option Place :=
  match s.structAt p with
  | none => some (.phys p)
  | some (.strand key off) =>
    let live := decide (0x1000 ≤ off) && s.resident (s.strand key).ccb && decide (f = .plain)
      && !(s.strand key).absent.getLsbD ((off - 0x1000) / 256)
    let place := if live then Place.line key ((off - 0x1000) / 256) (off % 256) else .phys p
    if st.sup then some place
    else if key ≠ st.key ∨ ¬(f = .plain ∨ f = .cache ∨ f = .record) then none
    else if off < 0x400 ∧ k ≠ .read then none
    else some place
  | some (.cohort _ _) | some (.span _ _) => if st.sup then some (.phys p) else none
  | some (.mailbox _ _) | some (.scratch _ _) => some (.phys p)

/-- Whether a leaf's location or type refuses the form (0x14; 07 R218, 12 R342). R119 gives a memory type to local and host
pages only: a peer leaf with MT = 1 is taken as UC here, the model's choice (log 106). -/
def Form.refuses (f : Form) (p : Phys) : Bool :=
  match f with
  | .atomic narrow => p.uc || decide (p.loc = .mmio) || (narrow && decide (p.loc = .host))
  | .wait => p.uc || decide (p.loc = .mmio)
  | .plain | .cache | .priv | .record => false

/-- One lane's address, checked and translated. -/
def State.checkLane (s : State) (st : Strand) (k : Access) (f : Form) (align n lane : Nat) (va : DWord) :
    State × Except LaneFault Place :=
  let bad (c : Cause) : Except LaneFault Place := .error { lane := lane, cause := c, va := va }
  let rec_ (c : Cause) (w : Walked) : Except LaneFault Place := .error { lane := lane, cause := c, va := va, walk := some w }
  if va.toNat % align ≠ 0 then (s, bad .misaligned)
  else if !canonical va then (s, bad .nonCanonical)
  else if inAperture va then
    match f, s.scratchPlace st.ccb va n with
    | .wait, _ => (s, bad .scratchBound)
    | _, some (c, o) => if st.sup then (s, bad .scratchBound) else (s, .ok (.scratch c o))
    | _, none => (s, bad .scratchBound)
  else
    match s.translate st.core (s.pasidOf st) (!st.sup) k va.toNat with
    | (s1, .dropped) => (s1, .ok .gone)
    | (s1, .fail c w) => (s1, rec_ c w)
    | (s1, .ok p w) =>
      if f.refuses p then (s1, rec_ .atomicUncached w)
      else
        match s1.imagePlace st k f p with
        | some x => (s1, .ok x)
        | none => (s1, bad .contextImage)

/-- The lanes of a list of requests that may be made, and the causes of the others. -/
structure Checked where
  ok : List (Nat × DWord × Place) := []
  bad : List LaneFault := []
  deriving DecidableEq, Repr

/-- Check each request (lane, address) in turn. -/
def State.checkLanes (s : State) (st : Strand) (k : Access) (f : Form) (align n : Nat) (reqs : List (Nat × DWord)) :
    State × Checked :=
  reqs.foldl (fun (acc : State × Checked) r =>
    match acc.1.checkLane st k f align n r.1 r.2 with
    | (s1, .ok p) => (s1, { acc.2 with ok := acc.2.ok ++ [(r.1, r.2, p)] })
    | (s1, .error x) => (s1, { acc.2 with bad := acc.2.bad ++ [x] })) (s, {})

/-! ### Causes of lanes as raises, with fault records (12 R336, 13 R352) -/

/-- In shadow mode a lane below 32 stands for itself and its twin (07 R199, 17 R460). -/
def Strand.twinMask (st : Strand) (m : Mask) : Mask := if st.shadow then m ||| m <<< 32 else m

/-- The mask of the lanes of a list. -/
def lanesMask (l : List Nat) : Mask := maskOf fun x => l.contains x

/-- The lowest of a list of addresses. -/
def lowest (l : List DWord) : DWord :=
  match l with
  | [] => 0
  | x :: t => t.foldl (fun m a => if a.toNat < m.toNat then a else m) x

/-- The page of a faulting address for its record: of 1 GiB where its leaf maps so much. -/
def LaneFault.page (f : LaneFault) : Nat :=
  if (f.walk.map fun w => w.big) = some true then f.va.toNat / 2 ^ 30 * 2 ^ 13 else f.va.toNat / 2 ^ 17

/-- The distinct pages of one cause that need a record. -/
def recordPages (l : List LaneFault) : List Nat := distinct ((l.filter fun x => x.walk.isSome).map LaneFault.page)

/-- The records of one parked entry, one a page. `uniform` gives the lanes of a form that makes one access. -/
def State.faultRecords (s : State) (st : Strand) (pc : Pc) (k : Access) (sub : Nat) (uniform : Option Mask)
    (l : List LaneFault) : List FaultRecord :=
  (recordPages l).map fun pg =>
    let here := l.filter fun x => x.walk.isSome && x.page == pg
    let first := here.head?
    { addr := (lowest (here.map fun x => x.va)).toNat % 2 ^ 56,
      mask := uniform.getD (st.twinMask (lanesMask (here.map fun x => x.lane))), pasid := s.pasidOf st,
      cause := (first.map fun x => x.cause.code).getD 0, sub := sub, kind := k.code,
      level := ((first.bind fun x => x.walk).map fun w => w.level).getD 0, channel := none, core := st.core,
      bench := st.bench, slot := st.slot, last := pc.toNat }

/-- Of the causes of each lane the lowest (R196, 13 R346). -/
def lowestCauses (l : List LaneFault) : List LaneFault :=
  l.filter fun b => !(l.any fun x => x.lane == b.lane && decide (x.cause.code < b.cause.code))

/-- The causes of the lanes of one instruction as raises, each with its fault records, whose lowest address is TADDR where
there are any; a supervisor strand writes none (12 R336, 13 R366). `uniform` gives the lanes of a form that makes one access. -/
def State.faultRaises (s : State) (st : Strand) (pc : Pc) (k : Access) (uniform : Option Mask) (l : List LaneFault) :
    List Raise :=
  let low := lowestCauses l
  (distinct (low.map fun x => x.cause)).map fun c =>
    let fs := low.filter fun x => decide (x.cause = c)
    { cause := c, mask := uniform.getD (st.twinMask (lanesMask (fs.map fun x => x.lane))),
      taddr := lowest ((if fs.any fun x => x.walk.isSome then fs.filter fun x => x.walk.isSome else fs).map fun x => x.va),
      data := true,
      records := if st.sup then [] else s.faultRecords st pc k 0 uniform fs }

/-! ### Links of host and peer pages (15 R405, R414) -/

/-- A peer route entry (15 Table 15-3). -/
def State.route (s : State) (n : Nat) : Nat := Memory.readN s.local_ (s.link.prt + 8 * n) 8

/-- The ports that are up and reach a peer: those of its valid route (15 R414). -/
def State.peerPorts (s : State) (peer : Nat) : List Nat :=
  let e := s.route peer
  if s.online && natBit e 63 then (List.range 12).filter fun u => natBit e u && s.link.up.contains (2 + u) else []

/-- Whether a peer can be reached (15 R414). -/
def State.peerUp (s : State) (peer : Nat) : Bool := !(s.peerPorts peer).isEmpty

/-- The port on which an access to a peer address goes out: a fixed hash of the peer and the line, over the ports that are up
and reach the peer (15 R415). -/
def State.peerPort (s : State) (addr : Nat) : Nat :=
  let l := s.peerPorts (addr / 2 ^ 42)
  l.getD (Config.portHash (addr / 2 ^ 42) (addr % 2 ^ 42 / 128) % l.length) 0

/-- The accesses to peers without a response: their addresses and the ports on which they were sent. -/
def State.sentToPeers (s : State) : List (Nat × Nat) :=
  (s.cores.flatMap fun k =>
    ((k.2.outstanding.filter fun o => o.peer).flatMap fun o => o.cells.map fun c => (c.1, o.port))
      ++ k.2.peerCopies.map fun w => (w.addr, w.port))
    ++ s.strands.flatMap fun x => x.2.producers.flatMap fun p =>
      (p.sent.filter fun y => p.peerLanes.getLsbD y.1).map fun y => (y.2.1, y.2.2)

/-- Whether the link engine holds an access to a peer address: its line has another port now, and an access sent on the old
one has no response (15 R415). -/
def State.lineHeld (s : State) (addr : Nat) : Bool :=
  s.sentToPeers.any fun x => x.1 / 128 == addr / 128 && x.2 != s.peerPort addr

/-- Whether one of a list of places is a peer line that the link engine holds. -/
def State.peerHeld (s : State) (l : List Place) : Bool :=
  l.any fun x => match x with
    | .phys p => decide (p.loc = .peer) && s.lineHeld p.addr
    | .scratch _ _ | .line _ _ _ | .gone => false

/-- The lanes of an instruction that go to peers, with the address and the port of each. -/
def State.sentLanes (s : State) (l : List (Nat × DWord × Place)) : List (Nat × Nat × Nat) :=
  l.filterMap fun x => match x.2.2 with
    | .phys p => if p.loc = .peer then some (x.1, p.addr, s.peerPort p.addr) else none
    | .scratch _ _ | .line _ _ _ | .gone => none

/-- The late cause of an access to a place: a link failure or an uncorrectable error (07 R196). -/
def State.lateCause (s : State) (p : Phys) (n : Nat) : Option Cause :=
  match p.loc with
  | .dev => if s.errorAt .dev p.addr n then some .uncorrectable else none
  | .host => if !s.hostUp then some .hostLink else if s.errorAt .host p.addr n then some .uncorrectable else none
  | .peer => if !s.peerUp (p.addr / 2 ^ 42) then some .peerLink else if s.errorAt .peer p.addr n then some .uncorrectable else none
  | .mmio => if s.hostUp then none else some .hostLink

/-! ### Lines, the L1 and miss-status entries (05 R129, R130; 07 R213) -/

/-- The number of a line in an L1: 2 x line, plus 1 for a host line. -/
def Phys.lineKey (p : Phys) : Nat := p.addr / 128 * 2 + (if p.loc = .host then 1 else 0)
/-- The home slice of a line (05 R130). -/
def Phys.slice (p : Phys) : Nat := p.addr / 128 % 192
/-- Whether an L1 may hold the line: a WB local or host page (05 R129). -/
def Phys.cacheable (p : Phys) : Bool := !p.uc && decide (p.loc = .dev ∨ p.loc = .host)

/-- The lines that the L1 of a carve mode holds (05 Table 5-2). -/
def l1Lines (carve : Nat) : Nat := (if carve = 3 then 1536 else if carve = 4 then 1024 else 512) * 8

/-- The place of a line in memory. -/
def keyLoc (key : Nat) : Loc := if key % 2 = 1 then .host else .dev
def keyAddr (key : Nat) : Nat := key / 2 * 128

/-- Put a line into the L1 of a core as it stands at its home; a full L1 loses a line of the device's choice. -/
def State.fillLine (s : State) (core key : Nat) (priv : Bool) : State :=
  let k := s.core core
  let x : L1Line := {
    data := Memory.readN (s.memory (keyLoc key)) (keyAddr key) 128, priv := priv,
    bad := (s.errors (keyLoc key)).filter fun w => w / 16 == key / 2 }
  if k.l1.length < l1Lines k.carve ∨ Tab.has k.l1 key = true then s.setCore core { k with l1 := Tab.put k.l1 key x }
  else
    let victim := Config.freeNat s.free % k.l1.length
    s.tick.setCore core { k with l1 := Tab.put (k.l1.eraseIdx victim) key x }

/-- A core's L1 loses every line, those of private accesses too: when strands move or are placed, and when an engine that
does not write through the L1 has written for them (05 R143, R145, R146). -/
def State.dropL1 (s : State) (core : Nat) : State := s.setCore core { s.core core with l1 := [] }

/-- The bytes a load reads from an L1 line. -/
def L1Line.read (x : L1Line) (a n : Nat) : Nat := natBits x.data (8 * (a % 128)) (8 * n)
/-- An L1 line after a store of its own core; a word written whole is good again (log 13). -/
def L1Line.write (x : L1Line) (a n v : Nat) : L1Line :=
  { x with
    data := x.data - x.read a n * 2 ^ (8 * (a % 128)) + v % 2 ^ (8 * n) * 2 ^ (8 * (a % 128))
    bad := x.bad.filter fun w => !wholeWords a n w }

/-- The miss-status entries that an instruction needs (07 R213): the lines that miss and have no entry to join, and
the replies; `wait` where it must wait for an old fill or for a free entry. -/
structure Misses where
  lines : List Nat := []
  replies : Nat := 0
  wait : Bool := false
  deriving DecidableEq, Repr

/-- The miss-status entries that are left over must hold so many more (07 R213). -/
def Core.entriesShort (k : Core) (n : Nat) : Bool := decide (512 < k.misses.length + k.replies + n)

/-- Whether each lane of an instruction makes its own access: a UC or an MMIO page (05 R119; 07 R213). -/
def Phys.alone (p : Phys) : Bool := p.uc || decide (p.loc = .mmio)

/-- A line of memory by its location and number. -/
def Phys.homeLine (p : Phys) : Loc × Nat := (p.loc, p.addr / 128)

/-- Plan the miss-status entries of the places of an instruction; `home` reads at the home. Lanes that fall in one line
need one entry, and every UC or MMIO access one of its own (R213). It waits for a peer line that the link engine holds (15
R415). -/
def State.planMisses (s : State) (core : Nat) (home : Bool) (l : List Place) : Misses :=
  let k := s.core core
  let phys := l.filterMap fun x => match x with | .phys p => some p | .scratch _ _ | .line _ _ _ | .gone => none
  let cached := if home then [] else distinct ((phys.filter Phys.cacheable).map Phys.lineKey)
  let missing := cached.filter fun x => !Tab.has k.l1 x
  let old := missing.any fun x => k.misses.any fun m => m.line == x && decide (m.since + 16 < s.now)
  let fresh := missing.filter fun x => !(k.misses.any fun m => m.line == x)
  let lines := distinct ((phys.filter fun p => !p.alone && (home || !p.cacheable)).map Phys.homeLine)
  let replies := (phys.filter Phys.alone).length + lines.length
  { lines := fresh, replies := replies, wait := old || k.entriesShort (fresh.length + replies) || s.peerHeld l }

/-- Plan the miss-status entries of an atomic: one for each group of lanes with one address (R213, R215). It waits for a
peer line that the link engine holds (15 R415). -/
def State.planAtomics (s : State) (core : Nat) (l : List Place) : Misses :=
  let groups := distinct ((l.filter fun x => match x with
    | .phys _ => true
    | .scratch _ _ | .line _ _ _ | .gone => false).map Place.bare)
  { replies := groups.length, wait := (s.core core).entriesShort groups.length || s.peerHeld l }

/-- Take the planned entries. -/
def State.takeMisses (s : State) (core : Nat) (priv : Bool) (m : Misses) : State :=
  let k := s.core core
  s.setCore core { k with
    misses := k.misses ++ m.lines.map (fun x => { line := x, since := s.now, priv := priv }),
    replies := k.replies + m.replies }

/-- An access that has failed holds no miss-status entry for a reply. -/
def State.dropReplies (s : State) (core n : Nat) : State :=
  s.setCore core { s.core core with replies := (s.core core).replies - n }

/-! ### Reading and writing one place -/

/-- Bytes of a line of a strand as memory shows it (04 R95). -/
def lineBytes (x : Line) (byte n : Nat) : Nat := natBits (lineNat x) (8 * byte) (8 * n)
def lineWith (x : Line) (byte n v : Nat) : Line :=
  let w := lineNat x
  natLine (w - natBits w (8 * byte) (8 * n) * 2 ^ (8 * byte) + v % 2 ^ (8 * n) * 2 ^ (8 * byte))

/-- A read of an MMIO page: a value the device on the link gives, which is free (05 R151). -/
def State.mmioRead (s : State) (n : Nat) : State × Nat :=
  let a := (Config.freeDWord s.free).toNat
  let b := (Config.freeDWord (s.free + 1)).toNat
  if n ≤ 8 then (s.tick, a % 2 ^ (8 * n)) else (s.tick.tick, a + 2 ^ 64 * b)

/-- Read n bytes of a place for a strand: of an L1 line where one is held and `home` does not bypass it. A word that was
uncorrectable when its line was filled is so in the L1 too (07 R196). -/
def State.readPlace (s : State) (core : Nat) (home : Bool) (n : Nat) : Place → State × Except Cause Nat
  | .scratch c o => (s, .ok (Memory.readN (s.cohort c).scratch o n))
  | .line key l b => (s, .ok (lineBytes ((s.strand key).line l) b n))
  | .gone => (s, .ok 0)
  | .phys p =>
    match (if home || !p.cacheable then none else (s.core core).l1.find? fun x => x.1 == p.lineKey) with
    | some x => (s, if touchesWord p.addr n x.2.bad then .error .uncorrectable else .ok (x.2.read p.addr n))
    | none =>
      match s.lateCause p n with
      | some c => (s, .error c)
      | none =>
        if p.loc = .mmio then let (s1, v) := s.mmioRead n; (s1, .ok v)
        else (s, .ok (Memory.readN (s.memory p.loc) p.addr n))

/-- The level that an access of a core reaches (18 Table 18-5): 1 the L1, 2 the core store, 3 the L2 or the HBM behind it, 5 the
host, 6 a peer; 0 for an access that is not made. -/
def State.levelOf (s : State) (core : Nat) (home : Bool) : Place → Nat
  | .scratch _ _ | .line _ _ _ => 2
  | .gone => 0
  | .phys p =>
    if !home && p.cacheable && (s.core core).l1.any fun x => x.1 == p.lineKey then 1
    else match p.loc with
      | .dev => 3
      | .host | .mmio => 5
      | .peer => 6

/-- The accesses of an issue reach their levels: the farthest counts, the model's choice (log 116). -/
def State.reach (s : State) (core : Nat) (home : Bool) (l : List Place) : State :=
  { s with reached := l.foldl (fun m p => max m (s.levelOf core home p)) s.reached }

/-- Bytes of a location before and after a write, as an outstanding store keeps them. -/
def State.cellsOf (s : State) (p : Phys) (n v : Nat) : List (Nat × Byte × Byte) :=
  (List.range n).map fun i =>
    (p.addr + i, Memory.read (s.memory p.loc) (p.addr + i), BitVec.ofNat 8 (v / 2 ^ (8 * i)))

/-- Write n bytes at a physical place for a core: its L1 line follows, by whichever mapping it is written (05 R129, R133; 07
R205), and the line loses its promotion mark or takes one (07 R210); an MMIO access of 16 bytes is two of 8, the lower address first (R198). -/
def State.writePhys (s : State) (core : Nat) (mark : Bool) (n v : Nat) (p : Phys) : State :=
  if p.loc = .mmio then
    if n ≤ 8 then s.output (.mmioWrite p.addr n (v % 2 ^ (8 * n)))
    else (s.output (.mmioWrite p.addr 8 (v % 2 ^ 64))).output (.mmioWrite (p.addr + 8) 8 (v / 2 ^ 64 % 2 ^ 64))
  else
    let s1 := s.putQuiet p.loc p.addr n v
    let k := s1.core core
    let s2 := (match (if p.loc = .dev ∨ p.loc = .host then k.l1.find? fun x => x.1 == p.lineKey else none) with
      | some x => s1.setCore core { k with l1 := Tab.put k.l1 p.lineKey (x.2.write p.addr n v) }
      | none => s1)
    if mark && decide (p.loc = .dev ∨ p.loc = .host) then { s2 with marks := Tab.put s2.marks p.lineKey core } else s2

/-- Write n bytes at a place for a strand of a core: scratch, a live line, or the home; monitors have not tested it yet. -/
def State.writeQuiet (s : State) (core : Nat) (mark : Bool) (n v : Nat) : Place → State
  | .scratch c o => s.setCohort c { s.cohort c with scratch := Memory.writeN (s.cohort c).scratch o n v }
  | .line key l b =>
    let st := s.strand key
    s.setStrand key { st with vec := Tab.set zeroLine st.vec l (lineWith (st.line l) b n v) }
  | .gone => s
  | .phys p => s.writePhys core mark n v p

/-- The monitors of n bytes at a place test their conditions (07 R221). -/
def State.notePlace (s : State) (n : Nat) : Place → State
  | .phys p => s.noteWrite p.loc p.addr n
  | .scratch _ _ | .line _ _ _ | .gone => s

/-- Write n bytes at a place for a strand of a core, as one write. -/
def State.writePlace (s : State) (core : Nat) (mark : Bool) (n v : Nat) (p : Place) : State :=
  (s.writeQuiet core mark n v p).notePlace n p

/-! ### Stores on their way to the host and to peers (07 R197, R208; 15 R410) -/

/-- Whether a core holds accesses ordered by a release narrower than the device that are not yet performed there
(07 R210): stores to peers. -/
def Core.holdsOrdered (k : Core) : Bool := k.outstanding.any fun o => o.ordered && o.peer

/-- One write on its way to host or peer pages, of the accesses given. -/
def State.outstandingAt (s : State) (st : Strand) (m : Mask) (n : Nat) (l : List (DWord × Phys × Nat)) : Outstanding :=
  { peer := l.any fun x => decide (x.2.1.loc = .peer), key := st.key, pasid := s.pasidOf st, mask := m, va := lowest (l.map fun x => x.1),
    uc := l.any fun x => x.2.1.uc, port := (l.head?.map fun x => s.peerPort x.2.1.addr).getD 0,
    cells := l.flatMap fun x => s.cellsOf x.2.1 n x.2.2 }

/-- The outstanding writes of the lanes of one store: one for each line of a host or peer page, and one for each lane of a
UC page (05 R119; 15 R410). -/
def State.outstandingOf (s : State) (st : Strand) (m : Mask) (n : Nat) (l : List (DWord × Phys × Nat)) : List Outstanding :=
  let far := l.filter fun x => decide (x.2.1.loc = .host ∨ x.2.1.loc = .peer)
  let wb := far.filter fun x => !x.2.1.uc
  ((distinct (wb.map fun x => x.2.1.homeLine)).map fun key =>
    s.outstandingAt st m n (wb.filter fun x => decide (x.2.1.homeLine = key)))
    ++ (far.filter fun x => x.2.1.uc).map fun x => s.outstandingAt st m n [x]

/-- Of a write that is lost each byte that nothing has written since holds its new value or its old one (05 R135). -/
def State.loseCells (s : State) (l : Loc) (cells : List (Nat × Byte × Byte)) : State :=
  cells.foldl (fun (s : State) x => if Config.freeBool s.free then s.tick.putBytes l x.1 1 x.2.1.toNat else s.tick) s

/-- A store is lost, and an asynchronous cause goes to the supervisor of the core (07 R197, 05 R135). -/
def State.loseStore (s : State) (core : Nat) (o : Outstanding) : State :=
  let s1 := s.loseCells (if o.peer then .peer else .host) o.cells
  let st := s1.strand o.key
  s1.postEvent core {
    cause := if o.peer then .peerLink else .hostLink, bench := st.bench, slot := st.slot,
    pasid := o.pasid, cib := st.cib, taddr := o.va, tmask := o.mask }

/-- Make a store outstanding, or lose it at once where its link is down (15 R414, R418). -/
def State.trackStore (s : State) (core : Nat) (o : Outstanding) : State :=
  let down := if o.peer then o.cells.any fun x => !s.peerUp (x.1 / 2 ^ 42) else !s.hostUp
  if down then s.loseStore core o
  else s.setCore core { s.core core with outstanding := (s.core core).outstanding ++ [o] }

/-- Whether the instruction of a strand that needs a flush of the relaxed channel still waits for it (05 R148): none is
needed where every write has its response. -/
def State.flushWaits (s : State) (st : Strand) : Bool :=
  decide (0 < (s.core st.core).relaxed.length ∧ st.flushed ≠ some (candidate st).pc)

/-- Send the flush of the instruction at the candidate, once (05 R148). -/
def State.sendFlush (s : State) (st : Strand) : State :=
  let k := s.core st.core
  let pc := (candidate st).pc
  if !s.flushWaits st || k.flushing.any (fun f => f.key == st.key && f.pc == pc) then s
  else s.setCore st.core { k with flushing := k.flushing ++ [{ key := st.key, pc := pc, before := k.relaxed.length }] }

/-- Whether stores of a strand are not performed at a scope yet: at .sp and .dv those to peers, at .sy those to host and
peers. -/
def State.storesWait (s : State) (st : Strand) (scope : Nat) : Bool :=
  (s.core st.core).outstanding.any fun o => o.key == st.key && (decide (scope = 4) || (decide (2 ≤ scope) && o.peer))

/-- Whether loads or atomics of a strand at host or peer pages, or at peer pages alone, are not answered yet. -/
def Strand.unanswered (st : Strand) (peerOnly : Bool) : Bool :=
  st.producers.any fun p => p.peerLanes != 0 || (!peerOnly && p.hostLanes != 0)

/-- Whether accesses of a strand are not performed at a scope yet (07 R208): at .sp and .dv those at peers, at .sy those at
host and peers. -/
def State.accessesWait (s : State) (st : Strand) (scope : Nat) : Bool :=
  s.storesWait st scope || (decide (2 ≤ scope) && st.unanswered (decide (scope ≠ 4)))

/-- Whether a release of a strand at a scope still waits (07 R208, 05 R148): for its accesses, and at .sy for the relaxed
channel. -/
def State.releaseWaits (s : State) (st : Strand) (scope : Nat) : Bool :=
  s.accessesWait st scope || (decide (scope = 4) && s.flushWaits st)

/-- What a release does while it waits or when it is made: the flush is sent, or the writes it leaves behind at a
narrow scope are ordered by it (05 R148, 07 R210). -/
def State.noteRelease (s : State) (st : Strand) (scope : Nat) : State :=
  let k := s.core st.core
  if scope = 4 then s.sendFlush st
  else if scope ≤ 1 then
    s.setCore st.core { k with
      outstanding := k.outstanding.map fun o => if o.key = st.key then { o with ordered := true } else o }
  else s

/-- The acquire side at a scope: at .sp, .dv, .sy and .rm the core's L1 is invalidated (07 R209). -/
def State.acquire (s : State) (core scope : Nat) : State := if 2 ≤ scope then s.invalidateL1 core else s

/-! ### Watchpoints (18 R471) -/

/-- The watchpoints of a core that an access of a PASID matches, each with the lowest address that matches. -/
def Core.watchHits (k : Core) (pasid : Nat) (rd wr : Bool) (va : DWord) (n : Nat) : List (Nat × DWord) :=
  (k.watchPoints.filter fun w =>
    let b := w.2.2.toNat
    let kind := natBits b 6 2
    let base := w.2.1.toNat
    natBits b 12 20 == pasid && ((rd && natBit kind 0) || (wr && natBit kind 1))
      && decide (va.toNat < base + 2 ^ natBits b 0 6 ∧ base < va.toNat + n)).map fun w =>
      (w.1, if va.toNat < w.2.1.toNat then w.2.1 else va)

/-- Of the matches of one lane the one at the lowest address. -/
def lowestHit (l : List (Nat × DWord × Nat)) (lane : Nat) : Option (Nat × DWord × Nat) :=
  (l.filter fun h => h.1 == lane).foldl (fun acc h =>
    match acc with
    | some x => if h.2.1.toNat < x.2.1.toNat then some h else acc
    | none => some h) none

/-- The data hits of the accesses that were performed: a lane record for each lane that matched, with its lowest matched
address, and the cohort stops. -/
def State.watch (s : State) (st : Strand) (pc : Pc) (rd wr : Bool) (n : Nat) (l : List (Nat × DWord)) : State :=
  if st.sup then s
  else
    let pasid := s.pasidOf st
    let hits := l.flatMap fun x => ((s.core st.core).watchHits pasid rd wr x.2 n).map fun w => (x.1, w.2, w.1)
    if hits.isEmpty then s
    else
      (((distinct (hits.map fun h => h.1)).filterMap (lowestHit hits)).foldl
        (fun s (h : Nat × DWord × Nat) => s.laneRecord st 2 h.2.2 h.1 pc h.2.1) s).stopCohort st.ccb 2

/-! ### Monitors (07 R219 to R223) -/

/-- The element that a wait watches. -/
def State.elementAt (s : State) (p : Phys) (wide : Bool) : Nat :=
  Memory.readN (s.memory p.loc) p.addr (if wide then 8 else 4)

/-- The group of monitor entries of a place: its home slice, or that of the peer (07 R220). -/
def Phys.monitorBase (p : Phys) : Nat :=
  512 * (p.slice + (if p.loc = .peer then 192 * (1 + p.addr / 2 ^ 42) else 0))

/-- A free monitor entry of a slice. -/
def State.freeMonitor (s : State) (base : Nat) : Option Nat :=
  (List.range 512).findSome? fun i => if Tab.has s.monitors (base + i) then none else some (base + i)

/-- Release the monitors that satisfy a test. -/
def State.releaseMonitors (s : State) (p : Monitor → Bool) : State :=
  { s with monitors := s.monitors.filter fun x => !p x.2 }

/-- Release the monitors that satisfy a test, and let their waiters begin again: a strand reissues its wait, a queue
is polled (07 R223, R224). -/
def State.releaseArmed (s : State) (p : Monitor → Bool) : State :=
  (s.monitors.filter fun x => p x.2).foldl (fun (s : State) x =>
    match x.2.waiter with
    | .strand key _ => s.setStrand key ((s.strand key).leaveWaits fun w => decide (w.how = .armed x.1))
    | .tail q | .status q =>
      { s with disp := { s.disp with
        queues := Tab.put s.disp.queues q { Tab.get {} s.disp.queues q with polling := true } } }
    | .peer _ => s)
    (s.releaseMonitors p)

/-- Whether a monitor is a strand's, and whether it is of a wait at an address. -/
def Monitor.of (m : Monitor) (key : Nat) : Bool :=
  match m.waiter with
  | .strand k _ => k == key
  | .tail _ | .status _ | .peer _ => false
/-- Whether a monitor was armed by a strand of this device. -/
def Monitor.ofStrand (m : Monitor) : Bool :=
  match m.waiter with
  | .strand _ _ => true
  | .tail _ | .status _ | .peer _ => false
def Monitor.at_ (m : Monitor) (key : Nat) (pc : Pc) : Bool := decide (m.waiter = .strand key pc)

/-- Whether lanes of a wait still stand at it. -/
def Strand.waitsStill (st : Strand) (w : Wait) : Bool := st.frontier.any fun e => e.pc == w.pc && !e.parked

/-- A wait whose entry has left its place is over: its monitor is released (07 R223). -/
def State.dropWait (s : State) (key : Nat) : State :=
  let st := s.strand key
  if st.waits.all st.waitsStill then s
  else
    (s.releaseMonitors fun m => m.of key && !(st.waits.any fun w => st.waitsStill w && m.at_ key w.pc)).setStrand key
      (st.leaveWaits fun w => !st.waitsStill w)

/-- The end of a wait of a strand: the read is an acquire at its scope, the status is written, the entry goes on
(07 R220). What a command wrote did not pass through the L1: after `cwp` and `cwait` no line of it stays (05 Table 5-5). -/
def State.completeWait (s : State) (key : Nat) (w : Wait) (status : Nat) : State :=
  let st := s.strand key
  let st1 := (match w.status with
    | some m => st.setScalar m (BitVec.ofNat 64 status)
    | none => st)
  let here := (st.frontier.find? fun e => e.pc == w.pc && !e.parked).getD {}
  let moved := st1.frontier.map fun e =>
    if e.pc = w.pc ∧ e.parked = false then { e with pc := nextPc e.pc, prio := s.nextPrio st e.prio (nextPc e.pc) }
    else e
  let s1 := (s.releaseMonitors fun m => m.at_ key w.pc).setStrand key
    { st1.setFrontier moved with
      waits := st.waits.filter fun x => x.pc != w.pc
      stall := 0, lastIssue := s.now, ready := 0, aged := false }
  ((if w.engine then s1.dropL1 st.core else s1.acquire st.core w.scope).watch st w.pc
      true false (if w.wide then 8 else 4) ((lanesOf here.mask).map fun l => (l, w.va))).afterFrontier key

/-- The status scalar of a wait that begins: a scalar write under 06 R178, empty until the wait ends (07 R194). -/
def Strand.expectStatus (st : Strand) (status : Option Nat) : Strand :=
  match status with
  | some m => st.markScalarWrite.emptyScalar m
  | none => st

/-- Whether an acquire at .rm finds a promotion mark on the line of its element (07 R210). -/
def State.promotes (s : State) (scope : Nat) (p : Phys) : Bool := decide (scope = 5) && Tab.has s.marks p.lineKey

/-- The strand that issues begins to wait on an element, or finds its condition at once (07 R220, R222): it has issued, and
waits from the next cycle on (06 R162). Its read at the home needs a miss-status entry, which the reply frees in the same
step (07 R213; log 28). An acquire at .rm that reads a marked line waits until the mark is cleared (R210). -/
def State.beginWait (s : State) (va : DWord) (wide : Bool) (cond cmp scope : Nat)
    (status : Option Nat) (engine : Bool) : State :=
  let st := s.cur
  let e := candidate st
  let n := if wide then 8 else 4
  let (s1, r) := s.checkLane st .read .wait n n 0 va
  let fail (x : LaneFault) : State := s1.settle [] (s1.faultRaises st e.pc .read (some e.mask) [x])
  match r with
  | .error x => fail x
  | .ok (.phys p) =>
    match s1.lateCause p n with
    | some c => fail { lane := 0, cause := c, va := va }
    | none =>
      if s1.promotes scope p || (s1.core st.core).entriesShort 1 || s1.peerHeld [.phys p] then s1.stallWith 12
      else
        let w : Wait := {
          pc := e.pc, how := .polling, va := va, wide := wide, cond := cond, cmp := cmp, scope := scope,
          status := status, engine := engine,
          sent := if p.loc = .peer then some (p.addr, s1.peerPort p.addr) else none }
        let s2 := s1.onCur fun st => st.expectStatus status
        let begin_ (s : State) (h : WaitHow) : State :=
          s.onCur fun st => { st.setWait { w with how := h } with
            stall := 0, lastIssue := s.now, ready := 0, aged := false }
        if condHolds cond (s1.elementAt p wide) cmp then s2.completeWait st.key w 2
        else
          match s1.freeMonitor p.monitorBase with
          | some i =>
            let m : Monitor := {
              loc := p.loc.code, addr := p.addr, va := va.toNat, wide := wide, cond := cond, cmp := cmp,
              pasid := s1.pasidOf st, waiter := .strand st.key e.pc }
            begin_ { s2 with monitors := Tab.put s1.monitors i m } (.armed i)
          | none =>
            begin_ (s2.postEvent st.core {
              cause := .monitorFull, bench := st.bench, slot := st.slot,
              pasid := s1.pasidOf st, cib := st.cib, taddr := va }) .polling
  | .ok (.scratch _ _) | .ok (.line _ _ _) | .ok .gone => s1.stallWith 5

/-- A waiting instruction issues: it goes on waiting where it has begun, else it begins (07 R220, R223). -/
def State.waitOn (s : State) (va : DWord) (wide : Bool) (cond cmp scope : Nat) (status : Option Nat) (engine : Bool) :
    State :=
  if (s.cur.waitAt (candidate s.cur).pc).isSome then s.stallWith 5
  else s.beginWait va wide cond cmp scope status engine

end Sys2Proof.Machine
end

