-- ==== Sys2Proof/Machine/Flags.lean ====
section
/-! DEFINITION. Floating-point formats, exact values, the one rounding, and the five float flags
(02 R21 to R34). -/

namespace Sys2Proof.Machine

/-- The five flags of STAT.FL: invalid, divide by zero, overflow, underflow, inexact (04 Table 4-7). -/
abbrev Flags := BitVec 5

def Flags.invalid : Flags := 1
def Flags.divideByZero : Flags := 2
def Flags.overflow : Flags := 4
def Flags.underflow : Flags := 8
def Flags.inexact : Flags := 16

/-- A floating-point format (02 Tables 2-1 and 2-2). -/
structure Fmt where
  ebits : Nat
  fbits : Nat
  bias : Nat
  /-- Encoding of the largest finite value. -/
  maxBits : Nat
  /-- Encoding of +infinity, where the format has one. -/
  inf : Option Nat
  /-- Canonical NaN, where the format has one. -/
  nan : Option Nat
  /-- Whether a NaN with a clear top fraction bit signals (R22). -/
  signalling : Bool
  deriving DecidableEq, Repr

def Fmt.f64 : Fmt := ⟨11, 52, 1023, 0x7FEFFFFFFFFFFFFF, some 0x7FF0000000000000, some 0x7FF8000000000000, true⟩
def Fmt.f32 : Fmt := ⟨8, 23, 127, 0x7F7FFFFF, some 0x7F800000, some 0x7FC00000, true⟩
def Fmt.f16 : Fmt := ⟨5, 10, 15, 0x7BFF, some 0x7C00, some 0x7E00, true⟩
def Fmt.bf16 : Fmt := ⟨8, 7, 127, 0x7F7F, some 0x7F80, some 0x7FC0, true⟩
def Fmt.e4m3 : Fmt := ⟨4, 3, 7, 0x7E, none, some 0x7F, false⟩
def Fmt.e5m2 : Fmt := ⟨5, 2, 15, 0x7B, some 0x7C, some 0x7E, false⟩
def Fmt.e3m2 : Fmt := ⟨3, 2, 3, 0x1F, none, none, false⟩
def Fmt.e2m3 : Fmt := ⟨2, 3, 1, 0x1F, none, none, false⟩
def Fmt.e2m1 : Fmt := ⟨2, 1, 1, 0x7, none, none, false⟩

/-- The width of a format in bits. -/
def Fmt.width (f : Fmt) : Nat := 1 + f.ebits + f.fbits
/-- The place of the sign bit as a number. -/
def Fmt.signBit (f : Fmt) : Nat := 2 ^ (f.ebits + f.fbits)
/-- The exponent of the smallest normal value. -/
def Fmt.emin (f : Fmt) : Int := 1 - (f.bias : Int)
/-- A magnitude with a sign. -/
def Fmt.signed (f : Fmt) (neg : Bool) (mag : Nat) : Nat := if neg then f.signBit + mag else mag
/-- The canonical NaN; 0 in a format without one (02 Table 2-7). -/
def Fmt.nanBits (f : Fmt) : Nat := f.nan.getD 0

/-- An exact value: a NaN, an infinity, or sign, mantissa and exponent of m x 2^e. -/
inductive FVal where
  | nan (signalling : Bool)
  | inf (neg : Bool)
  | num (neg : Bool) (m : Nat) (e : Int)
  deriving DecidableEq, Repr

/-- The value that bits of a format stand for (R21, R22). -/
def Fmt.decode (f : Fmt) (bits : Nat) : FVal :=
  let neg := natBit bits (f.ebits + f.fbits)
  let ex := natBits bits f.fbits f.ebits
  let fr := natBits bits 0 f.fbits
  let mag := natBits bits 0 (f.ebits + f.fbits)
  if f.nan.isSome ∧ mag > f.maxBits then
    if f.inf = some mag then .inf neg
    else .nan (f.signalling && fr / 2 ^ (f.fbits - 1) == 0)
  else if ex = 0 then .num neg fr (f.emin - f.fbits)
  else .num neg (2 ^ f.fbits + fr) ((ex : Int) - f.bias - f.fbits)

/-- Whether rounding goes away from zero (Table 2-4): last is the kept last bit, rem compares the dropped part
with one half (0 none, 1 below, 2 half, 3 above). -/
def roundsUp (frm : Nat) (neg last : Bool) (rem : Nat) : Bool :=
  if frm = 0 then decide (rem = 3) || (decide (rem = 2) && last)
  else if frm = 1 then false
  else if frm = 2 then !neg && decide (rem ≠ 0)
  else neg && decide (rem ≠ 0)

/-- The dropped part of m x 2^-s with a further non-zero part below if sticky: 0 none, 1 below half, 2 half, 3 above. -/
def dropped (m s : Nat) (sticky : Bool) : Nat :=
  if s = 0 then (if sticky then 1 else 0)
  else if m < 2 ^ (s - 1) then (if m = 0 ∧ !sticky then 0 else 1)
  else
    let r := m % 2 ^ s
    let h := 2 ^ (s - 1)
    if r = 0 then (if sticky then 1 else 0)
    else if r < h then 1
    else if r = h then (if sticky then 3 else 2)
    else 3

/-- Round m x 2^e (and a non-zero part below it if sticky) to a multiple of 2^q: the multiple, and whether the
result differs. A shift beyond the length of m is never raised to a power. -/
def roundMult (frm : Nat) (neg : Bool) (m : Nat) (e q : Int) (sticky : Bool) : Nat × Bool :=
  if q ≤ e then (m * 2 ^ (e - q).toNat, sticky)
  else
    let s := (q - e).toNat
    let s1 := if s > Nat.log2 m + 3 then Nat.log2 m + 3 else s
    let n := m / 2 ^ s1
    let r := dropped m s1 sticky
    (if roundsUp frm neg (n % 2 == 1) r then n + 1 else n, decide (r ≠ 0))

/-- How an overflow is delivered (Table 2-4): true for infinity, false for the largest finite value. -/
def overflowsToInf (frm : Nat) (neg : Bool) : Bool :=
  frm = 0 || (frm = 2 && !neg) || (frm = 3 && neg)

/-- A non-zero exact value rounded once to a format, with its flags (R31 to R33): the magnitude, whether it
overflowed, and the flags. -/
def Fmt.roundMag (f : Fmt) (frm : Nat) (neg : Bool) (m : Nat) (e : Int) (sticky : Bool) : Nat × Bool × Flags :=
  let top : Int := e + (Nat.log2 m : Int)
  let q0 : Int := top - f.fbits
  let qs : Int := f.emin - f.fbits
  let q := if q0 < qs then qs else q0
  let (n, nx) := roundMult frm neg m e q sticky
  let bits : Int := (q - qs) * 2 ^ f.fbits + n
  if (f.maxBits : Int) < bits then (f.maxBits, true, Flags.overflow ||| Flags.inexact)
  else
    let (n0, _) := roundMult frm neg m e q0 sticky
    let tiny := decide (q0 < qs) && !(decide (n0 = 2 ^ (f.fbits + 1)) && decide (q0 + 1 = qs))
    (bits.toNat, false, (if nx then Flags.inexact else 0) ||| (if tiny && nx then Flags.underflow else 0))

/-- Round an exact non-zero or sticky value to a format with infinities (R31, R32). -/
def Fmt.round (f : Fmt) (frm : Nat) (neg : Bool) (m : Nat) (e : Int) (sticky : Bool) : Nat × Flags :=
  if m = 0 then (f.signed neg 0, 0)
  else
    let (mag, ov, fl) := f.roundMag frm neg m e sticky
    if ov then (f.signed neg (if overflowsToInf frm neg then f.inf.getD f.maxBits else f.maxBits), fl)
    else (f.signed neg mag, fl)

/-- The signed sum of two exact numbers as an integer mantissa and an exponent. -/
def exactSum (na : Bool) (ma : Nat) (ea : Int) (nb : Bool) (mb : Nat) (eb : Int) : Int × Int :=
  let e := min ea eb
  let va : Int := (ma * 2 ^ (ea - e).toNat : Nat)
  let vb : Int := (mb * 2 ^ (eb - e).toNat : Nat)
  ((if na then -va else va) + (if nb then -vb else vb), e)

/-- The flag of a signalling NaN among the operands. -/
def sigFlag (xs : List FVal) : Flags := if xs.any (fun x => decide (x = .nan true)) then Flags.invalid else 0
def FVal.isNan : FVal → Bool
  | .nan _ => true
  | .inf _ => false
  | .num _ _ _ => false

/-- The sign of an exact zero sum (R255): both zeros of one sign keep it, else minus under RDN only. -/
def zeroSumSign (frm : Nat) (na nb : Bool) : Bool := if na = nb then na else frm = 3

/-- x + y rounded once (R255). -/
def Fmt.addVal (f : Fmt) (frm : Nat) (x y : FVal) : Nat × Flags :=
  match x, y with
  | .nan _, _ => (f.nanBits, sigFlag [x, y])
  | _, .nan _ => (f.nanBits, sigFlag [x, y])
  | .inf a, .inf b => if a = b then (f.signed a (f.inf.getD 0), 0) else (f.nanBits, Flags.invalid)
  | .inf a, .num _ _ _ => (f.signed a (f.inf.getD 0), 0)
  | .num _ _ _, .inf b => (f.signed b (f.inf.getD 0), 0)
  | .num na ma ea, .num nb mb eb =>
    let (v, e) := exactSum na ma ea nb mb eb
    if v = 0 then
      (f.signed (if ma = 0 ∧ mb = 0 then zeroSumSign frm na nb else frm = 3) 0, 0)
    else f.round frm (decide (v < 0)) v.natAbs e false

/-- The exact product, with whether it is 0 x infinity. -/
def mulVal (x y : FVal) : FVal × Bool :=
  match x, y with
  | .nan a, .nan b => (.nan (a || b), false)
  | .nan a, _ => (.nan a, false)
  | _, .nan b => (.nan b, false)
  | .inf a, .inf b => (.inf (a != b), false)
  | .inf a, .num b m _ => if m = 0 then (.nan true, true) else (.inf (a != b), false)
  | .num a m _, .inf b => if m = 0 then (.nan true, true) else (.inf (a != b), false)
  | .num a m e, .num b n g => (.num (a != b) (m * n) (e + g), false)

/-- x with its sign inverted. -/
def FVal.negate : FVal → FVal
  | .nan a => .nan a
  | .inf a => .inf !a
  | .num a m e => .num (!a) m e

/-- An exact value rounded once. -/
def Fmt.roundVal (f : Fmt) (frm : Nat) (x : FVal) : Nat × Flags :=
  match x with
  | .nan a => (f.nanBits, if a then Flags.invalid else 0)
  | .inf a => (f.signed a (f.inf.getD 0), 0)
  | .num a m e => f.round frm a m e false

def Fmt.add (f : Fmt) (frm a b : Nat) : Nat × Flags := f.addVal frm (f.decode a) (f.decode b)
def Fmt.sub (f : Fmt) (frm a b : Nat) : Nat × Flags := f.addVal frm (f.decode a) (f.decode b).negate
def Fmt.mul (f : Fmt) (frm a b : Nat) : Nat × Flags := f.roundVal frm (mulVal (f.decode a) (f.decode b)).1
/-- a x b + d with one rounding; 0 x infinity is invalid whatever d holds (R255). -/
def Fmt.fma (f : Fmt) (frm : Nat) (a b : Nat) (d : FVal) : Nat × Flags :=
  let (p, bad) := mulVal (f.decode a) (f.decode b)
  if bad then (f.nanBits, Flags.invalid)
  else
    let (r, fl) := f.addVal frm p d
    (r, fl ||| sigFlag [f.decode a, f.decode b, d])

/-! ### Comparing -/

/-- Whether x < y, for values that are not NaN. -/
def FVal.lt (x y : FVal) : Bool :=
  match x, y with
  | .inf a, .inf b => a && !b
  | .inf a, .num _ _ _ => a
  | .num _ _ _, .inf b => !b
  | .num na ma ea, .num nb mb eb => decide ((exactSum na ma ea (!nb) mb eb).1 < 0)
  | .nan _, _ => false
  | _, .nan _ => false

/-- Whether x and y are equal, +0 and -0 counting as equal. -/
def FVal.eq (x y : FVal) : Bool :=
  match x, y with
  | .inf a, .inf b => a == b
  | .num na ma ea, .num nb mb eb => decide ((exactSum na ma ea (!nb) mb eb).1 = 0)
  | .inf _, .num _ _ _ => false
  | .num _ _ _, .inf _ => false
  | .nan _, _ => false
  | _, .nan _ => false

/-! ### Square roots and quotients -/

/-- One bit of the integer square root at a time, from bit k - 1 downward. -/
def isqrtFrom (n : Nat) : Nat → Nat → Nat
  | 0, r => r
  | k + 1, r => let t := r + 2 ^ k; isqrtFrom n k (if t * t ≤ n then t else r)
/-- The integer square root. -/
def isqrt (n : Nat) : Nat := isqrtFrom n (Nat.log2 n / 2 + 1) 0

/-- The square root of m x 2^e: a mantissa of at least 60 bits, an exponent, and whether a part is left. -/
def sqrtNum (m : Nat) (e : Int) : Nat × Int × Bool :=
  let e1 := if e % 2 = 0 then e else e - 1
  let m1 := if e % 2 = 0 then m else m * 2
  let n := m1 * 2 ^ 128
  let r := isqrt n
  (r, e1 / 2 - 64, decide (r * r ≠ n))

/-- 1 / (m x 2^e): a mantissa of at least 60 bits, an exponent, and whether a part is left. -/
def recipNum (m : Nat) (e : Int) : Nat × Int × Bool :=
  let k := Nat.log2 m + 70
  (2 ^ k / m, -e - k, decide (2 ^ k % m ≠ 0))

/-- 1 / sqrt(m x 2^e), likewise. -/
def rsqrtNum (m : Nat) (e : Int) : Nat × Int × Bool :=
  let e1 := if e % 2 = 0 then e else e - 1
  let m1 := if e % 2 = 0 then m else m * 2
  let k := Nat.log2 m1 + 70
  let r := isqrt (2 ^ (2 * k) / m1)
  (r, -(e1 / 2) - k, decide (r * r * m1 ≠ 2 ^ (2 * k)))

/-! ### Rounding to integers -/

/-- m x 2^e with a sign, rounded to an integer by a mode: the magnitude, and whether it changed. -/
def roundInt (frm : Nat) (neg : Bool) (m : Nat) (e : Int) : Nat × Bool := roundMult frm neg m e 0 false

/-- Rounding toward minus infinity, plus infinity, zero and nearest as modes of Table 2-4. -/
def modeDown : Nat := 3
def modeUp : Nat := 2
def modeZero : Nat := 1
def modeNearest : Nat := 0

end Sys2Proof.Machine
end

