-- ==== Sys2Proof/Machine/LoadStore.lean ====
section
/-! DEFINITION. Loads, stores, private accesses, acquires, releases and fences, and the engine's own steps for them
(07 R193 to R213, R225). -/

namespace Sys2Proof.Machine

/-! ### The shape of loads and stores -/

/-- The accesses of an instruction, (lane, address) with the pieces of one lane in order, and the lanes whose cause
is known before any address is checked. -/
structure Requests where
  reqs : List (Nat × DWord) := []
  bad : List LaneFault := []
  deriving DecidableEq, Repr

/-- The lanes that make an access: in shadow mode lanes 0 to 31 (R199). -/
def accessLanes (st : Strand) (e : Entry) : List Nat := lanesOf (if st.shadow then e.mask &&& 0xFFFFFFFF else e.mask)

/-- One access for each lane. -/
def laneRequests (st : Strand) (e : Entry) (addr : Nat → DWord) : Requests :=
  { reqs := (accessLanes st e).map fun l => (l, addr l) }

/-- The requests whose lane has no cause, and the causes (R196). -/
def splitLanes (c : Checked) : List (Nat × DWord × Place) × List LaneFault :=
  (c.ok.filter fun x => !(c.bad.any fun b => b.lane == x.1), c.bad)

/-- Read every piece: the values by lane, low piece first, and the late causes (R196). -/
def State.readAll (s : State) (core : Nat) (home : Bool) (n : Nat) (l : List (Nat × DWord × Place)) :
    State × List (Nat × DWord × Nat) × List LaneFault :=
  l.foldl (fun acc x =>
    match acc.1.readPlace core home n x.2.2 with
    | (s1, .ok v) => (s1, acc.2.1 ++ [(x.1, x.2.1, v)], acc.2.2)
    | (s1, .error c) => (s1, acc.2.1, acc.2.2 ++ [{ lane := x.1, cause := c, va := x.2.1 }])) (s, [], [])

/-- The value of a lane from its pieces. -/
def joinPieces (n lane : Nat) (l : List (Nat × DWord × Nat)) : Nat :=
  (l.filter fun x => x.1 == lane).foldr (fun x acc => x.2.2 + 2 ^ (8 * n) * acc) 0

/-- The lanes of the places at host pages, or at peer pages. -/
def lanesAt (loc : Loc) (l : List (Nat × DWord × Place)) : List Nat :=
  l.filterMap fun x => match x.2.2 with
    | .phys p => if p.loc = loc then some x.1 else none
    | .scratch _ _ | .line _ _ _ | .gone => none

/-- The union of the lanes of a list of raises. -/
def raisedLanes (l : List Raise) : Mask := l.foldl (fun m r => m ||| r.mask) 0

/-- What distinguishes the loads: the form and its alignment, the bytes of a piece, a read at the home, a private
line, and the lines of a lane's value. -/
structure LoadKind where
  form : Form := .plain
  align : Nat
  n : Nat
  home : Bool := false
  scope : Nat := 0
  words : Nat → List Word

/-- Whether a guard cause of an access that was to be made waits: before its event every earlier store of the lanes is
performed at .dv (13 R368). -/
def State.guardWaits (s : State) (st : Strand) (a b : List LaneFault) : Bool :=
  ((a ++ b).any fun x => decide (x.cause = .privateGuard)) && s.storesWait st 3

/-- Load into vector lines (R194, R196, R200): each lane without a cause gets its value when the producer writes. -/
def State.loadLanes (s : State) (us : List Use) (d : Code) (k : LoadKind) (r : Requests) : State :=
  let st := s.cur
  let e := candidate st
  let (s1, ch) := s.checkLanes st .read k.form k.align k.n r.reqs
  let (ok, bad) := splitLanes { ch with bad := r.bad ++ ch.bad }
  let plan := s1.planMisses st.core k.home (ok.map fun x => x.2.2)
  if plan.wait || s1.guardWaits st ch.bad r.bad then s.stallWith 12
  else
    let (s2, vals, late) := ((s1.reach st.core k.home (ok.map fun x => x.2.2)).takeMisses st.core
      (decide (k.form = .priv)) plan).readAll st.core k.home k.n ok
    let rs := s2.faultRaises st e.pc .read none (bad ++ late)
    let good := e.mask &&& ~~~ raisedLanes rs
    let value (l : Nat) : List Word := k.words (joinPieces k.n (if st.shadow then l % 32 else l) vals)
    let width := (k.words 0).length
    let lines := (List.range width).map fun i =>
      (st.wb + d.toNat + i, good, mergeLine zeroLine good fun l => (value l).getD i 0)
    let p : Producer := {
      lines := lines, replies := plan.replies, hostLanes := st.twinMask (lanesMask (lanesAt .host ok ++ lanesAt .mmio ok)) &&& good,
      peerLanes := st.twinMask (lanesMask (lanesAt .peer ok)) &&& good, vas := ok.map fun x => (x.1, x.2.1),
      sent := s1.sentLanes ok, pc := e.pc, prio := e.prio, issued := s.now }
    let s3 := if good = 0 then s2.dropReplies st.core plan.replies else (s2.popSources us).onCur fun st =>
      { lines.foldl (fun st x => st.emptyLine x.1) st with producers := st.producers ++ [p] }
    let s4 := s3.watch st e.pc true false k.n ((ok.filter fun x => good.getLsbD x.1).map fun x => (x.1, x.2.1))
    (s4.acquire st.core k.scope).settle [(nextPc e.pc, good)] rs

/-- The causes of lanes whose shadow differs, beside their other causes (17 R460). -/
def State.shadowFaults (s : State) (m : Mask) (rs : List Raise) : List Raise :=
  let left := m &&& ~~~ raisedLanes rs
  if left = 0 then rs else rs ++ [mismatch left (candidate s.cur).pc]

/-- The pieces of a store with the value of each, in order. -/
def storePieces (n : Nat) (value : Nat → Nat) (l : List (Nat × DWord × Place)) : List (Place × Nat) :=
  (l.foldl (fun (acc : List (Place × Nat) × List Nat) x =>
    let i := (acc.2.filter fun y => y == x.1).length
    (acc.1 ++ [(x.2.2, natBits (value x.1) (8 * n * i) (8 * n))], acc.2 ++ [x.1])) ([], [])).1

/-- Write the pieces of a store in ascending lane order (05 R133). Those that fall in one line of WB or peer memory are one
write: monitors test the bytes as the whole store leaves them (R205). -/
def State.writeAll (s : State) (core n : Nat) (mark : Bool) (value : Nat → Nat) (l : List (Nat × DWord × Place)) : State :=
  let ps := storePieces n value l
  let merged (p : Place) : Bool := match p with
    | .phys q => !q.alone
    | .scratch _ _ | .line _ _ _ | .gone => false
  (ps.filter fun x => merged x.1).foldl (fun s x => s.notePlace n x.1) (ps.foldl (fun s x =>
    if merged x.1 then s.writeQuiet core mark n x.2 x.1 else s.writePlace core mark n x.2 x.1) s)

/-- The physical pieces of a store with their values, for the links. -/
def farPieces (n : Nat) (value : Nat → Nat) (l : List (Nat × DWord × Place)) : List (DWord × Phys × Nat) :=
  (l.foldl (fun (acc : List (DWord × Phys × Nat) × List Nat) x =>
    let i := (acc.2.filter fun y => y == x.1).length
    match x.2.2 with
    | .phys p => (acc.1 ++ [(x.2.1, p, natBits (value x.1) (8 * n * i) (8 * n))], acc.2 ++ [x.1])
    | .scratch _ _ | .line _ _ _ | .gone => (acc.1, acc.2 ++ [x.1])) ([], [])).1

/-- In shadow mode lanes 32 to 63 keep their copies of a private access in their own columns, 128 bytes on (05 R127). -/
def shadowCopies (st : Strand) (form : Form) (l : List (Nat × DWord × Place)) : List (Nat × DWord × Place) :=
  if st.shadow && decide (form = .priv) then l.map fun x => (x.1 + 32, x.2.1 + 128, x.2.2.shift 128) else []

/-- Store the lanes' values (R196, R200, R205); the causes of a form that makes one access are its entry's. The core's
write path holds 512 line writes to the host that are not acknowledged (15 R410), and as many to peers, a number that is the
model's choice (log 88). A store that is lost at once raises its asynchronous cause after the instruction's own (13 R347).
Only loads fill the L1 (05 R129): a private store updates a line that stands there and fills none, the model's choice where
R129 and R206 also speak of lines filled by `stpv` (log 107). -/
def State.storeLanes (s : State) (us : List Use) (form : Form) (align n : Nat) (r : Requests) (value : Nat → Nat)
    (uniform : Bool) (diff : Mask) : State :=
  let st := s.cur
  let e := candidate st
  let (s1, ch) := s.checkLanes st .write form align n r.reqs
  let (ok, bad) := splitLanes { ch with bad := r.bad ++ ch.bad }
  let rs := s1.shadowFaults diff (s1.faultRaises st e.pc .write (if uniform then some e.mask else none) bad)
  let good := e.mask &&& ~~~ raisedLanes rs
  let go := ok.filter fun x => uniform || good.getLsbD x.1
  let far := s1.outstandingOf st good n (farPieces n value go)
  let full (peer : Bool) : Bool :=
    decide (512 < (((s1.core st.core).outstanding ++ far).filter fun o => o.peer == peer).length)
  if full true || full false || s1.peerHeld (go.map fun x => x.2.2) || s1.guardWaits st ch.bad r.bad then s.stallWith 12
  else
    let s2 := if good = 0 then s1 else s1.popSources us
    let s3 := (s2.reach st.core true (go.map fun x => x.2.2)).writeAll st.core n (s2.core st.core).holdsOrdered value
      (go ++ shadowCopies st form go)
    let s4 := if diff = 0 then s3 else s3.countCheck st.core 7
    far.foldl (fun s o => s.trackStore st.core o)
      ((s4.watch st e.pc false true n (if uniform then go.flatMap fun x => (lanesOf e.mask).map fun l => (l, x.2.1)
        else go.map fun x => (x.1, x.2.1))).settle [(nextPc e.pc, good)] rs)

/-! ### Vector loads and stores (R200 to R205) -/

/-- The address of a lane: A + sext(imm9) x size (R195). -/
def State.laneAddress (s : State) (a : Code) (i : BitVec 9) (size : Nat) : Nat → DWord :=
  let x := s.vsrc64 a
  let off : DWord := i.signExtend 64 * BitVec.ofNat 64 size
  fun l => x.getD l 0 + off

def word0 (v : Nat) : List Word := [BitVec.ofNat 32 v]
/-- k words of a value, the lowest first. -/
def wordsOf (k v : Nat) : List Word := (List.range k).map fun i => BitVec.ofNat 32 (v / 2 ^ (32 * i))
/-- A value of so many bytes, sign-extended to 32 bits. -/
def signWord (bytes v : Nat) : List Word :=
  [BitVec.ofInt 32 (if v < 2 ^ (8 * bytes - 1) then (v : Int) else (v : Int) - 2 ^ (8 * bytes))]

/-- The vector loads (Table 7-3). -/
def vecLoad (size : Nat) (dst : Role) (words : Nat → List Word) (d a : Code) (i : BitVec 9) (s : State) :
    Host.Outcome State Fault Refusal :=
  let us : List Use := [⟨.vsrc64, a, false⟩, ⟨dst, d, false⟩]
  run s us [] false false fun s =>
    s.loadLanes us d { align := size, n := size, words := words }
      (laneRequests s.cur (candidate s.cur) (s.laneAddress a i size))

def execLdb (d a : Code) (i : BitVec 9) (s : State) := vecLoad 1 .vreg word0 d a i s
def execLdbs (d a : Code) (i : BitVec 9) (s : State) := vecLoad 1 .vreg (signWord 1) d a i s
def execLdh (d a : Code) (i : BitVec 9) (s : State) := vecLoad 2 .vreg word0 d a i s
def execLdhs (d a : Code) (i : BitVec 9) (s : State) := vecLoad 2 .vreg (signWord 2) d a i s
def execLdw (d a : Code) (i : BitVec 9) (s : State) := vecLoad 4 .vreg word0 d a i s
def execLdd (d a : Code) (i : BitVec 9) (s : State) := vecLoad 8 .vdst64 (wordsOf 2) d a i s
def execLdq (d a : Code) (i : BitVec 9) (s : State) := vecLoad 16 .vquad (wordsOf 4) d a i s

/-- The data of a store by lane (R201): 32 bits, 64 bits, or four lines. -/
def State.storeData (s : State) (size : Nat) (d : Code) : Nat → Nat :=
  if size = 16 then
    let st := s.cur
    let l (i : Nat) : Line := st.line (st.wb + d.toNat + i)
    let q := (l 0, l 1, l 2, l 3)
    fun n => (laneOf q.1 n).toNat + (laneOf q.2.1 n).toNat * 2 ^ 32 + (laneOf q.2.2.1 n).toNat * 2 ^ 64
      + (laneOf q.2.2.2 n).toNat * 2 ^ 96
  else if size = 8 then
    let x := s.vsrc64 d
    fun n => (x.getD n 0).toNat
  else
    let x := s.vsrc d
    fun n => (laneOf x n).toNat

/-- The source role of the data of a store. -/
def dataRole (size : Nat) : Role := if size = 16 then .vquadsrc else if size = 8 then .vsrc64 else .vsrc

/-- The vector stores (Table 7-3); `order` is what a release waits for first. -/
def vecStore (size : Nat) (us : List Use) (bad : Bool) (addr : State → Nat → DWord) (d : Code)
    (scope : Option Nat) (s : State) : Host.Outcome State Fault Refusal :=
  runCompare s us [] bad false fun s =>
    let st := s.cur
    let a := addr s
    let v := s.storeData size d
    let wait := match scope with
      | some x => s.releaseWaits st x
      | none => false
    let s1 := match scope with
      | some x => s.noteRelease st x
      | none => s
    if wait then s1.stallWith 12
    else
      let diff := s1.shadowDiff fun l h => a l == a h && v l % 2 ^ (8 * size) == v h % 2 ^ (8 * size)
      s1.storeLanes us .plain size size (laneRequests st (candidate st) a) v false diff

/-- The stores of the I format. -/
def immStore (size : Nat) (d a : Code) (i : BitVec 9) (s : State) : Host.Outcome State Fault Refusal :=
  vecStore size [⟨.vsrc64, a, false⟩, ⟨dataRole size, d, false⟩] false (fun s => s.laneAddress a i size) d none s

def execStb (d a : Code) (i : BitVec 9) (s : State) := immStore 1 d a i s
def execSth (d a : Code) (i : BitVec 9) (s : State) := immStore 2 d a i s
def execStw (d a : Code) (i : BitVec 9) (s : State) := immStore 4 d a i s
def execStd (d a : Code) (i : BitVec 9) (s : State) := immStore 8 d a i s
def execStq (d a : Code) (i : BitVec 9) (s : State) := immStore 16 d a i s

/-- The address of the indexed forms: A + 4 x sext(B[L]) (R204). -/
def State.indexAddress (s : State) (a b : Code) : Nat → DWord :=
  let x := s.vsrc64 a
  let y := s.vsrc b
  fun l => x.getD l 0 + 4 * (laneOf y l).signExtend 64

def execLdwx (e g : Bool) (d a b : Code) (s : State) : Host.Outcome State Fault Refusal :=
  let us : List Use := [⟨.vsrc64, a, e⟩, ⟨.vsrc, b, g⟩, ⟨.vreg, d, false⟩]
  run s us [] false false fun s =>
    s.loadLanes us d { align := 4, n := 4, words := word0 }
      (laneRequests s.cur (candidate s.cur) (s.indexAddress a b))

def execStwx (e g : Bool) (d a b : Code) (s : State) : Host.Outcome State Fault Refusal :=
  vecStore 4 [⟨.vsrc64, a, e⟩, ⟨.vsrc, b, g⟩, ⟨.vsrc, d, false⟩] false (fun s => s.indexAddress a b) d none s

/-! ### Scalar forms (R202, R203) -/

/-- The uniform address A + sext(imm9) x size. -/
def State.uniformAddress (s : State) (a : Code) (i : BitVec 9) (size : Nat) : DWord :=
  s.usrc a + i.signExtend 64 * BitVec.ofNat 64 size

/-- One access for the whole entry: its value, given to `k`, or its cause for every lane. -/
def State.loadUniform (s : State) (form : Form) (size : Nat) (home : Bool) (va : DWord)
    (k : State → Misses → Phys → Nat → State) : State :=
  let st := s.cur
  let e := candidate st
  let fail (x : LaneFault) (s1 : State) : State := s1.settle [] (s1.faultRaises st e.pc .read (some e.mask) [x])
  match s.checkLane st .read form size size 0 va with
  | (s1, .error x) => fail x s1
  | (s1, .ok p) =>
    let plan := s1.planMisses st.core home [p]
    if plan.wait then s.stallWith 12
    else
      match ((s1.reach st.core home [p]).takeMisses st.core false plan).readPlace st.core home size p with
      | (s2, .error c) => fail { lane := 0, cause := c, va := va } (s2.dropReplies st.core plan.replies)
      | (s2, .ok v) =>
        let q : Phys := match p with
          | .phys q => q
          | .scratch _ _ | .line _ _ _ | .gone => { loc := .dev, addr := 0, uc := false, locked := false }
        (k (s2.watch st e.pc true false size ((lanesOf e.mask).map fun l => (l, va))) plan q v).advance

/-- The producer of a uniform load into a scalar. -/
def scalarProducer (s : State) (e : Entry) (m : Nat) (va : DWord) (plan : Misses) (p : Phys) (v : Nat) : Producer :=
  { sent := s.sentLanes ((lanesOf e.mask).map fun l => (l, va, .phys p)), whole := e.mask, vas := (List.range 64).map fun l => (l, va), scalars := [(m, BitVec.ofNat 64 v)], replies := plan.replies, pc := e.pc, prio := e.prio, issued := s.now,
    hostLanes := if p.loc = .host ∨ p.loc = .mmio then e.mask else 0, peerLanes := if p.loc = .peer then e.mask else 0 }

/-- Give a scalar to its producer: a scalar write made at issue (06 R178, 04 R99). -/
def Strand.produce (st : Strand) (m : Nat) (p : Producer) : Strand :=
  { st.markScalarWrite.emptyScalar m with producers := st.producers ++ [p] }

/-- `sld` and `sldw` (R202). -/
def scalarLoad (size : Nat) (d a : Code) (i : BitVec 9) (s : State) : Host.Outcome State Fault Refusal :=
  let us : List Use := [⟨.useg, a, false⟩, ⟨.seg, d, false⟩]
  run s us [] false false fun s =>
    let e := candidate s.cur
    let m := d.toNat - 0x60
    let va := s.uniformAddress a i size
    s.loadUniform .plain size false va fun s1 plan p v =>
      s1.onCur fun st => st.produce m (scalarProducer s e m va plan p v)
def execSld (d a : Code) (i : BitVec 9) (s : State) := scalarLoad 8 d a i s
def execSldw (d a : Code) (i : BitVec 9) (s : State) := scalarLoad 4 d a i s

/-- `sst` and `sstw` (R202): one access whatever the mask holds, causes for the whole entry. -/
def scalarStore (size : Nat) (d a : Code) (i : BitVec 9) (s : State) : Host.Outcome State Fault Refusal :=
  let us : List Use := [⟨.useg, a, false⟩, ⟨.useg, d, false⟩]
  runCompare s us [] false false fun s =>
    let v := (s.usrc d).toNat
    let diff := s.shadowDiff fun _ _ => true
    if diff ≠ 0 then (s.countCheck s.cur.core 7).settle [] [mismatch diff (candidate s.cur).pc]
    else s.storeLanes us .plain size size { reqs := [(0, s.uniformAddress a i size)] } (fun _ => v) true 0
def execSst (d a : Code) (i : BitVec 9) (s : State) := scalarStore 8 d a i s
def execSstw (d a : Code) (i : BitVec 9) (s : State) := scalarStore 4 d a i s

/-- `ldbc` (R203). -/
def execLdbc (d a : Code) (i : BitVec 9) (s : State) : Host.Outcome State Fault Refusal :=
  let us : List Use := [⟨.useg, a, false⟩, ⟨.vreg, d, false⟩]
  run s us [] false false fun s =>
    let e := candidate s.cur
    let va := s.uniformAddress a i 4
    s.loadUniform .plain 4 false va fun s1 plan p v =>
      s1.onCur fun st =>
        let n := st.wb + d.toNat
        let x := mergeLine zeroLine e.mask fun _ => BitVec.ofNat 32 v
        { st.emptyLine n with
          producers := st.producers ++ [{ scalarProducer s e 0 va plan p v with scalars := [], lines := [(n, e.mask, x)] }] }

/-! ### Private accesses (05 R127, 07 R206) -/

/-- The address of byte p of a lane's private area. -/
def privAddress (base : DWord) (p : Int) (l : Nat) : DWord :=
  base + BitVec.ofInt 64 (p / 4 * 256 + 4 * (l : Int) + p % 4)

/-- The accesses of a private form: one word, or two in consecutive rows; 0x10 before 0x13 (R206). A supervisor strand has
no variant record: its private size is taken as 0, the model's choice (log 89). -/
def State.privRequests (s : State) (size : Nat) (a : Code) (o : BitVec 8) : Requests :=
  let st := s.cur
  let x := s.vsrc a
  let lim : Int := if st.sup then 0 else ((s.cohort st.ccb).variant.priv : Int)
  (accessLanes st (candidate st)).foldl (fun (r : Requests) l =>
    let p : Int := (laneOf x l).toInt + 4 * o.toInt
    let va := privAddress st.privBase p l
    if p % 4 ≠ 0 then { r with bad := r.bad ++ [{ lane := l, cause := .misaligned, va := va }] }
    else if p < 0 ∨ lim < p + size then { r with bad := r.bad ++ [{ lane := l, cause := .privateGuard, va := va }] }
    else { r with reqs := r.reqs ++ (List.range (size / 4)).map fun i => (l, va + BitVec.ofNat 64 (256 * i)) }) {}

def execLdpv (d a : Code) (z : Bool) (o : BitVec 8) (s : State) : Host.Outcome State Fault Refusal :=
  let size := if z then 8 else 4
  let us : List Use := [⟨.vsrc, a, false⟩, ⟨if z then .vdst64 else .vreg, d, false⟩]
  run s us [] false false fun s =>
    s.loadLanes us d { form := .priv, align := 4, n := 4, words := wordsOf (size / 4) } (s.privRequests size a o)

def execStpv (d a : Code) (z : Bool) (o : BitVec 8) (s : State) : Host.Outcome State Fault Refusal :=
  let size := if z then 8 else 4
  let us : List Use := [⟨.vsrc, a, false⟩, ⟨if z then .vpairsrc else .vsrc, d, false⟩]
  runCompare s us [] false false fun s =>
    let v := s.storeData size d
    let x := s.vsrc a
    let diff := s.shadowDiff fun l h => laneOf x l == laneOf x h && v l % 2 ^ (8 * size) == v h % 2 ^ (8 * size)
    s.storeLanes us .priv 4 4 (s.privRequests size a o) v false diff

/-! ### Acquires, releases and fences (R207 to R212) -/

/-- The lines of the promotion marks that an acquire at .rm reads (R210). -/
def State.markedLines (s : State) (l : List (Nat × DWord × Place)) : List Nat :=
  l.filterMap fun x => match x.2.2 with
    | .phys p => if Tab.has s.marks p.lineKey then some p.lineKey else none
    | .scratch _ _ | .line _ _ _ | .gone => none

/-- The sizes that .n32 and .n64 name. -/
def typeSize (z : BitVec 2) : Nat := if z = 1 then 8 else 4

/-- `lda` (R207, R209): an acquire at .rm of a marked line waits until the mark is cleared (R210). -/
def execLda (d a : Code) (sel : BitVec 3) (z : BitVec 2) (s : State) : Host.Outcome State Fault Refusal :=
  let size := typeSize z
  let us : List Use := [⟨.vsrc64, a, false⟩, ⟨if size = 8 then .vdst64 else .vreg, d, false⟩]
  run s us [] (decide (5 < sel.toNat ∨ 1 < z.toNat)) false fun s =>
    let st := s.cur
    let r := laneRequests st (candidate st) (s.laneAddress a 0 size)
    let marked := (s.checkLanes st .read .plain size size r.reqs).2.ok
    if sel = 5 ∧ s.markedLines marked ≠ [] then s.stallWith 12
    else
      s.loadLanes us d {
        align := size, n := size, home := decide (2 ≤ sel.toNat), scope := sel.toNat, words := wordsOf (size / 4) } r

/-- `stl` (R207, R208): .rm and the reserved sizes raise 0x01. -/
def execStl (d a : Code) (sel : BitVec 3) (z : BitVec 2) (s : State) : Host.Outcome State Fault Refusal :=
  let size := typeSize z
  vecStore size [⟨.vsrc64, a, false⟩, ⟨dataRole size, d, false⟩] (decide (4 < sel.toNat ∨ 1 < z.toNat))
    (fun s => s.laneAddress a 0 size) d (some sel.toNat) s

/-- `fence` (R211): `fence.rm` releases at .dv and acquires at .rm. -/
def execFence (sel : BitVec 3) (s : State) : Host.Outcome State Fault Refusal :=
  run s [] [] (decide (5 < sel.toNat)) false fun s =>
    let st := s.cur
    let scope := if sel = 5 then 3 else sel.toNat
    let s1 := s.noteRelease st scope
    if s.releaseWaits st scope then s1.stallWith 12 else (s1.acquire st.core sel.toNat).advance

/-- `xfence` (R212): the first path is waited for, a flush is made for hr, and the L1 is invalidated for ls, private lines
included: what other paths wrote does not pass through it (05 R141). -/
def execXfence (sel p q : BitVec 3) (s : State) : Host.Outcome State Fault Refusal :=
  run s [] [] (decide (4 < sel.toNat ∨ p = 7 ∨ q = 7)) false fun s =>
    let st := s.cur
    let flush := decide (p = 5) && s.flushWaits st
    let s1 := if flush then s.sendFlush st else s
    if flush || ((p == 0 || p == 6) && s.releaseWaits st sel.toNat) then (s1.noteRelease st sel.toNat).stallWith 12
    else (if q = 0 then s1.dropL1 st.core else s1).advance

/-! ### Cache control (R225) -/

/-- The lines that the lanes of an instruction of cache control name. A cause names the first byte of the line, the model's
choice: R225 leaves open whether TADDR is that or the lane's own address (log 108). -/
def State.controlRequests (s : State) (a : Code) (i : BitVec 9) : Requests :=
  let st := s.cur
  let r := laneRequests st (candidate st) (s.laneAddress a i 128)
  { reqs := (r.reqs.filter fun x => !(canonical x.2 && inAperture x.2)).map fun x =>
      (x.1, BitVec.ofNat 64 (x.2.toNat / 128 * 128)) }

/-- The translation that an access would find, with nothing installed and no bit set (12 R340). -/
inductive Probe where
  | leaf (x level : Nat)
  | fail (c : Cause) (level : Nat)
  | noSlot
  deriving DecidableEq, Repr

def State.probe (s : State) (core pasid : Nat) (user : Bool) (k : Access) (va : Nat) : Probe :=
  match s.rootOf pasid with
  | none => .noSlot
  | some root =>
    let found := match s.cachedLeaf (some core) pasid va with
      | some (x, l) => some (x, l, 0)
      | none => match s.walk pasid root va with
        | .leaf x l _ _ => some (x, l, l)
        | .fail _ _ => none
    match found with
    | some (x, l, w) =>
      match leafCause x user k with
      | some c => .fail c w
      | none => .leaf x l
    | none =>
      match s.walk pasid root va with
      | .fail c l => .fail c l
      | .leaf x l _ _ => .leaf x l

/-- `pref`: no cause; the lines that can be read are asked for, once the entries that they need are free (R193). -/
def execPref (a : Code) (i : BitVec 9) (s : State) : Host.Outcome State Fault Refusal :=
  run s [⟨.vsrc64, a, false⟩] [] false false fun s =>
    let st := s.cur
    let (s1, places) := (s.controlRequests a i).reqs.foldl (fun (acc : State × List Place) x =>
      if !canonical x.2 then acc
      else match acc.1.probe st.core (s.pasidOf st) (!st.sup) .read x.2.toNat with
        | .leaf l lv =>
          let (s1, p) := acc.1.atsPlace (s.pasidOf st) x.2.toNat (leafPhys l lv x.2.toNat)
          (s1, if p.cacheable && (s1.imagePlace st .read .cache p).isSome then acc.2 ++ [Place.phys p] else acc.2)
        | .fail _ _ | .noSlot => acc) (s, [])
    let plan := s1.planMisses st.core false places
    if plan.wait then s.stallWith 12 else (s1.takeMisses st.core false plan).advance

/-- `cinv` and `cwb`: the causes of a read; `act` is done to each line once. -/
def cacheControl (act : State → Nat → State) (a : Code) (i : BitVec 9) (s : State) :
    Host.Outcome State Fault Refusal :=
  run s [⟨.vsrc64, a, false⟩] [] false false fun s =>
    let st := s.cur
    let e := candidate st
    let (s1, ch) := s.checkLanes st .read .cache 1 128 (s.controlRequests a i).reqs
    let rs := s1.faultRaises st e.pc .read none ch.bad
    let keys := distinct (ch.ok.filterMap fun x => match x.2.2 with
      | .phys p => some p.lineKey
      | .scratch _ _ | .line _ _ _ | .gone => none)
    (keys.foldl act s1).settle [(nextPc e.pc, e.mask &&& ~~~ raisedLanes rs)] rs

/-- `cinv`: the core's copy of each line goes. -/
def execCinv (a : Code) (i : BitVec 9) (s : State) : Host.Outcome State Fault Refusal :=
  let core := s.cur.core
  cacheControl (fun s key => s.setCore core { s.core core with l1 := Tab.del (s.core core).l1 key }) a i s
/-- `cwb`: the home slice writes the line to its backing store, which changes no value that a read returns. -/
def execCwb (a : Code) (i : BitVec 9) (s : State) : Host.Outcome State Fault Refusal :=
  cacheControl (fun s _ => s) a i s

/-! ### The engine's own steps -/

/-- L1_FILL: the fill of a missed line arrives; the entry is free and the line stands in the L1 (R213). -/
def execL1Fill (core line : Nat) (s : State) : Host.Outcome State Fault Refusal :=
  let k := s.core core
  match k.misses.find? fun m => m.line == line with
  | none => .next s
  | some m =>
    .next ((s.setCore core { k with misses := k.misses.filter fun x => x.line != line }).fillLine core line m.priv)

/-- STORE_LOST: a store on its way to a host or peer page is lost (R197). -/
def execStoreLost (core place : Nat) (s : State) : Host.Outcome State Fault Refusal :=
  let k := s.core core
  match k.outstanding[place]? with
  | none => .next s
  | some o => .next ((s.setCore core { k with outstanding := k.outstanding.eraseIdx place }).loseStore core o)

/-- The lanes of a strand leave the entries they stand in and take causes at an instruction that they issued before. -/
def State.takeBack (s : State) (key : Nat) (e : Entry) (rs : List Raise) : State :=
  let st := s.strand key
  let live := (st.frontier.filter fun x => !x.parked && !x.pending).foldl (fun (m : Mask) x => m ||| x.mask) 0
  let m := live &&& raisedLanes rs
  let cut := (st.frontier.map fun x => if x.parked || x.pending then x else { x with mask := x.mask &&& ~~~ m }).filter fun x =>
    decide (x.mask ≠ 0)
  ((orderRaises ((rs.map fun r => { r with mask := r.mask &&& live }).filter fun r => decide (r.mask ≠ 0))).foldl
    (fun s r => s.takeCause key { e with mask := r.mask } r) (s.setStrand key (st.setFrontier cut))).afterFrontier key

/-- The causes of lanes that were not answered within LATMAX, with the addresses that they named (R196). -/
def timeoutRaises (vas : List (Nat × DWord)) (peer host : Mask) : List Raise :=
  let low (m : Mask) : DWord := lowest ((vas.filter fun x => m.getLsbD x.1).map fun x => x.2)
  [{ cause := .peerLink, mask := peer, taddr := low peer, data := true },
    { cause := .hostLink, mask := host, taddr := low host, data := true }]

/-- A wait at a host or peer page is not answered: it is over, and the lanes at it take the cause (R196, R223). -/
def State.timeoutWait (s : State) (key : Nat) (w : Wait) : State :=
  let st := s.strand key
  match st.frontier.find? fun e => e.pc == w.pc && !e.parked, (s.engineAddr (s.pasidOf st) w.va.toNat).map fun p => p.loc with
  | some e, some l =>
    let rs := timeoutRaises ((List.range 64).map fun l => (l, w.va)) (if l = .peer then e.mask else 0) (if l = .host then e.mask else 0)
    if raisedLanes rs = 0 then s
    else ((s.releaseMonitors fun m => m.at_ key w.pc).setStrand key (st.leaveWaits fun x => x.pc == w.pc)).takeBack key e rs
  | _, _ => s

/-- A load or an atomic without some of its lanes, which have failed. -/
def Producer.without (p : Producer) (m : Mask) : Producer :=
  { p with
    lines := p.lines.map fun x => (x.1, x.2.1 &&& ~~~ m, x.2.2), scalars := []
    hostLanes := p.hostLanes &&& ~~~ m, peerLanes := p.peerLanes &&& ~~~ m }

/-- ACCESS_TIMEOUT: lanes of an outstanding load or atomic that went to a host or peer page and are not answered within
LATMAX raise 0x1C or 0x1B before their elements are written; they park at the instruction itself, whatever they have
issued since (R196; log 24). A form that makes one access raises its cause for every lane of its entry (R202, R203), and
in shadow mode a lane raises it with its twin (R199). Places after the producers name the waits of the strand. -/
def execAccessTimeout (key place : Nat) (lanes : Mask) (s : State) : Host.Outcome State Fault Refusal :=
  let st := s.strand key
  match st.producers[place]? with
  | some p =>
    let all := st.twinMask (lanes &&& (if st.shadow then 0xFFFFFFFF else BitVec.allOnes 64))
    let hit (m : Mask) : Mask := if p.whole = 0 then all &&& m else if lanes &&& m = 0 then 0 else p.whole
    let peer := hit p.peerLanes
    let host := hit p.hostLanes &&& ~~~ peer
    let m := peer ||| host
    if m = 0 then .next s
    else
      let full := p.scalars.foldl (fun st x => { st with sFull := setBit st.sFull x.1 true }) st
      .next ((s.setStrand key { full with producers := st.producers.set place (p.without m) }).takeBack key
        { pc := p.pc, prio := p.prio } (timeoutRaises p.vas peer host))
  | none =>
    match st.waits[place - st.producers.length]? with
    | none => .next s
    | some w => .next (s.timeoutWait key w)

/-- PROMOTION_REQUEST: the core that a marked line names performs every access that the marked release orders, and
the mark is cleared (R210). -/
def execPromotionRequest (line : Nat) (s : State) : Host.Outcome State Fault Refusal :=
  if Tab.has s.marks line then
    let core := Tab.get 0 s.marks line
    let k := s.core core
    .next { s.setCore core { k with outstanding := k.outstanding.filter fun o => !(o.ordered && o.peer) } with
      marks := Tab.del s.marks line }
  else .next s

end Sys2Proof.Machine
end

