-- ==== Sys2Proof/Machine/Atomics.lean ====
section
/-! DEFINITION. Atomics, waits on memory and the steps of the condition monitors (07 R214 to R223; 14 R400). -/

namespace Sys2Proof.Machine

/-! ### Values (Tables 7-4 and 7-5, R217) -/

/-- A signed reading of a 32-bit value. -/
def signed32 (x : Nat) : Int := (BitVec.ofNat 32 x).toInt
def opAtadd (m b _ : Nat) : Nat := (m + b) % 2 ^ 32
def opAtmins (m b _ : Nat) : Nat := if signed32 b < signed32 m then b else m
def opAtminu (m b _ : Nat) : Nat := min m b
def opAtmaxs (m b _ : Nat) : Nat := if signed32 m < signed32 b then b else m
def opAtmaxu (m b _ : Nat) : Nat := max m b
def opAtand (m b _ : Nat) : Nat := Nat.land m b
def opAtor (m b _ : Nat) : Nat := Nat.lor m b
def opAtxor (m b _ : Nat) : Nat := Nat.xor m b
def opAtxchg (_ b _ : Nat) : Nat := b
def opAtcas (m b d : Nat) : Nat := if m = d then b else m
/-- m + b to nearest, ties to even, without flags (R217). -/
def opAtfadd (m b _ : Nat) : Nat := (Fmt.f32.add 0 m b).1
def opAtdadd (m b _ : Nat) : Nat := (m + b) % 2 ^ 64
def opVatbadd (m b _ : Nat) : Nat := (Fmt.bf16.add 0 m b).1
/-- A number's order, +0 above -0. -/
def fpOrder (x : Nat) : Int := if x < 2 ^ 31 then (x : Int) else -((x : Int) - 2 ^ 31) - 1
/-- The larger of two numbers; the number beside a NaN; the canonical NaN for two (R217). -/
def opVatfmax (m b _ : Nat) : Nat :=
  if (Fmt.f32.decode m).isNan then (if (Fmt.f32.decode b).isNan then 0x7FC00000 else b)
  else if (Fmt.f32.decode b).isNan then m
  else if fpOrder m < fpOrder b then b else m

/-! ### Groups (R215) -/

/-- One element's operation: its place, its lane, its operand and compare value. -/
structure ElementOp where
  lane : Nat
  place : Place
  b : Nat
  d : Nat
  deriving DecidableEq, Repr

/-- The present value of an element among those already computed, or as read. Two pages that map one frame name one
element (05 R144). -/
def valueOf (vals : List (Place × Nat)) (p : Place) (v : Nat) : Nat :=
  match vals.find? fun x => decide (x.1.bare = p.bare) with
  | some x => x.2
  | none => v

/-- Perform the lanes in ascending order, each element one read-modify-write: the old values by lane, the places
with their final values, and the late causes. -/
def State.groupAtomics (s : State) (core n : Nat) (op : Nat → Nat → Nat → Nat) (l : List (ElementOp × DWord)) :
    State × List (Nat × Nat) × List (Place × Nat) × List LaneFault :=
  l.foldl (fun acc x =>
    let o := x.1
    match acc.1.readPlace core true n o.place with
    | (s1, .error c) => (s1, acc.2.1, acc.2.2.1, acc.2.2.2 ++ [{ lane := o.lane, cause := c, va := x.2 }])
    | (s1, .ok v) =>
      let m := valueOf acc.2.2.1 o.place v
      let new := (o.place, op m o.b o.d)
      (s1, acc.2.1 ++ [(o.lane, m)], acc.2.2.1.filter (fun y => decide (y.1.bare ≠ o.place.bare)) ++ [new], acc.2.2.2))
    (s, [], [], [])

/-- An atomic instruction: its elements by lane with their addresses are checked, performed, and their old values
given to `k` with the lanes that had no cause (R214 to R216). -/
def State.atomicLanes (s : State) (us : List Use) (align n : Nat) (narrow : Bool) (op : Nat → Nat → Nat → Nat)
    (addr : Nat → DWord) (elems : Nat) (b d : Nat → Nat → Nat) (diff : Mask)
    (k : State → Mask → List (Nat × Nat) → Misses → List (Nat × DWord × Place) → State) : State :=
  let st := s.cur
  let e := candidate st
  let (s1, ch) := s.checkLanes st .atomic (.atomic narrow) align (n * elems) (laneRequests st e addr).reqs
  let plan := s1.planAtomics st.core (ch.ok.map fun x => x.2.2)
  if plan.wait then s.stallWith 12
  else
    let ops := (ch.ok.filter fun x => !diff.getLsbD x.1).flatMap fun x =>
      (List.range elems).map fun i =>
        (({ lane := x.1, place := x.2.2.shift (n * i), b := b x.1 i, d := d x.1 i } : ElementOp), x.2.1)
    let (s2, olds, news, late) :=
      ((s1.reach st.core true (ch.ok.map fun x => x.2.2)).takeMisses st.core false plan).groupAtomics st.core n op ops
    let rs := s2.shadowFaults diff (s2.faultRaises st e.pc .atomic none (ch.bad ++ late))
    let good := e.mask &&& ~~~ raisedLanes rs
    let s3 := news.foldl (fun s x => s.writePlace st.core (s.core st.core).holdsOrdered n x.2 x.1)
      (if good = 0 then s2.dropReplies st.core plan.replies else s2.popSources us)
    let s4 := if diff = 0 then s3 else s3.countCheck st.core 7
    ((k s4 good olds plan ch.ok).watch st e.pc true true (n * elems)
      ((ch.ok.filter fun x => good.getLsbD x.1).map fun x => (x.1, x.2.1))).settle
      [(nextPc e.pc, good)] rs

/-- The producer of an atomic: it holds its miss-status entries until the reply (R213). -/
def atomicProducer (s : State) (st : Strand) (good : Mask) (lines : List (Nat × Mask × Line)) (plan : Misses)
    (ok : List (Nat × DWord × Place)) : Producer :=
  { lines := lines, replies := plan.replies, hostLanes := st.twinMask (lanesMask (lanesAt .host ok)) &&& good
    peerLanes := st.twinMask (lanesMask (lanesAt .peer ok)) &&& good, vas := ok.map fun x => (x.1, x.2.1), sent := s.sentLanes ok
    pc := (candidate st).pc, prio := (candidate st).prio, issued := s.now }

/-- The scalar-element atomics (R214): D receives the old values. -/
def atomic (n : Nat) (op : Nat → Nat → Nat → Nat) (cas e g : Bool) (d a b : Code) (s : State) :
    Host.Outcome State Fault Refusal :=
  let wide := decide (n = 8)
  let us : List Use := [⟨.vsrc64, a, e⟩, ⟨if wide then .vsrc64 else .vsrc, b, g⟩, ⟨if wide then .vdst64 else .vreg, d, false⟩]
  runCompare s us [] false false fun s =>
    let value (c : Code) : Nat → Nat :=
      if wide then (let x := s.vsrc64 c; fun l => (x.getD l 0).toNat) else (let x := s.vsrc c; fun l => (laneOf x l).toNat)
    let addr := s.laneAddress a 0 n
    let y := value b
    let z := value d
    let diff := s.shadowDiff fun l h => addr l == addr h && y l == y h && (!cas || z l == z h)
    s.atomicLanes us n n false op addr 1 (fun l _ => y l) (fun l _ => z l) diff fun s1 good olds plan ok =>
      if good = 0 then s1
      else
        s1.onCur fun st =>
          let old (l : Nat) : Nat := ((olds.find? fun x => x.1 == if st.shadow then l % 32 else l).map fun x => x.2).getD 0
          let lines := (List.range (n / 4)).map fun i =>
            (st.wb + d.toNat + i, good, mergeLine zeroLine good fun l => (wordsOf (n / 4) (old l)).getD i 0)
          { lines.foldl (fun st x => st.emptyLine x.1) st with
            producers := st.producers ++ [atomicProducer s st good lines plan ok] }

def execAtadd (e g : Bool) (d a b : Code) (s : State) := atomic 4 opAtadd false e g d a b s
def execAtmins (e g : Bool) (d a b : Code) (s : State) := atomic 4 opAtmins false e g d a b s
def execAtminu (e g : Bool) (d a b : Code) (s : State) := atomic 4 opAtminu false e g d a b s
def execAtmaxs (e g : Bool) (d a b : Code) (s : State) := atomic 4 opAtmaxs false e g d a b s
def execAtmaxu (e g : Bool) (d a b : Code) (s : State) := atomic 4 opAtmaxu false e g d a b s
def execAtand (e g : Bool) (d a b : Code) (s : State) := atomic 4 opAtand false e g d a b s
def execAtor (e g : Bool) (d a b : Code) (s : State) := atomic 4 opAtor false e g d a b s
def execAtxor (e g : Bool) (d a b : Code) (s : State) := atomic 4 opAtxor false e g d a b s
def execAtxchg (e g : Bool) (d a b : Code) (s : State) := atomic 4 opAtxchg false e g d a b s
def execAtcas (e g : Bool) (d a b : Code) (s : State) := atomic 4 opAtcas true e g d a b s
def execAtfadd (e g : Bool) (d a b : Code) (s : State) := atomic 4 opAtfadd false e g d a b s
def execAtdadd (e g : Bool) (d a b : Code) (s : State) := atomic 8 opAtdadd false e g d a b s
def execAtdcas (e g : Bool) (d a b : Code) (s : State) := atomic 8 opAtcas true e g d a b s

/-- The vector atomics (R216): elements of n bytes of the 32 at each lane's address; nothing is returned, and the
miss-status entries are held until the reply. -/
def vectorAtomic (n : Nat) (op : Nat → Nat → Nat → Nat) (e g : Bool) (a b : Code) (s : State) :
    Host.Outcome State Fault Refusal :=
  let us : List Use := [⟨.vsrc64, a, e⟩, ⟨.voct, b, g⟩]
  runCompare s us [] false false fun s =>
    let st := s.cur
    let addr := s.laneAddress a 0 1
    let operand (l i : Nat) : Nat :=
      natBits (laneOf (st.line (st.wb + b.toNat + n * i / 4)) l).toNat (8 * (n * i % 4)) (8 * n)
    let diff := s.shadowDiff fun l h => addr l == addr h
      && (List.range 8).all fun i => laneOf (st.line (st.wb + b.toNat + i)) l == laneOf (st.line (st.wb + b.toNat + i)) h
    s.atomicLanes us 32 n (decide (n < 4)) op addr (32 / n) operand (fun _ _ => 0) diff fun s1 good _ plan ok =>
      if good = 0 then s1
      else s1.onCur fun st => { st with producers := st.producers ++ [atomicProducer s st good [] plan ok] }

def execVatfadd (e g : Bool) (a b : Code) (s : State) := vectorAtomic 4 opAtfadd e g a b s
def execVatbadd (e g : Bool) (a b : Code) (s : State) := vectorAtomic 2 opVatbadd e g a b s
def execVatfmax (e g : Bool) (a b : Code) (s : State) := vectorAtomic 4 opVatfmax e g a b s
def execVatiadd (e g : Bool) (a b : Code) (s : State) := vectorAtomic 4 opAtadd e g a b s

/-! ### Waits (R219, R220) -/

/-- `waitc` (R219): the reserved condition and scopes raise 0x01. -/
def execWaitc (e g : Bool) (sel : BitVec 3) (t : BitVec 4) (c : BitVec 2) (w : Bool) (r : BitVec 4) (b : BitVec 7)
    (s : State) : Host.Outcome State Fault Refusal :=
  let us : List Use := [⟨.ssrc, r.zeroExtend 7, e⟩, ⟨.useg, b, g⟩, ⟨.sreg, t.zeroExtend 7, false⟩]
  runCompare s us [] (decide (c = 3 ∨ 5 < sel.toNat)) false fun s =>
    let v := (s.usrc b).toNat
    s.comparePoint true fun s =>
      s.waitOn (s.ssrc (r.zeroExtend 7)) w c.toNat (if w then v else v % 2 ^ 32) sel.toNat (some t.toNat) false

/-- `cwp` (10 R284): a wait of 8 bytes for at least B, with no status. -/
def execCwp (e g : Bool) (a b : Code) (s : State) : Host.Outcome State Fault Refusal :=
  runPoint s [⟨.sseg, a, e⟩, ⟨.useg, b, g⟩] [] false false fun s =>
    s.waitOn (s.usrc a) true 2 (s.usrc b).toNat 3 none true

/-- `cwait` (10 R285): a wait of 8 bytes for a value that is not zero. -/
def execCwait (e : Bool) (a : Code) (s : State) : Host.Outcome State Fault Refusal :=
  runPoint s [⟨.sseg, a, e⟩] [] false false fun s => s.waitOn (s.usrc a) true 1 0 3 none true

/-! ### Steps of the monitors (R221, R222; 14 R400) -/

/-- MONITOR_FIRE: an entry whose condition a write has met fires and frees itself; its strand is told. -/
def execMonitorFire (place : Nat) (s : State) : Host.Outcome State Fault Refusal :=
  match s.monitors.find? fun x => x.1 == place with
  | none => .next s
  | some x =>
    if !x.2.due then .next s
    else
      let s1 := { s with monitors := Tab.del s.monitors place }
      match x.2.waiter with
      | .strand key _ =>
        let st := s1.strand key
        .next (s1.setStrand key { st with
          waits := st.waits.map fun w => if w.how = .armed place then { w with how := .fired } else w })
      | .tail q | .status q =>
        .next { s1 with disp := { s1.disp with
          queues := Tab.put s1.disp.queues q { (Tab.get {} s1.disp.queues q : Queue) with due := true } } }
      | .peer aid => .next (s1.output (.peerFire aid x.2.addr))

/-- Whether a strand may go on from a wait: hot and not halted by the debugger, or the supervisor strand (R223). -/
def State.wakes (s : State) (st : Strand) : Bool :=
  st.sup || (decide ((s.cohort st.ccb).residency = .hot) && !(s.cohort st.ccb).halted)

/-- MONITOR_WAKE: a resident strand whose monitor has fired goes on with status 0 (R220), at .rm once the promotion that
its line's mark asks for is made (R210). -/
def execMonitorWake (key : Nat) (s : State) : Host.Outcome State Fault Refusal :=
  let s1 := s.dropWait key
  let st := s1.strand key
  match st.waits.find? fun w => decide (w.how = .fired) with
  | some w =>
    let marked := ((s1.engineAddr (s1.pasidOf st) w.va.toNat).map fun p => s1.promotes w.scope p).getD false
    .next (if s1.wakes st && !marked then s1.completeWait key w 0 else s1)
  | none => .next s1

/-- WAITC_POLL: a polling strand's element is read again at its home; a strand that is not hot is marked (R222). A poll
that fails raises its late cause for the entry (R196). -/
def execWaitcPoll (key : Nat) (s : State) : Host.Outcome State Fault Refusal :=
  let s1 := s.dropWait key
  let st := s1.strand key
  match st.waits.find? fun w => decide (w.how = .polling) with
  | none => .next s1
  | some w =>
    match s1.engineAddr (s1.pasidOf st) w.va.toNat, st.frontier.find? fun e => e.pc == w.pc && !e.parked with
    | some p, some e =>
      match s1.lateCause p (if w.wide then 8 else 4) with
      | some c =>
        if s1.wakes st then
          .next ((s1.setStrand key (st.leaveWaits fun x => x.pc == w.pc)).takeBack key e
            (s1.faultRaises st e.pc .read (some e.mask) [{ lane := 0, cause := c, va := w.va }]))
        else .next s1
      | none =>
        if s1.promotes w.scope p || !condHolds w.cond (s1.elementAt p w.wide) w.cmp then .next s1
        else if s1.wakes st then .next (s1.completeWait key w 1)
        else .next (s1.setStrand key (st.setWait { w with how := .fired }))
    | _, _ => .next s1

end Sys2Proof.Machine
end

