-- ==== Sys2Proof/Machine/Digest.lean ====
section
/-! DEFINITION. SHAKE256 with an output of 32 bytes, the digest of the hold-up log and of measurements (16 Tables 16-8 and
16-9; 19 R482), as the hash standard gives it (log 14). -/

namespace Sys2Proof.Machine

/-- The 25 lanes of the sponge. -/
abbrev Sponge := List (BitVec 64)

/-- Lane x + 5 y. -/
def spongeLane (a : Sponge) (x y : Nat) : BitVec 64 := a.getD (x % 5 + 5 * (y % 5)) 0

def spongeMap (f : Nat → Nat → BitVec 64) : Sponge := (List.range 25).map fun i => f (i % 5) (i / 5)

/-- The rotation of each lane, in lane order. -/
def spongeRotations : List Nat :=
  [0, 1, 62, 28, 27, 36, 44, 6, 55, 20, 3, 10, 43, 25, 39, 41, 45, 15, 21, 8, 18, 2, 61, 56, 14]

/-- The constants of the 24 rounds. -/
def spongeConstants : List (BitVec 64) :=
  [0x0000000000000001, 0x0000000000008082, 0x800000000000808A, 0x8000000080008000, 0x000000000000808B, 0x0000000080000001,
   0x8000000080008081, 0x8000000000008009, 0x000000000000008A, 0x0000000000000088, 0x0000000080008009, 0x000000008000000A]
  ++ [0x000000008000808B, 0x800000000000008B, 0x8000000000008089, 0x8000000000008003, 0x8000000000008002, 0x8000000000000080,
   0x000000000000800A, 0x800000008000000A, 0x8000000080008081, 0x8000000000008080, 0x0000000080000001, 0x8000000080008008]

/-- One round. -/
def spongeRound (a : Sponge) (rc : BitVec 64) : Sponge :=
  let c := (List.range 5).map fun x =>
    spongeLane a x 0 ^^^ spongeLane a x 1 ^^^ spongeLane a x 2 ^^^ spongeLane a x 3 ^^^ spongeLane a x 4
  let t := spongeMap fun x y => spongeLane a x y ^^^ c.getD ((x + 4) % 5) 0 ^^^ (c.getD ((x + 1) % 5) 0).rotateLeft 1
  let r := (t.zip spongeRotations).map fun p => p.1.rotateLeft p.2
  -- lane (y, 2x + 3y) takes lane (x, y)
  let b := spongeMap fun x y => spongeLane r (x + 3 * y) x
  let n := spongeMap fun x y => spongeLane b x y ^^^ (~~~ spongeLane b (x + 1) y &&& spongeLane b (x + 2) y)
  match n with
  | [] => []
  | h :: u => (h ^^^ rc) :: u

def sponge (a : Sponge) : Sponge := spongeConstants.foldl spongeRound a

/-- The bytes of a message as 64-bit lanes of its blocks, with the padding of SHAKE256: blocks of 136 bytes. -/
def paddedByte (n : Nat) (byte : Nat → Nat) (i : Nat) : Nat :=
  let last := n / 136 * 136 + 135
  (if i < n then byte i else if i = n then 0x1F else 0) + (if i = last then 0x80 else 0)

/-- SHAKE256 of n bytes, given by place: the first 32 bytes as a number, lowest byte first. -/
def shake256 (n : Nat) (byte : Nat → Nat) : Nat :=
  let out := (List.range (n / 136 + 1)).foldl (fun (a : Sponge) b =>
    sponge (a.zipIdx.map fun x =>
      if x.2 < 17 then
        x.1 ^^^ BitVec.ofNat 64 ((List.range 8).foldr (fun i acc => paddedByte n byte (136 * b + 8 * x.2 + i) + 256 * acc) 0)
      else x.1)) (List.replicate 25 0)
  (out.take 4).foldr (fun w acc => w.toNat + 2 ^ 64 * acc) 0

/-- SHAKE256 of the low n bytes of a number, lowest byte first. -/
def shakeNat (n v : Nat) : Nat := shake256 n fun i => v / 256 ^ i % 256

end Sys2Proof.Machine
end

