-- ==== Sys2Proof/Machine/Transcend.lean ====
section
/-! DEFINITION. Bounds of exponentials, logarithms, sines and hyperbolic tangents, and their correct rounding to
nearest-even (09 R259, R260): a bound below and above the exact value is refined until both round to one value. -/

namespace Sys2Proof.Machine

/-- A pair of bounds, both in units of 2^-p for a precision p given beside it. -/
structure Bounds where
  lo : Int
  hi : Int
  deriving DecidableEq, Repr

/-- Division toward plus infinity. -/
def ceilDiv (a b : Int) : Int := -((-a) / b)

def Bounds.add (x y : Bounds) : Bounds := ⟨x.lo + y.lo, x.hi + y.hi⟩
def Bounds.neg (x : Bounds) : Bounds := ⟨-x.hi, -x.lo⟩
/-- The product of non-negative bounds. -/
def Bounds.mul (p : Nat) (x y : Bounds) : Bounds :=
  ⟨x.lo * y.lo / 2 ^ p, ceilDiv (x.hi * y.hi) (2 ^ p)⟩
/-- Bounds divided by a positive number. -/
def Bounds.divNat (x : Bounds) (n : Nat) : Bounds := ⟨x.lo / n, ceilDiv x.hi n⟩
/-- A non-negative dyadic number m x 2^e in units of 2^-p. -/
def dyadic (p m : Nat) (e : Int) : Bounds :=
  let s := e + p
  if 0 ≤ s then ⟨m * 2 ^ s.toNat, m * 2 ^ s.toNat⟩
  else ⟨(m / 2 ^ (-s).toNat : Nat), (m / 2 ^ (-s).toNat + 1 : Nat)⟩

/-- Sum of t, t x/(k+1), t x^2/((k+1)(k+2)), ...: the exponential series with the rest bounded by the last term
twice, for x at most 1. -/
def expSeries (p : Nat) (x : Bounds) : Nat → Nat → Bounds → Bounds → Bounds
  | 0, _, t, acc => acc.add ⟨0, 2 * t.hi⟩
  | fuel + 1, k, t, acc =>
    let t1 := (t.mul p x).divNat (k + 1)
    if t1.hi ≤ 1 then acc.add ⟨0, 4⟩
    else expSeries p x fuel (k + 1) t1 (acc.add t1)

/-- Sum of 1/(k 2^k): ln 2. -/
def ln2Series (p : Nat) : Nat → Nat → Bounds → Bounds
  | 0, _, acc => acc.add ⟨0, 2⟩
  | fuel + 1, k, acc =>
    let t : Int := (2 ^ p / (k * 2 ^ k) : Nat)
    ln2Series p fuel (k + 1) (acc.add ⟨t, t + 1⟩)
def ln2 (p : Nat) : Bounds := ln2Series p (p + 2) 1 ⟨0, 0⟩

/-- Sum of z^(2k+1)/(2k+1), alternating if alt: atanh z or atan z for z at most 1/3; zz is z squared. -/
def oddSeries (p : Nat) (alt : Bool) (zz : Bounds) : Nat → Nat → Bounds → Bounds → Bounds
  | 0, _, t, acc => acc.add ⟨-t.hi, t.hi⟩
  | fuel + 1, k, t, acc =>
    let u := t.divNat (2 * k + 1)
    let acc1 := acc.add (if alt && k % 2 == 1 then u.neg else u)
    let t1 := t.mul p zz
    if t1.hi ≤ 1 then acc1.add ⟨-2, 2⟩ else oddSeries p alt zz fuel (k + 1) t1 acc1

/-- atan(1/n). -/
def atanInv (p n : Nat) : Bounds :=
  let z : Bounds := ⟨(2 ^ p / n : Nat), (2 ^ p / n + 1 : Nat)⟩
  oddSeries p true (z.mul p z) p 0 z ⟨0, 0⟩
/-- pi = 16 atan(1/5) - 4 atan(1/239). -/
def piBounds (p : Nat) : Bounds :=
  let a := atanInv p 5; let b := atanInv p 239
  ⟨16 * a.lo - 4 * b.hi, 16 * a.hi - 4 * b.lo⟩

/-- Sum of (-1)^k t_k with t_(k+1) = t_k yy/((j+1)(j+2)): the series of sine (j = 1) and cosine (j = 0). -/
def trigSeries (p : Nat) (yy : Bounds) : Nat → Nat → Bool → Bounds → Bounds → Bounds
  | 0, _, _, t, acc => acc.add ⟨-t.hi, t.hi⟩
  | fuel + 1, j, minus, t, acc =>
    let acc1 := acc.add (if minus then t.neg else t)
    let t1 := (t.mul p yy).divNat ((j + 1) * (j + 2))
    if t1.hi ≤ 1 then acc1.add ⟨-3, 3⟩ else trigSeries p yy fuel (j + 2) (!minus) t1 acc1

/-- e^y for y in [0, 1]. -/
def expUnit (p : Nat) (y : Bounds) : Bounds :=
  expSeries p y (p + 8) 0 ⟨2 ^ p, 2 ^ p⟩ ⟨2 ^ p, 2 ^ p⟩

/-- Bounds of 2^f for a dyadic f = m x 2^e in [0, 1). -/
def exp2Unit (p m : Nat) (e : Int) : Bounds := expUnit p ((dyadic p m e).mul p (ln2 p))

/-- Bounds of log2 (m x 2^e), m not zero: the exponent of the highest bit plus log2 of a number in [1, 2). -/
def log2Bounds (p m : Nat) (e : Int) : Bounds :=
  let k := Nat.log2 m
  let top : Int := e + k
  -- z = (m - 2^k) / (m + 2^k), at most 1/3
  let zl : Int := ((m - 2 ^ k) * 2 ^ p / (m + 2 ^ k) : Nat)
  let z : Bounds := ⟨zl, zl + 1⟩
  let a := oddSeries p false (z.mul p z) p 0 z ⟨0, 0⟩
  let l := ln2 p
  ⟨top * 2 ^ p + 2 * a.lo * 2 ^ p / l.hi, top * 2 ^ p + ceilDiv (2 * a.hi * 2 ^ p) l.lo⟩

/-- Bounds of sin(pi f) (cosine if cos) for a dyadic f = m x 2^e in [0, 1/2]. -/
def sinPiUnit (p : Nat) (cos : Bool) (m : Nat) (e : Int) : Bounds :=
  let y := (dyadic p m e).mul p (piBounds p)
  let yy := y.mul p y
  if cos then trigSeries p yy (p + 8) 0 false ⟨2 ^ p, 2 ^ p⟩ ⟨0, 0⟩
  else trigSeries p yy (p + 8) 1 false y ⟨0, 0⟩

/-- Bounds of tanh x = (e^2x - 1)/(e^2x + 1) for x = m x 2^e, from 2^(2x / ln 2) = 2^n e^r. -/
def tanhBounds (p m : Nat) (e : Int) : Bounds :=
  let y := dyadic p m (e + 1)
  let l := ln2 p
  let n := (y.lo / l.hi).toNat
  let r : Bounds := ⟨max 0 (y.lo - n * l.hi), max 0 (y.hi - n * l.lo)⟩
  let u0 := expUnit p r
  let u : Bounds := ⟨u0.lo * 2 ^ n, u0.hi * 2 ^ n⟩
  let one : Int := 2 ^ p
  ⟨(u.lo - one) * 2 ^ p / (u.lo + one), ceilDiv ((u.hi - one) * 2 ^ p) (u.hi + one)⟩

/-- Round a bound to nearest-even: a part below it is assumed, so that an exact bound decides nothing by itself. -/
def Fmt.roundBound (f : Fmt) (neg : Bool) (b : Int) (p : Nat) (shift : Int) : Nat × Flags :=
  f.round 0 neg (2 * b.toNat + 1) (shift - p - 1) false

/-- The rounding of a value that is not representable: the precision doubles until both bounds round alike;
`fallback` stands where it never does. -/
def Fmt.refine (f : Fmt) (neg : Bool) (shift : Int) (g : Nat → Bounds) (fallback : Nat × Flags) :
    Nat → Nat → Nat × Flags
  | 0, _ => fallback
  | fuel + 1, p =>
    let b := g p
    let x := f.roundBound neg (b.lo - 1) p shift
    let y := f.roundBound neg b.hi p shift
    if 1 < b.lo ∧ x = y then x else Fmt.refine f neg shift g fallback fuel (2 * p)

/-- Reduce a dyadic m x 2^e modulo 2: the residue as a numerator over 2^k. -/
def mod2 (m : Nat) (e : Int) : Nat × Nat :=
  if 0 ≤ e then (m * 2 ^ (min e.toNat 2) % 2, 0)
  else let k := (-e).toNat; (m % 2 ^ (k + 1), k)

/-- 2^x for x = m x 2^e with a sign (R260: exact for integers). -/
def Fmt.exp2 (f : Fmt) (fallback : Nat × Flags) (neg : Bool) (m : Nat) (e : Int) : Nat × Flags :=
  if m = 0 then (f.bias * 2 ^ f.fbits, 0)
  else if 20 < e + (Nat.log2 m : Int) then
    f.round 0 false 1 (if neg then -1000000 else 1000000) true
  else
    -- x = n + r / 2^k with 0 <= r < 2^k
    let k := (-e).toNat
    let v : Int := if neg then -((m * 2 ^ e.toNat : Nat) : Int) else ((m * 2 ^ e.toNat : Nat) : Int)
    let n := v / 2 ^ k
    let r := (v % 2 ^ k).toNat
    if r = 0 then f.round 0 false 1 n false
    else f.refine false n (fun p => exp2Unit p r (-(k : Int))) fallback 7 128

/-- log2 of m x 2^e (R260: exact for powers of two). -/
def Fmt.log2 (f : Fmt) (fallback : Nat × Flags) (m : Nat) (e : Int) : Nat × Flags :=
  let k := Nat.log2 m
  let top : Int := e + k
  if m = 2 ^ k then
    if top = 0 then (0, 0) else f.round 0 (decide (top < 0)) top.natAbs 0 false
  else if top < 0 then
    f.refine true 0 (fun p => (log2Bounds p m e).neg) fallback 7 128
  else f.refine false 0 (fun p => log2Bounds p m e) fallback 7 128

/-- sin(pi x) or cos(pi x), x = m x 2^e with a sign (R260: exact for integers and half-integers). -/
def Fmt.sinPi (f : Fmt) (fallback : Nat × Flags) (cos neg : Bool) (m : Nat) (e : Int) : Nat × Flags :=
  let (r, k) := mod2 m e
  -- |x| mod 2 = r / 2^k; quarters of a turn of 1/2
  let q := 2 * r / 2 ^ k
  let part := 2 * r % 2 ^ k
  let one := f.bias * 2 ^ f.fbits
  if part = 0 then
    if cos then
      if q = 0 then (one, 0) else if q = 2 then (f.signed true one, 0) else (0, 0)
    else
      if q = 1 then (f.signed neg one, 0) else if q = 3 then (f.signed (!neg) one, 0) else (f.signed neg 0, 0)
  else
    -- distance from the quarter's lower end, as part / 2^(k+1) in (0, 1/2)
    let useCos := if cos then q % 2 == 0 else q % 2 == 1
    let minus := if cos then (q == 1 || q == 2) else (q == 2 || q == 3) != neg
    let p0 := 128 + k
    f.refine minus 0 (fun p => sinPiUnit p useCos part (-((k : Int) + 1))) fallback 6 p0

/-- tanh of m x 2^e, m not zero. -/
def Fmt.tanh (f : Fmt) (fallback : Nat × Flags) (neg : Bool) (m : Nat) (e : Int) : Nat × Flags :=
  if 6 < e + (Nat.log2 m : Int) then
    (f.signed neg (f.bias * 2 ^ f.fbits), Flags.inexact)
  else
    let p0 := 192 + 2 * (-(e + (Nat.log2 m : Int))).toNat
    f.refine neg 0 (fun p => tanhBounds p m e) fallback 6 p0

end Sys2Proof.Machine
end

