-- ==== Sys2Proof/Machine/VectorInt.lean ====
section
/-! DEFINITION. The vector integer engine (08 R226 to R243). Every instruction is one shared shape and one
lane function. -/

namespace Sys2Proof.Machine

/-- The V-format shape: D[L] := f a b d in each lane of the entry (R230). -/
def vecBin (f : Word → Word → Word → Word) (e g : Bool) (d a b : Code) (s : State) :
    Host.Outcome State Fault Refusal :=
  let us : List Use := [⟨.vsrc, a, e⟩, ⟨.vsrc, b, g⟩, ⟨.vdst, d, false⟩]
  runVec s 1 us [] false false fun s =>
    let x := s.vsrc a; let y := s.vsrc b
    ((s.popSources us).writeV d (popsInto us) fun l => f (laneOf x l) (laneOf y l) 0).advance

/-- The read-modify V-format shape: D names a vector register and is read (R226). -/
def vecMod (f : Word → Word → Word → Word) (e g : Bool) (d a b : Code) (s : State) :
    Host.Outcome State Fault Refusal :=
  let us : List Use := [⟨.vsrc, a, e⟩, ⟨.vsrc, b, g⟩, ⟨.vreg, d, false⟩]
  runVec s 1 us [] false false fun s =>
    let x := s.vsrc a; let y := s.vsrc b; let z := s.vsrc d
    ((s.popSources us).writeV d (popsInto us) fun l => f (laneOf x l) (laneOf y l) (laneOf z l)).advance

/-- The U-format shape (R233) and `vmov` (R232). -/
def vecUn (f : Word → Word) (e : Bool) (d a : Code) (s : State) : Host.Outcome State Fault Refusal :=
  let us : List Use := [⟨.vsrc, a, e⟩, ⟨.vdst, d, false⟩]
  runVec s 1 us [] false false fun s =>
    let x := s.vsrc a
    ((s.popSources us).writeV d (popsInto us) fun l => f (laneOf x l)).advance

/-- The I-format shape (R234); `bad` is a shift count above 31. -/
def vecImm (f : Word → Word → Word) (bad : Bool) (imm : Word) (d a : Code) (s : State) :
    Host.Outcome State Fault Refusal :=
  let us : List Use := [⟨.vsrc, a, false⟩, ⟨.vdst, d, false⟩]
  runVec s 1 us [] bad false fun s =>
    let x := s.vsrc a
    ((s.popSources us).writeV d (popsInto us) fun l => f (laneOf x l) imm).advance

/-! ### Lane functions (Tables 8-1 and 8-3) -/

/-- Clamp to the range of a signed 32-bit integer. -/
def clamp32 (x : Int) : Word := BitVec.ofInt 32 (max (-2147483648) (min 2147483647 x))
/-- The two 16-bit halves, each computed on its own. -/
def halves (f : BitVec 16 → BitVec 16 → BitVec 16) (a b : Word) : Word :=
  (f (a.extractLsb' 16 16) (b.extractLsb' 16 16)) ++ (f (a.extractLsb' 0 16) (b.extractLsb' 0 16))
/-- Byte k of a word. -/
def byteOf (x : Word) (k : Nat) : BitVec 8 := x.extractLsb' (8 * k) 8
def laneVadd (a b _d : Word) : Word := a + b
def laneVsub (a b _d : Word) : Word := a - b
def laneVmullo (a b _d : Word) : Word := a * b
def laneVmulhis (a b _d : Word) : Word := BitVec.ofInt 32 ((a.toInt * b.toInt) / 4294967296)
def laneVmulhiu (a b _d : Word) : Word := BitVec.ofNat 32 (a.toNat * b.toNat / 4294967296)
def laneVmad (a b d : Word) : Word := a * b + d
def laneVadds (a b _d : Word) : Word := clamp32 (a.toInt + b.toInt)
def laneVsubs (a b _d : Word) : Word := clamp32 (a.toInt - b.toInt)
def laneVaddx2 (a b _d : Word) : Word := halves (· + ·) a b
def laneVsubx2 (a b _d : Word) : Word := halves (· - ·) a b
def laneVmins (a b _d : Word) : Word := if a.toInt ≤ b.toInt then a else b
def laneVminu (a b _d : Word) : Word := if a.toNat ≤ b.toNat then a else b
def laneVmaxs (a b _d : Word) : Word := if a.toInt ≤ b.toInt then b else a
def laneVmaxu (a b _d : Word) : Word := if a.toNat ≤ b.toNat then b else a
def laneVdot4s (a b d : Word) : Word :=
  BitVec.ofInt 32 (d.toInt + ([0, 1, 2, 3].map fun k => (byteOf a k).toInt * (byteOf b k).toInt).sum)
def laneVdot4u (a b d : Word) : Word :=
  BitVec.ofNat 32 (d.toNat + ([0, 1, 2, 3].map fun k => (byteOf a k).toNat * (byteOf b k).toNat).sum)
def laneVand (a b _d : Word) : Word := a &&& b
def laneVor (a b _d : Word) : Word := a ||| b
def laneVxor (a b _d : Word) : Word := a ^^^ b
def laneVandn (a b _d : Word) : Word := a &&& ~~~ b
/-- The shift count b[4:0] (R231). -/
def count5 (b : Word) : Nat := b.toNat % 32
def laneVshl (a b _d : Word) : Word := a <<< count5 b
def laneVshru (a b _d : Word) : Word := a >>> count5 b
def laneVshrs (a b _d : Word) : Word := a.sshiftRight (count5 b)
def laneVrot (a b _d : Word) : Word := a.rotateLeft (count5 b)
/-- The width of a bit field: the lower of b[13:8] and 32 (R231). -/
def fieldWidth (b : Word) : Nat := min (b.toNat / 256 % 64) 32
def laneVbfeu (a b _d : Word) : Word := BitVec.ofNat 32 (a.toNat / 2 ^ count5 b % 2 ^ fieldWidth b)
def laneVbfes (a b d : Word) : Word :=
  let w := fieldWidth b
  let v := (laneVbfeu a b d).toNat
  if w = 0 then 0
  else if v / 2 ^ (w - 1) % 2 = 1 then BitVec.ofInt 32 ((v : Int) - 2 ^ w) else BitVec.ofNat 32 v
/-- Bits [pos + w - 1 : pos] of d replaced by the low w bits of a; bits beyond the top dropped. -/
def insertField {n : Nat} (d a : BitVec n) (pos w : Nat) : BitVec n :=
  let m : BitVec n := BitVec.ofNat n ((2 ^ w - 1) * 2 ^ pos)
  (d &&& ~~~ m) ||| (BitVec.ofNat n (a.toNat * 2 ^ pos) &&& m)
def laneVbfi (a b d : Word) : Word := insertField d a (count5 b) (fieldWidth b)
def laneVsel (a b d : Word) : Word := if d = 0 then b else a
/-- 1 for true, 0 for false. -/
def truth {n : Nat} (b : Bool) : BitVec n := if b then 1 else 0
def laneVcmpeq (a b _d : Word) : Word := truth (a == b)
def laneVcmplts (a b _d : Word) : Word := truth (decide (a.toInt < b.toInt))
def laneVcmpltu (a b _d : Word) : Word := truth (decide (a.toNat < b.toNat))
def laneVcmples (a b _d : Word) : Word := truth (decide (a.toInt ≤ b.toInt))
def laneVcmpleu (a b _d : Word) : Word := truth (decide (a.toNat ≤ b.toNat))

/-- The number of one bits. -/
def popCount {n : Nat} (x : BitVec n) : Nat := ((List.range n).filter fun i => x.getLsbD i).length
/-- The number of zeros above the highest one; n for zero. -/
def leadingZeros {n : Nat} (x : BitVec n) : Nat := if x = 0 then n else n - 1 - Nat.log2 x.toNat
/-- The number of zeros below the lowest one; n for zero. -/
def trailingZeros {n : Nat} (x : BitVec n) : Nat := ((List.range n).find? fun i => x.getLsbD i).getD n
/-- Bit i moved to bit n - 1 - i. -/
def reverseBits {n : Nat} (x : BitVec n) : BitVec n :=
  BitVec.ofNat n ((List.range n).foldl (fun acc i => 2 * acc + (x.getLsbD i).toNat) 0)
def laneVpopc (a : Word) : Word := BitVec.ofNat 32 (popCount a)
def laneVclz (a : Word) : Word := BitVec.ofNat 32 (leadingZeros a)
def laneVctz (a : Word) : Word := BitVec.ofNat 32 (trailingZeros a)
def laneVbrev (a : Word) : Word := reverseBits a
def laneVnot (a : Word) : Word := ~~~ a
def laneVabs (a : Word) : Word := if a.msb then 0 - a else a
def laneVneg (a : Word) : Word := 0 - a
def laneVsx8 (a : Word) : Word := (a.extractLsb' 0 8).signExtend 32
def laneVsx16 (a : Word) : Word := (a.extractLsb' 0 16).signExtend 32
def laneVzx8 (a : Word) : Word := (a.extractLsb' 0 8).zeroExtend 32
def laneVzx16 (a : Word) : Word := (a.extractLsb' 0 16).zeroExtend 32

/-! ### The element-wise instructions -/

def execVadd (e g : Bool) (d a b : Code) (s : State) := vecBin laneVadd e g d a b s
def execVsub (e g : Bool) (d a b : Code) (s : State) := vecBin laneVsub e g d a b s
def execVmullo (e g : Bool) (d a b : Code) (s : State) := vecBin laneVmullo e g d a b s
def execVmulhis (e g : Bool) (d a b : Code) (s : State) := vecBin laneVmulhis e g d a b s
def execVmulhiu (e g : Bool) (d a b : Code) (s : State) := vecBin laneVmulhiu e g d a b s
def execVadds (e g : Bool) (d a b : Code) (s : State) := vecBin laneVadds e g d a b s
def execVsubs (e g : Bool) (d a b : Code) (s : State) := vecBin laneVsubs e g d a b s
def execVaddx2 (e g : Bool) (d a b : Code) (s : State) := vecBin laneVaddx2 e g d a b s
def execVsubx2 (e g : Bool) (d a b : Code) (s : State) := vecBin laneVsubx2 e g d a b s
def execVmins (e g : Bool) (d a b : Code) (s : State) := vecBin laneVmins e g d a b s
def execVminu (e g : Bool) (d a b : Code) (s : State) := vecBin laneVminu e g d a b s
def execVmaxs (e g : Bool) (d a b : Code) (s : State) := vecBin laneVmaxs e g d a b s
def execVmaxu (e g : Bool) (d a b : Code) (s : State) := vecBin laneVmaxu e g d a b s
def execVand (e g : Bool) (d a b : Code) (s : State) := vecBin laneVand e g d a b s
def execVor (e g : Bool) (d a b : Code) (s : State) := vecBin laneVor e g d a b s
def execVxor (e g : Bool) (d a b : Code) (s : State) := vecBin laneVxor e g d a b s
def execVandn (e g : Bool) (d a b : Code) (s : State) := vecBin laneVandn e g d a b s
def execVshl (e g : Bool) (d a b : Code) (s : State) := vecBin laneVshl e g d a b s
def execVshru (e g : Bool) (d a b : Code) (s : State) := vecBin laneVshru e g d a b s
def execVshrs (e g : Bool) (d a b : Code) (s : State) := vecBin laneVshrs e g d a b s
def execVrot (e g : Bool) (d a b : Code) (s : State) := vecBin laneVrot e g d a b s
def execVbfeu (e g : Bool) (d a b : Code) (s : State) := vecBin laneVbfeu e g d a b s
def execVbfes (e g : Bool) (d a b : Code) (s : State) := vecBin laneVbfes e g d a b s
def execVcmpeq (e g : Bool) (d a b : Code) (s : State) := vecBin laneVcmpeq e g d a b s
def execVcmplts (e g : Bool) (d a b : Code) (s : State) := vecBin laneVcmplts e g d a b s
def execVcmpltu (e g : Bool) (d a b : Code) (s : State) := vecBin laneVcmpltu e g d a b s
def execVcmples (e g : Bool) (d a b : Code) (s : State) := vecBin laneVcmples e g d a b s
def execVcmpleu (e g : Bool) (d a b : Code) (s : State) := vecBin laneVcmpleu e g d a b s
def execVmad (e g : Bool) (d a b : Code) (s : State) := vecMod laneVmad e g d a b s
def execVdot4s (e g : Bool) (d a b : Code) (s : State) := vecMod laneVdot4s e g d a b s
def execVdot4u (e g : Bool) (d a b : Code) (s : State) := vecMod laneVdot4u e g d a b s
def execVbfi (e g : Bool) (d a b : Code) (s : State) := vecMod laneVbfi e g d a b s
def execVsel (e g : Bool) (d a b : Code) (s : State) := vecMod laneVsel e g d a b s
/-! ### Unary functions and moves -/

def execVpopc (e : Bool) (d a : Code) (s : State) := vecUn laneVpopc e d a s
def execVclz (e : Bool) (d a : Code) (s : State) := vecUn laneVclz e d a s
def execVctz (e : Bool) (d a : Code) (s : State) := vecUn laneVctz e d a s
def execVbrev (e : Bool) (d a : Code) (s : State) := vecUn laneVbrev e d a s
def execVnot (e : Bool) (d a : Code) (s : State) := vecUn laneVnot e d a s
def execVabs (e : Bool) (d a : Code) (s : State) := vecUn laneVabs e d a s
def execVneg (e : Bool) (d a : Code) (s : State) := vecUn laneVneg e d a s
def execVsx8 (e : Bool) (d a : Code) (s : State) := vecUn laneVsx8 e d a s
def execVsx16 (e : Bool) (d a : Code) (s : State) := vecUn laneVsx16 e d a s
def execVzx8 (e : Bool) (d a : Code) (s : State) := vecUn laneVzx8 e d a s
def execVzx16 (e : Bool) (d a : Code) (s : State) := vecUn laneVzx16 e d a s
def execVmov (e : Bool) (d a : Code) (s : State) := vecUn id e d a s

/-! ### Immediate forms (R234) -/

/-- imm9 sign-extended (03 R46). -/
def simm9 (i : BitVec 9) : Word := i.signExtend 32
/-- An immediate shift count, 0 to 31. -/
def shiftTooLong (i : BitVec 9) (n : Nat) : Bool := decide (n ≤ i.toNat)

def execVaddi (d a : Code) (i : BitVec 9) (s : State) :=
  vecImm (fun x y => laneVadd x y 0) false (simm9 i) d a s
def execVmuli (d a : Code) (i : BitVec 9) (s : State) :=
  vecImm (fun x y => laneVmullo x y 0) false (simm9 i) d a s
def execVandi (d a : Code) (i : BitVec 9) (s : State) :=
  vecImm (fun x y => laneVand x y 0) false (simm9 i) d a s
def execVori (d a : Code) (i : BitVec 9) (s : State) :=
  vecImm (fun x y => laneVor x y 0) false (simm9 i) d a s
def execVxori (d a : Code) (i : BitVec 9) (s : State) :=
  vecImm (fun x y => laneVxor x y 0) false (simm9 i) d a s
def execVcmpeqi (d a : Code) (i : BitVec 9) (s : State) :=
  vecImm (fun x y => laneVcmpeq x y 0) false (simm9 i) d a s
def execVcmpltsi (d a : Code) (i : BitVec 9) (s : State) :=
  vecImm (fun x y => laneVcmplts x y 0) false (simm9 i) d a s
def execVcmpltui (d a : Code) (i : BitVec 9) (s : State) :=
  vecImm (fun x y => laneVcmpltu x y 0) false (simm9 i) d a s
def execVshli (d a : Code) (i : BitVec 9) (s : State) :=
  vecImm (fun x y => laneVshl x y 0) (shiftTooLong i 32) (i.zeroExtend 32) d a s
def execVshrui (d a : Code) (i : BitVec 9) (s : State) :=
  vecImm (fun x y => laneVshru x y 0) (shiftTooLong i 32) (i.zeroExtend 32) d a s
def execVshrsi (d a : Code) (i : BitVec 9) (s : State) :=
  vecImm (fun x y => laneVshrs x y 0) (shiftTooLong i 32) (i.zeroExtend 32) d a s
/-! ### Cross-lane instructions -/

/-- The shuffles: index(L, b) chooses the lane of A; out of range fills (R236, R242). -/
def vecShuffle (index : Int → Int → Int) (e f : Bool) (d a b : Code) (s : State) : Host.Outcome State Fault Refusal :=
  let us : List Use := [⟨.vsrc, a, e⟩, ⟨.vsrc, b, false⟩, ⟨.vdst, d, false⟩]
  runVec s 1 us [] false false fun s =>
    let x := s.vsrc a; let y := s.vsrc b
    let n : Nat := s.cur.threads
    ((s.popSources us).writeAcross d (popsInto us) fun l =>
      let j := index ((l % n : Nat) : Int) ((laneOf y (l % n)).toNat : Int)
      if 0 ≤ j ∧ j < (n : Int) then laneOf x (j.toNat + l / n * n)
      else if f then laneOf x l else 0).advance

def indexXor (l b : Int) : Int := (Nat.xor l.toNat b.toNat : Nat)
def execVshfl (e f : Bool) (d a b : Code) (s : State) := vecShuffle (fun _ b => b) e f d a b s
def execVshflx (e f : Bool) (d a b : Code) (s : State) := vecShuffle indexXor e f d a b s
def execVshflup (e f : Bool) (d a b : Code) (s : State) := vecShuffle (fun l b => l - b) e f d a b s
def execVshfldn (e f : Bool) (d a b : Code) (s : State) := vecShuffle (fun l b => l + b) e f d a b s

/-- Write a scalar result of a vector engine to s0-s15: a lane read into a scalar, which is a long-latency
producer and a scalar write (R229, 06 R178). -/
def State.writeLaneScalar (s : State) (d : Code) (v : DWord) : State :=
  s.onCur fun st => st.putScalar true (d.toNat - 0x60) v

/-- `vrdlane` (R237). -/
def execVrdlane (e g : Bool) (d a b : Code) (s : State) : Host.Outcome State Fault Refusal :=
  let us : List Use := [⟨.vsrc, a, e⟩, ⟨.useg, b, g⟩, ⟨.seg, d, false⟩]
  runVec s 1 us [] false false fun s =>
    let k := (s.usrc b).toNat % 2 ^ 32
    let v : DWord := if k < s.cur.threads then BitVec.ofNat 64 (laneOf (s.vsrc a) k).toNat else 0
    s.comparePoint (decide (32 ≤ k) || laneOf (s.vsrc a) k == laneOf (s.vsrc a) (k + 32)) fun s =>
      ((s.popSources us).writeLaneScalar d v).advance

/-- `vwrlane` (R238). -/
def execVwrlane (e g : Bool) (d a b : Code) (s : State) : Host.Outcome State Fault Refusal :=
  let us : List Use := [⟨.useg, a, e⟩, ⟨.useg, b, g⟩, ⟨.vreg, d, false⟩]
  runVec s 1 us [] false false fun s =>
    let v : Word := BitVec.ofNat 32 (s.usrc a).toNat
    let k := (s.usrc b).toNat % 2 ^ 32
    let n := s.cur.threads
    let m := maskOf fun l => decide (k < n) && (l % n == k)
    (s.onCur fun st => (st.writeLanes (st.wb + d.toNat) m fun _ => v).delay s.now (st.wb + d.toNat)).advance

/-- The lanes a reduction takes: those of the entry, and in shadow mode the architectural 32 (R242). -/
def reduceMask (st : Strand) (m : Mask) : Mask := if st.shadow then m &&& 0xFFFFFFFF else m

/-- op over the lanes of a mask in ascending order (R239). -/
def reduceLanes (op : Word → Word → Word) (x : Line) (m : Mask) : Word :=
  match lanesOf m with
  | [] => 0
  | l :: t => t.foldl (fun acc k => op acc (laneOf x k)) (laneOf x l)

/-- The reductions: into a scalar extended to 64 bits, or into every lane of the entry (R239, R242). -/
def vecReduce (op : Word → Word → Word) (signed e : Bool) (d a : Code) (s : State) :
    Host.Outcome State Fault Refusal :=
  let us : List Use := [⟨.vsrc, a, e⟩, ⟨.vred, d, false⟩]
  runVec s 1 us [] false false fun s =>
    let st := s.cur
    let x := s.vsrc a
    let lo := reduceLanes op x (reduceMask st (candidate st).mask)
    let hi := reduceLanes op x ((candidate st).mask &&& 0xFFFFFFFF00000000)
    let s1 := s.popSources us
    if isSeg d.toNat then
      s.comparePoint (lo == hi) fun s =>
        ((s.popSources us).writeLaneScalar d (if signed then lo.signExtend 64 else lo.zeroExtend 64)).advance
    else (s1.writeAcross d (popsInto us) fun _ => lo).advance

def execVredadd (e : Bool) (d a : Code) (s : State) := vecReduce (· + ·) false e d a s
def execVredmins (e : Bool) (d a : Code) (s : State) := vecReduce (fun x y => laneVmins x y 0) true e d a s
def execVredmaxs (e : Bool) (d a : Code) (s : State) := vecReduce (fun x y => laneVmaxs x y 0) true e d a s
def execVredand (e : Bool) (d a : Code) (s : State) := vecReduce (· &&& ·) false e d a s
def execVredor (e : Bool) (d a : Code) (s : State) := vecReduce (· ||| ·) false e d a s

/-- The inclusive prefix sum of the active lanes from base up to lane l (R240). -/
def prefixSum (x : Line) (m : Mask) (base l : Nat) : Word :=
  ((List.range 64).filter fun k => m.getLsbD k && decide (base ≤ k ∧ k ≤ l)).foldl (fun acc k => acc + laneOf x k) 0

/-- `vscanadd` (R240); in shadow mode the upper half is scanned on its own (R242). -/
def execVscanadd (e : Bool) (d a : Code) (s : State) : Host.Outcome State Fault Refusal :=
  let us : List Use := [⟨.vsrc, a, e⟩, ⟨.vdst, d, false⟩]
  runVec s 1 us [] false false fun s =>
    let st := s.cur
    let x := s.vsrc a
    let m := (candidate st).mask
    ((s.popSources us).writeAcross d (popsInto us) fun l =>
      prefixSum x m (if st.shadow && decide (32 ≤ l) then 32 else 0) l).advance

/-- `vballot` (R241, R242). -/
def execVballot (e : Bool) (d a : Code) (s : State) : Host.Outcome State Fault Refusal :=
  let us : List Use := [⟨.vsrc, a, e⟩, ⟨.vbal, d, false⟩]
  runVec s 1 us [] false false fun s =>
    let st := s.cur
    let x := s.vsrc a
    let em := (candidate st).mask
    let m := maskOf fun l => (reduceMask st em).getLsbD l && decide (laneOf x l ≠ 0)
    let s1 := s.popSources us
    let bit (l : Nat) : Bool := em.getLsbD l && decide (laneOf x l ≠ 0)
    let same := (List.range 32).all fun l => bit l == bit (l + 32)
    if isSeg d.toNat then s.comparePoint same fun s => ((s.popSources us).writeLaneScalar d m).advance
    else
      let d1 : Code := d + 1
      ((s1.writeAcross d (popsInto us) fun _ => BitVec.ofNat 32 m.toNat).writeAcross d1 (popsInto us)
        fun _ => BitVec.ofNat 32 (m.toNat / 2 ^ 32)).advance

end Sys2Proof.Machine
end

