-- ==== Sys2Proof/Machine/VectorFloat.lean ====
section
/-! DEFINITION. The vector float engine (09 R244 to R266) and the conversions (02 R35 to R39): the values are
computed at issue and written, with their flags, by FLOAT_WRITEBACK (R250 to R252). -/

namespace Sys2Proof.Machine

/-- The element format of a type (R244). -/
def typeFmt : FType → Fmt
  | .f32 => .f32 | .f64 => .f64 | .f16x2 => .f16 | .bf16x2 => .bf16
/-- Whether a type is a packed pair. -/
def typePacked : FType → Bool
  | .f16x2 | .bf16x2 => true
  | .f32 | .f64 => false
def typeWide : FType → Bool
  | .f64 => true
  | .f32 | .f16x2 | .bf16x2 => false

/-- An operation on each element of a lane, the flags united (R244, R33). -/
def perElement (t : FType) (op : Nat → Nat → Nat → Nat × Flags) (a b d : Nat) : Nat × Flags :=
  if typePacked t then
    let lo := op (a % 65536) (b % 65536) (d % 65536)
    let hi := op (a / 65536) (b / 65536) (d / 65536)
    (lo.1 % 65536 + hi.1 % 65536 * 65536, lo.2 ||| hi.2)
  else op a b d

/-- The lanes' values of a source of 32 or 64 bits, as numbers. -/
def State.lanesAt (s : State) (wide : Bool) (c : Code) : List Nat :=
  if wide then (s.vsrc64 c).map BitVec.toNat else (s.vsrc c).map BitVec.toNat

/-- The flags of the lanes of an entry: in shadow mode a lane has its twin's below 32 (R253). -/
def laneFlags (st : Strand) (r : List (Nat × Flags)) : List Flags :=
  (List.range 64).map fun l => ((r.getD (st.laneNumber l) (0, 0)).2 : Flags)

/-- Give the results of the lanes to FLOAT_WRITEBACK: a line, a pair or a pushed entry (R246, R250). -/
def State.queueFloat (s : State) (d : Code) (wide : Bool) (r : List (Nat × Flags)) : State :=
  let st := s.cur
  let e := candidate st
  let n := st.wb + d.toNat
  let lo : Line := r.map fun x => BitVec.ofNat 32 x.1
  let hi : Line := r.map fun x => BitVec.ofNat 32 (x.1 / 2 ^ 32)
  let f : FloatResult := {
    lines := if d.toNat < 0x60 then (if wide then [(n, e.mask, lo), (n + 1, e.mask, hi)] else [(n, e.mask, lo)]) else [],
    push := if d.toNat < 0x60 then none else some (d.toNat - 0x70, mergeLine zeroLine e.mask (laneOf lo)),
    flags := laneFlags st r, mask := e.mask, pc := e.pc, prio := e.prio, te := st.te,
    shadow := if st.shadow then ((r.zipIdx.filter fun x => decide (32 ≤ x.2) && e.mask.getLsbD x.2).foldl
      (fun acc x => acc ||| x.1.2) 0) else 0 }
  s.setCur { st with floats := st.floats ++ [f] }

/-- The shape of every float instruction: sources a and b of the widths given, d read if `modify`, one result a
lane of the width given. Nothing that the entry's inactive lanes hold is written. -/
def vecFloat (us : List Use) (wideA wideB wideD modify : Bool) (a b d : Code)
    (op : Nat → Nat → Nat → Nat → Nat × Flags) (s : State) (bad : Bool := false) (slow : Bool := false) :
    Host.Outcome State Fault Refusal :=
  runVec s ((if wideA || wideD then 4 else 1) * (if slow then 4 else 1)) us [] bad false fun s =>
    let frm := s.cur.frm
    let x := s.lanesAt wideA a
    let y := s.lanesAt wideB b
    let z := if modify then s.lanesAt wideD d else []
    let r := (List.range 64).map fun l =>
      if (candidate s.cur).mask.getLsbD l then op frm (x.getD l 0) (y.getD l 0) (z.getD l 0) else (0, 0)
    ((s.popSources us).queueFloat d wideD r).advance

/-- The uses of a typed V-format form (R245, R246). -/
def floatUses (t : FType) (modify narrow : Bool) (e g : Bool) (d a b : Code) : List Use :=
  let src := if typeWide t then Role.vsrc64 else Role.vsrc
  let dst := if typeWide t && !narrow then Role.vdst64 else if modify then Role.vreg else Role.vdst
  [⟨src, a, e⟩, ⟨src, b, g⟩, ⟨dst, d, false⟩]

/-- The typed arithmetic and compare forms (R254). -/
def vecFloat3 (op : Fmt → Nat → Nat → Nat → Nat → Nat × Flags) (modify narrow : Bool)
    (t : FType) (e g : Bool) (d a b : Code) (s : State) : Host.Outcome State Fault Refusal :=
  vecFloat (floatUses t modify narrow e g d a b) (typeWide t) (typeWide t) (typeWide t && !narrow) modify a b d
    (fun frm => perElement t (op (typeFmt t) frm)) s

/-- The U-format functions (R258). -/
def vecFloat1 (op : Fmt → Nat → Nat → Nat × Flags) (narrow slow : Bool)
    (t : FType) (e : Bool) (d a : Code) (s : State) : Host.Outcome State Fault Refusal :=
  let src := if typeWide t then Role.vsrc64 else Role.vsrc
  let dst := if typeWide t && !narrow then Role.vdst64 else Role.vdst
  vecFloat [⟨src, a, e⟩, ⟨dst, d, false⟩] (typeWide t) false (typeWide t && !narrow) false a 0x78 d
    (fun frm => perElement t (fun x _ _ => op (typeFmt t) frm x)) s false slow

/-! ### The operations on elements -/

def opVfadd (f : Fmt) (frm a b _d : Nat) : Nat × Flags := f.add frm a b
def opVfsub (f : Fmt) (frm a b _d : Nat) : Nat × Flags := f.sub frm a b
def opVfmul (f : Fmt) (frm a b _d : Nat) : Nat × Flags := f.mul frm a b
def opVffma (f : Fmt) (frm a b d : Nat) : Nat × Flags := f.fma frm a b (f.decode d)
def opVffms (f : Fmt) (frm a b d : Nat) : Nat × Flags := f.fma frm a b (f.decode d).negate

/-- minimumNumber and maximumNumber (R256). -/
def opMinMax (max : Bool) (f : Fmt) (a b : Nat) : Nat × Flags :=
  let x := f.decode a; let y := f.decode b
  let fl := sigFlag [x, y]
  if x.isNan && y.isNan then (f.nanBits, fl)
  else if x.isNan then (b, fl)
  else if y.isNan then (a, fl)
  else
    let less := x.lt y || (x.eq y && natBit a (f.ebits + f.fbits) && !natBit b (f.ebits + f.fbits))
    (if less != max then a else b, fl)
def opVfmin (f : Fmt) (_frm a b _d : Nat) : Nat × Flags := opMinMax false f a b
def opVfmax (f : Fmt) (_frm a b _d : Nat) : Nat × Flags := opMinMax true f a b

/-- The flag of a compare (R257): any NaN, or a signalling one. -/
def compareFlag (anyNan : Bool) (x y : FVal) : Flags :=
  if anyNan && (x.isNan || y.isNan) then Flags.invalid else sigFlag [x, y]
def opVfcmpeq (f : Fmt) (_frm a b _d : Nat) : Nat × Flags :=
  ((f.decode a).eq (f.decode b) |>.toNat, compareFlag false (f.decode a) (f.decode b))
def opVfcmplt (f : Fmt) (_frm a b _d : Nat) : Nat × Flags :=
  ((f.decode a).lt (f.decode b) |>.toNat, compareFlag true (f.decode a) (f.decode b))
def opVfcmple (f : Fmt) (_frm a b _d : Nat) : Nat × Flags :=
  (((f.decode a).lt (f.decode b) || (f.decode a).eq (f.decode b)) |>.toNat,
    compareFlag true (f.decode a) (f.decode b))
def opVfcmpun (f : Fmt) (_frm a b _d : Nat) : Nat × Flags :=
  (((f.decode a).isNan || (f.decode b).isNan) |>.toNat, compareFlag false (f.decode a) (f.decode b))

/-- A function of one element: NaN inputs give the canonical NaN, invalid if signalling (R260). -/
def onNumber (f : Fmt) (a : Nat) (inf : Bool → Nat × Flags) (num : Bool → Nat → Int → Nat × Flags) : Nat × Flags :=
  match f.decode a with
  | .nan sg => (f.nanBits, if sg then Flags.invalid else 0)
  | .inf neg => inf neg
  | .num neg m e => num neg m e

def Fmt.invalidResult (f : Fmt) : Nat × Flags := (f.nanBits, Flags.invalid)
def Fmt.infBits (f : Fmt) (neg : Bool) : Nat := f.signed neg (f.inf.getD 0)
/-- 1.0. -/
def Fmt.one (f : Fmt) : Nat := f.bias * 2 ^ f.fbits

def opVfsqrt (f : Fmt) (frm a : Nat) : Nat × Flags :=
  onNumber f a (fun neg => if neg then f.invalidResult else (f.infBits false, 0)) fun neg m e =>
    if m = 0 then (a, 0) else if neg then f.invalidResult
    else let (r, x, st) := sqrtNum m e; f.round frm false r x st
def opVfrsq (f : Fmt) (_frm a : Nat) : Nat × Flags :=
  onNumber f a (fun neg => if neg then f.invalidResult else (0, 0)) fun neg m e =>
    if m = 0 then (f.infBits neg, Flags.divideByZero) else if neg then f.invalidResult
    else let (r, x, st) := rsqrtNum m e; f.round 0 false r x st
def opVfrcp (f : Fmt) (frm a : Nat) : Nat × Flags :=
  onNumber f a (fun neg => (f.signed neg 0, 0)) fun neg m e =>
    if m = 0 then (f.infBits neg, Flags.divideByZero)
    else let (r, x, st) := recipNum m e; f.round frm neg r x st

/-- What stands where no precision of the model's refinement decides a rounding (log 10): a free value. -/
def undecided (a : Nat) : Nat × Flags := ((Config.freeDWord a).toNat, Flags.inexact)

def opVfexp2 (f : Fmt) (_frm a : Nat) : Nat × Flags :=
  onNumber f a (fun neg => (if neg then 0 else f.infBits false, 0)) fun neg m e => f.exp2 (undecided a) neg m e
def opVflog2 (f : Fmt) (_frm a : Nat) : Nat × Flags :=
  onNumber f a (fun neg => if neg then f.invalidResult else (f.infBits false, 0)) fun neg m e =>
    if m = 0 then (f.infBits true, Flags.divideByZero) else if neg then f.invalidResult
    else f.log2 (undecided a) m e
def opVfsinpi (f : Fmt) (_frm a : Nat) : Nat × Flags :=
  onNumber f a (fun _ => f.invalidResult) fun neg m e => f.sinPi (undecided a) false neg m e
def opVfcospi (f : Fmt) (_frm a : Nat) : Nat × Flags :=
  onNumber f a (fun _ => f.invalidResult) fun neg m e => f.sinPi (undecided a) true neg m e
def opVftanh (f : Fmt) (_frm a : Nat) : Nat × Flags :=
  onNumber f a (fun neg => (f.signed neg f.one, 0)) fun neg m e =>
    if m = 0 then (a, 0) else f.tanh (undecided a) neg m e
def opVfabs (f : Fmt) (_frm a : Nat) : Nat × Flags := (a % f.signBit, 0)
def opVfneg (f : Fmt) (_frm a : Nat) : Nat × Flags :=
  (if natBit a (f.ebits + f.fbits) then a % f.signBit else a + f.signBit, 0)
/-- The rounding-to-integral functions keep the sign and raise no inexact (R261). -/
def opIntegral (mode : Nat) (f : Fmt) (a : Nat) : Nat × Flags :=
  onNumber f a (fun _ => (a, 0)) fun neg m e =>
    if m = 0 ∨ 0 ≤ e then (a, 0)
    else let n := (roundInt mode neg m e).1
         if n = 0 then (f.signed neg 0, 0) else ((f.round 0 neg n 0 false).1, 0)
def opVffloor (f : Fmt) (_frm a : Nat) : Nat × Flags := opIntegral modeDown f a
def opVfceil (f : Fmt) (_frm a : Nat) : Nat × Flags := opIntegral modeUp f a
def opVftrunc (f : Fmt) (_frm a : Nat) : Nat × Flags := opIntegral modeZero f a
def opVfrne (f : Fmt) (_frm a : Nat) : Nat × Flags := opIntegral modeNearest f a
/-- x - floor(x), rounded once (R261). -/
def opVffrac (f : Fmt) (frm a : Nat) : Nat × Flags :=
  onNumber f a (fun _ => f.invalidResult) fun neg m e =>
    if m = 0 ∨ 0 ≤ e then (0, 0)
    else
      let fl := (roundInt modeDown neg m e).1
      let (v, x) := exactSum neg m e (!neg) fl 0
      if v = 0 then (0, 0) else f.round frm (decide (v < 0)) v.natAbs x false
/-- The class mask (Table 9-8). -/
def opVfclass (f : Fmt) (_frm a : Nat) : Nat × Flags :=
  let sub := natBits a f.fbits f.ebits == 0
  (match f.decode a with
   | .nan true => 2 ^ 8 | .nan false => 2 ^ 9
   | .inf true => 1 | .inf false => 2 ^ 7
   | .num neg m _ =>
     if m = 0 then (if neg then 2 ^ 3 else 2 ^ 4)
     else if sub then (if neg then 2 ^ 2 else 2 ^ 5)
     else (if neg then 2 ^ 1 else 2 ^ 6), 0)

/-! ### The typed instructions and the unary functions -/

def execVfadd (t : FType) (e g : Bool) (d a b : Code) (s : State) := vecFloat3 opVfadd false false t e g d a b s
def execVfsub (t : FType) (e g : Bool) (d a b : Code) (s : State) := vecFloat3 opVfsub false false t e g d a b s
def execVfmul (t : FType) (e g : Bool) (d a b : Code) (s : State) := vecFloat3 opVfmul false false t e g d a b s
def execVffma (t : FType) (e g : Bool) (d a b : Code) (s : State) := vecFloat3 opVffma true false t e g d a b s
def execVffms (t : FType) (e g : Bool) (d a b : Code) (s : State) := vecFloat3 opVffms true false t e g d a b s
def execVfmin (t : FType) (e g : Bool) (d a b : Code) (s : State) := vecFloat3 opVfmin false false t e g d a b s
def execVfmax (t : FType) (e g : Bool) (d a b : Code) (s : State) := vecFloat3 opVfmax false false t e g d a b s
def execVfcmpeq (t : FType) (e g : Bool) (d a b : Code) (s : State) := vecFloat3 opVfcmpeq false true t e g d a b s
def execVfcmplt (t : FType) (e g : Bool) (d a b : Code) (s : State) := vecFloat3 opVfcmplt false true t e g d a b s
def execVfcmple (t : FType) (e g : Bool) (d a b : Code) (s : State) := vecFloat3 opVfcmple false true t e g d a b s
def execVfcmpun (t : FType) (e g : Bool) (d a b : Code) (s : State) := vecFloat3 opVfcmpun false true t e g d a b s
def execVfsqrt (t : FType) (e : Bool) (d a : Code) (s : State) := vecFloat1 opVfsqrt false true t e d a s
def execVfrsq (t : FType) (e : Bool) (d a : Code) (s : State) := vecFloat1 opVfrsq false true t e d a s
def execVfrcp (t : FType) (e : Bool) (d a : Code) (s : State) := vecFloat1 opVfrcp false true t e d a s
def execVfexp2 (t : FType) (e : Bool) (d a : Code) (s : State) := vecFloat1 opVfexp2 false true t e d a s
def execVflog2 (t : FType) (e : Bool) (d a : Code) (s : State) := vecFloat1 opVflog2 false true t e d a s
def execVfsinpi (t : FType) (e : Bool) (d a : Code) (s : State) := vecFloat1 opVfsinpi false true t e d a s
def execVfcospi (t : FType) (e : Bool) (d a : Code) (s : State) := vecFloat1 opVfcospi false true t e d a s
def execVftanh (t : FType) (e : Bool) (d a : Code) (s : State) := vecFloat1 opVftanh false true t e d a s
def execVfabs (t : FType) (e : Bool) (d a : Code) (s : State) := vecFloat1 opVfabs false false t e d a s
def execVfneg (t : FType) (e : Bool) (d a : Code) (s : State) := vecFloat1 opVfneg false false t e d a s
def execVffloor (t : FType) (e : Bool) (d a : Code) (s : State) := vecFloat1 opVffloor false false t e d a s
def execVfceil (t : FType) (e : Bool) (d a : Code) (s : State) := vecFloat1 opVfceil false false t e d a s
def execVftrunc (t : FType) (e : Bool) (d a : Code) (s : State) := vecFloat1 opVftrunc false false t e d a s
def execVfrne (t : FType) (e : Bool) (d a : Code) (s : State) := vecFloat1 opVfrne false false t e d a s
def execVffrac (t : FType) (e : Bool) (d a : Code) (s : State) := vecFloat1 opVffrac false false t e d a s
def execVfclass (t : FType) (e : Bool) (d a : Code) (s : State) := vecFloat1 opVfclass true false t e d a s

/-! ### Conversions (02 R35 to R39) -/

/-- Narrowing to a format, saturating or not (02 Table 2-7). -/
def Fmt.narrow (f : Fmt) (sat : Bool) (frm : Nat) (x : FVal) : Nat × Flags :=
  match x with
  | .nan sg => (f.nanBits, if sg || f.nan.isNone then Flags.invalid else 0)
  | .inf neg =>
    if f.nan.isNone || sat then (f.signed neg f.maxBits, Flags.inexact)
    else match f.inf with
      | some i => (f.signed neg i, 0)
      | none => (f.nanBits, Flags.invalid)
  | .num neg m e =>
    if m = 0 then (f.signed neg 0, 0)
    else
      let (mag, ov, fl) := f.roundMag frm neg m e false
      if !ov then (f.signed neg mag, fl)
      else if f.nan.isNone || sat || !overflowsToInf frm neg then (f.signed neg f.maxBits, fl)
      else match f.inf with
        | some i => (f.signed neg i, fl)
        | none => (f.nanBits, fl)

/-- A float value to an integer of the range lo to hi; ind is the integer indefinite value (R38). -/
def toInteger (lo hi ind : Int) (sat : Bool) (mode : Nat) (x : FVal) : Int × Flags :=
  match x with
  | .nan _ => (if sat then 0 else ind, Flags.invalid)
  | .inf neg => (if sat then (if neg then lo else hi) else ind, Flags.invalid)
  | .num neg m e =>
    if 70 < e + (Nat.log2 m : Int) ∧ m ≠ 0 then (if sat then (if neg then lo else hi) else ind, Flags.invalid)
    else
      let (n, nx) := roundInt mode neg m e
      let v : Int := if neg then -(n : Int) else n
      if v < lo then (if sat then lo else ind, Flags.invalid)
      else if hi < v then (if sat then hi else ind, Flags.invalid)
      else (v, if nx then Flags.inexact else 0)

def toI32 (sat : Bool) (mode : Nat) (x : FVal) : Nat × Flags :=
  let (v, f) := toInteger (-2147483648) 2147483647 (-2147483648) sat mode x; ((BitVec.ofInt 32 v).toNat, f)
def toN32 (sat : Bool) (mode : Nat) (x : FVal) : Nat × Flags :=
  let (v, f) := toInteger 0 4294967295 4294967295 sat mode x; ((BitVec.ofInt 32 v).toNat, f)
def toI64 (sat : Bool) (mode : Nat) (x : FVal) : Nat × Flags :=
  let (v, f) := toInteger (-9223372036854775808) 9223372036854775807 (-9223372036854775808) sat mode x
  ((BitVec.ofInt 64 v).toNat, f)
def toN64 (sat : Bool) (mode : Nat) (x : FVal) : Nat × Flags :=
  let (v, f) := toInteger 0 18446744073709551615 18446744073709551615 sat mode x
  ((BitVec.ofInt 64 v).toNat, f)
/-- An integer to a float format (R38). -/
def Fmt.ofInteger (f : Fmt) (frm : Nat) (v : Int) : Nat × Flags := f.round frm (decide (v < 0)) v.natAbs 0 false

/-- The exponent of an FP32 value as an E8M0 scale (R39). -/
def toE8m0 (a : Nat) : Nat × Flags :=
  match Fmt.f32.decode a with
  | .nan sg => (0xFF, if sg then Flags.invalid else 0)
  | .inf _ => (0xFF, 0)
  | .num _ m e => (if m = 0 then 0 else (e + (Nat.log2 m : Int) + 127).toNat, 0)
/-- An E8M0 scale as FP32 (R39). -/
def ofE8m0 (x : Nat) : Nat × Flags :=
  (if x = 0xFF then 0x7FC00000 else if x = 0 then 0x00400000 else x * 2 ^ 23, 0)

/-- Where a conversion code reads and writes, and what it computes. -/
inductive CvtKind where
  | toHalf (f : Fmt)      -- .f32 to a half
  | toByte (f : Fmt)      -- .f32 to a byte
  | toPair                -- .f16x2 to an .e2m1 pair in a byte
  | fromHalf (f : Fmt)    -- half to .f32
  | fromByte (f : Fmt)    -- byte to .f32
  | fromPair              -- .e2m1 pair in a byte to .f16x2
  | whole                 -- 32 bits to 32 bits
  | toE8 | fromE8
  | d2w | w2d | d2d       -- 64-bit sources and results (Table 9-9)
  | none
  deriving DecidableEq, Repr

/-- The rows of Table 2-6. -/
def cvtKind (c : Nat) : CvtKind :=
  if c < 0x02 then .toHalf .f16 else if c < 0x04 then .none
  else if c < 0x06 then .toHalf .bf16 else if c < 0x08 then .none
  else if c < 0x0C then .toByte .e4m3 else if c < 0x10 then .toByte .e5m2
  else if c < 0x14 then .toByte .e3m2 else if c < 0x18 then .toByte .e2m3
  else if c < 0x1C then .toPair
  else if c < 0x1E then .fromHalf .f16 else if c < 0x20 then .none
  else if c < 0x22 then .fromHalf .bf16 else if c < 0x24 then .none
  else if c < 0x28 then .fromByte .e4m3 else if c < 0x2C then .fromByte .e5m2
  else if c < 0x30 then .fromByte .e3m2 else if c < 0x34 then .fromByte .e2m3
  else if c < 0x38 then .fromPair
  else if c < 0x3E then .whole else if c < 0x40 then .none
  else if c = 0x40 ∨ c = 0x42 ∨ c = 0x43 then .d2w
  else if c = 0x41 ∨ c = 0x44 ∨ c = 0x45 then .w2d
  else if c = 0x46 ∨ c = 0x47 then .d2d
  else if c = 0x48 ∨ c = 0x49 then .whole
  else if c < 0x50 then .none
  else if c < 0x54 then .toE8 else if c < 0x58 then .fromE8 else .none

/-- Whether `vcvt`, or `vcvts` if sat, has the code (Table 2-6, R36). -/
def cvtListed (sat : Bool) (c : Nat) : Bool :=
  match cvtKind c with
  | .toHalf _ | .toByte _ | .toPair => true
  | .fromHalf _ | .fromByte _ | .fromPair | .w2d | .toE8 | .fromE8 => !sat
  | .whole => !sat || (decide (c ≠ 0x3C) && decide (c ≠ 0x3D))
  | .d2w => true
  | .d2d => !sat || decide (c = 0x46)
  | .none => false

/-- The value of a conversion: the half or byte, or the whole result, with its flags (Table 2-6). -/
def convert (c : Nat) (sat : Bool) (frm x : Nat) : Nat × Flags :=
  let half := x / 65536 ^ (c % 2) % 65536
  let byte := x / 256 ^ (c % 4) % 256
  match cvtKind c with
  | .toHalf f => f.narrow sat frm (Fmt.f32.decode x)
  | .toByte f => f.narrow sat frm (Fmt.f32.decode x)
  | .toPair =>
    let lo := Fmt.e2m1.narrow sat frm (Fmt.f16.decode (x % 65536))
    let hi := Fmt.e2m1.narrow sat frm (Fmt.f16.decode (x / 65536))
    (lo.1 + hi.1 * 16, lo.2 ||| hi.2)
  | .fromHalf f => Fmt.f32.roundVal 0 (f.decode half)
  | .fromByte f => Fmt.f32.roundVal 0 (f.decode (byte % 2 ^ f.width))
  | .fromPair =>
    let lo := Fmt.f16.roundVal 0 (Fmt.e2m1.decode (byte % 16))
    let hi := Fmt.f16.roundVal 0 (Fmt.e2m1.decode (byte / 16))
    (lo.1 + hi.1 * 65536, lo.2 ||| hi.2)
  | .whole =>
    if c = 0x38 then toI32 sat frm (Fmt.f32.decode x)
    else if c = 0x39 then toI32 sat modeZero (Fmt.f32.decode x)
    else if c = 0x3A then toN32 sat frm (Fmt.f32.decode x)
    else if c = 0x3B then toN32 sat modeZero (Fmt.f32.decode x)
    else if c = 0x3C then Fmt.f32.ofInteger frm (BitVec.ofNat 32 x).toInt
    else if c = 0x3D then Fmt.f32.ofInteger frm x
    else
      let src := if c = 0x48 then Fmt.f16 else Fmt.bf16
      let dst := if c = 0x48 then Fmt.bf16 else Fmt.f16
      let lo := dst.narrow sat frm (src.decode (x % 65536))
      let hi := dst.narrow sat frm (src.decode (x / 65536))
      (lo.1 + hi.1 * 65536, lo.2 ||| hi.2)
  | .toE8 => toE8m0 x
  | .fromE8 => ofE8m0 byte
  | .d2w =>
    if c = 0x40 then Fmt.f32.narrow sat frm (Fmt.f64.decode x)
    else if c = 0x42 then toI32 sat frm (Fmt.f64.decode x) else toI32 sat modeZero (Fmt.f64.decode x)
  | .w2d =>
    if c = 0x41 then Fmt.f64.roundVal 0 (Fmt.f32.decode x)
    else if c = 0x44 then Fmt.f64.ofInteger frm (BitVec.ofNat 32 x).toInt else Fmt.f64.ofInteger frm x
  | .d2d =>
    if c = 0x46 then toI64 sat modeZero (Fmt.f64.decode x)
    else Fmt.f64.ofInteger frm (BitVec.ofNat 64 x).toInt
  | .none => (0, 0)

/-- The result of a lane: the half or byte that the code names replaced in the old value, or the whole (R36). -/
def mergeConvert (c : Nat) (old : Nat) (y : Nat) : Nat :=
  match cvtKind c with
  | .toHalf _ => old - old / 65536 ^ (c % 2) % 65536 * 65536 ^ (c % 2) + y * 65536 ^ (c % 2)
  | .toByte _ | .toPair | .toE8 => old - old / 256 ^ (c % 4) % 256 * 256 ^ (c % 4) + y * 256 ^ (c % 4)
  | .fromHalf _ | .fromByte _ | .fromPair | .whole | .fromE8 | .d2w | .w2d | .d2d | .none => y

/-- `vcvt` and `vcvts` (R35, R36, R263). -/
def vecConvert (sat e : Bool) (d a c : Code) (s : State) : Host.Outcome State Fault Refusal :=
  let k := cvtKind c.toNat
  let wideA := decide (k = .d2w ∨ k = .d2d)
  let wideD := decide (k = .w2d ∨ k = .d2d)
  let us : List Use := [⟨if wideA then .vsrc64 else .vsrc, a, e⟩, ⟨if wideD then .vdst64 else .vdst, d, false⟩]
  vecFloat us wideA false wideD (isVreg d.toNat) a 0x78 d
    (fun frm x _ old => let (y, f) := convert c.toNat sat frm x; (mergeConvert c.toNat old y, f)) s
    (!cvtListed sat c.toNat)

def execVcvt (e : Bool) (d a c : Code) (s : State) := vecConvert false e d a c s
def execVcvts (e : Bool) (d a c : Code) (s : State) := vecConvert true e d a c s

/-! ### Packing, scaling and paired dot products -/

/-- `vpack` (R264). -/
def vecPack (f : Fmt) (e g : Bool) (d a b : Code) (s : State) : Host.Outcome State Fault Refusal :=
  vecFloat [⟨.vsrc, a, e⟩, ⟨.vsrc, b, g⟩, ⟨.vdst, d, false⟩] false false false false a b d
    (fun frm x y _ =>
      let lo := f.narrow false frm (Fmt.f32.decode x)
      let hi := f.narrow false frm (Fmt.f32.decode y)
      (lo.1 + hi.1 * 65536, lo.2 ||| hi.2)) s
def execVpackF16 (e g : Bool) (d a b : Code) (s : State) := vecPack .f16 e g d a b s
def execVpackBf16 (e g : Bool) (d a b : Code) (s : State) := vecPack .bf16 e g d a b s

/-- scaleB (R265). -/
def Fmt.scale (f : Fmt) (frm x y : Nat) : Nat × Flags :=
  onNumber f x (fun neg => (f.infBits neg, 0)) fun neg m e =>
    f.round frm neg m (e + (BitVec.ofNat 32 y).toInt) false
def vecScale (t : FType) (e g : Bool) (d a b : Code) (s : State) : Host.Outcome State Fault Refusal :=
  let us : List Use := [⟨if typeWide t then .vsrc64 else .vsrc, a, e⟩, ⟨.vsrc, b, g⟩,
    ⟨if typeWide t then .vdst64 else .vdst, d, false⟩]
  vecFloat us (typeWide t) false (typeWide t) false a b d (fun frm x y _ => (typeFmt t).scale frm x y) s
def execVfscaleF32 (e g : Bool) (d a b : Code) (s : State) := vecScale .f32 e g d a b s
def execVfscaleF64 (e g : Bool) (d a b : Code) (s : State) := vecScale .f64 e g d a b s

/-- The exact sum of three values, rounded once to FP32 (R266). -/
def sum3 (frm : Nat) (x y z : FVal) : Nat × Flags :=
  let f := Fmt.f32
  let infs := [x, y, z].filterMap fun v => match v with
    | .inf n => some n
    | .nan _ => none
    | .num _ _ _ => none
  if infs.contains true && infs.contains false then f.invalidResult
  else if x.isNan || y.isNan || z.isNan then (f.nanBits, 0)
  else match infs with
    | n :: _ => (f.infBits n, 0)
    | [] =>
      match x, y, z with
      | .num na ma ea, .num nb mb eb, .num nc mc ec =>
        let (v, e) := exactSum na ma ea nb mb eb
        let (w, g) := exactSum (decide (v < 0)) v.natAbs e nc mc ec
        if w = 0 then
          (f.signed (if ma = 0 ∧ mb = 0 ∧ mc = 0 ∧ na = nb ∧ nb = nc then na else frm = 3) 0, 0)
        else f.round frm (decide (w < 0)) w.natAbs g false
      | _, _, _ => (f.nanBits, 0)

/-- `vfdot2` on one lane (R266). -/
def dot2 (t : Fmt) (frm a b d : Nat) : Nat × Flags :=
  let a0 := t.decode (a % 65536); let a1 := t.decode (a / 65536)
  let b0 := t.decode (b % 65536); let b1 := t.decode (b / 65536)
  let z := Fmt.f32.decode d
  let (p, bad0) := mulVal a0 b0
  let (q, bad1) := mulVal a1 b1
  if bad0 || bad1 then Fmt.f32.invalidResult
  else
    let (r, fl) := sum3 frm p q z
    (r, fl ||| sigFlag [a0, a1, b0, b1, z])
def vecDot2 (f : Fmt) (e g : Bool) (d a b : Code) (s : State) : Host.Outcome State Fault Refusal :=
  vecFloat [⟨.vsrc, a, e⟩, ⟨.vsrc, b, g⟩, ⟨.vreg, d, false⟩] false false false true a b d
    (fun frm => dot2 f frm) s
def execVfdot2F16 (e g : Bool) (d a b : Code) (s : State) := vecDot2 .f16 e g d a b s
def execVfdot2Bf16 (e g : Bool) (d a b : Code) (s : State) := vecDot2 .bf16 e g d a b s

/-! ### Write-back (R250 to R252) -/

/-- Take lanes out of every entry of a frontier (13 R357). -/
def takeLanes (m : Mask) (l : List Entry) : List Entry :=
  (l.map fun e => { e with mask := e.mask &&& ~~~ m }).filter fun e => decide (e.mask ≠ 0)

/-- The lanes whose lowest enabled flag is flag k (R252). -/
def FloatResult.trapLanes (f : FloatResult) (k : Nat) : Mask :=
  f.mask &&& maskOf fun l =>
    let x := f.flags.getD l 0 &&& f.te
    x.getLsbD k && (List.range k).all (fun j => !x.getLsbD j)

/-- The float causes by flag, lowest first. -/
def floatCauses : List (Nat × Cause) :=
  [(0, .floatInvalid), (1, .floatDivideByZero), (2, .floatOverflow), (3, .floatUnderflow), (4, .floatInexact)]

/-- The causes a float instruction raises, split by lane (R252). -/
def FloatResult.raises (f : FloatResult) : List Raise :=
  (floatCauses.map fun c => ({ cause := c.2, mask := f.trapLanes c.1, taddr := pcWord f.pc } : Raise)).filter
    fun r => decide (r.mask ≠ 0)

/-- The flags of the lanes that issued, united (R251). -/
def FloatResult.union (f : FloatResult) : Flags :=
  (lanesOf f.mask).foldl (fun acc l => acc ||| f.flags.getD l 0) 0

/-- Write the lines, push the entry, unite the flags, and deliver the traps (R250 to R252). The trapping lanes leave the
entry in which they stand by then: also a handler entry, if a signal has taken them between the issue and the write-back,
which is the model's choice (log 93). -/
def State.writeFloat (s : State) (k : Nat) (f : FloatResult) : State :=
  let st := s.strand k
  let st1 := f.lines.foldl (fun st x => st.writeLanes x.1 x.2.1 (laneOf x.2.2)) st
  let s1 := s.setStrand k (st1.addFlags f.union f.shadow)
  let s2 := match f.push with
    | some x => s1.pushQueue k x.2
    | none => s1
  let rs := f.raises
  if rs.isEmpty ∨ s.guard.sequence ≠ .none then s2
  else
    let all := rs.foldl (fun acc r => acc ||| r.mask) (0 : Mask)
    let st2 := s2.strand k
    let s3 := s2.setStrand k (st2.setFrontier (takeLanes all st2.frontier))
    rs.foldl (fun s r => s.takeCause k { mask := r.mask, prio := f.prio, pc := f.pc } r) s3

/-- FLOAT_WRITEBACK: the result of the given place in the strand's list is written. A result that waits behind
another of the same queue keeps its place by the waits of R250. -/
def execFloatWriteback (key place : Nat) (s : State) : Host.Outcome State Fault Refusal :=
  let st := s.strand key
  match st.floats[place]? with
  | none => .next s
  | some f => .next ((s.setStrand key { st with floats := st.floats.eraseIdx place }).writeFloat key f)

end Sys2Proof.Machine
end

