-- ==== Sys2Proof/Machine/Scalar.lean ====
section
/-! DEFINITION. The scalar unit (06 R183 to R192). -/

namespace Sys2Proof.Machine

/-- A cause that concerns no address leaves TADDR zero (13 Table 13-2; log 11). -/
def State.raiseNoAddress (s : State) (c : Cause) : State := s.raiseAllAt c 0

/-- The V-format shape: D := f A B (R184). -/
def scaBin (f : DWord → DWord → DWord) (e g : Bool) (d a b : Code) (s : State) : Host.Outcome State Fault Refusal :=
  let us : List Use := [⟨.ssrc, a, e⟩, ⟨.ssrc, b, g⟩, ⟨.sdst, d, false⟩]
  run s us [] false false fun s =>
    ((s.popSources us).writeS d (popsInto us) (f (s.ssrc a) (s.ssrc b))).advance

/-- The shape of the forms that read D as well (R183); `bad` tests B for a reserved bit (R184). -/
def scaMod (f : DWord → DWord → DWord → DWord) (bad : DWord → Bool) (e g : Bool) (d a b : Code) (s : State) :
    Host.Outcome State Fault Refusal :=
  let us : List Use := [⟨.ssrc, a, e⟩, ⟨.ssrc, b, g⟩, ⟨.ssrc, d, false⟩, ⟨.sdst, d, false⟩]
  run s us [] false false fun s =>
    if bad (s.ssrc b) then s.raiseAll .illegalOpcode
    else ((s.popSources us).writeS d (popsInto us) (f (s.ssrc a) (s.ssrc b) (s.ssrc d))).advance

/-- The divides: a zero divisor raises 0x06 before D changes (R185). -/
def scaDiv (f : DWord → DWord → DWord) (e g : Bool) (d a b : Code) (s : State) : Host.Outcome State Fault Refusal :=
  let us : List Use := [⟨.ssrc, a, e⟩, ⟨.ssrc, b, g⟩, ⟨.sdst, d, false⟩]
  run s us [] false false fun s =>
    if s.ssrc b = 0 then s.raiseNoAddress .divideByZero
    else ((s.popSources us).writeS d (popsInto us) (f (s.ssrc a) (s.ssrc b))).advance

/-- The U-format functions and `smov` (R186). -/
def scaUn (f : DWord → DWord) (e : Bool) (d a : Code) (s : State) : Host.Outcome State Fault Refusal :=
  let us : List Use := [⟨.ssrc, a, e⟩, ⟨.sdst, d, false⟩]
  run s us [] false false fun s => ((s.popSources us).writeS d (popsInto us) (f (s.ssrc a))).advance

/-- The I-format forms (R187). -/
def scaImm (f : DWord → DWord → DWord) (bad : Bool) (imm : DWord) (d a : Code) (s : State) :
    Host.Outcome State Fault Refusal :=
  let us : List Use := [⟨.ssrc, a, false⟩, ⟨.sdst, d, false⟩]
  run s us [] bad false fun s => ((s.popSources us).writeS d (popsInto us) (f (s.ssrc a) imm)).advance

/-! ### Values (Tables 6-5, 6-6, 6-7) -/

def valSadd (a b : DWord) : DWord := a + b
def valSsub (a b : DWord) : DWord := a - b
def valSmul (a b : DWord) : DWord := a * b
def valSmulhu (a b : DWord) : DWord := BitVec.ofNat 64 (a.toNat * b.toNat / 2 ^ 64)
def valSmulhs (a b : DWord) : DWord := BitVec.ofInt 64 (a.toInt * b.toInt / 2 ^ 64)
def valSdivu (a b : DWord) : DWord := BitVec.ofNat 64 (a.toNat / b.toNat)
def valSdivs (a b : DWord) : DWord := BitVec.ofInt 64 (a.toInt.tdiv b.toInt)
def valSremu (a b : DWord) : DWord := BitVec.ofNat 64 (a.toNat % b.toNat)
def valSrems (a b : DWord) : DWord := BitVec.ofInt 64 (a.toInt.tmod b.toInt)
def valSmins (a b : DWord) : DWord := if a.toInt ≤ b.toInt then a else b
def valSminu (a b : DWord) : DWord := if a.toNat ≤ b.toNat then a else b
def valSmaxs (a b : DWord) : DWord := if a.toInt ≤ b.toInt then b else a
def valSmaxu (a b : DWord) : DWord := if a.toNat ≤ b.toNat then b else a
def valSand (a b : DWord) : DWord := a &&& b
def valSor (a b : DWord) : DWord := a ||| b
def valSxor (a b : DWord) : DWord := a ^^^ b
def valSandn (a b : DWord) : DWord := a &&& ~~~ b
def valSshl (a b : DWord) : DWord := a <<< (b.toNat % 64)
def valSshru (a b : DWord) : DWord := a >>> (b.toNat % 64)
def valSshrs (a b : DWord) : DWord := a.sshiftRight (b.toNat % 64)
/-- The width of a scalar bit field: the lower of B[14:8] and 64 (R184). -/
def scalarFieldWidth (b : DWord) : Nat := min (b.toNat / 256 % 128) 64
/-- Bits [7:6] and [63:15] of B must be zero in `sbfe` and `sbfi` (R184). -/
def fieldReserved (b : DWord) : Bool := b.toNat / 64 % 4 != 0 || b.toNat / 32768 != 0
def valSbfe (a b : DWord) : DWord := BitVec.ofNat 64 (a.toNat / 2 ^ (b.toNat % 64) % 2 ^ scalarFieldWidth b)
def valSbfi (a b d : DWord) : DWord := insertField d a (b.toNat % 64) (scalarFieldWidth b)
def valSsel (a b d : DWord) : DWord := if d = 0 then b else a
def valScmpeq (a b : DWord) : DWord := truth (a == b)
def valScmplts (a b : DWord) : DWord := truth (decide (a.toInt < b.toInt))
def valScmpltu (a b : DWord) : DWord := truth (decide (a.toNat < b.toNat))
def valScmples (a b : DWord) : DWord := truth (decide (a.toInt ≤ b.toInt))
def valScmpleu (a b : DWord) : DWord := truth (decide (a.toNat ≤ b.toNat))
def valSpopc (a : DWord) : DWord := BitVec.ofNat 64 (popCount a)
def valSclz (a : DWord) : DWord := BitVec.ofNat 64 (leadingZeros a)
def valSctz (a : DWord) : DWord := BitVec.ofNat 64 (trailingZeros a)
def valSbrev (a : DWord) : DWord := reverseBits a
def valSnot (a : DWord) : DWord := ~~~ a
def valSneg (a : DWord) : DWord := 0 - a
def valSsx32 (a : DWord) : DWord := (a.extractLsb' 0 32).signExtend 64
def valSzx32 (a : DWord) : DWord := (a.extractLsb' 0 32).zeroExtend 64

/-! ### The integer instructions -/

def execSadd (e g : Bool) (d a b : Code) (s : State) := scaBin valSadd e g d a b s
def execSsub (e g : Bool) (d a b : Code) (s : State) := scaBin valSsub e g d a b s
def execSmul (e g : Bool) (d a b : Code) (s : State) := scaBin valSmul e g d a b s
def execSmulhu (e g : Bool) (d a b : Code) (s : State) := scaBin valSmulhu e g d a b s
def execSmulhs (e g : Bool) (d a b : Code) (s : State) := scaBin valSmulhs e g d a b s
def execSmins (e g : Bool) (d a b : Code) (s : State) := scaBin valSmins e g d a b s
def execSminu (e g : Bool) (d a b : Code) (s : State) := scaBin valSminu e g d a b s
def execSmaxs (e g : Bool) (d a b : Code) (s : State) := scaBin valSmaxs e g d a b s
def execSmaxu (e g : Bool) (d a b : Code) (s : State) := scaBin valSmaxu e g d a b s
def execSand (e g : Bool) (d a b : Code) (s : State) := scaBin valSand e g d a b s
def execSor (e g : Bool) (d a b : Code) (s : State) := scaBin valSor e g d a b s
def execSxor (e g : Bool) (d a b : Code) (s : State) := scaBin valSxor e g d a b s
def execSandn (e g : Bool) (d a b : Code) (s : State) := scaBin valSandn e g d a b s
def execSshl (e g : Bool) (d a b : Code) (s : State) := scaBin valSshl e g d a b s
def execSshru (e g : Bool) (d a b : Code) (s : State) := scaBin valSshru e g d a b s
def execSshrs (e g : Bool) (d a b : Code) (s : State) := scaBin valSshrs e g d a b s
def execScmpeq (e g : Bool) (d a b : Code) (s : State) := scaBin valScmpeq e g d a b s
def execScmplts (e g : Bool) (d a b : Code) (s : State) := scaBin valScmplts e g d a b s
def execScmpltu (e g : Bool) (d a b : Code) (s : State) := scaBin valScmpltu e g d a b s
def execScmples (e g : Bool) (d a b : Code) (s : State) := scaBin valScmples e g d a b s
def execScmpleu (e g : Bool) (d a b : Code) (s : State) := scaBin valScmpleu e g d a b s
def execSdivu (e g : Bool) (d a b : Code) (s : State) := scaDiv valSdivu e g d a b s
def execSdivs (e g : Bool) (d a b : Code) (s : State) := scaDiv valSdivs e g d a b s
def execSremu (e g : Bool) (d a b : Code) (s : State) := scaDiv valSremu e g d a b s
def execSrems (e g : Bool) (d a b : Code) (s : State) := scaDiv valSrems e g d a b s
def execSpopc (e : Bool) (d a : Code) (s : State) := scaUn valSpopc e d a s
def execSclz (e : Bool) (d a : Code) (s : State) := scaUn valSclz e d a s
def execSctz (e : Bool) (d a : Code) (s : State) := scaUn valSctz e d a s
def execSbrev (e : Bool) (d a : Code) (s : State) := scaUn valSbrev e d a s
def execSnot (e : Bool) (d a : Code) (s : State) := scaUn valSnot e d a s
def execSneg (e : Bool) (d a : Code) (s : State) := scaUn valSneg e d a s
def execSsx32 (e : Bool) (d a : Code) (s : State) := scaUn valSsx32 e d a s
def execSzx32 (e : Bool) (d a : Code) (s : State) := scaUn valSzx32 e d a s
def execSmov (e : Bool) (d a : Code) (s : State) := scaUn id e d a s
def execSaddi (d a : Code) (i : BitVec 9) (s : State) := scaImm valSadd false (i.signExtend 64) d a s
def execSandi (d a : Code) (i : BitVec 9) (s : State) := scaImm valSand false (i.signExtend 64) d a s
def execSori (d a : Code) (i : BitVec 9) (s : State) := scaImm valSor false (i.signExtend 64) d a s
def execSxori (d a : Code) (i : BitVec 9) (s : State) := scaImm valSxor false (i.signExtend 64) d a s
def execScmpeqi (d a : Code) (i : BitVec 9) (s : State) := scaImm valScmpeq false (i.signExtend 64) d a s
def execScmpltsi (d a : Code) (i : BitVec 9) (s : State) := scaImm valScmplts false (i.signExtend 64) d a s
def execScmpltui (d a : Code) (i : BitVec 9) (s : State) := scaImm valScmpltu false (i.signExtend 64) d a s
def execSshli (d a : Code) (i : BitVec 9) (s : State) := scaImm valSshl (shiftTooLong i 64) (i.zeroExtend 64) d a s
def execSshrui (d a : Code) (i : BitVec 9) (s : State) := scaImm valSshru (shiftTooLong i 64) (i.zeroExtend 64) d a s
def execSshrsi (d a : Code) (i : BitVec 9) (s : State) := scaImm valSshrs (shiftTooLong i 64) (i.zeroExtend 64) d a s
/-- `sbfe`: reserved bits of B raise 0x01 (R184). -/
def execSbfe (e g : Bool) (d a b : Code) (s : State) : Host.Outcome State Fault Refusal :=
  let us : List Use := [⟨.ssrc, a, e⟩, ⟨.ssrc, b, g⟩, ⟨.sdst, d, false⟩]
  run s us [] false false fun s =>
    if fieldReserved (s.ssrc b) then s.raiseAll .illegalOpcode
    else ((s.popSources us).writeS d (popsInto us) (valSbfe (s.ssrc a) (s.ssrc b))).advance
def execSbfi (e g : Bool) (d a b : Code) (s : State) := scaMod valSbfi fieldReserved e g d a b s
def execSsel (e g : Bool) (d a b : Code) (s : State) := scaMod valSsel (fun _ => false) e g d a b s

/-! ### STAT (R188, R189) -/

/-- The status item a selector names (Table 6-8). -/
def State.statusItem (s : State) (sel : Nat) : DWord :=
  let st := s.cur
  if sel = 0 then st.stat
  else if sel = 1 then BitVec.ofNat 64 st.wb
  else if sel = 2 then st.cib
  else if sel = 3 then (candidate st).mask
  else if sel = 4 then BitVec.ofNat 64 st.frontier.length
  else if sel = 5 then BitVec.ofNat 64 (st.core + 256 * st.bench)
  else BitVec.ofNat 64 (s.now - s.stage2At)

/-- `sgetst`: the read of STAT waits for the flags of earlier float instructions (R188, 09 R250). -/
def execSgetst (d sel : Code) (s : State) : Host.Outcome State Fault Refusal :=
  let us : List Use := [⟨.sdst, d, false⟩]
  run s us [] (decide (7 ≤ sel.toNat)) false fun s =>
    if sel.toNat = 0 ∧ s.cur.floats ≠ [] then s.stallWith 12
    else (s.writeS d false (s.statusItem sel.toNat)).advance

/-- The RW fields of STAT: SDW, FRM, TE, FL (04 Table 4-7). -/
def statWritable : DWord := 0x020000000003 <<< 16 ||| 0x1F1F

/-- `ssetst` (R189). -/
def execSsetst (e g : Bool) (a b : Code) (s : State) : Host.Outcome State Fault Refusal :=
  let us : List Use := [⟨.ssrc, a, e⟩, ⟨.ssrc, b, g⟩]
  run s us [] false false fun s =>
    if s.cur.floats ≠ [] then s.stallWith 12
    else
      let m := s.ssrc b &&& statWritable
      let v := s.ssrc a
      ((s.popSources us).onCur fun st => st.writeStat m v).advance

/-! ### Scalar float (R190, R191) -/

/-- The end of a scalar float instruction: D, the flags, and the trap of the lowest enabled flag for every lane
of the entry (R190). The trap is taken after D has been written, by an instruction that pops a queue too (13 R344). -/
def State.scalarFloat (s : State) (us : List Use) (d : Code) (r : Nat × Flags) : State :=
  let e := candidate s.cur
  let trap := floatCauses.find? fun c => (r.2 &&& s.cur.te).getLsbD c.1
  let s1 := ((s.popSources us).writeS d (popsInto us && trap.isNone) (BitVec.ofNat 64 r.1)).onCur fun st =>
    st.addFlags r.2 (if st.shadow then r.2 else 0)
  match trap with
  | some c => s1.settle [] [{ cause := c.2, mask := e.mask, taddr := pcWord e.pc }]
  | none => s1.advance

def scaFloat (op : Nat → Nat → Nat → Nat → Nat × Flags) (modify e g : Bool) (d a b : Code) (s : State) :
    Host.Outcome State Fault Refusal :=
  let us : List Use := [⟨.ssrc, a, e⟩, ⟨.ssrc, b, g⟩] ++ (if modify then [⟨.ssrc, d, false⟩] else []) ++
    [⟨.sdst, d, false⟩]
  run s us [] false false fun s =>
    s.scalarFloat us d (op s.cur.frm (s.ssrc a).toNat (s.ssrc b).toNat (s.ssrc d).toNat)

def execSfadd (e g : Bool) (d a b : Code) (s : State) := scaFloat (opVfadd .f64) false e g d a b s
def execSfsub (e g : Bool) (d a b : Code) (s : State) := scaFloat (opVfsub .f64) false e g d a b s
def execSfmul (e g : Bool) (d a b : Code) (s : State) := scaFloat (opVfmul .f64) false e g d a b s
def execSffma (e g : Bool) (d a b : Code) (s : State) := scaFloat (opVffma .f64) true e g d a b s
def execSfcmplt (e g : Bool) (d a b : Code) (s : State) := scaFloat (opVfcmplt .f64) false e g d a b s

/-- The conversions of Table 6-9. -/
def scalarConvert (n frm x : Nat) : Nat × Flags :=
  if n = 0 then toI64 false frm (Fmt.f64.decode x)
  else if n = 1 then toI64 false modeZero (Fmt.f64.decode x)
  else if n = 2 then toN64 false modeZero (Fmt.f64.decode x)
  else if n = 3 then Fmt.f64.ofInteger frm (BitVec.ofNat 64 x).toInt
  else if n = 4 then Fmt.f64.ofInteger frm x
  else if n = 5 then Fmt.f32.narrow false frm (Fmt.f64.decode x)
  else Fmt.f64.roundVal 0 (Fmt.f32.decode (x % 2 ^ 32))

/-- `sfcvt` (R191). -/
def execSfcvt (e : Bool) (d a n : Code) (s : State) : Host.Outcome State Fault Refusal :=
  let us : List Use := [⟨.ssrc, a, e⟩, ⟨.sdst, d, false⟩]
  run s us [] (decide (7 ≤ n.toNat)) false fun s =>
    s.scalarFloat us d (scalarConvert n.toNat s.cur.frm (s.ssrc a).toNat)

/-! ### Long immediates (R192) -/

/-- The shape of the scalar forms: D names s0 to s63 and may be read. -/
def scaLong (f : DWord → DWord → DWord) (d : Code) (i : BitVec 16) (s : State) : Host.Outcome State Fault Refusal :=
  let us : List Use := [⟨.sreg, d, false⟩]
  run s us [] false false fun s =>
    (s.writeS d false (f (s.cur.scalar d.toNat) (i.zeroExtend 64))).advance

/-- Sixteen bits of d from position lo replaced. -/
def replace16 (lo : Nat) (d i : DWord) : DWord := insertField d i lo 16
def execSmovl (d : Code) (i : BitVec 16) (s : State) := scaLong (fun _ i => i) d i s
def execSmovh (d : Code) (i : BitVec 16) (s : State) := scaLong (replace16 16) d i s
def execSmovx (d : Code) (i : BitVec 16) (s : State) := scaLong (replace16 32) d i s
def execSmovt (d : Code) (i : BitVec 16) (s : State) := scaLong (replace16 48) d i s

/-- The shape of `vmovl` and `vmovh`: D names v0 to v95. -/
def vecLong (f : Word → Word → Word) (d : Code) (i : BitVec 16) (s : State) : Host.Outcome State Fault Refusal :=
  let us : List Use := [⟨.vreg, d, false⟩]
  run s us [] false false fun s =>
    let x := s.vsrc d
    (s.writeV d false fun l => f (laneOf x l) (i.zeroExtend 32)).advance
def execVmovl (d : Code) (i : BitVec 16) (s : State) := vecLong (fun _ i => i) d i s
def execVmovh (d : Code) (i : BitVec 16) (s : State) := vecLong (fun d i => insertField d i 16 16) d i s

end Sys2Proof.Machine
end

