-- ==== Sys2Proof/Machine/Control.lean ====
section
/-! DEFINITION. Control flow, exits, spawning, barriers, the window (06 R163 to R174, R178 to R182). -/

namespace Sys2Proof.Machine

/-- All lanes of a strand that starts; in shadow mode lanes 0 to 31 with their twins (R105, R115). -/
def startMask : Mask := BitVec.allOnes 64

/-- The base of the scratch window (05 R123). -/
def scratchBase : Nat := 0x00FFFF0000000000
/-- The base of the span scratch window (05 R124). -/
def spanBase : Nat := 0x00FFFF8000000000

/-- STAT at strand start: CHK and VAR of the cohort (04 Table 4-7). -/
def Cohort.startStat (c : Cohort) : DWord := BitVec.ofNat 64 (c.check * 2 ^ 60 + c.vid * 2 ^ 58)

/-- The scalars at strand start (04 Table 4-9). -/
def Cohort.startScalars (c : Cohort) (k : Nat) (priv : DWord) : Tab DWord :=
  let v := c.variant
  [(0, c.frame), (1, BitVec.ofNat 64 c.index), (2, BitVec.ofNat 64 c.count), (3, BitVec.ofNat 64 c.vid0),
   (4, BitVec.ofNat 64 k), (5, BitVec.ofNat 64 v.strands), (6, priv), (7, BitVec.ofNat 64 scratchBase),
   (62, BitVec.ofNat 64 v.priv)].filter fun x => decide (x.2 ≠ 0)

/-- Strand slot k of a cohort in its start state at an address (04 Table 4-9); its place is kept, hot or warm, and so is
what its image's spill area holds. -/
def Cohort.startStrand (c : Cohort) (old : Strand) (k : Nat) (pc : Pc) (mask : Mask) : Strand :=
  { key := old.key, cib := old.cib, ccb := c.ccb, core := old.core, bench := old.bench, slot := old.slot,
    sidx := k, nlines := c.variant.linesOf k, privBase := old.privBase,
    scal := c.startScalars k old.privBase, stat := c.startStat,
    frontier := [{ mask := mask, prio := prioIn c.pmap pc, pc := pc }], lastIssue := old.lastIssue, hot := old.hot,
    spilled := old.spilled }

/-! ### Targets (R163) -/

/-- The cause of a target taken from a scalar. -/
def targetCause (a : DWord) : Option Cause :=
  if a.toNat % 4 ≠ 0 then some .misaligned
  else if a.toNat / 2 ^ 48 ≠ 0 then some .nonCanonical
  else none
/-- The target as a PC. -/
def targetPc (a : DWord) : Pc := BitVec.ofNat 48 a.toNat
/-- The target of a B or J format instruction: 4 x offset from its own address, modulo 2^48 (03 R47). -/
def relPc {n : Nat} (pc : Pc) (o : BitVec n) : Pc := pc + BitVec.ofInt 48 (4 * o.toInt)

/-- The issuing entry goes on as a whole at another address. -/
def State.goto (s : State) (pc : Pc) : State :=
  (s.flow (candidate s.cur) (candidate s.cur).mask pc).settle [(pc, (candidate s.cur).mask)] []

/-- Raise the cause of a bad target, or go on (R163). -/
def State.checkTarget (s : State) (a : DWord) (k : State → State) : State :=
  match targetCause a with
  | some c => s.raiseAllAt c a
  | none => k s

/-! ### Branches (R164 to R168) -/

/-- The lanes of the entry whose condition holds: A not zero, or zero if `z`; in shadow mode lanes 32 to 63
follow their twins (R164). -/
def State.condition (s : State) (a : Code) (z : Bool) : Mask :=
  let st := s.cur
  let x := s.vsrc a
  (candidate st).mask &&& maskOf fun l => decide (laneOf x (st.laneNumber l) ≠ 0) != z

/-- The two outcomes of a conditional branch, the lanes whose halves differ in shadow mode apart (R164; 17 R460). -/
def State.branchOn (s : State) (us : List Use) (z uniform : Bool) (a : Code) (o : BitVec 16) : State :=
  let e := candidate s.cur
  let x := s.vsrc a
  let bad := s.shadowDiff fun l h => decide (laneOf x l ≠ 0) == decide (laneOf x h ≠ 0)
  let t := s.condition a z &&& ~~~ bad
  let f := e.mask &&& ~~~ t &&& ~~~ bad
  if uniform && decide (t ≠ 0 ∧ f ≠ 0) then s.raiseNoAddress .nonUniformBranch
  else
    let s1 := if bad = 0 then s else s.countCheck s.cur.core 7
    ((s1.popSources us).flow e t (relPc e.pc o)).settle [(relPc e.pc o, t), (nextPc e.pc, f)] [mismatch bad e.pc]

/-- The conditional branches (R164). -/
def branch (z uniform : Bool) (a : Code) (o : BitVec 16) (s : State) : Host.Outcome State Fault Refusal :=
  let us : List Use := [⟨.vsrc, a, false⟩]
  runCompare s us [] false false fun s => s.branchOn us z uniform a o

def execBr (a : Code) (o : BitVec 16) (s : State) := branch false false a o s
def execBrz (a : Code) (o : BitVec 16) (s : State) := branch true false a o s
def execBru (a : Code) (o : BitVec 16) (s : State) := branch false true a o s
def execBruz (a : Code) (o : BitVec 16) (s : State) := branch true true a o s

/-- The link: s63 := PC + 4, a scalar write (R166, R178). -/
def State.writeLink (s : State) : State :=
  s.onCur fun st => st.putScalar false 63 (pcWord (nextPc (candidate st).pc))

def execJmp (o : BitVec 23) (s : State) : Host.Outcome State Fault Refusal :=
  runPoint s [] [] false false fun s => s.goto (relPc (candidate s.cur).pc o)

/-- `call`: an outstanding producer of s63 is waited for (04 R99). -/
def execCall (o : BitVec 23) (s : State) : Host.Outcome State Fault Refusal :=
  runPoint s [⟨.sreg, 63, false⟩] [] false false fun s => s.writeLink.goto (relPc (candidate s.cur).pc o)

def execJr (e : Bool) (a : Code) (s : State) : Host.Outcome State Fault Refusal :=
  let us : List Use := [⟨.ssrc, a, e⟩]
  runPoint s us [] false false fun s =>
    let t := s.ssrc a
    s.checkTarget t fun s => (s.popSources us).goto (targetPc t)

def execCallr (e : Bool) (a : Code) (s : State) : Host.Outcome State Fault Refusal :=
  let us : List Use := [⟨.ssrc, a, e⟩, ⟨.sreg, 63, false⟩]
  runPoint s us [] false false fun s =>
    let t := s.ssrc a
    s.checkTarget t fun s => (s.popSources us).writeLink.goto (targetPc t)

/-- `bri` (R167). -/
def execBri (a : Code) (n : BitVec 9) (s : State) : Host.Outcome State Fault Refusal :=
  let us : List Use := [⟨.ssrc, a, false⟩]
  runPoint s us [] (n == 0) false fun s =>
    let v := (s.ssrc a).toNat
    let k := if v < n.toNat then v else n.toNat
    (s.popSources us).goto ((candidate s.cur).pc + BitVec.ofNat 48 (4 + 4 * k))

/-- `sloop` (R168). -/
def execSloop (a : Code) (o : BitVec 16) (s : State) : Host.Outcome State Fault Refusal :=
  runPoint s [⟨.sloop, a, false⟩] [] false false fun s =>
    let e := candidate s.cur
    let m := a.toNat - 0x60
    let v := s.cur.scalar m - 1
    let s1 := s.onCur fun st => st.putScalar false m v
    if v ≠ 0 then s1.goto (relPc e.pc o) else s1.advance

/-! ### Exits (R169 to R171) -/


def execExit (s : State) : Host.Outcome State Fault Refusal :=
  runPoint s [] [] s.notSupervisor false fun s => s.settle [] []

/-- `exitto` (R170). -/
def execExitto (a : Code) (n : BitVec 9) (s : State) : Host.Outcome State Fault Refusal :=
  let us : List Use := [⟨.ssrc, a, false⟩]
  runPoint s us [] (s.notSupervisor || decide (96 < n.toNat)) false fun s =>
    if s.cur.nlines < s.cur.wb + n.toNat then s.raiseAll .windowOverflow
    else
      let t := s.ssrc a
      s.checkTarget t fun s =>
        ((s.popSources us).onCur fun st => { st with succ := some ⟨targetPc t, n.toNat, st.wb⟩ }).settle [] []

/-- SUCCESSOR_START: a strand without a valid entry, its producers and float results all written, starts its
successor (R171). s0 to s63 keep their values, as R171 says of this start, although 04 R105 and R113 give the start after
`exitto` the scalars of Table 4-9: the model's reading (log 90). -/
def execSuccessorStart (key : Nat) (s : State) : Host.Outcome State Fault Refusal :=
  let st := s.strand key
  match st.succ with
  | some x =>
    if st.frontier.isEmpty && st.producers.isEmpty && st.floats.isEmpty then
      let c := s.cohort st.ccb
      let fresh := c.startStrand st st.sidx x.pc startMask
      let moved := (List.range x.lines).foldl (fun (n : Strand) i => n.setLine i (st.line (x.base + i))) fresh
      .next (s.setStrand key { moved with scal := st.scal, nlines := st.nlines, replies := st.replies, drains := st.drains, readyq := st.readyq })
    else .next s
  | none => .next s

/-- SLOT_FREE: the slot of an exited strand is free once its producers have written (R171). -/
def execSlotFree (key : Nat) (s : State) : Host.Outcome State Fault Refusal :=
  let st := s.strand key
  if st.exited && st.producers.isEmpty && st.floats.isEmpty then .next (s.setStrand key { st with freed := true })
  else .next s

/-! ### Spawning (R172) -/

/-- The lowest strand slot of a cohort that is free, of those its variant declares (R171). R172 says 'below s5': whether that is
the declared count with which s5 starts, or what a program has since written to s5, the spec leaves open; the declared count
is the model's choice (log 114). -/
def State.freeSlot (s : State) (c : Cohort) : Option Nat :=
  (List.range c.variant.strands).find? fun k =>
    match c.cibs.getD k none with
    | some a => (s.strand a.toNat).freed
    | none => false

/-- The strand in slot k of a cohort. -/
def State.slotStrand (s : State) (c : Cohort) (k : Nat) : Strand :=
  match c.cibs.getD k none with
  | some a => s.strand a.toNat
  | none => {}

/-- A strand that has been made ready starts in its slot; it must also arrive at a pending barrier (R179). -/
def State.startIn (s : State) (ccb : DWord) (n : Strand) : State := (s.setStrand n.key n).unarrive ccb

/-- `spawn` (R172): the target is checked before the lines that it passes are waited for. -/
def execSpawn (d a : Code) (s : State) : Host.Outcome State Fault Refusal :=
  let us : List Use := [⟨.ssrc, a, false⟩, ⟨.sreg, d, false⟩]
  run s us [] s.notSupervisor false fun s =>
    let t := s.ssrc a
    s.checkTarget t fun s =>
      let st := s.cur
      let c := s.curCohort
      match s.operandWait [] ((List.range 8).map fun i => st.wb + i) false with
      | some h => s.halt h
      | none =>
        let s1 := s.popSources us
        match s.freeSlot c with
        | none => (s1.writeS d false (BitVec.allOnes 64)).advance
        | some k =>
          let n := c.startStrand (s.slotStrand c k) k (targetPc t) startMask
          let n1 := (List.range 8).foldl (fun (n : Strand) i => n.setLine i (st.line (st.wb + i))) n
          ((s1.startIn c.ccb n1).writeS d false (BitVec.ofNat 64 k)).advance

/-! ### Window, yield and nop (R173, R174) -/

/-- `win` (R173). -/
def execWin (i : BitVec 9) (s : State) : Host.Outcome State Fault Refusal :=
  run s [] [] (i.toNat % 8 != 0) false fun s =>
    let w : Int := (s.cur.wb : Int) + i.toInt
    if w < 0 ∨ (s.cur.nlines : Int) - 8 < w then s.raiseAll .windowOverflow
    else (s.onCur fun st => { st.markScalarWrite with wb := w.toNat }).advance

def execWinq (d : Code) (s : State) : Host.Outcome State Fault Refusal :=
  run s [⟨.sdst, d, false⟩] [] false false fun s => (s.writeS d false (BitVec.ofNat 64 s.cur.wb)).advance

def execYield (s : State) : Host.Outcome State Fault Refusal :=
  run s [] [] false false fun s => (s.onCur fun st => { st with yield := 16 }).advance

def execNop (s : State) : Host.Outcome State Fault Refusal :=
  run s [] [] false false fun s => s.advance

/-! ### Barriers (R179 to R181) -/

/-- `bar` and `bar.sp`: 0x26 from a handler entry or beside another barrier; otherwise the entry is held. -/
def barrier (span : Bool) (s : State) : Host.Outcome State Fault Refusal :=
  run s [] [] s.notSupervisor false fun s =>
    let e := candidate s.cur
    let c := s.curCohort
    let other := match c.barrier with
      | none => false
      | some b => decide (b.pc ≠ e.pc) || b.span != span
    if e.prio = 0xFFFF ∨ other = true then s.raiseNoAddress .barrierMisuse
    else (s.setCurCohort { c with barrier := some { pc := e.pc, span := span } }).holdCandidate .barrier

def execBar (s : State) := barrier false s
def execBarSp (s : State) := barrier true s

/-- `parv` (R181). -/
def execParv (d : Code) (n : BitVec 5) (k : BitVec 3) (s : State) : Host.Outcome State Fault Refusal :=
  run s [⟨.sreg, d, false⟩] [] s.notSupervisor false fun s =>
    let c := s.curCohort
    let p := Tab.get {} c.phases k.toNat
    if p.act && decide (p.n ≠ n.toNat) then s.raiseNoAddress .barrierMisuse
    else
      let p1 : Phase := if p.cnt + 1 = n.toNat + 1 then { ph := !p.ph }
        else { cnt := p.cnt + 1, ph := p.ph, n := n.toNat, act := true }
      let p2 := if p.cnt + 1 = n.toNat + 1 then { p1 with n := n.toNat } else p1
      ((s.setCurCohort { c with phases := Tab.put c.phases k.toNat p2 }).writeS d false
        (if p.ph then 1 else 0)).advance

/-- `pwait` (R181). -/
def execPwait (a : Code) (k : BitVec 3) (s : State) : Host.Outcome State Fault Refusal :=
  let us : List Use := [⟨.ssrc, a, false⟩]
  run s us [] false false fun s =>
    if (Tab.get {} s.curCohort.phases k.toNat).ph = (s.ssrc a).getLsbD 0 then s.stallWith 4
    else (s.popSources us).advance

/-! ### Write-backs of long-latency producers (04 R99) -/

/-- PRODUCER_WRITEBACK: the producer of the given place writes its lanes and scalars and sets their bits, or
pushes its entry. -/
def execProducerWriteback (key place : Nat) (s : State) : Host.Outcome State Fault Refusal :=
  let st := s.strand key
  match st.producers[place]? with
  | none => .next s
  | some p =>
    let st1 := { st with producers := st.producers.eraseIdx place }
    let st2 := p.lines.foldl (fun st x => st.writeLanes x.1 x.2.1 (laneOf x.2.2)) st1
    let st3 := p.scalars.foldl (fun st x => st.setScalar x.1 x.2) st2
    let s0 := s.setCore st.core { s.core st.core with replies := (s.core st.core).replies - p.replies }
    let s1 := s0.setStrand key st3
    .next (match p.push with
      | some x => s1.pushQueue key x.2
      | none => s1)

/-- STRAND_AGED: a strand ready for 128 counted ready cycles without issuing is aged (R152). -/
def execStrandAged (key : Nat) (s : State) : Host.Outcome State Fault Refusal :=
  let st := s.strand key
  if 128 ≤ st.ready ∧ st.frontier ≠ [] then .next (s.setStrand key { st with aged := true }) else .next s

/-- FRONTIER_REFILL: the first spilled entry is read back into the slot (R158). -/
def execFrontierRefill (key : Nat) (s : State) : Host.Outcome State Fault Refusal :=
  let st := s.strand key
  if st.resident < 8 ∧ st.resident < st.frontier.length then
    .next (s.setStrand key { st with resident := st.resident + 1 })
  else .next s

end Sys2Proof.Machine
end

