-- ==== Sys2Proof/Machine/Supervisor.lean ====
section
/-! DEFINITION. The supervisor's instructions and the user's side of traps: `tret`, `sighand`, `sigmask`, `sysc`,
`brk`, `unpark`, `sysrp`, `sig`, `tinj`, `pget`, `pset`, and the events that enter a core's queue
(13 R343 to R368; 18 R467). -/

namespace Sys2Proof.Machine

/-! ### The user's side -/

/-- `tret` (R358): 0x01 outside a handler entry. -/
def execTret (s : State) : Host.Outcome State Fault Refusal :=
  run s [] [] (decide ((candidate s.cur).prio ≠ 0xFFFF)) false fun s =>
    (s.flow (candidate s.cur) (candidate s.cur).mask s.cur.returnPc).returnFromHandler

/-- `sighand` (R359): 0x10 before 0x15. -/
def execSighand (e : Bool) (d a : Code) (s : State) : Host.Outcome State Fault Refusal :=
  let us : List Use := [⟨.ssrc, a, e⟩, ⟨.sdst, d, false⟩]
  run s us [] false false fun s =>
    let v := s.ssrc a
    if natBits v.toNat 1 3 ≠ 0 then s.raiseAllAt .misaligned v
    else if v.toNat / 2 ^ 48 ≠ 0 then s.raiseAllAt .nonCanonical v
    else (((s.popSources us).writeS d (popsInto us) s.cur.handler).onCur fun st => { st with handler := v }).advance

/-- The forms that read a trap register. -/
def readTrap (f : Strand → DWord) (d : Code) (s : State) : Host.Outcome State Fault Refusal :=
  run s [⟨.sdst, d, false⟩] [] false false fun s => (s.writeS d false (f s.cur)).advance

def execSighandCause (d : Code) (s : State) := readTrap (fun st => st.cause.zeroExtend 64) d s
def execSighandTaddr (d : Code) (s : State) := readTrap (fun st => st.taddr) d s
def execSighandTmask (d : Code) (s : State) := readTrap (fun st => st.tmask) d s
/-- FADDR in the supervisor strand, 0 in a user strand. -/
def execSighandFaddr (d : Code) (s : State) := readTrap (fun st => if st.sup then st.faddr else 0) d s

/-- `sigmask` (R360). -/
def execSigmask (e : Bool) (d a : Code) (s : State) : Host.Outcome State Fault Refusal :=
  let us : List Use := [⟨.ssrc, a, e⟩, ⟨.sdst, d, false⟩]
  run s us [] false false fun s =>
    let v := s.ssrc a
    (((s.popSources us).writeS d (popsInto us) s.cur.sigmask).onCur fun st => { st with sigmask := v }).advance

/-- `sysc` (R361): the lanes park at PC + 4 with 0x0F; 0x01 in the supervisor strand. -/
def execSysc (n : BitVec 9) (s : State) : Host.Outcome State Fault Refusal :=
  runPoint s [] [] s.notSupervisor false fun s =>
    let e := candidate s.cur
    s.settle [] [{ cause := .systemCall, mask := e.mask, taddr := pcWord e.pc, param := n.toNat }]

/-- `brk` (18 R467). -/
def execBrk (n : BitVec 9) (s : State) : Host.Outcome State Fault Refusal :=
  run s [] [] false false fun s =>
    s.settle [] [{ cause := .brk, mask := (candidate s.cur).mask, param := n.toNat }]

/-! ### Strands named by their CIB (R354, R355) -/

/-- The strand that A[63:12] names. -/
def cibKey (a : DWord) : Nat := a.toNat / 4096 * 4096

/-- Whether a key is that of a strand that lives: it has not exited and its cohort has not completed. -/
def State.liveStrand (s : State) (key : Nat) : Bool :=
  Tab.has s.strands key && decide (key < 2 ^ 64) && !(s.strand key).exited

/-- Act on a strand wherever it is: on its live state, or on its saved image while its cohort is absent (R355). What the
supervisor stored before happens-before the accesses of its lanes: its core's L1 loses its lines (R356). -/
def State.actOn (s : State) (key : Nat) (f : State → State) : State :=
  if (s.cohort (s.strand key).ccb).residency = .absent then (f (s.loadStrand key)).saveControl key
  else (f s).dropL1 (s.strand key).core

/-- What a strand named by its CIB looks like to an instruction: its live state or its image. -/
def State.seen (s : State) (key : Nat) : Strand :=
  if (s.cohort (s.strand key).ccb).residency = .absent then (s.loadStrand key).strand key else s.strand key

/-- `unpark`'s action on an entry: replay, end or skip. -/
def State.unparked (s : State) (st : Strand) (action : Nat) (e : Entry) : List Entry :=
  if action = 0 then [{ e with parked := false, cause := none }]
  else if action = 1 then []
  else [{ e with parked := false, cause := none, pc := nextPc e.pc, prio := s.nextPrio st e.prio (nextPc e.pc) }]

/-- `unpark` (R354). -/
def execUnpark (e g : Bool) (d a b : Code) (s : State) : Host.Outcome State Fault Refusal :=
  let us : List Use := [⟨.ssrc, a, e⟩, ⟨.ssrc, b, g⟩, ⟨.sreg, d, false⟩]
  run s us [] false true fun s =>
    let x := s.ssrc a
    let m : Mask := s.ssrc b
    let key := cibKey x
    let act := natBits x.toNat 0 2
    let s0 := s.popSources us
    if act = 3 ∨ natBits x.toNat 2 10 ≠ 0 ∨ s.liveStrand key = false then (s0.writeS d false (BitVec.allOnes 64)).advance
    else
      let named (e : Entry) : Bool := e.parked && decide (e.mask &&& ~~~ m = 0)
      let n := ((s.seen key).frontier.filter named).length
      let s1 := s0.actOn key fun s =>
        let st := s.strand key
        let f := st.frontier.flatMap fun e => if named e then s.unparked st act e else [e]
        (s.setStrand key (st.setFrontier f)).afterFrontier key
      (s1.writeS d false (BitVec.ofNat 64 n)).advance

/-- The entry of a strand that a test finds and that parked first. -/
def Strand.oldest (st : Strand) (p : Entry → Bool) : Option Entry :=
  (st.frontier.filter p).foldl (fun (o : Option Entry) e =>
    match o with
    | none => some e
    | some x => if e.order < x.order then some e else some x) none

/-- Whether an entry waits for the reply to a system call. -/
def Entry.calls (e : Entry) : Bool := e.parked && decide (e.cause = some .systemCall)

/-- `sysrp` (R362). -/
def execSysrp (e g : Bool) (d a b : Code) (s : State) : Host.Outcome State Fault Refusal :=
  let us : List Use := [⟨.ssrc, a, e⟩, ⟨.ssrc, b, g⟩, ⟨.sreg, d, false⟩]
  run s us [] false true fun s =>
    let x := s.ssrc a
    let v := s.ssrc b
    let key := cibKey x
    let toQueue := x.getLsbD 0
    let s0 := s.popSources us
    let t := s.seen key
    if natBits x.toNat 1 11 ≠ 0 ∨ s.liveStrand key = false then (s0.writeS d false 2).advance
    else
      match t.oldest Entry.calls with
      | none => (s0.writeS d false 1).advance
      | some c =>
        if toQueue && decide (4 ≤ t.replies.length) then (s0.writeS d false 3).advance
        else
          let s1 := s0.actOn key fun s =>
            let st := s.strand key
            let st1 := if toQueue then { st with replies := st.replies ++ [v] } else st.putScalar false 8 v
            let f := st1.frontier.map fun e => if e = c then { e with parked := false, cause := none } else e
            (s.setStrand key ((st1.setFrontier f).wake 9)).afterFrontier key
          (s1.writeS d false 0).advance

/-! ### Signals (R363, R364) -/

/-- Why a delivery to a handler is refused, the lowest code first: 1 masked, 2 in a handler, 3 no handler, 4 no entry
(Table of R363); 0 where it is made. -/
def Strand.signalStatus (st : Strand) (n : Option Nat) (e : Option Entry) : Nat :=
  let masked := match n with | some i => st.sigmask.getLsbD i | none => false
  let inHandler := st.tm || (match e with | some x => decide (x.prio = 0xFFFF) | none => false)
  if masked then 1
  else if inHandler then 2
  else if !st.handler.getLsbD 0 then 3
  else if e.isNone then 4
  else 0

/-- Take an entry out of a strand's frontier and deliver its lanes to the handler. -/
def State.deliverEntry (s : State) (key : Nat) (e : Entry) (code : Nat) (p : DWord) (v : Nat) : State :=
  let st := s.strand key
  (s.setStrand key (((st.setFrontier (st.frontier.filter fun x => decide (x ≠ e))).deliver code e.mask p v).wake 9)).dropWait key

/-- The entry that a signal meets: the candidate entry, and an entry that waits at a gang rendezvous like one that waits
in `waitc`, since R363 lets a signal be delivered to either (log 91); none that is parked or whose cause is held. -/
def Strand.signalEntry (st : Strand) : Option Entry :=
  match st.frontier.find? fun e => decide (e.hold = .no ∨ e.hold = .gang) with
  | some e => if e.parked || st.frontier.any fun x => x.pending then none else some e
  | none => none

/-- `sig` (R363). -/
def execSig (e : Bool) (d a : Code) (s : State) : Host.Outcome State Fault Refusal :=
  let us : List Use := [⟨.ssrc, a, e⟩, ⟨.sreg, d, false⟩]
  run s us [] false true fun s =>
    let x := s.ssrc a
    let n := natBits x.toNat 0 6
    let key := cibKey x
    let s0 := s.popSources us
    if natBits x.toNat 6 6 ≠ 0 ∨ s.liveStrand key = false then (s0.writeS d false 5).advance
    else
      let t := s.seen key
      let c := t.signalEntry
      let r := t.signalStatus (some n) c
      match r, c with
      | 0, some c =>
        let s1 := s0.actOn key fun s => s.deliverEntry key c Cause.signal.code (pcWord c.pc) (8 + n)
        (s1.writeS d false 0).advance
      | _, _ => (s0.writeS d false (BitVec.ofNat 64 r)).advance

/-- `tinj` (R364). -/
def execTinj (e g : Bool) (d a b : Code) (s : State) : Host.Outcome State Fault Refusal :=
  let us : List Use := [⟨.ssrc, a, e⟩, ⟨.ssrc, b, g⟩, ⟨.sreg, d, false⟩]
  run s us [] false true fun s =>
    let x := s.ssrc a
    let m : Mask := s.ssrc b
    let c := natBits x.toNat 0 6
    let n := natBits x.toNat 6 6
    let key := cibKey x
    let isSignal := decide (c = Cause.signal.code)
    let s0 := s.popSources us
    let badCode := !(isSignal || (decide (0x08 ≤ c ∧ c ≤ 0x0D) && n == 0))
    if badCode = true ∨ s.liveStrand key = false then (s0.writeS d false 5).advance
    else
      let t := s.seen key
      let entry := match t.frontier.filter fun e => e.parked && decide (e.mask &&& ~~~ m = 0) with
        | [x] => some x
        | [] => none
        | _ :: _ :: _ => none
      let r := t.signalStatus (if isSignal then some n else none) entry
      match r, entry with
      | 0, some x =>
        let s1 := s0.actOn key fun s =>
          if isSignal then s.deliverEntry key x c (pcWord x.pc) (8 + n)
          else s.deliverEntry key x c (pcWord (x.pc - 4)) (c - 0x08)
        (s1.writeS d false 0).advance
      | _, _ => (s0.writeS d false (BitVec.ofNat 64 r)).advance

/-! ### `pget` and `pset` (R365, Table 13-3) -/

/-- Whether a selector names a register. -/
def selectorOk (n : Nat) : Bool := decide (n ≤ 5) || decide (0x10 ≤ n ∧ n ≤ 0x17) || decide (0x40 ≤ n ∧ n < 0x80)

/-- Replay-queue occupancy of a core, by bench (RPQ). -/
def State.replayCounts (s : State) (core : Nat) : Nat :=
  (List.range 4).foldr (fun b acc =>
    ((s.strands.filter fun x => x.2.core == core && x.2.bench == b && !x.2.sup && s.resident x.2.ccb).map fun x =>
      (x.2.frontier.filter fun e => e.parked).length).sum + 2 ^ 16 * acc) 0

/-- The strand that TGT names, where it is hot or warm on the core. -/
def State.target (s : State) (core : Nat) : Option Nat :=
  let key := cibKey (s.core core).tgt
  if s.liveStrand key && s.resident (s.strand key).ccb && (s.cohort (s.strand key).ccb).core == core then some key else none

/-- The value of a core register. -/
def State.coreRegister (s : State) (core n : Nat) : DWord :=
  let k := s.core core
  if n = 0 then BitVec.ofNat 64 core
  else if n = 1 then BitVec.ofNat 64 k.evq.length
  else if n = 2 then k.frb
  else if n = 3 then k.frt
  else if n = 4 then k.frh
  else if n = 5 then BitVec.ofNat 64 (s.replayCounts core)
  else k.tgt

/-- The value of a target register. -/
def Strand.targetRegister (st : Strand) (n : Nat) : DWord :=
  if n = 0x11 then st.stat
  else if n = 0x12 then BitVec.ofNat 64 st.wb
  else if n = 0x13 then st.cause.zeroExtend 64
  else if n = 0x14 then st.taddr
  else if n = 0x15 then st.tmask
  else if n = 0x16 then st.handler
  else if n = 0x17 then st.sigmask
  else st.scalar (n - 0x40)

/-- `pget`. -/
def execPget (d : Code) (sel : BitVec 9) (s : State) : Host.Outcome State Fault Refusal :=
  let n := sel.toNat
  run s [⟨.sdst, d, false⟩] [] (!selectorOk n) true fun s =>
    let core := s.cur.core
    if n ≤ 0x10 then (s.writeS d false (s.coreRegister core n)).advance
    else
      match s.target core with
      | none => s.raiseAllAt .contextImage 0
      | some key =>
        let t := s.strand key
        if 0x40 ≤ n ∧ t.sFull.getLsbD (n - 0x40) = false then s.stallWith 8
        else (s.writeS d false (t.targetRegister n)).advance

/-- The fields of STAT that `pset` writes: every field but PRIV and CHK (04 R104). -/
def statSupervisor : DWord := BitVec.ofNat 64 (2 ^ 62 + 2 ^ 59 + 2 ^ 58 + 2 ^ 57 + 2 ^ 17 + 2 ^ 16 + 0x1F1F)

/-- A write of a core register; read-only ones and a bad FRH are ignored. -/
def Core.setRegister (k : Core) (n : Nat) (v : DWord) : Core :=
  if n = 2 then { k with frb := BitVec.ofNat 64 (natBits v.toNat 17 39 * 2 ^ 17) }
  else if n = 4 then
    if v.toNat ≤ k.frt.toNat ∧ k.frt.toNat ≤ v.toNat + 4096 then { k with frh := v } else k
  else if n = 0x10 then { k with tgt := BitVec.ofNat 64 (v.toNat / 4096 * 4096) }
  else k

/-- A write of a target register; read-only ones and a bad HANDLER are ignored. -/
def Strand.setTarget (st : Strand) (n : Nat) (v : DWord) : Strand :=
  if n = 0x11 then st.writeStat statSupervisor v
  else if n = 0x13 then { st with cause := BitVec.ofNat 6 v.toNat }
  else if n = 0x14 then { st with taddr := v }
  else if n = 0x16 then
    if v.toNat / 2 ^ 48 = 0 ∧ natBits v.toNat 1 3 = 0 then { st with handler := v } else st
  else if n = 0x17 then { st with sigmask := v }
  else if 0x40 ≤ n then st.setScalar (n - 0x40) v
  else st

/-- `pset`. -/
def execPset (a : Code) (sel : BitVec 9) (s : State) : Host.Outcome State Fault Refusal :=
  let n := sel.toNat
  let us : List Use := [⟨.ssrc, a, false⟩]
  run s us [] (!selectorOk n) true fun s =>
    let core := s.cur.core
    let v := s.ssrc a
    if n ≤ 0x10 then
      let s0 := s.popSources us
      (s0.setCore core ((s0.core core).setRegister n v)).advance
    else
      match s.target core with
      | none => s.raiseAllAt .contextImage 0
      | some key =>
        let s0 := s.popSources us
        (s0.setStrand key ((s0.strand key).setTarget n v)).advance

/-! ### Events -/

/-- The lanes of a held cause leave the entry in which they wait. -/
def Strand.unhold (st : Strand) (m : Mask) : Strand :=
  st.setFrontier (st.frontier.filter fun e => !(e.pending && e.mask == m))

/-- HELD_EVENT_ENTRY: the oldest of what a core holds back takes effect once there is a place: a cause parks its lanes, with
its records and its event, and an event enters the queue (R351, 12 R336). -/
def execHeldEventEntry (core : Nat) (s : State) : Host.Outcome State Fault Refusal :=
  let k := s.core core
  match k.held with
  | [] => .next s
  | .cause key e r :: t =>
    if k.roomFor r then
      .next (((s.setCore core { k with held := t }).setStrand key (((s.strand key).unhold r.mask).wake 2)).parkNow key e r)
    else .next s
  | .event e :: t =>
    if k.evq.length < 64 then .next (s.setCore core { k.enter e with held := t }) else .next s

/-- MACHINE_CHECK: the sequencer, the gather unit or the dispatch engine finds an image of a cohort in an unlocked
frame (sub-cause 1) or with an uncorrectable error (3) (R344, Table 13-2). -/
def execMachineCheck (ccb sub : Nat) (s : State) : Host.Outcome State Fault Refusal :=
  let key : DWord := BitVec.ofNat 64 ccb
  let c := s.cohort key
  let f := s.imageFaults c
  if Tab.has s.cohorts ccb && !c.dead && ((sub == 1 && f.1) || (sub == 3 && f.2)) then
    .next (s.machineCheck key sub)
  else .next s

/-- SERVICE_CORE_MESSAGE: a service core sends 0x33 to a core's supervisor. -/
def execServiceCoreMessage (core : Nat) (s : State) : Host.Outcome State Fault Refusal :=
  .next (s.postEvent core { cause := .serviceMessage })

end Sys2Proof.Machine
end

