-- ==== Sys2Proof/Machine/Bundle.lean ====
section
/-! DEFINITION. Bundles: their header, variant records and tables, and when they are well formed
(03 R70 to R77; 14 R370, R402 to R404). -/

namespace Sys2Proof.Machine

/-! ### Accesses the dispatch engine makes in a context -/

/-- Where an access of a kind in a context goes: translated as a user access of no core (12 R329 to R333). The scratch aperture
is never translated (05 R116). -/
def State.contextPlace (s : State) (pasid : Nat) (k : Access) (va : Nat) : State × Except Cause Phys :=
  if va / 2 ^ 56 ≠ 0 then (s, .error .nonCanonical)
  else if inAperture (BitVec.ofNat 64 va) then (s, .error .scratchBound)
  else
    match s.translateFor none pasid true k va with
    | (s1, .ok p _) => (s1, .ok p)
    | (s1, .fail c _) => (s1, .error c)
    | (s1, .dropped) => (s1, .error .pageNotPresent)

/-- n bytes of a context within one 4 KiB page; nothing where the page denies read or carries an uncorrectable error. -/
def State.pageRead (s : State) (pasid va n : Nat) : Option Nat :=
  match (s.contextPlace pasid .read va).2 with
  | .ok p =>
    match s.lateCause p n with
    | some _ => none
    | none => if p.loc = .mmio then none else some (Memory.readN (s.memory p.loc) p.addr n)
  | .error _ => none

/-- n bytes of a context, at most across one page boundary. -/
def State.contextRead (s : State) (pasid va n : Nat) : Option Nat :=
  let first := 4096 - va % 4096
  if n ≤ first then s.pageRead pasid va n
  else
    match s.pageRead pasid va first, s.pageRead pasid (va + first) (n - first) with
    | some lo, some hi => some (lo + 2 ^ (8 * first) * hi)
    | _, _ => none

/-! ### Parts of a bundle (Tables 14-10 to 14-12) -/

/-- A bundle as the dispatch engine keeps it: its variants in rank order and its priority map by address. -/
structure Bundle where
  variants : List Variant
  pmap : List (Nat × BitVec 16)
  deriving DecidableEq, Repr

/-- The bytes of a bundle by offset. -/
abbrev BundleReader := Nat → Nat → Option Nat

/-- Whether every 8-byte word of a range is zero. -/
def zeroWords (rd : BundleReader) (off words : Nat) : Bool :=
  (List.range words).all fun i => rd (off + 8 * i) 8 == some 0

/-- Every element of a list, if each can be read. -/
def allSome {α β : Type} (f : α → Option β) : List α → Option (List β)
  | [] => some []
  | x :: t =>
    match f x, allSome f t with
    | some y, some u => some (y :: u)
    | _, _ => none

/-- A line count of R70. -/
def lineCountOk (n : Nat) : Bool := decide (32 ≤ n ∧ n ≤ 512) && n % 8 == 0

/-- Whether the roles of a variant keep the limits of R70. -/
def rolesOk (strands : Nat) (roles : List (Nat × Nat × Nat)) : Bool :=
  (roles.all fun r => decide (r.1 + r.2.1 ≤ strands) && lineCountOk r.2.2)
    && roles.zipIdx.all fun a => roles.zipIdx.all fun b =>
      decide (a.2 = b.2 ∨ a.1.1 + a.1.2.1 ≤ b.1.1 ∨ b.1.1 + b.1.2.1 ≤ a.1.1)

/-- Strictly rising numbers. -/
def rising : List Nat → Bool
  | x :: y :: t => decide (x < y) && rising (y :: t)
  | _ => true

/-- The lines of a switch point's map (R403). -/
def readMap (rd : BundleReader) (off n : Nat) : Option (List (Nat × Nat)) :=
  allSome (fun i => (rd (off + 4 * i) 4).map fun w => (natBits w 0 16, natBits w 16 16)) (List.range n)

/-- A switch point entry (Table 14-12). R404 does not ask that its code offset be a multiple of 4, and the model accepts one
that is not: a switch then resumes at that address + 4 (log 97). -/
def readPoint (rd : BundleReader) (size off : Nat) : Option SwitchPoint := do
  let k ← rd off 2
  let n ← rd (off + 2) 2
  let z ← rd (off + 4) 4
  let code ← rd (off + 8) 8
  let sOff ← rd (off + 0x10) 4
  let sLen ← rd (off + 0x14) 4
  let mapOff ← rd (off + 0x18) 8
  if k ≤ 511 ∧ n ≤ 512 ∧ z = 0 ∧ code < size ∧ mapOff + 4 * n ≤ size then
    let lines ← readMap rd mapOff n
    if lines.all fun x => decide (x.1 ≤ 511 ∧ x.2 ≤ 511) then
      some { point := k, offset := code, lines := lines, scratchFrom := sOff, scratchBytes := sLen }
    else none
  else none

/-- The reservation of a variant (R72). -/
def Variant.computed (v : Variant) : Nat := ((List.range v.strands).map fun k => v.linesOf k * 256).sum

/-- The limits of R70 and R72 on a variant record. -/
def Variant.wellFormed (v : Variant) (size : Nat) : Bool :=
  v.entry % 256 == 0 && decide (v.entry < size) && decide (1 ≤ v.strands ∧ v.strands ≤ 32) && decide (v.acc ≤ 16)
    && decide (1 ≤ v.carve ∧ v.carve ≤ 0x3F) && decide (v.check ≤ 2) && lineCountOk v.lines
    && v.scratch % 128 == 0 && decide (v.scratch ≤ 1572864) && v.priv % 16 == 0 && decide (v.priv ≤ 67108848)
    && rolesOk v.strands v.roles && decide (v.reservation = v.computed) && rising (v.points.map fun p => p.point)

/-- A variant record (Table 14-11). -/
def readVariant (rd : BundleReader) (size id : Nat) : Option Variant := do
  let o := 0x100 + 128 * id
  let entry ← rd o 8
  let head ← rd (o + 8) 8
  let scratch ← rd (o + 0x10) 4
  let priv ← rd (o + 0x14) 4
  let reservation ← rd (o + 0x18) 8
  let r0 ← rd (o + 0x20) 4
  let r1 ← rd (o + 0x24) 4
  let r2 ← rd (o + 0x28) 4
  let n ← rd (o + 0x2C) 4
  let table ← rd (o + 0x30) 8
  let role (w : Nat) : Nat × Nat × Nat := (natBits w 0 8, natBits w 8 8, natBits w 16 16)
  if natBits head 48 16 = 0 ∧ n ≤ 512 ∧ table + 32 * n ≤ size ∧ zeroWords rd (o + 0x38) 9 = true then
    let points ← allSome (fun i => readPoint rd size (table + 32 * i)) (List.range n)
    let v : Variant := {
      id := id, entry := entry, strands := natBits head 0 8, acc := natBits head 8 8, carve := natBits head 16 8,
      check := natBits head 24 8, lines := natBits head 32 16, scratch := scratch, priv := priv,
      reservation := reservation, roles := ([role r0, role r1, role r2]).filter fun r => decide (0 < r.2.1),
      matrixRole := if natBits r1 8 8 = 0 then none else some (natBits r1 0 8, natBits r1 8 8), points := points }
    if v.wellFormed size then some v else none
  else none

/-- A priority map entry: its address and its value, which is not 0xFFFF (R73, R403). -/
def readPriority (rd : BundleReader) (base size off : Nat) : Option (Nat × BitVec 16) := do
  let w ← rd off 8
  let code := natBits w 2 46 * 4
  if code < size ∧ natBits w 48 16 ≠ 0xFFFF then some (base + code, BitVec.ofNat 16 (natBits w 48 16)) else none

/-- A default must-save extent (R403, R70). -/
def readExtent (rd : BundleReader) (off : Nat) : Option Unit := do
  let base ← rd off 8
  let w ← rd (off + 8) 8
  if base % 128 = 0 ∧ natBits w 0 32 % 128 = 0 ∧ 128 ≤ natBits w 0 32 ∧ natBits w 0 32 ≤ 2 ^ 31
      ∧ natBits w 32 8 ≤ 7 ∧ natBits w 40 24 = 0 then some () else none

/-- How many 4 KiB pages some bytes lie in. -/
def pagesOf (base size : Nat) : Nat := (base % 4096 + size + 4095) / 4096

/-- Every page of a bundle can be read. -/
def State.bundleReadable (s : State) (pasid base size : Nat) : Bool :=
  (List.range (pagesOf base size)).all fun i =>
    let lo := max base ((base / 4096 + i) * 4096)
    let hi := min (base + size) ((base / 4096 + i + 1) * 4096)
    decide (hi ≤ lo) || (s.pageRead pasid lo (hi - lo)).isSome

/-- Reading pages in order sets the A bits of their leaves, up to the first that cannot be read (12 R331). -/
def State.touchPages (s : State) (pasid va : Nat) : Nat → State
  | 0 => s
  | n + 1 =>
    match s.contextPlace pasid .read va with
    | (s1, .ok _) => s1.touchPages pasid ((va / 4096 + 1) * 4096) n
    | (_, .error _) => s

/-- The accesses by which a bundle is read: its header, and then all of it. -/
def State.touchBundle (s : State) (pasid base : Nat) : State :=
  let s1 := s.touchPages pasid base (pagesOf base 0x100)
  match s1.contextRead pasid (base + 0x20) 8 with
  | some size => if base + size ≤ 2 ^ 56 then s1.touchPages pasid base (pagesOf base size) else s1
  | none => s1

/-- Read a bundle in a context: nothing unless it can be read and is well formed (R370, R402 to R404). -/
def State.readBundle (s : State) (pasid base : Nat) : Option Bundle := do
  let rd : BundleReader := fun off n => s.contextRead pasid (base + off) n
  let magic ← rd 0 8
  let pOff ← rd 0x08 4
  let pn ← rd 0x0C 4
  let eOff ← rd 0x10 4
  let en ← rd 0x14 4
  let cOff ← rd 0x18 4
  let cn ← rd 0x1C 4
  let size ← rd 0x20 8
  let n := natBits magic 48 8
  if natBits magic 0 48 = 0x00014B525953 ∧ natBits magic 56 8 = 0 ∧ 1 ≤ n ∧ n ≤ 4 ∧ 1 ≤ pn ∧ pn ≤ 4096 ∧ en ≤ 8
      ∧ zeroWords rd 0x28 27 = true ∧ 0x100 + 128 * n ≤ size ∧ base + size ≤ 2 ^ 56 ∧ pOff + 8 * pn ≤ size
      ∧ eOff + 16 * en ≤ size ∧ cOff + cn ≤ size ∧ s.bundleReadable pasid base size = true then
    let variants ← allSome (fun v => readVariant rd size v) (List.range n)
    let pmap ← allSome (fun i => readPriority rd base size (pOff + 8 * i)) (List.range pn)
    let _ ← allSome (fun i => readExtent rd (eOff + 16 * i)) (List.range en)
    if rising (pmap.map fun x => x.1) then some { variants := variants, pmap := pmap } else none
  else none

/-! ### Check modes and eligibility (04 R114, Table 4-10; 14 R378) -/

/-- The check mode of a record's field, after the device floor. -/
def resolveCheck (field floor : Nat) (variants : List Variant) : Nat :=
  let m := if field = 0 then (match variants with | v :: _ => v.check | [] => 0) else field - 1
  if floor = 2 then 2 else if floor = 1 ∧ m = 0 then 1 else m

/-- Whether a variant may run in a check mode. -/
def Variant.acceptsCheck (v : Variant) (mode : Nat) : Bool :=
  if mode = 2 then v.check == 2 else decide (v.check ≤ 1)

/-- The eligible variants of a record, in rank order. -/
def eligibleIn (variants : List Variant) (mask mode privSize : Nat) : List Variant :=
  variants.filter fun v => natBit mask v.id && v.acceptsCheck mode && decide (64 * v.priv + 2 ^ 17 ≤ privSize)

end Sys2Proof.Machine
end

