-- ==== Sys2Proof/Machine/Gather.lean ====
section
/-! DEFINITION. Split branches, spawn memory and the gather unit (06 R165, R175 to R177); fills and evictions of
register lines (01 R8; 04 R94). -/

namespace Sys2Proof.Machine

/-! ### Bins (Table 6-3) -/

/-- The address of bin b of a cohort. -/
def binBase (ccb : DWord) (b : Nat) : Nat := ccb.toNat + 0x1000 + b * 0x1100

/-- A bin as its first two words give it. -/
structure Bin where
  pc : Pc := 0
  count : Nat := 0
  open_ : Bool := false
  closed : Bool := false
  deriving DecidableEq, Repr

/-- Read the words of a bin. -/
def State.bin (s : State) (c : Cohort) (b : Nat) : Bin :=
  let w := s.imageWord c.pasid (binBase c.ccb b + 8)
  { pc := BitVec.ofNat 48 (s.imageWord c.pasid (binBase c.ccb b)), count := natBits w 0 7, open_ := natBit w 8,
    closed := natBit w 9 }

/-- A bin is free when it is neither open nor closed (R176). -/
def Bin.free (x : Bin) : Bool := !x.open_ && !x.closed

/-- Write the words of a bin, its age among them. A bin that closes or becomes free has age 0: the spec gives an age to an open
bin only, so this value is the model's choice (log 113). -/
def State.setBin (s : State) (ccb : DWord) (b : Nat) (x : Bin) : State :=
  let c := s.cohort ccb
  let age := if x.open_ then s.now - Tab.get s.now c.binOpened b else 0
  s.writeWords c.pasid (binBase ccb b)
    [(0, x.pc.toNat / 4 * 4), (8, x.count + x.open_.toNat * 2 ^ 8 + x.closed.toNat * 2 ^ 9 + min age (2 ^ 32 - 1) * 2 ^ 32)]

/-- The open bin of a target, and the bins that are free. -/
def State.openBin (s : State) (c : Cohort) (pc : Pc) : Option Nat :=
  (List.range 32).find? fun b => let x := s.bin c b; x.open_ && x.pc == pc
def State.freeBins (s : State) (c : Cohort) : List Nat := (List.range 32).filter fun b => (s.bin c b).free

/-- How many threads a target's open bin and the free bins can take. -/
def State.binRoom (s : State) (c : Cohort) (pc : Pc) : Nat :=
  (match s.openBin c pc with | some b => 64 - (s.bin c b).count | none => 0) + 64 * (s.freeBins c).length

/-- Place one ended thread: in the open bin of its target, or in the lowest free bin, which opens; a bin of 64 threads
closes and is due (R176). -/
def State.placeThread (s : State) (st : Strand) (pc : Pc) (lane : Nat) : State :=
  let c := s.cohort st.ccb
  let (b, x, c1) := (match s.openBin c pc with
    | some b => (b, s.bin c b, c)
    | none =>
      let b := ((s.freeBins c).head?).getD 0
      (b, { pc := pc, open_ := true }, { c with binOpened := Tab.put c.binOpened b s.now }))
  let base := binBase c.ccb b
  let full := decide (x.count + 1 ≥ 64)
  let c2 := if full then { c1 with binDue := Tab.put c1.binDue b s.now, binOpened := Tab.del c1.binOpened b } else c1
  let s1 := (s.setCohort st.ccb c2).engineWrite c.pasid (base + 0x80 + 2 * x.count) 2 (st.sidx * 64 + lane)
  let s2 := (List.range 16).foldl (fun (s : State) m =>
    s.engineWrite c.pasid (base + 0x100 + 0x100 * m + 4 * x.count) 4 (laneOf (st.line (st.wb + m)) lane).toNat) s1
  s2.setBin st.ccb b { x with count := x.count + 1, open_ := !full, closed := full }

/-- `brs` (R165). -/
def execBrs (a : Code) (o : BitVec 16) (s : State) : Host.Outcome State Fault Refusal :=
  let us : List Use := [⟨.vsrc, a, false⟩]
  let wb := s.cur.wb
  runCompare s us [] s.notSupervisor false fun s =>
    let st := s.cur
    let e := candidate st
    let t := s.condition a false
    let f := e.mask &&& ~~~ t
    if t = 0 ∨ f = 0 ∨ st.shadow = true ∨ e.prio = 0xFFFF then s.branchOn us false false a o
    else if st.nlines < wb + 16 then s.raiseAll .windowOverflow
    else
      match s.operandWait [] ((List.range 16).map fun m => wb + m) false with
      | some h => s.halt h
      | none =>
        let takenEnds := decide (laneCount t ≤ laneCount f)
        let (endPc, endMask, stay) := if takenEnds then (relPc e.pc o, t, (nextPc e.pc, f))
          else (nextPc e.pc, f, (relPc e.pc o, t))
        if s.binRoom s.curCohort endPc < laneCount endMask then s.raiseNoAddress .gatherFull
        else
          let s1 := if takenEnds then s else s.flow e t (relPc e.pc o)
          ((lanesOf endMask).foldl (fun s l => s.placeThread st endPc l) (s1.popSources us)).settle [stay] []

/-- The ages of a resident cohort's open bins stand in spawn memory as they count (Table 6-3, R176). -/
def State.showBins (s : State) (ccb : DWord) : State :=
  let c := s.cohort ccb
  c.binOpened.foldl (fun (s : State) x => let b := s.bin c x.1; if b.open_ then s.setBin ccb x.1 b else s) s

/-! ### Events -/

/-- When an open bin reached the age of 1,024 (R177). -/
def State.binAgedAt (s : State) (c : Cohort) (b : Nat) : Option Nat :=
  let opened := Tab.get s.now c.binOpened b
  if (s.bin c b).open_ && decide (1024 ≤ s.now - opened) then some (opened + 1024) else none

/-- When the last strand of a cohort exited that has none left which has not (R177). -/
def State.emptiedAt (s : State) (c : Cohort) : Option Nat :=
  if c.keys.all fun k => (s.strand k).exited then some (c.keys.foldl (fun t k => max t (s.strand k).exitedAt) 0) else none

/-- When a bin became due: when it closed; or when its age reached 1,024 or its cohort had no strand left that has not
exited, the earlier of the two (R177). -/
def State.binDueAt (s : State) (c : Cohort) (b : Nat) : Option Nat :=
  let x := s.bin c b
  let opened := Tab.get s.now c.binOpened b
  if x.closed then some (Tab.get 0 c.binDue b)
  else if !x.open_ then none
  else
    match s.binAgedAt c b, (s.emptiedAt c).map fun t => max t opened with
    | some t, some u => some (min t u)
    | some t, none => some t
    | none, u => u

/-- BIN_AGE_EXPIRY: an open bin of a resident cohort is due when its age has reached 1,024 (R177). -/
def execBinAgeExpiry (ccb b : Nat) (s : State) : Host.Outcome State Fault Refusal :=
  let key : DWord := BitVec.ofNat 64 ccb
  let c := s.cohort key
  match s.binAgedAt c b with
  | some t =>
    if s.resident key && (s.bin c b).open_ && decide (b < 32) then
      .next (s.setCohort key { c with binDue := Tab.put c.binDue b t })
    else .next s
  | none => .next s

/-- The bin that forms next: the first that became due, the lower index first of two (R177). Once a strand has formed, the
cohort has one that has not exited, and bins that were due for the want of one are due no more: R177 does not say whether
they stay due, and this is the model's choice (log 112). -/
def State.dueBin (s : State) (c : Cohort) : Option Nat :=
  let due := (List.range 32).filterMap fun b => (s.binDueAt c b).map fun t => (t, b)
  (sortKeyed (fun x => [x.1, x.2]) due).head?.map fun x => x.2

/-- GATHER_FORMATION: a strand forms from the bin that is due, in the lowest free slot; a bin with an uncorrectable
error is a machine check of the cohort (R177; 17 R463). -/
def execGatherFormation (ccb : Nat) (s : State) : Host.Outcome State Fault Refusal :=
  let key : DWord := BitVec.ofNat 64 ccb
  let c := s.cohort key
  if !s.resident key || c.dead || c.halted then .next s
  else
    match s.dueBin c, s.freeSlot c with
    | some b, some k =>
      if (s.rangeFaults c.pasid (binBase key b) 0x1100).2 then .next (s.machineCheck key 3)
      else
        let s := s.touchRange c.pasid (binBase key b) 0x1100
        let x := s.bin c b
        let mask : Mask := BitVec.ofNat 64 (2 ^ x.count - 1)
        let n := c.startStrand (s.slotStrand c k) k (BitVec.ofNat 48 (x.pc.toNat / 4 * 4)) mask
        let words (m : Nat) : Line := natLine ((s.engineRead c.pasid (binBase key b + 0x100 + 0x100 * m) 256).getD 0)
        let n1 := (List.range (min 16 n.nlines)).foldl (fun (n : Strand) m =>
          n.setLine m (mergeLine zeroLine mask (laneOf (words m)))) n
        let s1 := (s.setCohort key { c with binDue := Tab.del c.binDue b, binOpened := Tab.del c.binOpened b }).startIn key n1
        .next (s1.setBin key b { x with count := 0, open_ := false, closed := false })
    | _, _ => .next s

/-- A core's L1 loses the lines of some bytes of a place. -/
def State.dropLines (s : State) (core : Nat) (p : Option Phys) (n : Nat) : State :=
  match p with
  | none => s
  | some p =>
    let k := s.core core
    let host := decide (p.loc = .host)
    s.setCore core { k with l1 := k.l1.filter fun x =>
      !(x.1 % 2 == host.toNat && decide (p.addr / 128 ≤ x.1 / 2 ∧ x.1 / 2 ≤ (p.addr + n - 1) / 128)) }

/-- LINE_FILL: a line that is not resident is filled from its image; an unlocked frame or an uncorrectable error is a
machine check (01 R8, 04 R94; 17 R463). -/
def execLineFill (key n : Nat) (s : State) : Host.Outcome State Fault Refusal :=
  let st := s.strand key
  let pasid := (s.cohort st.ccb).pasid
  let a := st.cib.toNat + 0x1000 + 0x100 * n
  if !st.absent.getLsbD n || decide (st.nlines ≤ n) then .next s
  else
    let f := s.rangeFaults pasid a 256
    if f.1 then .next (s.machineCheck st.ccb 1)
    else if f.2 then .next (s.machineCheck st.ccb 3)
    else .next ((s.touchRange pasid a 256).setStrand key { st with
      vec := Tab.set zeroLine st.vec n (natLine ((s.engineRead pasid a 256).getD 0)), absent := setBit st.absent n false })

/-- LINE_EVICT: a resident line that nothing has still to write or to read is written to its image and is no longer
resident (01 R8, 04 R94). The core's L1 keeps no copy of the bytes that were there (04 R95), and uncorrectable elements keep
their mark (17 R463). -/
def execLineEvict (key n : Nat) (s : State) : Host.Outcome State Fault Refusal :=
  let st := s.strand key
  let pasid := (s.cohort st.ccb).pasid
  let a := st.cib.toNat + 0x1000 + 0x100 * n
  if st.sup || st.absent.getLsbD n || !st.vFull.getLsbD n || st.floatBusy [n] false || (s.busyLines st).contains n
      || decide (st.nlines ≤ n) || !s.resident st.ccb || st.lateIn s.now [n] then .next s
  else if (s.rangeFaults pasid a 256).1 then .next (s.machineCheck st.ccb 1)
  else
    let s1 := ((s.engineWrite pasid a 256 (lineNat (st.line n))).dropLines st.core (s.engineAddr pasid a) 256).poisonLine key n
    .next (s1.setStrand key { s1.strand key with absent := setBit st.absent n true })

end Sys2Proof.Machine
end

