-- ==== Sys2Proof/Machine/Accum.lean ====
section
/-! DEFINITION. The accumulator formats A48 and INT48, their conversions, the sums of the matrix engine, accumulator
slots with their tile rows, and how slots are bound and evicted (02 R24 to R26, R40 to R42; 10 R267, R280;
11 R307 to R310). -/

namespace Sys2Proof.Machine

/-! ### A48 and INT48 (02 R24, R25) -/

/-- The canonical NaN of A48, and an infinity. -/
def a48Nan : Nat := 0x7FF000000000
def a48Inf (neg : Bool) : Nat := if neg then 0xFFE000000000 else 0x7FE000000000
def a48Zero (neg : Bool) : Nat := if neg then 0x800000000000 else 0

/-- The value of an A48 word. -/
def a48Decode (x : Nat) : FVal :=
  let neg := natBit x 47
  let ex := natBits x 37 10
  let fr := natBits x 0 37
  if ex = 0 then .num neg 0 0
  else if ex = 1023 then (if fr = 0 then .inf neg else .nan false)
  else .num neg (2 ^ 37 + fr) ((ex : Int) - 548)

/-- m x 2^e rounded to 38 significant bits, to nearest, ties to even (roundA48_RNE of R40). -/
def a48Round (neg : Bool) (m : Nat) (e : Int) : Nat :=
  if m = 0 then 0
  else
    let q : Int := (Nat.log2 m : Int) + e - 37
    let (k, _) := roundMult modeNearest neg m e q false
    let (k1, q1) := if k = 2 ^ 38 then (2 ^ 37, q + 1) else (k, q)
    let ex : Int := q1 + 548
    if 1023 ≤ ex then a48Inf neg
    else if ex < 1 then a48Zero neg
    else neg.toNat * 2 ^ 47 + ex.toNat * 2 ^ 37 + (k1 - 2 ^ 37)

/-- An INT48 word as an integer. -/
def int48Decode (x : Nat) : Int := (BitVec.ofNat 48 x).toInt
/-- The INT48 word of a sum, which stops at the bounds (R25). -/
def int48Sat (v : Int) : Nat :=
  (BitVec.ofInt 48 (if v < -(2 ^ 47) then -(2 ^ 47) else if 2 ^ 47 - 1 < v then 2 ^ 47 - 1 else v)).toNat

/-- The value that an accumulator holds in a slot of a mode. -/
def accValue (mode : SlotMode) (x : Nat) : FVal :=
  match mode with
  | .clear | .a48 => a48Decode x
  | .int48 => let v := int48Decode x; .num (decide (v < 0)) v.natAbs 0

/-! ### Conversions (R42; 10 Table 10-6; 11 Table 11-7) -/

/-- A narrowing to a format of `cpat` codes 0x01 to 0x06. -/
def accNarrow (code : Nat) (sat : Bool) (v : FVal) : Nat :=
  if code = 1 then (Fmt.f32.narrow sat modeNearest v).1
  else if code = 2 then (Fmt.bf16.narrow sat modeNearest v).1
  else if code = 3 then (Fmt.f16.narrow sat modeNearest v).1
  else if code = 4 then (Fmt.e4m3.narrow sat modeNearest v).1
  else if code = 5 then (Fmt.e5m2.narrow sat modeNearest v).1
  else (toI32 sat modeNearest v).1

/-- The bytes of a memory element of a `cpat` code; 0 for a code that is none. -/
def cpatSize (code : Nat) : Nat :=
  if code = 0 ∨ code = 8 then 8
  else if code = 1 ∨ code = 6 ∨ code = 9 ∨ code = 10 then 4
  else if code = 2 ∨ code = 3 then 2
  else if code = 4 ∨ code = 5 then 1
  else 0

/-- An accumulator as a memory element of a `cpat` code below 8. -/
def cpatStore (code : Nat) (sat : Bool) (mode : SlotMode) (x : Nat) : Nat :=
  if code = 0 then x else accNarrow code sat (accValue mode x)

/-- A memory element as an accumulator. -/
def cpatLoad (code v : Nat) : Nat :=
  if code = 8 then v % 2 ^ 48
  else if code = 9 then
    match Fmt.f32.decode v with
    | .nan _ => a48Nan
    | .inf neg => a48Inf neg
    | .num neg m e => if m = 0 then a48Zero neg else a48Round neg m e
  else (BitVec.ofInt 48 (BitVec.ofNat 32 v).toInt).toNat

/-- The value of a lane of a drain entry from its columns (Table 11-7). -/
def drainValue (conv : Nat) (sat : Bool) (mode : SlotMode) (xs : List Nat) : Nat :=
  let c := if conv = 0 then 1 else if conv = 1 then 2 else if conv = 2 then 3 else 6
  (xs.zipIdx.map fun x => accNarrow c sat (accValue mode x.1) * 2 ^ (16 * x.2)).sum

/-! ### Sums of the matrix engine (R40, R41) -/

/-- floor(log2) of a number that is not zero. -/
def FVal.top : FVal → Option Int
  | .num _ m e => if m = 0 then none else some ((Nat.log2 m : Int) + e)
  | .nan _ | .inf _ => none

/-- A value as a multiple of 2^q, toward zero. -/
def FVal.multiple (q : Int) : FVal → Int
  | .num neg m e =>
    let k : Nat := if q ≤ e then m * 2 ^ (e - q).toNat else m / 2 ^ (q - e).toNat
    if neg then -(k : Int) else k
  | .nan _ | .inf _ => 0

def FVal.isNegInf (x : FVal) : Bool := decide (x = .inf true)
def FVal.isPosInf (x : FVal) : Bool := decide (x = .inf false)
def FVal.isNegZero : FVal → Bool
  | .num neg m _ => neg && m == 0
  | .nan _ | .inf _ => false

/-- One K-group: the accumulator and the products, summed and rounded (R40). -/
def kGroup (ts : List FVal) : Nat :=
  if ts.any FVal.isNan || (ts.any FVal.isPosInf && ts.any FVal.isNegInf) then a48Nan
  else if ts.any FVal.isPosInf then a48Inf false
  else if ts.any FVal.isNegInf then a48Inf true
  else
    match ts.filterMap FVal.top with
    | [] => a48Zero (ts.all FVal.isNegZero)
    | t :: rest =>
      let top := rest.foldl (fun m x => if m < x then x else m) t
      let q := top - 63
      let sum := (ts.map (FVal.multiple q)).foldl (fun a b => a + b) 0
      a48Round (decide (sum < 0)) sum.natAbs q

/-- A product of two elements with their block scales; a scale of 0xFF is a NaN (R23, R40). -/
def mxProduct (a b : FVal) (sa sb : Nat) : FVal :=
  if sa = 255 ∨ sb = 255 then .nan false
  else
    match (mulVal a b).1 with
    | .num neg m e => .num neg m (e + (sa : Int) + (sb : Int) - 254)
    | .inf neg => .inf neg
    | .nan s => .nan s

/-! ### Slots (11 R307) and tile rows (10 R267) -/

/-- Element (i, j) of a physical slot. -/
def Core.acc (k : Core) (phys i j : Nat) : Nat := (Tab.get 0 k.accs (phys * 8192 + i * 128 + j)).toNat
def Core.setAcc (k : Core) (phys i j v : Nat) : Core :=
  { k with accs := Tab.set 0 k.accs (phys * 8192 + i * 128 + j) (BitVec.ofNat 48 v) }
/-- Set every element of a physical slot to +0. -/
def Core.clearSlot (k : Core) (phys : Nat) : Core := { k with accs := k.accs.filter fun x => x.1 / 8192 != phys }
/-- Set the 128 tile rows of a physical slot to zero (10 R268). -/
def Core.clearTile (k : Core) (phys : Nat) : Core := { k with tile := k.tile.filter fun x => x.1 / 32768 != phys }

/-- A map entry of a cohort. -/
def Cohort.slot (c : Cohort) (i : Nat) : Slot := Tab.get {} c.slots i
def Cohort.setSlot (c : Cohort) (i : Nat) (x : Slot) : Cohort := { c with slots := Tab.set {} c.slots i x }
/-- Whether an entry's contents are only in the save image (R311). -/
def Slot.absent (x : Slot) : Bool := x.saved && !x.resident

/-- The entries of a cohort granted at admission, and their number. -/
def Cohort.admission (c : Cohort) : List Nat :=
  (List.range 16).filter fun i => (c.slot i).granted && !(c.slot i).acquired
/-- The bytes of a cohort's tile window (10 R267). -/
def Cohort.windowBytes (c : Cohort) : Nat := 32768 * c.admission.length

/-- The tile address of a byte of a window: row 128 g + (w mod 128) of the slot that entry w / 128 names. -/
def Cohort.tileAddr (c : Cohort) (o : Nat) : Nat := (c.slot (o / 32768)).phys * 32768 + o % 32768
/-- n bytes of a window from an offset. -/
def State.readTile (s : State) (c : Cohort) (o n : Nat) : Nat :=
  (List.range n).foldr (fun i acc =>
    (Memory.read (s.core c.core).tile (c.tileAddr (o + i))).toNat + 256 * acc) 0
/-- Write n bytes of a window. -/
def State.writeTile (s : State) (ccb : DWord) (o n v : Nat) : State :=
  let c := s.cohort ccb
  let k := s.core c.core
  s.setCore c.core { k with tile := (List.range n).foldl (fun (m : Memory) i =>
    Memory.write m (c.tileAddr (o + i)) (BitVec.ofNat 8 (v / 256 ^ i))) k.tile }

/-! ### The save image (Table 11-5) -/

def accImage (ccb : DWord) (i : Nat) : Nat := ccb.toNat + 0x24000 + 0x18000 * i
def tileImage (ccb : DWord) (i : Nat) : Nat := ccb.toNat + 0x34000 + 0x18000 * i

/-- Write the accumulators of a physical slot to the save image of an entry. -/
def State.saveAccs (s : State) (core phys : Nat) (ccb : DWord) (i : Nat) : State :=
  let k := s.core core
  s.writeWords (s.cohort ccb).pasid (accImage ccb i)
    ((List.range 8192).map fun e => (8 * e, k.acc phys (e / 128) (e % 128)))
/-- Read them back. -/
def State.fillAccs (s : State) (core phys : Nat) (ccb : DWord) (i : Nat) : State :=
  let pasid := (s.cohort ccb).pasid
  let s := s.touchRange pasid (accImage ccb i) 65536
  s.setCore core ((List.range 8192).foldl (fun (k : Core) e =>
    k.setAcc phys (e / 128) (e % 128) (s.imageWord pasid (accImage ccb i + 8 * e))) ((s.core core).clearSlot phys))
/-- Write the 128 tile rows of a physical slot to the save image of an entry. -/
def State.saveTile (s : State) (core phys : Nat) (ccb : DWord) (i : Nat) : State :=
  let m := (s.core core).tile
  (List.range 128).foldl (fun s r =>
    s.engineWrite (s.cohort ccb).pasid (tileImage ccb i + 256 * r) 256
      (Memory.readN m (phys * 32768 + 256 * r) 256)) s
/-- Read them back. -/
def State.fillTile (s : State) (core phys : Nat) (ccb : DWord) (i : Nat) : State :=
  let pasid := (s.cohort ccb).pasid
  let s := s.touchRange pasid (tileImage ccb i) 32768
  let k := (s.core core).clearTile phys
  s.setCore core { k with tile := (List.range 128).foldl (fun (m : Memory) r =>
    Memory.writeN m (phys * 32768 + 256 * r) 256 ((s.engineRead pasid (tileImage ccb i + 256 * r) 256).getD 0)) k.tile }

/-! ### Binding and eviction (R309, R310) -/

/-- Change a map entry of a cohort; the word of an absent cohort's image follows (R307). -/
def State.changeSlot (s : State) (ccb : DWord) (i : Nat) (x : Slot) : State :=
  (s.setCohort ccb ((s.cohort ccb).setSlot i x)).showWord ccb (0x200 + 8 * i) x.word

/-- The contents of an entry go from its physical slot to its save image: its accumulators where it is resident there, and
for an entry granted at admission its tile rows; an entry of `macq` has no tile rows that are saved (R309, R312). -/
def State.saveEntry (s : State) (core phys : Nat) (ccb : DWord) (i : Nat) (accs tile : Bool) : State :=
  let x := (s.cohort ccb).slot i
  let s1 := if accs && x.resident then s.saveAccs core phys ccb i else s
  let s2 := if tile && !x.acquired then s1.saveTile core phys ccb i else s1
  if accs && x.resident then s2.changeSlot ccb i { x with resident := false, saved := true } else s2

/-- Take the owner of a physical slot out of it: its contents go to its save image, and the tag is cleared (R309). The
accumulators of an entry that is not resident stay as they were saved. -/
def State.evictSlot (s : State) (core phys : Nat) : State :=
  match (s.core core).owners.find? fun x => x.1 == phys with
  | none => s
  | some (_, o) =>
    let s1 := s.saveEntry core phys o.ccb o.idx true true
    s1.setCore core { s1.core core with owners := Tab.del (s1.core core).owners phys }

/-- The physical slots of a core without a tag, and those whose owner is not resident, the one that left first before
the others. -/
def Core.untagged (k : Core) : List Nat := (List.range 16).filter fun g => !Tab.has k.owners g
def insertLeft (x : Nat × Nat) : List (Nat × Nat) → List (Nat × Nat)
  | [] => [x]
  | y :: t => if x.1 < y.1 then x :: y :: t else y :: insertLeft x t
def Core.evictable (k : Core) : List Nat :=
  ((k.owners.filter fun x => !x.2.resident).foldl (fun l x => insertLeft (x.2.left, x.1) l) []).map fun x => x.2
/-- The physical slots that can be bound, in the order of preference (R309). -/
def Core.bindable (k : Core) : List Nat := k.untagged ++ k.evictable

/-- Bind an entry of a cohort to a physical slot of a core: among untagged slots the device takes any. -/
def State.bindEntry (s : State) (core : Nat) (ccb : DWord) (i : Nat) (x : Slot) : State :=
  let k := s.core core
  let (s0, phys) := (match k.untagged, k.evictable with
    | [], [] => (s, 0)
    | [], g :: _ => (s.evictSlot core g, g)
    | g :: t, _ => (s.tick, ((g :: t)[Config.freeNat s.free % (t.length + 1)]?).getD g))
  let k1 := s0.core core
  let s1 := s0.setCore core { k1 with owners := Tab.put k1.owners phys { ccb := ccb, idx := i, resident := true } }
  s1.setCohort ccb ((s1.cohort ccb).setSlot i { x with core := core, phys := phys })

/-- Grant an entry, clear and resident: its accumulators read +0 and its tile rows zero (R309, R312; 10 R268). -/
def State.grantEntry (s : State) (core : Nat) (ccb : DWord) (i : Nat) (acquired : Bool) : State :=
  let s1 := s.bindEntry core ccb i { granted := true, acquired := acquired, resident := true }
  let phys := ((s1.cohort ccb).slot i).phys
  let k := (s1.core core).clearSlot phys
  s1.setCore core (if acquired then k else k.clearTile phys)

/-- Unbind an entry: its tag goes and the entry is no longer granted. -/
def State.releaseEntry (s : State) (ccb : DWord) (i : Nat) : State :=
  let x := (s.cohort ccb).slot i
  let k := s.core x.core
  let s1 := s.setCore x.core { k with owners := k.owners.filter fun o => !(o.2.ccb == ccb && o.2.idx == i) }
  s1.setCohort ccb ((s1.cohort ccb).setSlot i {})

end Sys2Proof.Machine
end

