-- ==== Sys2Proof/Machine/Copy.lean ====
section
/-! DEFINITION. The copy engine: commands and channels, their checks at acceptance, delivery units, pointers and
completion words, channel faults, tile transfers, and the channel instructions (10 R267 to R291). -/

namespace Sys2Proof.Machine

/-! ### Channels (R269) -/

/-- The cohort by which a strand's channels are named; 0 names those of the core's supervisor strand. -/
def Strand.channelOwner (st : Strand) : DWord := if st.sup then 0 else st.ccb

/-- The channels of a cohort, or of the supervisor strand of a core. -/
def State.channelsOf (s : State) (core : Nat) (ccb : DWord) : Tab (List Command) :=
  if ccb = 0 then (s.core core).channels else (s.cohort ccb).channels
def State.channel (s : State) (core : Nat) (ccb : DWord) (ch : Nat) : List Command := Tab.get [] (s.channelsOf core ccb) ch
def State.setChannel (s : State) (core : Nat) (ccb : DWord) (ch : Nat) (l : List Command) : State :=
  let t := Tab.set [] (s.channelsOf core ccb) ch l
  if ccb = 0 then s.setCore core { s.core core with channels := t }
  else s.setCohort ccb { s.cohort ccb with channels := t }

/-- How many commands of all cohorts a core's engine holds. -/
def State.commandsOn (s : State) (core : Nat) : Nat :=
  let own := ((s.core core).channels.map fun x => x.2.length).sum
  own + (s.cohorts.map fun c => ((c.2.channels.map fun x => (x.2.filter fun m => m.core == core).length).sum)).sum

/-! ### Operands of a command (Table 10-5) -/

/-- Where one side of a command lies. -/
inductive Side where
  | none | memory | tile | scratch | slot
  deriving DecidableEq, Repr

/-- Whether `cpat` moves from a slot to memory. -/
def Command.fromSlot (c : Command) : Bool := decide (c.conv < 8)

def Command.source (c : Command) : Side :=
  match c.op with
  | .cpgt | .cpgg | .cpgs | .cpix => .memory
  | .cptg => .tile
  | .cpsg => .scratch
  | .cpat => if c.fromSlot then .slot else .memory
  | .cfill => .none

def Command.dest (c : Command) : Side :=
  match c.op with
  | .cpgt | .cpix => .tile
  | .cptg | .cpgg | .cpsg => .memory
  | .cpgs => .scratch
  | .cpat => if c.fromSlot then .memory else .slot
  | .cfill => if c.tile then .tile else if inAperture c.dst && canonical c.dst then .scratch else .memory

/-- The bytes of a row on the memory side. -/
def Command.rowBytes (c : Command) : Nat := if c.op = .cpat then c.len * cpatSize c.conv else c.len
/-- The strides of a command: row r lies at base + r x stride (R272, R278). -/
def Command.sourceStride (c : Command) : BitVec 32 := if c.op = .cpix then 0 else c.sstr
def Command.destStride (c : Command) : BitVec 32 := if c.op = .cpix then 256 else c.dstr
/-- A row of a base, modulo 2^64. -/
def rowAddr (base : DWord) (stride : BitVec 32) (r : Nat) : DWord := base + BitVec.ofNat 64 r * stride.signExtend 64

/-- The accumulator side of a `cpat`: slot index, first row, first column (R280). -/
def Command.location (c : Command) : DWord := if c.fromSlot then c.src else c.dst
def Command.slotIdx (c : Command) : Nat := natBits c.location.toNat 16 4
def Command.row0 (c : Command) : Nat := natBits c.location.toNat 8 6
def Command.col0 (c : Command) : Nat := natBits c.location.toNat 0 7

/-- Whether the command reads or writes scratch, the tile window or a slot of its cohort (R291). -/
def Command.inCore (c : Command) : Bool :=
  c.source == .tile || c.source == .scratch || c.source == .slot
    || c.dest == .tile || c.dest == .scratch || c.dest == .slot

/-! ### Checks at acceptance (R273, Table 10-3) -/

/-- Whether a row of n bytes of a memory operand has a non-canonical end, and whether it meets the aperture. -/
def rowBad (va : DWord) (n : Nat) : Bool × Bool :=
  let last := va + BitVec.ofNat 64 (n - 1)
  (!canonical va || !canonical last, (canonical va && inAperture va) || (canonical last && inAperture last))

/-- A tile offset without its reserved bits [63:19] (R267). -/
def tileBase (o : DWord) : DWord := o &&& 0x7FFFF

/-- The conditions of one side over its rows: the causes that apply. A row of no bytes reaches nothing. -/
def State.sideCauses (s : State) (c : Cohort) (side : Side) (base : DWord) (stride : BitVec 32) (rows n : Nat) : List Cause :=
  let first := if side = .tile then tileBase base else base
  let addrs := if n = 0 then [] else (List.range rows).map fun r => rowAddr first stride r
  match side with
  | .none | .slot => []
  | .memory =>
    (if addrs.any fun a => (rowBad a n).1 then [.nonCanonical] else [])
      ++ (if addrs.any fun a => (rowBad a n).2 then [.copyParameter] else [])
  | .scratch =>
    (if addrs.any fun a => !(canonical a && inAperture a) then [.copyParameter] else [])
      ++ (if addrs.any fun a => canonical a && inAperture a && (s.scratchPlace c.ccb a n).isNone then [.scratchBound] else [])
  | .tile =>
    (if base.toNat / 2 ^ 19 ≠ 0 then [.copyParameter] else [])
      ++ (if addrs.any fun a => decide (c.windowBytes < a.toNat + n) then [.tileBound] else [])

/-- The causes of the accumulator side of a `cpat` (R273, R280, 11 R311). -/
def Command.slotCauses (m : Command) (c : Cohort) : List Cause :=
  if m.op ≠ .cpat then []
  else
    let z := cpatSize m.conv
    let memory := if m.fromSlot then m.dst else m.src
    let stride := if m.fromSlot then m.dstr else m.sstr
    let x := c.slot m.slotIdx
    (if z = 0 ∨ (m.sat = true ∧ (m.conv = 0 ∨ 8 ≤ m.conv)) then [.copyParameter] else [])
    ++ (if m.location.toNat ≠ m.slotIdx * 2 ^ 16 + m.row0 * 2 ^ 8 + m.col0 ∨ 64 < m.row0 + m.rows ∨ 128 < m.col0 + m.len
        ∨ memory.toNat % max z 1 ≠ 0 ∨ stride.toNat % max z 1 ≠ 0 then [.copyParameter] else [])
    ++ (if !x.granted then [.accSlotNotHeld] else if x.absent then [.accOwnerMiss] else [])

/-- Every cause that a command meets at acceptance. R273 names memory operands: that the index array of `cpix` is checked as
one, a row of 4 x ROWS bytes, is the model's choice (log 94). -/
def State.commandCauses (s : State) (c : Cohort) (m : Command) (shape strides : Nat) : List Cause :=
  let word (a : DWord) : List Cause :=
    if a = 0 then []
    else (if a.toNat % 8 ≠ 0 then [.misaligned] else []) ++ s.sideCauses c .memory a 0 1 8
  let n := m.rowBytes
  (if m.rows = 0 ∨ m.len = 0 ∨ natBits shape 51 13 ≠ 0 ∨ natBit shape 49 = true ∨ (natBit shape 50 = true ∧ m.op ≠ .cfill)
      ∨ ((natBit shape 48 = true ∨ natBits shape 40 8 ≠ 0) ∧ m.op ≠ .cpat) ∨ (m.op = .cfill ∧ m.sstr ≠ 0)
      ∨ (m.op = .cpix ∧ (strides % 4 ≠ 0 ∨ 256 < m.len)) then [.copyParameter] else [])
  ++ word m.cwa ++ word m.pwa
  ++ (if m.op = .cpix then s.sideCauses c .memory m.index 0 1 (4 * m.rows)
      else s.sideCauses c m.source m.src m.sourceStride m.rows n)
  ++ s.sideCauses c m.dest m.dst m.destStride m.rows n
  ++ m.slotCauses c

/-- The lowest of a list of causes. -/
def lowestCause : List Cause → Option Cause
  | [] => none
  | c :: t =>
    match lowestCause t with
    | some d => if d.code < c.code then some d else some c
    | none => some c

/-- Whether a strand of a cohort has a drain entry not yet popped that holds an element of a rectangle (11 R323). -/
def State.drainHolds (s : State) (c : Cohort) (idx col0 cols : Nat) : Bool :=
  c.keys.any fun k =>
    (s.strand k).drains.any fun q => q.2.any fun d =>
      d.idx == idx && (List.range d.entries).any fun n =>
        decide (d.popped ≤ n) && (d.columns n).any fun x => decide (col0 ≤ x ∧ x < col0 + cols)

/-- Accept a command into its channel, or hold the strand back (R269, R291; 11 R323). -/
def State.acceptCommand (s : State) (us : List Use) (m : Command) (ch shape strides : Nat) : State :=
  let st := s.cur
  let e := candidate st
  let c := s.curCohort
  let owner := st.channelOwner
  match lowestCause (s.commandCauses c m shape strides) with
  | some x =>
    s.raiseAllAt x (if x = .accOwnerMiss then st.ccb ||| BitVec.ofNat 64 m.slotIdx else 0)
  | none =>
    let l := s.channel st.core owner ch
    if 16 ≤ l.length ∨ 256 ≤ s.commandsOn st.core ∨ (l.any fun x => x.old) = true then s.stallWith 12
    else if m.dest = .slot ∧ s.drainHolds c m.slotIdx m.col0 m.len = true then s.stallWith 12
    else
      let s1 := (s.popSources us).setChannel st.core owner ch (l ++ [{ m with order := c.mxOrder }])
      let s2 := if owner = 0 then s1 else s1.setCohort owner { s1.cohort owner with mxOrder := c.mxOrder + 1 }
      s2.settle [(nextPc e.pc, e.mask)] []

/-- The shape of the transfer commands (Table 10-1): k odd raises 0x01. -/
def transfer (op : CopyOp) (e g : Bool) (c : BitVec 3) (k : BitVec 4) (a b : Code) (s : State) :
    Host.Outcome State Fault Refusal :=
  let kk : Code := k.zeroExtend 7
  let us : List Use := [⟨.ssegev, a, e⟩, ⟨.sseg, a + 1, e⟩, ⟨.ssegev, b, g⟩, ⟨.sseg, b + 1, g⟩,
    ⟨.ssrc, kk, false⟩, ⟨.ssrc, kk + 1, false⟩]
  runPoint s us [] (k.toNat % 2 != 0) false fun s =>
    let st := s.cur
    let shape := (s.usrc b).toNat
    let strides := (s.usrc (b + 1)).toNat
    let m : Command := {
      op := op, src := s.usrc a, dst := s.usrc (a + 1), len := natBits shape 0 24, rows := natBits shape 24 16,
      sstr := BitVec.ofNat 32 (if op = .cpix then 0 else strides),
      dstr := BitVec.ofNat 32 (if op = .cpix then 0 else strides / 2 ^ 32),
      index := if op = .cpix then BitVec.ofNat 64 strides else 0, tile := natBit shape 50, sat := natBit shape 48,
      conv := natBits shape 40 8, cwa := s.ssrc kk, pwa := s.ssrc (kk + 1), user := !st.sup, pasid := s.pasidOf st,
      core := st.core }
    s.acceptCommand us m c.toNat shape strides

def execCpgt (e g : Bool) (c : BitVec 3) (k : BitVec 4) (a b : Code) (s : State) := transfer .cpgt e g c k a b s
def execCptg (e g : Bool) (c : BitVec 3) (k : BitVec 4) (a b : Code) (s : State) := transfer .cptg e g c k a b s
def execCpgg (e g : Bool) (c : BitVec 3) (k : BitVec 4) (a b : Code) (s : State) := transfer .cpgg e g c k a b s
def execCpat (e g : Bool) (c : BitVec 3) (k : BitVec 4) (a b : Code) (s : State) := transfer .cpat e g c k a b s
def execCpgs (e g : Bool) (c : BitVec 3) (k : BitVec 4) (a b : Code) (s : State) := transfer .cpgs e g c k a b s
def execCpsg (e g : Bool) (c : BitVec 3) (k : BitVec 4) (a b : Code) (s : State) := transfer .cpsg e g c k a b s
def execCpix (e g : Bool) (c : BitVec 3) (k : BitVec 4) (a b : Code) (s : State) := transfer .cpix e g c k a b s
def execCfill (e g : Bool) (c : BitVec 3) (k : BitVec 4) (a b : Code) (s : State) := transfer .cfill e g c k a b s

/-! ### Accesses of a running command (R274 to R276, R288) -/

/-- A fault that parks a channel: its sub-cause, address, the kind of the access and the level of the walk. -/
structure ChannelFault where
  cause : Cause
  va : DWord
  kind : Access
  level : Nat
  deriving DecidableEq, Repr

/-- How an access of a command fails: it parks the channel, it ends the command with a code and XC, its context has no active
slot and the command is discarded, or the link engine holds it (R276, R288; 12 R494; 15 R415). -/
inductive Trouble where
  | park (f : ChannelFault)
  | stop (code xc : Nat)
  | gone
  | wait
  deriving DecidableEq, Repr

/-- Where the steps of an access have led: the state, which keeps what its walks have set, and a value or what is wrong. -/
abbrev Tried (α : Type) : Type := State × Except Trouble α

/-- Go on with the value of an access. -/
def Tried.andThen {α β : Type} (r : Tried α) (f : State → α → Tried β) : Tried β :=
  match r with
  | (s, .ok a) => f s a
  | (s, .error t) => (s, .error t)

/-- Translate one piece of a command's access. A walk that itself meets an uncorrectable table entry or a failed host read
(12 R334) is in no list of R288 and has no code of its own in Table 10-4 for a table: it parks the channel with 0x29 or 0x1C as
its sub-cause, the model's choice (log 110). A `cpix` source row is checked unit by unit, so that units of a row before its
first bad byte are delivered: R278 does not say when the whole row is checked (log 109). -/
def State.commandPlace (s : State) (m : Command) (k : Access) (va : DWord) : Tried Phys :=
  let fail (s : State) (c : Cause) (l : Nat) : Tried Phys := (s, .error (.park { cause := c, va := va, kind := k, level := l }))
  if !canonical va then fail s .nonCanonical 0
  else if inAperture va then fail s .copyParameter 0
  else
    match s.translate m.core m.pasid m.user k va.toNat with
    | (s1, .dropped) => (s1, .error .gone)
    | (s1, .fail c w) => fail s1 c w.level
    | (s1, .ok p w) =>
      if p.loc = .mmio then fail s1 .atomicUncached w.level
      else if m.user && (s1.structAt p).isSome then fail s1 .contextImage w.level
      else if s1.peerHeld [.phys p] then (s1, .error .wait)
      else (s1, .ok p)

/-- The code and XC with which a command ends whose access needs a link that is down (Table 10-4). -/
def State.placeLink (s : State) (p : Phys) : Option (Nat × Nat) :=
  match p.loc with
  | .dev => none
  | .host | .mmio => if s.hostUp then none else some (5, Cause.hostLink.code)
  | .peer => if s.peerUp (p.addr / 2 ^ 42) then none else some (6, Cause.peerLink.code)

/-- Cut n bytes at an address at multiples of 128: pairs of an address and a length. -/
def pieces (va : DWord) (n : Nat) : List (DWord × Nat) :=
  let head := min n (128 - va.toNat % 128)
  (va, head) :: (List.range ((n - head + 127) / 128)).map fun i =>
    (va + BitVec.ofNat 64 (head + 128 * i), min 128 (n - head - 128 * i))

/-- Read n bytes of memory for a command, at their home. -/
def State.commandRead (s : State) (m : Command) (va : DWord) (n : Nat) : Tried Nat :=
  let all : Tried (Nat × Nat) := (pieces va n).foldl (fun (acc : Tried (Nat × Nat)) x =>
    acc.andThen fun s v => (s.commandPlace m .read x.1).andThen fun s1 p =>
      match s1.placeLink p with
      | some (c, xc) => (s1, .error (.stop c xc))
      | none =>
        if s1.errorAt p.loc p.addr x.2 then (s1, .error (.stop 4 Cause.uncorrectable.code))
        else (s1, .ok (v.1 + Memory.readN (s1.memory p.loc) p.addr x.2 * 2 ^ (8 * v.2), v.2 + x.2))) (s, .ok (0, 0))
  all.andThen fun s v => (s, .ok v.1)

/-- A channel of a core's engine, by its cohort and its number; 8 for what outlives its command, a completion word. -/
structure Sender where
  ccb : DWord
  channel : Nat
  deriving DecidableEq, Repr

/-- Write n bytes at a place for an engine of a core; a write to a host page is made on the relaxed channel (05 R148), and one
to a peer is a request that the peer acknowledges (15 R416). -/
def State.sendWrite (s : State) (core : Nat) (p : Phys) (n v : Nat) (f : FarWrite) : State :=
  let w : FarWrite := { f with
    addr := p.addr, port := if p.loc = .peer then s.peerPort p.addr else 0, cells := s.cellsOf p n v }
  let s1 := s.putBytes p.loc p.addr n v
  let k := s1.core core
  if p.loc = .host then s1.setCore core { k with relaxed := k.relaxed ++ [w] }
  else if p.loc = .peer then s1.setCore core { k with peerCopies := k.peerCopies ++ [w] }
  else s1

/-- Write n bytes at a place for a command. -/
def State.commandPut (s : State) (m : Command) (w : Sender) (va : DWord) (p : Phys) (n v : Nat) : State :=
  s.sendWrite m.core p n v { pasid := m.pasid, va := va.toNat, ccb := w.ccb, channel := w.channel, start := m.delivered }

/-- Whether a write is one of a channel. -/
def FarWrite.of (x : FarWrite) (w : Sender) : Bool := x.ccb == w.ccb && x.channel == w.channel

/-- Whether a write of a channel to a peer has no acknowledgement yet (15 R416). -/
def State.unacknowledged (s : State) (core : Nat) (w : Sender) : Bool := (s.core core).peerCopies.any fun x => x.of w

/-- Give the last of a list that satisfies a test a pointer. -/
def pointLast (p : FarWrite → Bool) (q : Pointer) : List FarWrite → List FarWrite
  | [] => []
  | x :: t => if p x && !t.any p then { x with pointer := some q } :: t else x :: pointLast p q t

/-- Write the pointer of a command, once every unit before it is performed (R275): while a peer has still to acknowledge one,
the write waits with it. -/
def State.raisePointer (s : State) (m : Command) (w : Sender) (p : Phys) (v : Nat) : State :=
  if s.unacknowledged m.core w then
    let k := s.core m.core
    s.setCore m.core { k with
      peerCopies := pointLast (fun x => x.of w) { loc := p.loc.code, addr := p.addr, va := m.pwa.toNat, value := v } k.peerCopies }
  else s.commandPut m w m.pwa p 8 v

/-- The place of a pointer that has waited. -/
def Pointer.place (q : Pointer) : Phys :=
  { loc := if q.loc = 0 then .dev else if q.loc = 1 then .host else .peer, addr := q.addr, uc := false, locked := false }

/-- A peer acknowledges a copy write of a core; those of one channel in the order of their sending. The pointer that waited for
it is written (15 R416; R275). -/
def State.peerAck (s : State) (core place : Nat) : State :=
  let k := s.core core
  match k.peerCopies[place]? with
  | none => s
  | some x =>
    let w : Sender := { ccb := x.ccb, channel := x.channel }
    if (k.peerCopies.take place).any fun y => y.of w then s
    else
      let s1 := s.setCore core { k with peerCopies := k.peerCopies.eraseIdx place }
      match x.pointer with
      | some q => s1.sendWrite core q.place 8 q.value { pasid := x.pasid, va := q.va, ccb := x.ccb, channel := x.channel, start := x.start }
      | none => s1

/-- A completion word over a lost link arrives or does not, as one unit (05 R134); R276 gives no outcome for it, and that the
command then ends is the model's choice (log 95). -/
def State.lostWord (s : State) (p : Phys) (v : Nat) : State :=
  if Config.freeBool s.free then s.tick.putBytes p.loc p.addr 8 v else s.tick

/-- Some bytes of a unit over a lost link arrive and some do not (R276). -/
def State.lostPut (s : State) (p : Phys) (n v : Nat) : State :=
  (List.range n).foldl (fun (s : State) i =>
    if Config.freeBool s.free then s.tick.putBytes p.loc (p.addr + i) 1 (v / 256 ^ i) else s.tick) s

/-! ### Delivery units (R274, R277 to R280) -/

/-- The next unit of a command: its row, its first column in bytes, and its length, which an aligned block of 128 bytes
of the destination's space bounds. -/
def Command.unit (m : Command) : Nat × Nat × Nat :=
  let a := if m.op = .cpat then (if m.fromSlot then rowAddr m.dst m.dstr m.row else rowAddr m.src m.sstr m.row)
    else rowAddr m.dst m.destStride m.row
  (m.row, m.col, min (m.rowBytes - m.col) (128 - (a.toNat + m.col) % 128))

/-- How many bytes a command delivers in all. -/
def Command.total (m : Command) : Nat := m.rows * m.rowBytes

/-- The command once a unit of n bytes has been delivered. -/
def Command.after (m : Command) (n : Nat) : Command :=
  let done := decide (m.rowBytes ≤ m.col + n)
  { m with
    delivered := m.delivered + n, row := if done then m.row + 1 else m.row, col := if done then 0 else m.col + n
    picked := if done then none else m.picked }

/-- The bytes of a unit of an accumulator side. -/
def State.slotBytes (s : State) (c : Cohort) (m : Command) : Nat :=
  let (r, col, n) := m.unit
  let z := cpatSize m.conv
  let x := c.slot m.slotIdx
  let k := s.core x.core
  (List.range (n / z)).foldr (fun i acc =>
    cpatStore m.conv m.sat x.mode (k.acc x.phys (m.row0 + r) (m.col0 + col / z + i)) % 2 ^ (8 * z) + 2 ^ (8 * z) * acc) 0

/-- Write a unit into the accumulators; codes 0x09 and 0x0A set the slot's mode (R280). -/
def State.putSlot (s : State) (ccb : DWord) (m : Command) (v : Nat) : State :=
  let c := s.cohort ccb
  let (r, col, n) := m.unit
  let z := cpatSize m.conv
  let x := c.slot m.slotIdx
  let k := (List.range (n / z)).foldl (fun (k : Core) i =>
    k.setAcc x.phys (m.row0 + r) (m.col0 + col / z + i) (cpatLoad m.conv (natBits v (8 * z * i) (8 * z)))) (s.core x.core)
  let mode := if m.conv = 9 then .a48 else if m.conv = 10 then .int48 else x.mode
  (s.setCore x.core k).setCohort ccb (c.setSlot m.slotIdx { x with mode := mode, resident := true })

/-- The index word of the row of the next unit of a `cpix`, which is read when the row starts (R278); 0 for other commands. -/
def State.pickIndex (s : State) (m : Command) : Tried Nat :=
  if m.op ≠ .cpix then (s, .ok 0)
  else
    match m.picked with
    | some i => (s, .ok i)
    | none => s.commandRead m (m.index + BitVec.ofNat 64 (4 * m.row)) 4

/-- The source bytes of the next unit, with the index word of its row. An uncorrectable byte of the tile store, of scratch or
of a slot ends the command as one of memory does (R276; 17 Table 17-7). -/
def State.unitSource (s : State) (ccb : DWord) (m : Command) (i : Nat) : Tried Nat :=
  let c := s.cohort ccb
  let (r, col, n) := m.unit
  let a := rowAddr m.src m.sourceStride r + BitVec.ofNat 64 col
  let within (v : Nat) : Tried Nat := if m.flawed then (s, .error (.stop 4 Cause.uncorrectable.code)) else (s, .ok v)
  match m.source with
  | .none => (s, .ok ((List.range n).foldr (fun j acc => natBits m.src.toNat (8 * ((col + j) % 8)) 8 + 256 * acc) 0))
  | .tile => within (s.readTile c a.toNat n)
  | .slot => within (s.slotBytes c m)
  | .scratch =>
    within (match s.scratchPlace ccb a n with
      | some (x, o) => Memory.readN (s.cohort x).scratch o n
      | none => 0)
  | .memory =>
    s.commandRead m (if m.op = .cpix then
      m.src + (BitVec.ofNat 32 i).signExtend 64 * BitVec.ofNat 64 m.len + BitVec.ofNat 64 col else a) n

/-- The place of the pointer word, which must be reached for a unit to be written (R275, R276); none without one. -/
def State.pointerPlace (s : State) (m : Command) : Tried (Option Phys) :=
  if m.pwa = 0 then (s, .ok none)
  else (s.commandPlace m .write m.pwa).andThen fun s1 p =>
    match s1.placeLink p with
    | some (c, xc) => (s1, .error (.stop c xc))
    | none => (s1, .ok (some p))

/-- The place of a unit in memory; none where it goes elsewhere. -/
def State.unitPlace (s : State) (m : Command) (a : DWord) : Tried (Option Phys) :=
  if m.dest = .memory then (s.commandPlace m .write a).andThen fun s1 p => (s1, .ok (some p)) else (s, .ok none)

/-- Write a unit at its destination; `p` is its place in memory. -/
def State.putUnit (s : State) (w : Sender) (m : Command) (a : DWord) (p : Option Phys) (v : Nat) : State :=
  let n := m.unit.2.2
  let ccb := w.ccb
  match m.dest with
  | .none => s
  | .tile => s.writeTile ccb a.toNat n v
  | .slot => s.putSlot ccb m v
  | .scratch =>
    match s.scratchPlace ccb a n with
    | some (y, o) => s.setCohort y { s.cohort y with scratch := Memory.writeN (s.cohort y).scratch o n v }
    | none => s
  | .memory =>
    match p with
    | some p => s.commandPut m w a p n v
    | none => s

/-- The whole step of a unit: its source is read, its destination and the pointer word are reached, then it is written and the
pointer advances (R275). A unit whose own link is down may be written in part, and the command ends (R276). The command
after the unit is the value. -/
def State.deliverUnit (s : State) (w : Sender) (m : Command) : Tried Command :=
  let (r, col, n) := m.unit
  let a := rowAddr m.dst m.destStride r + BitVec.ofNat 64 col
  (s.pickIndex m).andThen fun s i => (s.unitSource w.ccb m i).andThen fun s v =>
    (s.unitPlace m a).andThen fun s p => (s.pointerPlace m).andThen fun s q =>
      match p, p.bind s.placeLink with
      | some x, some e => (s.lostPut x n v, .ok { m with ended := some e })
      | _, _ =>
        let s1 := s.putUnit w m a p v
        let s2 := match q with
          | some x => s1.raisePointer m w x (m.base + m.delivered + n)
          | none => s1
        (s2, .ok (Command.after { m with picked := if m.op = .cpix then some i else none } n))

/-! ### Steps of the engine -/

/-- The head of a channel. -/
def State.headCommand (s : State) (core : Nat) (ccb : DWord) (ch : Nat) : Option Command := (s.channel core ccb ch).head?
def State.setHead (s : State) (core : Nat) (ccb : DWord) (ch : Nat) (m : Command) : State :=
  s.setChannel core ccb ch (m :: (s.channel core ccb ch).tail)
def State.dropHead (s : State) (core : Nat) (ccb : DWord) (ch : Nat) : State :=
  s.setChannel core ccb ch (s.channel core ccb ch).tail

/-- What the engine does next with the head of a channel. -/
inductive Next where
  | start | unit | complete
  deriving DecidableEq, Repr

def Command.next (m : Command) : Next :=
  if m.ended.isSome then .complete
  else if !m.started then .start
  else if m.delivered < m.total then .unit
  else .complete

/-- Whether a matrix operation or a `cpat` of the cohort that was accepted earlier on the map entry of a `cpat` has still to be
done: operations take effect entry by entry in the order of their acceptance (R281; 11 R323). -/
def State.cpatWaits (s : State) (ccb : DWord) (m : Command) : Bool :=
  m.op == .cpat && ((s.core m.core).mxOps.any (fun o => o.ccb == ccb && o.k == m.slotIdx && decide (o.order < m.order))
    || (s.channelsOf m.core ccb).any fun l => l.2.any fun x =>
      x.op == .cpat && x.ended.isNone && x.next != .complete && decide (x.order < m.order) && m.slotIdx == x.slotIdx)

/-- The completion word (Table 10-4). -/
def Command.completion (m : Command) (ch : Nat) : Nat :=
  let (code, xc) := m.ended.getD (1, 0)
  m.delivered * 2 ^ 24 + xc * 2 ^ 16 + ch * 2 ^ 8 + code

/-- The next action on the head of a channel: the state after it, or what stops it. -/
def State.channelAction (s : State) (core : Nat) (ccb : DWord) (ch : Nat) (m : Command) : Tried Unit :=
  match m.next with
  | .start =>
    if m.pwa = 0 then (s.setHead core ccb ch { m with started := true }, .ok ())
    else (s.commandRead m m.pwa 8).andThen fun s b => (s.setHead core ccb ch { m with started := true, base := b }, .ok ())
  | .unit => (s.deliverUnit { ccb := ccb, channel := ch } m).andThen fun s m1 => (s.setHead core ccb ch m1, .ok ())
  | .complete =>
    if m.cwa = 0 then (s.dropHead core ccb ch, .ok ())
    else (s.commandPlace m .write m.cwa).andThen fun s p =>
      let v := m.completion ch
      ((if (s.placeLink p).isSome then s.lostWord p v
        else s.commandPut m { ccb := ccb, channel := 8 } m.cwa p 8 v).dropHead core ccb ch, .ok ())

/-- One step of a channel that is due an action of a kind: a command whose context is gone is discarded, one that meets
an error ends with its code, and one that meets a fault stays for CHANNEL_FAULT. A write waits while its core holds
1,024 on the relaxed channel (15 R411), and a completion until every write to a peer is acknowledged (15 R416). -/
def channelStep (kind : Next) (core ccb ch : Nat) (s : State) : Host.Outcome State Fault Refusal :=
  let owner : DWord := BitVec.ofNat 64 ccb
  match s.headCommand core owner ch with
  | none => .next s
  | some m =>
    if m.parked.isSome || m.next != kind || s.cpatWaits owner m
        || (kind == .complete && s.unacknowledged m.core { ccb := owner, channel := ch }) then .next s
    else
      match s.channelAction core owner ch m with
      | (s1, .ok _) => .next (if 1024 < (s1.core m.core).relaxed.length then s else s1)
      | (s1, .error (.stop c x)) =>
        let s2 := s1.setHead core owner ch { m with ended := some (c, x), flawed := false }
        .next (if c = 4 then s2.countCheck m.core 2 else s2)
      | (s1, .error .gone) => .next (s1.dropHead core owner ch)
      | (_, .error (.park _)) | (_, .error .wait) => .next s

/-- COMMAND_START: the first command of a channel starts and reads its base (R270, R275). -/
def execCommandStart (core ccb ch : Nat) (s : State) := channelStep .start core ccb ch s
/-- DELIVERY_UNIT: one unit is read, converted and written, and the pointer word rises (R274, R275). -/
def execDeliveryUnit (core ccb ch : Nat) (s : State) := channelStep .unit core ccb ch s
/-- COMMAND_COMPLETION: the completion word is written and the channel goes on (R276). -/
def execCommandCompletion (core ccb ch : Nat) (s : State) := channelStep .complete core ccb ch s

/-- CHANNEL_FAULT: the next action of a channel meets a fault; the channel parks, a fault record is written where the
ring has room, and 0x18 is posted (R288; 12 R336; 13 Table 13-2). -/
def execChannelFault (core ccb ch : Nat) (s : State) : Host.Outcome State Fault Refusal :=
  let owner : DWord := BitVec.ofNat 64 ccb
  match s.headCommand core owner ch with
  | none => .next s
  | some m =>
    if m.parked.isSome || s.cpatWaits owner m || (s.core m.core).ringFull then .next s
    else
      match s.channelAction core owner ch m with
      | (s1, .error (.park f)) =>
        let s2 := s1.setHead core owner ch { m with parked := some f.cause.code }
        let (s3, n) := s2.writeRecord {
          addr := f.va.toNat % 2 ^ 56, mask := 0, pasid := m.pasid, cause := Cause.copyChannel.code, sub := f.cause.code,
          kind := f.kind.code, level := f.level, channel := some ch, core := m.core, bench := 0, slot := 0, last := ccb }
        .next (s3.postEvent m.core {
          cause := .copyChannel, sub := f.cause.code, pasid := m.pasid, param := ch, cib := owner, taddr := f.va,
          seq := some n })
      | (_, .error (.stop _ _)) | (_, .error .gone) | (_, .error .wait) | (_, .ok _) => .next s

/-! ### `chres`, `chabt`, `ccan`, `cdone` (R286, R287, R289, R290) -/

/-- The shape of `chres` and `chabt`: status 2 for no command in this core's engine or a bad B, 1 for nothing parked. -/
def repair (f : Command → Command) (e g : Bool) (d a b : Code) (s : State) : Host.Outcome State Fault Refusal :=
  let us : List Use := [⟨.ssrc, a, e⟩, ⟨.ssrc, b, g⟩, ⟨.sdst, d, false⟩]
  run s us [] false true fun s =>
    let core := s.cur.core
    let ccb := s.ssrc a
    let ch := (s.ssrc b).toNat
    let here := (s.channelsOf core ccb).any fun x => x.2.any fun m => m.core == core
    let s0 := s.popSources us
    let answer (s : State) (v : DWord) : State := (s.writeS d (popsInto us) v).advance
    if 8 ≤ ch ∨ here = false then answer s0 2
    else
      match s.headCommand core ccb ch with
      | some m => if m.parked.isSome && m.core == core then answer (s0.setHead core ccb ch (f m)) 0 else answer s0 1
      | none => answer s0 1

/-- `chres`: the faulting unit is tried again. -/
def execChres (e g : Bool) (d a b : Code) (s : State) := repair (fun m => { m with parked := none }) e g d a b s
/-- `chabt`: the parked command ends with CODE 0x03 and its sub-cause. A command parked at its completion word tries that
word again with the new code, and parks anew where it faults still, which R290 does not speak of: the model's choice, for
`ccan` as well (log 111). -/
def execChabt (e g : Bool) (d a b : Code) (s : State) :=
  repair (fun m => { m with ended := some (3, m.parked.getD 0), parked := none }) e g d a b s

/-- `ccan` (R287): every command of the channel accepted before it ends as cancelled; one that has met its end code already
keeps it, unless it is parked. -/
def execCcan (c : BitVec 3) (s : State) : Host.Outcome State Fault Refusal :=
  runPoint s [] [] false false fun s =>
    let st := s.cur
    let owner := st.channelOwner
    let l := (s.channel st.core owner c.toNat).map fun m =>
      if m.ended.isSome && m.parked.isNone then m else { m with ended := some (2, 0), parked := none }
    (s.setChannel st.core owner c.toNat l).advance

/-- `cdone` (R286): one read of 8 bytes at the home. It returns for a command as `cwait` does: the L1 keeps no line (05 Table 5-5). -/
def execCdone (e : Bool) (d a : Code) (s : State) : Host.Outcome State Fault Refusal :=
  runPoint s [⟨.sseg, a, e⟩, ⟨.seg, d, false⟩] [] false false fun s =>
    let en := candidate s.cur
    let m := d.toNat - 0x60
    let va := s.usrc a
    s.loadUniform .plain 8 true va fun s1 plan p v =>
      (s1.onCur fun st => st.produce m (scalarProducer s en m va plan p v)).dropL1 s.cur.core

/-! ### `tld` and `tst` (R282, R283) -/

/-- The bytes of a lane in line i of a mode: the tile offset and the bytes of each part, lowest part first
(Table 10-7). -/
def tileParts (m o lane i : Nat) : List (Nat × Nat) :=
  let t := o / 256
  let col := o % 256
  if m = 0 then [(o + 256 * i + 4 * lane, 4)]
  else if m = 1 then [((t + lane) * 256 + col + 4 * i, 4)]
  else if m = 2 then [((t + 2 * lane) * 256 + col + 2 * i, 2), ((t + 2 * lane + 1) * 256 + col + 2 * i, 2)]
  else (List.range 4).map fun k => ((t + 4 * lane + k) * 256 + col + i, 1)

/-- The last row that a mode reaches. -/
def tileLast (m o n threads : Nat) : Nat :=
  if m = 0 then (o + 256 * (n - 1) + 4 * threads - 1) / 256
  else o / 256 + (if m = 1 then threads else if m = 2 then 2 * threads else 4 * threads) - 1

/-- Whether the column limit of a mode is broken. -/
def tileColumnBad (m o n : Nat) : Bool :=
  let col := o % 256
  if m = 0 then col % 4 != 0
  else if m = 1 then col % 4 != 0 || decide (256 < col + 4 * n)
  else if m = 2 then col % 2 != 0 || decide (256 < col + 2 * n)
  else decide (256 < col + n)

/-- The cause of a tile access, the lowest: the row is [18:8] of the offset, and [63:19] are zero (R267, R282). -/
def Strand.tileCause (st : Strand) (c : Cohort) (m n : Nat) (o : DWord) : Option Cause :=
  let row := (tileBase o).toNat
  if c.windowBytes ≤ tileLast m row n st.threads * 256 then some .tileBound
  else if tileColumnBad m row n || decide (tileBase o ≠ o) then some .copyParameter
  else none

/-- The lines of a `tld` or `tst`. -/
def tileLines (st : Strand) (d : Code) (n : Nat) : List Nat := (List.range n).map fun i => st.wb + d.toNat + i

/-- An uncorrectable error in the tile window raises 0x29 for every lane of the entry (17 Table 17-7); in a cohort without one
the instruction goes on. -/
def State.tileFlawed (s : State) (k : State → State) : State :=
  let c := s.curCohort
  if c.flawedTile then (s.setCurCohort { c with flawedTile := false }).raiseAll .uncorrectable else k s

/-- A tile instruction: its checks, its lines under 04 R98 and 03 R54 among them, then what it does with the offset. -/
def tileAccess (reads e : Bool) (d a : Code) (m n : Nat) (s : State) (k : State → Nat → State) :
    Host.Outcome State Fault Refusal :=
  runPoint s [⟨.sseg, a, e⟩, ⟨.vlines n reads, d, false⟩] [] false false fun s =>
    match s.cur.tileCause s.curCohort m n (s.usrc a) with
    | some c => s.raiseAllAt c 0
    | none => s.tileFlawed fun s => k s (s.usrc a).toNat

/-- `tld`: a long-latency producer of its lines; lane L + 32 receives what lane L does in shadow mode. -/
def execTld (e : Bool) (d a : Code) (m : BitVec 2) (n : BitVec 5) (s : State) : Host.Outcome State Fault Refusal :=
  tileAccess false e d a m.toNat (n.toNat + 1) s fun s o =>
    let st := s.cur
    let c := s.curCohort
    let mask := (candidate st).mask
    let value (i l : Nat) : Word :=
      let ps := tileParts m.toNat o (if st.shadow then l % 32 else l) i
      BitVec.ofNat 32 (ps.zipIdx.map fun x => s.readTile c x.1.1 x.1.2 * 2 ^ (8 * x.1.2 * x.2)).sum
    let lines := (tileLines st d (n.toNat + 1)).zipIdx.map fun x => (x.1, mask, mergeLine zeroLine mask (value x.2))
    (s.onCur fun st => { lines.foldl (fun st x => st.emptyLine x.1) st with
      producers := st.producers ++ [{ lines := lines, tile := true }] }).advance

/-- `tst`: the bytes of the active lanes are written, in ascending lane order; lanes 0 to 31 alone in shadow mode. -/
def execTst (e : Bool) (d a : Code) (m : BitVec 2) (n : BitVec 5) (s : State) : Host.Outcome State Fault Refusal :=
  tileAccess true e d a m.toNat (n.toNat + 1) s fun s o =>
    let st := s.cur
    let lanes := lanesOf (if st.shadow then (candidate st).mask &&& 0xFFFFFFFF else (candidate st).mask)
    ((tileLines st d (n.toNat + 1)).zipIdx.foldl (fun (s : State) x =>
      lanes.foldl (fun (s : State) l =>
        (tileParts m.toNat o l x.2).zipIdx.foldl (fun (s : State) p =>
          s.writeTile st.ccb p.1.1 p.1.2 (natBits (laneOf (st.line x.1) l).toNat (8 * p.1.2 * p.2) (8 * p.1.2))) s) s) s).advance

/-! ### Moves (R291) -/

/-- Whether a move of a cohort waits for its commands and tile transfers. -/
def State.copyWaits (s : State) (c : Cohort) : Bool :=
  (c.channels.any fun x => x.2.any fun m => m.inCore)
    || c.keys.any fun k => (s.strand k).producers.any fun p => p.tile

end Sys2Proof.Machine
end

