-- ==== Sys2Proof/Machine/Matrix.lean ====
section
/-! DEFINITION. The matrix engine: gangs, the rendezvous latch, joint operations, accumulator slots, drain streams and
the engine's own steps (11 R292 to R325). -/

namespace Sys2Proof.Machine

/-! ### Forms (Table 11-1) -/

/-- Whether the form reads E8M0 scales. -/
def MxForm.scaled : MxForm → Bool
  | .mxe2m1 | .mxe4m3 | .mxe2m3 => true
  | .bf16 | .f16 | .e4m3 | .e5m2 | .i8 => false
/-- Elements per lane of a line, and their bits. -/
def MxForm.perLane : MxForm → Nat
  | .bf16 | .f16 => 2
  | .e4m3 | .e5m2 | .mxe4m3 | .mxe2m3 | .i8 => 4
  | .mxe2m1 => 8
def MxForm.bits (f : MxForm) : Nat := 32 / f.perLane
/-- K at a shape, and the K-group length. -/
def MxForm.group : MxForm → Nat
  | .bf16 | .f16 => 16
  | .e4m3 | .e5m2 | .mxe4m3 | .i8 => 32
  | .mxe2m1 | .mxe2m3 => 64
def MxForm.k (f : MxForm) (shape : Nat) : Nat := f.group * 2 ^ shape
/-- The format of the elements of a fragment; `alt` is TA or TB. -/
def MxForm.fmt (f : MxForm) (alt : Bool) : Fmt :=
  match f with
  | .bf16 => .bf16
  | .f16 => .f16
  | .e4m3 => .e4m3
  | .e5m2 => .e5m2
  | .mxe2m1 => .e2m1
  | .mxe4m3 => if alt then .e5m2 else .e4m3
  | .mxe2m3 => if alt then .e3m2 else .e2m3
  | .i8 => .e4m3
/-- Panels of 8 lines of A; B has twice as many (R300). -/
def MxForm.panels (f : MxForm) (shape : Nat) : Nat := f.k shape / (8 * f.perLane)
/-- The scale lines u of A; B has twice as many (R302). -/
def MxForm.scaleLines (f : MxForm) (shape : Nat) : Nat := (f.k shape / 32 + 3) / 4

/-- The panels of position m of g: the first and the count (R300). -/
def share (panels g m : Nat) : Nat × Nat :=
  (m * (panels / g) + min m (panels % g), panels / g + (if m < panels % g then 1 else 0))

/-! ### The latch (R297 to R299) -/

/-- An arrival counts while its strand still holds an entry at its `mma`: a trap that takes every lane withdraws it. -/
def State.arrived (s : State) (a : Arrival) : Bool := (s.strand a.key).holdsGang a.pc
/-- Every listed member has arrived: the rendezvous is complete (R298). -/
def Gang.complete (g : Gang) : Bool := (gangMembers g.members).all fun m => g.arrivals.any fun a => a.sidx == m
/-- Give a gang its arrivals; it keeps the time of its completion, or takes the one given, while it is complete. -/
def Gang.withArrivals (g : Gang) (l : List Arrival) (now : Option Nat) : Gang :=
  let g1 := { g with arrivals := l }
  { g1 with metAt := if g1.complete then (match g.metAt with | some t => some t | none => now) else none }

/-- The latch of a core without withdrawn arrivals. -/
def State.cleanLatch (s : State) (core : Nat) : State :=
  let k := s.core core
  s.setCore core { k with latch :=
    (k.latch.map fun g => g.withArrivals (g.arrivals.filter fun a => s.arrived a) none).filter fun g => !g.arrivals.isEmpty }

/-- Whether two gangs are the same operation: opcode, D field and GANG[34:0]. -/
def Gang.same (g h : Gang) : Bool :=
  g.ccb == h.ccb && g.form == h.form && g.shape == h.shape && g.z == h.z && g.k == h.k && g.members == h.members

/-- The lines of a strand's shares and, in the leader of an MX form, of its scales (R300 to R302). -/
def shareLines (form : MxForm) (shape g m wb a b : Nat) : List Nat × List Nat × List Nat :=
  let na := 8 * (share (form.panels shape) g m).2
  let nb := 8 * (share (2 * form.panels shape) g m).2
  let ns := if form.scaled && m == 0 then 3 * form.scaleLines shape else 0
  ((List.range na).map fun i => wb + a + i, (List.range nb).map fun i => wb + b + i,
   (List.range ns).map fun i => wb + b + nb + i)

/-- A member of a cohort's gang that has exited or does not exist. -/
def State.memberGone (s : State) (c : Cohort) (members : List Nat) : Bool :=
  members.any fun k =>
    match c.cibs.getD k none with
    | some a => (s.strand a.toNat).exited
    | none => true

/-- The strand arrives: it joins its gang, begins one, or fails the one it does not match (R297, R299). -/
def State.arrive (s : State) (new : Gang) (a : Arrival) : State :=
  let st := s.cur
  let e := candidate st
  let core := st.core
  let latch := (s.core core).latch
  let fail (s : State) (g : Option Gang) : State :=
    match g with
    | some g => (s.holdCandidate .gang).failGangs core [g] [a] .gangMismatch
    | none => s.settle [] [{ cause := .gangMismatch, mask := e.mask }]
  let listed (g : Gang) : Bool := g.ccb == st.ccb && (gangMembers g.members).contains st.sidx
  let gone := s.memberGone s.curCohort (gangMembers new.members)
  match latch.find? fun g => g.same new with
  | some g =>
    if gone then fail s (some g)
    else
      let k := s.core core
      (s.setCore core { k with latch := latch.map fun x => if x = g then g.withArrivals (g.arrivals ++ [a]) (some s.now) else x }).holdCandidate .gang
  | none =>
    match latch.find? listed with
    | some g => fail s (some g)
    | none =>
      if gone then fail s none
      else if 8 ≤ latch.length then s.stallWith 3
      else
        let k := s.core core
        (s.setCore core { k with latch := latch ++ [{ new with arrivals := [a], since := s.now }] }).holdCandidate .gang

/-- `mma` (R297, R304): the checks in their order, then the arrival. -/
def mma (form : MxForm) (e g : Bool) (k : BitVec 4) (sel : BitVec 2) (z : Bool) (a b : Code) (s : State) :
    Host.Outcome State Fault Refusal :=
  let us : List Use := [⟨.vfrag, a, false⟩, ⟨.vfrag, b, false⟩]
  runPoint s us [] (s.notSupervisor || sel == 3) false fun s0 =>
    let s := s0.cleanLatch s0.cur.core
    let st := s.cur
    let en := candidate st
    let gang := st.gang.toNat
    let shape := sel.toNat
    let members := gangMembers gang
    let m := members.idxOf st.sidx
    let (la, lb, ls) := shareLines form shape (gangCount gang) m st.wb a.toNat b.toNat
    let all := la ++ lb ++ ls
    let empty (l : List Nat) : Bool := l.any fun n => !st.vFull.getLsbD n
    if st.shadow then s.raiseAllAt .matrixType 0
    else if gangCount gang < 2 then s.raiseAllAt .gangMismatch 0
    else if !(s.curCohort.slot k.toNat).granted then s.raiseAllAt .accSlotNotHeld 0
    else if all.any fun n => decide (st.nlines ≤ n) then s.raiseAll .windowOverflow
    else if (e && empty la) || (g && (empty lb || empty ls)) then s.raiseAll .registerEmpty
    else
      match s.operandWait [] all false with
      | some h => s.halt h
      | none =>
        if (s.core st.core).latch.any fun g => g.arrivals.any fun x => x.key == st.key then s.stallWith 3
        else
          s.arrive { ccb := st.ccb, form := form, shape := shape, z := z, k := k.toNat, members := natBits gang 0 35, since := s.now }
            { key := st.key, sidx := st.sidx, pc := en.pc, aLines := la, bLines := lb, scales := ls }

def execMmaBf16 (e g : Bool) (k : BitVec 4) (sel : BitVec 2) (z : Bool) (a b : Code) (s : State) := mma .bf16 e g k sel z a b s
def execMmaF16 (e g : Bool) (k : BitVec 4) (sel : BitVec 2) (z : Bool) (a b : Code) (s : State) := mma .f16 e g k sel z a b s
def execMmaE4m3 (e g : Bool) (k : BitVec 4) (sel : BitVec 2) (z : Bool) (a b : Code) (s : State) := mma .e4m3 e g k sel z a b s
def execMmaE5m2 (e g : Bool) (k : BitVec 4) (sel : BitVec 2) (z : Bool) (a b : Code) (s : State) := mma .e5m2 e g k sel z a b s
def execMmaMxe2m1 (e g : Bool) (k : BitVec 4) (sel : BitVec 2) (z : Bool) (a b : Code) (s : State) := mma .mxe2m1 e g k sel z a b s
def execMmaMxe4m3 (e g : Bool) (k : BitVec 4) (sel : BitVec 2) (z : Bool) (a b : Code) (s : State) := mma .mxe4m3 e g k sel z a b s
def execMmaMxe2m3 (e g : Bool) (k : BitVec 4) (sel : BitVec 2) (z : Bool) (a b : Code) (s : State) := mma .mxe2m3 e g k sel z a b s
def execMmaI8 (e g : Bool) (k : BitVec 4) (sel : BitVec 2) (z : Bool) (a b : Code) (s : State) := mma .i8 e g k sel z a b s

/-! ### `mgang` and `mcfg` (R295, R296, R320) -/

/-- Whether `mgang` refuses a value (R296). -/
def State.gangBad (s : State) (v : Nat) : Bool :=
  let st := s.cur
  let c := s.curCohort
  let n := gangCount v
  let ms := gangMembers v
  natBits v 35 29 != 0 || natBits v 30 2 != 0 || n == 7
    || ((List.range 6).any fun p => decide (n ≤ p) && natBits v (5 * p) 5 != 0)
    || (n != 0 && (ms.filter fun x => x == st.sidx).length != 1)
    || ms.any (fun x => decide (c.variant.strands ≤ x)) || (distinct ms).length != ms.length
    || (match c.variant.matrixRole with
      | some (f, k) => ms.any fun x => decide (x < f ∨ f + k ≤ x)
      | none => false)
    || (s.core st.core).latch.any fun g => g.arrivals.any fun x => x.key == st.key

def execMgang (e : Bool) (a : Code) (s : State) : Host.Outcome State Fault Refusal :=
  runPoint s [⟨.sseg, a, e⟩] [] s.notSupervisor false fun s0 =>
    let s := s0.cleanLatch s0.cur.core
    let v := (s.usrc a).toNat
    if s.cur.shadow then s.raiseAllAt .matrixType 0
    else if s.gangBad v then s.raiseAllAt .gangMismatch 0
    else (s.onCur fun st => { st with
      gang := BitVec.ofNat 64 (natBits st.gang.toNat 35 3 * 2 ^ 35 + natBits v 32 3 * 2 ^ 32 + natBits v 0 30) }).advance

/-- `mcfg` (R320): under the power alarm NRQ stays set. -/
def execMcfg (d : Code) (c : BitVec 3) (s : State) : Host.Outcome State Fault Refusal :=
  runPoint s [⟨.seg, d, false⟩] [] false false fun s =>
    let st := s.cur
    let old := natBits st.gang.toNat 35 3
    let keep := (s.core st.core).powerAlarm && natBit old 2
    let new := c.toNat % 4 + 4 * (c.getLsbD 2 || keep).toNat
    (s.onCur fun st => { st.putScalar false (d.toNat - 0x60) (BitVec.ofNat 64 old) with
      gang := BitVec.ofNat 64 (st.gang.toNat % 2 ^ 35 + new * 2 ^ 35) }).advance

/-! ### Accumulator slots (R312 to R317) -/

/-- Accepted joint operations of a cohort on an entry. -/
def State.opsOn (s : State) (c : Cohort) (k : Nat) : Nat :=
  ((s.core c.core).mxOps.filter fun o => o.ccb == c.ccb && o.k == k).length
/-- Accepted `cpat` commands of a cohort on an entry. -/
def Cohort.cpatsOn (c : Cohort) (k : Nat) : Bool :=
  c.channels.any fun x => x.2.any fun m => m.op == .cpat && m.slotIdx == k && m.ended.isNone
/-- Whether an operation or command accepted on an entry has not completed. -/
def State.entryBusy (s : State) (c : Cohort) (k : Nat) : Bool := decide (0 < s.opsOn c k) || c.cpatsOn k

/-- Since when a strand waits in the `macq.w` at an address; from now on if it has not begun. -/
def Strand.acquiringSince (st : Strand) (pc : Pc) (now : Nat) : Nat :=
  match st.acquiring with
  | some (p, _, t) => if p = pc then t else now
  | none => now

/-- How many slots the `macq.w` at which a strand waits wants, and since when; none where it waits in none (R312, R315). -/
def Strand.slotRequest (st : Strand) : Option (Nat × Nat) :=
  match st.acquiring, candidate? st with
  | some (p, n, t), some e => if e.pc = p ∧ e.parked = false then some (n, t) else none
  | _, _ => none

/-- Whether an older waiting request of a hot cohort of the core can be granted now: the oldest is served first (R315). -/
def State.olderRequest (s : State) (st : Strand) (pc : Pc) : Bool :=
  let room := (s.core st.core).bindable.length
  s.cohorts.any fun x =>
    decide (x.2.residency = .hot ∧ x.2.core = st.core ∧ x.2.leaving = none) && !x.2.halted && x.2.keys.any fun k =>
      match (s.strand k).slotRequest with
      | some (n, t) => decide (k ≠ st.key ∧ t < st.acquiringSince pc s.now ∧ n ≤ room)
      | none => false

/-- A waiting `macq.w` is remembered by its place and its time (R312, R315). -/
def execMacq (d : Code) (w : Bool) (n : BitVec 4) (s : State) : Host.Outcome State Fault Refusal :=
  runPoint s [⟨.seg, d, false⟩] [] s.notSupervisor false fun s =>
    let st := s.cur
    let c := s.curCohort
    let want := n.toNat + 1
    let free := (List.range 16).filter fun i => !(c.slot i).granted
    let put (s : State) (v : Nat) : State :=
      (s.onCur fun st => { st.putScalar false (d.toNat - 0x60) (BitVec.ofNat 64 v) with acquiring := none }).advance
    if !c.matrix then s.raiseAllAt .accSlotNotHeld 0
    else if free.length < want then (if w then s.raiseAllAt .accSlotNotHeld 0 else put s 0)
    else if (s.core st.core).bindable.length < want ∨ (w = true ∧ s.olderRequest st (candidate st).pc = true) then
      if w then
        (s.onCur fun st => { st with
          acquiring := some ((candidate st).pc, want, st.acquiringSince (candidate st).pc s.now) }).stallWith 12
      else put s 0
    else
      let is := free.take want
      put (is.foldl (fun s i => s.grantEntry st.core c.ccb i true) s) ((is.map fun i => 2 ^ i).sum)

/-- MACQ_RETRY: a waiting `macq.w` is tried again: its bench has the next cycle (R312). -/
def execMacqRetry (key : Nat) (s : State) : Host.Outcome State Fault Refusal :=
  let st := s.strand key
  match st.slotRequest with
  | some (n, _) =>
    if st.stall = 12 ∧ n ≤ (s.core st.core).bindable.length then
      .next { s with agenda := .bench st.core st.bench :: s.agenda }
    else .next s
  | none => .next s

/-- Discard the drain descriptors of a cohort on entries that a test names; what a stream had ready is prepared
again. -/
def State.dropDrains (s : State) (c : Cohort) (p : Nat → Bool) : State :=
  c.keys.foldl (fun (s : State) key =>
    let st := s.strand key
    (List.range 4).foldl (fun (s : State) q =>
      let st := s.strand key
      let l := Tab.get [] st.drains q
      if l.any fun d => p d.idx then
        s.setStrand key { st with
          drains := Tab.set [] st.drains q ((l.filter fun d => !p d.idx).map fun d => { d with prepared := d.popped }),
          readyq := Tab.set [] st.readyq q [] }
      else s) (s.setStrand key st)) s

/-- `mrel` (R313). -/
def execMrel (a : Code) (s : State) : Host.Outcome State Fault Refusal :=
  runPoint s [⟨.useg, a, false⟩] [] false false fun s =>
    let c := s.curCohort
    let v := (s.usrc a).toNat
    let is := (List.range 16).filter fun i => natBit v i
    if is.any fun i => !(c.slot i).granted || !(c.slot i).acquired then s.raiseAllAt .accSlotNotHeld 0
    else if is.any fun i => s.entryBusy c i then s.stallWith 12
    else (is.foldl (fun s i => s.releaseEntry c.ccb i) (s.dropDrains c fun i => is.contains i)).advance

/-- Whether a drain entry of a cohort on an entry has not been popped. -/
def State.drainsOn (s : State) (c : Cohort) (k : Nat) : Bool := s.drainHolds c k 0 128

/-- `mzero` (R314): it waits for what was accepted before it on the entry (R323). -/
def execMzero (k : BitVec 4) (s : State) : Host.Outcome State Fault Refusal :=
  runPoint s [] [] false false fun s =>
    let c := s.curCohort
    let x := c.slot k.toNat
    if !x.granted then s.raiseAllAt .accSlotNotHeld 0
    else if s.entryBusy c k.toNat || s.drainsOn c k.toNat then s.stallWith 12
    else
      let s1 := s.setCore x.core ((s.core x.core).clearSlot x.phys)
      (s1.setCohort c.ccb (c.setSlot k.toNat { x with mode := .clear, err := false, resident := true, saved := false })).advance

/-- Whether an entry's contents stand in a physical slot of a core. -/
def State.heldOn (s : State) (core : Nat) (c : Cohort) (k : Nat) : Bool :=
  let x := c.slot k
  x.resident && x.core == core && (s.core core).owners.any fun o => o.1 == x.phys && o.2.ccb == c.ccb && o.2.idx == k

/-- `aspill` (R316). -/
def execAspill (e g : Bool) (d a b : Code) (s : State) : Host.Outcome State Fault Refusal :=
  let us : List Use := [⟨.ssrc, a, e⟩, ⟨.ssrc, b, g⟩, ⟨.sdst, d, false⟩]
  run s us [] false true fun s =>
    let core := s.cur.core
    let ccb := s.ssrc a
    let k := (s.ssrc b).toNat
    let c := s.cohort ccb
    let x := c.slot k
    let s0 := s.popSources us
    let answer (s : State) (v : DWord) : State := (s.writeS d (popsInto us) v).advance
    if 16 ≤ k ∨ Tab.has s.cohorts ccb.toNat = false ∨ x.granted = false then answer s0 2
    else if s.entryBusy c k || s.drainsOn c k then answer s0 3
    else if !s.heldOn core c k then answer s0 1
    else
      let s1 := s0.saveEntry core x.phys ccb k true (!s.resident ccb)
      if s.resident ccb then answer s1 0
      else answer (s1.setCore core { s1.core core with owners := Tab.del (s1.core core).owners x.phys }) 0

/-- `afill` (R317). It takes effect after the operations accepted before it on the entry, and waits for them (R323); it does
not wait for pending drain entries, since it brings back what they are to read: the model's choice (log 96). -/
def execAfill (e g : Bool) (d a b : Code) (s : State) : Host.Outcome State Fault Refusal :=
  let us : List Use := [⟨.ssrc, a, e⟩, ⟨.ssrc, b, g⟩, ⟨.sdst, d, false⟩]
  run s us [] false true fun s =>
    let core := s.cur.core
    let ccb := s.ssrc a
    let k := (s.ssrc b).toNat
    let c := s.cohort ccb
    let x := c.slot k
    let s0 := s.popSources us
    let answer (s : State) (v : DWord) : State := (s.writeS d true v).advance
    if 16 ≤ k ∨ s.resident ccb = false ∨ c.core ≠ core ∨ x.granted = false then answer s0 2
    else if x.resident then answer s0 1
    else if x.saved && s.entryBusy c k then s.stallWith 12
    else if x.saved then
      let s1 := s0.fillAccs core x.phys ccb k
      answer (s1.setCohort ccb ((s1.cohort ccb).setSlot k { x with resident := true })) 0
    else answer s0 2

/-! ### Drain streams (R318, R319) -/

/-- A descriptor as Table 11-6 gives it, with its conversion. -/
def drainOf (v conv : Nat) : Drain :=
  { conv := conv, idx := natBits v 0 4, col := natBits v 8 7, cols := natBits v 16 7 + 1, saturate := natBit v 24,
    clear := natBit v 25, interleave := natBit v 26 }

/-- Whether a descriptor breaks a limit (R318). -/
def drainBad (v conv : Nat) : Bool :=
  let d := drainOf v conv
  let pair := conv == 1 || conv == 2
  natBits v 27 37 != 0 || natBit v 23 || natBit v 15 || natBits v 4 4 != 0
    || decide (128 < d.col + d.cols) || (d.interleave && decide (64 < d.col + d.cols))
    || (pair && (d.col % 2 != 0 || d.cols % 2 != 0))

/-- `mdrain` (R318): the lowest code of those that apply. -/
def execMdrain (e : Bool) (d a : Code) (v : BitVec 7) (s : State) : Host.Outcome State Fault Refusal :=
  runPoint s [⟨.sseg, a, e⟩, ⟨.dstream, d, false⟩] [] (decide (4 ≤ v.toNat)) false fun s =>
    let st := s.cur
    let c := s.curCohort
    let w := (s.usrc a).toNat
    let x := drainOf w v.toNat
    let sl := c.slot x.idx
    let q := d.toNat - 0x70
    let l := Tab.get [] st.drains q
    if st.sup then s.raiseAllAt .queueMisuse 0
    else if c.matrix && sl.granted && sl.absent then s.raiseAllAt .accOwnerMiss (st.ccb ||| BitVec.ofNat 64 x.idx)
    else if !c.matrix || !sl.granted then s.raiseAllAt .accSlotNotHeld 0
    else if st.shadow || drainBad w v.toNat then s.raiseAllAt .matrixType 0
    else if 4 ≤ l.length then s.stallWith 9
    else (s.onCur fun st => { st with drains := Tab.set [] st.drains q (l ++ [x]) }).advance

/-- The first descriptor of a stream with an entry that is not prepared, by its place. -/
def nextDrain (l : List Drain) : Option (Nat × Drain) :=
  (l.zipIdx.find? fun x => decide (x.1.prepared < x.1.entries)).map fun x => (x.2, x.1)

/-- Whether a `cpat` into a slot still has to write one of the columns. -/
def Cohort.fillsColumns (c : Cohort) (k : Nat) (cols : List Nat) : Bool :=
  c.channels.any fun x => x.2.any fun m => m.dest == .slot && m.slotIdx == k && m.ended.isNone
    && cols.any fun j => decide (m.col0 ≤ j ∧ j < m.col0 + m.len)

/-- DRAIN_ENTRY_READY: the engine prepares the next entry of a stream, at most two, and a strand that waits for one may go on; `bad` says that its elements carry
an uncorrectable error (R319; 17 R464). -/
def execDrainEntryReady (key q : Nat) (bad : Bool) (s : State) : Host.Outcome State Fault Refusal :=
  let st := s.strand key
  let c := s.cohort st.ccb
  let l := Tab.get [] st.drains q
  match nextDrain l with
  | none => .next s
  | some (i, d) =>
    let sl := c.slot d.idx
    let cols := d.columns d.prepared
    if 2 ≤ (Tab.get [] st.readyq q).length ∨ sl.absent = true ∨ sl.granted = false ∨ s.resident st.ccb = false
        ∨ 0 < s.opsOn c d.idx ∨ c.fillsColumns d.idx cols = true then .next s
    else
      let k := s.core sl.core
      let line : Line := (List.range 64).map fun r =>
        BitVec.ofNat 32 (drainValue d.conv d.saturate sl.mode
          (cols.map fun j => if sl.resident then k.acc sl.phys r j else 0))
      .next (s.setStrand key (({ st with
        drains := Tab.set [] st.drains q (l.set i { d with prepared := d.prepared + 1 }),
        readyq := Tab.set [] st.readyq q (Tab.get [] st.readyq q ++ [if bad then none else some line]) } : Strand).wake 9))

/-! ### Status and waiting (R321, R322) -/

/-- The status word of an entry (Table 11-8). -/
def State.matrixStatus (s : State) (st : Strand) (k : Nat) : DWord :=
  let c := s.cohort st.ccb
  let x := c.slot k
  let mode := match x.mode with | .clear => 0 | .a48 => 1 | .int48 => 2
  let mask := ((List.range 16).map fun i => if (c.slot i).granted then 2 ^ i else 0).sum
  let pend := (st.drains.map fun q => ((q.2.filter fun d => d.idx == k).map fun d => d.entries - d.popped).sum).sum
  BitVec.ofNat 64 (mask * 2 ^ 48 + (s.core st.core).mxn.toNat * 2 ^ 47 + x.granted.toNat * 2 ^ 46 + x.acquired.toNat * 2 ^ 45
    + x.resident.toNat * 2 ^ 44 + x.saved.toNat * 2 ^ 43 + mode * 2 ^ 41 + x.err.toNat * 2 ^ 40 + x.phys * 2 ^ 36
    + min 15 (s.opsOn c k) * 2 ^ 32 + min 255 pend * 2 ^ 24)

def execMstat (e : Bool) (d a : Code) (s : State) : Host.Outcome State Fault Refusal :=
  runPoint s [⟨.useg, a, e⟩, ⟨.seg, d, false⟩] [] false false fun s =>
    let k := (s.usrc a).toNat % 16
    (s.onCur fun st => st.putScalar false (d.toNat - 0x60) (s.matrixStatus st k)).advance

/-- `mwait` (R322): on return the strand observes what the commands have written, so the L1 loses its lines (05 R143, R145). -/
def execMwait (e : Bool) (a : Code) (s : State) : Host.Outcome State Fault Refusal :=
  runPoint s [⟨.useg, a, e⟩] [] false false fun s =>
    let c := s.curCohort
    let v := (s.usrc a).toNat
    if (List.range 16).any fun i => natBit v i && s.entryBusy c i then s.stallWith 12
    else (s.dropL1 s.cur.core).advance

/-! ### Rendezvous (R298, R303) -/

/-- Whether the slot mode forbids a form (R306). -/
def modeForbids (form : MxForm) (z : Bool) (m : SlotMode) : Bool :=
  !z && (if form = .i8 then decide (m = .a48) else decide (m = .int48))

/-- The lines that members supply, in the order of their positions. -/
def State.gangLines (s : State) (g : Gang) (f : Arrival → List Nat) : List Line :=
  (gangMembers g.members).flatMap fun k =>
    match g.arrivals.find? fun a => a.sidx == k with
    | some a => (f a).map fun n => (s.strand a.key).line n
    | none => []

/-- The held entries of the arrived members go on at PC + 4. -/
def State.releaseGang (s : State) (g : Gang) : State :=
  g.arrivals.foldl (fun (s : State) a =>
    let st := s.strand a.key
    s.setStrand a.key { st.setFrontier (st.frontier.map fun e =>
      if e.hold = .gang ∧ e.pc = a.pc then
        { e with pc := nextPc e.pc, prio := s.nextPrio st e.prio (nextPc e.pc), hold := .no }
      else e) with stall := 0, lastIssue := s.now, ready := 0, aged := false }) s

/-- At an operation boundary the power alarm narrows the engine (R294). -/
def Core.boundary (k : Core) : Core := if k.powerAlarm then { k with mxn := true } else k
/-- The first accepted operation executes from now on, narrowed if the engine is: by MXN, or by MXD after a fifth failed
column (R294; 17 R453). -/
def Core.startOp (k : Core) : Core :=
  match k.mxOps with
  | o :: t => { k with mxOps := { o with narrow := o.narrow || k.mxn || k.cmap.getLsbD 63 } :: t }
  | [] => k
/-- Accept an operation; it executes at once in an idle engine, which stands at a boundary (R293, R294). -/
def Core.acceptOp (k : Core) (o : MxOp) : Core :=
  match k.mxOps with
  | [] => ({ k with mxOps := [o] }.boundary).startOp
  | l => { k with mxOps := l ++ [o] }

/-- Whether no other rendezvous of a latch completed before that of a gang (R293). -/
def Core.firstMet (k : Core) (g : Gang) : Bool :=
  k.latch.all fun h => !h.complete || decide (g.metAt.getD 0 ≤ h.metAt.getD 0)

/-- The mode that an entry will have once the operations and `cpat` commands accepted on it have taken effect: that of the one
accepted last (R305, R323; 10 R280). -/
def State.modeAfter (s : State) (c : Cohort) (k : Nat) : SlotMode :=
  let ops := ((s.core c.core).mxOps.filter fun o => o.ccb == c.ccb && o.k == k).map fun o =>
    (o.order, if o.form = .i8 then SlotMode.int48 else .a48)
  let fills := c.channels.flatMap fun x => (x.2.filter fun m =>
    m.op == .cpat && m.slotIdx == k && m.ended.isNone && (m.conv == 9 || m.conv == 10)).map fun m =>
      (m.order, if m.conv = 10 then SlotMode.int48 else .a48)
  match (sortKeyed (fun x => [x.1]) (ops ++ fills)).getLast? with
  | some x => x.2
  | none => (c.slot k).mode

/-- RENDEZVOUS_COMPLETE: a gang all of whose members have arrived is examined, and accepted in the order in which rendezvous
complete, once the engine has a free place and no drain entry is pending on its entry (R293, R298). Where what was accepted
before on the entry will change the mode and with it the verdict, the examination waits for it (R306, R323). -/
def execRendezvousComplete (core place : Nat) (s0 : State) : Host.Outcome State Fault Refusal :=
  let s := s0.cleanLatch core
  let k := s.core core
  match k.latch[place]? with
  | none => .next s
  | some g =>
    let c := s.cohort g.ccb
    let x := c.slot g.k
    let members := gangMembers g.members
    if !g.complete then .next s
    else if !x.granted then .next (s.failGangs core [g] [] .accSlotNotHeld)
    else if x.absent && !g.z then
      match g.arrivals.find? fun a => some a.sidx == members.head? with
      | some a =>
        let rest := g.withArrivals (g.arrivals.filter fun b => decide (b ≠ a)) Option.none
        let s1 := s.setCore core { k with latch := k.latch.map fun y => if y = g then rest else y }
        .next ((s1.raiseArrival a .accOwnerMiss (g.ccb ||| BitVec.ofNat 64 g.k)).cleanLatch core)
      | none => .next s
    else if modeForbids g.form g.z x.mode != modeForbids g.form g.z (s.modeAfter c g.k) then .next s
    else if modeForbids g.form g.z x.mode then .next (s.failGangs core [g] [] .matrixType)
    else if 2 ≤ k.mxOps.length ∨ s.drainsOn c g.k = true ∨ k.firstMet g = false then .next s
    else
      let leader := match g.arrivals.find? fun a => some a.sidx == members.head? with
        | some a => (s.strand a.key).gang.toNat
        | none => 0
      let op : MxOp := {
        ccb := g.ccb, form := g.form, shape := g.shape, z := g.z, k := g.k, ta := natBit leader 35, tb := natBit leader 36,
        narrow := natBit leader 37, aLines := s.gangLines g fun a => a.aLines,
        bLines := s.gangLines g fun a => a.bLines, scales := s.gangLines g fun a => a.scales, order := c.mxOrder }
      let s1 := s.setCore core ({ k with latch := k.latch.filter (fun y => decide (y ≠ g)) }.acceptOp op)
      .next ((s1.setCohort g.ccb { c with mxOrder := c.mxOrder + 1 }).releaseGang g)

/-- A gang of which a listed member holds a parked or a handler entry does not count toward its time-out (R299). -/
def State.gangPaused (s : State) (g : Gang) : Bool :=
  let c := s.cohort g.ccb
  (gangMembers g.members).any fun k =>
    match c.cibs.getD k none with
    | some a => (s.strand a.toNat).frontier.any fun e => e.parked || decide (e.prio = 0xFFFF)
    | none => false

/-- Let cycles pass for the gangs of a core that are paused. -/
def State.pauseGangs (s : State) (core n : Nat) : State :=
  let k := s.core core
  if k.latch.isEmpty then s
  else s.setCore core { k with latch := k.latch.map fun g => if s.gangPaused g then { g with since := g.since + n } else g }

/-- RENDEZVOUS_TIMEOUT: MRTO cycles have passed since the first arrival, and the rendezvous is not complete (R298, R299). -/
def execRendezvousTimeout (core place : Nat) (s0 : State) : Host.Outcome State Fault Refusal :=
  let s := s0.cleanLatch core
  match (s.core core).latch[place]? with
  | none => .next s
  | some g =>
    if s.disp.regs.mrto.toNat ≤ s.now - g.since ∧ s.gangPaused g = false ∧ g.complete = false then .next (s.failGangs core [g] [] .gangMismatch)
    else .next s

/-- Withdraw every arrival of a cohort without a cause: at a swap-out, a migration or a halt (R299). -/
def State.withdrawArrivals (s : State) (ccb : DWord) : State :=
  let c := s.cohort ccb
  let k := s.core c.core
  let s1 := s.setCore c.core { k with latch := k.latch.filter fun g => g.ccb != ccb }
  c.keys.foldl (fun (s : State) key =>
    let st := s.strand key
    s.setStrand key { st with frontier := st.frontier.map fun e => if e.hold = .gang then { e with hold := .no } else e }) s1

/-! ### Operations (R301, R302, R305) -/

/-- Element (i, n) of A and (n, j) of B as bits. -/
def MxOp.aBits (o : MxOp) (i n : Nat) : Nat :=
  let p := o.form.perLane
  natBits (laneOf (o.aLines.getD (n / p) zeroLine) i).toNat (o.form.bits * (n % p)) o.form.bits
def MxOp.bBits (o : MxOp) (n j : Nat) : Nat :=
  let p := o.form.perLane
  natBits (laneOf (o.bLines.getD (j / 64 * (o.form.k o.shape / p) + n / p) zeroLine) (j % 64)).toNat
    (o.form.bits * (n % p)) o.form.bits

/-- The bits of an element that its format reads: FP6 elements ignore bits [7:6]. -/
def elementBits (f : Fmt) (x : Nat) : Nat := x % 2 ^ f.width

/-- The block scales of row i and of column j for index n. -/
def MxOp.aScale (o : MxOp) (i n : Nat) : Nat :=
  if o.form.scaled then natBits (laneOf (o.scales.getD (n / 32 / 4) zeroLine) i).toNat (8 * (n / 32 % 4)) 8 else 127
def MxOp.bScale (o : MxOp) (n j : Nat) : Nat :=
  if o.form.scaled then
    let u := o.form.scaleLines o.shape
    natBits (laneOf (o.scales.getD (u + j / 64 * u + n / 32 / 4) zeroLine) (j % 64)).toNat (8 * (n / 32 % 4)) 8
  else 127

/-- The product of index n. -/
def MxOp.product (o : MxOp) (i j n : Nat) : FVal :=
  let fa := o.form.fmt o.ta
  let fb := o.form.fmt o.tb
  mxProduct (fa.decode (elementBits fa (o.aBits i n))) (fb.decode (elementBits fb (o.bBits n j))) (o.aScale i n) (o.bScale n j)

/-- One element: K-groups in increasing k (R40, R41). -/
def MxOp.element (o : MxOp) (acc i j : Nat) : Nat :=
  let g := o.form.group
  (List.range (o.form.k o.shape / g)).foldl (fun (acc : Nat) b =>
    let ns := (List.range g).map fun n => b * g + n
    if o.form = .i8 then
      int48Sat (ns.foldl (fun (t : Int) n =>
        t + (BitVec.ofNat 8 (o.aBits i n)).toInt * (BitVec.ofNat 8 (o.bBits n j)).toInt) (int48Decode acc))
    else kGroup (a48Decode acc :: ns.map fun n => o.product i j n)) acc

/-- Carry out an operation on its slot; one that reads an uncorrectable error writes nothing but ERR (R305, R324). -/
def State.runOp (s : State) (o : MxOp) (error : Bool) : State :=
  let c := s.cohort o.ccb
  let x := c.slot o.k
  if error then s.setCohort o.ccb (c.setSlot o.k { x with err := true })
  else
    let k := s.core x.core
    let k1 := (List.range 8192).foldl (fun (n : Core) e =>
      let i := e / 128
      let j := e % 128
      n.setAcc x.phys i j (o.element (if o.z then 0 else k.acc x.phys i j) i j)) k
    (s.setCore x.core k1).setCohort o.ccb (c.setSlot o.k { x with
      mode := if o.form = .i8 then .int48 else .a48, err := x.err && !o.z, resident := true,
      saved := x.saved && !o.z })

/-- MMA_OPERATION_COMPLETE: the executing operation of a core completes; `error` says that a line or element it read
carries an uncorrectable error, `column` a physical column, below 260 and not mapped out, whose residue does not match (R293,
R305; 17 R454, R464). An operation of an entry that has been released writes nothing. A `cpat` accepted before it on the entry
comes first, but not one that the end of all work has stopped at a boundary (01 R18; 16 Table 16-7). -/
def execMmaOperationComplete (core : Nat) (error : Bool) (column : Nat) (s : State) : Host.Outcome State Fault Refusal :=
  let k := s.core core
  match k.mxOps with
  | [] => .next s
  | o :: t =>
    let c := s.cohort o.ccb
    let earlier := c.channels.any fun x => x.2.any fun m =>
      m.op == .cpat && m.slotIdx == o.k && m.ended.isNone && decide (m.order < o.order)
    if earlier && decide (s.guard.sequence = .none) && !s.root.hold then .next s
    else
      let wrong := decide (column < 260) && !k.columnsFailed.contains column
      let s1 := s.setCore core
        (({ k with mxOps := t, columnMiss := if wrong then k.columnMiss ++ [column] else k.columnMiss }.boundary).startOp)
      let s2 := if wrong then s1.countCheck core 5 else if error then s1.countCheck core 2 else s1
      .next (if (c.slot o.k).granted then s2.runOp o (error || wrong) else s2)

/-- MXN_SET: an idle engine stands at an operation boundary, and under the power alarm runs narrowed from now on; a busy one
reaches its boundary with the end of its operation (R294). -/
def execMxnSet (core : Nat) (s : State) : Host.Outcome State Fault Refusal :=
  let k := s.core core
  .next (if k.mxOps.isEmpty then s.setCore core k.boundary else s)

end Sys2Proof.Machine
end

