-- ==== Sys2Proof/Machine/Placing.lean ====
section
/-! DEFINITION. Resources of a core, fit, scans and windows, the memory of a cohort, admission and promotion
(04 R80, R86 to R90, R105; 05 R121, R122; 14 R376 to R380). -/

namespace Sys2Proof.Machine

/-! ### Resources (04 R86, R88; 05 Table 5-2) -/

/-- Bytes of the register region and of the scratch region of a carve mode. -/
def registerRegion (mode : Nat) : Nat :=
  1024 * (if mode = 1 then 2560 else if mode = 2 then 3072 else if mode = 5 then 3584 else 2048)
def scratchRegion (mode : Nat) : Nat :=
  1024 * (if mode = 0 then 1536 else if mode = 1 ∨ mode = 4 then 1024 else if mode = 5 then 0 else 512)

/-- The cohorts of a core in a residency. -/
def State.cohortsAt (s : State) (core : Nat) (r : Residency) : List Cohort :=
  (s.cohorts.filter fun x => x.2.core == core && decide (x.2.residency = r)).map fun x => x.2
/-- The cohorts that a core holds, hot or warm. -/
def State.cohortsHeld (s : State) (core : Nat) : List Cohort := s.cohortsAt core .hot ++ s.cohortsAt core .warm

/-- A placement of a group that is being formed: its core and its variant. -/
abbrev Placed := Nat × Variant

/-- The sum of a quantity of the variants that run on a core, with those of a group on the same core. -/
def sumOn (core : Nat) (held : List Cohort) (extra : List Placed) (f : Variant → Nat) : Nat :=
  (held.map fun c => f c.variant).sum + ((extra.filter fun x => x.1 == core).map fun x => f x.2).sum

/-- LMAP of a bench: OFF (17 Table 17-1). -/
def State.benchOff (s : State) (core b : Nat) : Bool := (Tab.get (0x7F : DWord) (s.core core).lmap b).getLsbD 62

/-- The free hot slots of a bench, lowest first; none on a bench that is offline (17 R450). -/
def State.hotSlots (s : State) (core b : Nat) : List Nat :=
  if s.benchOff core b then []
  else
    let used := (s.strands.filter fun x => x.2.hot && x.2.core == core && x.2.bench == b && !x.2.sup).map fun x => x.2.slot
    (List.range 64).filter fun i => !used.contains i

/-- The free hot slots of a core. -/
def State.hotFree (s : State) (core : Nat) : Nat := ((List.range 4).map fun b => (s.hotSlots core b).length).sum

/-- Whether a core has hot slots and reservation for a variant beside a group (R377, fits now). -/
def State.promotable (s : State) (core : Nat) (v : Variant) (extra : List Placed) : Bool :=
  let hot := s.cohortsAt core .hot
  decide (sumOn core hot extra Variant.reservation + v.reservation ≤ registerRegion (s.core core).carve)
    && decide (sumOn core [] extra Variant.strands + v.strands ≤ s.hotFree core)

/-- Whether a variant that will hold so many map entries fits a core beside a group (R377). A core with a carve change
to come takes no cohort, and a core whose matrix engine is offline takes none that declares slots (17 R453). -/
def State.fits (s : State) (core : Nat) (v : Variant) (entries : Nat) (extra : List (Placed × Nat)) : Bool :=
  let k := s.core core
  let ps := extra.map fun x => x.1
  let slots := ((extra.filter fun x => x.1.1 == core).map fun x => x.2).sum
  natBit v.carve k.carve && k.carveNext.isNone && (v.acc == 0 || !k.cmap.getLsbD 62)
    && decide (sumOn core (s.cohortsAt core .warm) ps Variant.strands + v.strands ≤ 768)
    && decide (sumOn core (s.cohortsHeld core) ps Variant.scratch + v.scratch ≤ scratchRegion k.carve)
    && decide (slots + entries ≤ k.bindable.length)
    && decide (v.reservation ≤ registerRegion k.carve)

/-- Whether a variant fits a core now. -/
def State.fitsNow (s : State) (core : Nat) (v : Variant) (entries : Nat) (extra : List (Placed × Nat)) : Bool :=
  s.fits core v entries extra && s.promotable core v (extra.map fun x => x.1)

/-- One of the two. -/
def State.fitsAs (s : State) (now : Bool) (core : Nat) (v : Variant) (entries : Nat) (extra : List (Placed × Nat)) : Bool :=
  if now then s.fitsNow core v entries extra else s.fits core v entries extra

/-! ### Scans and windows (R378, R379; 04 R80) -/

/-- The cores in scan order: ascending after the core of the last admission (R378). -/
def State.coreScan (s : State) : List Nat := (List.range 192).map fun i => (s.disp.lastCore + 1 + i) % 192

/-- The windows, lowest y0 first and then lowest x0, each as its cores in core order. -/
def windows : List (List Nat) :=
  (List.range 9).flatMap fun y => (List.range 13).map fun x =>
    (List.range 4).flatMap fun j => (List.range 4).map fun i => (y + j) * 16 + x + i

/-- A member of a group that is to be placed: its variant, the map entries that it will hold, and the core to which `swapi`
has pinned it (R397). -/
structure Member where
  variant : Variant
  entries : Nat
  pin : Option Nat := none
  deriving DecidableEq, Repr

/-- Place the members of a group in order, each on the first of some cores that still fits it; a pinned one only on its
core. -/
def State.placeIn (s : State) (now : Bool) (cores : List Nat) : List Member → List (Placed × Nat) → Option (List Nat)
  | [], _ => some []
  | m :: t, extra =>
    match cores.find? fun c => m.pin.getD c == c && s.fitsAs now c m.variant m.entries extra with
    | none => none
    | some c => (s.placeIn now cores t (extra ++ [((c, m.variant), m.entries)])).map fun l => c :: l

/-- The cores of a group: of one cohort by the scan; of a span, or what is left of it, in the first window (R379). -/
def State.placeGroup (s : State) (now span : Bool) (l : List Member) : Option (List Nat) :=
  if span then windows.findSome? fun w => s.placeIn now w l [] else s.placeIn now s.coreScan l []

/-- The first pair of an eligible variant, in rank order, and cores for a group of n cohorts (R378). -/
def State.choosePair (s : State) (now : Bool) (n : Nat) (vs : List Variant) : Option (Variant × List Nat) :=
  vs.findSome? fun v => (s.placeGroup now (decide (1 < n)) (List.replicate n { variant := v, entries := v.acc })).map fun l => (v, l)

/-! ### Memory of a cohort (R376) -/

/-- The 4 KiB frames of a pool, and those that hold its bitmap. -/
def Context.poolFrames (c : Context) : Nat := c.frameBytes / 4096
def Context.bitmapFrames (c : Context) : Nat := (c.poolFrames + 32767) / 32768
/-- The virtual address of a frame. -/
def Context.frameAddr (c : Context) (i : Nat) : Nat := c.framePool + 4096 * i

/-- Whether n frames from frame i are free. -/
def Context.framesFree (c : Context) (i n : Nat) : Bool :=
  decide (c.bitmapFrames ≤ i ∧ i + n ≤ c.poolFrames)
    && c.taken.all fun x => decide (i + n ≤ x.1 ∨ x.1 + x.2 ≤ i)

/-- The bitmap of a pool changes: its words hold values that the spec does not give. -/
def State.scrambleBitmap (s : State) (slot : Nat) : State :=
  let c := Tab.get {} s.contexts slot
  (List.range ((c.poolFrames + 63) / 64)).foldl (fun (s : State) i =>
    (s.engineWrite c.pasid (c.framePool + 8 * i) 8 (Config.freeDWord s.free).toNat).tick) s

/-- Take n contiguous frames of a context's pool, of the device's choice; never the address of a cohort or strand of
another context. -/
def State.takeFrames (s : State) (slot n : Nat) : Option (State × Nat) :=
  let c := Tab.get {} s.contexts slot
  let free := (List.range c.poolFrames).filter fun i =>
    c.framesFree i n && !Tab.has s.cohorts (c.frameAddr i) && !Tab.has s.strands (c.frameAddr i)
  match free with
  | [] => none
  | x :: t =>
    let i := ((x :: t)[Config.freeNat s.free % (t.length + 1)]?).getD x
    some ({ s.tick with contexts := Tab.put s.contexts slot { c with taken := c.taken ++ [(i, n)] } }, i)

/-- Take one free private slot of a context, of the device's choice. -/
def State.takePrivate (s : State) (slot : Nat) : Option (State × Nat) :=
  let c := Tab.get {} s.contexts slot
  match (List.range c.privCount).filter fun i => !c.privTaken.contains i with
  | [] => none
  | x :: t =>
    let i := ((x :: t)[Config.freeNat s.free % (t.length + 1)]?).getD x
    some ({ s.tick with contexts := Tab.put s.contexts slot { c with privTaken := c.privTaken ++ [i] } }, i)

/-- Return frames and private slots to a context. -/
def State.returnMemory (s : State) (slot : Nat) (frames : List (Nat × Nat)) (privs : List Nat) : State :=
  let c := Tab.get {} s.contexts slot
  if !Tab.has s.contexts slot then s
  else
    { s with contexts := Tab.put s.contexts slot { c with
        taken := c.taken.filter fun x => !frames.contains x, privTaken := c.privTaken.filter fun x => !privs.contains x }
      }.scrambleBitmap slot

/-- Frames for a number of bytes. -/
def framesOf (bytes : Nat) : Nat := (bytes + 4095) / 4096

/-- Take a run of structures of given frame counts: the first frames. -/
def State.takeRuns (s : State) (slot : Nat) : List Nat → Option (State × List Nat)
  | [] => some (s, [])
  | n :: t =>
    if n = 0 then (s.takeRuns slot t).map fun x => (x.1, 0 :: x.2)
    else
      match s.takeFrames slot n with
      | none => none
      | some (s1, i) => (s1.takeRuns slot t).map fun x => (x.1, i :: x.2)

/-- Take a number of private slots. -/
def State.takePrivates (s : State) (slot : Nat) : Nat → Option (State × List Nat)
  | 0 => some (s, [])
  | n + 1 =>
    match s.takePrivate slot with
    | none => none
    | some (s1, i) => (s1.takePrivates slot n).map fun x => (x.1, i :: x.2)

/-! ### Promotion (R379) -/

/-- Benches and slots for strands in sidx order: the bench with the most free hot slots, ties to the lower. -/
def assignSlots : Nat → List (List Nat) → List (Nat × Nat)
  | 0, _ => []
  | n + 1, free =>
    let b := (List.range free.length).foldl (fun b i =>
      if (free.getD b []).length < (free.getD i []).length then i else b) 0
    (b, ((free.getD b []).head?).getD 0) :: assignSlots n (free.set b (free.getD b []).tail)

/-- The strand keys of a cohort's current variant, by sidx. -/
def Cohort.slotKeys (c : Cohort) : List Nat := (c.cibs.take c.variant.strands).filterMap fun x => x.map fun a => a.toNat

/-- A resident cohort becomes hot: its strands take benches and slots, waits are begun again, and the core's L1 keeps no
line that is older than what its launch or its move follows (R379; 05 R143, R145, R146; 07 R223). -/
def State.promote (s : State) (ccb : DWord) : State :=
  let c := s.cohort ccb
  let places := assignSlots c.variant.strands ((List.range 4).map fun b => s.hotSlots c.core b)
  let s1 := (c.slotKeys.zip places).foldl (fun (s : State) x =>
    let st := s.strand x.1
    (s.releaseMonitors fun m => m.of x.1).setStrand x.1 { st.leaveWaits fun _ => true with
      core := c.core, bench := x.2.1, slot := x.2.2, hot := true, stall := 0, lastIssue := s.now, ready := 0, aged := false }) s
  (s1.setCohort ccb { s1.cohort ccb with residency := .hot, hotSince := s.now, aged := false }).dropL1 c.core

/-! ### Admission (R376, R378; 04 R105; 11 R309) -/

/-- The most strands that any variant of a bundle has. -/
def mostStrands (vs : List Variant) : Nat := vs.foldl (fun m v => max m v.strands) 1

/-- The strand of a slot that the variant does not start. -/
def idleStrand (key : Nat) (ccb : DWord) (core k : Nat) (priv : DWord) : Strand :=
  { key := key, cib := BitVec.ofNat 64 key, ccb := ccb, core := core, sidx := k, privBase := priv, exited := true, freed := true }

/-- Give a cohort that is admitted its strands, its slots and its image. Its spawn memory is as its frames held it: the
spec gives it no contents at admission, and this is the model's choice (log 98). -/
def State.startCohort (s : State) (c : Cohort) (privs : List DWord) : State :=
  let s1 := s.setCohort c.ccb c
  let s2 := c.cibs.zipIdx.foldl (fun (s : State) x =>
    match x.1 with
    | none => s
    | some a =>
      let idle := idleStrand a.toNat c.ccb c.core x.2 (privs.getD x.2 0)
      s.setStrand a.toNat (if x.2 < c.variant.strands then
        c.startStrand idle x.2 (BitVec.ofNat 48 (c.bundle.toNat + c.variant.entry)) startMask else idle)) s1
  let s3 := (List.range c.variant.acc).foldl (fun (s : State) i => s.grantEntry c.core c.ccb i false) s2
  s3.saveCohort c.ccb

/-- The check mode of a record's next cohort: by the floor as it stands when it is admitted (04 R114; 17 R461). -/
def State.checkOf (s : State) (x : Expansion) : Nat :=
  resolveCheck (natBits (x.words.getD 3 0) 32 2) s.disp.floor x.variants

/-- Admit one cohort of a record to a core, warm; nothing if a pool cannot supply it (R376). -/
def State.admitOne (s : State) (x : Expansion) (v : Variant) (core launch span pos size : Nat) (spanImage : DWord) :
    Option (State × DWord) :=
  let w (i : Nat) : Nat := x.words.getD i 0
  let slots := mostStrands x.variants
  let proto : Cohort := { variants := x.variants, vid := v.id, matrix := x.variants.any fun v => decide (0 < v.acc) }
  let runs := [framesOf proto.imageBytes, framesOf proto.maxScratch, 1]
    ++ (List.range slots).map fun k => framesOf (0x1000 + proto.maxLines k * 0x100)
  match s.takeRuns x.slot runs with
  | none => none
  | some (s1, l) =>
    match s1.takePrivates x.slot slots with
    | none => none
    | some (s2, privs) =>
      let ctx := Tab.get {} s2.contexts x.slot
      let addr (i : Nat) : DWord := BitVec.ofNat 64 (ctx.frameAddr (l.getD i 0))
      let ccb := addr 0
      let c : Cohort := { proto with
        ccb := ccb, pasid := ctx.pasid, ctx := x.slot, launch := launch, index := w 4 + x.placed + pos, count := natBits (w 3) 0 24,
        span := span, pos := pos, vid0 := v.id, vmask := natBits (w 6) 0 4, check := s.checkOf x, carve := (s2.core core).carve,
        cls := natBits (w 3) 28 3, seq := s2.disp.nextSeq, residency := .warm, core := core, bundle := BitVec.ofNat 64 (w 0),
        frame := BitVec.ofNat 64 (w 1), pmap := x.pmap, cibs := (List.range slots).map fun k => some (addr (3 + k)),
        scratchImage := if proto.maxScratch = 0 then 0 else addr 1, mailboxImage := addr 2, privSlots := privs,
        spanImage := spanImage, nmig := natBit (w 3) 41, nsw := natBit (w 3) 40, handle := natBits (w 5) 32 32,
        waitSince := s2.now, frames := (l.zip runs).filter fun r => decide (0 < r.2) }
      let s3 := { s2 with disp := { s2.disp with nextSeq := s2.disp.nextSeq + 1, lastCore := core } }
      some ((s3.startCohort { c with binOpened := [] }
        (privs.map fun i => BitVec.ofNat 64 (ctx.privPool + i * ctx.privSize + 2 ^ 17))), ccb)

/-- Admit the members of a group in position order. -/
def State.admitAll (s : State) (x : Expansion) (v : Variant) (launch span size : Nat) (spanImage : DWord) :
    Nat → List Nat → Option (State × List DWord)
  | _, [] => some (s, [])
  | pos, core :: t =>
    match s.admitOne x v core launch span pos size spanImage with
    | none => none
    | some (s1, ccb) => (s1.admitAll x v launch span size spanImage (pos + 1) t).map fun y => (y.1, ccb :: y.2)

/-- The launch of a record: the one it has, or a new one with its launch block (R376). -/
def State.launchOf (s : State) (q : Nat) (x : Expansion) : Option (State × Nat) :=
  match x.launch with
  | some id => some (s, id)
  | none =>
    match s.takeFrames x.slot 1 with
    | none => none
    | some (s1, i) =>
      let ctx := Tab.get {} s1.contexts x.slot
      let n := natBits (x.words.getD 3 0) 0 24
      let id := s1.disp.nextLaunch
      let l : Launch := { queue := q, pasid := ctx.pasid, slot := x.slot, parent := x.words.getD 2 0, left := n, block := i }
      some ({ s1 with disp := { s1.disp with nextLaunch := id + 1, launches := Tab.put s1.disp.launches id l } }.writeWords
        ctx.pasid (ctx.frameAddr i) [(0, n), (8, x.words.getD 2 0)], id)

/-- The span of a group of more than one cohort, with its image (04 R97). -/
def State.spanOf (s : State) (slot size : Nat) : Option (State × Nat × DWord) :=
  if size ≤ 1 then some (s, 0, 0)
  else
    match s.takeFrames slot 1 with
    | none => none
    | some (s1, i) =>
      let ctx := Tab.get {} s1.contexts slot
      let id := s1.disp.nextSpan
      let a : DWord := BitVec.ofNat 64 (ctx.frameAddr i)
      some ({ s1 with
        disp := { s1.disp with nextSpan := id + 1 },
        spans := Tab.put s1.spans id { size := size, image := a, pasid := ctx.pasid, frames := [(i, 1)] } }, id, a)

/-- Admit the next group of a record; nothing if a pool cannot supply it. -/
def State.admitGroup (s : State) (q : Nat) (x : Expansion) (v : Variant) (cores : List Nat) : Option (State × Nat × List DWord) :=
  match s.launchOf q x with
  | none => none
  | some (s1, launch) =>
    match s1.spanOf x.slot cores.length with
    | none => none
    | some (s2, span, image) =>
      match s2.admitAll x v launch span cores.length image 0 cores with
      | none => none
      | some (s3, ccbs) =>
        let sp := { Tab.get {} s3.spans span with ccbs := ccbs }
        let s4 := if cores.length ≤ 1 then s3 else ({ s3 with spans := Tab.put s3.spans span sp } : State).saveSpan span
        some (s4.scrambleBitmap x.slot, launch, ccbs)

end Sys2Proof.Machine
end

