-- ==== Sys2Proof/Machine/Queues.lean ====
section
/-! DEFINITION. Queues: descriptors and status words, tails, records, placement of waiting work, `enq`, `join`, chains
and the completion of launches (04 R83; 14 R369 to R373, R380, R383 to R386). -/

namespace Sys2Proof.Machine

def State.queue (s : State) (q : Nat) : Queue := Tab.get {} s.disp.queues q
def State.setQueue (s : State) (q : Nat) (x : Queue) : State :=
  { s with disp := { s.disp with queues := Tab.put s.disp.queues q x } }

/-- The device acts: stage 2 has ended, it does not hold, and no power-fail sequence runs (01 R18, R20; 16 R438). -/
def State.acting (s : State) : Bool := s.online && !s.root.hold && decide (s.guard.sequence = .none)
/-- Records are popped only while the lease state is LEASED (01 R19). -/
def State.leased (s : State) : Bool := s.acting && decide (s.root.lease = .leased)

/-! ### Descriptors and the status word (Tables 14-3 and 14-4) -/

/-- The address of a queue's descriptor, and a word of it. -/
def State.queueAddr (s : State) (q : Nat) : Nat := s.disp.regs.qtb.toNat + 64 * q
def State.queueWord (s : State) (q off : Nat) : Nat := Memory.readN s.local_ (s.queueAddr q + off) 8
def State.setQueueWord (s : State) (q off v : Nat) : State := s.putBytes .dev (s.queueAddr q + off) 8 v
def State.queueHead (s : State) (q : Nat) : Nat := s.queueWord q 0x10
def State.queueTail (s : State) (q : Nat) : Nat := s.queueWord q 0x18

/-- Whether a code stops a queue (R373). -/
def stoppingCode (c : Nat) : Bool := c == 1 || c == 2 || c == 3 || c == 6 || c == 7 || c == 8
def Queue.stopped (x : Queue) : Bool := stoppingCode x.code

/-- Release the monitors by which a queue is watched. -/
def State.unwatch (s : State) (q : Nat) : State :=
  s.releaseMonitors fun m => decide (m.waiter = .tail q ∨ m.waiter = .status q)

/-- The key of no strand. -/
def noStrand : Nat := 2 ^ 65
/-- A word in no context, as the PASID of a monitor of the dispatch engine. -/
def noPasid : Nat := 2 ^ 20

/-- Watch a word of a queue's descriptor: with a monitor of width 8, or by polling (R372, 07 R224). -/
def State.watchWord (s : State) (q off cond cmp : Nat) (w : Waiter) : State :=
  let s0 := s.unwatch q
  let a := s.queueAddr q + off
  let base := ({ loc := .dev, addr := a, uc := false, locked := false } : Phys).monitorBase
  match s0.freeMonitor base with
  | some i =>
    { s0.setQueue q { s0.queue q with polling := false } with
      monitors := Tab.put s0.monitors i {
        loc := 0, addr := a, va := 0, wide := true, cond := cond, cmp := cmp, pasid := noPasid, waiter := w,
        due := condHolds cond (Memory.readN s0.local_ a 8) cmp } }
  | none => s0.setQueue q { s0.queue q with polling := true }

/-- Show in STATUS whether the tail of a queue is watched by polling (Table 14-4, POLL). -/
def State.showPoll (s : State) (q : Nat) : State :=
  let old := s.queueWord q 0x20
  let x := s.queue q
  let polls := x.polling && !x.stopped
  if natBit old 9 = polls then s else s.setQueueWord q 0x20 (if polls then old + 2 ^ 9 else old - 2 ^ 9)

/-- Write the status word of a queue, its sticky bits kept (Table 14-4). -/
def State.writeStatus (s : State) (q code idx : Nat) : State :=
  let old := s.queueWord q 0x20
  let x := s.queue q
  (s.setQueue q { x with code := code }).setQueueWord q 0x20
    (idx % 2 ^ 48 * 2 ^ 16 + (natBit old 10).toNat * 2 ^ 10 + (x.polling && !stoppingCode code).toNat * 2 ^ 9 + (natBit old 8).toNat * 2 ^ 8 + code)

/-- A queue stops: the code is written, its interrupt source fires, and STATUS is watched for a store of 0 (R373; 15
Table 15-4). -/
def State.stopQueue (s : State) (q code idx : Nat) : State :=
  ((s.writeStatus q code idx).fire q).watchWord q 0x20 0 0 (.status q)

/-- A queue waits with a code, or runs on; one that has stopped keeps the code that stopped it (R373). -/
def State.waitQueue (s : State) (q code idx : Nat) : State :=
  if (s.queue q).code = code ∨ (s.queue q).stopped = true then s else s.writeStatus q code idx

/-- Set a sticky bit of a status word (R386). -/
def State.stickStatus (s : State) (q bit : Nat) : State :=
  let old := s.queueWord q 0x20
  (s.setQueueWord q 0x20 (if natBit old bit then old else old + 2 ^ bit)).fire q

/-- Watch the tail of a queue for a value other than the one last read, and show in STATUS how it is watched; only while
the lease state is LEASED (01 R19). -/
def State.watchTail (s : State) (q : Nat) : State :=
  if s.root.lease ≠ .leased then s else (s.watchWord q 0x18 1 (s.queue q).tail (.tail q)).showPoll q

/-- LEASED has been entered: the tails of the enabled queues that run are watched from here on (01 R19). -/
def State.watchTails (s : State) : State :=
  s.disp.queues.foldl (fun (s : State) x =>
    if x.2.en && !x.2.stopped then ({ s with disp := { s.disp with queues := Tab.put s.disp.queues x.1 { x.2 with due := true } } }
      : State).watchTail x.1 else s) s
/-- LEASED has been left: tails are not watched any more (01 R19). -/
def State.unwatchTails (s : State) : State :=
  let s1 := s.releaseMonitors fun m => match m.waiter with | .tail _ => true | .status _ | .strand _ _ | .peer _ => false
  (s1.disp.queues.map fun x => x.1).foldl (fun (s : State) q => s.showPoll q) { s1 with disp := { s1.disp with
    queues := s1.disp.queues.map fun x => (x.1, if x.2.stopped then x.2 else { x.2 with polling := false, due := false }) } }

/-! ### Tails (R372, R373) -/

/-- TAIL_POLL: the dispatch engine polls a tail, or the status of a stopped queue, that has no monitor (07 R224). -/
def execTailPoll (q : Nat) (s : State) : Host.Outcome State Fault Refusal :=
  let x := s.queue q
  if s.acting && x.en && x.polling
      && (if x.stopped then s.queueWord q 0x20 == 0 else s.leased && s.queueTail q != s.queueHead q) then
    .next (s.setQueue q { x with due := true })
  else .next s

/-- TAIL_READ: after a fire or a poll the engine reads TAIL; an overrun stops the queue with code 3 (R372). -/
def execTailRead (q : Nat) (s : State) : Host.Outcome State Fault Refusal :=
  let x := s.queue q
  if !s.leased || !x.en || !x.due || x.stopped then .next s
  else
    let t := s.queueTail q
    let s1 := s.setQueue q { x with
      tail := t, due := false, headSince := if x.tail = s.queueHead q ∧ s.queueWord q 0x28 = 0 then s.now else x.headSince }
    if 2 ^ x.n < (t + 2 ^ 64 - s.queueHead q) % 2 ^ 64 then .next (s1.stopQueue q 3 (s.queueHead q))
    else .next (s1.watchTail q)

/-- QUEUE_RESUME: a store of 0 to the status word of a stopped queue resumes it (R373). -/
def execQueueResume (q : Nat) (s : State) : Host.Outcome State Fault Refusal :=
  let x := s.queue q
  if s.acting && x.stopped && x.due && s.queueWord q 0x20 == 0 then
    .next ((s.setQueue q { x with code := 0, due := true }).watchTail q)
  else .next s

/-! ### Records (R369, R370; Tables 14-1 and 14-2) -/

/-- A physical address as LINK, PHEAD and PTAIL hold it: below its 52 bits, bits [63:62] mark the location: 0 local, 2 host,
1 peer, 3 MMIO (log 53). -/
def chainWord (l : Loc) (a : Nat) : Nat :=
  a + (match l with | .dev => 0 | .peer => 1 | .host => 2 | .mmio => 3) * 2 ^ 62
def chainLoc (w : Nat) : Loc :=
  if natBits w 62 2 = 0 then .dev else if natBits w 62 2 = 1 then .peer else if natBits w 62 2 = 2 then .host else .mmio

/-- The next record of a queue: whether it is chained, its address and location, and its IDX. -/
def State.headRecord (s : State) (q : Nat) : Option (Bool × Nat × Loc × Nat) :=
  let x := s.queue q
  let p := s.queueWord q 0x28
  if p ≠ 0 then some (true, p % 2 ^ 52, chainLoc p, 0)
  else
    let h := s.queueHead q
    if h = x.tail then none else some (false, x.ring + 64 * (h % 2 ^ x.n), .dev, h)

/-- The eight words of a record at a place; a device on the link gives those of an MMIO page, which are free. -/
def State.recordWords (s : State) (l : Loc) (a : Nat) : List Nat :=
  (List.range 8).map fun i => if l = .mmio then (Config.freeDWord (s.free + i)).toNat else Memory.readN (s.memory l) (a + 8 * i) 8

/-- Whether a record breaks a check of its own fields (R370, 2). -/
def recordMalformed (w : List Nat) : Bool :=
  let l := w.getD 3 0
  let cnt := natBits l 0 24
  let span := natBits l 24 4 + 1
  natBits (w.getD 5 0) 20 12 != 0 || w.getD 6 0 / 16 != 0 || natBits l 42 22 != 0 || natBits l 34 6 != 0 || natBit l 31
    || w.getD 0 0 % 256 != 0 || w.getD 2 0 % 16 != 0 || cnt == 0 || cnt % span != 0 || natBits (w.getD 6 0) 0 4 == 0

/-- The context slot of a PASID. -/
def State.slotOf (s : State) (pasid : Nat) : Option Nat :=
  (s.contexts.find? fun c => c.2.pasid == pasid && !c.2.ending).map fun c => c.1

/-- Check the record at the head in the order of R370: the code with which the queue stops, or what is expanded. -/
def State.checkRecord (s : State) (chained : Bool) (w : List Nat) : Except Nat Expansion :=
  let pasid := natBits (w.getD 5 0) 0 20
  match s.slotOf pasid with
  | none => .error 1
  | some slot =>
    if recordMalformed w then .error 2
    else
      match s.readBundle pasid (w.getD 0 0) with
      | none => .error 7
      | some b =>
        let h := natBits (w.getD 5 0) 32 32
        if h ≠ 0 ∧ (s.guard.declarations.any fun d => d.handle == h && d.pasid == pasid) = false then .error 6
        else
          let mode := resolveCheck (natBits (w.getD 3 0) 32 2) s.disp.floor b.variants
          if eligibleIn b.variants (w.getD 6 0) mode (Tab.get {} s.contexts slot).privSize = [] then .error 8
          else .ok {
            chained := chained, words := w, slot := slot, variants := b.variants, pmap := b.pmap, since := s.now }

/-- What the checks of a record read in its context leaves behind: the A bits of the bundle's pages (12 R331). -/
def State.touchRecord (s : State) (w : List Nat) : State :=
  let pasid := natBits (w.getD 5 0) 0 20
  if (s.slotOf pasid).isSome && !recordMalformed w then s.touchBundle pasid (w.getD 0 0) else s

/-- The instruction caches hold nothing older than a record that is popped (05 R120; log 18). -/
def State.dropCode (s : State) : State := { s with cores := s.cores.map fun k => (k.1, { k.2 with icode := [] }) }

/-- RECORD_POP: the record at the head of a running queue is checked and its expansion begins (R370, R372). A record that
meets an uncorrectable error stops the queue with code 2 (R385). -/
def execRecordPop (q : Nat) (s : State) : Host.Outcome State Fault Refusal :=
  let x := s.queue q
  if !s.leased || !x.en || x.stopped || x.expansion.isSome then .next s
  else
    match s.headRecord q with
    | none => .next s
    | some (chained, a, l, idx) =>
      if s.errorAt l a 64 then .next (s.stopQueue q 2 idx)
      else
        let w := s.recordWords l a
        let s1 := ({ s with free := s.free + if l = .mmio then 8 else 0 } : State).touchRecord w
        match s1.checkRecord chained w with
        | .error c => .next (s1.stopQueue q c idx)
        | .ok e => .next (s1.dropCode.setQueue q { x with expansion := some e })

/-! ### Waiting work in the order of service (R377, R380) -/

/-- The cohorts that move with a cohort: its span's, or itself alone (04 R80). -/
def State.groupOf (s : State) (c : Cohort) : List DWord :=
  let sp := Tab.get {} s.spans c.span
  if c.span = 0 ∨ sp.size ≤ 1 then [c.ccb]
  else (sp.ccbs.zipIdx.filter fun x => !sp.completed.contains x.2).map fun x => x.1

/-- Whether a strand waits in `waitc` or `cwp`, and its monitor has not fired. -/
def Strand.waiting (st : Strand) : Bool :=
  match (candidate? st).bind fun e => st.waitAt e.pc with
  | some w => decide (w.how ≠ .fired)
  | none => false

/-- Whether a cohort that is not hot is ready: not held, halted or stopped, and not waiting as a whole (R377, R395); one whose
strands have all exited waits in no `waitc`. -/
def State.readyCohort (s : State) (c : Cohort) : Bool :=
  !c.heldOut && !c.halted && !c.dead
    && ((c.keys.all fun k => (s.strand k).exited) || c.keys.any fun k => !(s.strand k).exited && !(s.strand k).waiting)
/-- Whether its group is: none held, halted or stopped, and one ready. -/
def State.readyGroup (s : State) (c : Cohort) : Bool :=
  let g := (s.groupOf c).map s.cohort
  (g.all fun x => !x.heldOut && !x.halted && !x.dead) && g.any fun x => s.readyCohort x

/-- Whether a cohort leads its group. -/
def State.leads (s : State) (c : Cohort) : Bool := decide ((s.groupOf c).head? = some c.ccb)

/-- The work that waits: queues with a record in expansion, which a stop of the queue does not touch (R399), and cohorts that
are ready and not hot (R377). What is to be admitted waits only while the lease state is LEASED (01 R19). -/
def State.waitingItems (s : State) : List Item :=
  (if s.leased then (s.disp.queues.filter fun x => x.2.en && x.2.expansion.isSome).map fun x => Item.queue x.1
    else [])
  ++ ((s.cohorts.filter fun x => (decide (x.2.residency = .warm) || (s.leased && decide (x.2.residency = .absent)))
        && s.leads x.2 && s.readyGroup x.2
        && decide (x.2.leaving = none)).map fun x => Item.cohort x.2.ccb)

/-- The priority class of an item, and with the starvation rule (R380). -/
def State.itemClass (s : State) : Item → Nat
  | .queue q => match (s.queue q).expansion with | some x => natBits (x.words.getD 3 0) 28 3 | none => 0
  | .cohort c => (s.cohort c).cls
def State.itemAged (s : State) : Item → Bool
  | .queue q => (s.queue q).aged
  | .cohort c => (s.cohort c).aged
def State.itemSince (s : State) : Item → Nat
  | .queue q => (s.queue q).headSince
  | .cohort c => (s.cohort c).waitSince
def State.countedClass (s : State) (i : Item) : Nat := if s.itemAged i then 7 else s.itemClass i

/-- The key by which items are served, lowest first (R380). -/
def State.itemKey (s : State) (i : Item) : List Nat :=
  if s.itemAged i then [0, s.itemSince i]
  else
    match i with
    | .cohort c => [1, 7 - s.itemClass i, 0, (s.cohort c).seq]
    | .queue q => [1, 7 - s.itemClass i, 1, (q + 255 - s.disp.turn) % 256]

/-- Which cohort of an item waits: of a queue, the next of its record (R382). -/
def State.itemTag (s : State) : Item → List Nat
  | .queue q => match (s.queue q).expansion with | some x => [x.since, x.placed] | none => []
  | .cohort _ => []

/-- The work that waits, in the order in which it is served. -/
def State.served (s : State) : List Item := sortKeyed s.itemKey s.waitingItems

/-! ### Placement of a record (R378) -/

/-- The cohorts of a group of the record, its eligible variants, and the pair that is chosen, hot or warm. -/
def Expansion.groupSize (x : Expansion) : Nat := natBits (x.words.getD 3 0) 24 4 + 1
def State.eligibleOf (s : State) (x : Expansion) : List Variant :=
  eligibleIn x.variants (x.words.getD 6 0) (s.checkOf x) (Tab.get {} s.contexts x.slot).privSize
def State.chosen (s : State) (x : Expansion) : Option (Bool × Variant × List Nat) :=
  match s.choosePair true x.groupSize (s.eligibleOf x) with
  | some p => some (true, p)
  | none => (s.choosePair false x.groupSize (s.eligibleOf x)).map fun p => (false, p)

/-- The map entries that a cohort holds. -/
def Cohort.entriesHeld (c : Cohort) : Nat := ((List.range 16).filter fun i => (c.slot i).granted).length

/-- Whether a cohort is in a span of more than one (04 R97). -/
def State.inSpan (s : State) (c : Cohort) : Bool := decide (c.span ≠ 0 ∧ 1 < (Tab.get {} s.spans c.span : Span).size)

/-- The members of a cohort's group, as they are placed again. -/
def State.membersOf (s : State) (ccb : DWord) : List Member :=
  (s.groupOf (s.cohort ccb)).map fun x =>
    { variant := (s.cohort x).variant, entries := (s.cohort x).entriesHeld, pin := (s.cohort x).pin }

/-- Where a group that was swapped out is placed: now, or warm (R378). -/
def State.returnCores (s : State) (ccb : DWord) : Option (Bool × List Nat) :=
  let span := s.inSpan (s.cohort ccb)
  match s.placeGroup true span (s.membersOf ccb) with
  | some cores => some (true, cores)
  | none => (s.placeGroup false span (s.membersOf ccb)).map fun cores => (false, cores)

/-- Whether a warm group can be promoted: each on its own core (R379). -/
def State.canPromote (s : State) (ccb : DWord) : Bool :=
  ((s.groupOf (s.cohort ccb)).foldl (fun (acc : Bool × List Placed) x =>
    let c := s.cohort x
    (acc.1 && s.promotable c.core c.variant acc.2, acc.2 ++ [(c.core, c.variant)])) (true, [])).1

/-- The next group of a record, admitted: the state after, or the code with which the queue waits. -/
def State.placeNext (s : State) (q : Nat) (x : Expansion) : Except Nat (State × Nat × List DWord × Bool) :=
  match s.chosen x with
  | none => .error 9
  | some (now, v, cores) =>
    match s.admitGroup q x v cores with
    | none => .error 5
    | some (s1, launch, ccbs) => .ok (s1, launch, ccbs, now)

/-- Whether an item can be served. -/
def State.canServe (s : State) : Item → Bool
  | .queue q =>
    match (s.queue q).expansion with
    | some x => (match s.placeNext q x with | .ok _ => true | .error _ => false)
    | none => false
  | .cohort c => if (s.cohort c).residency = .warm then s.canPromote c else (s.returnCores c).isSome

/-- The item that is served next. -/
def State.nextServed (s : State) : Option Item := s.served.find? s.canServe

/-- A record has been expanded in full: HEAD advances, or the parent leaves the chain (R372, R385). -/
def State.finishHead (s : State) (q : Nat) (x : Expansion) : State :=
  let y := s.queue q
  let s1 := s.setQueue q { y with expansion := none, headSince := s.now, aged := false }
  if x.chained then
    let p := s.queueWord q 0x28
    s1.setQueueWord q 0x28 ((s.recordWords (chainLoc p) (p % 2 ^ 52)).getD 7 0)
  else s1.setQueueWord q 0x10 (s.queueHead q + 1)

/-- COHORT_PLACEMENT: the record at a queue's head has its next cohort, or span, placed, if it is served next; a queue
that cannot be served shows code 5 or 9 (R376, R378, R379). -/
def execCohortPlacement (q : Nat) (s : State) : Host.Outcome State Fault Refusal :=
  let y := s.queue q
  match y.expansion with
  | none => .next s
  | some x =>
    if !s.leased || !y.en then .next s
    else
      let idx := if x.chained then 0 else s.queueHead q
      match s.placeNext q x with
      | .error c => .next (s.waitQueue q c idx)
      | .ok (s1, launch, ccbs, now) =>
        if s.nextServed ≠ some (.queue q) then .next s
        else
          let s2 := ccbs.foldl (fun (s : State) c =>
            s.setCohort c { s.cohort c with aged := y.aged, waitSince := if y.aged then y.headSince else x.since }) s1
          let s3 := if now then ccbs.foldl (fun (s : State) c => s.promote c) s2 else s2
          let x1 := { x with placed := x.placed + ccbs.length, launch := some launch }
          let s4 := { s3.setQueue q { s3.queue q with expansion := some x1 } with disp := { (s3.setQueue q { s3.queue q with
            expansion := some x1 }).disp with turn := q } }
          let s5 := s4.waitQueue q 0 0
          .next (if natBits (x.words.getD 3 0) 0 24 ≤ x1.placed then s5.finishHead q x1 else s5)

/-- PROMOTION: a warm group is promoted if it is served next (R379). -/
def execPromotion (ccb : Nat) (s : State) : Host.Outcome State Fault Refusal :=
  let key : DWord := BitVec.ofNat 64 ccb
  if s.acting && decide ((s.cohort key).residency = .warm) && decide (s.nextServed = some (.cohort key)) then
    .next ((s.groupOf (s.cohort key)).foldl (fun (s : State) c => s.promote c) s)
  else .next s

/-- STARVATION_AGE: a record that has stood at its queue's head for STV cycles, or a cohort that has waited so long, is
aged (R380). -/
def execStarvationAge (record : Bool) (id : Nat) (s : State) : Host.Outcome State Fault Refusal :=
  let stv := s.disp.regs.stv.toNat
  if record then
    let x := s.queue id
    if s.leased && x.en && (x.expansion.isSome || (s.headRecord id).isSome) && decide (stv ≤ s.now - x.headSince) then
      .next (s.setQueue id { x with aged := true })
    else .next s
  else
    let c := s.cohort (BitVec.ofNat 64 id)
    if s.acting && s.waitingItems.contains (.cohort c.ccb) && decide (stv ≤ s.now - c.waitSince) then
      .next (s.setCohort c.ccb { c with aged := true })
    else .next s

/-! ### `enq` (R383) -/

/-- Publish a record of 64 bytes into a device-fed queue: the status. -/
def State.enqueue (s : State) (pasid : Nat) (b : DWord) (rec_ : Nat) : State × Nat :=
  let q := b.toNat
  let x := s.queue q
  if 256 ≤ q ∨ x.en = false ∨ x.dev = false then (s, 2)
  else
    let t := s.queueTail q
    if (t + 2 ^ 64 - s.queueHead q) % 2 ^ 64 = 2 ^ x.n then (s, 1)
    else
      let w5 := natBits rec_ (8 * 0x28) 64
      let r := rec_ % 2 ^ (8 * 0x28) + (w5 - w5 % 2 ^ 20 + pasid) * 2 ^ (8 * 0x28) + natBits rec_ (8 * 0x30) 64 * 2 ^ (8 * 0x30)
      ((s.putBytes .dev (x.ring + 64 * (t % 2 ^ x.n)) 64 r).setQueueWord q 0x18 (t + 1), 0)

/-- `enq`. -/
def execEnq (e g : Bool) (d a b : Code) (s : State) : Host.Outcome State Fault Refusal :=
  let us : List Use := [⟨.ssrc, a, e⟩, ⟨.ssrc, b, g⟩, ⟨.sreg, d, false⟩]
  runPoint s us [] false false fun s =>
    let st := s.cur
    let en := candidate st
    if s.releaseWaits st 3 then (s.noteRelease st 3).stallWith 12
    else
      let va := s.ssrc a
      let q := s.ssrc b
      s.loadUniform .record 64 false va fun s1 plan p v =>
        let (s2, r) := (s1.popSources us).enqueue (s1.pasidOf st) q v
        s2.onCur fun st => st.produce d.toNat (scalarProducer s en d.toNat va plan p r)

/-! ### Join counters and chains (R384 to R386) -/

/-- Chain the parent at a virtual address of a joining context, onto the queue that its join block names (R385); PHEAD, PTAIL
and LINK carry the physical address. -/
def State.chainParent (s : State) (pasid word : Nat) : State :=
  let q := word / 2 ^ 56
  let va := word % 2 ^ 56
  let fail (s : State) : State := (s.setQueueWord q 0x38 va).stopQueue q 2 pasid
  match (if va % 64 = 0 then s.contextPlace pasid .atomic va else (s, .error .misaligned)) with
  | (s1, .error _) => fail s1
  | (s1, .ok p) =>
    if (s1.lateCause p 64).isSome then fail s1
    else
      let pa := chainWord p.loc p.addr
      let w5 := (s1.recordWords p.loc p.addr).getD 5 0
      let s2 := (s1.putBytes p.loc (p.addr + 0x28) 8 (w5 - w5 % 2 ^ 20 + pasid)).putBytes p.loc (p.addr + 0x38) 8 0
      let last := s2.queueWord q 0x30
      let s3 := if s2.queueWord q 0x28 = 0 then
          let s3 := s2.setQueueWord q 0x28 pa
          if s3.queueHead q = (s3.queue q).tail then s3.setQueue q { s3.queue q with headSince := s3.now } else s3
        else s2.putBytes (chainLoc last) (last % 2 ^ 52 + 0x38) 8 pa
      s3.setQueueWord q 0x30 pa

/-- `join` (R384): the counter is decremented at its home, and the last join chains the parent. -/
def execJoin (e : Bool) (d a : Code) (s : State) : Host.Outcome State Fault Refusal :=
  let us : List Use := [⟨.ssrc, a, e⟩, ⟨.sreg, d, false⟩]
  runPoint s us [] false false fun s =>
    let st := s.cur
    let en := candidate st
    let va := s.ssrc a
    if s.releaseWaits st 3 then (s.noteRelease st 3).stallWith 12
    else
      let fail (x : LaneFault) (s1 : State) : State :=
        s1.settle [] (s1.faultRaises st en.pc .atomic (some en.mask) [x])
      match s.checkLane st .atomic (.atomic false) 16 16 0 va with
      | (s1, .error x) => fail x s1
      | (s1, .ok p) =>
        let plan := s1.planAtomics st.core [p]
        if plan.wait then s.stallWith 12
        else
          match ((s1.reach st.core true [p]).takeMisses st.core false plan).readPlace st.core true 16 p with
          | (s2, .error c) => fail { lane := 0, cause := c, va := va } (s2.dropReplies st.core plan.replies)
          | (s2, .ok v) =>
            let c := v % 2 ^ 32
            if c = 0 then s1.raiseNoAddress .joinUnderflow
            else
              let s3 := (s2.popSources us).writePlace st.core (s2.core st.core).holdsOrdered 4 (c - 1) p
              let parent := v / 2 ^ 64
              let s4 := if c = 1 ∧ parent % 2 ^ 56 ≠ 0 then s3.chainParent (s3.pasidOf st) parent else s3
              let q : Phys := match p with
                | .phys q => q
                | .scratch _ _ | .line _ _ _ | .gone => { loc := .dev, addr := 0, uc := false, locked := false }
              ((s4.onCur fun st => st.produce d.toNat (scalarProducer s en d.toNat va plan q (c - 1))).watch st en.pc true true 4
                ((lanesOf en.mask).map fun l => (l, va))).advance

/-- The decrement that the completion of a launch makes at its join block (R386); an atomic at an image is refused as for a user
strand (07 R196, 0x16). -/
def State.completeJoin (s : State) (l : Launch) : State :=
  if l.parent = 0 then s
  else
    let lost (s : State) : State := (s.setQueueWord l.queue 0x38 (l.parent % 2 ^ 56)).stickStatus l.queue 10
    match s.contextPlace l.pasid .atomic l.parent with
    | (s1, .error _) => lost s1
    | (s1, .ok p) =>
      if Form.refuses (.atomic false) p || (s1.imagePlace { key := noStrand } .atomic (.atomic false) p).isNone
          || (s1.lateCause p 16).isSome then lost s1
      else
        let c := Memory.readN (s1.memory p.loc) p.addr 4
        if c = 0 then s1.stickStatus l.queue 8
        else
          let s2 := s1.putBytes p.loc p.addr 4 (c - 1)
          let parent := Memory.readN (s1.memory p.loc) (p.addr + 8) 8
          if c = 1 ∧ parent % 2 ^ 56 ≠ 0 then s2.chainParent l.pasid parent else s2

/-- LAUNCH_COMPLETION: the last cohort of a launch has completed; its join block is decremented and its launch block
returned (04 R83; R386). -/
def execLaunchCompletion (id : Nat) (s : State) : Host.Outcome State Fault Refusal :=
  match s.disp.launches.find? fun x => x.1 == id with
  | none => .next s
  | some (_, l) =>
    if l.left ≠ 0 ∨ s.acting = false then .next s
    else
      let s1 := { s with disp := { s.disp with launches := Tab.del s.disp.launches id } }
      .next ((s1.completeJoin l).returnMemory l.slot [(l.block, 1)] [])

end Sys2Proof.Machine
end

