-- ==== Sys2Proof/Machine/Moves.lean ====
section
/-! DEFINITION. Moves of cohorts: swap-out, swap-in, demotion, migration, quanta, pre-emption, completion and ending;
`swapo`, `swapi` and the dispatch engine's steps for them (04 R80, R83, R87 to R89, R101; 05 R125, R146; 10 R291;
11 R310, R315, R324; 14 R381, R382, R392 to R399). -/

namespace Sys2Proof.Machine

/-! ### Switch requests that end (R387, R388) -/

/-- Add one to a half of SWCNT, which stops at its largest value (Table 14-9). -/
def addSwitch (v : DWord) (shift : Nat) : DWord :=
  if natBits v.toNat shift 32 = 2 ^ 32 - 1 then v else v + BitVec.ofNat 64 (2 ^ shift)
def State.countSwitch (s : State) (shift : Nat) : State :=
  { s with disp := { s.disp with regs := { s.disp.regs with swcnt := addSwitch s.disp.regs.swcnt shift } } }

/-- The entries held at a `vsw` go on at PC + 4 (R388). -/
def State.releaseSwitch (s : State) (c : Cohort) : State :=
  c.keys.foldl (fun (s : State) k =>
    let st := s.strand k
    if st.frontier.any fun e => decide (e.hold = .switch) then
      s.setStrand k { st.setFrontier (st.frontier.map fun e =>
        if e.hold = .switch then { e with pc := nextPc e.pc, prio := s.nextPrio st e.prio (nextPc e.pc), hold := .no } else e) with
        stall := 0, lastIssue := s.now, ready := 0, aged := false }
    else s) s

/-- The waiting cohort for which a request was raised, by its item and which of its cohorts (R382). -/
def SwitchRequest.roomFor (r : SwitchRequest) : Option (Item × List Nat) :=
  match r.asked with
  | .room w tag => some (w, tag)
  | .vreq | .richer => none

/-- A request is dropped and counted; a rendezvous ends with it (R388). A cohort for which it was to make room is served by
pre-emption from then on (R382). -/
def State.dropSwitch (s : State) (ccb : DWord) : State :=
  let c := s.cohort ccb
  let s1 := (s.releaseSwitch c).setCohort ccb { s.cohort ccb with request := none, meet := none }
  let s2 : State := { s1 with disp := { s1.disp with
    dropped := s1.disp.dropped ++ (c.request.bind SwitchRequest.roomFor).toList } }
  (s2.countSwitch 0).saveCohort ccb

/-! ### Draining (R392; 04 R101; 09 R250; 10 R291; 11 R324; 17 R457) -/

/-- The switch point of the current variant at an address. -/
def Cohort.pointAt (c : Cohort) (pc : Pc) : Option Nat :=
  (c.variant.points.find? fun p => c.bundle.toNat + p.offset == pc.toNat).map fun p => p.point

/-- The points at which entries of a cohort are held. -/
def State.heldPoints (s : State) (c : Cohort) : List Nat :=
  c.keys.flatMap fun k => ((s.strand k).frontier.filter fun e => decide (e.hold = .switch)).filterMap fun e => c.pointAt e.pc

/-- A rendezvous, and what was held for it, is over. -/
def State.endMeet (s : State) (ccb : DWord) : State :=
  let s1 := s.releaseSwitch (s.cohort ccb)
  s1.setCohort ccb { s1.cohort ccb with meet := none }

/-- Whether nothing of a cohort is in flight that a demotion waits for: its commands go on (10 Table 10-8). -/
def State.still (s : State) (c : Cohort) : Bool :=
  let k := s.core c.core
  (c.keys.all fun x =>
    let st := s.strand x
    st.producers.isEmpty && st.floats.isEmpty && !(k.outstanding.any fun o => o.key == x)
      && !(k.replays.any fun r => r.2.any fun e => e.key == x))
  && !(k.mxOps.any fun o => o.ccb == c.ccb)

/-- Whether nothing of a cohort is in flight that any other move waits for. -/
def State.quiet (s : State) (c : Cohort) : Bool := s.still c && !s.copyWaits c

/-- Whether a strand has arrived at a point, and a rendezvous of a cohort is complete: every strand that has not exited has
arrived, and no bin holds threads (R388). -/
def Strand.atSwitch (st : Strand) : Bool :=
  !st.frontier.isEmpty && st.succ.isNone
    && st.frontier.all fun e => decide (e.hold = .switch ∧ e.prio ≠ 0xFFFF ∧ e.parked = false)
def Strand.arrivedAt (st : Strand) (c : Cohort) (k : Nat) : Bool :=
  !st.exited && st.atSwitch && st.frontier.all fun e => decide (c.pointAt e.pc = some k)
def State.switchMet (s : State) (c : Cohort) : Bool :=
  match c.meet with
  | none => false
  | some m => (c.keys.all fun k => (s.strand k).exited || (s.strand k).arrivedAt c m.point)
      && (List.range 32).all fun b => (s.bin c b).free

/-! ### Swap-out (R392) -/

/-- The full/empty bits of a strand whose waits stop for a move are full: they begin again (04 R101; 07 R223). -/
def Strand.fillStatuses (st : Strand) : Strand := { st with sFull := (st.leaveWaits fun _ => true).sFull }

/-- A strand leaves its slot: entries prepared for its streams are prepared again later (11 R319). -/
def Strand.leaveSlot (st : Strand) : Strand :=
  { st.fillStatuses with
    hot := false, acquiring := none, readyq := [],
    drains := st.drains.map fun q => (q.1, q.2.map fun d => { d with prepared := d.popped }) }

/-- The slots of a cohort are left where they are, held by an owner that is not resident (11 R310). -/
def State.leaveOwners (s : State) (c : Cohort) : State :=
  let k := s.core c.core
  s.setCore c.core { k with owners := k.owners.map fun o =>
    if o.2.ccb = c.ccb then (o.1, { o.2 with resident := false, left := s.now }) else o }

/-- Whether a held cause is of a strand of a cohort. -/
def Held.ofCohort (h : Held) (c : Cohort) : Bool :=
  match h with
  | .cause key _ _ => c.keys.contains key
  | .event _ => false

/-- The held causes of a cohort's strands are kept with it (01 R14). -/
def State.keepEvents (s : State) (ccb : DWord) : State :=
  let c := s.cohort ccb
  let k := s.core c.core
  let mine (h : Held) : Bool := h.ofCohort c
  (s.setCore c.core { k with held := k.held.filter fun h => !mine h }).setCohort ccb { c with kept := c.kept ++ k.held.filter mine }

/-- The barrier of a cohort with the strand slots that hold an entry at it, as its image shows it (06 Table 6-4). -/
def State.heldAt (s : State) (ccb : DWord) : Option Barrier :=
  let c := s.cohort ccb
  c.barrier.map fun b => { b with
    held := (c.keys.filter fun k => (s.strand k).frontier.any fun e => decide (e.hold = .barrier)).map fun k => (s.strand k).sidx }

/-- Swap out one cohort that is quiet. -/
def State.swapOutOne (s : State) (ccb : DWord) : State :=
  let s0 := if (s.cohort ccb).meet.isSome || !(s.heldPoints (s.cohort ccb)).isEmpty then s.dropSwitch ccb else s
  let s1 := ((s0.withdrawArrivals ccb).keepEvents ccb).leaveOwners (s0.cohort ccb)
  let c := s1.cohort ccb
  let s2 := c.keys.foldl (fun (s : State) k => s.setStrand k (s.strand k).leaveSlot) s1
  let s3 := c.keys.foldl (fun (s : State) k => ((s.saveLines k).saveControl k).saveDrains k) s2
  let s4 := (s3.saveScratch ccb).saveMailbox ccb
  (s4.setCohort ccb { s4.cohort ccb with
    residency := .absent, leaving := none, stopping := false, waitSince := s.now, scratch := [], barrier := s4.heldAt ccb,
    outDone := distinct ((s4.cohort ccb).outDone ++ (s4.cohort ccb).waiters), waiters := [] }).saveCohort ccb

/-- A move of cohorts begins, unless an image of one lies in an unlocked frame or, where it is read back, carries an
uncorrectable error: a machine check of that cohort (04 R94; 17 R463). -/
def State.checkedMove (s : State) (g : List DWord) (reads : Bool) (k : State → State) : State :=
  match g.findSome? fun x => (s.moveFault x reads).map fun n => (x, n) with
  | some (x, n) => s.machineCheck x n
  | none => k s

/-- Swap out the group of a cohort (04 R80). -/
def State.swapOut (s : State) (ccb : DWord) : State :=
  let c := s.cohort ccb
  s.checkedMove (s.groupOf c) false fun s =>
    let s1 := (s.groupOf c).foldl (fun (s : State) x => if s.resident x then s.swapOutOne x else s) s
    if c.span = 0 then s1 else s1.saveSpan c.span

/-- Decide a move for the group of a cohort: its issue stops. A swap-out takes the place of any other move. -/
def State.sendAway (s : State) (ccb : DWord) (l : Leave) : State :=
  (s.groupOf (s.cohort ccb)).foldl (fun (s : State) x =>
    let c := s.cohort x
    if s.resident x && decide (c.leaving = none ∨ c.leaving = some .demote ∨ l = .out) then
      s.setCohort x { c with leaving := some l }
    else s) s

/-- Whether the group of a cohort can be moved, and whether it can be demoted. -/
def State.groupQuiet (s : State) (ccb : DWord) : Bool :=
  (s.groupOf (s.cohort ccb)).all fun x => !s.resident x || (s.quiet (s.cohort x) && !s.switchMet (s.cohort x))
def State.groupStill (s : State) (ccb : DWord) : Bool :=
  (s.groupOf (s.cohort ccb)).all fun x => s.still (s.cohort x) && !s.switchMet (s.cohort x)

/-- SWAP_OUT: a group whose swap-out is decided, and which has drained, is written to its images (R392); a switch past
its rendezvous completes first (R399). -/
def execSwapOut (ccb : Nat) (s : State) : Host.Outcome State Fault Refusal :=
  let key : DWord := BitVec.ofNat 64 ccb
  let c := s.cohort key
  if s.acting && s.resident key && (decide (c.leaving = some .out) || c.stopping) && s.groupQuiet key then
    .next (s.swapOut key)
  else .next s

/-! ### Swap-in (R393; 11 R310) -/

/-- The physical slot of a core that bears the tag of an entry. -/
def Core.slotOf (k : Core) (ccb : DWord) (i : Nat) : Option (Nat × Owner) :=
  k.owners.find? fun o => o.2.ccb == ccb && o.2.idx == i

/-- An entry whose slot still bears its tag on the core is resident again, and nothing moves (11 R310). -/
def State.retakeEntry (s : State) (core : Nat) (ccb : DWord) (i : Nat) : State :=
  let k := s.core core
  match k.slotOf ccb i with
  | some (g, o) => s.setCore core { k with owners := Tab.put k.owners g { o with resident := true } }
  | none => s

/-- An entry that has no slot on the core is bound to one; its contents are saved first where another core still holds
them, and the tile rows of an admission entry are read back (11 R310). -/
def State.rebindEntry (s : State) (core : Nat) (ccb : DWord) (i : Nat) : State :=
  if ((s.core core).slotOf ccb i).isSome then s
  else
    let x := (s.cohort ccb).slot i
    let s1 := (match (s.core x.core).slotOf ccb i with
      | some (g, _) => s.evictSlot x.core g
      | none => s)
    let s2 := s1.bindEntry core ccb i ((s1.cohort ccb).slot i)
    if x.acquired then s2 else s2.fillTile core ((s2.cohort ccb).slot i).phys ccb i

/-- The granted entries of a cohort have slots on a core: those that still stand there first, then the others, which may
take the slots of other owners that have left (11 R310). -/
def State.rebind (s : State) (core : Nat) (ccb : DWord) : State :=
  let l := (List.range 16).filter fun i => ((s.cohort ccb).slot i).granted
  l.foldl (fun (s : State) i => s.rebindEntry core ccb i) (l.foldl (fun (s : State) i => s.retakeEntry core ccb i) s)

/-- The entry of a strand at whose instruction boundary a move raises a mismatch: the first that can go on. -/
def Strand.boundary (st : Strand) : Option Entry :=
  st.frontier.find? fun e => decide (e.hold = .no) && !e.parked && !e.pending

/-- The order of causes with one code that strands raise in one cycle: the entry of higher PRIO, then the lower lowest lane,
bench and slot (13 R347). -/
def Strand.rankOf (st : Strand) (e : Entry) : List Nat :=
  [0xFFFF - e.prio.toNat, (lanesOf e.mask).headD 64, st.bench, st.slot]

/-- A mismatch that a compare point of the move found is raised at the strand's instruction boundary, for its first entry
that can go on (17 R457, R465). -/
def State.raiseMoved (s : State) (k : Nat) : State :=
  let st := s.strand k
  match st.boundary with
  | none => s
  | some e =>
    match (if st.shadow && st.fl != st.shadowFl then some e.pc else st.cloneBad) with
    | none => s
    | some pc =>
      let s1 := s.setStrand k { st.setFrontier (st.frontier.filter fun x => decide (x ≠ e)) with cloneBad := none }
      (((if st.shadow then s1.countCheck st.core 7 else s1).takeCause k e (mismatch e.mask pc)).afterFrontier k).dropWait k

/-- The mismatches of the strands of a move, in the order of one cycle (13 R347). -/
def State.raiseAllMoved (s : State) (ks : List Nat) : State :=
  (sortKeyed (fun k => match (s.strand k).boundary with
    | some e => (s.strand k).rankOf e
    | none => []) ks).foldl (fun (s : State) k => s.raiseMoved k) s

/-- Read the strands of a cohort back for a core: waits begin again (07 R223). -/
def State.loadStrands (s : State) (ccb : DWord) (core : Nat) : State :=
  (s.cohort ccb).keys.foldl (fun (s : State) k =>
    let s1 := (s.loadStrand k).releaseMonitors fun m => m.of k
    (s1.setStrand k { (s1.strand k).leaveWaits fun _ => true with core := core, stall := 0 }).loadDrains k) s

/-- Swap in one cohort on a core, warm: what its images hold, its slots, and the causes that were kept for it, which are
delivered now (R393; 01 R14; 11 R310). The ages of its bins start again (06 R176). -/
def State.swapInOne (s : State) (ccb : DWord) (core : Nat) : State :=
  let s1 := ((s.loadCohort ccb).loadStrands ccb core).rebind core ccb
  let c := s1.cohort ccb
  let opened := ((List.range 32).filter fun b => (s1.bin c b).open_).map fun b => (b, s.now)
  let s2 := s1.setCohort ccb { c with
    residency := .warm, core := core, carve := (s1.core core).carve, binOpened := opened, kept := [],
    channels := c.channels.map fun x => (x.1, x.2.map fun m => { m with old := true }) }
  let s3 := s2.setCore core { s2.core core with held := (s2.core core).held ++ c.kept }
  let s4 := s3.raiseAllMoved c.keys
  (({ s4 with disp := { s4.disp with lastCore := core } } : State).dropL1 core).saveCohort ccb

/-- The images of a cohort are read: their pages are touched (12 R331). -/
def State.touchImages (s : State) (ccb : DWord) : State :=
  let c := s.cohort ccb
  (c.imageRanges.filter fun r => decide (r.2 ≠ 0)).foldl (fun (s : State) r => s.touchRange c.pasid r.1 r.2) s

/-- Swap in a group on the cores chosen for its members, and promote it where it fits now. A barrier whose last arrival came
while the group was absent completes (06 R180; 13 R355). -/
def State.swapIn (s : State) (ccb : DWord) (now : Bool) (cores : List Nat) : State :=
  let c := s.cohort ccb
  s.checkedMove (s.groupOf c) true fun s =>
    let s0 := ((s.groupOf c).zip cores).foldl (fun (s : State) x => (s.touchImages x.1).swapInOne x.1 x.2) s
    let s1 := (s.groupOf c).foldl (fun (s : State) x => s.checkBarrier x) s0
    let s2 := if now then (s.groupOf c).foldl (fun (s : State) x => s.promote x) s1 else s1
    if c.span = 0 then s2 else s2.saveSpan c.span

/-- SWAP_IN: an absent group that is ready is placed, if it is served next; an admission, which needs the lease state LEASED
(R378, R380, R393; 01 R19). -/
def execSwapIn (ccb : Nat) (s : State) : Host.Outcome State Fault Refusal :=
  let key : DWord := BitVec.ofNat 64 ccb
  if s.leased && decide ((s.cohort key).residency = .absent) && decide (s.nextServed = some (.cohort key)) then
    match s.returnCores key with
    | some (now, cores) => .next (s.swapIn key now cores)
    | none => .next s
  else .next s

/-! ### Demotion (04 R89) -/

/-- Whether a strand is blocked by stall reason 1, 2, 5 or 9 as it stands: its highest entry is parked, has a cause that
waits for a place, or waits on a monitor; or a queue has not changed since it was found empty or full. -/
def State.blockedStrand (s : State) (c : Cohort) (st : Strand) : Bool :=
  match candidate? st with
  | none => false
  | some e => e.parked || e.pending || st.waiting || (decide (st.stall = 9) && decide (c.mailAt < st.tried))

/-- Every strand of a cohort that has not exited is blocked so. -/
def State.blockedCohort (s : State) (c : Cohort) : Bool :=
  c.keys.all fun k => (s.strand k).exited || s.blockedStrand c (s.strand k)

/-- Whether a core has a free warm slot for each strand of the members of a group on it. -/
def State.warmRoom (s : State) (ccb : DWord) : Bool :=
  let g := (s.groupOf (s.cohort ccb)).map s.cohort
  g.all fun c => decide (sumOn c.core (s.cohortsAt c.core .warm ++ g.filter fun x => x.core == c.core) [] Variant.strands ≤ 768)

/-- A hot cohort becomes warm: the control area of each image is written (04 R95). -/
def State.demoteOne (s : State) (ccb : DWord) : State :=
  let c := s.cohort ccb
  let s1 := c.keys.foldl (fun (s : State) k => s.setStrand k { (s.strand k).fillStatuses with hot := false }) s
  let s2 := c.keys.foldl (fun (s : State) k => s.saveControl k) s1
  ((s2.setCohort ccb { s2.cohort ccb with residency := .warm, leaving := none, waitSince := s.now }).raiseAllMoved c.keys).dropL1
    c.core

/-- DEMOTION: a hot group that is blocked, or whose demotion is decided, becomes warm once it has drained (04 R89, R101;
R381). R89 does not say whether one cohort of a span may be demoted alone; the model's choice is that a span is demoted
only as a whole, with every strand of every member blocked, as it is promoted only as a whole (log 99). -/
def execDemotion (ccb : Nat) (s : State) : Host.Outcome State Fault Refusal :=
  let key : DWord := BitVec.ofNat 64 ccb
  let g := (s.groupOf (s.cohort key)).map s.cohort
  let due := (g.all fun c => decide (c.leaving = some .demote))
    || ((g.all fun c => decide (c.leaving = none) && !c.stopping && s.blockedCohort c) && s.disp.regs.pol.getLsbD 1)
  if s.acting && due && (g.all fun c => decide (c.residency = .hot) && !c.dead) && s.warmRoom key && s.groupStill key then
    .next (s.checkedMove (g.map fun c => c.ccb) false fun s => g.foldl (fun (s : State) c => s.demoteOne c.ccb) s)
  else .next s

/-! ### What would fit (R381, R382, R387) -/

/-- The state as it would be without the group of a cohort: a supposition, for a decision only. -/
def State.without (s : State) (ccb : DWord) : State :=
  (s.groupOf (s.cohort ccb)).foldl (fun (s : State) x =>
    let c := s.cohort x
    let s1 := c.keys.foldl (fun (s : State) k => s.setStrand k { s.strand k with hot := false }) (s.leaveOwners c)
    s1.setCohort x { c with residency := .absent }) s

/-- The state as it would be with a cohort in another variant. -/
def State.withVariant (s : State) (ccb : DWord) (v : Variant) : State :=
  let c := s.cohort ccb
  (c.cibs.drop v.strands).foldl (fun (s : State) x =>
    match x with
    | some a => s.setStrand a.toNat { s.strand a.toNat with hot := false }
    | none => s) (s.setCohort ccb { c with vid := v.id })

/-- The sites on which an item is judged, in scan order, each as its cores: for a warm group the cores on which it is warm,
for a span each window, which R382 leaves unsaid (log 117), and else each core. -/
def State.sites (s : State) (i : Item) : List (List Nat) :=
  let single := s.coreScan.map fun c => [c]
  match i with
  | .queue q => match (s.queue q).expansion with
    | some x => if x.groupSize ≤ 1 then single else windows
    | none => []
  | .cohort ccb =>
    let c := s.cohort ccb
    if c.residency = .warm then [distinct ((s.groupOf c).map fun x => (s.cohort x).core)]
    else if s.inSpan c then windows else single

/-- Whether an item would fit now on a site. -/
def State.itemFits (s : State) (i : Item) (cores : List Nat) : Bool :=
  match i with
  | .queue q =>
    match (s.queue q).expansion with
    | none => false
    | some x => (s.eligibleOf x).any fun v =>
        (s.placeIn true cores (List.replicate x.groupSize { variant := v, entries := v.acc }) []).isSome
  | .cohort ccb =>
    if (s.cohort ccb).residency = .warm then s.canPromote ccb else (s.placeIn true cores (s.membersOf ccb) []).isSome

/-- Whether an item fits some site now, and whether it fits one that holds a core. -/
def State.fitsAnywhere (s : State) (i : Item) : Bool := (s.sites i).any fun l => s.itemFits i l
def State.fitsWith (s : State) (i : Item) (core : Nat) : Bool :=
  (s.sites i).any fun l => l.contains core && s.itemFits i l

/-- The moves already decided, made: the supposition from which further room is sought. -/
def State.settled (s : State) : State :=
  (s.cohorts.filter fun x => decide (x.2.leaving ≠ none) || x.2.stopping).foldl (fun (s : State) x =>
    if s.resident x.2.ccb then s.without x.2.ccb else s) s

/-- The victims for an item on a site, in the order in which they are taken: of lower class, hot for 11,000 cycles, the
lowest class first and then the highest sequence number (R382). -/
def insertVictim (c : Cohort) : List Cohort → List Cohort
  | [] => [c]
  | x :: t => if c.cls < x.cls ∨ (c.cls = x.cls ∧ x.seq < c.seq) then c :: x :: t else x :: insertVictim c t
def State.victims (s : State) (i : Item) (cores : List Nat) : List Cohort :=
  ((s.cohorts.filter fun x => decide (x.2.residency = .hot ∧ x.2.leaving = none ∧ 11000 ≤ s.now - x.2.hotSince)
      && !x.2.stopping && !x.2.dead && cores.contains x.2.core && decide (x.2.cls < s.countedClass i)).map fun x => x.2).foldl
    (fun l c => insertVictim c l) []

/-- The first item, in order of service, that fits no site now but would fit one without cohorts of lower class, and
the first such site in scan order (R382). -/
def State.starved (s : State) : Option (Item × List Nat) :=
  let b := s.settled
  s.served.findSome? fun i =>
    if b.fitsAnywhere i then none
    else
      ((s.sites i).find? fun c => !(s.victims i c).isEmpty
        && ((s.victims i c).foldl (fun (t : State) v => t.without v.ccb) b).itemFits i c).map fun c => (i, c)

/-- The eligible variants of a cohort, in rank order (04 R114). -/
def State.eligibleFor (s : State) (c : Cohort) : List Variant :=
  eligibleIn c.variants c.vmask c.check (Tab.get {} s.contexts c.ctx).privSize

/-- The switch that would make room for an item on a site: the youngest victim without NSW that has an eligible variant
of lower reservation with which the item fits, and the highest-ranked such variant; none once a request for it was dropped
(R382). -/
def State.roomSwitch (s : State) (i : Item) (cores : List Nat) : Option (DWord × Nat) :=
  let young := (s.victims i cores).foldl (fun (l : List Cohort) c =>
    (l.filter fun x => decide (c.seq < x.seq)) ++ [c] ++ l.filter fun x => decide (x.seq < c.seq)) []
  if s.disp.regs.pol.getLsbD 2 && !s.disp.dropped.contains (i, s.itemTag i) then
    young.findSome? fun c =>
      if c.nsw then none
      else ((s.eligibleFor c).find? fun v => decide (v.id ≠ c.vid ∧ v.reservation < c.variant.reservation)
        && (s.settled.withVariant c.ccb v).itemFits i cores).map fun v => (c.ccb, v.id)
  else none

/-- Whether a variant would fit now on a cohort's core, the cohort itself set aside. -/
def State.variantFits (s : State) (c : Cohort) (v : Variant) : Bool :=
  let t := s.without c.ccb
  t.fitsNow c.core v v.acc []

/-! ### Quanta and pre-emption (R381, R382) -/

/-- The weight of a class: byte c of WGT, 0 reading as 1. -/
def DispatchRegs.weight (r : DispatchRegs) (c : Nat) : Nat :=
  let w := natBits r.wgt.toNat (8 * c) 8
  if w = 0 then 1 else w

/-- The state as it would be if the group of a cohort held no reservation: a supposition, for a decision only. -/
def State.unreserved (s : State) (ccb : DWord) : State :=
  (s.groupOf (s.cohort ccb)).foldl (fun (s : State) x =>
    let c := s.cohort x
    s.setCohort x { c with variants := c.variants.map fun v => { v with reservation := 0 } }) s

/-- Whether only the register reservation of a cohort keeps an item from fitting now on its core (R381). -/
def State.onlyReservation (s : State) (i : Item) (ccb : DWord) : Bool := (s.unreserved ccb).fitsWith i (s.cohort ccb).core

/-- QUANTUM_EXPIRY: a hot cohort that has been charged its quantum makes way for one of its class that would fit now
without it: by demotion where only reservation is short, else by a swap-out (R381). -/
def execQuantumExpiry (ccb : Nat) (s : State) : Host.Outcome State Fault Refusal :=
  let key : DWord := BitVec.ofNat 64 ccb
  let c := s.cohort key
  let due := decide (c.residency = .hot ∧ c.leaving = none) && !c.halted && !c.dead
    && decide (s.disp.regs.quant.toNat * s.disp.regs.weight c.cls ≤ s.now - c.hotSince)
  if !s.acting || !due then .next s
  else
    match s.served.find? fun i => s.countedClass i == c.cls && !s.fitsWith i c.core && (s.without key).fitsWith i c.core with
    | none => .next s
    | some i =>
      if s.disp.regs.pol.getLsbD 1 && s.onlyReservation i key && s.warmRoom key then .next (s.sendAway key .demote)
      else .next (s.sendAway key .out)

/-- Victims are taken in order until the item fits. -/
def State.takeVictims (i : Item) (cores : List Nat) : List Cohort → State → State → State
  | [], _, s => s
  | v :: t, b, s =>
    if b.itemFits i cores then s
    else State.takeVictims i cores t (b.without v.ccb) (s.sendAway v.ccb .out)

/-- PREEMPTION: victims are swapped out for the first starved item, where no switch request makes room for it (R382). -/
def execPreemption (s : State) : Host.Outcome State Fault Refusal :=
  if !s.acting then .next s
  else
    match s.starved with
    | none => .next s
    | some (i, cores) =>
      let pending := s.cohorts.any fun x => decide (x.2.request.bind SwitchRequest.roomFor = some (i, s.itemTag i))
      if pending || (s.roomSwitch i cores).isSome then .next s
      else .next (State.takeVictims i cores (s.victims i cores) s.settled s)

/-- ACC_DEADLOCK_SWAP: every cohort that holds a slot of a core waits in `macq.w` and none can be granted; the youngest
is swapped out (11 R315). -/
def execAccDeadlockSwap (core : Nat) (s : State) : Host.Outcome State Fault Refusal :=
  let k := s.core core
  let holders := (s.cohortsHeld core).filter fun c => k.owners.any fun o => o.2.ccb == c.ccb && o.2.resident
  let wants (c : Cohort) : List Nat := c.keys.filterMap fun x => (s.strand x).slotRequest.map fun a => a.1
  let waiting := holders.all fun c => !(wants c).isEmpty
  let none_ := (s.cohortsHeld core).all fun c => (wants c).all fun n => decide (k.bindable.length < n)
  match holders with
  | [] => .next s
  | c :: t =>
    if s.acting && waiting && none_ && holders.all fun c => decide (c.leaving = none) then
      .next (s.sendAway (t.foldl (fun (m : Cohort) x => if m.seq < x.seq then x else m) c).ccb .out)
    else .next s

/-- Whether an item is a span that waits to be placed and fits no window (R379). -/
def State.noWindow (s : State) (i : Item) : Bool :=
  match i with
  | .queue q => (match (s.queue q).expansion with
    | some x => decide (1 < x.groupSize) && (s.choosePair false x.groupSize (s.eligibleOf x)).isNone
    | none => false)
  | .cohort x => decide ((s.cohort x).residency = .absent) && s.inSpan (s.cohort x) && (s.returnCores x).isNone

/-- The window that a migration from a core to another clears: the one that is being cleared already, else the first that holds
the one and not the other (R394; the choice of a first window is the model's, log 117). -/
def State.clearedBy (s : State) (old new : Nat) : Option Nat :=
  let ok (i : Nat) : Bool := (windows.getD i []).contains old && !(windows.getD i []).contains new
  match s.disp.clearing with
  | some i => if ok i then some i else none
  | none => (List.range windows.length).find? ok

/-- MIGRATION: with POL[0] set and a span that no window fits, a cohort that may be migrated is moved from the window that is
being cleared to a core outside it on which it fits now (R379, R394); an admission, which needs the lease state LEASED (01
R19). -/
def execMigration (ccb core : Nat) (s : State) : Host.Outcome State Fault Refusal :=
  let key : DWord := BitVec.ofNat 64 ccb
  let c := s.cohort key
  let spanWaits := s.served.any fun i => decide (c.cls ≤ s.itemClass i) && s.noWindow i
  let fits := c.pin.getD core == core && (s.without key).fitsNow core c.variant c.entriesHeld []
  if !s.acting || !s.resident key || c.dead || c.halted || decide (192 ≤ core) then .next s
  else if c.leaving = some (.migrate core) then
    if !s.leased || !fits then .next (s.setCohort key { c with leaving := none })
    else if !s.groupQuiet key then .next s
    else
      let s1 := s.swapOut key
      .next (if s1.resident key then s1 else s1.swapIn key true [core])
  else if s.leased = true ∧ c.leaving = none ∧ c.stopping = false ∧ s.disp.regs.pol.getLsbD 0 = true ∧ c.nmig = false
      ∧ s.inSpan c = false ∧ spanWaits = true ∧ fits = true then
    match s.clearedBy c.core core with
    | some w => .next ({ s with disp := { s.disp with clearing := some w } }.sendAway key (.migrate core))
    | none => .next s
  else .next s

/-! ### Ending and completing (R398; 04 R83) -/

/-- A position of a span has completed or ended; the image goes with the last (04 R97). -/
def State.leaveSpan (s : State) (c : Cohort) : State :=
  if c.span = 0 then s
  else
    let sp := Tab.get {} s.spans c.span
    let sp1 := { sp with
      completed := if sp.completed.contains c.pos then sp.completed else sp.completed ++ [c.pos]
      cores := Tab.put sp.cores c.pos c.core }
    if sp1.completed.length = sp1.size then
      ({ s with spans := Tab.del s.spans c.span } : State).returnMemory c.ctx sp1.frames []
    else
      let s1 := ({ s with spans := Tab.put s.spans c.span sp1 } : State).saveSpan c.span
      (s.groupOf c).foldl (fun (s : State) x => if x = c.ccb then s else s.checkBarrier x) s1

/-- One cohort of a launch is complete (04 R83). -/
def State.countLaunch (s : State) (c : Cohort) : State :=
  match s.disp.launches.find? fun x => x.1 == c.launch with
  | none => s
  | some (id, l) =>
    let ctx := Tab.get {} s.contexts l.slot
    ({ s with disp := { s.disp with launches := Tab.put s.disp.launches id { l with left := l.left - 1 } } } : State).writeWords
      l.pasid (ctx.frameAddr l.block) [(0, l.left - 1)]

/-- Take a cohort out of the device: its commands, its operations and the causes that still waited for a place are
discarded, its monitors, its latch entries and the miss-status entries of its loads released, its slots freed without
saving, its memory returned (R398). -/
def State.removeCohort (s : State) (ccb : DWord) : State :=
  let c := s.cohort ccb
  let s1 := s.releaseMonitors fun m => c.keys.any fun k => m.of k
  let s2 : State := { s1 with cores := s1.cores.map fun x =>
    (x.1, { x.2 with
      latch := x.2.latch.filter fun g => g.ccb != ccb, mxOps := x.2.mxOps.filter fun o => o.ccb != ccb,
      owners := x.2.owners.filter fun o => o.2.ccb != ccb,
      held := x.2.held.filter fun h => !h.ofCohort c,
      flushing := x.2.flushing.filter fun f => !c.keys.contains f.key,
      replies := x.2.replies - (if x.1 = c.core then (c.keys.map fun k => ((s.strand k).producers.map fun p => p.replies).sum).sum else 0),
      replays := x.2.replays.map fun r => (r.1, r.2.filter fun e => !c.keys.contains e.key),
      tags := x.2.tags.filter fun t => !c.keys.contains t.2.key }) }
  let s3 : State := { s2 with strands := s2.strands.filter fun x => !c.keys.contains x.1, cohorts := Tab.del s2.cohorts ccb.toNat }
  (s3.returnMemory c.ctx c.frames c.privSlots).leaveSpan c

/-- End a cohort; `counts` says whether it counts as completed for its launch (R386, R398). -/
def State.endCohort (s : State) (ccb : DWord) (counts : Bool) : State :=
  let c := s.cohort ccb
  let s1 := s.removeCohort ccb
  if counts then s1.countLaunch c else s1

/-- COHORT_COMPLETION: every strand slot has exited, no bin holds threads and every command has completed (04 R83; 10
R291). -/
def execCohortCompletion (ccb : Nat) (s : State) : Host.Outcome State Fault Refusal :=
  let key : DWord := BitVec.ofNat 64 ccb
  let c := s.cohort key
  if s.acting && Tab.has s.cohorts ccb && !c.dead
      && (c.keys.all fun k => (s.strand k).exited && (s.strand k).freed)
      && (c.channels.all fun x => x.2.isEmpty) && !(s.cores.any fun x => x.2.mxOps.any fun o => o.ccb == key)
      && (List.range 32).all fun b => (s.bin c b).free then
    .next (s.endCohort key true)
  else .next s

/-- A cohort that a machine check has stopped: its commands and operations are discarded, its monitors and latch entries
released (R398). Its slots and its memory go when firmware ends it with KILL (13 R344; log 57). -/
def State.stopDead (s : State) (c : Cohort) : State :=
  let s1 := s.releaseMonitors fun m => c.keys.any fun k => m.of k
  let s2 := s1.setCohort c.ccb { s1.cohort c.ccb with channels := [] }
  { s2 with cores := s2.cores.map fun x => (x.1, { x.2 with
      latch := x.2.latch.filter fun g => g.ccb != c.ccb, mxOps := x.2.mxOps.filter fun o => o.ccb != c.ccb }) }

/-! ### What follows as time passes -/

/-- The cohorts that a machine check has stopped are treated so at once. -/
def State.stopAllDead (s : State) : State :=
  (s.cohorts.filter fun x => x.2.dead).foldl (fun (s : State) x => s.stopDead x.2) s

/-- A waiting cohort that has been placed is forgotten by the list of dropped requests (R382); no window is cleared once no span
waits for one (R394); and a strand that does not stand at its `macq.w` requests no slots (11 R315). -/
def State.followDispatch (s : State) : State :=
  { s with
    disp := { s.disp with
      dropped := s.disp.dropped.filter fun x => s.waitingItems.contains x.1 && s.itemTag x.1 == x.2
      clearing := if s.waitingItems.any fun i => s.noWindow i then s.disp.clearing else none }
    strands := s.strands.map fun x =>
      if x.2.acquiring.isSome && x.2.slotRequest.isNone then (x.1, { x.2 with acquiring := none }) else x }

/-! ### `swapo` and `swapi` (R396, R397) -/

/-- Whether an address names a live cohort. -/
def State.liveCohort (s : State) (ccb : DWord) : Bool := Tab.has s.cohorts ccb.toNat

/-- Hold out, or release, every member of a group; the cohort itself is pinned, or not. -/
def State.holdGroup (s : State) (ccb : DWord) (hold : Bool) (pin : Option Nat) : State :=
  let c := s.cohort ccb
  let s1 := (s.groupOf c).foldl (fun (s : State) x =>
    s.setCohort x { s.cohort x with heldOut := hold, pin := if x = ccb then pin else (s.cohort x).pin }) s
  if c.span = 0 then s1
  else ({ s1 with spans := Tab.put s1.spans c.span { Tab.get {} s1.spans c.span with heldOut := hold } } : State).saveSpan c.span

/-- Whether the current strand waits, or has waited, for the swap-out of a cohort that it asked for. -/
def State.asksOut (s : State) (c : Cohort) : Bool := c.waiters.contains s.curKey || c.outDone.contains s.curKey

/-- Wait until the swap-out of a cohort that this strand asked for is done, then answer 0; that the cohort may have been
swapped in again by then changes nothing. -/
def State.awaitOut (s : State) (ccb : DWord) (k : State → State) : State :=
  let key := s.curKey
  let c := s.cohort ccb
  if c.outDone.contains key then k (s.setCohort ccb { c with outDone := c.outDone.filter fun x => x != key })
  else if s.resident ccb then
    let s1 := s.setCohort ccb { c with waiters := if c.waiters.contains key then c.waiters else c.waiters ++ [key] }
    (s1.sendAway ccb .out).stallWith 12
  else k s

/-- `swapo`. -/
def execSwapo (e g : Bool) (d a b : Code) (s : State) : Host.Outcome State Fault Refusal :=
  let us : List Use := [⟨.ssrc, a, e⟩, ⟨.ssrc, b, g⟩, ⟨.sreg, d, false⟩]
  run s us [] false true fun s =>
    let ccb := s.ssrc a
    let v := s.ssrc b
    let answer (s : State) (r : DWord) : State := ((s.popSources us).writeS d true r).advance
    if s.liveCohort ccb = false ∨ v.toNat / 2 ≠ 0 then answer s 2
    else
      let c := s.cohort ccb
      let s1 := if v.getLsbD 0 then s.holdGroup ccb true c.pin else s
      if s.asksOut c || s.resident ccb then s1.awaitOut ccb fun s => answer s 0
      else answer s1 1

/-- `swapi`. -/
def execSwapi (e g : Bool) (d a b : Code) (s : State) : Host.Outcome State Fault Refusal :=
  let us : List Use := [⟨.ssrc, a, e⟩, ⟨.ssrc, b, g⟩, ⟨.sreg, d, false⟩]
  run s us [] false true fun s =>
    let ccb := s.ssrc a
    let v := s.ssrc b
    let c := s.cohort ccb
    let core := natBits v.toNat 0 8
    let pin := v.getLsbD 8
    let answer (s : State) (r : DWord) : State := ((s.popSources us).writeS d true r).advance
    if s.liveCohort ccb = false ∨ v.toNat / 2 ^ 9 ≠ 0
        ∨ (pin = true ∧ (192 ≤ core ∨ natBit c.variant.carve (s.core core).carve = false)) then answer s 2
    else if s.resident ccb then answer s 1
    else answer (s.holdGroup ccb false (if pin then some core else none)) 0

end Sys2Proof.Machine
end

