-- ==== Sys2Proof/Machine/Switching.lean ====
section
/-! DEFINITION. Variant switches: `vsw`, `vreq`, requests and their lapse, the switch and its time-out
(03 R74; 14 R387 to R391; 11 Table 11-9; 17 R457). -/

namespace Sys2Proof.Machine

/-! ### Requests (R387) -/

/-- Whether the cause of a request still holds; a request of `vreq` lapses by no cause. -/
def State.requestStands (s : State) (c : Cohort) (r : SwitchRequest) : Bool :=
  match r.asked with
  | .vreq => true
  | .richer => match c.variants.find? fun v => v.id == r.target with
    | some v => s.variantFits c v
    | none => false
  | .room w tag => s.waitingItems.contains w && s.itemTag w == tag

/-- The request of a cohort, while it stands. -/
def State.liveRequest (s : State) (c : Cohort) : Option SwitchRequest :=
  match c.request with
  | none => none
  | some r => if s.requestStands c r then some r else none

/-- A request is placed in a cohort image, or taken out of it. -/
def State.setRequest (s : State) (ccb : DWord) (r : Option SwitchRequest) : State :=
  (s.setCohort ccb { s.cohort ccb with request := r }).saveCohort ccb

/-- A request lapses uncounted, and what was held for it goes on. -/
def State.lapse (s : State) (ccb : DWord) : State := (s.endMeet ccb).setRequest ccb none

/-- A request replaces the one before it; entries held at a point that its target does not hold go on. -/
def State.replaceRequest (s : State) (ccb : DWord) (r : SwitchRequest) : State :=
  let c := s.cohort ccb
  let points := (match c.meet with | some m => [m.point] | none => []) ++ s.heldPoints c
  let kept := match c.variants.find? fun x => x.id == r.target with
    | some v => points.all fun k => v.points.any fun p => p.point == k
    | none => true
  (if kept then s else s.endMeet ccb).setRequest ccb (some r)

/-- As time passes, the request of a hot cohort lapses when its cause has gone, unless its rendezvous is complete; and the
first strand that arrives fixes the point of the rendezvous and its time (R387, R388). -/
def State.followSwitch (s : State) (ccb : DWord) : State :=
  let c := s.cohort ccb
  match c.request with
  | none => s
  | some r =>
    if c.residency ≠ .hot ∨ s.switchMet c = true then s
    else if !s.requestStands c r then s.lapse ccb
    else
      match c.meet, (s.heldPoints c).find? fun k => c.keys.any fun x => (s.strand x).arrivedAt c k with
      | none, some k => s.setCohort ccb { c with meet := some { point := k, since := s.now } }
      | _, _ => s

/-- SWITCH_REQUEST: the dispatch engine raises a request for the given target: to make room for an item that is
starved (R382), or for the highest-ranked eligible variant when it would now fit (R387). -/
def execSwitchRequest (ccb target : Nat) (s : State) : Host.Outcome State Fault Refusal :=
  let key : DWord := BitVec.ofNat 64 ccb
  let c := s.cohort key
  let usable := s.acting && s.resident key && decide (c.leaving = none) && !s.switchMet c && !c.nsw && !c.dead && !c.halted
  let room : Option Item := match s.starved with
    | some (i, cores) => if s.roomSwitch i cores = some (key, target) then some i else none
    | none => none
  let richer : Bool := match s.eligibleFor c with
    | v :: _ => decide (v.id = target ∧ v.id ≠ c.vid) && decide ((s.eligibleFor c).any fun x => x.id == c.vid)
        && decide (c.residency = .hot) && s.variantFits c v
    | [] => false
  let new : Option SwitchRequest := match room with
    | some i => some { target := target, asked := .room i (s.itemTag i) }
    | none => if richer then some { target := target, asked := .richer } else none
  match new with
  | some r => .next (if usable && decide (c.request ≠ some r) then s.replaceRequest key r else s)
  | none => .next s

/-- `vreq` (R391): a request is placed or cancelled; a cancelled one ends its rendezvous. -/
def execVreq (e g : Bool) (d a b : Code) (s : State) : Host.Outcome State Fault Refusal :=
  let us : List Use := [⟨.ssrc, a, e⟩, ⟨.ssrc, b, g⟩, ⟨.sreg, d, false⟩]
  run s us [] false true fun s =>
    let ccb := s.ssrc a
    let v := s.ssrc b
    let c := s.cohort ccb
    let answer (s : State) (r : DWord) : State := ((s.popSources us).writeS d true r).advance
    let t := natBits v.toNat 0 2
    if s.liveCohort ccb = false ∨ v.toNat / 8 ≠ 0 ∨ c.nsw = true then answer s 2
    else if v.getLsbD 2 then answer (s.lapse ccb) 0
    else if c.vid = t ∨ ((s.eligibleFor c).any fun x => x.id == t) = false then answer s 1
    else answer (s.replaceRequest ccb { target := t, asked := .vreq }) 0

/-! ### `vsw` (R388) -/

/-- A request is dropped, counted and reported (R388, R389). -/
def State.badSwitch (s : State) (ccb : DWord) (point : Nat) : State :=
  let c := s.cohort ccb
  (s.dropSwitch ccb).postEvent c.core { cause := .switchMap, pasid := c.pasid, param := point, cib := ccb }

/-- `vsw`: the entry is held for a rendezvous, or nothing happens. -/
def execVsw (k : BitVec 9) (s : State) : Host.Outcome State Fault Refusal :=
  run s [] [] false false fun s =>
    let ccb := s.cur.ccb
    let c := s.curCohort
    let pc := (candidate s.cur).pc
    if s.cur.sup then s.advance
    else
      match s.liveRequest c with
      | none => if c.request.isSome then s.advance.lapse ccb else s.advance
      | some r =>
        if (c.variant.points.any fun p => p.point == k.toNat && c.bundle.toNat + p.offset == pc.toNat) = false then
          s.advance.badSwitch ccb k.toNat
        else
          match c.variants.find? fun v => v.id == r.target with
          | none => s.advance
          | some v =>
            if (v.points.any fun p => p.point == k.toNat) = false then s.advance
            else
              if c.meet.any fun m => m.point != k.toNat then s.advance
              else (s.holdCandidate .switch).onCur fun st => { st with stall := 6 }

/-! ### The switch (R389, R390) -/

/-- Whether two points make a bad map for a cohort that changes to a variant. -/
def State.badMap (s : State) (c : Cohort) (new : Variant) (p q : SwitchPoint) : Bool :=
  let mapped := decide (c.variant.strands = new.strands)
  p.scratchBytes != q.scratchBytes
    || (List.range new.strands).any fun k =>
      (q.lines.any fun x => decide (new.linesOf k ≤ x.1) && p.lines.any fun y => y.2 == x.2)
      || (mapped && (match c.cibs.getD k none with
        | some a => !(s.strand a.toNat).exited && decide (new.linesOf k < (s.strand a.toNat).wb + 8)
        | none => false))

/-- The address at which a variant's point is; PC[1:0] are zero (03 R44). -/
def Cohort.pointPc (c : Cohort) (q : SwitchPoint) : Pc := BitVec.ofNat 48 ((c.bundle.toNat + q.offset) / 4 * 4)

/-- The lines of a strand after a register-mapped switch. -/
def carriedLines (old : Strand) (p q : SwitchPoint) (n : Nat) : Tab Line :=
  q.lines.foldl (fun (t : Tab Line) x =>
    match p.lines.find? fun y => y.2 == x.2 with
    | some y => if x.1 < n then Tab.set zeroLine t x.1 (old.line y.1) else t
    | none => t) []

/-- One strand of a register-mapped switch. -/
def Cohort.mapStrand (c : Cohort) (st : Strand) (p q : SwitchPoint) : Strand :=
  let n := c.variant.linesOf st.sidx
  if st.exited then { st with nlines := n }
  else
    let pc := nextPc (c.pointPc q)
    let m := st.frontier.foldl (fun (m : Mask) e => m ||| e.mask) 0
    { st with
      nlines := n, vec := carriedLines st p q n, absent := 0, vFull := BitVec.allOnes 512, sFull := BitVec.allOnes 64,
      frontier := [{ mask := m, prio := prioIn c.pmap pc, pc := pc }], resident := 8, gang := 0, stall := 0,
      stat := BitVec.ofNat 64 (st.stat.toNat - natBits st.stat.toNat 58 2 * 2 ^ 58 + c.vid * 2 ^ 58) }

/-- The scratch bytes of a cohort after a switch. -/
def carriedScratch (old : Memory) (p q : SwitchPoint) : Memory :=
  (List.range q.scratchBytes).foldl (fun (m : Memory) i =>
    Memory.write m (q.scratchFrom + i) (Memory.read old (p.scratchFrom + i))) []

/-- Accumulator entries and tile groups after a switch: those of `macq` and those above the new count are released with
their drain descriptors, and new ones are granted clear (11 Table 11-9, 10 R268). -/
def State.switchSlots (s : State) (ccb : DWord) (acc : Nat) : State :=
  let c := s.cohort ccb
  let gone := (List.range 16).filter fun i => (c.slot i).granted && ((c.slot i).acquired || decide (acc ≤ i))
  let s1 := s.dropDrains c fun i => gone.contains i
  let s2 := gone.foldl (fun (s : State) i => s.releaseEntry ccb i) s1
  ((List.range acc).filter fun i => !((s2.cohort ccb).slot i).granted).foldl
    (fun (s : State) i => s.grantEntry c.core ccb i false) s2

/-- What a strand keeps over a switch that starts it anew: its reply queue and its drain streams (04 R102), and what its
image holds of them and of its frontier. -/
def Strand.keepQueues (new old : Strand) : Strand :=
  { new with replies := old.replies, drains := old.drains, readyq := old.readyq, streams := old.streams, spilled := old.spilled }

/-- The strands of a cohort in its new variant. -/
def State.switchStrands (s : State) (ccb : DWord) (p q : SwitchPoint) (mapped : Bool) : State :=
  let c := s.cohort ccb
  if mapped then c.keys.foldl (fun (s : State) k => s.setStrand k (c.mapStrand (s.strand k) p q)) s
  else
    let s1 := c.cibs.zipIdx.foldl (fun (s : State) x =>
      match x.1 with
      | none => s
      | some a =>
        let old := s.strand a.toNat
        let idle := idleStrand a.toNat ccb c.core x.2 old.privBase
        let new := if x.2 < c.variant.strands then c.startStrand idle x.2 (nextPc (c.pointPc q)) startMask else idle
        s.setStrand a.toNat (new.keepQueues old)) s
    let places := assignSlots c.variant.strands ((List.range 4).map fun b => s1.hotSlots c.core b)
    (c.slotKeys.zip places).foldl (fun (s : State) x =>
      s.setStrand x.1 { s.strand x.1 with bench := x.2.1, slot := x.2.2, hot := true, lastIssue := s.now }) s1

/-- The entries of a strand held at a point that find a comparison of the switch to fail, with the address of what was
compared: all of them, or none (17 R457, R458, R460). -/
def Strand.heldBad (st : Strand) : List (Entry × Pc) :=
  let held := st.frontier.filter fun e => decide (e.hold = .switch)
  let bad : Option Pc := if st.shadow && st.fl != st.shadowFl then (held.head?.map fun e => e.pc) else st.cloneBad
  match bad with
  | none => []
  | some pc => held.map fun e => (e, pc)

/-- Comparisons of the switch that fail raise 0x28 for the held entries of their strands, in the order of one cycle (17 R457,
R458, R460; 13 R347). -/
def State.raiseHeld (s : State) (ks : List Nat) : State :=
  let l := ks.flatMap fun k => (s.strand k).heldBad.map fun x => (k, x.1, x.2)
  let s1 := (distinct (l.map fun x => x.1)).foldl (fun (s : State) k =>
    let st := s.strand k
    let s1 := s.setStrand k { st.setFrontier (st.frontier.filter fun e => decide (e.hold ≠ .switch)) with cloneBad := none }
    if st.shadow then s1.countCheck st.core 7 else s1) s
  (sortKeyed (fun x => (s.strand x.1).rankOf x.2.1) l).foldl (fun (s : State) x =>
    s.takeCause x.1 { x.2.1 with hold := .no } (mismatch x.2.1.mask x.2.2)) s1

/-- Carry out the switch of a cohort. -/
def State.switch (s : State) (ccb : DWord) (new : Variant) (p q : SwitchPoint) : State :=
  let c := s.cohort ccb
  let mapped := decide (c.variant.strands = new.strands)
  let s1 := s.setCohort ccb { c with
    vid := new.id, request := none, meet := none, scratch := carriedScratch c.scratch p q }
  let s2 := (s1.switchSlots ccb new.acc).switchStrands ccb p q mapped
  ((s2.countSwitch 32).dropL1 c.core).saveCohort ccb

/-- VARIANT_SWITCH: a rendezvous is complete and its cohort has drained (R389, R390). -/
def execVariantSwitch (ccb : Nat) (s : State) : Host.Outcome State Fault Refusal :=
  let key : DWord := BitVec.ofNat 64 ccb
  let c := s.cohort key
  match c.meet, c.request with
  | some m, some r =>
    if !(s.acting && decide (c.residency = .hot) && !c.dead && s.switchMet c && s.quiet c) then .next s
    else
      let s1 := s.raiseHeld c.keys
      if !s1.switchMet (s1.cohort key) then .next s1
      else
        match c.variants.find? (fun v => v.id == r.target), c.variant.points.find? fun p => p.point == m.point with
        | some v, some p =>
          match v.points.find? fun q => q.point == m.point with
          | none => .next (s.badSwitch key m.point)
          | some q =>
            if s.badMap c v p q then .next (s.badSwitch key m.point)
            else if !s.variantFits c v then .next (s.dropSwitch key)
            else .next (s.switch key v p q)
        | _, _ => .next (s.badSwitch key m.point)
  | _, _ => .next s

/-- SWITCH_TIMEOUT: a rendezvous has not completed STO cycles after its first arrival (R388). -/
def execSwitchTimeout (ccb : Nat) (s : State) : Host.Outcome State Fault Refusal :=
  let key : DWord := BitVec.ofNat 64 ccb
  let c := s.cohort key
  match c.meet with
  | none => .next s
  | some m =>
    if s.acting && !s.switchMet c && decide (s.disp.regs.sto.toNat ≤ s.now - m.since) then .next (s.dropSwitch key)
    else .next s

end Sys2Proof.Machine
end

