-- ==== Sys2Proof/Machine/Tlb.lean ====
section
/-! DEFINITION. The instructions of the translation engine and the end of a walk (12 R333, R337 to R340). -/

namespace Sys2Proof.Machine

/-- `tfence` (R337): it waits until the strand's accesses are performed at the scope; every walk of the model reads
the tables as they stand. -/
def execTfence (sel : BitVec 3) (s : State) : Host.Outcome State Fault Refusal :=
  run s [] [] (decide (4 < sel.toNat)) true fun s =>
    if s.accessesWait s.cur sel.toNat then s.stallWith 12 else s.advance

/-! ### `tlbinv` (R338, R339) -/

/-- What a `tlbinv` names: a kind, an address, a PASID and a page count (Table 12-5). -/
structure Removal where
  kind : Nat
  va : Nat
  pasid : Nat
  count : Nat
  deriving DecidableEq, Repr

/-- The virtual addresses that a removal of kind 0 or 1 names: first and number of bytes. -/
def Removal.range (r : Removal) : Nat × Nat :=
  let a := r.va / 2 ^ 17 * 2 ^ 17
  if r.kind = 0 then (a, 2 ^ 17) else (a, r.count * 2 ^ 17)

/-- Whether a range of bytes of a PASID meets what a removal names. -/
def Removal.meets (r : Removal) (pasid first bytes : Nat) : Bool :=
  if r.kind = 3 then true
  else if r.pasid ≠ pasid then false
  else if r.kind = 2 then true
  else decide (0 < r.range.2 ∧ first < r.range.1 + r.range.2 ∧ r.range.1 < first + bytes)

/-- The bytes that a pointer entry's table maps: 2^43 under level 2, 2^30 under level 3. -/
def PtrEntry.span (x : PtrEntry) : Nat := if x.level = 2 then 2 ^ 43 else 2 ^ 30

/-- Whether a removal names a cached leaf. -/
def Removal.takes (r : Removal) (t : TlbEntry) : Bool := r.meets t.pasid t.va (2 ^ t.size)

/-- The cached leaves that a removal takes: a run or a page of 1 GiB as a whole (R330, R338). -/
def State.takenLeaves (s : State) (r : Removal) : List TlbEntry :=
  (s.cores.flatMap fun x => x.2.tlb.filter r.takes) ++ s.slices.flatMap fun x => x.2.leaves.filter r.takes

/-- Whether an access at an address was translated by what a removal takes: what it names, or a leaf that reaches
further. -/
def State.translatedBy (s : State) (r : Removal) (pasid va bytes : Nat) : Bool :=
  r.meets pasid va bytes || (s.takenLeaves r).any fun t =>
    t.pasid == pasid && decide (va < t.va + 2 ^ t.size ∧ t.va < va + bytes)

/-- Whether one of the lanes of a load or an atomic that is not answered yet was translated by what a removal takes. -/
def State.readBy (s : State) (r : Removal) (st : Strand) (p : Producer) : Bool :=
  p.vas.any fun v => (p.hostLanes ||| p.peerLanes).getLsbD v.1 && s.translatedBy r (s.pasidOf st) v.2.toNat 32

/-- Whether a copy write without a response was translated by what a removal takes. -/
def State.copiedBy (s : State) (r : Removal) (w : FarWrite) : Bool := s.translatedBy r w.pasid w.va 128

/-- Remove every named entry from every core and slice cache, with the ATS results kept with it (15 R412); accesses under way
that one of them translated are marked. -/
def State.removeTranslations (s : State) (r : Removal) : State :=
  let copied (l : List FarWrite) : List FarWrite := l.map fun w => { w with stale := w.stale || s.copiedBy r w }
  { s with
    cores := s.cores.map fun x => (x.1, { x.2 with
      tlb := x.2.tlb.filter fun t => !r.takes t
      outstanding := x.2.outstanding.map fun o =>
        { o with stale := o.stale || s.translatedBy r o.pasid o.va.toNat 128 }
      relaxed := copied x.2.relaxed, peerCopies := copied x.2.peerCopies }),
    strands := s.strands.map fun x => (x.1, { x.2 with
      producers := x.2.producers.map fun p => { p with stale := p.stale || s.readBy r x.2 p } }),
    link := { s.link with atsCache := s.link.atsCache.filter fun x => !s.translatedBy r x.pasid (4096 * x.va) 4096 },
    slices := s.slices.map fun x => (x.1, {
      leaves := x.2.leaves.filter fun t => !r.takes t,
      pointers := x.2.pointers.filter fun p => !r.meets p.pasid (p.va * p.span) p.span }) }

/-- Whether an access that a removed entry translated is still on its way to the host or a peer, or not answered (R339): a
store, a load or an atomic of a strand, or a write of the copy engine. -/
def State.removalWaits (s : State) (r : Removal) : Bool :=
  (s.cores.any fun x =>
    (x.2.outstanding.any fun o => o.stale || s.translatedBy r o.pasid o.va.toNat 128)
      || (x.2.relaxed ++ x.2.peerCopies).any fun w => w.stale || s.copiedBy r w)
    || s.strands.any fun x => x.2.producers.any fun p =>
      (p.stale && (p.hostLanes ||| p.peerLanes) != 0) || s.readBy r x.2 p

/-- The whole effect of a `tlbinv`: removal, and the monitors armed through a removed translation (R339). Those of the
dispatch engine are armed by physical address: no translation armed them (07 R224; 14 R373). -/
def State.invalidate (s : State) (r : Removal) : State :=
  (s.removeTranslations r).releaseArmed fun m => m.ofStrand && s.translatedBy r m.pasid m.va 8

/-- `tlbinv`: a bad B, or a non-canonical A under kind 0 or 1, raises 0x19. -/
def execTlbinv (e g : Bool) (a b : Code) (s : State) : Host.Outcome State Fault Refusal :=
  let us : List Use := [⟨.ssrc, a, e⟩, ⟨.ssrc, b, g⟩]
  run s us [] false true fun s =>
    let x := s.ssrc a
    let y := (s.ssrc b).toNat
    let r : Removal := { kind := natBits y 20 2, va := x.toNat, pasid := natBits y 0 20, count := natBits y 32 32 }
    if natBits y 22 10 ≠ 0 ∨ (r.kind ≠ 1 ∧ r.count ≠ 0) ∨ (r.kind < 2 ∧ canonical x = false) then
      s.raiseAllAt .copyParameter 0
    else if s.removalWaits r then (s.invalidate r).stallWith 12
    else ((s.popSources us).invalidate r).advance

/-! ### `tprobe` (R340) -/

/-- The access of a kind field. -/
def accessOf (n : Nat) : Access := if n = 0 then .read else if n = 1 then .write else if n = 2 then .atomic else .fetch

/-- What `tprobe` answers. -/
def State.probeWord (s : State) (core : Nat) (va : DWord) (b : Nat) : DWord :=
  let pasid := natBits b 0 20
  let failure (c : Nat) (level : Nat) : DWord := BitVec.ofNat 64 (c * 2 ^ 8 + level * 2 ^ 52)
  if !canonical va then failure Cause.nonCanonical.code 0
  else if inAperture va then failure Cause.scratchBound.code 0
  else
    match s.probe core pasid (natBit b 22) (accessOf (natBits b 20 2)) va.toNat with
    | .leaf x l => BitVec.ofNat 64 (x - natBits x 52 2 * 2 ^ 52 + l * 2 ^ 52)
    | .fail c l => failure c.code l
    | .noSlot => failure 0 0

def execTprobe (e g : Bool) (d a b : Code) (s : State) : Host.Outcome State Fault Refusal :=
  let us : List Use := [⟨.ssrc, a, e⟩, ⟨.ssrc, b, g⟩, ⟨.sreg, d, false⟩]
  run s us [] false true fun s =>
    let v := s.probeWord s.cur.core (s.ssrc a) (s.ssrc b).toNat
    ((s.popSources us).writeS d true v).advance

/-- WALK_COMPLETE: a walk that a miss of a core has begun ends, for an access that may have been dropped meanwhile: it
sets A and D and installs the leaf where the access passes, and does nothing else (R331, R333). -/
def execWalkComplete (core pasid : Nat) (user : Bool) (kind va : Nat) (s : State) : Host.Outcome State Fault Refusal :=
  match s.rootOf pasid with
  | some root =>
    if translates va then .next (s.walkAccess (some core) pasid user (accessOf kind) va root).1 else .next s
  | none => .next s

end Sys2Proof.Machine
end

