-- ==== Sys2Proof/Machine/Registers.lean ====
section
/-! DEFINITION. `dcfg`: the dispatch registers, carve modes, context slots, queue descriptors and the end of a cohort
(05 R122; 14 R371, R374, R375, R398, R401; 01 R17). -/

namespace Sys2Proof.Machine

/-! ### Registers (Table 14-9) -/

/-- Whether a selector is one of Table 14-9, or the read of one. -/
def dcfgSelector (n : Nat) : Bool := n % 64 ≤ 9 || (0x10 ≤ n % 64 && n % 64 ≤ 0x14)

/-- A dispatch register; 0 for an operation. -/
def DispatchRegs.read (r : DispatchRegs) (n : Nat) : DWord :=
  match n with
  | 0 => r.qtb | 1 => r.ctb | 2 => r.quant | 3 => r.wgt | 4 => r.stv | 5 => r.latmax | 6 => r.mrto | 7 => r.sto
  | 8 => r.pol | 9 => r.swcnt | _ => 0

/-- The nearest value within two bounds. -/
def clampTo (lo hi v : Nat) : Nat := max lo (min hi v)

/-- A value as a register takes it: clamped to its limits, the bits it does not have left out, a weight of 0 read as 1. -/
def dispatchValue (n v : Nat) : Nat :=
  match n with
  | 0 => v % 2 ^ 52 / 2 ^ 14 * 2 ^ 14
  | 1 => v % 2 ^ 52 / 2 ^ 18 * 2 ^ 18
  | 2 => max 11000 v
  | 3 => ((List.range 8).map fun c => max 1 (natBits v (8 * c) 8) * 2 ^ (8 * c)).sum
  | 4 => min 1100000000 v
  | 5 => clampTo 1100 1100000 v
  | 6 => clampTo 4096 1048576 v
  | 7 => clampTo 1024 1048576 v
  | 8 => v % 8
  | _ => v

/-- Whether a value lies beyond a limit of its register (R17). -/
def beyondLimit (n v : Nat) : Bool := (n == 2 || (4 ≤ n && n ≤ 7)) && dispatchValue n v != v

def DispatchRegs.write (r : DispatchRegs) (n : Nat) (v : DWord) : DispatchRegs :=
  let x : DWord := BitVec.ofNat 64 (dispatchValue n v.toNat)
  match n with
  | 0 => { r with qtb := x }
  | 1 => { r with ctb := x }
  | 2 => { r with quant := x }
  | 3 => { r with wgt := x }
  | 4 => { r with stv := x }
  | 5 => { r with latmax := x }
  | 6 => { r with mrto := x }
  | 7 => { r with sto := x }
  | 8 => { r with pol := x }
  | 9 => { r with swcnt := x }
  | _ => r

/-- A clamp is counted in the root controller's status (01 R17). -/
def State.countClamp (s : State) (b : Bool) : State :=
  if b then { s with root := { s.root with clamps := s.root.clamps + 1 } } else s

/-! ### CARVE (05 R122) -/

/-- Swap out every cohort of a core. -/
def State.emptyCore (s : State) (core : Nat) : State :=
  (s.cohortsHeld core).foldl (fun (s : State) c => s.sendAway c.ccb .out) s

/-- CARVE: the status, and the change that waits. -/
def State.requestCarve (s : State) (v : Nat) : State × Nat :=
  let core := natBits v 0 8
  let mode := natBits v 8 3
  if 192 ≤ core ∨ 5 < mode ∨ v / 2 ^ 12 ≠ 0 then (s, 1)
  else if (s.core core).carveNext.isSome then (s, 2)
  else
    let s1 := s.setCore core { s.core core with carveNext := some (mode, natBit v 11) }
    (if natBit v 11 then s1 else s1.emptyCore core, 0)

/-- CARVE_MODE_CHANGE: a core that holds no cohort takes its new mode, and its L1 is invalidated; cohorts that were to be
swapped out are sent away again. -/
def execCarveModeChange (core : Nat) (s : State) : Host.Outcome State Fault Refusal :=
  match (s.core core).carveNext with
  | none => .next s
  | some (mode, waits) =>
    if !s.acting then .next s
    else if (s.cohortsHeld core).isEmpty then
      .next (s.setCore core { s.core core with carve := mode, carveNext := none, l1 := [] })
    else .next (if waits then s else s.emptyCore core)

/-! ### Context slots (R374, R375) -/

/-- Whether a root is a valid pointer entry (12 R328). -/
def pointerEntry (x : Nat) : Bool := entV x && !entL x && !malformed 1 x

/-- The slot that an entry of the context table describes, if it can be activated (R374). -/
def State.readContext (s : State) (slot : Nat) : Option Context :=
  let a := s.disp.regs.ctb.toNat + 64 * slot
  let w (o : Nat) : Nat := Memory.readN s.local_ (a + o) 8
  let pasid := natBits (w 0) 0 20
  let c : Context := {
    pasid := pasid, root := w 0x08, framePool := w 0x10, frameBytes := w 0x18, privPool := w 0x20,
    privSize := natBits (w 0x28) 0 32, privCount := natBits (w 0x28) 32 32, vector := natBits (w 0x30) 0 16 }
  let aligned (v : Nat) : Bool := v % 2 ^ 17 == 0
  if Tab.has s.contexts slot || decide (pasid = 0)
      || (s.slotOf pasid).isSome || !pointerEntry c.root
      || !(aligned c.framePool && aligned c.frameBytes && aligned c.privPool && aligned c.privSize)
      || decide (c.frameBytes = 0 ∨ c.privCount = 0 ∨ c.privSize < 2 ^ 18) then none
  else some c

/-- The first word of an entry of the context table with ACT as given. -/
def State.setAct (s : State) (slot : Nat) (act : Bool) : State :=
  let a := s.disp.regs.ctb.toNat + 64 * slot
  s.putBytes .dev a 8 (Memory.readN s.local_ a 8 % 2 ^ 63 + act.toNat * 2 ^ 63)

/-- CTXON. -/
def State.contextOn (s : State) (v : Nat) : State × Nat :=
  if v / 2 ^ 12 ≠ 0 then (s, 1)
  else
    match s.readContext v with
    | none => (s, 1)
    | some c => ((({ s with contexts := Tab.put s.contexts v c } : State).setAct v true).scrambleBitmap v, 0)

/-- The cohorts of a context slot. -/
def State.cohortsOf (s : State) (slot : Nat) : List DWord :=
  (s.cohorts.filter fun x => x.2.ctx == slot).map fun x => x.2.ccb

/-- Withdraw the declarations that a test names. -/
def State.withdraw (s : State) (p : Declaration → Bool) : State :=
  { s with guard := { s.guard with declarations := s.guard.declarations.filter fun d => !p d } }

/-- The removal that CTXOFF makes for a PASID. -/
def removalOf (pasid : Nat) : Removal := { kind := 2, va := 0, pasid := pasid, count := 0 }

/-- The steps of CTXOFF on a slot that is active, all but its wait: from here on it translates nothing and its records are not
popped (R375; 16 R435). -/
def State.beginOff (s : State) (slot : Nat) : State :=
  let x := Tab.get {} s.contexts slot
  let pasid := x.pasid
  let s1 := s.setAct slot false
  let s2 := (s1.cohortsOf slot).foldl (fun (s : State) c => s.endCohort c false) s1
  let s3 := (s2.releaseMonitors fun m => m.pasid == pasid).invalidate (removalOf pasid)
  let s4 := s3.withdraw fun d => d.pasid == pasid
  { s4 with
    contexts := Tab.put s4.contexts slot { x with ending := true },
    guard := { s4.guard with shares := Tab.del s4.guard.shares pasid },
    disp := { s4.disp with
      launches := s4.disp.launches.filter fun l => l.2.slot != slot,
      queues := s4.disp.queues.map fun q => (q.1, match q.2.expansion with
        | some x => if x.slot = slot then { q.2 with expansion := none } else q.2
        | none => q.2) } }

/-- CTXOFF has done its steps: the slot is free. -/
def State.finishOff (s : State) (slot : Nat) : State := { s with contexts := Tab.del s.contexts slot }

/-- The deactivation of a slot as a whole, where nothing has to be waited for. -/
def State.contextOff (s : State) (slot : Nat) : State := (s.beginOff slot).finishOff slot

/-! ### QARM (R371) and KILL (R398) -/

/-- QARM: the descriptor is read again, and the queue runs with it or is not enabled. -/
def State.armQueue (s : State) (v : Nat) : State × Nat :=
  if v / 256 ≠ 0 then (s, 1)
  else
    let w0 := s.queueWord v 0
    let w1 := s.queueWord v 8
    let en := natBit w1 8
    let n := natBits w1 0 5
    let reserved := natBits w0 0 12 != 0 || natBits w0 52 12 != 0 || natBits w1 5 3 != 0 || natBits w1 10 54 != 0
    let bad := en && (reserved || decide (n < 4 ∨ 16 < n ∨ 2 ^ 42 ≤ w0))
    let x := s.queue v
    if bad || !en then
      (((s.unwatch v).setQueue v { x with en := false, polling := false, due := false, expansion := none }).showPoll v,
        if bad then 1 else 0)
    else
      let code := natBits (s.queueWord v 0x20) 0 8
      let y : Queue := { x with
        en := true, dev := natBit w1 9, n := n, ring := w0, due := true, code := code,
        tail := if x.en then x.tail else s.queueHead v, headSince := if x.en then x.headSince else s.now }
      let s1 := s.setQueue v y
      (if y.stopped then s1.watchWord v 0x20 0 0 (.status v) else s1.watchTail v, 0)

/-- KILL: the cohort is ended and counts as complete (R386). -/
def State.kill (s : State) (ccb : DWord) : State × Nat :=
  if s.liveCohort ccb then (s.endCohort ccb true, 0) else (s, 1)

/-! ### The instruction -/

/-- `dcfg` with a selector that Table 14-9 gives; CTXOFF waits until accesses of its context have been answered. -/
def dcfgBody (g : Bool) (d : Code) (sel : Nat) (b : Code) (s : State) : Host.Outcome State Fault Refusal :=
  let us : List Use := [⟨.ssrc, b, g⟩, ⟨.sreg, d, false⟩]
  let reads := decide (64 ≤ sel)
  let bad := !dcfgSelector sel || (reads && (g || decide (b ≠ 0)))
  run s (if reads then [⟨.sreg, d, false⟩] else us) [] bad true fun s =>
    let v := s.ssrc b
    let answer (x : State × Nat) : State := ((x.1.popSources us).writeS d true (BitVec.ofNat 64 x.2)).advance
    match sel with
    | 0x10 => answer (s.requestCarve v.toNat)
    | 0x11 => answer (s.contextOn v.toNat)
    | 0x12 =>
      let slot := v.toNat
      if slot / 2 ^ 12 ≠ 0 ∨ Tab.has s.contexts slot = false then answer (s, 1)
      else
        let x := Tab.get {} s.contexts slot
        let waits := s.removalWaits (removalOf x.pasid)
        let s1 := if x.ending then s else s.beginOff slot
        if waits then s1.stallWith 12 else answer (s1.finishOff slot, 0)
    | 0x13 => answer (s.armQueue v.toNat)
    | 0x14 => answer (s.kill v)
    | _ =>
      let r := s.disp.regs
      if reads then (s.writeS d true (r.read (sel - 64))).advance
      else
        answer (({ s with disp := { s.disp with regs := r.write sel v } } : State).countClamp (beyondLimit sel v.toNat),
          (r.read sel).toNat)

/-- `dcfg`; the words of its operations decode to the constructors that follow. -/
def execDcfg (g : Bool) (d : Code) (sel : BitVec 7) (b : Code) (s : State) : Host.Outcome State Fault Refusal :=
  dcfgBody g d sel.toNat b s
def execCarve (g : Bool) (d b : Code) (s : State) : Host.Outcome State Fault Refusal := dcfgBody g d 0x10 b s
def execCtxon (g : Bool) (d b : Code) (s : State) : Host.Outcome State Fault Refusal := dcfgBody g d 0x11 b s
def execCtxoff (g : Bool) (d b : Code) (s : State) : Host.Outcome State Fault Refusal := dcfgBody g d 0x12 b s
def execQarm (g : Bool) (d b : Code) (s : State) : Host.Outcome State Fault Refusal := dcfgBody g d 0x13 b s
def execKill (g : Bool) (d b : Code) (s : State) : Host.Outcome State Fault Refusal := dcfgBody g d 0x14 b s

end Sys2Proof.Machine
end

