-- ==== Sys2Proof/Machine/Link.lean ====
section
/-! DEFINITION. The link engine: ports, host and peer accesses, BAR0, interrupts and `intfw`, SPDM, IDE and TDISP
(15 R405 to R431; 05 R149, R150; 19 R482, R483). -/

namespace Sys2Proof.Machine

/-! ### `intfw` and claims (R420 to R424) -/

/-- The MSI-X vectors of a function (R406). -/
def vectorsOf (fn : Nat) : Nat := if fn = 0 then 2048 else 256

/-- ACK of a claim: it closes, and its timer stops. -/
def State.ackClaim (s : State) (i : Nat) : State × Nat :=
  let c := s.claim i
  if c.open_ then (s.setClaim i { c with open_ := false, timer := none }, 0) else (s, 1)

/-- The open claim of a source is forwarded to the host and closes. -/
def State.forwardClaim (s : State) (i : Nat) : State :=
  let c := s.claim i
  (((s.sendMsix c.openFn c.openVec).1).setClaim i { c with open_ := false, timer := none })

/-- What `intfw` does, with its status. -/
def State.forwardOp (s : State) (a b : Nat) : State × Nat :=
  let i := natBits a 0 10
  match natBits a 16 2 with
  | 0 => s.ackClaim i
  | 1 => if (s.claim i).open_ then (s.forwardClaim i, 0) else (s, 1)
  | 2 => if i < 0x300 then (s, 2) else (s.fire i, 0)
  | _ =>
    let fn := natBits b 12 4
    let vec := natBits b 0 12
    if i ≠ 0 ∨ vectorsOf fn ≤ vec then (s, 2)
    else let (s1, dropped) := s.sendMsix fn vec; (s1, if dropped then 3 else 0)

/-- A reserved bit of A or B (R424). -/
def forwardReserved (a b : Nat) : Bool :=
  natBits a 10 6 != 0 || natBits a 18 46 != 0 || (if natBits a 16 2 = 3 then natBits b 16 48 != 0 else b != 0)

/-- `intfw`: the operation stands in A. -/
def intfwBody (e g : Bool) (d a b : Code) (s : State) : Host.Outcome State Fault Refusal :=
  let us : List Use := [⟨.ssrc, a, e⟩, ⟨.ssrc, b, g⟩, ⟨.sreg, d, false⟩]
  run s us [] false true fun s =>
    let x := (s.ssrc a).toNat
    let y := (s.ssrc b).toNat
    let answer (r : State × Nat) : State := ((r.1.popSources us).writeS d true (BitVec.ofNat 64 r.2)).advance
    if forwardReserved x y then answer (s, 2)
    else if s.releaseWaits s.cur 4 then (s.noteRelease s.cur 4).stallWith 12
    else answer (s.forwardOp x y)

/-- The four operations share their words; each runs what A names. -/
def execIntfwAck (e g : Bool) (d a b : Code) (s : State) : Host.Outcome State Fault Refusal := intfwBody e g d a b s
def execIntfwFwd (e g : Bool) (d a b : Code) (s : State) : Host.Outcome State Fault Refusal := intfwBody e g d a b s
def execIntfwRaise (e g : Bool) (d a b : Code) (s : State) : Host.Outcome State Fault Refusal := intfwBody e g d a b s
def execIntfwSend (e g : Bool) (d a b : Code) (s : State) : Host.Outcome State Fault Refusal := intfwBody e g d a b s

/-- CLAIM_TIMER_EXPIRY: the timer of an open claim has run out (R421). -/
def execClaimTimerExpiry (src : Nat) (s : State) : Host.Outcome State Fault Refusal :=
  let c := s.claim src
  match c.timer with
  | some t => if c.open_ && decide (t ≤ s.now) then .next (s.forwardClaim src) else .next s
  | none => .next s

/-- ICACK: a service core writes the number of a source (R420). -/
def execIcack (src : Nat) (s : State) : Host.Outcome State Fault Refusal :=
  .next (if src < 1024 then (s.ackClaim src).1 else s)

/-- MSIX_UNMASK: a pending message of a vector that is no longer masked is sent (R424). -/
def execMsixUnmask (fn vec : Nat) (s : State) : Host.Outcome State Fault Refusal :=
  let f := s.function fn
  if f.pending.contains vec && !f.masked vec then
    .next (((s.setFunction fn { f with pending := f.pending.filter fun v => v != vec }).sendMsix fn vec).1)
  else .next s

/-- What a service core reads in the link engine's register block (Table 15-5); ICACK can only be written, and what a read of it
gives is free. -/
def Claim.word (c : Claim) : Nat :=
  c.cnt % 2 ^ 32 + c.sc.toNat * 2 ^ 32 + c.hc.toNat * 2 ^ 33 + c.sct * 2 ^ 34 + c.vec * 2 ^ 40 + c.fn * 2 ^ 52 + c.open_.toNat * 2 ^ 63
def State.linkRegister (s : State) (off : Nat) : Nat :=
  let l := s.link
  if off = 0x00 then l.intfwd
  else if off = 0x08 then (Config.freeDWord s.free).toNat
  else if off = 0x10 then l.prt
  else if off = 0x18 then l.pwbase
  else if off = 0x20 then l.pwlimit
  else if off = 0x28 then l.mbb
  else if off = 0x30 then l.lostmsi
  else if 0x10000 ≤ off ∧ off < 0x12000 ∧ off % 8 = 0 then (s.claim ((off - 0x10000) / 8)).word
  else 0

/-! ### TDIs: ERROR (R429) -/

def Tdi.code : Tdi → Nat
  | .unlocked => 0 | .locked => 1 | .run => 2 | .error => 3

/-- Whether a TDI is locked or running. -/
def Function.bound (f : Function) : Bool := decide (f.tdi = .locked ∨ f.tdi = .run)

/-- Firmware's CTXOFF of the active slots of a function's range, and EN of its queues cleared (R429, steps 3 and 4). In a
power-fail sequence firmware acts through the guard's registers alone: nothing is turned off, and accepted declarations stay (16
R435, R438). -/
def State.clearInterface (s : State) (fn : Nat) : State :=
  let f := s.function fn
  let s1 := (List.range f.slots.2).foldl (fun (s : State) i =>
    if s.guard.sequence = .none ∧ Tab.has s.contexts (f.slots.1 + i) = true then s.contextOff (f.slots.1 + i) else s) s
  (List.range f.queues.2).foldl (fun (s : State) i =>
    let q := f.queues.1 + i
    let w := s.queueWord q 8
    let s1 := s.setQueueWord q 8 (if natBit w 8 then w - 2 ^ 8 else w)
    (s1.unwatch q).setQueue q { s1.queue q with en := false, polling := false, due := false, expansion := none }) s1

/-- The messages of a function that are pending or wait for port P are dropped and counted (R429, step 1; R424). -/
def State.dropMessages (s : State) (fn : Nat) : State :=
  let f := s.function fn
  let mine := s.link.waiting.filter fun x => x.1 == fn
  let s1 := (s.setFunction fn { f with pending := [] }).countLostMsix (f.pending.length + mine.length)
  { s1 with link := { s1.link with waiting := s1.link.waiting.filter fun x => x.1 != fn } }

/-- A TDI enters ERROR or is treated as one that does: its messages are dropped, its contexts and queues cleared. -/
def State.enterError (s : State) (fn : Nat) : State :=
  ((s.setFunction fn { s.function fn with tdi := .error }).dropMessages fn).clearInterface fn

/-- A locked or running TDI enters ERROR. -/
def State.failInterface (s : State) (fn : Nat) : State :=
  if (s.function fn).bound then (s.enterError fn).fire 0x223 else s

/-- Every locked or running TDI enters ERROR. -/
def State.failInterfaces (s : State) : State := (List.range 16).foldl (fun (s : State) f => s.failInterface f) s

/-- Whether some of n bytes at a local address lie in the range of a TDI in ERROR (R429, R431). -/
def State.poisonedAt (s : State) (a n : Nat) : Bool :=
  s.link.functions.any fun f => decide (f.2.tdi = .error) && decide (a < f.2.memory.1 + f.2.memory.2 ∧ f.2.memory.1 < a + n)

/-! ### Host accesses to device memory (R408, R409) -/

/-- The bytes of local memory (R408). -/
def localBytes : Nat := 2 ^ 42

/-- Port C and the UALink ports accept accesses until the drain of a power-fail sequence ends (16 R439). -/
def State.accepting (s : State) : Bool := decide (s.guard.sequence = .none ∨ s.guard.sequence = .drain)

/-- Whether an access of the host through port C reaches local memory: the HDM decoders map its 4 TiB and nothing else
(R408). -/
def State.hostReaches (s : State) (addr size : Nat) : Bool :=
  s.online && s.link.up.contains 1 && s.accepting && decide (addr + size ≤ localBytes)

/-- A CXL.mem write is performed at its home; in the range of a TDI in ERROR it is dropped (R429). -/
def State.performHost (s : State) (w : Nat × Nat × Nat) : State :=
  if s.poisonedAt w.1 w.2.1 then s else s.putBytes .dev w.1 w.2.1 w.2.2

/-- The acknowledged writes of the ingress buffer are performed, oldest first. -/
def State.drainIngress (s : State) : State :=
  s.link.ingress.foldl (fun (s : State) w => s.performHost w) { s with link := { s.link with ingress := [] } }

/-- A CXL.mem write is acknowledged and stays in the ingress buffer (R409). -/
def State.hostPosted (s : State) (addr size value : Nat) : State :=
  if !s.hostReaches addr size then s
  else ({ s with link := { s.link with ingress := s.link.ingress ++ [(addr, size, value)] } } : State).output (.answer (some []))

/-- The oldest write of the ingress buffer is performed. -/
def State.performIngress (s : State) : State :=
  match s.link.ingress with
  | [] => s
  | w :: t => ({ s with link := { s.link with ingress := t } } : State).performHost w

/-- HOST_MEM_WRITE: a CXL.mem write is acknowledged and, after those that the ingress buffer still holds, performed at its
home. -/
def execHostMemWrite (addr size value : Nat) (s : State) : Host.Outcome State Fault Refusal :=
  if !s.hostReaches addr size then .next s
  else .next ((s.drainIngress.performHost (addr, size, value)).output (.answer (some [])))

/-- HOST_MEM_READ: a CXL.mem read, performed after every write acknowledged before; poison for an uncorrectable error
and in the range of a TDI in ERROR. -/
def execHostMemRead (addr size : Nat) (s : State) : Host.Outcome State Fault Refusal :=
  if !s.hostReaches addr size then .next s
  else
    let s := s.drainIngress
    if s.errorAt .dev addr size || s.poisonedAt addr size then .next (s.output (.answer none))
    else .next (s.output (.answer (some [Memory.readN s.local_ addr size])))

/-- Whether an HDM decoder is one that the device accepts: ways of 1, 2, 4, 8 or 16, a granularity of 256 bytes to 16 KiB, and
a range that ends in local memory (R408). -/
def Decoder.legal (d : Decoder) : Bool :=
  [1, 2, 4, 8, 16].contains d.ways && [256, 512, 1024, 2048, 4096, 8192, 16384].contains d.grain
    && decide (d.pos < d.ways ∧ 0 < d.size ∧ d.size % (d.ways * d.grain) = 0 ∧ d.dpa + d.size / d.ways ≤ localBytes)

/-- The host programs HDM decoder 0 or 1 over CXL.io; one that the device does not accept leaves it as it was. -/
def State.setDecoder (s : State) (i : Nat) (d : Decoder) : State :=
  if s.online && s.link.up.contains 1 && decide (i < 2) && d.legal then
    { s with link := { s.link with decoders := Tab.put s.link.decoders i d } }
  else s

/-- The DPA at which a decoder places n bytes at a host physical address: those of a granule that interleaves to this device. -/
def Decoder.place (d : Decoder) (hpa n : Nat) : Option Nat :=
  let off := hpa - d.base
  let granule := off / d.grain
  if d.base ≤ hpa ∧ off + n ≤ d.size ∧ granule % d.ways = d.pos ∧ off % d.grain + n ≤ d.grain then
    some (d.dpa + granule / d.ways * d.grain + off % d.grain)
  else none

/-- A CXL.mem access by host physical address, at the DPA that the decoders give it; one that they do not map reaches nothing. -/
def State.hdm (s : State) (hpa n : Nat) (f : Nat → State → Host.Outcome State Fault Refusal) : Host.Outcome State Fault Refusal :=
  match s.link.decoders.findSome? fun d => d.2.place hpa n with
  | some a => f a s
  | none => .next s

/-- HOST_SNOOP: a snoop takes or shares a host line; a host that takes it stores to it, and the store counts for
monitors (R410; 07 R221). No host line lies above the 52 bits of a host physical address (05 R118). -/
def execHostSnoop (addr size : Nat) (takes : Bool) (value : Nat) (s : State) : Host.Outcome State Fault Refusal :=
  if takes && decide (addr + size ≤ 2 ^ 52) then .next (s.putBytes .host addr size value)
  else .next s

/-! ### BAR0 and mailboxes (R406, R407, R423) -/

/-- Whether a function is there: PF0, and the VFs that SR-IOV enables. -/
def State.functionThere (s : State) (fn : Nat) : Bool :=
  let p := s.function 0
  fn == 0 || (decide (fn ≤ 15) && p.vfEnable && decide (fn ≤ p.numVfs))

/-- The local address of a mailbox. -/
def State.mailboxAddr (s : State) (fn m : Nat) : Nat := s.link.mbb + 0x1000 * (16 * fn + m)

/-- A doorbell: its target is a supervisor strand or a service core. -/
def State.ringDoorbell (s : State) (fn m value : Nat) : State :=
  let t := value % 256
  if !s.online then s
  else if t < 192 then
    s.postEvent t { cause := .hostInterrupt, param := 16 * fn + m, taddr := BitVec.ofNat 64 (s.mailboxAddr fn m) }
  else if t < 196 then s.output (.serviceInterrupt (t - 192) (1024 + 16 * fn + m))
  else s

/-- Port P is up and answers the host: not in recovery mode (19 R480). -/
def State.answersHost (s : State) : Bool := s.link.up.contains 0 && !s.root.recovery

/-- MAILBOX_DOORBELL: a host write of 8 bytes to offset 0xFF8 of a mailbox. -/
def execMailboxDoorbell (fn m value : Nat) (s : State) : Host.Outcome State Fault Refusal :=
  if s.functionThere fn && s.answersHost && decide (m < 16 ∧ (s.function fn).tdi ≠ .error) then
    .next (s.ringDoorbell fn m value)
  else .next s

/-- The stepping of this document, B1, as every Revision ID gives it (00 R2). -/
def revisionId : Nat := 0xB1

/-- A word of four bytes of the identity page (Table 15-2). -/
def State.identityWord (s : State) (fn off : Nat) : Nat :=
  if off = 0 then revisionId
  else if off = 4 then fn
  else if off = 8 then (if s.online then (s.function fn).tdi.code else 0)
  else if fn = 0 ∧ 0x40 ≤ off ∧ off < 0x80 then (if s.online then (s.function ((off - 0x40) / 4)).tdi.code else 0)
  else 0

/-- What a read of BAR0 returns. -/
def State.barRead (s : State) (fn off size : Nat) : Nat :=
  let f := s.function fn
  if off < 0x1000 then
    s.identityWord fn off + (if size = 8 then 2 ^ 32 * s.identityWord fn (off + 4) else 0)
  else if 0x10000 ≤ off ∧ off < 0x20000 then
    Memory.readN s.local_ (s.mailboxAddr fn ((off - 0x10000) / 0x1000) + off % 0x1000) size
  else if 0x200000 ≤ off ∧ off < 0x200000 + 16 * vectorsOf fn then
    natBits (Tab.get 0 f.msix ((off - 0x200000) / 16)) (8 * (off % 16)) (8 * size)
  else if 0x300000 ≤ off ∧ off < 0x300000 + vectorsOf fn / 8 then
    natBits ((List.range 64).foldr (fun i acc =>
      (f.pending.contains ((off - 0x300000) / 8 * 64 + i)).toNat + 2 * acc) 0) (8 * (off % 8)) (8 * size)
  else 0

/-- What a write of BAR0 does. -/
def State.barWrite (s : State) (fn off size value : Nat) : State :=
  let f := s.function fn
  if 0x10000 ≤ off ∧ off < 0x20000 then
    let m := (off - 0x10000) / 0x1000
    if off % 0x1000 = 0xFF8 ∧ size = 8 then s.ringDoorbell fn m value
    else s.putBytes .dev (s.mailboxAddr fn m + off % 0x1000) size value
  else if 0x200000 ≤ off ∧ off < 0x200000 + 16 * vectorsOf fn then
    let v := (off - 0x200000) / 16
    let old := Tab.get 0 f.msix v
    let lo := 8 * (off % 16)
    s.setFunction fn { f with
      msix := Tab.set 0 f.msix v (old - natBits old lo (8 * size) * 2 ^ lo + value % 2 ^ (8 * size) * 2 ^ lo) }
  else s

/-- BAR0_ACCESS: a host access to BAR0 of a function; Unsupported Request where it is not 4 or 8 aligned bytes, or the TDI
is in ERROR. -/
def execBar0Access (fn off size : Nat) (write : Bool) (value : Nat) (s : State) : Host.Outcome State Fault Refusal :=
  if !s.functionThere fn || !(size == 4 || size == 8) || decide (off % size ≠ 0 ∨ 0x400000 ≤ off)
      || decide ((s.function fn).tdi = .error) || !s.answersHost then
    .next (s.output (.answer none))
  else if write then .next (s.barWrite fn off size value)
  else .next (s.output (.answer (some [s.barRead fn off size])))

/-! ### Writes on their way (R410, R411; 05 R148) -/

/-- The flushes of a core once n of the writes before each have their responses, or the one at a place has. -/
def Flush.after (n : Nat) (l : List Flush) : List Flush := l.map fun f => { f with before := f.before - n }
def Flush.without (place : Nat) (l : List Flush) : List Flush :=
  l.map fun f => if place < f.before then { f with before := f.before - 1 } else f

/-- FLUSH_COMPLETE: every write on the relaxed channel that a core sent before its oldest flush has its response; later
writes are not waited for. -/
def execFlushComplete (core : Nat) (s : State) : Host.Outcome State Fault Refusal :=
  let k := s.core core
  match k.flushing with
  | [] => .next s
  | f :: t =>
    let s1 := s.setCore core { k with relaxed := k.relaxed.drop f.before, flushing := Flush.after f.before t }
    .next (if Tab.has s.strands f.key then s1.setStrand f.key { s.strand f.key with flushed := some f.pc } else s1)

/-- Whether an ordered write of a core has been sent: a UC write to the host waits for the response of the one before
(R410). -/
def Core.sentWrite (k : Core) (place : Nat) : Bool :=
  match k.outstanding[place]? with
  | some o => o.peer || !o.uc || !(k.outstanding.take place).any fun x => !x.peer && x.uc
  | none => false

/-- GLOBAL_OBSERVATION_RESPONSE: a write of a core that has been sent has its response: one of the relaxed channel, which may
be any, or an ordered one. -/
def execGlobalObservationResponse (core : Nat) (relaxed : Bool) (place : Nat) (s : State) : Host.Outcome State Fault Refusal :=
  let k := s.core core
  if relaxed then
    .next (if place < k.relaxed.length then
      s.setCore core { k with relaxed := k.relaxed.eraseIdx place, flushing := Flush.without place k.flushing }
    else s)
  else .next (if k.sentWrite place then s.setCore core { k with outstanding := k.outstanding.eraseIdx place } else s)

/-! ### ATS (R412) -/

/-- ATS_INVALIDATION_REQUEST: the cached results of a range of a PASID are removed, as `tlbinv` kind 1 would, once every
access through one of them, of a strand or of the copy engine, has its response; the completion is then sent. -/
def execAtsInvalidationRequest (pasid va count : Nat) (s : State) : Host.Outcome State Fault Refusal :=
  let named (x : AtsEntry) : Bool := x.pasid == pasid && decide (va / 4096 ≤ x.page ∧ x.page < va / 4096 + count)
  let hosts := (s.link.atsCache.filter named).map fun x => x.host
  let reads (st : Strand) (p : Producer) : Bool := p.hostLanes != 0 && p.vas.any fun x =>
    match s.engineAddr (s.pasidOf st) x.2.toNat with
    | some q => q.loc == .host && hosts.contains (q.addr / 4096)
    | none => false
  let busy := (s.cores.any fun k =>
      (k.2.outstanding.any fun o => !o.peer && o.cells.any fun c => hosts.contains (c.1 / 4096))
        || k.2.relaxed.any fun w => w.pasid == pasid && hosts.contains (w.addr / 4096))
    || s.strands.any fun x => x.2.producers.any fun p => reads x.2 p
  if busy then .next s
  else
    let s1 : State := { s with link := { s.link with atsCache := s.link.atsCache.filter fun x => !named x } }
    .next ((s1.releaseArmed fun m => m.loc == 1 && m.pasid == pasid && hosts.contains (m.addr / 4096)).output (.answer (some [])))

/-! ### Peers (R414 to R418) -/

/-- Whether an accelerator is named by a valid route (R417). -/
def State.knownPeer (s : State) (aid : Nat) : Bool :=
  (List.range 1024).any fun n => natBit (s.route n) 63 && natBits (s.route n) 12 10 == aid

/-- The operation of an inbound atomic on its old value, operand and compare value. -/
def inboundOps : List (Nat → Nat → Nat → Nat) :=
  [opAtadd, opAtmins, opAtminu, opAtmaxs, opAtmaxu, opAtand, opAtor, opAtxor, opAtxchg, opAtcas, opAtfadd, opAtdadd,
   opVatbadd, opVatfmax]

/-- A peer's `waitc` or `cwp` at this device's memory: the element is read and its monitor armed in one step (07 R220). The answer
is 2 where the condition holds, 1 where the monitor stands, and 0 where no entry is free and the peer polls. -/
def State.watchForPeer (s : State) (aid addr cond size cmp : Nat) : State :=
  let wide := decide (size = 8)
  let base := 512 * (addr / 128 % 192)
  if !(size == 4 || size == 8) || decide (addr % size ≠ 0 ∨ 2 < cond) then s.output (.answer none)
  else if condHolds cond (Memory.readN s.local_ addr size) cmp then s.output (.answer (some [2]))
  else
    match s.freeMonitor base with
    | some i =>
      let m : Monitor := {
        loc := 0, addr := addr, va := addr, wide := wide, cond := cond, cmp := cmp, pasid := 0, waiter := .peer aid }
      ({ s with monitors := Tab.put s.monitors i m } : State).output (.answer (some [1]))
    | none => s.output (.answer (some [0]))

/-- PEER_INBOUND_ACCESS: a peer's read (kind 0), write (kind 1), atomic (kind 2 + n) or wait (kind 16 + its condition), performed
at its home if its source and its address are accepted, and refused otherwise. -/
def execPeerInboundAccess (aid addr kind size value cmp : Nat) (s : State) : Host.Outcome State Fault Refusal :=
  if !s.online then .next s
  else if !s.accepting || !s.knownPeer aid || decide (addr / 128 * 128 < s.link.pwbase)
      || decide (s.link.pwlimit < (addr + size - 1) / 128 * 128) || (s.errorAt .dev addr size && kind != 1) then
    .next (s.output (.answer none))
  else if kind = 0 then .next (s.output (.answer (some [Memory.readN s.local_ addr size])))
  else if kind = 1 then .next ((s.putBytes .dev addr size value).output (.answer (some [])))
  else if 16 ≤ kind then .next (s.watchForPeer aid addr (kind - 16) size cmp)
  else
    match inboundOps[kind - 2]? with
    | none => .next (s.output (.answer none))
    | some op =>
      let old := Memory.readN s.local_ addr size
      .next ((s.putBytes .dev addr size (op old value cmp % 2 ^ (8 * size))).output (.answer (some [old])))

/-- A peer stores to its own memory, where strands of this device may watch it (R416). -/
def State.peerWrite (s : State) (addr size value : Nat) : State :=
  if addr / 2 ^ 42 < 1024 ∧ (addr + size - 1) / 2 ^ 42 = addr / 2 ^ 42 then s.putBytes .peer addr size value else s

/-- The loads and atomics of a strand that were sent on a port that fails raise 0x1B; in a power-fail sequence, which delivers no
trap, their lanes are abandoned (16 R439). -/
def State.failLoads (s : State) (key u : Nat) : State :=
  let st := s.strand key
  (List.range st.producers.length).foldl (fun (t : State) i =>
    match st.producers[i]? with
    | none => t
    | some p =>
      let m := lanesMask ((p.sent.filter fun x => x.2.2 == u).map fun x => x.1) &&& p.peerLanes
      if m = 0 then t
      else if s.guard.sequence ≠ .none then
        t.setStrand key { t.strand key with producers := (t.strand key).producers.set i (p.without (st.twinMask m)) }
      else
        match execAccessTimeout key i m t with
        | .next t1 => t1
        | .fault _ | .refused _ => t) s

/-- The waits of a strand at a peer that were sent on a port that fails raise 0x1B. -/
def State.failWaits (s : State) (key u : Nat) : State :=
  (s.strand key).waits.foldl (fun (t : State) w =>
    if s.guard.sequence = .none ∧ w.how ≠ .fired ∧ (w.sent.map fun x => x.2) = some u then t.timeoutWait key w else t) s

/-- The stores of a core that were sent on a port that fails are lost (07 R197). -/
def State.failStores (s : State) (c u : Nat) : State :=
  let k := s.core c
  let lost (o : Outstanding) : Bool := o.peer && o.port == u
  (k.outstanding.filter lost).foldl (fun (t : State) o => t.loseStore c o)
    (s.setCore c { k with outstanding := k.outstanding.filter fun o => !lost o })

/-- A command goes back to the first of its units that a write to a peer has lost (10 R276). -/
def State.cutCommand (s : State) (c : Nat) (x : FarWrite) : State :=
  match s.headCommand c x.ccb x.channel with
  | some m => if m.core = c ∧ m.started = true ∧ x.start < m.delivered then s.setHead c x.ccb x.channel { m with delivered := x.start } else s
  | none => s

/-- The command of a channel ends with CODE 0x06 at the first of its units that a write to a peer has lost (10 R276). -/
def State.failCommand (s : State) (c : Nat) (x : FarWrite) : State :=
  let others : State := s.setCore c { s.core c with
    peerCopies := (s.core c).peerCopies.map fun y =>
      if y.of { ccb := x.ccb, channel := x.channel } then { y with pointer := none } else y }
  match s.headCommand c x.ccb x.channel with
  | some m =>
    if m.core = c ∧ m.started = true ∧ x.start < m.delivered then
      others.setHead c x.ccb x.channel { m with ended := some (6, Cause.peerLink.code), delivered := x.start, parked := none }
    else others
  | none => others

/-- The copy writes of a core that were sent on a port that fails are lost, and their commands end (R418). -/
def State.failCopies (s : State) (c u : Nat) : State :=
  let lost := (s.core c).peerCopies.filter fun x => x.port == u
  let s1 := s.setCore c { s.core c with peerCopies := (s.core c).peerCopies.filter fun x => x.port != u }
  lost.foldl (fun (t : State) x => (t.loseCells .peer x.cells).failCommand c x) s1

/-- PORT_DOWN: a UALink port goes down: accesses without a response that were sent on it fail, later ones take the other ports, and
its source fires (R418). -/
def execPortDown (u : Nat) (s : State) : Host.Outcome State Fault Refusal :=
  if 12 ≤ u ∨ s.link.up.contains (2 + u) = false then .next s
  else
    let s1 := (s.strands.map fun x => x.1).foldl (fun (t : State) k => (t.failLoads k u).failWaits k u) s
    let s2 := (s1.cores.map fun x => x.1).foldl (fun (t : State) c => (t.failStores c u).failCopies c u) s1
    .next (({ s2 with link := { s2.link with up := s2.link.up.filter fun p => p != 2 + u } } : State).fire (0x210 + u))

/-- The widths to which a port trains (Table 15-1). -/
def trainsTo (port : Nat) : List Nat := if port = 0 then [16, 8, 4] else if port = 1 then [16, 8] else [4, 2, 1]

/-- PORT_WIDTH_CHANGE: a UALink port that is up changes its width and keeps its accesses; its source fires. -/
def execPortWidthChange (u lanes : Nat) (s : State) : Host.Outcome State Fault Refusal :=
  if 12 ≤ u ∨ s.link.up.contains (2 + u) = false ∨ !(trainsTo (2 + u)).contains lanes ∨ Tab.get 0 s.link.width (2 + u) = lanes then .next s
  else .next (({ s with link := { s.link with width := Tab.put s.link.width (2 + u) lanes } } : State).fire (0x210 + u))

/-- The rates to which a port trains, in GT/s or Gb/s per lane (Table 15-1). -/
def ratesOf (port : Nat) : List Nat := if port = 0 then [64, 32, 16, 8] else if port = 1 then [64, 32] else [200, 100]

/-- The bytes of a flit of a port at a rate; 0 where it does not use flits, or Table 15-1 gives no size. -/
def State.flitBytes (s : State) (port : Nat) : Nat :=
  if port = 1 then (if Tab.get 0 s.link.rate 1 = 64 then 256 else 68) else 0
/-- Whether port P is in flit mode. -/
def State.flitMode (s : State) : Bool := Tab.get 0 s.link.rate 0 == 64

/-- The messages that waited for port P leave, oldest first (R405). -/
def State.sendWaiting (s : State) : State :=
  s.link.waiting.foldl (fun (s : State) x => s.output (.msix x.1 x.2)) { s with link := { s.link with waiting := [] } }

/-- PORT_UP: a port trains at a width: port 0 is P, 1 is C, 2 + u is Uu (R405, R415). The rate is the highest that both ends
support, and the other end's is not known: it is free (log 119). -/
def execPortUp (port lanes : Nat) (s : State) : Host.Outcome State Fault Refusal :=
  if 14 ≤ port ∨ s.root.stage.isNone = true ∨ !(trainsTo port).contains lanes then .next s
  else
    let rates := ratesOf port
    let s1 : State := { s.tick with link := { s.link with
      up := if s.link.up.contains port then s.link.up else s.link.up ++ [port], width := Tab.put s.link.width port lanes
      rate := Tab.put s.link.rate port (rates.getD (Config.freeNat s.free % rates.length) 0) } }
    .next (if port = 0 then s1.sendWaiting else s1)

/-- PORT_P_DOWN: every locked or running TDI enters ERROR (R429). -/
def execPortPDown (s : State) : Host.Outcome State Fault Refusal :=
  .next ({ s with link := { s.link with up := s.link.up.filter fun p => p != 0 } } : State).failInterfaces

/-- PORT_C_ERROR: port C reports an error, or is lost (Table 15-4). -/
def execPortCError (lost : Bool) (s : State) : Host.Outcome State Fault Refusal :=
  let s1 : State := if lost then { s with link := { s.link with up := s.link.up.filter fun p => p != 1 } } else s
  .next (s1.fire 0x200)

/-- PORT_P_ERROR: an error is reported through AER (Table 15-4). -/
def execPortPError (s : State) : Host.Outcome State Fault Refusal := .next (s.fire 0x201)

/-! ### SPDM and IDE (R425, R426; 19 R482, R483) -/

/-- The root controller takes the next index of the identity key, which allows 2^20; none once they are exhausted. -/
def State.takeIdentityIndex (s : State) : Option (State × Nat) :=
  let i := s.root.identityIndex
  if 2 ^ 20 ≤ i then none else some ({ s with root := { s.root with identityIndex := i + 1 } }, i)

/-- SPDM_REQUEST: a signed measurement: index 0x10 is M, index i from 1 is entry i - 1 of the log; the answer gives the
value and the index of the signature. A request whose signature is not to be had is refused with status 0x04. -/
def execSpdmRequest (index : Nat) (s : State) : Host.Outcome State Fault Refusal :=
  if s.root.stage.isNone then .next s
  else
    let value := if index = 0x10 then some s.root.m else if index = 0 then none else s.root.log[index - 1]?
    match value with
    | none => .next (s.output (.answer none))
    | some v =>
      match s.takeIdentityIndex with
      | none => .next (s.output (.answer (some [4])))
      | some (s1, i) => .next (s1.output (.answer (some [0, v, i])))

/-- KEY_EXCHANGE: a secured session with PF0 opens; the response is signed. -/
def execKeyExchange (s : State) : Host.Outcome State Fault Refusal :=
  if s.root.stage.isNone then .next s
  else
    match s.takeIdentityIndex with
    | none => .next (s.output (.answer (some [4])))
    | some (s1, i) => .next (({ s1 with link := { s1.link with session := true } } : State).output (.answer (some [0, i])))

/-- The algorithms of SPDM's answers (R425). -/
def spdmAlgorithms : List SpdmAlgorithm := [.xmssShake256_20_256, .shake256, .ecdheSecp384r1, .aes256Gcm]

/-- An SPDM request that has no row of its own: the algorithms, the certificate chain, a session on I3C, whose response is
signed, or the end of a session (R425; 19 R486). -/
def State.spdm (s : State) (a : SpdmAsk) : State :=
  if s.root.stage.isNone then s
  else
    match a with
    | .algorithms => s.output (.algorithms spdmAlgorithms)
    | .certificate => s.output (.answer (some [0, Config.fixed 4]))
    | .openI3c root =>
      (match s.takeIdentityIndex with
      | none => s.output (.answer (some [4]))
      | some (s1, i) => ({ s1 with root := { s1.root with session := some root } } : State).output (.answer (some [0, i])))
    | .close true => ({ s with root := { s.root with session := none } } : State).output (.answer (some [0]))
    | .close false => ({ s with link := { s.link with session := false } } : State).output (.answer (some [0]))

/-- The function whose selective stream covers a function (R426). -/
def State.streamOwner (s : State) (fn : Nat) : Nat := (s.function fn).streamOf.getD fn

/-- The stream of a function becomes insecure: every locked or running TDI that it covers enters ERROR (R426, R429). -/
def State.loseStream (s : State) (owner : Nat) : State :=
  (List.range 16).foldl (fun (t : State) f => if s.streamOwner f = owner then t.failInterface f else t)
    (s.setFunction owner { s.function owner with ide := false })

/-- IDE_KEY_MANAGEMENT: in a secured session the keys of a function's selective stream are installed or removed; port P
has up to 8 streams. -/
def execIdeKeyManagement (fn : Nat) (secure : Bool) (s : State) : Host.Outcome State Fault Refusal :=
  let streams := (s.link.functions.filter fun f => f.2.ide && f.1 != fn).length
  if !s.link.session || s.root.recovery || decide (16 ≤ fn) || (secure && decide (8 ≤ streams)) then .next (s.output (.answer none))
  else if secure then .next ((s.setFunction fn { s.function fn with ide := true }).output (.answer (some [])))
  else .next ((s.loseStream fn).output (.answer (some [])))

/-- INTEGRITY_CHECK_FAIL: a flit or TLP of the stream of a function fails its check on port C or P: the traffic is dropped,
the source fires, and the TDIs of the stream enter ERROR. -/
def execIntegrityCheckFail (portC : Bool) (fn : Nat) (s : State) : Host.Outcome State Fault Refusal :=
  let s1 := s.fire (if portC then 0x200 else 0x201)
  .next (if fn < 16 then s1.loseStream fn else s1)

/-- Keys are installed or removed for what is not a selective stream of port P: its link IDE (0), CXL IDE (1) and CXL.io streams
(14 + n) of port C in a secured session, and the encryption of Uu (2 + u) by firmware (R426). -/
def State.linkKeys (s : State) (id : Nat) (secure : Bool) : State :=
  let byFirmware := decide (2 ≤ id ∧ id < 14)
  let l := s.link.secured.filter fun x => x != id
  if byFirmware then (if s.online then { s with link := { s.link with secured := if secure then insertNat id l else l } } else s)
  else if !s.link.session then s.output (.answer none)
  else ({ s with link := { s.link with secured := if secure then insertNat id l else l } } : State).output (.answer (some []))

/-- A flit or TLP under such keys fails its integrity check: what it belongs to becomes insecure, and the source of port P or C
fires (R426). No TDI is bound to it: a lock needs a selective stream (R428). -/
def State.linkIntegrity (s : State) (id : Nat) : State :=
  if !s.link.secured.contains id then s
  else
    let s1 : State := { s with link := { s.link with secured := s.link.secured.filter fun x => x != id } }
    if id = 0 then s1.fire 0x201 else if 2 ≤ id ∧ id < 14 then s1 else s1.fire 0x200

/-- The stream that covers a function is its own, or another function's; it is chosen while the TDI is unlocked. -/
def State.coverStream (s : State) (fn : Nat) (owner : Option Nat) : State :=
  if fn < 16 ∧ (s.function fn).tdi = .unlocked ∧ owner.getD 0 < 16 then s.setFunction fn { s.function fn with streamOf := owner } else s

/-! ### TDISP (R427 to R431) -/

/-- Whether two ranges of a first number and a count share one. -/
def rangesMeet (a b : Nat × Nat) : Bool := decide (a.1 < b.1 + b.2 ∧ b.1 < a.1 + a.2)

/-- The conditions of a lock (R428). -/
def State.lockable (s : State) (fn : Nat) : Bool :=
  let f := s.function fn
  s.link.session && s.functionThere fn && decide (f.tdi = .unlocked) && decide (f.bar ≠ 0) && f.memorySpace
    && (s.function (s.streamOwner fn)).ide
    && decide (0 < f.slots.2 ∧ 0 < f.queues.2 ∧ 0 < f.memory.2)
    && (List.range 16).all fun n =>
      let g := s.function n
      n == fn || !g.bound || !(rangesMeet f.slots g.slots || rangesMeet f.queues g.queues || rangesMeet f.memory g.memory)

/-- LOCK_INTERFACE_REQUEST. -/
def execLockInterfaceRequest (fn : Nat) (s : State) : Host.Outcome State Fault Refusal :=
  if s.lockable fn then
    .next ((s.setFunction fn { s.function fn with tdi := .locked, lockM := s.root.m }).output (.answer (some [])))
  else .next (s.output (.answer none))

/-- START_INTERFACE_REQUEST. -/
def execStartInterfaceRequest (fn : Nat) (s : State) : Host.Outcome State Fault Refusal :=
  if s.link.session && decide ((s.function fn).tdi = .locked) then
    .next ((s.setFunction fn { s.function fn with tdi := .run }).output (.answer (some [])))
  else .next (s.output (.answer none))

/-- A range of local memory is scrubbed: its bytes read as those that nothing has written (log 1). -/
def State.scrubRange (s : State) (base size : Nat) : State :=
  { s with
    local_ := s.local_.filter fun x => !(decide (base ≤ x.1 ∧ x.1 < base + size)),
    ueLocal := s.ueLocal.filter fun w => !(decide (base ≤ 8 * w ∧ 8 * w < base + size)) }

/-- The verify of a scrub of a range: the lines that fail, which nothing gives, are free, and they are retired into the failure
record as those of the lease scrub (19 R488, R489; log 120). -/
def State.verifyRange (s : State) (base size : Nat) : State :=
  let lines := size / 128
  let n := Config.freeNat s.free % 4097
  let failed := if lines = 0 then [] else distinct ((List.range n).map fun i => base / 128 + Config.freeNat (s.free + 1 + i) % lines)
  { s with
    free := s.free + 4098
    root := { s.root with retired := s.root.retired ++ failed.filter fun l => !s.root.retired.contains l } }

/-- STOP_INTERFACE_REQUEST: the interface is cleared unless it is in ERROR, its memory is scrubbed and verified, and it is unlocked
(R431). -/
def execStopInterfaceRequest (fn : Nat) (s : State) : Host.Outcome State Fault Refusal :=
  let f := s.function fn
  if !s.link.session || decide (f.tdi = .unlocked) then .next (s.output (.answer none))
  else
    let s1 := if f.tdi = .error then s else s.enterError fn
    let s2 := (s1.scrubRange f.memory.1 f.memory.2).verifyRange f.memory.1 f.memory.2
    .next ((s2.setFunction fn { s2.function fn with tdi := .unlocked, lockM := 0 }).output (.answer (some [])))

/-- The MSI-X message control of a function. -/
def Function.messageControl (f : Function) (fn : Nat) : Nat :=
  f.msixEnable.toNat * 2 ^ 15 + f.msixMask.toNat * 2 ^ 14 + (vectorsOf fn - 1)

/-- The 64 bytes of the device-specific part of a report as one number, lowest byte first (Table 15-10). -/
def State.reportPart (s : State) (fn : Nat) : Nat :=
  let f := s.function fn
  0x0001 + revisionId * 2 ^ 16 + s.disp.floor * 2 ^ 24 + fn * 2 ^ 32 + f.memory.1 % 2 ^ 64 * 2 ^ 64 + f.memory.2 % 2 ^ 64 * 2 ^ 128
    + f.slots.1 % 2 ^ 16 * 2 ^ 192 + f.slots.2 % 2 ^ 16 * 2 ^ 208 + f.queues.1 % 2 ^ 16 * 2 ^ 224 + f.queues.2 % 2 ^ 16 * 2 ^ 240
    + f.lockM % 2 ^ 256 * 2 ^ 256

/-- The interface report (R430): DMA with PASID and without, ATS, page request, message control, TPH and LNR, the three
MMIO ranges as first page, pages and attribute (1 the MSI-X table, 2 the PBA), and the device-specific part. -/
def State.interfaceReport (s : State) (fn : Nat) : List Nat :=
  let f := s.function fn
  let page := f.bar / 4096
  [1, 0, 1, 0, f.messageControl fn, 0, 0,
   page, 32, 0, page + 0x200, (16 * vectorsOf fn + 4095) / 4096, 1, page + 0x300, 1, 2, s.reportPart fn]

/-- GET_DEVICE_INTERFACE_REPORT, of a TDI that is locked or running. -/
def execGetDeviceInterfaceReport (fn : Nat) (s : State) : Host.Outcome State Fault Refusal :=
  if s.link.session && (s.function fn).bound then .next (s.output (.answer (some (s.interfaceReport fn))))
  else .next (s.output (.answer none))

/-- The value of a configuration item of a function: 0 and 1 the halves of BAR0 (of VF BAR0 for a VF), 2 the Revision ID,
which no write changes (00 R2), 3 Memory Space
Enable, 4 Bus Master Enable, 5 ATS Enable, 6 Smallest Translation Unit, 7 to 9 PASID Enable, Execute and Privileged, 10
VF Enable, 11 NumVFs, 12 MSI-X Enable, 13 the MSI-X function mask. -/
def Function.config (f : Function) (item : Nat) : Nat :=
  match item with
  | 0 => f.bar % 2 ^ 32 | 1 => f.bar / 2 ^ 32 | 2 => revisionId
  | 3 => f.memorySpace.toNat | 4 => f.busMaster.toNat | 5 => f.ats.toNat | 6 => f.smallest
  | 7 => f.pasidEnable.toNat | 8 => f.pasidExecute.toNat | 9 => f.pasidPrivileged.toNat
  | 10 => f.vfEnable.toNat | 11 => f.numVfs | 12 => f.msixEnable.toNat | 13 => f.msixMask.toNat
  | _ => 0

def Function.setConfig (f : Function) (item v : Nat) : Function :=
  let b := natBit v 0
  match item with
  | 0 => { f with bar := f.bar / 2 ^ 32 * 2 ^ 32 + v % 2 ^ 32 / 2 ^ 22 * 2 ^ 22 }
  | 1 => { f with bar := f.bar % 2 ^ 32 + v % 2 ^ 32 * 2 ^ 32 }
  | 3 => { f with memorySpace := b }
  | 4 => { f with busMaster := b }
  | 5 => { f with ats := b }
  | 6 => { f with smallest := v % 32 }
  | 7 => { f with pasidEnable := b }
  | 8 => { f with pasidExecute := b }
  | 9 => { f with pasidPrivileged := b }
  | 10 => { f with vfEnable := b }
  | 11 => { f with numVfs := min 15 v }
  | 12 => { f with msixEnable := b }
  | 13 => { f with msixMask := b }
  | _ => f

/-- A host read of a configuration item: configuration space answers from stage 0 on (19 R479), for each function that is there. -/
def State.configRead (s : State) (fn item : Nat) : State :=
  if s.root.stage.isNone || !s.answersHost || !s.functionThere fn then s.output (.answer none)
  else s.output (.answer (some [(s.function fn).config item]))

/-- Whether a host write of an item sends a locked or running TDI to ERROR (Table 15-9). -/
def Function.breaks (f : Function) (item v : Nat) : Bool :=
  if item ≤ 1 then true
  else if item = 3 ∨ item = 4 then f.config item == 1 && v % 2 == 0
  else decide (5 ≤ item ∧ item ≤ 11) && (f.setConfig item v).config item != f.config item

/-- The functions whose TDI an item concerns: the VF BAR and the SR-IOV fields concern every VF. -/
def itemTargets (fn item : Nat) : List Nat :=
  if item = 10 ∨ item = 11 ∨ (item ≤ 1 ∧ fn ≠ 0) then (List.range 15).map fun i => i + 1 else [fn]

/-- HOST_CONFIG_WRITE: a host write of a configuration item; an item of Table 15-9 keeps its value while a TDI that it concerns
is not unlocked (R428, R431). -/
def execHostConfigWrite (fn item v : Nat) (s : State) : Host.Outcome State Fault Refusal :=
  if 16 ≤ fn ∨ s.root.stage.isNone = true ∨ s.root.recovery = true then .next s
  else
    let holder := if item = 10 ∨ item = 11 then 0 else fn
    let old := s.function holder
    let breaks := old.breaks item v
    let frozen := decide (item ≤ 11) && (itemTargets fn item).any fun f => decide ((s.function f).tdi ≠ .unlocked)
    let s1 := if frozen then s else (if item ≤ 1 then itemTargets fn item else [holder]).foldl (fun (s : State) f =>
      s.setFunction f ((s.function f).setConfig item v)) s
    .next (if breaks then (itemTargets fn item).foldl (fun (s : State) f => s.failInterface f) s1 else s1)

/-- FUNCTION_LEVEL_RESET: of a function, or of PF0 for all. -/
def execFunctionLevelReset (fn : Nat) (s : State) : Host.Outcome State Fault Refusal :=
  .next (if fn = 0 then s.failInterfaces else s.failInterface fn)

end Sys2Proof.Machine
end

