-- ==== Sys2Proof/Machine/Check.lean ====
section
/-! DEFINITION. The check engine: lane maps, column maps, counters, replays and patrol (17 R447 to R465), and the
measurement log that a new floor enters (19 R482). -/

namespace Sys2Proof.Machine

/-! ### The measurement log (19 R482) -/

/-- Measure an item of a kind: an entry of 64 bytes is appended, and M becomes the digest of M and the entry. -/
def State.measure (s : State) (kind value size digest : Nat) : State :=
  let n := s.root.log.length
  let entry := n % 2 ^ 32 + kind * 2 ^ 32 + value % 2 ^ 32 * 2 ^ 64 + size % 2 ^ 32 * 2 ^ 96 + digest % 2 ^ 256 * 2 ^ 128
  { s with root := { s.root with log := s.root.log ++ [entry], m := shakeNat 96 (s.root.m + 2 ^ 256 * entry) } }

/-- Measure a value (kinds 4 and 5): the entry's image size and digest are not stated, so they are free (log 15). -/
def State.measureValue (s : State) (kind value : Nat) : State :=
  s.tick.tick.measure kind value (Config.freeNat s.free) (Config.freeNat (s.free + 1))

/-! ### Lane maps (R447, R448, R450) -/

/-- DIS of a lane map. -/
def lmapDis (w : DWord) : Nat := natBits w.toNat 0 7
def State.lmapOf (s : State) (core bench : Nat) : DWord := Tab.get 0x7F (s.core core).lmap bench
def State.lfailOf (s : State) (core bench : Nat) : DWord := Tab.get 0 (s.core core).lfail bench

/-- Whether a physical lane has failed, by LFAIL and F64. -/
def laneFailed (lmap lfail : DWord) (p : Nat) : Bool := if p = 64 then lmap.getLsbD 47 else decide (p < 64) && lfail.getLsbD p

/-- The failed lanes of a bench that its LMAP shows. -/
def shownLanes (lmap lfail : DWord) : List Nat := (List.range 65).filter fun p => laneFailed lmap lfail p

/-- A lane map word (Table 17-1). -/
def lmapWord (deg off df : Bool) (failed : List Nat) (dis : Nat) : DWord :=
  BitVec.ofNat 64 (deg.toNat * 2 ^ 63 + off.toNat * 2 ^ 62 + df.toNat * 2 ^ 61 + failed.length * 2 ^ 48
    + (failed.contains 64).toNat * 2 ^ 47 + dis)
/-- LFAIL of a list of failed lanes. -/
def lfailWord (failed : List Nat) : DWord := BitVec.ofNat 64 ((failed.filter fun p => decide (p < 64)).foldl (fun acc p => acc + 2 ^ p) 0)

/-- Fewer than 32 good lanes remain. -/
def benchLost (failed : List Nat) : Bool := decide (33 < failed.length)

/-- The map of a bench after one more lane has failed (R450); a second failed lane sets DEG whatever firmware has named
(01 Table 1-6). -/
def failLane (lmap lfail : DWord) (p : Nat) : DWord × DWord :=
  let old := shownLanes lmap lfail
  let failed := old ++ [p]
  let deg := lmap.getLsbD 63
  let dis := lmapDis lmap
  let named := decide (dis ≠ 0x7F) && old.contains dis
  let w := if deg then lmapWord true (benchLost failed) (lmap.getLsbD 61) failed dis
    else if named then lmapWord true (benchLost failed) true failed dis
    else lmapWord (!old.isEmpty) (benchLost failed) true failed p
  (w, lfailWord failed)

/-- The map of a bench at stage 2, from the failure record (R448). -/
def startMap (failed : List Nat) : DWord :=
  match failed with
  | [] => 0x7F
  | x :: t =>
    let low := t.foldl min x
    lmapWord (decide (1 < failed.length)) (benchLost failed) true failed low

/-- The key of a bench in the failure record. -/
def benchKey (core bench : Nat) : Nat := 4 * core + bench

/-- A lane is declared failed: it enters the record, is counted, and its supervisor is told (R449). -/
def State.declareLane (s : State) (core bench p : Nat) : State :=
  let l := Tab.get [] s.root.lanes (benchKey core bench)
  let s1 : State := { s with root := { s.root with lanes := Tab.put s.root.lanes (benchKey core bench) (l ++ [p]) } }
  (s1.countCheck core 4).postEvent core { cause := .laneFailure, bench := bench, param := p }

/-- LANE_REISSUE: an instruction of a vector engine that failed its lane check is issued again. It passes, or its lane is
declared failed; the strand sees only the delay (R449). -/
def execLaneReissue (key lane : Nat) (passes : Bool) (s : State) : Host.Outcome State Fault Refusal :=
  let st := s.strand key
  if !(st.hot || st.sup) || decide (64 < lane) || (Tab.get [] s.root.lanes (benchKey st.core st.bench)).contains lane then .next s
  else
    let s1 := s.setStrand key { st with stall := 12 }
    .next (if passes then s1.countCheck st.core 3 else s1.declareLane st.core st.bench lane)

/-- A cohort of which a test holds receives machine check 4. -/
def State.offline (s : State) (p : Cohort → Bool) : State :=
  ((s.cohorts.filter fun x => p x.2 && !x.2.dead).map fun x => x.2.ccb).foldl (fun (s : State) c => s.machineCheck c 4) s

/-- A declared failure changes the map of its bench (R450). -/
def State.mapOutLane (s : State) (core bench : Nat) : State :=
  let lmap := s.lmapOf core bench
  let lfail := s.lfailOf core bench
  match (Tab.get [] s.root.lanes (benchKey core bench)).find? fun p => !laneFailed lmap lfail p with
  | none => s
  | some p =>
    let k := s.core core
    let (w, f) := failLane lmap lfail p
    let s1 := s.setCore core { k with lmap := Tab.put k.lmap bench w, lfail := Tab.put k.lfail bench f }
    if w.getLsbD 62 && !lmap.getLsbD 62 then
      s1.offline fun c => c.core == core && c.keys.any fun x => (s.strand x).hot && (s.strand x).bench == bench
    else s1

/-- LMAP_UPDATE: a declared failure changes the map of its bench (R450). -/
def execLmapUpdate (core bench : Nat) (s : State) : Host.Outcome State Fault Refusal := .next (s.mapOutLane core bench)

/-! ### `lmapw` (R451) -/

/-- Whether some instruction issued on a bench has not written, or its replay queue holds an entry. -/
def State.benchBusy (s : State) (core bench : Nat) : Bool :=
  !(Tab.get [] (s.core core).replays bench).isEmpty
    || s.strands.any fun x => (x.2.hot || (x.2.sup && decide (bench = 0))) && x.2.core == core && x.2.bench == bench
      && !(x.2.producers.isEmpty && x.2.floats.isEmpty)

/-- Whether a lane serves an architectural lane while DIS is as given. -/
def laneServes (dis p : Nat) : Bool := if dis = 0x7F then decide (p < 64) else p != dis

/-- The status of a write of DIS (Table 17-2). -/
def lmapStatus (lmap lfail : DWord) (a b : Nat) : Nat :=
  let dis := b % 128
  if a / 4 ≠ 0 ∨ b / 128 ≠ 0 ∨ (65 ≤ dis ∧ dis ≤ 0x7E) then 3
  else if lmap.getLsbD 63 ∨ lmap.getLsbD 62 then 2
  else if (shownLanes lmap lfail).any fun p => p != dis && laneServes dis p then 1
  else 0

/-- `lmapw`. -/
def execLmapw (e g : Bool) (d a b : Code) (s : State) : Host.Outcome State Fault Refusal :=
  let us : List Use := [⟨.ssrc, a, e⟩, ⟨.ssrc, b, g⟩, ⟨.sreg, d, false⟩]
  run s us [] false true fun s =>
    let core := s.cur.core
    let x := (s.ssrc a).toNat
    let y := (s.ssrc b).toNat
    let bench := x % 4
    let lmap := s.lmapOf core bench
    let st := lmapStatus lmap (s.lfailOf core bench) x y
    if s.benchBusy core bench then s.stallWith 12
    else
      let k := s.core core
      let dis := y % 128
      let df := laneFailed lmap (s.lfailOf core bench) dis
      let w : DWord := BitVec.ofNat 64 (lmap.toNat - natBits lmap.toNat 61 1 * 2 ^ 61 + df.toNat * 2 ^ 61 - lmapDis lmap + dis)
      let s1 := if st = 0 then s.setCore core { k with lmap := Tab.put k.lmap bench w } else s
      ((s1.popSources us).writeS d true (BitVec.ofNat 64 (st * 2 ^ 32 + lmapDis lmap))).advance

/-! ### Column maps (R453, R454) -/

/-- A column map word (Table 17-3) of failed columns. -/
def cmapWord (failed : List Nat) : DWord :=
  let sorted := (List.range 260).filter fun c => failed.contains c
  let n := sorted.length
  let inHalf (h : Nat) : Nat := (sorted.filter fun c => c / 130 == h).length
  let cols := (List.range 4).foldl (fun acc i => acc + sorted.getD i 0x1FF * 2 ^ (9 + 9 * i)) 0
  BitVec.ofNat 64 ((decide (4 < n)).toNat * 2 ^ 63 + (decide (2 < inHalf 0 ∧ 2 < inHalf 1)).toNat * 2 ^ 62
    + (decide (2 < inHalf 0 ∧ inHalf 1 ≤ 2)).toNat * 2 ^ 61 + cols + n)

/-- A column with a second mismatch is declared failed and mapped out; its supervisor is told, and a core left without a usable
half stops every cohort that holds a map entry on it (R453, R454). -/
def State.mapOutColumn (s : State) (core column : Nat) : State :=
  let k := s.core core
  if k.columnMiss.count column < 2 ∨ k.columnsFailed.contains column = true then s
  else
    let failed := k.columnsFailed ++ [column]
    let s1 := s.setCore core { k with columnsFailed := failed, cmap := cmapWord failed }
    let s2 : State := { s1 with root := { s1.root with columns := Tab.put s1.root.columns core failed } }
    let s3 := s2.postEvent core { cause := .laneFailure, param := 0x80 + column }
    if (cmapWord failed).getLsbD 62 && !k.cmap.getLsbD 62 then
      s3.offline fun c => (List.range 16).any fun i => (c.slot i).granted && (c.slot i).core == core
    else s3

/-- COLUMN_MAP_OUT: a column with a second mismatch is mapped out at an operation boundary (R454). -/
def execColumnMapOut (core column : Nat) (s : State) : Host.Outcome State Fault Refusal := .next (s.mapOutColumn core column)

/-- As time passes on a running device, what has been declared failed is mapped out: a lane at the next instruction boundary of
its bench, a column at the next operation boundary of its core (R450, R454). -/
def State.followMaps (s : State) : State :=
  if !s.online then s
  else
    let s1 := s.root.lanes.foldl (fun (s : State) x => s.mapOutLane (x.1 / 4) (x.1 % 4)) s
    s1.cores.foldl (fun (s : State) k => (distinct k.2.columnMiss).foldl (fun (s : State) c => s.mapOutColumn k.1 c) s) s1

/-! ### `chkm` (R461, R462) -/

/-- `chkm`: the bits of A that an operation uses, and its answer with the state after. -/
def chkm (bits : Nat) (f : State → Nat → State × DWord) (d a : Code) (s : State) : Host.Outcome State Fault Refusal :=
  let us : List Use := [⟨.ssrc, a, false⟩, ⟨.sreg, d, false⟩]
  run s us [] false true fun s =>
    let x := (s.ssrc a).toNat
    let (s1, v) := if x / 2 ^ bits ≠ 0 then (s, BitVec.allOnes 64) else f s x
    ((s1.popSources us).writeS d true v).advance

/-- FLOOR: the floor of the device; it enters the measurement log (19 Table 19-2, kind 4). The freeze of a TDI lasts until it is
unlocked (15 R431), so a write while one is in ERROR is ignored as one while one is locked is, and answers its status, which
Table 17-5 gives for CONFIG_LOCKED and RUN alone (log 118). -/
def State.setFloor (s : State) (v : Nat) : State × DWord :=
  let old := s.disp.floor
  if v = 3 then (s, BitVec.ofNat 64 (2 ^ 32 + old))
  else if s.link.functions.any fun f => decide (f.2.tdi ≠ .unlocked) then (s, BitVec.ofNat 64 (2 * 2 ^ 32 + old))
  else (({ s with disp := { s.disp with floor := v } } : State).measureValue 4 v, BitVec.ofNat 64 old)

def execChkmFloor (d a : Code) (s : State) := chkm 2 State.setFloor d a s
def execChkmLmap (d a : Code) (s : State) := chkm 2 (fun s x => (s, s.lmapOf s.cur.core x)) d a s
def execChkmLfail (d a : Code) (s : State) := chkm 2 (fun s x => (s, s.lfailOf s.cur.core x)) d a s
def execChkmCmap (d a : Code) (s : State) := chkm 0 (fun s _ => (s, (s.core s.cur.core).cmap)) d a s
/-- A counter of a core; those from 8 read zero. -/
def State.checkCounter (s : State) (x : Nat) : DWord := BitVec.ofNat 64 (if x < 8 then Tab.get 0 (s.core s.cur.core).counters x else 0)
def execChkmCnt (d a : Code) (s : State) := chkm 4 (fun s x => (s, s.checkCounter x)) d a s
def execChkmClr (d a : Code) (s : State) :=
  chkm 4 (fun s x => (s.setCore s.cur.core { s.core s.cur.core with counters := Tab.del (s.core s.cur.core).counters x },
    s.checkCounter x)) d a s

/-! ### Replays and patrol (R456 to R458, R463) -/

/-- CLONE_REPLAY: the oldest replay of a bench compares; a mismatch waits for the next compare point of its strand. -/
def execCloneReplay (core bench : Nat) (bad : Bool) (s : State) : Host.Outcome State Fault Refusal :=
  let k := s.core core
  match Tab.get [] k.replays bench with
  | [] => .next s
  | r :: t =>
    let s1 := s.setCore core { k with replays := Tab.set [] k.replays bench t }
    if !bad then .next s1
    else
      let st := s1.strand r.key
      .next ((s1.setStrand r.key { st with cloneBad := some (st.cloneBad.getD r.pc) }).countCheck core 6)

/-- PATROL_READ: a line of HBM is read and its correctable errors are corrected, which no read can tell. -/
def execPatrolRead (_line : Nat) (s : State) : Host.Outcome State Fault Refusal := .next s

end Sys2Proof.Machine
end

