-- ==== Sys2Proof/Machine/Guard.lean ====
section
/-! DEFINITION. The guard engine: declarations and shares, `msd`, `hstat`, `garm`, `msx`, the power-fail sequence, the
hold-up store and its classification (16 R432 to R446). -/

namespace Sys2Proof.Machine

/-! ### Charges and shares (R432, R433) -/

/-- The limit of all charges, in bytes. -/
def chargeLimit : Nat := 0x80000000
/-- The charge of an extent: its length in whole chunks. -/
def chargeOf (len : Nat) : Nat := (len + 65535) / 65536 * 65536
def Declaration.charge (d : Declaration) : Nat := (d.extents.map fun x => chargeOf x.len).sum
/-- The charges of a context, and of the device. -/
def Guard.chargesOf (g : Guard) (pasid : Nat) : Nat := ((g.declarations.filter fun d => d.pasid == pasid).map Declaration.charge).sum
def Guard.total (g : Guard) : Nat := (g.declarations.map Declaration.charge).sum
def Guard.share (g : Guard) (pasid : Nat) : Nat := Tab.get 0 g.shares pasid

/-- GSTAT (Table 16-5). -/
def Guard.status (g : Guard) : Nat :=
  g.epoch % 2 ^ 32 * 2 ^ 32 + (decide (chargeLimit ≤ g.total)).toNat * 16 + (g.held && g.sealed).toNat * 8 + g.held.toNat * 4
    + (decide (g.sequence = .slice)).toNat * 2
    + (decide (g.sequence ≠ .none ∧ g.sequence ≠ .ended)).toNat

/-! ### The hold-up store's extent table (Table 16-10) -/

/-- Entry i of the extent table: 32 bytes. -/
def extentEntry (d : Declaration) (i : Nat) (x : Extent) : Nat :=
  x.base + x.len * 2 ^ 64 + x.prio * 2 ^ 96 + i * 2 ^ 104 + d.handle * 2 ^ 128 + d.pasid * 2 ^ 160
    + (x.len + 65535) / 65536 * 2 ^ 192

/-- The extent table is written anew from the standing declarations, unless it belongs to a held log. -/
def Guard.writeTable (g : Guard) : Guard :=
  if g.held then g
  else
    let entries := g.declarations.flatMap fun d => d.extents.zipIdx.map fun x => extentEntry d x.2 x.1
    let clear := g.header.filter fun x => !(decide (0x10000 ≤ x.1 ∧ x.1 < 0x200000))
    { g with header := entries.zipIdx.foldl (fun (m : Memory) x => Memory.writeN m (0x10000 + 32 * x.2) 32 x.1) clear }

/-! ### `msd` (R434) -/

/-- The pages of an extent, by the address of their first byte. -/
def extentPages (base len : Nat) : List Nat :=
  (List.range ((base + len - 1) / 2 ^ 17 + 1 - base / 2 ^ 17)).map fun i => (base / 2 ^ 17 + i) * 2 ^ 17

/-- The local address of a page that may be declared: a present local leaf with R and LK (Table 16-2, status 5). -/
def State.lockedFrame (s : State) (pasid va : Nat) : Option Nat :=
  if 2 ^ 56 ≤ va then none
  else
    match s.rootOf pasid with
    | none => none
    | some root =>
      match s.rootWalk root va with
      | .leaf x l _ _ => if entLoc x = 0 ∧ entR x = true ∧ entLK x = true then some (leafPhys x l va).addr else none
      | .fail _ _ => none

/-- A descriptor of 16 bytes as an extent. -/
def descriptorExtent (v : Nat) : Extent := { base := natBits v 0 64, len := natBits v 64 32, prio := natBits v 96 8 }

/-- Whether a set of descriptors is malformed (Table 16-2, status 3). -/
def descriptorsBad (l : List Nat) : Bool :=
  let xs := l.map descriptorExtent
  l.any (fun v => natBits v 104 24 != 0)
    || xs.any (fun x => x.base % 128 != 0 || x.len % 128 != 0 || decide (x.len < 128 ∨ 2 ^ 31 < x.len ∨ 7 < x.prio ∨ 2 ^ 56 ≤ x.base)
      || inAperture (BitVec.ofNat 64 x.base))
    || xs.zipIdx.any fun a => xs.zipIdx.any fun b =>
      decide (a.2 < b.2 ∧ a.1.base < b.1.base + b.1.len ∧ b.1.base < a.1.base + a.1.len)

/-- The extents with the frames of their pages, if every page may be declared. -/
def State.framesOf (s : State) (pasid : Nat) (x : Extent) : Option Extent :=
  (allSome (s.lockedFrame pasid) (extentPages x.base x.len)).map fun f => { x with frames := f }

/-- A declaration of a context: the word of D, and the state after (Table 16-2). A handle is never given twice before the next
scrub (R433): once the counter has run out of its 32 bits a declaration is refused, with the status of the device's limit, which
Table 16-2 does not speak of (log 122). -/
def State.declare (s : State) (pasid : Nat) (l : List Nat) : State × Nat :=
  let g := s.guard
  let fail (n : Nat) : State × Nat := (s, n * 2 ^ 32)
  let held := ((g.declarations.filter fun d => d.pasid == pasid).map fun d => d.extents.length).sum
  if descriptorsBad l then fail 3
  else if 8 < held + l.length then fail 4
  else
    match allSome (s.framesOf pasid) (l.map descriptorExtent) with
    | none => fail 5
    | some xs =>
      let d : Declaration := { handle := g.nextHandle, pasid := pasid, extents := xs }
      if g.held then fail 6
      else if g.share pasid < g.chargesOf pasid + d.charge then fail 2
      else if chargeLimit < g.total + d.charge ∨ 2 ^ 32 ≤ g.nextHandle then fail 1
      else
        ({ s with guard := { g with
            declarations := g.declarations ++ [d], nextHandle := g.nextHandle + 1 }.writeTable }, d.handle)

/-- A withdrawal: the word of D, and the state after. -/
def State.undeclare (s : State) (pasid a : Nat) : State × Nat :=
  let g := s.guard
  if natBits a 32 32 ≠ 0 then (s, 3 * 2 ^ 32)
  else if g.declarations.any fun d => d.handle == a && d.pasid == pasid then
    ({ s with guard := { g with declarations := g.declarations.filter fun d => d.handle != a }.writeTable }, 0)
  else (s, 7 * 2 ^ 32)

/-- Read n descriptors at an address as loads of the thread, and go on with them and the producer's misses. -/
def State.withDescriptors (s : State) (va : DWord) (n : Nat) (k : State → Misses → List Nat → State) : State :=
  let st := s.cur
  let e := candidate st
  let reqs := (List.range n).map fun i => (0, va + BitVec.ofNat 64 (16 * i))
  let fail (l : List LaneFault) (s1 : State) : State := s1.settle [] (s1.faultRaises st e.pc .read (some e.mask) l)
  let (s1, ch) := s.checkLanes st .read .record 16 16 reqs
  if !ch.bad.isEmpty then fail ch.bad s1
  else
    let plan := s1.planMisses st.core false (ch.ok.map fun x => x.2.2)
    if plan.wait then s.stallWith 12
    else
      let (s2, l, late) := ch.ok.foldl (fun (acc : State × List Nat × List LaneFault) x =>
        match acc.1.readPlace st.core false 16 x.2.2 with
        | (t, .ok v) => (t, acc.2.1 ++ [v], acc.2.2)
        | (t, .error c) => (t, acc.2.1, acc.2.2 ++ [{ lane := 0, cause := c, va := x.2.1 }]))
          ((s1.reach st.core false (ch.ok.map fun x => x.2.2)).takeMisses st.core false plan, [], [])
      if !late.isEmpty then fail late (s2.dropReplies st.core plan.replies)
      else k (s2.watch st e.pc true false (16 * n) ((lanesOf e.mask).map fun l => (l, va))) plan l

/-- `msd` with its number. -/
def msdBody (e : Bool) (d a : Code) (n : Nat) (s : State) : Host.Outcome State Fault Refusal :=
  let us : List Use := [⟨.ssrc, a, e⟩, ⟨.sreg, d, false⟩]
  runPoint s us [] (decide (8 < n)) false fun s =>
    let pasid := s.pasidOf s.cur
    let va := s.ssrc a
    if n = 0 then
      let (s1, r) := s.undeclare pasid va.toNat
      ((s1.popSources us).writeS d true (BitVec.ofNat 64 r)).advance
    else
      s.withDescriptors va n fun s1 plan l =>
        let (s2, r) := (s1.popSources us).declare pasid l
        (s2.onCur fun st => st.produce d.toNat
          (scalarProducer s (candidate s.cur) d.toNat va plan { loc := .dev, addr := 0, uc := false, locked := false } r)).advance

/-- `msd`, and its form with n = 0. -/
def execMsd (e : Bool) (d a : Code) (n : BitVec 7) (s : State) : Host.Outcome State Fault Refusal := msdBody e d a n.toNat s
def execMsdWithdraw (e : Bool) (d a : Code) (s : State) : Host.Outcome State Fault Refusal := msdBody e d a 0 s

/-! ### `hstat` (R436) -/

/-- The classified extents that a strand sees, by handle. -/
def State.oldExtents (s : State) (st : Strand) : List Classified :=
  if !s.guard.held then []
  else if st.sup then s.guard.classes else s.guard.classes.filter fun c => c.pasid == s.pasidOf st

/-- The class of an extent: 1 whole, 2 torn, 3 absent (R445). -/
def Classified.kind (c : Classified) : Nat :=
  if c.verified.length = c.chunks then 1 else if c.verified.isEmpty then 3 else 2

/-- What `hstat` reads. -/
def State.holdupWord (s : State) (st : Strand) (sel a : Nat) : Nat :=
  let g := s.guard
  let pasid := s.pasidOf st
  let mine := s.oldExtents st
  let ofHandle := mine.filter fun c => c.handle == a % 2 ^ 32
  match sel with
  | 0 => g.status
  | 1 => g.chargesOf pasid
  | 2 => g.share pasid
  | 3 => chargeLimit - g.total
  | 4 =>
    if ofHandle.isEmpty then 0
    else
      2 ^ 63 + g.sealed.toNat * 2 ^ 62 + ofHandle.length * 2 ^ 16
        + ofHandle.foldl (fun acc c => acc + c.kind * 2 ^ (2 * c.index)) 0
  | 5 =>
    match ofHandle.find? fun c => c.index == natBits a 32 3 with
    | some c => c.verified.length + c.chunks * 2 ^ 32
    | none => 0
  | _ => ((mine.foldl (fun l c => insertNat c.handle l) []).getD (a % 8) 0)

/-- `hstat`: selectors 0 to 3 take no A. -/
def hstatBody (e : Bool) (d a : Code) (sel : Nat) (s : State) : Host.Outcome State Fault Refusal :=
  let plain := decide (sel ≤ 3)
  let us : List Use := if plain then [⟨.sreg, d, false⟩] else [⟨.ssrc, a, e⟩, ⟨.sreg, d, false⟩]
  run s us [] (decide (6 < sel) || (plain && (e || decide (a ≠ 0)))) false fun s =>
    let v := s.holdupWord s.cur sel (if plain then 0 else (s.ssrc a).toNat)
    ((s.popSources us).writeS d true (BitVec.ofNat 64 v)).advance

def execHstat (d : Code) (sel : BitVec 7) (s : State) : Host.Outcome State Fault Refusal := hstatBody false d 0 sel.toNat s
def execHstatLog (e : Bool) (d a : Code) (sel : BitVec 7) (s : State) : Host.Outcome State Fault Refusal :=
  hstatBody e d a sel.toNat s

/-! ### `garm` (R437) -/

/-- What `garm` does: the word of D, and the state after. -/
def State.garmOp (s : State) (a b : Nat) : State × Nat :=
  let g := s.guard
  let pasid := natBits a 0 20
  let known := decide (pasid = 0) || (s.slotOf pasid).isSome
  if a / 2 ^ 22 ≠ 0 then (s, 2 * 2 ^ 32)
  else
    match natBits a 20 2 with
    | 0 =>
      if !known then (s, 2 ^ 32)
      else
        let new := min b chargeLimit / 65536 * 65536
        (({ s with guard := { g with shares := Tab.set 0 g.shares pasid new } } : State).countClamp (decide (chargeLimit < b)),
          g.share pasid / 65536)
    | 1 => if b ≠ 0 then (s, 2 * 2 ^ 32) else if !known then (s, 2 ^ 32) else (s, g.share pasid / 65536)
    | 2 =>
      if pasid ≠ 0 ∨ b ≠ 0 then (s, 2 * 2 ^ 32)
      else if !g.held then (s, 2 ^ 32)
      else ({ s with guard := { g with held := false, sealed := false, classes := [], erasing := true } }, 0)
    | _ => (s, 2 * 2 ^ 32)

/-- `garm`: the operation stands in A. -/
def garmBody (e g : Bool) (d a b : Code) (s : State) : Host.Outcome State Fault Refusal :=
  let us : List Use := [⟨.ssrc, a, e⟩, ⟨.ssrc, b, g⟩, ⟨.sreg, d, false⟩]
  run s us [] false true fun s =>
    let (s1, r) := s.garmOp (s.ssrc a).toNat (s.ssrc b).toNat
    ((s1.popSources us).writeS d true (BitVec.ofNat 64 r)).advance

/-- The operations share their words; each runs what A names. -/
def execGarmShare (e g : Bool) (d a b : Code) (s : State) : Host.Outcome State Fault Refusal := garmBody e g d a b s
def execGarmRead (e g : Bool) (d a b : Code) (s : State) : Host.Outcome State Fault Refusal := garmBody e g d a b s
def execGarmRelease (e g : Bool) (d a b : Code) (s : State) : Host.Outcome State Fault Refusal := garmBody e g d a b s

/-! ### `msx` (R446) -/

/-- The valid bytes of a chunk of an extent. -/
def chunkBytes (len chunk : Nat) : Nat := min 65536 (len - 65536 * chunk)

/-- The pieces of 128 bytes of a chunk, by offset in it. -/
def chunkPieces (len chunk : Nat) : List Nat := (List.range (chunkBytes len chunk / 128)).map fun i => 128 * i

/-- Write 128 bytes of an extract as a store of the thread, to an MMIO page as stores of 8 bytes: over a link that is down it
is lost. -/
def State.extractPiece (s : State) (st : Strand) (m : Mask) (va : DWord) (p : Place) (v : Nat) : State :=
  let l : List (DWord × Phys × Nat) := match p with
    | .phys q => [(va, q, v)]
    | .scratch _ _ | .line _ _ _ | .gone => []
  let far := s.outstandingOf st m 128 l
  let mark := (s.core st.core).holdsOrdered
  let s1 := match p with
    | .phys q =>
      if q.loc = .mmio then
        (List.range 16).foldl (fun (s : State) i => s.writePlace st.core mark 8 (natBits v (64 * i) 64) (p.shift (8 * i))) s
      else s.writePlace st.core mark 128 v p
    | .scratch _ _ | .line _ _ _ | .gone => s.writePlace st.core mark 128 v p
  far.foldl (fun (s : State) o =>
    let down := if o.peer then o.cells.any fun x => !s.peerUp (x.1 / 2 ^ 42) else !s.hostUp
    if down then s.loseStore st.core o else s) s1

/-- `msx`. -/
def execMsx (e g : Bool) (d a b : Code) (s : State) : Host.Outcome State Fault Refusal :=
  let us : List Use := [⟨.ssrc, a, e⟩, ⟨.ssrc, b, g⟩, ⟨.sreg, d, false⟩]
  runPoint s us [] false false fun s =>
    let st := s.cur
    let en := candidate st
    let x := (s.ssrc a).toNat
    let va := s.ssrc b
    let answer (s : State) (r : Nat) : State := ((s.popSources us).writeS d true (BitVec.ofNat 64 r)).advance
    if x / 2 ^ 35 ≠ 0 ∨ va.toNat % 128 ≠ 0 then answer s (3 * 2 ^ 32)
    else
      match (s.oldExtents st).find? fun c => c.handle == x % 2 ^ 32 && c.index == natBits x 32 3 with
      | none => answer s (7 * 2 ^ 32)
      | some c =>
        let all := (List.range (c.len / 128)).map fun i => (0, va + BitVec.ofNat 64 (128 * i))
        let (s1, ch) := s.checkLanes st .write .record 128 128 all
        if !ch.bad.isEmpty then s1.settle [] (s1.faultRaises st en.pc .write (some en.mask) ch.bad)
        else
          let todo := c.verified.flatMap fun v => (chunkPieces c.len v.1).map fun o => (65536 * v.1 + o, 65536 * v.2 + o)
          let s2 := todo.foldl (fun (s : State) t =>
            match ch.ok[t.1 / 128]? with
            | some p => s.extractPiece st en.mask p.2.1 p.2.2 (Memory.readN s.guard.data t.2 128)
            | none => s) (s1.reach st.core true (todo.filterMap fun t => ch.ok[t.1 / 128]?.map fun p => p.2.2))
          let s3 := s2.watch st en.pc false true 128
            (todo.flatMap fun t => (lanesOf en.mask).map fun l => (l, va + BitVec.ofNat 64 t.1))
          answer s3 ((c.verified.map fun v => chunkBytes c.len v.1).sum)

/-! ### The power-fail sequence (R438 to R443) -/

/-- POWER_FAIL: the sequence starts: issue stops, events, monitors and rendezvous are dropped, moves are abandoned
(Tables 16-6 and 16-7). A sequence that writes a log is a hold-up, which the epoch counts (log 103). After a trip none
runs (01 R18). -/
def execPowerFail (s : State) : Host.Outcome State Fault Refusal :=
  if s.root.stage.isNone || s.root.hold || s.root.tripped || decide (s.guard.sequence ≠ .none) then .next s
  else
    let noLog := s.guard.held || decide (s.root.lease = .revoking ∨ s.root.lease = .scrubbing)
    let g := { s.guard.writeTable with
      sequence := .drain, since := s.now, noLog := noLog, epoch := s.guard.epoch + (!noLog).toNat, skipped := [], chunks := [], written := 0,
      tripped := false, abandoned := false, pointers := [], drained := [], returned := false }
    .next { s with
      guard := g, monitors := [],
      cores := s.cores.map fun k => (k.1, { k.2 with evq := [], held := [], latch := [], tags := [], tagWait := [] }),
      cohorts := s.cohorts.map fun c => (c.1, { c.2 with leaving := none, stopping := false, meet := none, request := none, kept := [] }) }

/-- Whether n bytes at a local address lie in a standing extent. -/
def Guard.covers (g : Guard) (a n : Nat) : Bool :=
  g.declarations.any fun d => d.extents.any fun x => x.frames.zipIdx.any fun f =>
    let page := (x.base / 2 ^ 17 + f.2) * 2 ^ 17
    let lo := max x.base page
    let hi := min (x.base + x.len) (page + 2 ^ 17)
    decide (f.1 + (lo - page) ≤ a ∧ a + n ≤ f.1 + (hi - page))

/-- A write of protected state back into memory: made only inside a standing extent (R440). -/
def State.protectedWrite (s : State) (pasid va n v : Nat) : State :=
  match s.engineAddr pasid va with
  | some p => if p.loc = .dev ∧ s.guard.covers p.addr n = true then s.putBytes .dev p.addr n v else s
  | none => s

/-- The protected state of a resident cohort: control areas and lines, and scratch. -/
def State.protectCohort (s : State) (ccb : DWord) : State :=
  let c := s.cohort ccb
  let s1 := c.keys.foldl (fun (s : State) k =>
    let st := s.strand k
    let ws := st.controlWords
    let s1 := (List.range 128).foldl (fun (s : State) i =>
      s.protectedWrite c.pasid (st.cib.toNat + 8 * i) 8 (((ws.find? fun w => w.1 == 8 * i).map fun w => w.2).getD 0)) s
    ((List.range st.nlines).filter fun n => !st.absent.getLsbD n).foldl (fun (s : State) n =>
      (List.range 32).foldl (fun (s : State) i =>
        s.protectedWrite c.pasid (st.cib.toNat + 0x1000 + 0x100 * n + 8 * i) 8 (natBits (lineNat (st.line n)) (64 * i) 64)) s) s1) s
  (List.range ((c.variant.scratch + 7) / 8)).foldl (fun (s : State) i =>
    s.protectedWrite c.pasid (c.scratchImage.toNat + 8 * i) 8 (Memory.readN c.scratch (8 * i) 8)) s1

/-- The accumulators of the resident entries of a cohort, whose slots keep them while it is swapped out (11 R307). -/
def State.protectSlots (s : State) (ccb : DWord) : State :=
  let c := s.cohort ccb
  (List.range 16).foldl (fun (s : State) i =>
    let x := c.slot i
    if x.granted && x.resident then
      (List.range 8192).foldl (fun (s : State) e =>
        s.protectedWrite c.pasid (accImage ccb i + 8 * e) 8 ((s.core x.core).acc x.phys (e / 128) (e % 128))) s
    else s) s

/-- The copy commands under way, as the pointer log keeps them: CCB, PWA, b + n and channel. -/
def State.pointerLog (s : State) : List (Nat × Nat × Nat × Nat) :=
  let of (ccb : Nat) (t : Tab (List Command)) : List (Nat × Nat × Nat × Nat) := t.filterMap fun x =>
    match x.2 with
    | m :: _ => if m.started then some (ccb, m.pwa.toNat, (m.base + m.delivered) % 2 ^ 64, x.1) else none
    | [] => none
  (s.cohorts.flatMap fun c => of c.1 c.2.channels) ++ s.cores.flatMap fun k => of 0 k.2.channels

/-- Whether what was issued has completed and been compared (R439; 17 R465), but for accesses to host and peers. -/
def State.workDone (s : State) : Bool :=
  (s.strands.all fun x => x.2.floats.isEmpty && x.2.producers.all fun p => p.hostLanes != 0 || p.peerLanes != 0)
    && !s.cores.any fun k => !k.2.mxOps.isEmpty || k.2.replays.any fun r => !r.2.isEmpty

/-- Whether an access to the host or a peer is not answered. -/
def State.farWork (s : State) : Bool :=
  (s.strands.any fun x => !x.2.producers.isEmpty)
    || s.cores.any fun k => !(k.2.outstanding.isEmpty && k.2.relaxed.isEmpty && k.2.peerCopies.isEmpty)

/-- The accesses of a core to the host and to peers that are not answered are abandoned, each byte of their writes with its old or
its new value; its events are dropped (Table 16-7). -/
def State.abandon (s : State) (c : Nat) : State :=
  let k := s.core c
  let s1 := k.outstanding.foldl (fun (s : State) o => s.loseStore c o) (s.setCore c { k with outstanding := [] })
  let s2 := k.relaxed.foldl (fun (s : State) w => s.loseCells .host w.cells) s1
  let s3 := k.peerCopies.foldl (fun (s : State) w =>
    (s.loseCells .peer w.cells).cutCommand c w) (s2.setCore c { s2.core c with peerCopies := [] })
  s3.setCore c { s3.core c with evq := [], held := [], relaxed := [], flushing := [] }

/-- A sequence that has ended leaves the device in a hold where the supply has returned during it, or a trip has come (R443). -/
def State.endSequence (s : State) : State :=
  { s with
    guard := { s.guard with sequence := .ended }
    root := { s.root with hold := s.root.hold || s.guard.returned || s.guard.tripped } }

/-- DRAIN_COMPLETE: what was issued has completed; accesses to host and peers are answered, or 300 µs have passed and they are
abandoned; acknowledged CXL.mem writes are performed, and protected state is written back; the policy slice opens (R439, R440).
With a log held nothing more is done (R443). -/
def execDrainComplete (s : State) : Host.Outcome State Fault Refusal :=
  let late := s.farWork
  if s.guard.sequence ≠ .drain ∨ s.workDone = false ∨ (late = true ∧ s.now - s.guard.since < 300 * cyclesPerMicro) then .next s
  else
    let s0 : State := { s.drainIngress with strands := s.strands.map fun x => (x.1, { x.2 with producers := [] }) }
    let s1 := (s0.cores.map fun k => k.1).foldl (fun (s : State) c => s.abandon c) s0
    let s2 := (s1.cohorts.map fun c => c.2.ccb).foldl (fun (s : State) c =>
      (if s.resident c then s.protectCohort c else s).protectSlots c) s1
    let s3 : State := { s2 with guard := { s2.guard with
      sequence := .slice, sliceAt := s2.now, abandoned := late, pointers := s1.pointerLog, drained := s2.local_ } }
    .next (if s3.guard.noLog then s3.endSequence else s3)

/-- The order in which extents are written (R441): priority falling, context slots rising with the firmware space last,
handles rising, indices rising. -/
def State.writeKey (s : State) (d : Declaration) (i : Nat) (x : Extent) : List Nat :=
  [7 - x.prio, if d.pasid = 0 then 4096 else (s.slotOf d.pasid).getD 4096, d.handle, i]
/-- The chunks to be written, in order; skipped declarations are passed over. -/
def State.chunkList (s : State) : List Chunk :=
  let all := (s.guard.declarations.filter fun d => !s.guard.skipped.contains d.handle).flatMap fun d =>
    d.extents.zipIdx.map fun x => (s.writeKey d x.2 x.1, d, x.2, x.1)
  (all.foldl (fun l x => insertKeyed x l) []).flatMap fun x =>
    (List.range ((x.2.2.2.len + 65535) / 65536)).map fun c => { decl := x.2.1, index := x.2.2.1, chunk := c }

/-- The policy slice ends, and the writes begin. -/
def State.endSlice (s : State) : State := { s with guard := { s.guard with sequence := .writes, chunks := s.chunkList } }

/-- GDONE: firmware writes 1 in the slice. -/
def execGdone (s : State) : Host.Outcome State Fault Refusal :=
  .next (if s.guard.sequence = .slice then s.endSlice else s)

/-- GSKIP: firmware skips a declaration in the slice; outside it the write is ignored. -/
def execGskip (handle : Nat) (s : State) : Host.Outcome State Fault Refusal :=
  let g := s.guard
  if g.sequence = .slice ∧ (g.declarations.any fun d => d.handle == handle) = true ∧ g.skipped.contains handle = false then
    .next { s with guard := { g with skipped := g.skipped ++ [handle] } }
  else .next s

/-- POLICY_SLICE_END: 500 µs have passed since the end of the drain. -/
def execPolicySliceEnd (s : State) : Host.Outcome State Fault Refusal :=
  .next (if s.guard.sequence = .slice ∧ 500 * cyclesPerMicro ≤ s.now - s.guard.sliceAt then s.endSlice else s)

/-- The valid bytes of a chunk as they stood in its frames at the end of the drain: byte j (R440). -/
def State.chunkByte (s : State) (x : Extent) (chunk j : Nat) : Nat :=
  let va := x.base + 65536 * chunk + j
  (Memory.read s.guard.drained (x.frames.getD (va / 2 ^ 17 - x.base / 2 ^ 17) 0 + va % 2 ^ 17)).toNat

/-- The first 32 bytes of a chunk header (Table 16-8). -/
def chunkHeader (n handle index prio chunk bytes pasid epoch : Nat) : Nat :=
  n + handle * 2 ^ 64 + index * 2 ^ 96 + prio * 2 ^ 104 + chunk * 2 ^ 128 + bytes * 2 ^ 160 + pasid * 2 ^ 192
    + epoch % 2 ^ 32 * 2 ^ 224

/-- The digest of a chunk: its header's first 32 bytes and its valid bytes. -/
def chunkDigest (head bytes : Nat) (byte : Nat → Nat) : Nat :=
  shake256 (32 + bytes) fun i => if i < 32 then head / 256 ^ i % 256 else byte (i - 32)

/-- EXTENT_WRITES: the next chunk is written to the data area, and then its header; after the last the log is sealed. -/
def execExtentWrites (s : State) : Host.Outcome State Fault Refusal :=
  let g := s.guard
  if g.sequence ≠ .writes then .next s
  else
    match g.chunks with
    | [] => .next { s with guard := { g with sequence := .seal } }
    | c :: t =>
      let x := c.decl.extents.getD c.index { base := 0, len := 0, prio := 0 }
      let n := g.written + 1
      let bytes := chunkBytes x.len c.chunk
      let head := chunkHeader n c.decl.handle c.index x.prio c.chunk bytes c.decl.pasid g.epoch
      let byte := s.chunkByte x c.chunk
      let data := (List.range bytes).foldl (fun (m : Memory) j => Memory.write m (65536 * (n - 1) + j) (BitVec.ofNat 8 (byte j))) g.data
      let at_ := 0x200000 + 64 * (n - 1)
      .next { s with guard := { g with
        chunks := t, written := n, data := data,
        header := Memory.writeN (Memory.writeN g.header at_ 32 head) (at_ + 32) 32 (chunkDigest head bytes byte) } }

/-- The digest of the header area that the seal record holds (Table 16-9). -/
def sealDigest (h : Memory) : Nat := shake256 (0x580000 - 0x100) fun i => (Memory.read h (0x100 + i)).toNat

/-- The first 32 bytes of the seal record. -/
def Guard.sealHead (g : Guard) : Nat :=
  0x53444C48 + g.epoch % 2 ^ 32 * 2 ^ 32 + g.written * 2 ^ 64 + g.skipped.length * 2 ^ 96
    + (g.tripped.toNat + 2 * g.abandoned.toNat) * 2 ^ 128

/-- SEAL: the policy note, the pointer log and then the seal record are written; the log is held (R442, R444). -/
def execSealLog (s : State) : Host.Outcome State Fault Refusal :=
  let g := s.guard
  if g.sequence ≠ .seal then .next s
  else
    let h1 := (List.range 256).foldl (fun (m : Memory) i => Memory.write m (0x100 + i) (Memory.read g.note i)) g.header
    let h2 := g.pointers.zipIdx.foldl (fun (m : Memory) x =>
      Memory.writeN m (0x400000 + 32 * x.2) 32 (x.1.1 + x.1.2.1 * 2 ^ 64 + x.1.2.2.1 * 2 ^ 128 + x.1.2.2.2 * 2 ^ 192)) h1
    let h3 := Memory.writeN (Memory.writeN h2 0 32 g.sealHead) 32 32 (sealDigest h2)
    .next ({ s with guard := { g with header := h3, held := true } } : State).endSequence

/-! ### After the sequence (R443 to R445) -/

/-- SUPPLY_RETURN: the sequence runs on to its end, and the device then holds until a reset (R443). -/
def execSupplyReturn (s : State) : Host.Outcome State Fault Refusal :=
  .next (match s.guard.sequence with
    | .none => s
    | .ended => { s with root := { s.root with hold := true } }
    | .drain | .slice | .writes | .seal => { s with guard := { s.guard with returned := true } })

/-- LOG_ERASE: both areas of a released log are erased; what `msd` keeps there of standing declarations stays (R444). -/
def execLogErase (s : State) : Host.Outcome State Fault Refusal :=
  let g := s.guard
  .next (if g.erasing ∧ g.held = false ∧ (g.sequence = .none ∨ g.sequence = .ended) then
    { s with guard := { g with data := [], header := [], erasing := false }.writeTable } else s)

/-- The entries of the extent table of the store, up to the first that is empty. -/
def tableEntries (h : Memory) : Nat → Nat → List Nat
  | 0, _ => []
  | fuel + 1, i =>
    let v := Memory.readN h (0x10000 + 32 * i) 32
    if v = 0 then [] else v :: tableEntries h fuel (i + 1)

/-- Whether frame f of the store holds a verified chunk of an extent: its chunk index. -/
def Guard.verifiedChunk (g : Guard) (entry f : Nat) : Option Nat :=
  let at_ := 0x200000 + 64 * f
  let head := Memory.readN g.header at_ 32
  let chunk := natBits head 128 32
  let len := natBits entry 64 32
  let bytes := chunkBytes len chunk
  let agrees := head == chunkHeader (f + 1) (natBits entry 128 32) (natBits entry 104 3) (natBits entry 96 8) chunk bytes
    (natBits entry 160 20) g.epoch
  if agrees && decide (chunk < natBits entry 192 32)
      && Memory.readN g.header (at_ + 32) 32 == chunkDigest head bytes (fun j => (Memory.read g.data (65536 * f + j)).toNat) then
    some chunk
  else none

/-- The frames of the store that bear a chunk header. -/
def Guard.framesWritten (g : Guard) : List Nat := (List.range 32768).filter fun f => Memory.readN g.header (0x200000 + 64 * f) 8 != 0

/-- Classify every extent of the held log, and judge its seal (R445). -/
def Guard.classify (g : Guard) : Guard :=
  if !g.held then { g with classes := [], sealed := false }
  else
    let frames := g.framesWritten
    { g with
      classes := (tableEntries g.header 63488 0).map fun v =>
        { handle := natBits v 128 32, pasid := natBits v 160 20, index := natBits v 104 3, len := natBits v 64 32,
          chunks := natBits v 192 32, verified := frames.filterMap fun f => (g.verifiedChunk v f).map fun c => (c, f) }
      sealed := Memory.readN g.header 0 4 == 0x53444C48 && Memory.readN g.header 32 32 == sealDigest g.header }

end Sys2Proof.Machine
end

