-- ==== Sys2Proof/Machine/Trace.lean ====
section
/-! DEFINITION. The trace engine: code comparators and watchpoints, halting and resuming, record rings and sampling
(18 R466 to R478). -/

namespace Sys2Proof.Machine

/-! ### `bpset` and `wpset` (R469, R471) -/

/-- Whether the operands of `bpset` are refused (Table 18-1); a disabled comparator ignores every field but its index. -/
def bpReserved (a b : Nat) : Bool :=
  natBit a 63 && (natBits a 51 12 != 0 || natBits a 0 2 != 0 || natBits b 52 3 == 7
    || (if natBit b 56 then decide (63 < natBits b 57 7) else decide (95 < natBits b 57 7)))

/-- Whether the operands of `wpset` are refused. -/
def wpReserved (a b : Nat) : Bool :=
  natBits a 56 8 != 0 || natBits b 10 2 != 0 || natBits b 32 32 != 0
    || decide (natBits b 0 6 < 3 ∨ 30 < natBits b 0 6) || a % 2 ^ natBits b 0 6 != 0

/-- `bpset` and `wpset`: the words are written, or status 1 is given. -/
def setPoint (refuses : Nat → Nat → Bool) (put : Core → DWord → DWord → Core) (e g : Bool) (d a b : Code) (s : State) :
    Host.Outcome State Fault Refusal :=
  let us : List Use := [⟨.ssrc, a, e⟩, ⟨.ssrc, b, g⟩, ⟨.sreg, d, false⟩]
  run s us [] false true fun s =>
    let x := s.ssrc a
    let y := s.ssrc b
    let bad := refuses x.toNat y.toNat
    let core := s.cur.core
    let s1 := if bad then s else s.setCore core (put (s.core core) x y)
    ((s1.popSources us).writeS d (popsInto us) (if bad then 1 else 0)).advance

/-- `bpset`. -/
def execBpset (e g : Bool) (d a b : Code) (s : State) : Host.Outcome State Fault Refusal :=
  setPoint bpReserved (fun k x y => { k with codePoints := Tab.put k.codePoints (natBits x.toNat 48 3) (x, y) }) e g d a b s
/-- `wpset`. -/
def execWpset (e g : Bool) (d a b : Code) (s : State) : Host.Outcome State Fault Refusal :=
  setPoint wpReserved (fun k x y => { k with watchPoints := Tab.put k.watchPoints (natBits y.toNat 8 2) (x, y) }) e g d a b s

/-! ### Code hits (R470) -/

/-- The condition of a comparator on a register value. -/
def pointHolds (op : Nat) (v imm : Word) : Bool :=
  match op with
  | 0 => true
  | 1 => v == imm
  | 2 => v != imm
  | 3 => decide (v.toNat < imm.toNat)
  | 4 => decide (imm.toNat ≤ v.toNat)
  | 5 => decide (v.toInt < imm.toInt)
  | 6 => decide (imm.toInt ≤ v.toInt)
  | _ => false

/-- What a test of a comparator finds. -/
inductive PointTest where
  | no
  | wait (reason : Nat)
  | hit (lanes : Mask) (value : Nat → DWord)

/-- Test one enabled comparator at the entry that issues; a line that is not resident is filled first (01 R8). -/
def Strand.testPoint (st : Strand) (e : Entry) (b : Nat) : PointTest :=
  let op := natBits b 52 3
  let rn := natBits b 57 7
  let imm : Word := BitVec.ofNat 32 (natBits b 0 32)
  let m : Mask := if st.shadow then e.mask &&& 0xFFFFFFFF else e.mask
  if op = 0 then .hit e.mask fun _ => 0
  else
    let decideOn (v : Nat → DWord) : PointTest :=
      let held := maskOf fun l => m.getLsbD l && pointHolds op (BitVec.ofNat 32 (v l).toNat) imm
      if natBit b 55 then (if held = m then .hit held v else .no)
      else if held = 0 then .no else .hit held v
    if natBit b 56 then
      if st.sFull.getLsbD rn then decideOn fun _ => st.scalar rn else .wait 8
    else if st.nlines ≤ st.wb + rn then .no
    else if st.absent.getLsbD (st.wb + rn) then .wait 7
    else if st.vFull.getLsbD (st.wb + rn) then decideOn fun l => (laneOf (st.line (st.wb + rn)) l).zeroExtend 64
    else .wait 8

/-- The comparators that apply to an issue of the current strand. -/
def State.pointsAt (s : State) (e : Entry) : List (Nat × Nat) :=
  let st := s.cur
  if st.sup then []
  else
    ((s.core st.core).codePoints.filter fun x => x.2.1.getLsbD 63 && natBits x.2.1.toNat 2 46 * 4 == e.pc.toNat
      && natBits x.2.2.toNat 32 20 == s.pasidOf st).map fun x => (x.1, x.2.2.toNat)

/-- A code hit: lane records of each comparator that hit, and the cohort stops; the entry stays where it is (R470, R472). -/
def State.codeHit (s : State) (e : Entry) (hits : List (Nat × Mask × (Nat → DWord))) : State :=
  let st := s.cur
  let s1 := hits.foldl (fun (s : State) h => s.laneRecords st 1 h.1 h.2.1 e.pc h.2.2) s
  (s1.setCur { s1.cur with passed := some e.pc, stall := 0 }).stopCohort st.ccb 1

/-- The entry of a strand that hit has issued once since, or is gone (R474): SKIP clears when no strand has one left. -/
def State.passPoints (s : State) (key : Nat) : State :=
  let s1 := s.setStrand key { s.strand key with passed := none }
  let c := s1.cohort (s1.strand key).ccb
  if !c.skip || c.keys.any fun k => (s1.strand k).passed.isSome then s1
  else (s1.setCohort c.ccb { c with skip := false }).engineWrite c.pasid (c.ccb.toNat + 0xF8) 8 ({ c with skip := false } : Cohort).haltWord

/-- Whether the entry that hit has been removed. -/
def Strand.passedGone (st : Strand) : Bool :=
  match st.passed with
  | some p => st.frontier.all fun e => decide (e.pc ≠ p)
  | none => false

/-- Entries that hit and have been removed are forgotten as time passes (R474). -/
def State.followSkips (s : State) : State :=
  s.strands.foldl (fun (t : State) x => if x.2.passedGone then t.passPoints x.1 else t) s

/-- The instruction that hit, at its first attempts after `resm`: it has passed once it issues (R474). -/
def passOnce (r : Host.Outcome State Fault Refusal) : Host.Outcome State Fault Refusal :=
  match r with
  | .next t => .next (if t.cur.stall = 0 ∧ Tab.has t.strands t.curKey = true then t.passPoints t.curKey else t)
  | .fault f => .fault f
  | .refused x => .refused x

/-- The comparators before an issue: a hit, a wait, or on to the instruction. -/
def State.breakAt (s : State) (e : Entry) (k : State → Host.Outcome State Fault Refusal) : Host.Outcome State Fault Refusal :=
  let st := s.cur
  if s.curCohort.skip && st.passed == some e.pc then passOnce (k s)
  else
    let tests := (s.pointsAt e).map fun x => (x.1, st.testPoint e x.2)
    let waits := tests.filterMap fun t => match t.2 with | .wait r => some r | .no | .hit _ _ => none
    let hits := tests.filterMap fun t => match t.2 with | .hit m v => some (t.1, m, v) | .no | .wait _ => none
    match waits with
    | r :: t => .next (s.stallWith (t.foldl min r))
    | [] => if hits.isEmpty then k s else .next (s.codeHit e hits)

/-! ### Stopping, halting and resuming (R472 to R474) -/

/-- DEBUG_STOP: a cohort that a hit has stopped is swapped out, with its span. -/
def execDebugStop (ccb : Nat) (s : State) : Host.Outcome State Fault Refusal :=
  let key : DWord := BitVec.ofNat 64 ccb
  let c := s.cohort key
  if !s.acting || !c.stopping || c.dead then .next s
  else if !s.resident key then .next ((s.setCohort key { c with stopping := false }).showWord key 0xF8 c.haltWord)
  else
    let s1 := s.sendAway key .out
    .next (if s1.groupQuiet key then s1.swapOut key else s1)

/-- The record of a `halt` for each strand of a resident cohort, or one with PC 0. -/
def State.haltRecords (s : State) (ccb : DWord) : State :=
  let c := s.cohort ccb
  if s.resident ccb then
    c.keys.foldl (fun (s : State) k =>
      let st := s.strand k
      match candidate? st with
      | some e => s.laneRecord st 3 0 ((lanesOf e.mask).head?.getD 0) e.pc 0
      | none => s) s
  else s.laneRecord { Strand.fresh 0 with ccb := ccb, core := s.cur.core } 3 0 0 0 0

/-- `halt`. -/
def execHalt (e : Bool) (d a : Code) (s : State) : Host.Outcome State Fault Refusal :=
  let us : List Use := [⟨.ssrc, a, e⟩, ⟨.sreg, d, false⟩]
  run s us [] false true fun s =>
    let ccb := s.ssrc a
    let c := s.cohort ccb
    let answer (s : State) (r : DWord) : State := ((s.popSources us).writeS d (popsInto us) r).advance
    if s.liveCohort ccb = false then answer s 2
    else if s.asksOut c then s.awaitOut ccb fun s => answer s 0
    else if c.halted then answer s 1
    else
      let s1 := s.haltRecords ccb
      let c1 := { s1.cohort ccb with halted := true, why := 3 }
      ((s1.setCohort ccb c1).showWord ccb 0xF8 c1.haltWord).awaitOut ccb fun s => answer s 0

/-- `resm`. -/
def execResm (e : Bool) (d a : Code) (s : State) : Host.Outcome State Fault Refusal :=
  let us : List Use := [⟨.ssrc, a, e⟩, ⟨.sreg, d, false⟩]
  run s us [] false true fun s =>
    let ccb := s.ssrc a
    let c := s.cohort ccb
    let answer (s : State) (r : DWord) : State := ((s.popSources us).writeS d (popsInto us) r).advance
    if s.liveCohort ccb = false then answer s 2
    else if !c.halted then answer s 1
    else
      let c1 := { c with halted := false, why := 0, skip := c.skip || decide (c.why = 1) }
      answer ((s.setCohort ccb c1).showWord ccb 0xF8 c1.haltWord) 0

/-! ### Trace registers (R475) -/

def TraceRegs.read (t : TraceRegs) (cyc : DWord) (n : Nat) : DWord :=
  match n with
  | 0 => t.tctl | 1 => t.rrb | 2 => t.rrn | 3 => t.rwa | 4 => t.rhd | 5 => t.srb | 6 => t.srn | 7 => t.swa | 8 => t.shd
  | 9 => t.lost | 10 => cyc | _ => 0

/-- A ring size, clamped to 4 to 20. -/
def ringSize (v : Nat) : Nat := clampTo 4 20 (v % 32)

/-- A value as a trace register takes it. -/
def traceValue (n v : Nat) : Nat :=
  match n with
  | 0 => v % 4 + natBits v 20 20 * 2 ^ 20
  | 1 | 5 => v % 2 ^ 56 / 2 ^ 12 * 2 ^ 12
  | 2 | 6 => ringSize v
  | 3 | 7 => v % 2 ^ 56 / 8 * 8
  | _ => v

def TraceRegs.write (t : TraceRegs) (n : Nat) (v : DWord) : TraceRegs :=
  let x : DWord := BitVec.ofNat 64 (traceValue n v.toNat)
  match n with
  | 0 => { t with tctl := x }
  | 1 => { t with rrb := x }
  | 2 => { t with rrn := x }
  | 3 => { t with rwa := x }
  | 4 => { t with rhd := x }
  | 5 => { t with srb := x }
  | 6 => { t with srn := x }
  | 7 => { t with swa := x }
  | 8 => { t with shd := x }
  | _ => t

/-- `trcfg`. -/
def execTrcfg (g : Bool) (d : Code) (sel : BitVec 7) (b : Code) (s : State) : Host.Outcome State Fault Refusal :=
  let n := sel.toNat
  let reads := decide (64 ≤ n)
  let us : List Use := if reads then [⟨.sreg, d, false⟩] else [⟨.ssrc, b, g⟩, ⟨.sreg, d, false⟩]
  run s us [] (decide (10 < n % 64) || (reads && (g || decide (b ≠ 0)))) true fun s =>
    let core := s.cur.core
    let k := s.core core
    let old := k.trace.read s.cycles (n % 64)
    if reads then (s.writeS d true old).advance
    else
      let v := s.ssrc b
      let clamped := (n == 2 || n == 6) && decide (ringSize v.toNat ≠ v.toNat % 32)
      ((((s.setCore core { k with trace := k.trace.write n v }).countClamp clamped).popSources us).writeS d true old).advance

/-! ### Sampling (R477, R478) -/

/-- `smpl`: a draw of the period before is void (R477). -/
def execSmpl (d : Code) (p : BitVec 5) (s : State) : Host.Outcome State Fault Refusal :=
  let n := p.toNat
  run s [⟨.sreg, d, false⟩] [] (decide ((1 ≤ n ∧ n ≤ 7) ∨ 25 ≤ n)) true fun s =>
    let core := s.cur.core
    let k := s.core core
    ((s.setCore core { k with period := n, tagWait := [] }).writeS d false (BitVec.ofNat 64 k.period)).advance

/-- Whether the sample ring of a core is full (R476). -/
def TraceRegs.samplesFull (t : TraceRegs) : Bool := decide (2 ^ t.srn.toNat ≤ t.samples - t.shd.toNat)

/-- A bench's place in its period: the end of the period in which it drew, doubled, and 1 while it still has to tag. -/
def State.periodEnd (s : State) (core : Nat) : Nat :=
  let n := 2 ^ (s.core core).period
  (s.cycles.toNat / n + 1) * n

/-- SAMPLE_TAG: the cycle that a bench drew in this period has come: the next instruction of a user strand that it issues
in the period is tagged; a full sample ring pauses tagging (R476, R478). -/
def execSampleTag (core bench : Nat) (s : State) : Host.Outcome State Fault Refusal :=
  let k := s.core core
  if k.period = 0 ∨ 4 ≤ bench ∨ s.cycles.toNat < Tab.get 0 k.tagWait bench / 2 then .next s
  else if k.trace.samplesFull then .next s
  else .next (s.setCore core { k with tagWait := Tab.put k.tagWait bench (2 * s.periodEnd core + 1) })

/-- Whether lanes of a tagged instruction have raised a cause: they have parked since, at it or after it, wait for a place to
park, or are in the handler. -/
def State.sampleParked (s : State) (t : SampleTag) : Bool :=
  let st := s.strand t.key
  (st.frontier.any fun e =>
    (e.pending && e.pc == t.pc) || (e.parked && decide (t.order ≤ e.order)
      && (if (e.cause.map Cause.restartNext) = some true then e.pc == nextPc t.pc else e.pc == t.pc)))
    || (st.tm && !natBit t.stat.toNat 62 && st.taddr == pcWord t.pc)

/-- The instruction that a strand has issued is tagged, if its bench waits for one: the strand, its entry and the word, as
they stood at the issue. -/
def State.tagIssue (s : State) (st : Strand) (e : Entry) (w : Word) : State :=
  let k := s.core st.core
  let t := Tab.get 0 k.tagWait st.bench
  if st.sup ∨ t % 2 = 0 ∨ t / 2 ≤ s.cycles.toNat ∨ k.trace.samplesFull = true then s
  else
    let tag : SampleTag := {
      key := st.key, lane := (lanesOf e.mask).head?.getD 0, pc := e.pc, mask := e.mask, word := w,
      start := s.cycles.toNat, stat := st.stat, stall := st.stall, cib := st.cib, order := st.nextOrder, reached := s.reached
      place := (s.cohort st.ccb).pasid + st.core * 2 ^ 20 + st.bench * 2 ^ 28 + st.slot % 64 * 2 ^ 30 }
    s.setCore st.core { k with
      tagWait := Tab.put k.tagWait st.bench (t - 1),
      tags := Tab.put k.tags (4 * s.now + st.bench) { tag with reached := if s.sampleParked tag then 7 else tag.reached } }

/-- Whether a tagged instruction has written all its parts, or has raised a cause. -/
def State.sampleDone (s : State) (t : SampleTag) : Bool :=
  let st := s.strand t.key
  t.reached == 7 || s.sampleParked t || (st.producers.all fun p => p.pc != t.pc) && (st.floats.all fun f => f.pc != t.pc)
    && !((s.core st.core).outstanding.any fun o => o.key == t.key)

/-- The words of a sample record (Table 18-5), of what was captured at the tag. What depends on time alone is free, and so is
whether a local access was served by the L2 or by HBM, for no rule says what the L2 holds. -/
def State.sampleWords (s : State) (t : SampleTag) : List Nat :=
  let level := if t.reached = 7 ∨ s.sampleParked t = true then 7
    else if t.reached = 3 then 3 + Config.freeNat s.free % 2 else t.reached
  let w := t.word.toNat
  [t.pc.toNat + t.lane * 2 ^ 48, t.mask.toNat, t.cib.toNat, t.place + t.stall % 16 * 2 ^ 36 + level * 2 ^ 40
     + natBits w 23 7 * 2 ^ 43 + natBits w 30 2 * 2 ^ 50 + natBits t.stat.toNat 58 2 * 2 ^ 52 + natBits t.stat.toNat 60 2 * 2 ^ 54,
   t.start, (Config.freeDWord (s.free + 1)).toNat, (Config.freeDWord (s.free + 2)).toNat % 2 ^ 16, 0]

/-- SAMPLE_RECORD: a tagged instruction that has completed writes its record, and the count word after it; where that fills
the ring, 0x37 is posted (R476, R478). A record that finds the ring full waits for space, which the rule leaves open (log 104). -/
def execSampleRecord (core place : Nat) (s : State) : Host.Outcome State Fault Refusal :=
  let k := s.core core
  match k.tags.find? fun x => x.1 == place with
  | none => .next s
  | some (_, t) =>
    if !s.sampleDone t || k.trace.samplesFull then .next s
    else
      let r := k.trace
      let a := r.srb.toNat + 64 * (r.samples % 2 ^ r.srn.toNat)
      let s1 := ((s.sampleWords t).zipIdx.foldl (fun (s : State) x => s.engineWrite 0 (a + 8 * x.2) 8 x.1) s).tick.tick.tick
      let s2 := s1.setCore core { s1.core core with
        tags := Tab.del k.tags place, trace := { r with samples := r.samples + 1 } }
      let s3 := if r.swa = 0 then s2 else s2.engineWrite 0 r.swa.toNat 8 (r.samples + 1)
      .next (if ({ r with samples := r.samples + 1 } : TraceRegs).samplesFull then s3.postEvent core { cause := .sampleBuffer } else s3)

end Sys2Proof.Machine
end

