-- ==== Sys2Proof/Machine/Root.lean ====
section
/-! DEFINITION. The root controller and the service cores: power and thermal limits, staged start, firmware, leases, scrub,
and the registers that only firmware of the service cores writes (01 R16 to R18; 19 R479 to R493). -/

namespace Sys2Proof.Machine

/-! ### Alarms and the thermal trip (01 R18) -/

/-- The core numbers of the device. -/
def coreNumbers : List Nat := List.range 192

/-- Post an asynchronous cause on every core. -/
def State.postAll (s : State) (c : Cause) : State :=
  coreNumbers.foldl (fun (s : State) k => s.postEvent k { cause := c }) s

/-- Change every core. -/
def State.mapCores (s : State) (f : Core → Core) : State :=
  coreNumbers.foldl (fun (s : State) k => s.setCore k (f (s.core k))) s

/-- The device is up and does not hold. -/
def State.running (s : State) : Bool := s.online && !s.root.hold

/-- THERMAL_ALARM: a die sensor reaches the firmware threshold, which is at most 100 degrees. -/
def execThermalAlarm (temp : Nat) (s : State) : Host.Outcome State Fault Refusal :=
  .next (if s.running && decide (s.root.threshold ≤ temp) then (s.postAll .thermalAlarm).fire 0x220 else s)

/-- A power-fail sequence runs. -/
def State.sequencing (s : State) : Bool := decide (s.guard.sequence ≠ .none ∧ s.guard.sequence ≠ .ended)

/-- THERMAL_TRIP: the device holds until a reset: issue stops, and what waits in the matrix engines is not begun. A trip
during a power-fail sequence is recorded and does not stop the sequence: the device holds once that has ended (16 R443). -/
def execThermalTrip (s : State) : Host.Outcome State Fault Refusal :=
  if s.root.stage.isNone then .next s
  else if s.sequencing then .next { s with root := { s.root with tripped := true }, guard := { s.guard with tripped := true } }
  else
    .next { s with
      root := { s.root with hold := true, tripped := true },
      cores := s.cores.map fun k => (k.1, { k.2 with mxOps := k.2.mxOps.take 1 }) }

/-- The lower of the firmware limit and 5,400 W. -/
def State.powerBound (s : State) : Nat := min s.root.powerLimit 5400

/-- POWER_ALARM: the input power averaged over 1 ms exceeds the limit. -/
def execPowerAlarm (watts : Nat) (s : State) : Host.Outcome State Fault Refusal :=
  .next (if s.running && decide (s.powerBound < watts) then
    ((s.postAll .powerAlarm).fire 0x221).mapCores fun k => { k with powerAlarm := true }
  else s)

/-- POWER_ALARM_END: the input power has stayed below the limit for 10 ms; narrowing ends (11 R294). -/
def execPowerAlarmEnd (s : State) : Host.Outcome State Fault Refusal :=
  .next { s with cores := s.cores.map fun k => (k.1, { k.2 with powerAlarm := false, mxn := false }) }

/-! ### Staged start (19 R479, R480) -/

/-- Whether a base slot may be started: its signature verifies and its version is at least the floor. -/
def Root.qualifies (r : Root) (i : Image) : Bool := i.verified && decide (r.floor ≤ i.version)

/-- The base image that starts: the higher version of those that qualify. -/
def Root.baseImage (r : Root) : Option Image :=
  match r.qualifies r.slotA, r.qualifies r.slotB with
  | true, true => some (if r.slotA.version < r.slotB.version then r.slotB else r.slotA)
  | true, false => some r.slotA
  | false, true => some r.slotB
  | false, false => none

/-- Stage 0: ROM runs and is measured; the base firmware is verified and measured, or the device is in recovery mode. The
root controller reports the stepping (00 R2). -/
def State.startRom (s : State) : State :=
  let s0 : State := { s with root := { s.root with stage := some 0, log := [], m := 0, recovery := s.root.baseImage.isNone } }
  let s1 := s0.output (.stepping revisionId)
  let s2 := s1.measure 1 (Config.fixed 0) (Config.fixed 1) (Config.fixed 2)
  match s.root.baseImage with
  | some i => s2.measure 2 i.version i.size i.digest
  | none => s2

/-- POWER_GOOD. -/
def execPowerGood (s : State) : Host.Outcome State Fault Refusal :=
  .next (if s.root.stage.isNone then s.startRom else s)

/-- A fresh nonce for a scrub that no START_SCRUB began: a free value that is not the nonce before (R489; log 16). -/
def State.freeNonce (s : State) : State :=
  let v := Config.freeNat s.free % 2 ^ 256
  { s.tick with root := { s.root with nonce := if v = s.root.nonce then (v + 1) % 2 ^ 256 else v } }

/-- The start stages that follow: a stage that fails leaves the device in the stage before it. -/
def State.stageFails (s : State) (n : Nat) : State := s.output (.stageFailed n)

/-- STAGE_1: HBM is trained, the records of MRAM are read, a held log is classified, and an interrupted revocation or
scrub becomes a scrub from its first region (R485; 16 R445). -/
def execStage1 (ok : Bool) (s : State) : Host.Outcome State Fault Refusal :=
  if s.root.stage ≠ some 0 ∨ s.root.recovery = true ∨ s.root.hold = true ∨ s.guard.sequence ≠ .none then .next s
  else if !ok then .next (s.stageFails 1)
  else
    .next { s with
      root := { s.root with stage := some 1, lease := if s.root.lease = .revoking then .scrubbing else s.root.lease },
      guard := s.guard.classify }

/-- Revocation begins: 0x35 on every core and source 0x224 (R487, step 1). A revoked lease releases every monitor
(07 R223). -/
def State.revoke (s : State) : State :=
  let s1 : State := { s.freeNonce.unwatchTails with monitors := [] }
  let s2 : State := { s1 with root := { s1.root with lease := .revoking, revokedAt := s.now, revokeLater := false } }
  (s2.postAll .leaseRevocation).fire 0x224

/-- What a core keeps of a supervisor strand goes with it: its commands, its flushes and its stop. -/
def Core.dropSupervisor (k : Core) : Core :=
  { k with supStopped := false, channels := [], flushing := k.flushing.filter fun f => decide (f.key < 2 ^ 64) }

/-- No supervisor strand waits for a swap-out any more. -/
def State.forgetWaits (s : State) : State :=
  { s with cohorts := s.cohorts.map fun c => (c.1, { c.2 with waiters := [], outDone := [] }) }

/-- The supervisor strands start at an entry point in the firmware address space of a root (12 R326; log 4); PC[1:0] are zero
(03 R44). -/
def State.startSupervisors (s : State) (root : Nat) (entry : Pc) : State :=
  coreNumbers.foldl (fun (s : State) c =>
    (s.setStrand (supKey c) { Strand.fresh (supKey c) with frontier := [{ mask := BitVec.allOnes 64, pc := BitVec.ofNat 48 (entry.toNat / 4 * 4) }] }).setCore c
      (s.core c).dropSupervisor) { s.forgetWaits with fwRoot := root % 2 ^ 64 }

/-- The supervisor strands are reset and not started. -/
def State.resetSupervisors (s : State) : State :=
  { s.forgetWaits with
    strands := s.strands.filter fun x => !x.2.sup,
    cores := s.cores.map fun k => (k.1, k.2.dropSupervisor) }

/-- The customer image is measured, where one is installed, and runs only in LEASED (R481). -/
def State.startCustomer (s : State) : State :=
  match s.root.customer with
  | none => { s with root := { s.root with running := false } }
  | some i =>
    let s1 := s.measure 3 i.version i.size i.digest
    { s1 with root := { s1.root with running := decide (s.root.lease = .leased) } }

/-- The maps of a core from the failure record (17 R448, R453). -/
def State.startCore (s : State) (c : Nat) : State :=
  let lanes (b : Nat) : List Nat := Tab.get [] s.root.lanes (benchKey c b)
  let cols := Tab.get [] s.root.columns c
  s.setCore c { s.core c with
    carve := 0, columnsFailed := cols, cmap := cmapWord cols,
    lmap := (List.range 4).foldl (fun (t : Tab DWord) b => Tab.set 0x7F t b (startMap (lanes b))) [],
    lfail := (List.range 4).foldl (fun (t : Tab DWord) b => Tab.set 0 t b (lfailWord (lanes b))) [] }

/-- STAGE_2: every SRAM is written, the maps are set, the service cores start firmware, and the cores go online in M0 with
CYC at 0. The firmware's root and the entry point of its supervisor strands are the image's (log 4). A customer image is measured
at every start (R481). A revocation that waited begins now (R490). -/
def execStage2 (ok : Bool) (root entry : Nat) (s : State) : Host.Outcome State Fault Refusal :=
  if s.root.stage ≠ some 1 ∨ s.root.hold = true ∨ s.guard.sequence ≠ .none then .next s
  else if !ok then .next (s.stageFails 2)
  else
    let s1 := coreNumbers.foldl (fun (s : State) c => s.startCore c) s
    let later := s1.root.revokeLater && decide (s1.root.lease = .leased)
    let s2 := s1.startCustomer.startSupervisors root (BitVec.ofNat 48 entry)
    let s3 : State := { s2 with
      stage2At := s2.now, root := { s2.root with stage := some 2, revokeLater := false, base := (root, entry) } }
    .next (if later then s3.revoke else s3)

/-! ### Loss of power and reset (01 R18; 16 R432, R443) -/

/-- What a device keeps without power: MRAM, flash, the hold-up store, and what is not its own; HBM is kept while the
module stays powered. -/
def State.restart (s : State) (powered : Bool) : State :=
  let r := s.root
  let g := s.guard
  { ({} : State) with
    local_ := if powered then s.local_ else [],
    ueLocal := if powered then s.ueLocal else [],
    host := s.host, peer := s.peer, ueHost := s.ueHost, uePeer := s.uePeer,
    guard := { ({} : Guard) with
      nextHandle := g.nextHandle, epoch := g.epoch, data := g.data, header := g.header, held := g.held, erasing := g.erasing },
    root := { ({} : Root) with
      slotA := r.slotA, slotB := r.slotB, floor := r.floor, customer := r.customer, identityIndex := r.identityIndex,
      recordIndex := r.recordIndex, lease := r.lease, leaseId := r.leaseId, scrubSeq := r.scrubSeq, nonce := r.nonce,
      record := r.record, revokeLater := r.revokeLater, retired := r.retired, lanes := r.lanes, columns := r.columns,
      operatorRoot := r.operatorRoot },
    outputs := s.outputs, free := s.free, agenda := s.agenda, now := s.now }

/-- RAIL_COLLAPSE: the rail reaches 30 V: the sequence stops and all volatile state is lost; a log that was begun is held,
sealed or not (R442). Power does not go without a sequence unless a trip has come or the device holds. -/
def execRailCollapse (s : State) : Host.Outcome State Fault Refusal :=
  let g := s.guard
  if g.sequence = .none ∧ s.root.stage.isSome = true ∧ s.root.tripped = false ∧ s.root.hold = false then .next s
  else
    let begun := decide (g.sequence ≠ .none) && !g.noLog
    let s1 : State := { s with guard := { g with held := g.held || begun, erasing := g.erasing && !begun } }
    .next (s1.restart false)

/-- RESET: out of the hold after a trip or after a sequence that has ended; the start begins again from ROM, with HBM
kept. -/
def execResetDevice (s : State) : Host.Outcome State Fault Refusal :=
  .next (if s.root.hold && decide (s.guard.sequence = .none ∨ s.guard.sequence = .ended) then (s.restart true).startRom else s)

/-! ### Firmware (R480, R481) -/

/-- FIRMWARE_UPDATE: base slots 0 (A) and 1 (B) over I3C; the customer slot 2, of 32 MiB, over port P, not in recovery
mode. -/
def execFirmwareUpdate (slot version size digest : Nat) (verified : Bool) (s : State) : Host.Outcome State Fault Refusal :=
  let i : Image := { version := version, size := size, digest := digest, verified := verified }
  let r := s.root
  if r.stage.isNone then .next s
  else if slot = 0 then .next { s with root := { r with slotA := i } }
  else if slot = 1 then .next { s with root := { r with slotB := i } }
  else if r.recovery || !s.link.up.contains 0 || decide (2 ^ 25 < size ∨ 2 < slot) then .next s
  else .next { s with root := { r with customer := some { i with verified := false } } }

/-- ACTIVATE_FIRMWARE: the service cores and the supervisor strands restart with the new image, which is measured; status 0x01
while a context slot is active. Customer firmware runs only in LEASED: in every other lease state the base firmware restarts
(R481). -/
def execActivateFirmware (root entry : Nat) (s : State) : Host.Outcome State Fault Refusal :=
  if !s.acting then .next s
  else if !s.contexts.isEmpty then .next (s.output (.answer (some [1])))
  else
    let s1 := s.startCustomer
    let start := if s1.root.running then (root, entry) else s1.root.base
    .next ((s1.startSupervisors start.1 (BitVec.ofNat 48 start.2)).output (.answer (some [0])))

/-! ### Leases (R484 to R487, R490) -/

/-- The code of a lease state, in the order of Table 19-3. -/
def Lease.code : Lease → Nat
  | .vacant => 0 | .scrubbing => 1 | .ready => 2 | .leased => 3 | .revoking => 4

/-- Lease commands are answered from the time the lease record has been read. -/
def State.leaseRead (s : State) : Bool := decide (s.root.stage = some 1 ∨ s.root.stage = some 2)

/-- A lease command: it is answered once the lease record has been read, in a session whose requester chains to the operator root
(R486). -/
def State.leaseCommand (s : State) (k : State) : Host.Outcome State Fault Refusal :=
  if !s.leaseRead then .next s
  else if s.root.session ≠ some s.root.operatorRoot then .next (s.output (.answer none))
  else .next k

/-- GET_STATE: the state, the lease identifier and the scrub sequence number. -/
def execGetState (s : State) : Host.Outcome State Fault Refusal :=
  s.leaseCommand (s.output (.answer (some [s.root.lease.code, s.root.leaseId, s.root.scrubSeq])))

/-- START_SCRUB, in VACANT and READY, with a nonce of 32 bytes. -/
def execStartScrub (nonce : Nat) (s : State) : Host.Outcome State Fault Refusal :=
  let r := s.root
  s.leaseCommand (if r.lease = .vacant ∨ r.lease = .ready then
    ({ s with root := { r with lease := .scrubbing, nonce := nonce % 2 ^ 256 } } : State).output (.answer (some [0]))
  else s.output (.answer (some [2])))

/-- GRANT, in READY: the identifier of 16 bytes is measured, the tails of the enabled queues are watched (01 R19), and an installed
customer image runs (R481). -/
def execGrant (id : Nat) (s : State) : Host.Outcome State Fault Refusal :=
  let r := s.root
  s.leaseCommand (if r.lease = .ready then
    (({ s with root := { r with lease := .leased, leaseId := id % 2 ^ 128, running := s.online && r.customer.isSome } } : State).measureValue 5
      (id % 2 ^ 128)).watchTails.output (.answer (some [0]))
  else s.output (.answer (some [2])))

/-- REVOKE, in LEASED; while the device does not run, as in a power-fail sequence, revocation waits for the next start (R490). -/
def execRevoke (s : State) : Host.Outcome State Fault Refusal :=
  let r := s.root
  s.leaseCommand (if r.lease ≠ .leased then s.output (.answer (some [2]))
    else if !s.acting then ({ s with root := { r with revokeLater := true } } : State).output (.answer (some [0]))
    else s.revoke.output (.answer (some [0])))

/-- REVOKE_DEADLINE: 10 ms after revocation, whatever firmware has done, steps 2 to 5 of R487. -/
def execRevokeDeadline (s : State) : Host.Outcome State Fault Refusal :=
  if !s.running || decide (s.root.lease ≠ .revoking ∨ s.guard.sequence ≠ .none ∨ s.now - s.root.revokedAt < 10000 * cyclesPerMicro)
    then .next s
  else
    let s1 := s.failInterfaces.withdraw fun _ => true
    let s2 : State := { s1 with guard := s1.guard.writeTable }
    let s3 := (s2.contexts.map fun c => c.1).foldl (fun (s : State) c => s.contextOff c) s2
    let s4 := s3.resetSupervisors
    .next { s4 with root := { s4.root with running := false, lease := .scrubbing } }

/-! ### Scrub (R488, R489) -/

/-- A core whose stores have been scrubbed: its maps, counters and limits stay. -/
def Core.scrub (k : Core) : Core :=
  { k with
    evq := [], held := [], tlb := [], l1 := [], icode := [], misses := [], replies := 0, outstanding := [], relaxed := [], peerCopies := [],
    flushing := [], frb := 0, frt := 0, frh := 0, tgt := 0, codePoints := [], watchPoints := [], channels := [], tile := [], accs := [], owners := [], latch := [], mxOps := [], tags := [], tagWait := [], replays := [],
    supStopped := false }

/-- The stores of region i of Table 19-5 after a scrub: 0 HBM, 1 SRAMs, 2 the hold-up store, 3 service memories, 4 the
customer slot, 5 registers. Records are counted on from stage 2 (18 R476). -/
def State.scrubRegion (s : State) (i : Nat) : State :=
  match i with
  | 0 => { s with local_ := [], ueLocal := [], fwRoot := 0 }
  | 1 =>
    { s with
      cores := s.cores.map fun k => (k.1, k.2.scrub), strands := [], cohorts := [], spans := [], slices := [], monitors := [],
      marks := [], link := { s.link with atsCache := [] } }
  | 2 =>
    { s with guard := { s.guard with
      declarations := [], shares := [], data := [], header := [], held := false, sealed := false, classes := [], erasing := false,
      nextHandle := 1, epoch := 0 } }
  | 3 => { s with root := { s.root with running := false, service := [] } }
  | 4 => { s with root := { s.root with customer := none } }
  | 5 =>
    { s with
      disp := {}, contexts := [],
      link := { s.link with intfwd := 50, prt := 0, pwbase := 0, pwlimit := 0, mbb := 0, lostmsi := 0, claims := [] },
      guard := { s.guard with note := [] },
      cores := s.cores.map fun k => (k.1, { k.2 with trace := { lanes := k.2.trace.lanes, samples := k.2.trace.samples } }) }
  | _ => s

/-- The regions that a scrub covered, by the bits of a number. -/
def regionsOf (covered : Nat) : List Nat := (List.range 6).filter fun i => natBit covered i

/-- Lines of HBM. -/
def hbmLines : Nat := 2 ^ 35

/-- The status of a scrub: 0, 1 with lines retired, 2 for any other failure. -/
def scrubStatus (covered failed retired : Nat) : Nat :=
  if covered % 64 ≠ 63 ∨ 4096 < retired then 2 else if failed = 0 then 0 else 1

/-- The record of a scrub (Table 19-5). -/
def State.scrubRecord (s : State) (lines : List Nat) (covered : Nat) : ScrubRecord :=
  let r := s.root
  let hbm := natBit covered 0
  { status := scrubStatus covered lines.length r.retired.length, seq := r.scrubSeq, nonce := r.nonce, measured := r.m,
    written := if hbm then hbmLines else Config.freeNat s.free % 2 ^ 64,
    checked := if hbm then hbmLines - lines.length else Config.freeNat (s.free + 1) % 2 ^ 64,
    failed := lines, covered := covered % 64, retired := r.retired.length, index := r.recordIndex }

/-- SCRUB_COMPLETE: a scrub ends: the regions it covered are clear, failed lines are retired, the floor is 0, and a record
is signed, unless the record key is exhausted; the lease state becomes READY, or VACANT with status 2. -/
def execScrubComplete (lines : List Nat) (covered : Nat) (s : State) : Host.Outcome State Fault Refusal :=
  if !s.running || decide (s.root.lease ≠ .scrubbing ∨ s.guard.sequence ≠ .none) then .next s
  else
    let bad := (distinct lines).filter fun l => decide (l < hbmLines)
    let s1 := (regionsOf covered).foldl (fun (s : State) i => s.scrubRegion i) s
    let r := s1.root
    let retired := r.retired ++ bad.filter fun l => !r.retired.contains l
    let s2 : State := { s1 with
      root := { r with retired := retired, scrubSeq := r.scrubSeq + 1 }, disp := { s1.disp with floor := 0 } }
    let rec_ := s2.scrubRecord bad covered
    let out := decide (2 ^ 40 ≤ r.recordIndex)
    .next { s2.tick.tick with root := { s2.root with
      record := if out then none else some rec_, recordIndex := if out then r.recordIndex else r.recordIndex + 1,
      lease := if rec_.status = 2 then .vacant else .ready } }

/-- The bytes 0x000 to 0x297 of a record as one number (Table 19-5). -/
def ScrubRecord.bytes (r : ScrubRecord) : Nat :=
  let listed := r.failed.take 64
  0x42524353 + 2 ^ 32 + revisionId * 2 ^ 48 + r.status * 2 ^ 56 + r.seq % 2 ^ 64 * 2 ^ 64 + r.nonce % 2 ^ 256 * 2 ^ 128
    + Config.fixed 3 % 2 ^ 256 * 2 ^ 384 + r.measured % 2 ^ 256 * 2 ^ 640 + r.written % 2 ^ 64 * 2 ^ 896
    + r.checked % 2 ^ 64 * 2 ^ 960 + r.failed.length % 2 ^ 32 * 2 ^ 1024 + r.covered * 2 ^ 1056 + r.retired % 2 ^ 32 * 2 ^ 1088
    + listed.length * 2 ^ 1120
    + listed.foldr (fun l acc => l % 2 ^ 35 + 2 ^ 64 * acc) 0 * 2 ^ 1152 + r.index % 2 ^ 64 * 2 ^ 5248

/-- GET_RECORD: the last completion record, its signature left out (log 17); status 0x04 where the key was exhausted. -/
def execGetRecord (s : State) : Host.Outcome State Fault Refusal :=
  s.leaseCommand (match s.root.record with
    | some r => s.output (.answer (some [0, r.bytes]))
    | none => s.output (.answer (if 2 ^ 40 ≤ s.root.recordIndex then some [4] else none)))

/-! ### Registers that firmware writes (R420; Tables 15-5, 15-6 and 16-5; 01 R17; 15 R427) -/

/-- A claim entry after a write: OPEN and CNT are read only (Table 15-6). -/
def Claim.write (c : Claim) (v : Nat) : Claim :=
  { c with fn := natBits v 52 4, vec := natBits v 40 12, sct := natBits v 34 2, hc := natBit v 33, sc := natBit v 32 }

/-- A write of a register of the link engine (Table 15-5). -/
def State.writeLinkRegister (s : State) (off v : Nat) : State :=
  let l := s.link
  if off = 0x00 then
    ({ s with link := { l with intfwd := clampTo 10 10000 v } } : State).countClamp (clampTo 10 10000 v != v)
  else if off = 0x10 then { s with link := { l with prt := v % 2 ^ 52 / 2 ^ 13 * 2 ^ 13 } }
  else if off = 0x18 then { s with link := { l with pwbase := v % 2 ^ 42 / 2 ^ 7 * 2 ^ 7 } }
  else if off = 0x20 then { s with link := { l with pwlimit := v % 2 ^ 42 / 2 ^ 7 * 2 ^ 7 } }
  else if off = 0x28 then { s with link := { l with mbb := v % 2 ^ 52 / 2 ^ 20 * 2 ^ 20 } }
  else if 0x10000 ≤ off ∧ off < 0x12000 ∧ off % 8 = 0 then
    s.setClaim ((off - 0x10000) / 8) ((s.claim ((off - 0x10000) / 8)).write v)
  else s

/-- A write of the policy note (Table 16-5). -/
def State.writeGuardRegister (s : State) (off v : Nat) : State :=
  if 0x100 ≤ off ∧ off < 0x200 ∧ off % 8 = 0 then
    { s with guard := { s.guard with note := Memory.writeN s.guard.note (off - 0x100) 8 v } }
  else s

/-- A limit that firmware sets, clamped to the safety limit (01 R17, R18): 0 the alarm threshold in degrees, 1 the power
limit in watts. -/
def State.writeLimit (s : State) (off v : Nat) : State :=
  match off with
  | 0 => ({ s with root := { s.root with threshold := min 100 v } } : State).countClamp (decide (100 < v))
  | 1 => ({ s with root := { s.root with powerLimit := min 5400 v } } : State).countClamp (decide (5400 < v))
  | _ => s

/-- An assigned range of a TDI, frozen from the lock on: field 8 x function + part (15 R427, Table 15-9). -/
def State.writeRange (s : State) (off v : Nat) : State :=
  let fn := off / 8
  let f := s.function fn
  if 16 ≤ fn ∨ f.tdi ≠ .unlocked then s
  else
    match off % 8 with
    | 0 => s.setFunction fn { f with slots := (v, f.slots.2) }
    | 1 => s.setFunction fn { f with slots := (f.slots.1, v) }
    | 2 => s.setFunction fn { f with queues := (v, f.queues.2) }
    | 3 => s.setFunction fn { f with queues := (f.queues.1, v) }
    | 4 => s.setFunction fn { f with memory := (v, f.memory.2) }
    | 5 => s.setFunction fn { f with memory := (f.memory.1, v) }
    | _ => s

/-- What a service core reads in the guard's register block (Table 16-5); GDONE and GSKIP can only be written, and what a read of
them gives is free. -/
def State.guardRegister (s : State) (off : Nat) : Nat :=
  let g := s.guard
  if off = 0x00 then g.status
  else if off = 0x08 ∨ off = 0x10 then (Config.freeDWord s.free).toNat
  else if off = 0x18 then g.total
  else if 0x100 ≤ off ∧ off < 0x200 then Memory.readN g.note (off - 0x100) 8
  else 0

/-- A service core reads a register of a block, by the numbers of `execRegisterWrite`; a limit and a range as they stand. -/
def State.readRegister (s : State) (block off : Nat) : State :=
  if !s.running then s
  else
    let f := s.function (off / 8)
    let parts := [f.slots.1, f.slots.2, f.queues.1, f.queues.2, f.memory.1, f.memory.2]
    let v := match block with
      | 0 => s.linkRegister off
      | 1 => s.guardRegister off
      | 2 => if off = 0 then s.root.threshold else s.root.powerLimit
      | _ => parts.getD (off % 8) 0
    s.tick.output (.answer (some [v]))

/-! ### The memories of the service cores and the I/O cores (R488, R491) -/

/-- The bytes of the service memory, and behind them those of the 48 I/O cores. -/
def serviceBytes : Nat := 2 ^ 26 + 48 * 2 ^ 18

/-- A service core or an I/O core stores to its memory, or reads it. -/
def State.serviceWrite (s : State) (addr size value : Nat) : State :=
  if s.running && decide (addr + size ≤ serviceBytes) then
    { s with root := { s.root with service := Memory.writeN s.root.service addr size value } }
  else s
def State.serviceRead (s : State) (addr size : Nat) : State :=
  if s.running && decide (addr + size ≤ serviceBytes) then
    s.output (.answer (some [Memory.readN s.root.service addr size]))
  else s

/-- REGISTER_WRITE: firmware of the service cores writes 64 bits to a register with no row of its own: block 0 the link
engine, 1 the guard engine, 2 the limits, 3 the ranges of the TDIs. In a power-fail sequence firmware acts in the policy
slice alone, through Table 16-5. -/
def execRegisterWrite (block off value : Nat) (s : State) : Host.Outcome State Fault Refusal :=
  let v := value % 2 ^ 64
  let slice := decide (s.guard.sequence = .slice)
  if !s.running || !(decide (s.guard.sequence = .none) || (slice && block == 1)) then .next s
  else
    match block with
    | 0 => .next (s.writeLinkRegister off v)
    | 1 => .next (s.writeGuardRegister off v)
    | 2 => .next (s.writeLimit off v)
    | 3 => .next (s.writeRange off v)
    | _ => .next s

end Sys2Proof.Machine
end

