-- ==== Sys2Proof/Machine/Dispatch.lean ====
section
/-! DEFINITION. One arm per constructor of Instr: a direct call of its meaning. -/

namespace Sys2Proof.Machine

/-- The meaning of one instruction or event. -/
def exec (i : Instr) (s : State) : Host.Outcome State Fault Refusal :=
  match i with
  | .vadd e g d a b => Sys2Proof.Machine.execVadd e g d a b s
  | .vsub e g d a b => Sys2Proof.Machine.execVsub e g d a b s
  | .vmullo e g d a b => Sys2Proof.Machine.execVmullo e g d a b s
  | .vmulhis e g d a b => Sys2Proof.Machine.execVmulhis e g d a b s
  | .vmulhiu e g d a b => Sys2Proof.Machine.execVmulhiu e g d a b s
  | .vmad e g d a b => Sys2Proof.Machine.execVmad e g d a b s
  | .vadds e g d a b => Sys2Proof.Machine.execVadds e g d a b s
  | .vsubs e g d a b => Sys2Proof.Machine.execVsubs e g d a b s
  | .vaddx2 e g d a b => Sys2Proof.Machine.execVaddx2 e g d a b s
  | .vsubx2 e g d a b => Sys2Proof.Machine.execVsubx2 e g d a b s
  | .vmins e g d a b => Sys2Proof.Machine.execVmins e g d a b s
  | .vminu e g d a b => Sys2Proof.Machine.execVminu e g d a b s
  | .vmaxs e g d a b => Sys2Proof.Machine.execVmaxs e g d a b s
  | .vmaxu e g d a b => Sys2Proof.Machine.execVmaxu e g d a b s
  | .vdot4s e g d a b => Sys2Proof.Machine.execVdot4s e g d a b s
  | .vdot4u e g d a b => Sys2Proof.Machine.execVdot4u e g d a b s
  | .vand e g d a b => Sys2Proof.Machine.execVand e g d a b s
  | .vor e g d a b => Sys2Proof.Machine.execVor e g d a b s
  | .vxor e g d a b => Sys2Proof.Machine.execVxor e g d a b s
  | .vandn e g d a b => Sys2Proof.Machine.execVandn e g d a b s
  | .vshl e g d a b => Sys2Proof.Machine.execVshl e g d a b s
  | .vshru e g d a b => Sys2Proof.Machine.execVshru e g d a b s
  | .vshrs e g d a b => Sys2Proof.Machine.execVshrs e g d a b s
  | .vrot e g d a b => Sys2Proof.Machine.execVrot e g d a b s
  | .vbfeu e g d a b => Sys2Proof.Machine.execVbfeu e g d a b s
  | .vbfes e g d a b => Sys2Proof.Machine.execVbfes e g d a b s
  | .vbfi e g d a b => Sys2Proof.Machine.execVbfi e g d a b s
  | .vsel e g d a b => Sys2Proof.Machine.execVsel e g d a b s
  | .vpopc e d a => Sys2Proof.Machine.execVpopc e d a s
  | .vclz e d a => Sys2Proof.Machine.execVclz e d a s
  | .vctz e d a => Sys2Proof.Machine.execVctz e d a s
  | .vbrev e d a => Sys2Proof.Machine.execVbrev e d a s
  | .vnot e d a => Sys2Proof.Machine.execVnot e d a s
  | .vabs e d a => Sys2Proof.Machine.execVabs e d a s
  | .vneg e d a => Sys2Proof.Machine.execVneg e d a s
  | .vsx8 e d a => Sys2Proof.Machine.execVsx8 e d a s
  | .vsx16 e d a => Sys2Proof.Machine.execVsx16 e d a s
  | .vzx8 e d a => Sys2Proof.Machine.execVzx8 e d a s
  | .vzx16 e d a => Sys2Proof.Machine.execVzx16 e d a s
  | .vmov e d a => Sys2Proof.Machine.execVmov e d a s
  | .vcmpeq e g d a b => Sys2Proof.Machine.execVcmpeq e g d a b s
  | .vcmplts e g d a b => Sys2Proof.Machine.execVcmplts e g d a b s
  | .vcmpltu e g d a b => Sys2Proof.Machine.execVcmpltu e g d a b s
  | .vcmples e g d a b => Sys2Proof.Machine.execVcmples e g d a b s
  | .vcmpleu e g d a b => Sys2Proof.Machine.execVcmpleu e g d a b s
  | .vshfl e f d a b => Sys2Proof.Machine.execVshfl e f d a b s
  | .vshflx e f d a b => Sys2Proof.Machine.execVshflx e f d a b s
  | .vshflup e f d a b => Sys2Proof.Machine.execVshflup e f d a b s
  | .vshfldn e f d a b => Sys2Proof.Machine.execVshfldn e f d a b s
  | .vrdlane e g d a b => Sys2Proof.Machine.execVrdlane e g d a b s
  | .vwrlane e g d a b => Sys2Proof.Machine.execVwrlane e g d a b s
  | .vredadd e d a => Sys2Proof.Machine.execVredadd e d a s
  | .vredmins e d a => Sys2Proof.Machine.execVredmins e d a s
  | .vredmaxs e d a => Sys2Proof.Machine.execVredmaxs e d a s
  | .vredand e d a => Sys2Proof.Machine.execVredand e d a s
  | .vredor e d a => Sys2Proof.Machine.execVredor e d a s
  | .vscanadd e d a => Sys2Proof.Machine.execVscanadd e d a s
  | .vballot e d a => Sys2Proof.Machine.execVballot e d a s
  | .vaddi d a imm => Sys2Proof.Machine.execVaddi d a imm s
  | .vmuli d a imm => Sys2Proof.Machine.execVmuli d a imm s
  | .vandi d a imm => Sys2Proof.Machine.execVandi d a imm s
  | .vori d a imm => Sys2Proof.Machine.execVori d a imm s
  | .vxori d a imm => Sys2Proof.Machine.execVxori d a imm s
  | .vshli d a imm => Sys2Proof.Machine.execVshli d a imm s
  | .vshrui d a imm => Sys2Proof.Machine.execVshrui d a imm s
  | .vshrsi d a imm => Sys2Proof.Machine.execVshrsi d a imm s
  | .vcmpeqi d a imm => Sys2Proof.Machine.execVcmpeqi d a imm s
  | .vcmpltsi d a imm => Sys2Proof.Machine.execVcmpltsi d a imm s
  | .vcmpltui d a imm => Sys2Proof.Machine.execVcmpltui d a imm s
  | .vfadd t e g d a b => Sys2Proof.Machine.execVfadd t e g d a b s
  | .vfsub t e g d a b => Sys2Proof.Machine.execVfsub t e g d a b s
  | .vfmul t e g d a b => Sys2Proof.Machine.execVfmul t e g d a b s
  | .vffma t e g d a b => Sys2Proof.Machine.execVffma t e g d a b s
  | .vffms t e g d a b => Sys2Proof.Machine.execVffms t e g d a b s
  | .vfmin t e g d a b => Sys2Proof.Machine.execVfmin t e g d a b s
  | .vfmax t e g d a b => Sys2Proof.Machine.execVfmax t e g d a b s
  | .vfcmpeq t e g d a b => Sys2Proof.Machine.execVfcmpeq t e g d a b s
  | .vfcmplt t e g d a b => Sys2Proof.Machine.execVfcmplt t e g d a b s
  | .vfcmple t e g d a b => Sys2Proof.Machine.execVfcmple t e g d a b s
  | .vfcmpun t e g d a b => Sys2Proof.Machine.execVfcmpun t e g d a b s
  | .vfsqrt t e d a => Sys2Proof.Machine.execVfsqrt t e d a s
  | .vfrsq t e d a => Sys2Proof.Machine.execVfrsq t e d a s
  | .vfrcp t e d a => Sys2Proof.Machine.execVfrcp t e d a s
  | .vfexp2 t e d a => Sys2Proof.Machine.execVfexp2 t e d a s
  | .vflog2 t e d a => Sys2Proof.Machine.execVflog2 t e d a s
  | .vfsinpi t e d a => Sys2Proof.Machine.execVfsinpi t e d a s
  | .vfcospi t e d a => Sys2Proof.Machine.execVfcospi t e d a s
  | .vftanh t e d a => Sys2Proof.Machine.execVftanh t e d a s
  | .vfabs t e d a => Sys2Proof.Machine.execVfabs t e d a s
  | .vfneg t e d a => Sys2Proof.Machine.execVfneg t e d a s
  | .vffloor t e d a => Sys2Proof.Machine.execVffloor t e d a s
  | .vfceil t e d a => Sys2Proof.Machine.execVfceil t e d a s
  | .vftrunc t e d a => Sys2Proof.Machine.execVftrunc t e d a s
  | .vfrne t e d a => Sys2Proof.Machine.execVfrne t e d a s
  | .vffrac t e d a => Sys2Proof.Machine.execVffrac t e d a s
  | .vfclass t e d a => Sys2Proof.Machine.execVfclass t e d a s
  | .vcvt e d a c => Sys2Proof.Machine.execVcvt e d a c s
  | .vcvts e d a c => Sys2Proof.Machine.execVcvts e d a c s
  | .vpackF16 e g d a b => Sys2Proof.Machine.execVpackF16 e g d a b s
  | .vpackBf16 e g d a b => Sys2Proof.Machine.execVpackBf16 e g d a b s
  | .vfscaleF32 e g d a b => Sys2Proof.Machine.execVfscaleF32 e g d a b s
  | .vfscaleF64 e g d a b => Sys2Proof.Machine.execVfscaleF64 e g d a b s
  | .vfdot2F16 e g d a b => Sys2Proof.Machine.execVfdot2F16 e g d a b s
  | .vfdot2Bf16 e g d a b => Sys2Proof.Machine.execVfdot2Bf16 e g d a b s
  | .sadd e g d a b => Sys2Proof.Machine.execSadd e g d a b s
  | .ssub e g d a b => Sys2Proof.Machine.execSsub e g d a b s
  | .smul e g d a b => Sys2Proof.Machine.execSmul e g d a b s
  | .smulhu e g d a b => Sys2Proof.Machine.execSmulhu e g d a b s
  | .smulhs e g d a b => Sys2Proof.Machine.execSmulhs e g d a b s
  | .sdivu e g d a b => Sys2Proof.Machine.execSdivu e g d a b s
  | .sdivs e g d a b => Sys2Proof.Machine.execSdivs e g d a b s
  | .sremu e g d a b => Sys2Proof.Machine.execSremu e g d a b s
  | .srems e g d a b => Sys2Proof.Machine.execSrems e g d a b s
  | .smins e g d a b => Sys2Proof.Machine.execSmins e g d a b s
  | .sminu e g d a b => Sys2Proof.Machine.execSminu e g d a b s
  | .smaxs e g d a b => Sys2Proof.Machine.execSmaxs e g d a b s
  | .smaxu e g d a b => Sys2Proof.Machine.execSmaxu e g d a b s
  | .sand e g d a b => Sys2Proof.Machine.execSand e g d a b s
  | .sor e g d a b => Sys2Proof.Machine.execSor e g d a b s
  | .sxor e g d a b => Sys2Proof.Machine.execSxor e g d a b s
  | .sandn e g d a b => Sys2Proof.Machine.execSandn e g d a b s
  | .sshl e g d a b => Sys2Proof.Machine.execSshl e g d a b s
  | .sshru e g d a b => Sys2Proof.Machine.execSshru e g d a b s
  | .sshrs e g d a b => Sys2Proof.Machine.execSshrs e g d a b s
  | .sbfe e g d a b => Sys2Proof.Machine.execSbfe e g d a b s
  | .sbfi e g d a b => Sys2Proof.Machine.execSbfi e g d a b s
  | .spopc e d a => Sys2Proof.Machine.execSpopc e d a s
  | .sclz e d a => Sys2Proof.Machine.execSclz e d a s
  | .sctz e d a => Sys2Proof.Machine.execSctz e d a s
  | .sbrev e d a => Sys2Proof.Machine.execSbrev e d a s
  | .snot e d a => Sys2Proof.Machine.execSnot e d a s
  | .sneg e d a => Sys2Proof.Machine.execSneg e d a s
  | .ssx32 e d a => Sys2Proof.Machine.execSsx32 e d a s
  | .szx32 e d a => Sys2Proof.Machine.execSzx32 e d a s
  | .smov e d a => Sys2Proof.Machine.execSmov e d a s
  | .scmpeq e g d a b => Sys2Proof.Machine.execScmpeq e g d a b s
  | .scmplts e g d a b => Sys2Proof.Machine.execScmplts e g d a b s
  | .scmpltu e g d a b => Sys2Proof.Machine.execScmpltu e g d a b s
  | .scmples e g d a b => Sys2Proof.Machine.execScmples e g d a b s
  | .scmpleu e g d a b => Sys2Proof.Machine.execScmpleu e g d a b s
  | .ssel e g d a b => Sys2Proof.Machine.execSsel e g d a b s
  | .sgetst d sel => Sys2Proof.Machine.execSgetst d sel s
  | .ssetst e g a b => Sys2Proof.Machine.execSsetst e g a b s
  | .sfadd e g d a b => Sys2Proof.Machine.execSfadd e g d a b s
  | .sfsub e g d a b => Sys2Proof.Machine.execSfsub e g d a b s
  | .sfmul e g d a b => Sys2Proof.Machine.execSfmul e g d a b s
  | .sffma e g d a b => Sys2Proof.Machine.execSffma e g d a b s
  | .sfcmplt e g d a b => Sys2Proof.Machine.execSfcmplt e g d a b s
  | .sfcvt e d a n => Sys2Proof.Machine.execSfcvt e d a n s
  | .saddi d a imm => Sys2Proof.Machine.execSaddi d a imm s
  | .sandi d a imm => Sys2Proof.Machine.execSandi d a imm s
  | .sori d a imm => Sys2Proof.Machine.execSori d a imm s
  | .sxori d a imm => Sys2Proof.Machine.execSxori d a imm s
  | .sshli d a imm => Sys2Proof.Machine.execSshli d a imm s
  | .sshrui d a imm => Sys2Proof.Machine.execSshrui d a imm s
  | .sshrsi d a imm => Sys2Proof.Machine.execSshrsi d a imm s
  | .scmpeqi d a imm => Sys2Proof.Machine.execScmpeqi d a imm s
  | .scmpltsi d a imm => Sys2Proof.Machine.execScmpltsi d a imm s
  | .scmpltui d a imm => Sys2Proof.Machine.execScmpltui d a imm s
  | .bri a n => Sys2Proof.Machine.execBri a n s
  | .jr e a => Sys2Proof.Machine.execJr e a s
  | .callr e a => Sys2Proof.Machine.execCallr e a s
  | .exit => Sys2Proof.Machine.execExit s
  | .exitto a n => Sys2Proof.Machine.execExitto a n s
  | .spawn d a => Sys2Proof.Machine.execSpawn d a s
  | .bar => Sys2Proof.Machine.execBar s
  | .barSp => Sys2Proof.Machine.execBarSp s
  | .parv d n k => Sys2Proof.Machine.execParv d n k s
  | .pwait a k => Sys2Proof.Machine.execPwait a k s
  | .win imm => Sys2Proof.Machine.execWin imm s
  | .winq d => Sys2Proof.Machine.execWinq d s
  | .vsw k => Sys2Proof.Machine.execVsw k s
  | .yield => Sys2Proof.Machine.execYield s
  | .nop => Sys2Proof.Machine.execNop s
  | .sysc n => Sys2Proof.Machine.execSysc n s
  | .brk n => Sys2Proof.Machine.execBrk n s
  | .tret => Sys2Proof.Machine.execTret s
  | .enq e g d a b => Sys2Proof.Machine.execEnq e g d a b s
  | .join e d a => Sys2Proof.Machine.execJoin e d a s
  | .msd e d a n => Sys2Proof.Machine.execMsd e d a n s
  | .msdWithdraw e d a => Sys2Proof.Machine.execMsdWithdraw e d a s
  | .msx e g d a b => Sys2Proof.Machine.execMsx e g d a b s
  | .hstat d sel => Sys2Proof.Machine.execHstat d sel s
  | .hstatLog e d a sel => Sys2Proof.Machine.execHstatLog e d a sel s
  | .sigmask e d a => Sys2Proof.Machine.execSigmask e d a s
  | .sighand e d a => Sys2Proof.Machine.execSighand e d a s
  | .sighandCause d => Sys2Proof.Machine.execSighandCause d s
  | .sighandTaddr d => Sys2Proof.Machine.execSighandTaddr d s
  | .sighandTmask d => Sys2Proof.Machine.execSighandTmask d s
  | .sighandFaddr d => Sys2Proof.Machine.execSighandFaddr d s
  | .pget d sel => Sys2Proof.Machine.execPget d sel s
  | .pset a sel => Sys2Proof.Machine.execPset a sel s
  | .unpark e g d a b => Sys2Proof.Machine.execUnpark e g d a b s
  | .sig e d a => Sys2Proof.Machine.execSig e d a s
  | .tinj e g d a b => Sys2Proof.Machine.execTinj e g d a b s
  | .swapo e g d a b => Sys2Proof.Machine.execSwapo e g d a b s
  | .swapi e g d a b => Sys2Proof.Machine.execSwapi e g d a b s
  | .sysrp e g d a b => Sys2Proof.Machine.execSysrp e g d a b s
  | .tlbinv e g a b => Sys2Proof.Machine.execTlbinv e g a b s
  | .tfence sel => Sys2Proof.Machine.execTfence sel s
  | .tprobe e g d a b => Sys2Proof.Machine.execTprobe e g d a b s
  | .aspill e g d a b => Sys2Proof.Machine.execAspill e g d a b s
  | .afill e g d a b => Sys2Proof.Machine.execAfill e g d a b s
  | .chres e g d a b => Sys2Proof.Machine.execChres e g d a b s
  | .chabt e g d a b => Sys2Proof.Machine.execChabt e g d a b s
  | .lmapw e g d a b => Sys2Proof.Machine.execLmapw e g d a b s
  | .chkmFloor d a => Sys2Proof.Machine.execChkmFloor d a s
  | .chkmLmap d a => Sys2Proof.Machine.execChkmLmap d a s
  | .chkmLfail d a => Sys2Proof.Machine.execChkmLfail d a s
  | .chkmCmap d a => Sys2Proof.Machine.execChkmCmap d a s
  | .chkmCnt d a => Sys2Proof.Machine.execChkmCnt d a s
  | .chkmClr d a => Sys2Proof.Machine.execChkmClr d a s
  | .trcfg g d sel b => Sys2Proof.Machine.execTrcfg g d sel b s
  | .bpset e g d a b => Sys2Proof.Machine.execBpset e g d a b s
  | .wpset e g d a b => Sys2Proof.Machine.execWpset e g d a b s
  | .smpl d p => Sys2Proof.Machine.execSmpl d p s
  | .garmShare e g d a b => Sys2Proof.Machine.execGarmShare e g d a b s
  | .garmRead e g d a b => Sys2Proof.Machine.execGarmRead e g d a b s
  | .garmRelease e g d a b => Sys2Proof.Machine.execGarmRelease e g d a b s
  | .dcfg g d sel b => Sys2Proof.Machine.execDcfg g d sel b s
  | .carve g d b => Sys2Proof.Machine.execCarve g d b s
  | .ctxon g d b => Sys2Proof.Machine.execCtxon g d b s
  | .ctxoff g d b => Sys2Proof.Machine.execCtxoff g d b s
  | .qarm g d b => Sys2Proof.Machine.execQarm g d b s
  | .kill g d b => Sys2Proof.Machine.execKill g d b s
  | .vreq e g d a b => Sys2Proof.Machine.execVreq e g d a b s
  | .halt e d a => Sys2Proof.Machine.execHalt e d a s
  | .resm e d a => Sys2Proof.Machine.execResm e d a s
  | .intfwAck e g d a b => Sys2Proof.Machine.execIntfwAck e g d a b s
  | .intfwFwd e g d a b => Sys2Proof.Machine.execIntfwFwd e g d a b s
  | .intfwRaise e g d a b => Sys2Proof.Machine.execIntfwRaise e g d a b s
  | .intfwSend e g d a b => Sys2Proof.Machine.execIntfwSend e g d a b s
  | .ldb d a imm => Sys2Proof.Machine.execLdb d a imm s
  | .ldbs d a imm => Sys2Proof.Machine.execLdbs d a imm s
  | .ldh d a imm => Sys2Proof.Machine.execLdh d a imm s
  | .ldhs d a imm => Sys2Proof.Machine.execLdhs d a imm s
  | .ldw d a imm => Sys2Proof.Machine.execLdw d a imm s
  | .ldd d a imm => Sys2Proof.Machine.execLdd d a imm s
  | .ldq d a imm => Sys2Proof.Machine.execLdq d a imm s
  | .stb d a imm => Sys2Proof.Machine.execStb d a imm s
  | .sth d a imm => Sys2Proof.Machine.execSth d a imm s
  | .stw d a imm => Sys2Proof.Machine.execStw d a imm s
  | .std d a imm => Sys2Proof.Machine.execStd d a imm s
  | .stq d a imm => Sys2Proof.Machine.execStq d a imm s
  | .sld d a imm => Sys2Proof.Machine.execSld d a imm s
  | .sldw d a imm => Sys2Proof.Machine.execSldw d a imm s
  | .sst d a imm => Sys2Proof.Machine.execSst d a imm s
  | .sstw d a imm => Sys2Proof.Machine.execSstw d a imm s
  | .ldwx e g d a b => Sys2Proof.Machine.execLdwx e g d a b s
  | .stwx e g d a b => Sys2Proof.Machine.execStwx e g d a b s
  | .lda d a sel z => Sys2Proof.Machine.execLda d a sel z s
  | .stl d a sel z => Sys2Proof.Machine.execStl d a sel z s
  | .fence sel => Sys2Proof.Machine.execFence sel s
  | .xfence sel p q => Sys2Proof.Machine.execXfence sel p q s
  | .atadd e g d a b => Sys2Proof.Machine.execAtadd e g d a b s
  | .atmins e g d a b => Sys2Proof.Machine.execAtmins e g d a b s
  | .atminu e g d a b => Sys2Proof.Machine.execAtminu e g d a b s
  | .atmaxs e g d a b => Sys2Proof.Machine.execAtmaxs e g d a b s
  | .atmaxu e g d a b => Sys2Proof.Machine.execAtmaxu e g d a b s
  | .atand e g d a b => Sys2Proof.Machine.execAtand e g d a b s
  | .ator e g d a b => Sys2Proof.Machine.execAtor e g d a b s
  | .atxor e g d a b => Sys2Proof.Machine.execAtxor e g d a b s
  | .atxchg e g d a b => Sys2Proof.Machine.execAtxchg e g d a b s
  | .atcas e g d a b => Sys2Proof.Machine.execAtcas e g d a b s
  | .atfadd e g d a b => Sys2Proof.Machine.execAtfadd e g d a b s
  | .atdadd e g d a b => Sys2Proof.Machine.execAtdadd e g d a b s
  | .atdcas e g d a b => Sys2Proof.Machine.execAtdcas e g d a b s
  | .vatfadd e g a b => Sys2Proof.Machine.execVatfadd e g a b s
  | .vatbadd e g a b => Sys2Proof.Machine.execVatbadd e g a b s
  | .vatfmax e g a b => Sys2Proof.Machine.execVatfmax e g a b s
  | .vatiadd e g a b => Sys2Proof.Machine.execVatiadd e g a b s
  | .waitc e g sel t c w r b => Sys2Proof.Machine.execWaitc e g sel t c w r b s
  | .pref a imm => Sys2Proof.Machine.execPref a imm s
  | .cinv a imm => Sys2Proof.Machine.execCinv a imm s
  | .cwb a imm => Sys2Proof.Machine.execCwb a imm s
  | .ldpv d a z o => Sys2Proof.Machine.execLdpv d a z o s
  | .stpv d a z o => Sys2Proof.Machine.execStpv d a z o s
  | .ldbc d a imm => Sys2Proof.Machine.execLdbc d a imm s
  | .cpgt e g c k a b => Sys2Proof.Machine.execCpgt e g c k a b s
  | .cptg e g c k a b => Sys2Proof.Machine.execCptg e g c k a b s
  | .cpgg e g c k a b => Sys2Proof.Machine.execCpgg e g c k a b s
  | .cpat e g c k a b => Sys2Proof.Machine.execCpat e g c k a b s
  | .cpgs e g c k a b => Sys2Proof.Machine.execCpgs e g c k a b s
  | .cpsg e g c k a b => Sys2Proof.Machine.execCpsg e g c k a b s
  | .cpix e g c k a b => Sys2Proof.Machine.execCpix e g c k a b s
  | .tld e d a m n => Sys2Proof.Machine.execTld e d a m n s
  | .tst e d a m n => Sys2Proof.Machine.execTst e d a m n s
  | .cwp e g a b => Sys2Proof.Machine.execCwp e g a b s
  | .cwait e a => Sys2Proof.Machine.execCwait e a s
  | .cdone e d a => Sys2Proof.Machine.execCdone e d a s
  | .cfill e g c k a b => Sys2Proof.Machine.execCfill e g c k a b s
  | .ccan c => Sys2Proof.Machine.execCcan c s
  | .mmaBf16 e g k sel z a b => Sys2Proof.Machine.execMmaBf16 e g k sel z a b s
  | .mmaF16 e g k sel z a b => Sys2Proof.Machine.execMmaF16 e g k sel z a b s
  | .mmaE4m3 e g k sel z a b => Sys2Proof.Machine.execMmaE4m3 e g k sel z a b s
  | .mmaE5m2 e g k sel z a b => Sys2Proof.Machine.execMmaE5m2 e g k sel z a b s
  | .mmaMxe2m1 e g k sel z a b => Sys2Proof.Machine.execMmaMxe2m1 e g k sel z a b s
  | .mmaMxe4m3 e g k sel z a b => Sys2Proof.Machine.execMmaMxe4m3 e g k sel z a b s
  | .mmaMxe2m3 e g k sel z a b => Sys2Proof.Machine.execMmaMxe2m3 e g k sel z a b s
  | .mmaI8 e g k sel z a b => Sys2Proof.Machine.execMmaI8 e g k sel z a b s
  | .mgang e a => Sys2Proof.Machine.execMgang e a s
  | .macq d w n => Sys2Proof.Machine.execMacq d w n s
  | .mrel a => Sys2Proof.Machine.execMrel a s
  | .mzero k => Sys2Proof.Machine.execMzero k s
  | .mdrain e d a v => Sys2Proof.Machine.execMdrain e d a v s
  | .mcfg d c => Sys2Proof.Machine.execMcfg d c s
  | .mstat e d a => Sys2Proof.Machine.execMstat e d a s
  | .mwait e a => Sys2Proof.Machine.execMwait e a s
  | .br a o => Sys2Proof.Machine.execBr a o s
  | .brz a o => Sys2Proof.Machine.execBrz a o s
  | .bru a o => Sys2Proof.Machine.execBru a o s
  | .bruz a o => Sys2Proof.Machine.execBruz a o s
  | .brs a o => Sys2Proof.Machine.execBrs a o s
  | .jmp o => Sys2Proof.Machine.execJmp o s
  | .call o => Sys2Proof.Machine.execCall o s
  | .sloop a o => Sys2Proof.Machine.execSloop a o s
  | .smovl d imm => Sys2Proof.Machine.execSmovl d imm s
  | .smovh d imm => Sys2Proof.Machine.execSmovh d imm s
  | .smovx d imm => Sys2Proof.Machine.execSmovx d imm s
  | .smovt d imm => Sys2Proof.Machine.execSmovt d imm s
  | .vmovl d imm => Sys2Proof.Machine.execVmovl d imm s
  | .vmovh d imm => Sys2Proof.Machine.execVmovh d imm s
  | .strandAged key => Sys2Proof.Machine.execStrandAged key s
  | .lineFill key n => Sys2Proof.Machine.execLineFill key n s
  | .lineEvict key n => Sys2Proof.Machine.execLineEvict key n s
  | .frontierRefill key => Sys2Proof.Machine.execFrontierRefill key s
  | .producerWriteback key place => Sys2Proof.Machine.execProducerWriteback key place s
  | .floatWriteback key place => Sys2Proof.Machine.execFloatWriteback key place s
  | .successorStart key => Sys2Proof.Machine.execSuccessorStart key s
  | .slotFree key => Sys2Proof.Machine.execSlotFree key s
  | .binAgeExpiry ccb b => Sys2Proof.Machine.execBinAgeExpiry ccb b s
  | .gatherFormation ccb => Sys2Proof.Machine.execGatherFormation ccb s
  | .l1Fill core line => Sys2Proof.Machine.execL1Fill core line s
  | .storeLost core place => Sys2Proof.Machine.execStoreLost core place s
  | .accessTimeout key place lanes => Sys2Proof.Machine.execAccessTimeout key place lanes s
  | .promotionRequest line => Sys2Proof.Machine.execPromotionRequest line s
  | .monitorFire place => Sys2Proof.Machine.execMonitorFire place s
  | .waitcPoll key => Sys2Proof.Machine.execWaitcPoll key s
  | .monitorWake key => Sys2Proof.Machine.execMonitorWake key s
  | .tailPoll q => Sys2Proof.Machine.execTailPoll q s
  | .commandStart core ccb ch => Sys2Proof.Machine.execCommandStart core ccb ch s
  | .deliveryUnit core ccb ch => Sys2Proof.Machine.execDeliveryUnit core ccb ch s
  | .commandCompletion core ccb ch => Sys2Proof.Machine.execCommandCompletion core ccb ch s
  | .channelFault core ccb ch => Sys2Proof.Machine.execChannelFault core ccb ch s
  | .rendezvousComplete core place => Sys2Proof.Machine.execRendezvousComplete core place s
  | .rendezvousTimeout core place => Sys2Proof.Machine.execRendezvousTimeout core place s
  | .mmaOperationComplete core error column => Sys2Proof.Machine.execMmaOperationComplete core error column s
  | .macqRetry key => Sys2Proof.Machine.execMacqRetry key s
  | .drainEntryReady key q bad => Sys2Proof.Machine.execDrainEntryReady key q bad s
  | .accDeadlockSwap core => Sys2Proof.Machine.execAccDeadlockSwap core s
  | .mxnSet core => Sys2Proof.Machine.execMxnSet core s
  | .columnMapOut core column => Sys2Proof.Machine.execColumnMapOut core column s
  | .walkComplete core pasid user kind va => Sys2Proof.Machine.execWalkComplete core pasid user kind va s
  | .heldEventEntry core => Sys2Proof.Machine.execHeldEventEntry core s
  | .machineCheck ccb sub => Sys2Proof.Machine.execMachineCheck ccb sub s
  | .tailRead q => Sys2Proof.Machine.execTailRead q s
  | .recordPop q => Sys2Proof.Machine.execRecordPop q s
  | .queueResume q => Sys2Proof.Machine.execQueueResume q s
  | .starvationAge record id => Sys2Proof.Machine.execStarvationAge record id s
  | .cohortPlacement q => Sys2Proof.Machine.execCohortPlacement q s
  | .promotion ccb => Sys2Proof.Machine.execPromotion ccb s
  | .demotion ccb => Sys2Proof.Machine.execDemotion ccb s
  | .quantumExpiry ccb => Sys2Proof.Machine.execQuantumExpiry ccb s
  | .preemption => Sys2Proof.Machine.execPreemption s
  | .switchRequest ccb target => Sys2Proof.Machine.execSwitchRequest ccb target s
  | .variantSwitch ccb => Sys2Proof.Machine.execVariantSwitch ccb s
  | .switchTimeout ccb => Sys2Proof.Machine.execSwitchTimeout ccb s
  | .swapOut ccb => Sys2Proof.Machine.execSwapOut ccb s
  | .swapIn ccb => Sys2Proof.Machine.execSwapIn ccb s
  | .migration ccb core => Sys2Proof.Machine.execMigration ccb core s
  | .carveModeChange core => Sys2Proof.Machine.execCarveModeChange core s
  | .cohortCompletion ccb => Sys2Proof.Machine.execCohortCompletion ccb s
  | .launchCompletion id => Sys2Proof.Machine.execLaunchCompletion id s
  | .debugStop ccb => Sys2Proof.Machine.execDebugStop ccb s
  | .sampleTag core bench => Sys2Proof.Machine.execSampleTag core bench s
  | .sampleRecord core place => Sys2Proof.Machine.execSampleRecord core place s
  | .laneReissue key lane passes => Sys2Proof.Machine.execLaneReissue key lane passes s
  | .lmapUpdate core bench => Sys2Proof.Machine.execLmapUpdate core bench s
  | .cloneReplay core bench bad => Sys2Proof.Machine.execCloneReplay core bench bad s
  | .patrolRead line => Sys2Proof.Machine.execPatrolRead line s
  | .hostMemWrite addr size value => Sys2Proof.Machine.execHostMemWrite addr size value s
  | .hostMemRead addr size => Sys2Proof.Machine.execHostMemRead addr size s
  | .bar0Access fn off size write value => Sys2Proof.Machine.execBar0Access fn off size write value s
  | .mailboxDoorbell fn m value => Sys2Proof.Machine.execMailboxDoorbell fn m value s
  | .flushComplete core => Sys2Proof.Machine.execFlushComplete core s
  | .atsInvalidationRequest pasid va count => Sys2Proof.Machine.execAtsInvalidationRequest pasid va count s
  | .peerInboundAccess aid addr kind size value cmp => Sys2Proof.Machine.execPeerInboundAccess aid addr kind size value cmp s
  | .portDown u => Sys2Proof.Machine.execPortDown u s
  | .portWidthChange u lanes => Sys2Proof.Machine.execPortWidthChange u lanes s
  | .claimTimerExpiry src => Sys2Proof.Machine.execClaimTimerExpiry src s
  | .icack src => Sys2Proof.Machine.execIcack src s
  | .msixUnmask fn vec => Sys2Proof.Machine.execMsixUnmask fn vec s
  | .integrityCheckFail portC fn => Sys2Proof.Machine.execIntegrityCheckFail portC fn s
  | .ideKeyManagement fn secure => Sys2Proof.Machine.execIdeKeyManagement fn secure s
  | .spdmRequest index => Sys2Proof.Machine.execSpdmRequest index s
  | .keyExchange => Sys2Proof.Machine.execKeyExchange s
  | .lockInterfaceRequest fn => Sys2Proof.Machine.execLockInterfaceRequest fn s
  | .startInterfaceRequest fn => Sys2Proof.Machine.execStartInterfaceRequest fn s
  | .stopInterfaceRequest fn => Sys2Proof.Machine.execStopInterfaceRequest fn s
  | .getDeviceInterfaceReport fn => Sys2Proof.Machine.execGetDeviceInterfaceReport fn s
  | .hostConfigWrite fn item v => Sys2Proof.Machine.execHostConfigWrite fn item v s
  | .functionLevelReset fn => Sys2Proof.Machine.execFunctionLevelReset fn s
  | .powerFail => Sys2Proof.Machine.execPowerFail s
  | .drainComplete => Sys2Proof.Machine.execDrainComplete s
  | .gdone => Sys2Proof.Machine.execGdone s
  | .gskip handle => Sys2Proof.Machine.execGskip handle s
  | .policySliceEnd => Sys2Proof.Machine.execPolicySliceEnd s
  | .extentWrites => Sys2Proof.Machine.execExtentWrites s
  | .sealLog => Sys2Proof.Machine.execSealLog s
  | .railCollapse => Sys2Proof.Machine.execRailCollapse s
  | .supplyReturn => Sys2Proof.Machine.execSupplyReturn s
  | .logErase => Sys2Proof.Machine.execLogErase s
  | .thermalAlarm temp => Sys2Proof.Machine.execThermalAlarm temp s
  | .thermalTrip => Sys2Proof.Machine.execThermalTrip s
  | .powerAlarm watts => Sys2Proof.Machine.execPowerAlarm watts s
  | .powerAlarmEnd => Sys2Proof.Machine.execPowerAlarmEnd s
  | .powerGood => Sys2Proof.Machine.execPowerGood s
  | .stage1 ok => Sys2Proof.Machine.execStage1 ok s
  | .stage2 ok root entry => Sys2Proof.Machine.execStage2 ok root entry s
  | .firmwareUpdate slot version size digest verified => Sys2Proof.Machine.execFirmwareUpdate slot version size digest verified s
  | .activateFirmware root entry => Sys2Proof.Machine.execActivateFirmware root entry s
  | .getState => Sys2Proof.Machine.execGetState s
  | .startScrub nonce => Sys2Proof.Machine.execStartScrub nonce s
  | .grant id => Sys2Proof.Machine.execGrant id s
  | .revoke => Sys2Proof.Machine.execRevoke s
  | .getRecord => Sys2Proof.Machine.execGetRecord s
  | .revokeDeadline => Sys2Proof.Machine.execRevokeDeadline s
  | .scrubComplete lines covered => Sys2Proof.Machine.execScrubComplete lines covered s
  | .registerWrite block off value => Sys2Proof.Machine.execRegisterWrite block off value s
  | .hostSnoop addr size takes value => Sys2Proof.Machine.execHostSnoop addr size takes value s
  | .globalObservationResponse core relaxed place => Sys2Proof.Machine.execGlobalObservationResponse core relaxed place s
  | .portUp port lanes => Sys2Proof.Machine.execPortUp port lanes s
  | .portPDown => Sys2Proof.Machine.execPortPDown s
  | .portCError lost => Sys2Proof.Machine.execPortCError lost s
  | .portPError => Sys2Proof.Machine.execPortPError s
  | .resetDevice => Sys2Proof.Machine.execResetDevice s
  | .serviceCoreMessage core => Sys2Proof.Machine.execServiceCoreMessage core s

end Sys2Proof.Machine
end

