-- ==== Sys2Proof/Machine/Fetch.lean ====
section
/-! DEFINITION. One issue: which strand of a bench issues, the fetch and decoding of its next word, and the passing of
cycles (05 R120; 06 R152 to R162; 12 R335). -/

namespace Sys2Proof.Machine

/-! ### Fetching a word (05 R120, 12 R335) -/

/-- What a fetch ends in: a word, the cause that its translation or access met with what its record says of the walk, or
nothing for a context that is not active (12 R494). -/
inductive FetchEnd where
  | word (w : Word)
  | fail (c : Cause) (w : Walked)
  | nothing
  deriving DecidableEq, Repr

/-- A word of code at a place, through the instruction cache of a core: a cached line that has been stored to since gives
the old word or the new one (R120). -/
def State.cachedWord (s : State) (core : Nat) (p : Phys) : State × Word :=
  let k := s.core core
  let key := p.addr / 128 * 2 + (decide (p.loc = .host)).toNat
  let lo := 8 * (p.addr % 128)
  let line := Memory.readN (s.memory p.loc) (p.addr / 128 * 128) 128
  let new : Word := BitVec.ofNat 32 (natBits line lo 32)
  let fill := s.setCore core { k with icode := Tab.put k.icode key line }
  if Tab.has k.icode key then
    let old : Word := BitVec.ofNat 32 (natBits (Tab.get 0 k.icode key) lo 32)
    if old = new then (s, new)
    else if Config.freeBool s.free then (s.tick, old)
    else (fill.tick, new)
  else (fill, new)

/-- Fetch the word at a PC. -/
def State.fetchWord (s : State) (st : Strand) (pc : Pc) : State × FetchEnd :=
  match s.translate st.core (s.pasidOf st) (!st.sup) .fetch pc.toNat with
  | (s1, .dropped) => (s1, .nothing)
  | (s1, .fail c w) => (s1, .fail c w)
  | (s1, .ok p w) =>
    if p.loc = .host ∧ s1.hostUp = false then (s1, .fail .hostLink w)
    else if s1.errorAt p.loc p.addr 4 then (s1, .fail .uncorrectable w)
    else
      let (s2, w) := s1.cachedWord st.core p
      (s2, .word w)

/-- A fetch fault: 0x1E for the lanes of the entry, with its record and its sub-cause (12 R335, R336). -/
def State.fetchFault (s : State) (c : Cause) (w : Walked) : State :=
  let st := s.cur
  let e := candidate st
  let f : LaneFault := { lane := 0, cause := .instructionFetch, va := pcWord e.pc, walk := some w }
  s.settle [] [{
    cause := .instructionFetch, mask := e.mask, taddr := pcWord e.pc, sub := c.code,
    records := if st.sup then [] else s.faultRecords st e.pc .fetch c.code (some e.mask) [f] }]

/-- Run a fetched word: a word that is no instruction raises 0x01 (03 R59). -/
noncomputable def State.runWord (s : State) (w : Word) : Host.Outcome State Fault Refusal :=
  match decode w with
  | .ok i => exec i s
  | .error _ => .next (s.raiseAll .illegalOpcode)

/-- Whether the strand that issues was held back: its stall reason. -/
def State.curStall (s : State) : Nat := s.cur.stall

/-- A replay entry that the issue of a strand has made keeps the word of its instruction (17 R456); `n` is how many there were
before. -/
def State.keepWord (s : State) (st : Strand) (n : Nat) (w : Word) : State :=
  let q := s.replayQueue st
  if n < q.length then
    let k := s.core st.core
    let named := q.zipIdx.map fun x => if x.2 = n then { x.1 with word := w } else x.1
    s.setCore st.core { k with replays := Tab.put k.replays st.bench named }
  else s

/-- Fetch and run the candidate entry of the current strand, and tag it for the sampler if it issued (18 R478). -/
noncomputable def State.runEntry (s : State) (e : Entry) : Host.Outcome State Fault Refusal :=
  match s.fetchWord s.cur e.pc with
  | (s1, .nothing) => .next (s1.stallWith 12)
  | (s1, .fail c w) => .next (s1.fetchFault c w)
  | (s1, .word w) =>
    match ({ s1 with reached := 0 } : State).runWord w with
    | .next t =>
      .next (if t.curStall = 0 then (t.keepWord s.cur (s1.replayQueue s.cur).length w).tagIssue s.cur e w else t)
    | .fault f => .fault f
    | .refused r => .refused r

/-! ### An attempt to issue (R155 to R162) -/

/-- The stall reason of entries that are all held: a strand with entries at a barrier and entries at a `vsw` waits for both, and
the lower reason, 4, is reported, as R162 has it of reasons; that it speaks of such a mixture is the model's choice (log 115). -/
def heldReason (l : List Entry) : Nat :=
  if l.any fun e => decide (e.hold = .gang) then 3
  else if l.any fun e => decide (e.hold = .barrier) then 4 else 6

/-- The bound that a spilled frontier (10) or a float result whose flags may trap (12) sets: the strand issues nothing. -/
def Strand.bound (st : Strand) : Option Nat :=
  if st.resident < 8 ∧ st.resident < st.frontier.length then some 10
  else if st.floats.any fun f => f.te != 0 then some 12
  else none

/-- The current strand issues its candidate entry, or reports why it does not: the lowest reason that applies (R162). -/
noncomputable def State.tryIssue (s : State) : Host.Outcome State Fault Refusal :=
  let st := s.cur
  match st.frontier.find? fun e => decide (e.hold = .no) with
  | none => .next (if st.sup && st.frontier.isEmpty then s else s.stallWith (if st.frontier.isEmpty then 8 else heldReason st.frontier))
  | some e =>
    if e.parked then .next (s.stallWith 1)
    else if st.frontier.any fun x => x.pending then .next (s.stallWith 2)
    else if (st.waitAt e.pc).isSome then .next (s.stallWith 5)
    else
      match st.bound, s.breakAt e fun s => s.runEntry e with
      | some b, .next t => .next (if 0 < t.curStall ∧ t.curStall ≤ b then t else s.stallWith b)
      | some _, r => r
      | none, r => r

/-- Make a strand the one that issues; a wait whose entry has left its place is over. -/
def State.select (s : State) (key : Nat) : State := ({ s with curKey := key } : State).dropWait key

/-! ### Choosing a strand of a bench (R152) -/

/-- Whether a strand may issue at all: hot, in a cohort that runs; or a supervisor strand that runs (06 R152). -/
def State.issuable (s : State) (st : Strand) : Bool :=
  if st.sup then !(s.core st.core).supStopped && !st.frontier.isEmpty
  else
    let c := s.cohort st.ccb
    st.hot && !st.exited && decide (c.residency = .hot) && !c.halted && !c.dead && !c.stopping && decide (c.leaving = none)

/-- The order in which the strands of a bench are taken (R152, R174). Among strands that all yield, whose order R174 leaves
open, the model keeps that of R152 without its ageing (log 100). -/
def State.issueRank (s : State) (st : Strand) : List Nat :=
  if st.sup then [0]
  else if 0 < st.yield then [2, 7 - (s.cohort st.ccb).cls, st.lastIssue, st.slot]
  else if st.aged then [1, 0, 2 ^ 64 - st.ready, st.slot]
  else [1, 1, 7 - (s.cohort st.ccb).cls, st.lastIssue, st.slot]

/-- The strands of a bench in that order. -/
def State.benchOrder (s : State) (core bench : Nat) : List Nat :=
  (sortKeyed (fun x : Nat × Strand => s.issueRank x.2) (s.strands.filter fun x =>
    x.2.core == core && (if x.2.sup then bench == 0 else x.2.bench == bench) && s.issuable x.2)).map fun x => x.1

/-- A strand that is not chosen reports what holds it back in this cycle, as the state before the issue shows it; 0 for a
candidate (R162). -/
noncomputable def State.report (s before : State) (key : Nat) : State :=
  match (before.select key).tryIssue with
  | .next t =>
    if Tab.has s.strands key then s.setStrand key { (s.strand key).withStall (t.strand key).stall with tried := s.now } else s
  | .fault _ | .refused _ => s

/-- The first strand in an order that issues; the others report their stall reasons. The strand that issued is answered
with the state. -/
noncomputable def State.issueFirst (s : State) : List Nat → Host.Outcome (State × Option Nat) Fault Refusal
  | [] => .next (s, none)
  | k :: t =>
    match (s.select k).tryIssue with
    | .next s1 => if s1.curStall = 0 then .next (t.foldl (fun u x => u.report s x) s1, some k) else s1.issueFirst t
    | .fault f => .fault f
    | .refused r => .refused r

/-- A strand after n counted ready cycles of its bench in which it did not issue: those of an unbroken run are counted, and at
128 it is aged (R152). A cycle in which reason 12 holds it back is not counted (04 Table 4-2). -/
def Strand.afterCycles (st : Strand) (n : Nat) : Strand :=
  if st.stall = 0 then { st with ready := st.ready + n, aged := st.aged || decide (128 ≤ st.ready + n) } else st

/-- Whether a strand is a hot user strand of a bench. -/
def Strand.onBench (st : Strand) (core bench : Nat) : Bool := st.core == core && st.bench == bench && st.hot && !st.sup

/-- A cycle of a bench runs its yields down (R174). -/
def State.passYields (s : State) (core bench : Nat) : State :=
  { s with strands := s.strands.map fun x =>
      if x.2.onBench core bench && x.2.yield != 0 then (x.1, { x.2 with yield := x.2.yield - 1 }) else x }

/-- The ready cycles of a bench are counted for the strands in its order that did not issue; a cycle that the supervisor strand
takes is none (04 R84). A strand that has exited and waits for its producers reports reason 8 (R171). -/
def State.countReady (s : State) (core bench n : Nat) (order : List Nat) (issued : Option Nat) : State :=
  let counts := decide (issued ≠ some (supKey core))
  { s with strands := s.strands.map fun x =>
      if !x.2.onBench core bench then x
      else if x.2.exited && !x.2.freed then (x.1, x.2.withStall 8)
      else if counts && decide (some x.1 ≠ issued) && order.contains x.1 then (x.1, x.2.afterCycles n)
      else x }

/-- The images of what is resident follow it: spill areas, barrier words, ages of bins, drain streams and span words (R158,
R176, R182; 04 R97; 11 R319). -/
def State.followImages (s : State) : State :=
  let here := (s.cohorts.filter fun c => s.resident c.2.ccb).map fun c => c.2.ccb
  let s1 := here.foldl (fun (s : State) c =>
    (((s.cohort c).keys.foldl (fun (s : State) k => (s.saveSpill k).saveDrains k) s).showBarrier c).showBins c) s
  (s1.spans.map fun x => x.1).foldl (fun (s : State) x => s.saveSpan x) s1

/-- A cohort that neither is hot nor is ready does not wait: the time that it has waited begins anew (14 R377, R380). -/
def State.followWaits (s : State) : State :=
  { s with cohorts := s.cohorts.map fun x =>
      (x.1, if x.2.residency ≠ .hot ∧ s.readyGroup x.2 = false then { x.2 with waitSince := s.now } else x.2) }

/-- n cycles pass: rendezvous of gangs that do not run wait for that time (11 R299), switch requests lapse and rendezvous of
switches begin (14 R387, R388), waits are timed, cohorts that a machine check has stopped lose their work (14 R398), failed lanes
and columns are mapped out (17 R450, R454), and images follow what they show. -/
def State.elapse (s : State) (n : Nat) : State :=
  let s1 := (s.cores.map fun k => k.1).foldl (fun (s : State) c => s.pauseGangs c n) { s with now := s.now + n }
  let s2 := (s1.cohorts.map fun c => c.2.ccb).foldl (fun (s : State) c => s.followSwitch c) s1
  s2.stopAllDead.followDispatch.followMaps.followSkips.followWaits.followImages

/-- Whether a word is of the vector integer or the vector float engine: class 00 (03 Tables 3-5 and 3-7). -/
def vectorWord (w : Word) : Bool := w.toNat / 2 ^ 30 == 0

/-- Whether the next word that a strand issues is one of a vector engine. -/
def State.nextVector (s : State) (st : Strand) : Bool :=
  match (s.fetchWord st (candidate st).pc).2 with
  | .word w => vectorWord w
  | .fail _ _ | .nothing => false

/-- Whether a strand waits for its replays at a compare point, or a move or a switch of its cohort does (17 R456, R457). Reason 11
before an instruction of a vector engine is that of a full queue. -/
def State.awaitsReplay (s : State) (r : Replay) : Bool :=
  let st := s.strand r.key
  let c := s.cohort st.ccb
  (decide (st.stall = 11) && !s.nextVector st) || c.leaving.isSome || c.stopping || c.meet.isSome

/-- The oldest replay of a bench that satisfies a test issues and finds no mismatch. -/
def State.passReplay (s : State) (core bench : Nat) (p : Replay → Bool) : State :=
  let k := s.core core
  let q := Tab.get [] k.replays bench
  match q.findIdx? p with
  | some i => s.setCore core { k with replays := Tab.set [] k.replays bench (q.eraseIdx i) }
  | none => s

/-- Whether replays of a bench take its issue slot ahead of its user strands (17 R456). -/
def State.replaysFirst (s : State) (core bench : Nat) : Bool := (Tab.get [] (s.core core).replays bench).any s.awaitsReplay

/-- One cycle of a bench: the strand that R152 singles out issues, if there is one. Replays that something waits for go before
all but the supervisor strand, in a cycle that is no ready cycle; another one issues where nothing else does, and unless
CLONE_REPLAY has said otherwise it finds no mismatch (17 R456). On a bench that is degraded an instruction takes a second cycle,
in which nothing else issues (R154). -/
noncomputable def State.issueBench (s : State) (core bench : Nat) : Host.Outcome (State × Option Nat) Fault Refusal :=
  let order := s.benchOrder core bench
  let first := s.replaysFirst core bench
  let sp := s.passYields core bench
  match sp.issueFirst (if first then order.filter fun k => decide (2 ^ 64 ≤ k) else order) with
  | .next (s0, k) =>
    let s1 := if !first then s0 else (order.filter fun k => decide (k < 2 ^ 64)).foldl (fun u x => u.report sp x) s0
    if k.isSome && (s.lmapOf core bench).getLsbD 63 then
      .next (((s1.countReady core bench 2 order k).passYields core bench).elapse 1, k)
    else if k.isSome then .next (s1.countReady core bench 1 order k, k)
    else
      let n := if first then 0 else 1
      .next ((s1.countReady core bench n order k).passReplay core bench (if first then s.awaitsReplay else fun _ => true), k)
  | .fault f => .fault f
  | .refused r => .refused r

/-- Each bench in turn, until one issues. -/
noncomputable def State.issueAny (s : State) : List Nat → Host.Outcome State Fault Refusal
  | [] => .next s
  | b :: t =>
    match ({ s with turn := b + 1 } : State).issueBench (b / 4) (b % 4) with
    | .next (s1, some _) => .next s1
    | .next (s1, none) => s1.issueAny t
    | .fault f => .fault f
    | .refused r => .refused r

/-- The benches that have a strand, those from the turn on first. -/
def State.benches (s : State) : List Nat :=
  let all := s.strands.foldl (fun l x => insertNat (4 * x.2.core + if x.2.sup then 0 else x.2.bench) l) []
  (all.filter fun b => decide (s.turn ≤ b)) ++ all.filter fun b => decide (b < s.turn)

/-! ### Events and time -/

/-- Whether an event is one of those that engines begin while the device runs, and that neither a hold nor a power-fail
sequence lets begin (01 R18; 16 Table 16-7). -/
def beginsWork : Instr → Bool
  | .strandAged _ | .frontierRefill _ | .successorStart _ | .slotFree _ | .promotionRequest _ | .monitorFire _
  | .monitorWake _ | .waitcPoll _ | .walkComplete .. | .heldEventEntry _ | .machineCheck .. | .serviceCoreMessage _
  | .binAgeExpiry .. | .gatherFormation _ | .lineFill .. | .lineEvict .. | .channelFault .. | .macqRetry _
  | .drainEntryReady .. | .rendezvousComplete .. | .rendezvousTimeout .. | .mxnSet _ | .sampleTag .. | .sampleRecord ..
  | .laneReissue .. | .lmapUpdate .. | .columnMapOut .. | .commandStart .. | .deliveryUnit .. | .commandCompletion .. => true
  | _ => false

/-- Whether the next event may take place: an instruction is no event; what engines begin needs a device that runs, and so do
the units of a command, which stops at a boundary (10 R291); in a power-fail sequence no trap is delivered (16 Table 16-7). A
lane check fails in an instruction of a vector engine (17 R449), and a replay issues where something waits for it or its bench
issues nothing else (17 R456). -/
noncomputable def State.admits (s : State) (i : Instr) : Bool :=
  if (encode i).isSome then false
  else
    match i with
    | .accessTimeout .. => decide (s.guard.sequence = .none)
    | .laneReissue key _ _ => s.acting && s.nextVector (s.strand key)
    | .cloneReplay core bench _ =>
      !s.acting || s.replaysFirst core bench || (match s.issueBench core bench with
        | .next (_, none) => true
        | .next (_, some _) | .fault _ | .refused _ => false)
    | _ => !beginsWork i || s.acting

/-- One cycle passes after an outcome. -/
def afterStep : Host.Outcome State Fault Refusal → Host.Outcome State Fault Refusal
  | .next s => .next (s.elapse 1)
  | .fault f => .fault f
  | .refused r => .refused r

/-- The first command of a channel is to meet an uncorrectable byte (17 R463; log 8). -/
def State.flawCommand (s : State) (core : Nat) (ccb : DWord) (ch : Nat) : State :=
  match s.headCommand core ccb ch with
  | some m => s.setHead core ccb ch { m with flawed := true }
  | none => s

/-- What byte of a cohort is to be uncorrectable: one of its tile window, or of its scratch (17 R463; log 8). -/
def Cohort.flaw (c : Cohort) (tile : Bool) : Cohort :=
  if tile then { c with flawedTile := true } else { c with flawed := true }

/-- What the agenda says comes next (log 8): an event, a cycle of a bench, cycles that pass, what becomes uncorrectable, and what
the host, peers, service cores and requesters do that has no row of its own. -/
noncomputable def State.follow (s : State) : Agenda → Host.Outcome State Fault Refusal
  | .event i => if s.admits i then afterStep (exec i s) else .next (s.elapse 1)
  | .bench core bench =>
    if s.acting then
      match s.issueBench core bench with
      | .next (s1, _) => .next (s1.elapse 1)
      | .fault f => .fault f
      | .refused r => .refused r
    else .next (s.elapse 1)
  | .pass n => .next (s.elapse n)
  | .mismatch key lanes => .next (s.setStrand key { s.strand key with cloneLanes := lanes })
  | .damage loc word => .next (if loc = 0 then s.damage .dev word else if loc = 1 then s.damage .host word else s.damage .peer word)
  | .flawStrand key lanes => .next (if Tab.has s.strands key then s.setStrand key { s.strand key with flawed := lanes } else s)
  | .flawCommand core ccb ch => .next (s.flawCommand core ccb ch)
  | .hostFails b => .next { s with link := { s.link with hostFails := b } }
  | .flawCohort ccb tile => .next (if s.liveCohort ccb then s.setCohort ccb ((s.cohort ccb).flaw tile) else s)
  | .corrected core tile => .next (if core < 192 then s.countCheck core tile.toNat else s)
  | .peerWrite addr size value => .next (s.peerWrite addr size value)
  | .peerAck core place => .next (s.peerAck core place)
  | .configRead fn item => .next (s.configRead fn item)
  | .registerRead block off => .next (s.readRegister block off)
  | .serviceWrite addr size value => .next (s.serviceWrite addr size value)
  | .serviceRead addr size => .next (s.serviceRead addr size)
  | .decoder i d => .next (s.setDecoder i d)
  | .hdmRead hpa size => s.hdm hpa size fun a s => execHostMemRead a size s
  | .hdmWrite hpa size value => s.hdm hpa size fun a s => execHostMemWrite a size value s
  | .hostPosted addr size value => .next (s.hostPosted addr size value)
  | .ingress => .next s.performIngress
  | .spdm a => .next (s.spdm a)
  | .linkKeys id secure => .next (s.linkKeys id secure)
  | .linkIntegrity id => .next (s.linkIntegrity id)
  | .coverStream fn owner => .next (s.coverStream fn owner)

/-! ### A small machine that runs one word -/

/-- The bytes of a word of n bytes at a local address. -/
def placeWord (m : Memory) (a n v : Nat) : Memory := Memory.writeN m a n v

/-- Where the strand that the agenda lets issue fetches its next word, if it can. -/
def State.nextFetch (s : State) : Option Phys :=
  match s.agenda with
  | .bench core bench :: _ =>
    if !s.acting then none
    else
      match s.benchOrder core bench with
      | [] => none
      | k :: _ =>
        let st := s.strand k
        match (s.translate st.core (s.pasidOf st) (!st.sup) .fetch (candidate st).pc.toNat).2 with
        | .ok p _ => some p
        | .fail _ _ | .dropped => none
  | _ => none

/-- The memory of a small machine: a level-1 entry at 0x10000, a level-2 leaf of 1 GiB at 0x20000, and the word at
0x100000. -/
def harnessMemory (m : Memory) (w : Nat) : Memory :=
  placeWord (placeWord (placeWord m 0x10000 8 0x20001) 0x20000 8 harnessLeaf) 0x100000 4 w
where
  /-- V, L, R, W, X and U of a local leaf. -/
  harnessLeaf : Nat := 0x3F

/-- A machine with one strand about to issue at 0x100000: the supervisor strand of core 0 for a privileged opcode, else a
strand of a small cohort (log 8). -/
def State.harness (s : State) (w : Nat) : State :=
  let sup := decide (0xE0 ≤ w / 2 ^ 23 % 2 ^ 9 ∧ w / 2 ^ 23 % 2 ^ 9 < 0x100)
  let e : Entry := { mask := BitVec.allOnes 64, prio := 0x8000, pc := 0x100000 }
  let user : Strand := {
    key := 0x300000, cib := 0x300000, ccb := 0x200000, nlines := 128, frontier := [e], hot := true }
  let cohort : Cohort := {
    ccb := 0x200000, pasid := 1, residency := .hot, pmap := [(0, 0x8000)], cibs := [some 0x300000], frame := 0x200000,
    variants := [{ lines := 128, acc := 1, scratch := 4096 }] }
  { s with
    local_ := harnessMemory s.local_ w, fwRoot := 0x10001,
    contexts := [(0, { pasid := 1, root := 0x10001 })],
    strands := if sup then [(supKey 0, { Strand.fresh (supKey 0) with frontier := [e] })] else [(0x300000, user)],
    cohorts := if sup then [] else [(0x200000, cohort)], cores := [], slices := [],
    root := { s.root with stage := some 2, hold := false, lease := .leased }, guard := { s.guard with sequence := .none },
    agenda := [.bench 0 0] }

end Sys2Proof.Machine
end

