-- ==== Sys2Proof/Machine/Step.lean ====
section
/-! DEFINITION. The step: what the agenda says, or the next issue of the benches in turn; and the placing of one word
(log 8). -/

namespace Sys2Proof.Machine

/-- One step of the device. With an empty agenda the benches are offered their cycles in turn. -/
noncomputable def step (s : State) : Host.Outcome State Fault Refusal :=
  match s.agenda with
  | [] => if s.acting then afterStep (s.issueAny s.benches) else .next (s.elapse 1)
  | a :: t => ({ s with agenda := t } : State).follow a

/-- The state with a word of nbits placed where the next step fetches: at the next PC of the strand that the agenda lets
issue, else in a small machine about to issue it (log 8). -/
def State.withFetchWord (s : State) (nbits w : Nat) : State :=
  let v := w % 2 ^ nbits
  match s.nextFetch with
  | some p =>
    let s1 : State := { s with cores := s.cores.map fun k => (k.1, { k.2 with icode := [] }) }
    if p.loc = .host then { s1 with host := placeWord s1.host p.addr 4 v } else { s1 with local_ := placeWord s1.local_ p.addr 4 v }
  | none => s.harness v

end Sys2Proof.Machine
end

