-- ==== Sys2Proof/Safety.lean ====
section
/-! DEFINITION. The terms that statements are made in: when an instruction has nothing that holds it back, what a state
keeps of another, and what the shapes of results are. No meaning uses them. -/

namespace Sys2Proof.Machine

/-! ### When an instruction executes -/

/-- Whether a pop finds an entry. -/
def Peek.isEntry : Peek → Bool
  | .entry _ => true
  | .empty => false
  | .bad _ _ => false

/-- Nothing holds an instruction with these operand fields back: every code is accepted (03 R50 to R53), its lines are
declared and resident (04 R98, 01 R8), its sources and destinations are full (03 R49, 04 R99), the queues it pops hold an
entry and the one it pushes has room (04 R102), no outstanding float result or rendezvous bears on its lines (09 R250,
11 R303), no result that is given later stands before one of them (08 R229), and no source is uncorrectable in a lane of the
entry (17 R463). -/
structure Ready (s : State) (us : List Use) (extra : List Nat := []) : Prop where
  accepted : us.all (fun u => u.accepted) = true
  allowed : us.all (fun u => !s.cur.misuses u) = true
  entries : (sourceQueues us).all (fun q => (s.peek s.cur q).isEntry) = true
  room : (destQueues us).all (fun q => (sourceQueues us).contains q || decide (s.mailboxLoad (s.cohort s.cur.ccb) < 16)) = true
  declared : (usedLines us s.cur.wb).all (fun n => decide (n < s.cur.nlines)) = true
  full : (usedLines us s.cur.wb ++ extra).all (fun n => s.cur.vFull.getLsbD n && !s.cur.absent.getLsbD n) = true
  scalars : us.all (fun u => match u.scalar? with | some m => s.cur.sFull.getLsbD m | none => true) = true
  floats : s.cur.floatBusy (usedLines us s.cur.wb ++ extra) (!(destQueues us).isEmpty) = false
  matrix : s.matrixBusy s.cur us = false
  late : s.cur.lateIn s.now (usedLines us s.cur.wb ++ extra) = false
  sound : s.flawedLanes us = 0

/-- The check engine takes no part: check mode 0 and nothing of the strand in the replay queue (17 R454 to R460). -/
structure Unchecked (s : State) : Prop where
  mode : s.cur.chk = 0
  matched : s.cur.cloneBad = none
  replayed : ((s.replayQueue s.cur).any fun r => r.key == s.cur.key) = false

/-- The strand that issues has a candidate entry with a lane in it, and no lanes have left its instruction in this cycle with
a cause that stands beside it (13 R347). -/
def HasLanes (s : State) : Prop := (candidate s.cur).mask ≠ 0 ∧ s.cur.also = []

/-! ### What a state keeps of another -/

/-- A strand's registers are those of another, but for the lines of L, the scalars of S, and STAT, which is given. -/
structure SameRegisters (a b : Strand) (L S : Nat → Prop) (stat : DWord) : Prop where
  lines : ∀ n, ¬ L n → b.line n = a.line n
  scalars : ∀ m, ¬ S m → b.scalar m = a.scalar m
  stat : b.stat = stat
  window : b.wb = a.wb
  gang : b.gang = a.gang
  cause : b.cause = a.cause
  taddr : b.taddr = a.taddr
  tmask : b.tmask = a.tmask
  handler : b.handler = a.handler
  sigmask : b.sigmask = a.sigmask
  faddr : b.faddr = a.faddr

/-- Every byte of every memory is as before: local, host and peer memory, the scratch of cohorts, the tile stores. -/
structure SameMemory (s t : State) : Prop where
  local_ : t.local_ = s.local_
  host : t.host = s.host
  peer : t.peer = s.peer
  scratch : ∀ c, (t.cohort c).scratch = (s.cohort c).scratch
  tile : ∀ c, (t.core c).tile = (s.core c).tile

/-- The registers that belong to no strand: dispatch, link, guard and root controller, and a core's. -/
structure SameEngines (s t : State) : Prop where
  disp : t.disp = s.disp
  link : t.link = s.link
  guard : t.guard = s.guard
  root : t.root = s.root
  contexts : t.contexts = s.contexts
  frb : ∀ c, (t.core c).frb = (s.core c).frb
  frt : ∀ c, (t.core c).frt = (s.core c).frt
  frh : ∀ c, (t.core c).frh = (s.core c).frh
  tgt : ∀ c, (t.core c).tgt = (s.core c).tgt
  lmap : ∀ c, (t.core c).lmap = (s.core c).lmap
  cmap : ∀ c, (t.core c).cmap = (s.core c).cmap

/-- What an instruction of the issuing strand leaves alone: of that strand all but the lines of L, the scalars of S and STAT;
of every other strand all registers; memory; and the engines' registers. -/
structure Keeps (s t : State) (L S : Nat → Prop) (stat : DWord) : Prop where
  issuing : t.curKey = s.curKey
  own : SameRegisters s.cur t.cur L S stat
  others : ∀ k, k ≠ s.curKey → SameRegisters (s.strand k) (t.strand k) (fun _ => False) (fun _ => False) (s.strand k).stat
  memory : SameMemory s t
  engines : SameEngines s t
  /-- A pop of a drain stream may clear elements (11 R319); nothing else here changes an accumulator. -/
  accumulators : s.cur.drains = [] → t.cur.drains = [] ∧ ∀ c, (t.core c).accs = (s.core c).accs

/-! ### The shapes of results -/

/-- A vector result f in the lanes of the entry, at destination d (08 R227, 04 R99): the line's lanes in the mask; or, if a
source pops a queue, the line emptied and the same lanes given to a producer; or one entry pushed, its other lanes zero. -/
structure VectorResult (s t : State) (us : List Use) (d : Code) (f : Nat → Word) : Prop where
  now : d.toNat < 0x60 → popsInto us = false → ∀ l, l < 64 →
    laneOf (t.cur.line (s.cur.wb + d.toNat)) l =
      if (candidate s.cur).mask.getLsbD l then f l else laneOf (s.cur.line (s.cur.wb + d.toNat)) l
  late : d.toNat < 0x60 → popsInto us = true → t.cur.vFull.getLsbD (s.cur.wb + d.toNat) = false ∧
    ∃ p ∈ t.cur.producers, p.lines = [(s.cur.wb + d.toNat, (candidate s.cur).mask, mergeLine zeroLine (candidate s.cur).mask f)]
  push : ¬ d.toNat < 0x60 → (t.cohort s.cur.ccb).mailbox =
    ((s.popSources us).cohort s.cur.ccb).mailbox ++ [mergeLine zeroLine (candidate s.cur).mask f]
  keeps : Keeps s t (fun n => d.toNat < 0x60 ∧ popsInto us = false ∧ n = s.cur.wb + d.toNat) (fun _ => False) s.cur.stat

/-- A scalar result v at destination d (03 R52, 04 R99, 06 R178): the scalar; or, if a source pops a queue, the scalar emptied
and the value given to a producer; or one entry pushed. STAT is given: a scalar write sets SDW while the frontier holds several
entries. -/
structure ScalarResult (s t : State) (us : List Use) (d : Code) (v stat : DWord) : Prop where
  now : d.toNat < 64 → popsInto us = false → t.cur.scalar d.toNat = v
  late : d.toNat < 64 → popsInto us = true → t.cur.sFull.getLsbD d.toNat = false ∧
    ∃ p ∈ t.cur.producers, p.scalars = [(d.toNat, v)]
  push : ¬ d.toNat < 64 → (t.cohort s.cur.ccb).mailbox =
    ((s.popSources us).cohort s.cur.ccb).mailbox ++ [pairLine v]
  keeps : Keeps s t (fun _ => False) (fun m => d.toNat < 64 ∧ popsInto us = false ∧ m = d.toNat) stat

/-- A scalar is emptied and its value given to a producer, as a read of a lane into a scalar does (08 R229, 04 R99). -/
structure GivenScalar (s t : State) (m : Nat) (v : DWord) : Prop where
  empty : t.cur.sFull.getLsbD m = false
  producer : ∃ p ∈ t.cur.producers, p.scalars = [(m, v)]
  keeps : Keeps s t (fun _ => False) (fun _ => False) s.cur.markScalarWrite.stat

/-- Float results r, a value and flags by lane, wait to be written (09 R246, R250 to R252): the entry's lanes, place,
priority and STAT.TE at issue, and a line, two lines or an entry to be pushed. -/
structure FloatQueued (s t : State) (d : Code) (wide : Bool) (r : Nat → Nat × Flags) : Prop where
  result : ∃ q, t.cur.floats = s.cur.floats ++ [q] ∧ q.mask = (candidate s.cur).mask ∧ q.pc = (candidate s.cur).pc ∧
    q.prio = (candidate s.cur).prio ∧ q.te = s.cur.te ∧
    (s.cur.shadow = false → ∀ l, l < 64 → q.mask.getLsbD l = true → q.flags.getD l 0 = (r l).2) ∧
    (d.toNat < 0x60 → q.push = none ∧ ∃ lo hi : Line,
      q.lines = (if wide then [(s.cur.wb + d.toNat, q.mask, lo), (s.cur.wb + d.toNat + 1, q.mask, hi)]
        else [(s.cur.wb + d.toNat, q.mask, lo)]) ∧
      ∀ l, l < 64 → q.mask.getLsbD l = true →
        laneOf lo l = BitVec.ofNat 32 (r l).1 ∧ laneOf hi l = BitVec.ofNat 32 ((r l).1 / 2 ^ 32)) ∧
    (¬ d.toNat < 0x60 → q.lines = [] ∧ ∃ x, q.push = some (d.toNat - 0x70, x) ∧
      ∀ l, l < 64 → laneOf x l = if q.mask.getLsbD l then BitVec.ofNat 32 (r l).1 else 0)
  keeps : Keeps s t (fun _ => False) (fun _ => False) s.cur.stat

/-- Nothing is written: the lanes only go on. -/
def OnlyGoesOn (s t : State) : Prop := Keeps s t (fun _ => False) (fun _ => False) s.cur.stat

/-- The frontier after an issue whose outcomes are given (06 R157, R159): the candidate entry is gone, and each outcome with a lane
in it is an entry, in frontier order and merged. -/
def State.moved (s : State) (outs : List (Pc × Mask)) : List Entry :=
  orderFrontier (dropCandidate s.cur.frontier ++ (outs.filter fun o => decide (o.2 ≠ 0)).map fun o =>
    { mask := o.2, prio := s.nextPrio s.cur (candidate s.cur).prio o.1, pc := o.1 })

/-- The issue has these outcomes and no barrier of the cohort is pending, which their arrival could complete (06 R180). -/
def Goes (s t : State) (outs : List (Pc × Mask)) : Prop :=
  s.cur.sup = true ∨ s.curCohort.barrier = none → t.cur.frontier = s.moved outs

/-- Flow records are off in the strand's core (18 R476). -/
def Untraced (s : State) : Prop := natBit (s.core s.cur.core).trace.tctl.toNat 0 = false

/-- Nothing but one strand has changed. -/
structure OnlyStrand (s t : State) (key : Nat) : Prop where
  others : ∀ k, k ≠ key → t.strand k = s.strand k
  cohorts : t.cohorts = s.cohorts
  memory : SameMemory s t
  engines : SameEngines s t

/-- The event queue and the fault ring have a place for a cause of the issuing strand, and nothing is held before it (13 R351). -/
def State.placeFor (s : State) (r : Raise) : Bool := (s.core s.cur.core).held.isEmpty && (s.core s.cur.core).roomFor r

/-- The lanes of a cause without fault records leave the issuing entry for a parked one, and its event stands at the end of
the event queue; without a place they stay at the instruction in an entry that waits, and the cause is held (13 R345, R350,
R351); nothing else changes. -/
structure ParksLanes (s t : State) (r : Raise) : Prop where
  parked : s.placeFor r = true → ∃ e ∈ t.cur.frontier, e.parked = true ∧ e.mask = r.mask ∧ e.cause = some r.cause ∧
    e.pc = if r.restartsNext then (candidate s.cur).pc + 4 else (candidate s.cur).pc
  event : s.placeFor r = true → (t.core s.cur.core).evq = (s.core s.cur.core).evq ++
    [{ cause := r.cause, sub := r.sub, sync := true, parked := true, bench := s.cur.bench, slot := s.cur.slot,
       pasid := s.curCohort.pasid, param := r.param, cib := s.cur.cib, taddr := r.taddr, tmask := r.mask,
       pc := BitVec.ofNat 64 (candidate s.cur).pc.toNat, seq := none }]
  waits : s.placeFor r = false → (∃ e ∈ t.cur.frontier, e.pending = true ∧ e.mask = r.mask ∧ e.cause = some r.cause ∧
    e.pc = (candidate s.cur).pc) ∧
    (t.core s.cur.core).held = (s.core s.cur.core).held ++ [.cause s.curKey (candidate s.cur) r]
  keeps : Keeps s t (fun _ => False) (fun _ => False) s.cur.stat

end Sys2Proof.Machine
end

