-- ==== Sys2Proof/Certificates/Slice0/Obligations.lean ====
section
/-! DEFINITION. The statements for the provers. Where several matters make one statement, each is a named part of it. -/

namespace Sys2Proof.Claims

end Sys2Proof.Claims

section

open Sys2Proof Sys2Proof.Machine Sys2Proof.Claims

/-! ### Vector integer engine (08) -/

namespace Sys2Proof.Claims

/-- The lanes of the issuing entry. -/
def lanes (s : State) : Mask := (candidate s.cur).mask
/-- The address of the issuing instruction. -/
def place (s : State) : Pc := (candidate s.cur).pc

/-- The fields of a V-format instruction with two vector-class sources. -/
def usesV (e g : Bool) (d a b : Code) : List Use := [⟨.vsrc, a, e⟩, ⟨.vsrc, b, g⟩, ⟨.vdst, d, false⟩]
/-- The same with a destination that is read: a vector register only. -/
def usesM (e g : Bool) (d a b : Code) : List Use := [⟨.vsrc, a, e⟩, ⟨.vsrc, b, g⟩, ⟨.vreg, d, false⟩]
/-- One source, one destination. -/
def usesU (e : Bool) (d a : Code) : List Use := [⟨.vsrc, a, e⟩, ⟨.vdst, d, false⟩]

/-- Tables 8-1 and 8-3: each V-format instruction with what it computes of A[L] and B[L] (R230, R231). -/
def vectorTable : List ((Bool → Bool → Code → Code → Code → Instr) × (Word → Word → Word)) := [
  (.vadd, fun a b => a + b), (.vsub, fun a b => a - b), (.vmullo, fun a b => a * b),
  (.vmulhis, fun a b => BitVec.ofInt 32 (a.toInt * b.toInt / 0x100000000)),
  (.vmulhiu, fun a b => BitVec.ofNat 32 (a.toNat * b.toNat / 0x100000000)),
  (.vadds, fun a b => BitVec.ofInt 32 (max (-0x80000000) (min 0x7FFFFFFF (a.toInt + b.toInt)))),
  (.vsubs, fun a b => BitVec.ofInt 32 (max (-0x80000000) (min 0x7FFFFFFF (a.toInt - b.toInt)))),
  (.vaddx2, fun a b => (a.extractLsb' 16 16 + b.extractLsb' 16 16) ++ (a.extractLsb' 0 16 + b.extractLsb' 0 16)),
  (.vsubx2, fun a b => (a.extractLsb' 16 16 - b.extractLsb' 16 16) ++ (a.extractLsb' 0 16 - b.extractLsb' 0 16)),
  (.vmins, fun a b => if a.toInt ≤ b.toInt then a else b), (.vminu, fun a b => if a.toNat ≤ b.toNat then a else b),
  (.vmaxs, fun a b => if a.toInt ≤ b.toInt then b else a), (.vmaxu, fun a b => if a.toNat ≤ b.toNat then b else a),
  (.vand, fun a b => a &&& b), (.vor, fun a b => a ||| b), (.vxor, fun a b => a ^^^ b), (.vandn, fun a b => a &&& ~~~ b),
  (.vshl, fun a b => a <<< (b.toNat % 32)), (.vshru, fun a b => a >>> (b.toNat % 32)),
  (.vshrs, fun a b => a.sshiftRight (b.toNat % 32)), (.vrot, fun a b => a.rotateLeft (b.toNat % 32)),
  (.vbfeu, fun a b => BitVec.ofNat 32 (a.toNat / 2 ^ (b.toNat % 32) % 2 ^ min (b.toNat / 256 % 64) 32)),
  (.vcmpeq, fun a b => if a = b then 1 else 0), (.vcmplts, fun a b => if a.toInt < b.toInt then 1 else 0),
  (.vcmpltu, fun a b => if a.toNat < b.toNat then 1 else 0), (.vcmples, fun a b => if a.toInt ≤ b.toInt then 1 else 0),
  (.vcmpleu, fun a b => if a.toNat ≤ b.toNat then 1 else 0)]

/-- A bit field of w bits from bit p, sign-extended; 0 for no bits (R231, `vbfes`). -/
def signedField (a : Word) (p w : Nat) : Word :=
  let v := a.toNat / 2 ^ p % 2 ^ w
  if w = 0 then 0 else if v / 2 ^ (w - 1) % 2 = 1 then BitVec.ofInt 32 ((v : Int) - 2 ^ w) else BitVec.ofNat 32 v

/-- The forms that read D[L] as well (R230, R231, R235), and `vbfes`, which does not but takes the same shape of formula. -/
def readModifyTable : List ((Bool → Bool → Code → Code → Code → Instr) × (Word → Word → Word → Word)) := [
  (.vmad, fun a b d => a * b + d),
  (.vdot4s, fun a b d => BitVec.ofInt 32 (d.toInt + ([0, 1, 2, 3].map fun k =>
    (a.extractLsb' (8 * k) 8).toInt * (b.extractLsb' (8 * k) 8).toInt).sum)),
  (.vdot4u, fun a b d => BitVec.ofNat 32 (d.toNat + ([0, 1, 2, 3].map fun k =>
    (a.extractLsb' (8 * k) 8).toNat * (b.extractLsb' (8 * k) 8).toNat).sum)),
  (.vbfi, fun a b d => insertField d a (b.toNat % 32) (min (b.toNat / 256 % 64) 32)),
  (.vsel, fun a b d => if d = 0 then b else a)]

/-- The functions of one source (R233) and `vmov` (R232). -/
def unaryTable : List ((Bool → Code → Code → Instr) × (Word → Word)) := [
  (.vpopc, fun a => BitVec.ofNat 32 ((List.range 32).filter fun i => a.getLsbD i).length),
  (.vclz, fun a => BitVec.ofNat 32 (if a = 0 then 32 else 31 - Nat.log2 a.toNat)),
  (.vctz, fun a => BitVec.ofNat 32 (((List.range 32).find? fun i => a.getLsbD i).getD 32)),
  (.vbrev, fun a => BitVec.ofNat 32 ((List.range 32).foldl (fun acc i => 2 * acc + (a.getLsbD i).toNat) 0)),
  (.vnot, fun a => ~~~ a), (.vabs, fun a => if a.msb then 0 - a else a), (.vneg, fun a => 0 - a),
  (.vsx8, fun a => (a.extractLsb' 0 8).signExtend 32), (.vsx16, fun a => (a.extractLsb' 0 16).signExtend 32),
  (.vzx8, fun a => (a.extractLsb' 0 8).zeroExtend 32), (.vzx16, fun a => (a.extractLsb' 0 16).zeroExtend 32),
  (.vmov, fun a => a)]

/-- The immediate forms (R234): what they compute of A[L] and imm9. -/
def immediateTable : List ((Code → Code → BitVec 9 → Instr) × (Word → BitVec 9 → Word)) := [
  (.vaddi, fun a i => a + i.signExtend 32), (.vmuli, fun a i => a * i.signExtend 32),
  (.vandi, fun a i => a &&& i.signExtend 32), (.vori, fun a i => a ||| i.signExtend 32),
  (.vxori, fun a i => a ^^^ i.signExtend 32),
  (.vcmpeqi, fun a i => if a = i.signExtend 32 then 1 else 0),
  (.vcmpltsi, fun a i => if a.toInt < (i.signExtend 32).toInt then 1 else 0),
  (.vcmpltui, fun a i => if a.toNat < (i.signExtend 32).toNat then 1 else 0)]

/-- The immediate shifts (R234), for counts below 32. -/
def immediateShiftTable : List ((Code → Code → BitVec 9 → Instr) × (Word → Nat → Word)) := [
  (.vshli, fun a n => a <<< n), (.vshrui, fun a n => a >>> n), (.vshrsi, fun a n => a.sshiftRight n)]

/-- The lane that lane L of a shuffle reads, of the number of lanes in the strand's half, from B[L] (R236). -/
def shuffleTable : List ((Bool → Bool → Code → Code → Code → Instr) × (Nat → Nat → Int)) := [
  (.vshfl, fun _ b => b), (.vshflx, fun l b => (Nat.xor l b : Nat)), (.vshflup, fun l b => (l : Int) - b),
  (.vshfldn, fun l b => (l : Int) + b)]

/-- What a reduction combines lanes with, and whether its scalar is sign-extended (R239). -/
def reductionTable : List ((Bool → Code → Code → Instr) × (Word → Word → Word) × Bool) := [
  (.vredadd, fun x y => x + y, false), (.vredmins, fun x y => if x.toInt ≤ y.toInt then x else y, true),
  (.vredmaxs, fun x y => if x.toInt ≤ y.toInt then y else x, true), (.vredand, fun x y => x &&& y, false),
  (.vredor, fun x y => x ||| y, false)]

end Sys2Proof.Claims

/-- 08 R230, R231, R232, Tables 8-1 and 8-3: a ready V-format instruction completes; each lane of the entry gets the table's
value of A[L] and B[L], nothing else changes, and the lanes go on to the next word. -/
def Obligations.VectorIntegerResult : Prop :=
  ∀ p ∈ vectorTable, ∀ (e g : Bool) (d a b : Code) (s : State),
    HasLanes s → s.cur.chk ≠ 1 → Ready s (usesV e g d a b) →
    ∃ t, exec (p.1 e g d a b) s = .next t ∧
      VectorResult s t (usesV e g d a b) d (fun l => p.2 (laneOf (s.vsrc a) l) (laneOf (s.vsrc b) l)) ∧
      Goes s t [(place s + 4, lanes s)]

/-- 08 R230, R231, R235: the same for the forms that read D[L], whose D is a vector register; and for `vbfes`. -/
def Sys2Proof.Claims.VectorReadModifyResult : Prop :=
  (∀ p ∈ readModifyTable, ∀ (e g : Bool) (d a b : Code) (s : State),
    HasLanes s → s.cur.chk ≠ 1 → Ready s (usesM e g d a b) →
    ∃ t, exec (p.1 e g d a b) s = .next t ∧ VectorResult s t (usesM e g d a b) d fun l =>
      p.2 (laneOf (s.vsrc a) l) (laneOf (s.vsrc b) l) (laneOf (s.vsrc d) l)) ∧
  ∀ (e g : Bool) (d a b : Code) (s : State), HasLanes s → s.cur.chk ≠ 1 → Ready s (usesV e g d a b) →
    ∃ t, exec (.vbfes e g d a b) s = .next t ∧ VectorResult s t (usesV e g d a b) d fun l =>
      signedField (laneOf (s.vsrc a) l) ((laneOf (s.vsrc b) l).toNat % 32) (min ((laneOf (s.vsrc b) l).toNat / 256 % 64) 32)

/-- 08 R232, R233: the functions of one source and `vmov`. -/
def Sys2Proof.Claims.VectorUnaryResult : Prop :=
  ∀ p ∈ unaryTable, ∀ (e : Bool) (d a : Code) (s : State), HasLanes s → s.cur.chk ≠ 1 → Ready s (usesU e d a) →
    ∃ t, exec (p.1 e d a) s = .next t ∧ VectorResult s t (usesU e d a) d fun l => p.2 (laneOf (s.vsrc a) l)

/-- 08 R234: the immediate forms; an immediate shift count of 32 or more raises 0x01 for every lane of the entry. -/
def Sys2Proof.Claims.VectorImmediateResult : Prop :=
  (∀ p ∈ immediateTable, ∀ (d a : Code) (i : BitVec 9) (s : State), HasLanes s → s.cur.chk ≠ 1 → Ready s (usesU false d a) →
    ∃ t, exec (p.1 d a i) s = .next t ∧ VectorResult s t (usesU false d a) d fun l => p.2 (laneOf (s.vsrc a) l) i) ∧
  ∀ p ∈ immediateShiftTable, ∀ (d a : Code) (i : BitVec 9) (s : State), s.cur.chk ≠ 1 →
    (i.toNat < 32 → HasLanes s → Ready s (usesU false d a) →
      ∃ t, exec (p.1 d a i) s = .next t ∧ VectorResult s t (usesU false d a) d fun l => p.2 (laneOf (s.vsrc a) l) i.toNat) ∧
    (32 ≤ i.toNat → exec (p.1 d a i) s = .next (s.raiseAll .illegalOpcode))

/-- 08 R230 to R235: the vector integer forms that read D, that take one source and that take an immediate. -/
def Obligations.VectorOtherForms : Prop :=
  Claims.VectorReadModifyResult ∧ Claims.VectorUnaryResult ∧ Claims.VectorImmediateResult

/-- 08 R236, R242: a shuffle gives lane L the lane of A that B[L] names; outside the strand's lanes it gives A[L] with F set,
else 0. A shadow-mode strand shuffles each half of 32 lanes by the lower half's B. -/
def Sys2Proof.Claims.VectorShuffleResult : Prop :=
  ∀ p ∈ shuffleTable, ∀ (e f : Bool) (d a b : Code) (s : State), HasLanes s → s.cur.chk ≠ 1 → Ready s (usesV e false d a b) →
    ∃ t, exec (p.1 e f d a b) s = .next t ∧ VectorResult s t (usesV e false d a b) d fun l =>
      let n := s.cur.threads
      let j := p.2 (l % n) (laneOf (s.vsrc b) (l % n)).toNat
      if 0 ≤ j ∧ j < n then laneOf (s.vsrc a) (j.toNat + l / n * n) else if f then laneOf (s.vsrc a) l else 0

/-- 08 R237, R238: `vrdlane` gives the scalar D the lane of A that B names, or 0; `vwrlane` writes the low 32 bits of A into the
one lane of D that B names, whatever the entry's mask, and nothing for a lane that is none. -/
def Sys2Proof.Claims.LaneMoves : Prop :=
  (∀ (e g : Bool) (d a b : Code) (s : State), HasLanes s → s.cur.chk = 0 →
    Ready s [⟨.vsrc, a, e⟩, ⟨.useg, b, g⟩, ⟨.seg, d, false⟩] →
    ∃ t, exec (.vrdlane e g d a b) s = .next t ∧ GivenScalar s t (d.toNat - 0x60)
      (let k := (s.usrc b).toNat % 0x100000000
       if k < 64 then BitVec.ofNat 64 (laneOf (s.vsrc a) k).toNat else 0)) ∧
  ∀ (e g : Bool) (d a b : Code) (s : State), HasLanes s → s.cur.chk = 0 →
    Ready s [⟨.useg, a, e⟩, ⟨.useg, b, g⟩, ⟨.vreg, d, false⟩] →
    ∃ t, exec (.vwrlane e g d a b) s = .next t ∧
      (∀ l, l < 64 → laneOf (t.cur.line (s.cur.wb + d.toNat)) l =
        if l = (s.usrc b).toNat % 0x100000000 then BitVec.ofNat 32 (s.usrc a).toNat
        else laneOf (s.cur.line (s.cur.wb + d.toNat)) l) ∧
      Keeps s t (fun n => n = s.cur.wb + d.toNat) (fun _ => False) s.cur.stat

/-- 08 R239, R240, R241: outside shadow mode a reduction combines the lanes of the entry in ascending order, into every lane
of D or, extended to 64 bits, into a scalar; `vscanadd` gives each lane the sum of A over the entry's lanes up to it;
`vballot` gives the mask of the entry's lanes whose A is not zero to a scalar or to a pair. -/
def Sys2Proof.Claims.LaneCombinations : Prop :=
  (∀ p ∈ reductionTable, ∀ (e : Bool) (d a : Code) (s : State), HasLanes s → s.cur.chk = 0 →
    Ready s [⟨.vsrc, a, e⟩, ⟨.vred, d, false⟩] →
    let r := reduceLanes p.2.1 (s.vsrc a) (candidate s.cur).mask
    ∃ t, exec (p.1 e d a) s = .next t ∧
      (isSeg d.toNat = true → GivenScalar s t (d.toNat - 0x60) (if p.2.2 then r.signExtend 64 else r.zeroExtend 64)) ∧
      (isSeg d.toNat = false → VectorResult s t [⟨.vsrc, a, e⟩, ⟨.vred, d, false⟩] d fun _ => r)) ∧
  (∀ (e : Bool) (d a : Code) (s : State), HasLanes s → s.cur.chk = 0 → Ready s (usesU e d a) →
    ∃ t, exec (.vscanadd e d a) s = .next t ∧ VectorResult s t (usesU e d a) d fun l =>
      ((List.range 64).filter fun k => (candidate s.cur).mask.getLsbD k && decide (0 ≤ k ∧ k ≤ l)).foldl
        (fun acc k => acc + laneOf (s.vsrc a) k) 0) ∧
  ∀ (e : Bool) (d a : Code) (s : State), HasLanes s → s.cur.chk = 0 → Ready s [⟨.vsrc, a, e⟩, ⟨.vbal, d, false⟩] →
    let us : List Use := [⟨.vsrc, a, e⟩, ⟨.vbal, d, false⟩]
    let m := maskOf fun l => (candidate s.cur).mask.getLsbD l && decide (laneOf (s.vsrc a) l ≠ 0)
    let half (h : Nat) : Word := BitVec.ofNat 32 (m.toNat / 2 ^ (32 * h))
    let line (h : Nat) : Nat := s.cur.wb + d.toNat + h
    ∃ t, exec (.vballot e d a) s = .next t ∧ (isSeg d.toNat = true → GivenScalar s t (d.toNat - 0x60) m) ∧
      (isSeg d.toNat = false → popsInto us = false →
        (∀ h, h < 2 → ∀ l, l < 64 → laneOf (t.cur.line (line h)) l =
          if (candidate s.cur).mask.getLsbD l then half h else laneOf (s.cur.line (line h)) l) ∧
        Keeps s t (fun n => n = line 0 ∨ n = line 1) (fun _ => False) s.cur.stat) ∧
      (isSeg d.toNat = false → popsInto us = true → OnlyGoesOn s t ∧ ∀ h, h < 2 → t.cur.vFull.getLsbD (line h) = false ∧
        ∃ p ∈ t.cur.producers, p.lines =
          [(line h, (candidate s.cur).mask, mergeLine zeroLine (candidate s.cur).mask fun _ => half h)])

/-- 08 R236 to R242: what moves elements between lanes and scalars, and what combines lanes. -/
def Obligations.LaneExchange : Prop :=
  Claims.VectorShuffleResult ∧ Claims.LaneMoves ∧ Claims.LaneCombinations

/-! ### Vector float engine (09) -/

namespace Sys2Proof.Claims

/-- The typed V-format forms (R254 to R257): the operation on one element by format and rounding mode; whether D is read; and
whether the result has 32 bits whatever the type. -/
def floatTable : List ((FType → Bool → Bool → Code → Code → Code → Instr) ×
    (Fmt → Nat → Nat → Nat → Nat → Nat × Flags) × Bool × Bool) := [
  (.vfadd, fun f frm a b _ => f.addVal frm (f.decode a) (f.decode b), false, false),
  (.vfsub, fun f frm a b _ => f.addVal frm (f.decode a) (f.decode b).negate, false, false),
  (.vfmul, fun f frm a b _ => f.roundVal frm (mulVal (f.decode a) (f.decode b)).1, false, false),
  (.vffma, fun f frm a b d => f.fma frm a b (f.decode d), true, false),
  (.vffms, fun f frm a b d => f.fma frm a b (f.decode d).negate, true, false),
  (.vfmin, fun f _ a b _ => opMinMax false f a b, false, false),
  (.vfmax, fun f _ a b _ => opMinMax true f a b, false, false),
  (.vfcmpeq, fun f _ a b _ => (((f.decode a).eq (f.decode b)).toNat, compareFlag false (f.decode a) (f.decode b)), false, true),
  (.vfcmplt, fun f _ a b _ => (((f.decode a).lt (f.decode b)).toNat, compareFlag true (f.decode a) (f.decode b)), false, true),
  (.vfcmple, fun f _ a b _ => (((f.decode a).lt (f.decode b) || (f.decode a).eq (f.decode b)).toNat,
    compareFlag true (f.decode a) (f.decode b)), false, true),
  (.vfcmpun, fun f _ a b _ => (((f.decode a).isNan || (f.decode b).isNan).toNat,
    compareFlag false (f.decode a) (f.decode b)), false, true)]

/-- The U-format functions (R258 to R262), and whether the result has 32 bits whatever the type. -/
def floatUnaryTable : List ((FType → Bool → Code → Code → Instr) × (Fmt → Nat → Nat → Nat × Flags) × Bool) := [
  (.vfsqrt, opVfsqrt, false), (.vfrsq, opVfrsq, false), (.vfrcp, opVfrcp, false), (.vfexp2, opVfexp2, false),
  (.vflog2, opVflog2, false), (.vfsinpi, opVfsinpi, false), (.vfcospi, opVfcospi, false), (.vftanh, opVftanh, false),
  (.vfabs, opVfabs, false), (.vfneg, opVfneg, false), (.vffloor, opVffloor, false), (.vfceil, opVfceil, false),
  (.vftrunc, opVftrunc, false), (.vfrne, opVfrne, false), (.vffrac, opVffrac, false), (.vfclass, opVfclass, true)]

/-- The roles of the fields of a typed form: pairs for .f64, and a destination that is read is a vector register. -/
def usesF (t : FType) (modify narrow e g : Bool) (d a b : Code) : List Use :=
  let src := if typeWide t then Role.vsrc64 else Role.vsrc
  [⟨src, a, e⟩, ⟨src, b, g⟩,
    ⟨if typeWide t && !narrow then .vdst64 else if modify then .vreg else .vdst, d, false⟩]
/-- The same with one source. -/
def usesF1 (t : FType) (narrow e : Bool) (d a : Code) : List Use :=
  [⟨if typeWide t then .vsrc64 else .vsrc, a, e⟩, ⟨if typeWide t && !narrow then .vdst64 else .vdst, d, false⟩]

end Sys2Proof.Claims

/-- 09 R244, R246, R250, R254 to R257: a ready typed float instruction completes: the operation on each element of each lane,
with the rounding mode of STAT, is queued with its flags for write-back, and no register has changed. -/
def Sys2Proof.Claims.VectorFloatResult : Prop :=
  ∀ p ∈ floatTable, ∀ (ty : FType) (e g : Bool) (d a b : Code) (s : State),
    HasLanes s → s.cur.chk ≠ 1 → Ready s (usesF ty p.2.2.1 p.2.2.2 e g d a b) →
    ∃ t, exec (p.1 ty e g d a b) s = .next t ∧ FloatQueued s t d (typeWide ty && !p.2.2.2) fun l =>
      perElement ty (p.2.1 (typeFmt ty) s.cur.frm) ((s.lanesAt (typeWide ty) a).getD l 0)
        ((s.lanesAt (typeWide ty) b).getD l 0)
        ((if p.2.2.1 then s.lanesAt (typeWide ty && !p.2.2.2) d else []).getD l 0)

/-- 09 R258 to R262: the functions of one source. The values of `vfexp2`, `vflog2`, `vfsinpi`, `vfcospi` and `vftanh` are those
of the model's refinement, and a free value where it decides no rounding (log 10). -/
def Sys2Proof.Claims.VectorFloatFunctions : Prop :=
  ∀ p ∈ floatUnaryTable, ∀ (ty : FType) (e : Bool) (d a : Code) (s : State),
    HasLanes s → s.cur.chk ≠ 1 → Ready s (usesF1 ty p.2.2 e d a) →
    ∃ t, exec (p.1 ty e d a) s = .next t ∧ FloatQueued s t d (typeWide ty && !p.2.2) fun l =>
      perElement ty (fun x _ _ => p.2.1 (typeFmt ty) s.cur.frm x) ((s.lanesAt (typeWide ty) a).getD l 0) 0 0

/-- 09 R244 to R262: the typed float instructions and the functions of one source. -/
def Obligations.VectorFloatForms : Prop :=
  Claims.VectorFloatResult ∧ Claims.VectorFloatFunctions

/-- 09 R263 to R266: conversions with a listed code, packing, scaling and the paired dot product. A conversion changes only its
own byte or half of the old destination; one whose code is not listed raises 0x01 for every lane. -/
def Obligations.VectorFloatConversions : Prop :=
  (∀ (sat e : Bool) (d a c : Code) (s : State), s.cur.chk ≠ 1 →
    let wideA := decide (cvtKind c.toNat = .d2w ∨ cvtKind c.toNat = .d2d)
    let wideD := decide (cvtKind c.toNat = .w2d ∨ cvtKind c.toNat = .d2d)
    (cvtListed sat c.toNat = true → HasLanes s →
      Ready s [⟨if wideA then .vsrc64 else .vsrc, a, e⟩, ⟨if wideD then .vdst64 else .vdst, d, false⟩] →
      ∃ t, exec (if sat then .vcvts e d a c else .vcvt e d a c) s = .next t ∧ FloatQueued s t d wideD fun l =>
        let r := convert c.toNat sat s.cur.frm ((s.lanesAt wideA a).getD l 0)
        (mergeConvert c.toNat ((if isVreg d.toNat then s.lanesAt wideD d else []).getD l 0) r.1, r.2)) ∧
    (cvtListed sat c.toNat = false →
      exec (if sat then .vcvts e d a c else .vcvt e d a c) s = .next (s.raiseAll .illegalOpcode))) ∧
  (∀ (h e g : Bool) (d a b : Code) (s : State), HasLanes s → s.cur.chk ≠ 1 → Ready s (usesV e g d a b) →
    ∃ t, exec (if h then .vpackF16 e g d a b else .vpackBf16 e g d a b) s = .next t ∧ FloatQueued s t d false fun l =>
      let f := if h then Fmt.f16 else Fmt.bf16
      let lo := f.narrow false s.cur.frm (Fmt.f32.decode ((s.lanesAt false a).getD l 0))
      let hi := f.narrow false s.cur.frm (Fmt.f32.decode ((s.lanesAt false b).getD l 0))
      (lo.1 + hi.1 * 65536, lo.2 ||| hi.2)) ∧
  (∀ (w e g : Bool) (d a b : Code) (s : State), HasLanes s → s.cur.chk ≠ 1 →
    Ready s [⟨if w then .vsrc64 else .vsrc, a, e⟩, ⟨.vsrc, b, g⟩, ⟨if w then .vdst64 else .vdst, d, false⟩] →
    ∃ t, exec (if w then .vfscaleF64 e g d a b else .vfscaleF32 e g d a b) s = .next t ∧ FloatQueued s t d w fun l =>
      (if w then Fmt.f64 else Fmt.f32).scale s.cur.frm ((s.lanesAt w a).getD l 0) ((s.lanesAt false b).getD l 0)) ∧
  ∀ (h e g : Bool) (d a b : Code) (s : State), HasLanes s → s.cur.chk ≠ 1 → Ready s (usesM e g d a b) →
    ∃ t, exec (if h then .vfdot2F16 e g d a b else .vfdot2Bf16 e g d a b) s = .next t ∧ FloatQueued s t d false fun l =>
      dot2 (if h then .f16 else .bf16) s.cur.frm ((s.lanesAt false a).getD l 0) ((s.lanesAt false b).getD l 0)
        ((s.lanesAt false d).getD l 0)

/-- 09 R246, R250 to R252: FLOAT_WRITEBACK takes a result off the list, writes the lanes of its lines or pushes its entry, and
unites the flags of its lanes into STAT.FL. Without an enabled flag, or in the sequence of a power failure, it changes no other
register and no memory; with one, the trapping lanes leave their entries for a parked one, and its event enters the queue
(stated for lanes that meet one cause, which no handler takes). -/
def Obligations.FloatWriteback : Prop :=
  (∀ (s : State) (key place : Nat) (f : FloatResult), (s.strand key).floats[place]? = some f →
    (f.raises = [] ∨ s.guard.sequence ≠ .none) →
    ∃ t, exec (.floatWriteback key place) s = .next t ∧
      (t.strand key).floats = (s.strand key).floats.eraseIdx place ∧
      (t.strand key).stat = (s.strand key).stat ||| BitVec.ofNat 64 f.union.toNat ∧
      ((f.lines.map fun x => x.1).Nodup → ∀ x ∈ f.lines, ∀ l, l < 64 → laneOf ((t.strand key).line x.1) l =
        if x.2.1.getLsbD l then laneOf x.2.2 l else laneOf ((s.strand key).line x.1) l) ∧
      (∀ x, f.push = some x → (t.cohort (s.strand key).ccb).mailbox = (s.cohort (s.strand key).ccb).mailbox ++ [x.2]) ∧
      (f.push = none → t.cohorts = s.cohorts) ∧
      SameRegisters (s.strand key) (t.strand key) (fun n => ∃ x ∈ f.lines, x.1 = n) (fun _ => False) (t.strand key).stat ∧
      (∀ k, k ≠ key → t.strand k = s.strand k) ∧ SameMemory s t ∧ SameEngines s t) ∧
  ∀ (s : State) (key place : Nat) (f : FloatResult) (r : Raise), (s.strand key).floats[place]? = some f → f.raises = [r] →
    s.guard.sequence = .none → (s.strand key).sup = false →
    ((s.strand key).handler.getLsbD 0 = false ∨ (s.strand key).tm = true) →
    (s.core (s.strand key).core).held = [] → (s.core (s.strand key).core).evq.length < 64 →
    ∃ t, exec (.floatWriteback key place) s = .next t ∧
      (t.strand key).floats = (s.strand key).floats.eraseIdx place ∧
      (t.strand key).stat = (s.strand key).stat ||| BitVec.ofNat 64 f.union.toNat ∧
      (∃ e ∈ (t.strand key).frontier, e.parked = true ∧ e.mask = r.mask ∧ e.cause = some r.cause ∧
        e.pc = if r.restartsNext then f.pc + 4 else f.pc) ∧
      (∃ ev, (t.core (s.strand key).core).evq = (s.core (s.strand key).core).evq ++ [ev] ∧ ev.cause = r.cause ∧
        ev.tmask = r.mask ∧ ev.taddr = pcWord f.pc) ∧
      SameRegisters (s.strand key) (t.strand key) (fun n => ∃ x ∈ f.lines, x.1 = n) (fun _ => False) (t.strand key).stat ∧
      (∀ k, k ≠ key → t.strand k = s.strand k) ∧ SameMemory s t ∧ SameEngines s t

/-- 02 R22, R32, 09 R255: an operation of add, subtract, multiply or fused multiply-add on a NaN operand gives the canonical NaN
of its format, and raises invalid just if an operand is a signalling NaN (or the product is 0 times infinity). -/
def Sys2Proof.Claims.NanOperands : Prop :=
  ∀ (f : Fmt) (frm : Nat) (x y z : FVal), (x.isNan = true ∨ y.isNan = true) →
    (f.addVal frm x y).1 = f.nanBits ∧
    ((f.addVal frm x y).2 = Flags.invalid ↔ x = .nan true ∨ y = .nan true) ∧
    (f.roundVal frm (mulVal x y).1).1 = f.nanBits ∧
    ((f.roundVal frm (mulVal x y).1).2 = Flags.invalid ↔ x = .nan true ∨ y = .nan true) ∧
    (f.addVal frm (mulVal x y).1 z).1 = f.nanBits

/-- 02 R31, Table 2-4: rounding to a multiple of 2^q leaves an exact multiple alone, and otherwise gives the multiple below or
the one above: the one below under RTZ, and the nearer one under RNE. -/
def Sys2Proof.Claims.RoundingBounds : Prop :=
  ∀ (frm : Nat) (neg : Bool) (m s : Nat), s ≤ Nat.log2 m →
    let n := (roundMult frm neg m 0 s false).1
    let exact := decide (m % 2 ^ s = 0)
    (m / 2 ^ s ≤ n ∧ n ≤ m / 2 ^ s + 1) ∧ (exact = true → n = m / 2 ^ s) ∧
    (frm = 1 → n = m / 2 ^ s) ∧
    (frm = 0 → s ≠ 0 → (2 * (m % 2 ^ s) < 2 ^ s → n = m / 2 ^ s) ∧ (2 ^ s < 2 * (m % 2 ^ s) → n = m / 2 ^ s + 1) ∧
      (2 * (m % 2 ^ s) = 2 ^ s → n % 2 = 0)) ∧
    (roundMult frm neg m 0 s false).2 = !exact

/-- 02 R22, R31, R32, Table 2-4, 09 R255: NaN operands, and the bounds of a rounding. -/
def Obligations.FloatRounding : Prop :=
  Claims.NanOperands ∧ Claims.RoundingBounds

/-! ### Scalar unit (06) -/

namespace Sys2Proof.Claims

/-- The fields of a scalar V-format instruction. -/
def usesS (e g : Bool) (d a b : Code) : List Use := [⟨.ssrc, a, e⟩, ⟨.ssrc, b, g⟩, ⟨.sdst, d, false⟩]
/-- The same where D is read. -/
def usesSM (e g : Bool) (d a b : Code) : List Use :=
  [⟨.ssrc, a, e⟩, ⟨.ssrc, b, g⟩, ⟨.ssrc, d, false⟩, ⟨.sdst, d, false⟩]
/-- One source, one destination. -/
def usesSU (e : Bool) (d a : Code) : List Use := [⟨.ssrc, a, e⟩, ⟨.sdst, d, false⟩]

/-- Table 6-5: what each V-format instruction computes of A and B (R184). -/
noncomputable def scalarTable : List ((Bool → Bool → Code → Code → Code → Instr) × (DWord → DWord → DWord)) := [
  (.sadd, fun a b => a + b), (.ssub, fun a b => a - b), (.smul, fun a b => a * b),
  (.smulhu, fun a b => BitVec.ofNat 64 (a.toNat * b.toNat / 2 ^ 64)),
  (.smulhs, fun a b => BitVec.ofInt 64 (a.toInt * b.toInt / 2 ^ 64)),
  (.smins, fun a b => if a.toInt ≤ b.toInt then a else b), (.sminu, fun a b => if a.toNat ≤ b.toNat then a else b),
  (.smaxs, fun a b => if a.toInt ≤ b.toInt then b else a), (.smaxu, fun a b => if a.toNat ≤ b.toNat then b else a),
  (.sand, fun a b => a &&& b), (.sor, fun a b => a ||| b), (.sxor, fun a b => a ^^^ b), (.sandn, fun a b => a &&& ~~~ b),
  (.sshl, fun a b => a <<< (b.toNat % 64)), (.sshru, fun a b => a >>> (b.toNat % 64)),
  (.sshrs, fun a b => a.sshiftRight (b.toNat % 64)),
  (.scmpeq, fun a b => truth (decide (a = b))), (.scmplts, fun a b => truth (decide (a.toInt < b.toInt))),
  (.scmpltu, fun a b => truth (decide (a.toNat < b.toNat))), (.scmples, fun a b => truth (decide (a.toInt ≤ b.toInt))),
  (.scmpleu, fun a b => truth (decide (a.toNat ≤ b.toNat)))]

/-- The divides (R185). -/
noncomputable def divideTable : List ((Bool → Bool → Code → Code → Code → Instr) × (DWord → DWord → DWord)) := [
  (.sdivu, fun a b => BitVec.ofNat 64 (a.toNat / b.toNat)), (.sdivs, fun a b => BitVec.ofInt 64 (a.toInt.tdiv b.toInt)),
  (.sremu, fun a b => BitVec.ofNat 64 (a.toNat % b.toNat)), (.srems, fun a b => BitVec.ofInt 64 (a.toInt.tmod b.toInt))]

/-- The functions of one source and `smov` (R186). -/
noncomputable def scalarUnaryTable : List ((Bool → Code → Code → Instr) × (DWord → DWord)) := [
  (.spopc, fun a => BitVec.ofNat 64 ((List.range 64).filter fun i => a.getLsbD i).length),
  (.sclz, fun a => BitVec.ofNat 64 (if a = 0 then 64 else 63 - Nat.log2 a.toNat)),
  (.sctz, fun a => BitVec.ofNat 64 (((List.range 64).find? fun i => a.getLsbD i).getD 64)),
  (.sbrev, fun a => BitVec.ofNat 64 ((List.range 64).foldl (fun acc i => 2 * acc + (a.getLsbD i).toNat) 0)),
  (.snot, fun a => ~~~ a), (.sneg, fun a => 0 - a), (.ssx32, fun a => (a.extractLsb' 0 32).signExtend 64),
  (.szx32, fun a => (a.extractLsb' 0 32).zeroExtend 64), (.smov, fun a => a)]

/-- The immediate forms (R187). -/
noncomputable def scalarImmediateTable : List ((Code → Code → BitVec 9 → Instr) × (DWord → BitVec 9 → DWord)) := [
  (.saddi, fun a i => a + i.signExtend 64), (.sandi, fun a i => a &&& i.signExtend 64),
  (.sori, fun a i => a ||| i.signExtend 64), (.sxori, fun a i => a ^^^ i.signExtend 64),
  (.scmpeqi, fun a i => truth (decide (a = i.signExtend 64))),
  (.scmpltsi, fun a i => truth (decide (a.toInt < (i.signExtend 64).toInt))),
  (.scmpltui, fun a i => truth (decide (a.toNat < (i.signExtend 64).toNat)))]

/-- The immediate shifts (R187), for counts below 64. -/
noncomputable def scalarShiftTable : List ((Code → Code → BitVec 9 → Instr) × (DWord → Nat → DWord)) := [
  (.sshli, fun a n => a <<< n), (.sshrui, fun a n => a >>> n), (.sshrsi, fun a n => a.sshiftRight n)]

/-- The long immediates (R192), of the old value and imm16. -/
noncomputable def longTable : List ((Code → BitVec 16 → Instr) × (DWord → BitVec 16 → DWord)) := [
  (.smovl, fun _ i => i.zeroExtend 64), (.smovh, fun d i => insertField d (i.zeroExtend 64) 16 16),
  (.smovx, fun d i => insertField d (i.zeroExtend 64) 32 16), (.smovt, fun d i => insertField d (i.zeroExtend 64) 48 16)]

/-- The scalar float forms on FP64 (R190), and whether D is read. -/
noncomputable def scalarFloatTable : List ((Bool → Bool → Code → Code → Code → Instr) × (Nat → Nat → Nat → Nat → Nat × Flags) × Bool) := [
  (.sfadd, fun frm a b _ => Fmt.f64.add frm a b, false), (.sfsub, fun frm a b _ => Fmt.f64.sub frm a b, false),
  (.sfmul, fun frm a b _ => Fmt.f64.mul frm a b, false),
  (.sffma, fun frm a b d => Fmt.f64.fma frm a b (Fmt.f64.decode d), true),
  (.sfcmplt, fun _ a b _ => (((Fmt.f64.decode a).lt (Fmt.f64.decode b)).toNat,
    compareFlag true (Fmt.f64.decode a) (Fmt.f64.decode b)), false)]

/-- The writable fields of STAT: SDW, FRM, TE, FL (04 Table 4-7). -/
def statFields : DWord := BitVec.ofNat 64 (2 ^ 57 + 3 * 2 ^ 16 + 31 * 2 ^ 8 + 31)

/-- The status item of a selector (06 Table 6-8). -/
def statusOf (s : State) (sel : Nat) : DWord :=
  match sel with
  | 0 => s.cur.stat
  | 1 => BitVec.ofNat 64 s.cur.wb
  | 2 => s.cur.cib
  | 3 => (candidate s.cur).mask
  | 4 => BitVec.ofNat 64 s.cur.frontier.length
  | 5 => BitVec.ofNat 64 (s.cur.core + 256 * s.cur.bench)
  | _ => BitVec.ofNat 64 (s.now - s.stage2At)

end Sys2Proof.Claims

/-- 06 R183, R184, Table 6-5: a ready scalar instruction completes: D gets the table's value of A and B, and nothing else
changes but STAT.SDW. -/
def Sys2Proof.Claims.ScalarIntegerResult : Prop :=
  ∀ p ∈ scalarTable, ∀ (e g : Bool) (d a b : Code) (s : State), HasLanes s → Ready s (usesS e g d a b) →
    ∃ t, exec (p.1 e g d a b) s = .next t ∧
      ScalarResult s t (usesS e g d a b) d (p.2 (s.ssrc a) (s.ssrc b)) s.cur.markScalarWrite.stat ∧
      Goes s t [(place s + 4, lanes s)]

/-- 06 R185: a divide by a divisor that is not zero gives its quotient or remainder; a zero divisor raises 0x06 for every lane
of the entry, and D and the queues keep what they hold (TADDR 0: log 11). -/
def Sys2Proof.Claims.ScalarDivide : Prop :=
  ∀ p ∈ divideTable, ∀ (e g : Bool) (d a b : Code) (s : State), Ready s (usesS e g d a b) →
    (s.ssrc b ≠ 0 → HasLanes s → ∃ t, exec (p.1 e g d a b) s = .next t ∧
      ScalarResult s t (usesS e g d a b) d (p.2 (s.ssrc a) (s.ssrc b)) s.cur.markScalarWrite.stat) ∧
    (s.ssrc b = 0 → exec (p.1 e g d a b) s = .next (s.raiseAllAt .divideByZero 0))

/-- 06 R183 to R185: the scalar integer instructions and the divides. -/
def Obligations.ScalarArithmetic : Prop :=
  Claims.ScalarIntegerResult ∧ Claims.ScalarDivide

/-- 06 R184, R186, R187: the functions of one source, the bit-field and select forms and the immediate forms; a shift count of
64 or more and a reserved bit of B in `sbfe` and `sbfi` raise 0x01. -/
def Sys2Proof.Claims.ScalarOtherForms : Prop :=
  (∀ p ∈ scalarUnaryTable, ∀ (e : Bool) (d a : Code) (s : State), HasLanes s → Ready s (usesSU e d a) →
    ∃ t, exec (p.1 e d a) s = .next t ∧ ScalarResult s t (usesSU e d a) d (p.2 (s.ssrc a)) s.cur.markScalarWrite.stat) ∧
  (∀ p ∈ scalarImmediateTable, ∀ (d a : Code) (i : BitVec 9) (s : State), HasLanes s → Ready s (usesSU false d a) →
    ∃ t, exec (p.1 d a i) s = .next t ∧ ScalarResult s t (usesSU false d a) d (p.2 (s.ssrc a) i) s.cur.markScalarWrite.stat) ∧
  (∀ p ∈ scalarShiftTable, ∀ (d a : Code) (i : BitVec 9) (s : State),
    (i.toNat < 64 → HasLanes s → Ready s (usesSU false d a) → ∃ t, exec (p.1 d a i) s = .next t ∧
      ScalarResult s t (usesSU false d a) d (p.2 (s.ssrc a) i.toNat) s.cur.markScalarWrite.stat) ∧
    (64 ≤ i.toNat → exec (p.1 d a i) s = .next (s.raiseAll .illegalOpcode))) ∧
  (∀ (e g : Bool) (d a b : Code) (s : State), Ready s (usesS e g d a b) →
    (fieldReserved (s.ssrc b) = false → HasLanes s → ∃ t, exec (.sbfe e g d a b) s = .next t ∧
      ScalarResult s t (usesS e g d a b) d (BitVec.ofNat 64 ((s.ssrc a).toNat / 2 ^ ((s.ssrc b).toNat % 64) %
        2 ^ min ((s.ssrc b).toNat / 256 % 128) 64)) s.cur.markScalarWrite.stat) ∧
    (fieldReserved (s.ssrc b) = true → exec (.sbfe e g d a b) s = .next (s.raiseAll .illegalOpcode))) ∧
  (∀ (e g : Bool) (d a b : Code) (s : State), Ready s (usesSM e g d a b) →
    (fieldReserved (s.ssrc b) = false → HasLanes s → ∃ t, exec (.sbfi e g d a b) s = .next t ∧
      ScalarResult s t (usesSM e g d a b) d (insertField (s.ssrc d) (s.ssrc a) ((s.ssrc b).toNat % 64)
        (min ((s.ssrc b).toNat / 256 % 128) 64)) s.cur.markScalarWrite.stat) ∧
    (fieldReserved (s.ssrc b) = true → exec (.sbfi e g d a b) s = .next (s.raiseAll .illegalOpcode)) ∧
    (HasLanes s → ∃ t, exec (.ssel e g d a b) s = .next t ∧
      ScalarResult s t (usesSM e g d a b) d (if s.ssrc d = 0 then s.ssrc b else s.ssrc a) s.cur.markScalarWrite.stat))

/-- 06 R192: the long immediates of scalars and vector registers. -/
def Sys2Proof.Claims.LongImmediates : Prop :=
  (∀ p ∈ longTable, ∀ (d : Code) (i : BitVec 16) (s : State), HasLanes s → Ready s [⟨.sreg, d, false⟩] →
    ∃ t, exec (p.1 d i) s = .next t ∧
      ScalarResult s t [⟨.sreg, d, false⟩] d (p.2 (s.cur.scalar d.toNat) i) s.cur.markScalarWrite.stat) ∧
  (∀ (d : Code) (i : BitVec 16) (s : State), HasLanes s → Ready s [⟨.vreg, d, false⟩] →
    (∃ t, exec (.vmovl d i) s = .next t ∧ VectorResult s t [⟨.vreg, d, false⟩] d fun _ => i.zeroExtend 32) ∧
    ∃ t, exec (.vmovh d i) s = .next t ∧ VectorResult s t [⟨.vreg, d, false⟩] d fun l =>
      insertField (laneOf (s.vsrc d) l) (i.zeroExtend 32) 16 16)

/-- 06 R184, R186, R187, R192: the other scalar integer forms and the long immediates. -/
def Obligations.ScalarForms : Prop :=
  Claims.ScalarOtherForms ∧ Claims.LongImmediates

/-- 06 R188, R189, Table 6-8, 09 R250: `sgetst` reads a status item, and STAT only once no float result is outstanding; a
selector that is not listed raises 0x01. `ssetst` replaces the writable fields of STAT that B selects by those of A, and nothing else. -/
def Sys2Proof.Claims.StatusRegister : Prop :=
  (∀ (d sel : Code) (s : State), HasLanes s → sel.toNat < 7 → (sel.toNat = 0 → s.cur.floats = []) → Ready s [⟨.sdst, d, false⟩] →
    ∃ t, exec (.sgetst d sel) s = .next t ∧
      ScalarResult s t [⟨.sdst, d, false⟩] d (statusOf s sel.toNat) s.cur.markScalarWrite.stat ∧
      Goes s t [(place s + 4, lanes s)]) ∧
  (∀ (d sel : Code) (s : State), (7 ≤ sel.toNat → exec (.sgetst d sel) s = .next (s.raiseAll .illegalOpcode)) ∧
    (sel.toNat = 0 → s.cur.floats ≠ [] → Ready s [⟨.sdst, d, false⟩] → exec (.sgetst d sel) s = .next (s.stallWith 12))) ∧
  ∀ (e g : Bool) (a b : Code) (s : State), HasLanes s → s.cur.floats = [] → Ready s [⟨.ssrc, a, e⟩, ⟨.ssrc, b, g⟩] →
    ∃ t, exec (.ssetst e g a b) s = .next t ∧ Keeps s t (fun _ => False) (fun _ => False)
      ((s.cur.stat &&& ~~~ (s.ssrc b &&& statFields)) ||| (s.ssrc a &&& (s.ssrc b &&& statFields)))

/-- What a scalar float instruction with the result r does (R190): it gives D the value, now or through a producer, and unites
the flags into STAT.FL; if STAT.TE enables one of them, D and STAT are written and every lane of the entry takes the cause of
the lowest one. -/
def ScalarFloatDone (i : Instr) (s : State) (us : List Use) (d : Code) (r : Nat × Flags) : Prop :=
  (r.2 &&& s.cur.te = 0 → ∃ t, exec i s = .next t ∧
    ScalarResult s t us d (BitVec.ofNat 64 r.1) (s.cur.markScalarWrite.stat ||| BitVec.ofNat 64 r.2.toNat)) ∧
  ∀ c, floatCauses.find? (fun c => (r.2 &&& s.cur.te).getLsbD c.1) = some c →
    exec i s = .next ((((s.popSources us).writeS d false (BitVec.ofNat 64 r.1)).onCur fun st =>
      st.addFlags r.2 (if st.shadow then r.2 else 0)).settle []
        [{ cause := c.2, mask := lanes s, taddr := pcWord (place s) }])

/-- 06 R190, R191: the scalar float instructions `sfadd`, `sfsub`, `sfmul`, `sffma`, `sfcmplt` and `sfcvt` complete when they are
ready; a conversion number that is not listed raises 0x01. -/
def Sys2Proof.Claims.ScalarFloatResult : Prop :=
  (∀ p ∈ scalarFloatTable, ∀ (e g : Bool) (d a b : Code) (s : State),
    let us : List Use := [⟨.ssrc, a, e⟩, ⟨.ssrc, b, g⟩] ++ (if p.2.2 then [⟨.ssrc, d, false⟩] else []) ++ [⟨.sdst, d, false⟩]
    HasLanes s → Ready s us →
    ScalarFloatDone (p.1 e g d a b) s us d (p.2.1 s.cur.frm (s.ssrc a).toNat (s.ssrc b).toNat (s.ssrc d).toNat)) ∧
  ∀ (e : Bool) (d a n : Code) (s : State), (n.toNat < 7 → HasLanes s → Ready s (usesSU e d a) →
      ScalarFloatDone (.sfcvt e d a n) s (usesSU e d a) d (scalarConvert n.toNat s.cur.frm (s.ssrc a).toNat)) ∧
    (7 ≤ n.toNat → exec (.sfcvt e d a n) s = .next (s.raiseAll .illegalOpcode))

/-- 06 R188 to R191: STAT, its items, and the scalar float instructions. -/
def Obligations.StatusAndScalarFloat : Prop :=
  Claims.StatusRegister ∧ Claims.ScalarFloatResult

/-! ### Control flow (06) -/

namespace Sys2Proof.Claims

/-- The conditional branches: whether they take lanes whose A is zero, and whether they must be uniform (R164). -/
noncomputable def branchTable : List ((Code → BitVec 16 → Instr) × Bool × Bool) :=
  [(.br, false, false), (.brz, true, false), (.bru, false, true), (.bruz, true, true)]

/-- The lanes a branch takes (R164). -/
def taken (s : State) (z : Bool) (a : Code) : Mask :=
  lanes s &&& maskOf fun l => if z then laneOf (s.vsrc a) l == 0 else laneOf (s.vsrc a) l != 0

/-- What is left of the strand's image when a successor or a spawned strand starts (Table 4-9): scalars, STAT, WB, GANG, the
exception registers. -/
structure StartState (c : Cohort) (k : Nat) (st : Strand) : Prop where
  stat : st.stat = BitVec.ofNat 64 (c.check * 2 ^ 60 + c.vid * 2 ^ 58)
  window : st.wb = 0
  gang : st.gang = 0
  cause : st.cause = 0
  taddr : st.taddr = 0
  tmask : st.tmask = 0
  handler : st.handler = 0
  sigmask : st.sigmask = 0
  index : st.sidx = k
  succ : st.succ = none

end Sys2Proof.Claims

/-- 06 R164: a ready conditional branch sends the lanes whose condition holds to 4 times the offset from itself, and the others
to the next word; `bru` and `bruz` on lanes that differ raise 0x07 and move none (TADDR 0: log 11). -/
def Sys2Proof.Claims.ConditionalBranches : Prop :=
  ∀ p ∈ branchTable, ∀ (a : Code) (o : BitVec 16) (s : State), HasLanes s → Unchecked s → Untraced s → Ready s [⟨.vsrc, a, false⟩] →
    let t1 := taken s p.2.1 a
    let t2 := lanes s &&& ~~~ t1
    (¬ (p.2.2 = true ∧ t1 ≠ 0 ∧ t2 ≠ 0) → ∃ t, exec (p.1 a o) s = .next t ∧
      Goes s t [(place s + BitVec.ofInt 48 (4 * o.toInt), t1), (place s + 4, t2)] ∧ OnlyGoesOn s t) ∧
    (p.2.2 = true → t1 ≠ 0 → t2 ≠ 0 → exec (p.1 a o) s = .next (s.raiseAllAt .nonUniformBranch 0))

/-- 06 R163, R166: `jmp` and `call` go to 4 times the offset from themselves, `jr` and `callr` to the address A; the calls write
the address after themselves to s63. A target of A that is not a multiple of 4 raises 0x10, one above 48 bits 0x15, with
TADDR the target. -/
def Sys2Proof.Claims.Jumps : Prop :=
  (∀ (o : BitVec 23) (s : State), HasLanes s → Unchecked s → Untraced s → ∃ t, exec (.jmp o) s = .next t ∧
    Goes s t [(place s + BitVec.ofInt 48 (4 * o.toInt), lanes s)] ∧ OnlyGoesOn s t) ∧
  (∀ (o : BitVec 23) (s : State), HasLanes s → Unchecked s → Untraced s → Ready s [⟨.sreg, 63, false⟩] →
    ∃ t, exec (.call o) s = .next t ∧ Goes s t [(place s + BitVec.ofInt 48 (4 * o.toInt), lanes s)] ∧
      t.cur.scalar 63 = BitVec.ofNat 64 (place s + 4).toNat ∧
      Keeps s t (fun _ => False) (fun m => m = 63) s.cur.markScalarWrite.stat) ∧
  (∀ (e : Bool) (a : Code) (s : State), HasLanes s → Unchecked s → Untraced s → Ready s [⟨.ssrc, a, e⟩] →
    let v := (s.ssrc a).toNat
    (v % 4 = 0 → v < 2 ^ 48 → ∃ t, exec (.jr e a) s = .next t ∧ Goes s t [(BitVec.ofNat 48 v, lanes s)] ∧ OnlyGoesOn s t) ∧
    (v % 4 ≠ 0 → exec (.jr e a) s = .next (s.raiseAllAt .misaligned (s.ssrc a))) ∧
    (v % 4 = 0 → 2 ^ 48 ≤ v → exec (.jr e a) s = .next (s.raiseAllAt .nonCanonical (s.ssrc a)))) ∧
  ∀ (e : Bool) (a : Code) (s : State), HasLanes s → Unchecked s → Untraced s → Ready s [⟨.ssrc, a, e⟩, ⟨.sreg, 63, false⟩] →
    let v := (s.ssrc a).toNat
    (v % 4 = 0 → v < 2 ^ 48 → ∃ t, exec (.callr e a) s = .next t ∧ Goes s t [(BitVec.ofNat 48 v, lanes s)] ∧
      t.cur.scalar 63 = BitVec.ofNat 64 (place s + 4).toNat ∧
      Keeps s t (fun _ => False) (fun m => m = 63) s.cur.markScalarWrite.stat) ∧
    (v % 4 ≠ 0 → exec (.callr e a) s = .next (s.raiseAllAt .misaligned (s.ssrc a))) ∧
    (v % 4 = 0 → 2 ^ 48 ≤ v → exec (.callr e a) s = .next (s.raiseAllAt .nonCanonical (s.ssrc a)))

/-- 06 R163, R164, R166: branches, jumps and calls. -/
def Obligations.BranchesAndJumps : Prop :=
  Claims.ConditionalBranches ∧ Claims.Jumps

/-- 06 R167, R168: `bri` goes to the word its A numbers of the n that follow it, past them where A is no such number, and raises
0x01 for n = 0; `sloop` counts its scalar down and goes back while it is not zero. -/
def Sys2Proof.Claims.IndexedAndCounted : Prop :=
  (∀ (a : Code) (n : BitVec 9) (s : State), HasLanes s → Unchecked s → Untraced s → Ready s [⟨.ssrc, a, false⟩] →
    (n ≠ 0 → ∃ t, exec (.bri a n) s = .next t ∧
      Goes s t [(place s + 4 + BitVec.ofNat 48 (4 * min (s.ssrc a).toNat n.toNat), lanes s)] ∧ OnlyGoesOn s t) ∧
    (n = 0 → exec (.bri a n) s = .next (s.raiseAll .illegalOpcode))) ∧
  ∀ (a : Code) (o : BitVec 16) (s : State), HasLanes s → Unchecked s → Untraced s → Ready s [⟨.sloop, a, false⟩] →
    let m := a.toNat - 0x60
    ∃ t, exec (.sloop a o) s = .next t ∧ t.cur.scalar m = s.cur.scalar m - 1 ∧
      Goes s t [(if s.cur.scalar m = 1 then place s + 4 else place s + BitVec.ofInt 48 (4 * o.toInt), lanes s)] ∧
      Keeps s t (fun _ => False) (fun i => i = m) s.cur.markScalarWrite.stat

/-- 06 R169, R170: `exit` ends the lanes of its entry (stated where no rendezvous lists its strand, which
would fail if it exits); `exitto` does so and leaves a successor, within 96 lines and the declared ones. A supervisor
strand raises 0x01 for both (13 R349). -/
def Sys2Proof.Claims.Exits : Prop :=
  (∀ s : State, HasLanes s → Unchecked s →
    (s.cur.sup = false → ((s.core s.cur.core).latch.all fun g => !(g.ccb == s.cur.ccb && (gangMembers g.members).contains s.cur.sidx)) = true →
      ∃ t, exec .exit s = .next t ∧ Goes s t [] ∧ OnlyGoesOn s t ∧
      (s.curCohort.barrier = none → t.cur.exited = (s.cur.exited || ((s.moved []).isEmpty && s.cur.succ.isNone)))) ∧
    (s.cur.sup = true → exec .exit s = .next (s.raiseAll .illegalOpcode))) ∧
  ∀ (a : Code) (n : BitVec 9) (s : State), HasLanes s → Unchecked s →
    (s.cur.sup = true ∨ 96 < n.toNat → exec (.exitto a n) s = .next (s.raiseAll .illegalOpcode)) ∧
    (s.cur.sup = false → n.toNat ≤ 96 → Ready s [⟨.ssrc, a, false⟩] →
      let v := (s.ssrc a).toNat
      (s.cur.nlines < s.cur.wb + n.toNat → exec (.exitto a n) s = .next (s.raiseAll .windowOverflow)) ∧
      (s.cur.wb + n.toNat ≤ s.cur.nlines → v % 4 = 0 → v < 2 ^ 48 → ∃ t, exec (.exitto a n) s = .next t ∧ Goes s t [] ∧
        OnlyGoesOn s t ∧ t.cur.succ = some ⟨BitVec.ofNat 48 v, n.toNat, s.cur.wb⟩))

/-- 06 R165 to R171: indexed and counted branches, and what ends lanes. -/
def Obligations.LoopsAndExits : Prop :=
  Claims.IndexedAndCounted ∧ Claims.Exits

/-- 06 R171: a strand with a successor and nothing outstanding starts it: its lines move down, its scalars stay, all else is the
start state; a strand that has exited frees its slot once nothing is outstanding. -/
def Sys2Proof.Claims.SuccessorAndSlot : Prop :=
  (∀ (s : State) (key : Nat) (x : Successor), (s.strand key).succ = some x → (s.strand key).frontier = [] →
    (s.strand key).producers = [] → (s.strand key).floats = [] →
    ∃ t, exec (.successorStart key) s = .next t ∧ OnlyStrand s t key ∧
      (∃ e, (t.strand key).frontier = [e] ∧ e.pc = x.pc ∧ e.mask = BitVec.allOnes 64 ∧ e.parked = false ∧
        e.prio = prioIn (s.cohort (s.strand key).ccb).pmap x.pc) ∧
      StartState (s.cohort (s.strand key).ccb) (s.strand key).sidx (t.strand key) ∧
      (∀ m, (t.strand key).scalar m = (s.strand key).scalar m) ∧
      (∀ n, (t.strand key).line n = if n < x.lines then (s.strand key).line (x.base + n) else zeroLine) ∧
      (t.strand key).nlines = (s.strand key).nlines) ∧
  ∀ (s : State) (key : Nat), (s.strand key).exited = true → (s.strand key).producers = [] → (s.strand key).floats = [] →
    exec (.slotFree key) s = .next (s.setStrand key { s.strand key with freed := true })

/-- 06 R172: `spawn` starts the lowest free slot of the cohort at A with lines 0 to 7 of the window and gives D its number; with
no slot free it gives D all ones and changes nothing else. -/
def Sys2Proof.Claims.Spawn : Prop :=
  ∀ (d a : Code) (s : State), s.cur.sup = false → HasLanes s →
    Ready s [⟨.ssrc, a, false⟩, ⟨.sreg, d, false⟩] ((List.range 8).map fun i => s.cur.wb + i) →
    let v := (s.ssrc a).toNat
    v % 4 = 0 → v < 2 ^ 48 →
    (s.freeSlot s.curCohort = none → ∃ t, exec (.spawn d a) s = .next t ∧ t.cur.scalar d.toNat = BitVec.allOnes 64 ∧
      Keeps s t (fun _ => False) (fun m => m = d.toNat) s.cur.markScalarWrite.stat) ∧
    ∀ k, s.freeSlot s.curCohort = some k → (s.slotStrand s.curCohort k).key ≠ s.curKey →
      ∃ t n, exec (.spawn d a) s = .next t ∧ t.cur.scalar d.toNat = BitVec.ofNat 64 k ∧
        t.strand (s.slotStrand s.curCohort k).key = n ∧ StartState s.curCohort k n ∧
        n.scalar 4 = BitVec.ofNat 64 k ∧ (∀ i, i < 8 → n.line i = s.cur.line (s.cur.wb + i)) ∧
        n.frontier.map (fun e => (e.pc, e.mask)) = [(BitVec.ofNat 48 v, BitVec.allOnes 64)]

/-- 06 R161, R171, R172, 04 R105: successors, the freeing of slots, and spawned strands. -/
def Obligations.StrandCreation : Prop :=
  Claims.SuccessorAndSlot ∧ Claims.Spawn

/-- 06 R173, R174: `win` moves the window by a multiple of 8 within the declared lines, and raises 0x01 or 0x05 otherwise;
`winq` reads it; `yield` gives the bench up for 16 cycles; `nop` only goes on. -/
def Sys2Proof.Claims.WindowAndYield : Prop :=
  (∀ (i : BitVec 9) (s : State),
    let w : Int := s.cur.wb + i.toInt
    (i.toNat % 8 ≠ 0 → exec (.win i) s = .next (s.raiseAll .illegalOpcode)) ∧
    (i.toNat % 8 = 0 → 0 ≤ w → w ≤ s.cur.nlines - 8 → HasLanes s → ∃ t, exec (.win i) s = .next t ∧ (t.cur.wb : Int) = w ∧
      (∀ n, t.cur.line n = s.cur.line n) ∧ (∀ m, t.cur.scalar m = s.cur.scalar m) ∧
      t.cur.stat = s.cur.markScalarWrite.stat ∧ SameMemory s t ∧ SameEngines s t ∧
      ∀ k, k ≠ s.curKey → SameRegisters (s.strand k) (t.strand k) (fun _ => False) (fun _ => False) (s.strand k).stat) ∧
    (i.toNat % 8 = 0 → (w < 0 ∨ (s.cur.nlines : Int) - 8 < w) → exec (.win i) s = .next (s.raiseAll .windowOverflow))) ∧
  (∀ (d : Code) (s : State), HasLanes s → Ready s [⟨.sdst, d, false⟩] → ∃ t, exec (.winq d) s = .next t ∧
    ScalarResult s t [⟨.sdst, d, false⟩] d (BitVec.ofNat 64 s.cur.wb) s.cur.markScalarWrite.stat) ∧
  ∀ s : State, HasLanes s → (∃ t, exec .yield s = .next t ∧ t.cur.yield = 16 ∧ OnlyGoesOn s t) ∧
    ∃ t, exec .nop s = .next t ∧ Goes s t [(place s + 4, lanes s)] ∧ OnlyGoesOn s t

/-- 06 R179 to R181: `bar` and `bar.sp` hold the entry where it stands, unless a handler entry or another barrier makes them
raise 0x26; `parv` counts an arrival at a phase barrier and gives its phase; `pwait` waits while
the phase is the low bit of A. -/
def Sys2Proof.Claims.Barriers : Prop :=
  (∀ (span : Bool) (s : State), s.cur.sup = false →
    let i := if span then Instr.barSp else Instr.bar
    let clear := ∀ b, s.curCohort.barrier = some b → b.pc = place s ∧ b.span = span
    ((candidate s.cur).prio ≠ 0xFFFF → clear →
      exec i s = .next ((s.setCurCohort { s.curCohort with barrier := some { pc := place s, span := span } }).holdCandidate .barrier)) ∧
    ((candidate s.cur).prio = 0xFFFF ∨ ¬ clear → exec i s = .next (s.raiseAllAt .barrierMisuse 0))) ∧
  (∀ (d : Code) (n : BitVec 5) (k : BitVec 3) (s : State), s.cur.sup = false → Ready s [⟨.sreg, d, false⟩] →
    let p := Tab.get {} s.curCohort.phases k.toNat
    (¬ (p.act = true ∧ p.n ≠ n.toNat) → HasLanes s → ∃ t, exec (.parv d n k) s = .next t ∧
      t.cur.scalar d.toNat = (if p.ph then 1 else 0) ∧
      (let q := Tab.get {} (t.cohort s.cur.ccb).phases k.toNat
       if p.cnt = n.toNat then q.cnt = 0 ∧ q.ph = !p.ph ∧ q.act = false else q.cnt = p.cnt + 1 ∧ q.ph = p.ph ∧ q.act = true ∧ q.n = n.toNat) ∧
      Keeps s t (fun _ => False) (fun m => m = d.toNat) s.cur.markScalarWrite.stat) ∧
    (p.act = true → p.n ≠ n.toNat → exec (.parv d n k) s = .next (s.raiseAllAt .barrierMisuse 0))) ∧
  ∀ (a : Code) (k : BitVec 3) (s : State), Ready s [⟨.ssrc, a, false⟩] →
    let p := Tab.get {} s.curCohort.phases k.toNat
    (p.ph ≠ (s.ssrc a).getLsbD 0 → HasLanes s → ∃ t, exec (.pwait a k) s = .next t ∧ Goes s t [(place s + 4, lanes s)] ∧ OnlyGoesOn s t) ∧
    (p.ph = (s.ssrc a).getLsbD 0 → exec (.pwait a k) s = .next (s.stallWith 4))

/-- 06 R173, R174, R179 to R181: the window, yields and barriers. -/
def Obligations.WindowAndBarriers : Prop :=
  Claims.WindowAndYield ∧ Claims.Barriers

/-- 04 R99, 06 R152, R158: a producer's write-back writes the lanes and scalars it holds and sets their full bits, or
pushes its entry; a strand
ready for 128 cycles is aged; the first spilled entry returns to the slot. -/
def Sys2Proof.Claims.SchedulerEvents : Prop :=
  (∀ (s : State) (key place : Nat) (p : Producer), (s.strand key).producers[place]? = some p →
    ∃ t, exec (.producerWriteback key place) s = .next t ∧
      (t.strand key).producers = (s.strand key).producers.eraseIdx place ∧
      ((p.lines.map fun x => x.1).Nodup → ∀ x ∈ p.lines, x.1 < 512 → (t.strand key).vFull.getLsbD x.1 = true ∧ ∀ l, l < 64 →
        laneOf ((t.strand key).line x.1) l =
          if x.2.1.getLsbD l then laneOf x.2.2 l else laneOf ((s.strand key).line x.1) l) ∧
      ((p.scalars.map fun x => x.1).Nodup → ∀ x ∈ p.scalars, x.1 < 64 →
        (t.strand key).scalar x.1 = x.2 ∧ (t.strand key).sFull.getLsbD x.1 = true) ∧
      (∀ x, p.push = some x → (t.cohort (s.strand key).ccb).mailbox = (s.cohort (s.strand key).ccb).mailbox ++ [x.2]) ∧
      SameRegisters (s.strand key) (t.strand key) (fun n => ∃ x ∈ p.lines, x.1 = n) (fun m => ∃ x ∈ p.scalars, x.1 = m)
        (s.strand key).stat ∧
      (∀ k, k ≠ key → t.strand k = s.strand k) ∧ SameMemory s t ∧ SameEngines s t) ∧
  (∀ (s : State) (key : Nat), 128 ≤ (s.strand key).ready → (s.strand key).frontier ≠ [] →
    ∃ t, exec (.strandAged key) s = .next t ∧ (t.strand key).aged = true ∧ OnlyStrand s t key) ∧
  ∀ (s : State) (key : Nat), (s.strand key).resident < 8 → (s.strand key).resident < (s.strand key).frontier.length →
    ∃ t, exec (.frontierRefill key) s = .next t ∧ (t.strand key).resident = (s.strand key).resident + 1 ∧
      (t.strand key).frontier = (s.strand key).frontier ∧ OnlyStrand s t key

/-! ### Causes, handlers and the supervisor (13) -/

namespace Sys2Proof.Claims

/-- A user strand whose cause of this code does not go to the user handler (13 R346, R357). -/
def ToSupervisor (s : State) (c : Cause) : Prop :=
  s.cur.sup = false ∧ (c.user && s.cur.handlerOpen (candidate s.cur).prio) = false ∧ s.curCohort.barrier = none ∧ HasLanes s

/-- Handler bit 0: there is a handler. -/
def hasHandler (st : Strand) : Prop := st.handler.getLsbD 0 = true

/-- HANDLER[47:2] x 4 + 16 v (R357). -/
def vectorOf (st : Strand) (v : Nat) : Pc := BitVec.ofNat 48 (st.handler.toNat / 4 * 4 + 16 * v)

/-- What delivery to a handler leaves in a strand (R357): an entry of priority 0xFFFF at vector v that holds the lanes, CAUSE, TADDR,
TMASK and STAT.TM. -/
structure Delivered (old st : Strand) (code : Nat) (m : Mask) (p : DWord) (v : Nat) : Prop where
  entry : ∃ e ∈ st.frontier, e.prio = 0xFFFF ∧ e.pc = vectorOf old v ∧ e.mask &&& m = m ∧ e.parked = false
  cause : st.cause = BitVec.ofNat 6 code
  taddr : st.taddr = p
  tmask : st.tmask = m
  inHandler : st.stat = old.stat ||| BitVec.ofNat 64 (2 ^ 62)
  lines : ∀ n, st.line n = old.line n
  scalars : ∀ m, st.scalar m = old.scalar m
  others : st.handler = old.handler ∧ st.sigmask = old.sigmask ∧ st.wb = old.wb ∧ st.gang = old.gang

/-- The privileged instructions with scalar operands (13 R354 to R365). -/
def usesPriv (e g : Bool) (d a b : Code) : List Use := [⟨.ssrc, a, e⟩, ⟨.ssrc, b, g⟩, ⟨.sreg, d, false⟩]

/-- The frontier of a strand without an entry. -/
def without (st : Strand) (e : Entry) : List Entry := st.frontier.filter fun x => decide (x ≠ e)

/-- A living user strand whose cohort is resident and has no barrier pending: `sig`, `tinj`, `unpark` and `sysrp` act on its live
state (R355). -/
structure Target (s : State) (key : Nat) : Prop where
  live : s.liveStrand key = true
  resident : (s.cohort (s.strand key).ccb).residency ≠ .absent
  calm : (s.cohort (s.strand key).ccb).barrier = none
  other : key ≠ s.curKey
  supervisor : s.cur.sup = true

/-- The values of the core registers that selectors 0 to 5 and 0x10 name, but RPQ (Table 13-3). -/
def coreRegisterOf (s : State) (n : Nat) : Option DWord :=
  let k := s.core s.cur.core
  match n with
  | 0 => some (BitVec.ofNat 64 s.cur.core)
  | 1 => some (BitVec.ofNat 64 k.evq.length)
  | 2 => some k.frb
  | 3 => some k.frt
  | 4 => some k.frh
  | 0x10 => some k.tgt
  | _ => none

/-- The values of the target registers (Table 13-3). -/
def targetRegisterOf (t : Strand) (n : Nat) : Option DWord :=
  match n with
  | 0x11 => some t.stat
  | 0x12 => some (BitVec.ofNat 64 t.wb)
  | 0x13 => some (t.cause.zeroExtend 64)
  | 0x14 => some t.taddr
  | 0x15 => some t.tmask
  | 0x16 => some t.handler
  | 0x17 => some t.sigmask
  | _ => if 0x40 ≤ n ∧ n < 0x80 then some (t.scalar (n - 0x40)) else none

end Sys2Proof.Claims

/-- 13 R343, R345, R350: a cause that an instruction raises for all its lanes, and that does not go to the user handler, parks them
at its restart point with an event; CAUSE, TADDR, TMASK and every other register keep what they hold. -/
def Sys2Proof.Claims.CausesPark : Prop :=
  ∀ (s : State) (c : Cause) (p : DWord), ToSupervisor s c → c ≠ .uncorrectable →
    ParksLanes s (s.raiseAllAt c p) { cause := c, mask := lanes s, taddr := p }

/-- 13 R357: a cause of code 0x08 to 0x0D that finds the handler open is delivered there, at vector code - 8, with no event. -/
def Sys2Proof.Claims.CausesEnterHandler : Prop :=
  ∀ (s : State) (c : Cause) (p : DWord), s.cur.sup = false → c.user = true → s.cur.handlerOpen (candidate s.cur).prio = true →
    s.curCohort.barrier = none → HasLanes s →
    let t := s.raiseAllAt c p
    Delivered s.cur t.cur c.code (lanes s) (BitVec.ofNat 64 (place s).toNat) (c.code - 8) ∧
    SameMemory s t ∧ SameEngines s t ∧ ∀ k, (t.core k).evq = (s.core k).evq

/-- 13 R366: a cause of the supervisor strand is delivered to its own handler at vector code; without a handler, or inside it, the
strand stops on a machine check of sub-cause 2, an asynchronous cause: the root controller is told and source 0x222 fires. -/
def Sys2Proof.Claims.SupervisorCauses : Prop :=
  ∀ (s : State) (e : Entry) (r : Raise), s.cur.sup = true → r.cause ≠ .uncorrectable → r.sub ≠ 0x29 →
    let t := s.takeCause s.curKey e r
    (hasHandler s.cur → s.cur.tm = false → Delivered s.cur t.cur r.cause.code r.mask (BitVec.ofNat 64 e.pc.toNat) r.cause.code ∧
      t.cur.faddr = (if r.data then r.taddr else s.cur.faddr) ∧ SameMemory s t ∧ SameEngines s t) ∧
    (¬ (hasHandler s.cur ∧ s.cur.tm = false) → (t.core s.cur.core).supStopped = true ∧
      (∃ x more, t.outputs = s.outputs ++ .rootEvent s.cur.core x :: more ∧ x.cause = .machineCheck ∧ x.sub = 2 ∧ x.sync = false) ∧
      (t.claim 0x222).cnt = ((s.claim 0x222).cnt + 1) % 2 ^ 32 ∧ SameMemory s t ∧
      SameRegisters s.cur t.cur (fun _ => False) (fun _ => False) s.cur.stat ∧
      ∀ k, k ≠ s.curKey → t.strand k = s.strand k)

/-- 13 R343, R345, R350, R357, R366: what taking a cause does: a parked entry with an event, the user handler, or the supervisor handler. -/
def Obligations.TakingCauses : Prop :=
  Claims.CausesPark ∧ Claims.CausesEnterHandler ∧ Claims.SupervisorCauses

/-- 13 R358 to R361, 18 R467: `tret` sends the lanes of a handler entry to TADDR, or to the next word for the causes that restart
there, with PC[1:0] zero, and clears STAT.TM with the last handler entry; outside a handler it raises 0x01. `sighand` and `sigmask` exchange
HANDLER and SIGMASK; the forms that read trap registers read them. `sysc` and `brk` take their causes. -/
def Obligations.TrapsAndReturns : Prop :=
  (∀ s : State,
    ((candidate s.cur).prio = 0xFFFF → Untraced s →
      let next := (0x08 ≤ s.cur.cause.toNat ∧ s.cur.cause.toNat ≤ 0x0D) ∨ (s.cur.sup = true ∧ s.cur.cause = 0x0F)
      let r : Pc := BitVec.ofNat 48 ((s.cur.taddr.toNat + if next then 4 else 0) / 4 * 4)
      let f := orderFrontier (dropCandidate s.cur.frontier ++ [{ mask := lanes s, prio := s.prioOf s.cur r, pc := r }])
      ∃ t, exec .tret s = .next t ∧ (s.cur.sup = true ∨ s.curCohort.barrier = none → t.cur.frontier = f) ∧
        Keeps s t (fun _ => False) (fun _ => False)
          (if f.all (fun e => decide (e.prio ≠ 0xFFFF)) then s.cur.stat &&& ~~~ BitVec.ofNat 64 (2 ^ 62) else s.cur.stat)) ∧
    ((candidate s.cur).prio ≠ 0xFFFF → exec .tret s = .next (s.raiseAll .illegalOpcode))) ∧
  (∀ (e : Bool) (d a : Code) (s : State), HasLanes s → Ready s (usesSU e d a) →
    let v := s.ssrc a
    (v.toNat < 2 ^ 48 → v.toNat / 2 % 8 = 0 → ∃ t, exec (.sighand e d a) s = .next t ∧ t.cur.handler = v ∧
      (d.toNat < 64 → popsInto (usesSU e d a) = false → t.cur.scalar d.toNat = s.cur.handler) ∧ SameMemory s t ∧ SameEngines s t) ∧
    (v.toNat / 2 % 8 ≠ 0 → exec (.sighand e d a) s = .next (s.raiseAllAt .misaligned v)) ∧
    (v.toNat / 2 % 8 = 0 → 2 ^ 48 ≤ v.toNat → exec (.sighand e d a) s = .next (s.raiseAllAt .nonCanonical v)) ∧
    ∃ t, exec (.sigmask e d a) s = .next t ∧ t.cur.sigmask = v ∧
      (d.toNat < 64 → popsInto (usesSU e d a) = false → t.cur.scalar d.toNat = s.cur.sigmask) ∧ SameMemory s t ∧ SameEngines s t) ∧
  (∀ (d : Code) (s : State), HasLanes s → Ready s [⟨.sdst, d, false⟩] →
    let reads (i : Instr) (v : DWord) := ∃ t, exec i s = .next t ∧ ScalarResult s t [⟨.sdst, d, false⟩] d v s.cur.markScalarWrite.stat
    reads (.sighandCause d) (s.cur.cause.zeroExtend 64) ∧ reads (.sighandTaddr d) s.cur.taddr ∧ reads (.sighandTmask d) s.cur.tmask ∧
    reads (.sighandFaddr d) (if s.cur.sup then s.cur.faddr else 0)) ∧
  ∀ (n : BitVec 9) (s : State),
    (s.cur.sup = true → exec (.sysc n) s = .next (s.raiseAll .illegalOpcode)) ∧
    (Unchecked s → ToSupervisor s .systemCall → ∃ t, exec (.sysc n) s = .next t ∧
      ParksLanes s t { cause := .systemCall, mask := lanes s, taddr := BitVec.ofNat 64 (place s).toNat, param := n.toNat }) ∧
    (ToSupervisor s .brk → ∃ t, exec (.brk n) s = .next t ∧
      ParksLanes s t { cause := .brk, mask := lanes s, param := n.toNat })

/-- 13 R365, Table 13-3: `pget` reads and `pset` writes the core registers and, of the resident strand TGT names, the target
registers; read-only registers keep what they hold, and STAT its PRIV and CHK. Without such a strand they raise 0x16. -/
def Obligations.SupervisorRegisters : Prop :=
  (∀ (d : Code) (sel : BitVec 9) (s : State), s.cur.priv = true → HasLanes s → Ready s [⟨.sdst, d, false⟩] →
    (∀ v, coreRegisterOf s sel.toNat = some v → ∃ t, exec (.pget d sel) s = .next t ∧
      ScalarResult s t [⟨.sdst, d, false⟩] d v s.cur.markScalarWrite.stat) ∧
    (∀ key v, s.target s.cur.core = some key → targetRegisterOf (s.strand key) sel.toNat = some v →
      (0x40 ≤ sel.toNat → (s.strand key).sFull.getLsbD (sel.toNat - 0x40) = true) → ∃ t, exec (.pget d sel) s = .next t ∧
      ScalarResult s t [⟨.sdst, d, false⟩] d v s.cur.markScalarWrite.stat) ∧
    (∀ v, s.target s.cur.core = none → targetRegisterOf s.cur sel.toNat = some v →
      exec (.pget d sel) s = .next (s.raiseAllAt .contextImage 0))) ∧
  ∀ (a : Code) (sel : BitVec 9) (s : State), s.cur.priv = true → HasLanes s → Ready s [⟨.ssrc, a, false⟩] →
    let v := s.ssrc a
    (sel.toNat ≤ 5 ∨ sel.toNat = 0x10 → ∃ t, exec (.pset a sel) s = .next t ∧
      (t.core s.cur.core).frb = (if sel = 2 then BitVec.ofNat 64 (v.toNat / 2 ^ 17 % 2 ^ 39 * 2 ^ 17) else (s.core s.cur.core).frb) ∧
      (t.core s.cur.core).frt = (s.core s.cur.core).frt ∧
      (t.core s.cur.core).frh = (if sel = 4 ∧ v.toNat ≤ (s.core s.cur.core).frt.toNat ∧ (s.core s.cur.core).frt.toNat ≤ v.toNat + 4096
        then v else (s.core s.cur.core).frh) ∧
      (t.core s.cur.core).tgt = (if sel = 0x10 then BitVec.ofNat 64 (v.toNat / 4096 * 4096) else (s.core s.cur.core).tgt) ∧
      SameMemory s t ∧ SameRegisters s.cur t.cur (fun _ => False) (fun _ => False) s.cur.stat) ∧
    (∀ key w, s.target s.cur.core = some key → key ≠ s.curKey → targetRegisterOf (s.strand key) sel.toNat = some w →
      ∃ t, exec (.pset a sel) s = .next t ∧ SameMemory s t ∧ SameEngines s t ∧
      let o := s.strand key
      let n := t.strand key
      n.cause = (if sel = 0x13 then BitVec.ofNat 6 v.toNat else o.cause) ∧ n.taddr = (if sel = 0x14 then v else o.taddr) ∧
      n.tmask = o.tmask ∧ n.wb = o.wb ∧ n.sigmask = (if sel = 0x17 then v else o.sigmask) ∧
      n.handler = (if sel = 0x16 ∧ v.toNat < 2 ^ 48 ∧ v.toNat / 2 % 8 = 0 then v else o.handler) ∧
      (∀ m, m < 64 → n.scalar m = if sel.toNat = 0x40 + m then v else o.scalar m) ∧
      n.stat.getLsbD 63 = o.stat.getLsbD 63 ∧ n.chk = o.chk ∧ (sel ≠ 0x11 → n.stat = o.stat) ∧
      (sel = 0x11 → n.tm = v.getLsbD 62 ∧ n.frm = natBits v.toNat 16 2 ∧ n.fl = BitVec.ofNat 5 v.toNat ∧ n.te = BitVec.ofNat 5 (v.toNat / 256))) ∧
    (∀ w, s.target s.cur.core = none → targetRegisterOf s.cur sel.toNat = some w →
      exec (.pset a sel) s = .next (s.raiseAllAt .contextImage 0))

/-- 13 R354, R355, R362 to R364: on a resident strand `unpark` replays, ends or skips the parked entries within its mask and
counts them; `sysrp` gives a system call its answer in s8 or q5 and lets its entry go on; `sig` delivers a signal to the
candidate entry, which may wait at a gang rendezvous (log 91), and `tinj` a cause to the one parked entry in its mask. -/
def Obligations.SupervisorActsOnStrands : Prop :=
  (∀ (e g : Bool) (d a b : Code) (s : State), s.cur.priv = true → HasLanes s → Ready s (usesPriv e g d a b) →
    let x := s.ssrc a
    let m := s.ssrc b
    let key := x.toNat / 4096 * 4096
    let named := (s.strand key).frontier.filter fun n => n.parked && decide (n.mask &&& ~~~ m = 0)
    x.toNat % 4096 < 3 → Target s key → (s.strand key).frontier.any (fun n => !named.contains n) = true →
    ∃ t, exec (.unpark e g d a b) s = .next t ∧ t.cur.scalar d.toNat = BitVec.ofNat 64 named.length ∧
      (t.strand key).frontier = orderFrontier ((s.strand key).frontier.flatMap fun n =>
        if named.contains n then
          match x.toNat % 4096 with
          | 0 => [{ n with parked := false, cause := none }]
          | 1 => []
          | _ => [{ n with parked := false, cause := none, pc := n.pc + 4, prio := s.nextPrio (s.strand key) n.prio (n.pc + 4) }]
        else [n])) ∧
  (∀ (e g : Bool) (d a b : Code) (s : State) (c : Entry), s.cur.priv = true → HasLanes s → Ready s (usesPriv e g d a b) →
    let x := s.ssrc a
    let v := s.ssrc b
    let key := x.toNat / 4096 * 4096
    x.toNat % 4096 < 2 → Target s key → (s.strand key).oldest Entry.calls = some c →
    (x.toNat % 2 = 1 → (s.strand key).replies.length < 4) →
    ∃ t, exec (.sysrp e g d a b) s = .next t ∧ t.cur.scalar d.toNat = 0 ∧
      (x.toNat % 2 = 0 → (t.strand key).scalar 8 = v) ∧
      (x.toNat % 2 = 1 → (t.strand key).replies = (s.strand key).replies ++ [v]) ∧
      (t.strand key).frontier = orderFrontier ((s.strand key).frontier.map fun n =>
        if n = c then { n with parked := false, cause := none } else n)) ∧
  (∀ (e : Bool) (d a : Code) (s : State) (c : Entry), s.cur.priv = true → HasLanes s → Ready s [⟨.ssrc, a, e⟩, ⟨.sreg, d, false⟩] →
    let x := s.ssrc a
    let key := x.toNat / 4096 * 4096
    let n := x.toNat % 64
    x.toNat / 64 % 64 = 0 → Target s key →
    (s.strand key).frontier.find? (fun h => decide (h.hold = .no ∨ h.hold = .gang)) = some c → c.parked = false → c.prio ≠ 0xFFFF →
    (s.strand key).frontier.any Entry.pending = false →
    (s.strand key).tm = false → hasHandler (s.strand key) → (s.strand key).sigmask.getLsbD n = false →
    ∃ t, exec (.sig e d a) s = .next t ∧ t.cur.scalar d.toNat = 0 ∧
      Delivered (s.strand key) (t.strand key) 0x2B c.mask (BitVec.ofNat 64 c.pc.toNat) (8 + n)) ∧
  ∀ (e g : Bool) (d a b : Code) (s : State) (c : Entry), s.cur.priv = true → HasLanes s → Ready s (usesPriv e g d a b) →
    let x := s.ssrc a
    let key := x.toNat / 4096 * 4096
    let code := x.toNat % 64
    let n := x.toNat / 64 % 64
    (code = 0x2B ∧ (s.strand key).sigmask.getLsbD n = false ∨ 0x08 ≤ code ∧ code ≤ 0x0D ∧ n = 0) → Target s key →
    (s.strand key).frontier.filter (fun k => k.parked && decide (k.mask &&& ~~~ (s.ssrc b) = 0)) = [c] →
    c.prio ≠ 0xFFFF → (s.strand key).tm = false → hasHandler (s.strand key) →
    ∃ t, exec (.tinj e g d a b) s = .next t ∧ t.cur.scalar d.toNat = 0 ∧
      Delivered (s.strand key) (t.strand key) code c.mask
        (BitVec.ofNat 64 (if code = 0x2B then c.pc else c.pc - 4).toNat) (if code = 0x2B then 8 + n else code - 8)

/-- 13 R344, R351: the oldest of what a core holds enters once it has a place: an event joins the queue, and a cause without
fault records parks its lanes and joins it; a service message makes an event 0x33, merged into one that stands; a machine check
on a bad image stops the cohort, makes an event 0x3F and fires source 0x222. -/
def Sys2Proof.Claims.EventQueue : Prop :=
  (∀ (s : State) (core : Nat) (e : Event) (t : List Held), (s.core core).held = .event e :: t →
    (s.core core).evq.length < 64 → ∃ u, exec (.heldEventEntry core) s = .next u ∧
      (u.core core).evq = (s.core core).evq ++ [e] ∧ (u.core core).held = t ∧ SameMemory s u ∧ SameEngines s u ∧
      ∀ k, u.strand k = s.strand k) ∧
  (∀ (s : State) (core key : Nat) (e : Entry) (r : Raise) (t : List Held), (s.core core).held = .cause key e r :: t →
    (s.strand key).core = core → r.records = [] → (s.core core).evq.length < 64 →
    ∃ u x, exec (.heldEventEntry core) s = .next u ∧ (u.core core).held = t ∧
      (∃ n ∈ (u.strand key).frontier, n.parked = true ∧ n.mask = r.mask ∧ n.cause = some r.cause ∧
        n.pc = if r.restartsNext then e.pc + 4 else e.pc) ∧
      (u.strand key).frontier.all (fun n => !(n.pending && n.mask == r.mask)) = true ∧
      (u.core core).evq = (s.core core).evq ++ [x] ∧ x.cause = r.cause ∧ x.sync = true ∧ x.parked = true ∧ x.tmask = r.mask ∧
      x.taddr = r.taddr ∧ x.pc = BitVec.ofNat 64 e.pc.toNat ∧ SameMemory s u ∧ SameEngines s u) ∧
  (∀ (s : State) (core : Nat),
    ((s.core core).evq.all (fun e => decide (e.cause ≠ .serviceMessage)) = true → (s.core core).queueRoom = true →
      ∃ u, exec (.serviceCoreMessage core) s = .next u ∧
        (u.core core).evq = (s.core core).evq ++ [{ cause := .serviceMessage }] ∧ SameMemory s u ∧ SameEngines s u ∧
        ∀ k, u.strand k = s.strand k) ∧
    ((s.core core).evq.any (fun e => decide (e.cause = .serviceMessage)) = true → exec (.serviceCoreMessage core) s = .next s)) ∧
  ∀ (s : State) (ccb sub : Nat), ccb < 2 ^ 64 → Tab.has s.cohorts ccb = true →
    let c := s.cohort (BitVec.ofNat 64 ccb)
    c.dead = false → ((sub = 1 ∧ (s.imageFaults c).1 = true) ∨ (sub = 3 ∧ (s.imageFaults c).2 = true)) →
    (s.core c.core).queueRoom = true →
    ∃ u, exec (.machineCheck ccb sub) s = .next u ∧ (u.cohort (BitVec.ofNat 64 ccb)).dead = true ∧
      (u.core c.core).evq = (s.core c.core).evq ++ [{ cause := .machineCheck, sub := sub, pasid := c.pasid, cib := BitVec.ofNat 64 ccb }] ∧
      (u.claim 0x222).cnt = ((s.claim 0x222).cnt + 1) % 2 ^ 32 ∧ SameMemory s u ∧ ∀ k, u.strand k = s.strand k

/-- 04 R99, 06 R152, R158, 13 R344, R351: the scheduler and the event queues. -/
def Obligations.EngineEvents : Prop :=
  Claims.SchedulerEvents ∧ Claims.EventQueue

/-! ### Memory (05, 07, 12) -/

namespace Sys2Proof.Claims

/-- An access of the issuing strand passes its checks and is translated to a place by what the caches hold, so that nothing
changes (07 R196, 12 R333). -/
def Reaches (s : State) (k : Access) (f : Form) (align n i : Nat) (va : DWord) (p : Place) : Prop :=
  s.checkLane s.cur k f align n i va = (s, .ok p)

/-- No watchpoint stands in the strand's core (18 R471). -/
def Unwatched (s : State) : Prop := (s.core s.cur.core).watchPoints = []

/-- Each lane of the entry reads n bytes at its address, and finds the value v there; the miss-status entries suffice. -/
structure LanesRead (s : State) (f : Form) (align n : Nat) (home : Bool) (va : Nat → DWord) (place : Nat → Place) (v : Nat → Nat) :
    Prop where
  reach : ∀ i ∈ lanesOf (lanes s), Reaches s .read f align n i (va i) (place i)
  value : ∀ i ∈ lanesOf (lanes s), s.readPlace s.cur.core home n (place i) = (s, .ok (v i))
  free : (s.planMisses s.cur.core home ((lanesOf (lanes s)).map place)).wait = false
  unwatched : Unwatched s

/-- A load is under way: its lines are empty and a producer holds, for the lanes of the entry, f lane line (04 R99, 07 R200). -/
structure LoadQueued (s t : State) (d : Code) (width : Nat) (f : Nat → Nat → Word) : Prop where
  producer : ∃ p, t.cur.producers = s.cur.producers ++ [p] ∧ p.scalars = [] ∧ p.lines = (List.range width).map fun i =>
    (s.cur.wb + d.toNat + i, lanes s, mergeLine zeroLine (lanes s) fun l => f l i)
  empty : ∀ i, i < width → t.cur.vFull.getLsbD (s.cur.wb + d.toNat + i) = false

/-- Where a place lies: in local memory, or in the scratch of a cohort, at an address. -/
def spotOf : Place → Option (Option DWord × Nat)
  | .phys p => if p.loc = .dev then some (none, p.addr) else none
  | .scratch c o => some (some c, o)
  | .line _ _ _ => none
  | .gone => none

/-- A byte of local memory or of a scratch. -/
def spotRead (s : State) (where_ : Option DWord) (a : Nat) : Byte :=
  match where_ with
  | none => Memory.read s.local_ a
  | some c => Memory.read (s.cohort c).scratch a

/-- The byte at an address after n-byte stores of values at places, the first one first. -/
def storedByte (n : Nat) (l : List (Place × Nat)) (old : Byte) (where_ : Option DWord) (a : Nat) : Byte :=
  l.foldl (fun acc x => match spotOf x.1 with
    | some (w, b) => if w = where_ ∧ b ≤ a ∧ a < b + n then BitVec.ofNat 8 (x.2 / 2 ^ (8 * (a - b))) else acc
    | none => acc) old

/-- The stores of n bytes of a list of places and values, first to last, are all that happened to memory; the issuing strand
keeps its registers but for STAT, which is given, and all else is kept. -/
structure Stored (s t : State) (n : Nat) (l : List (Place × Nat)) (stat : DWord) : Prop where
  bytes : ∀ w a, spotRead t w a = storedByte n l (spotRead s w a) w a
  host : t.host = s.host
  peer : t.peer = s.peer
  tile : ∀ c, (t.core c).tile = (s.core c).tile
  own : SameRegisters s.cur t.cur (fun _ => False) (fun _ => False) stat
  others : ∀ k, k ≠ s.curKey → SameRegisters (s.strand k) (t.strand k) (fun _ => False) (fun _ => False) (s.strand k).stat
  engines : SameEngines s t

/-- Each lane of the entry stores n bytes to a place in local memory or scratch. -/
structure LanesWrite (s : State) (f : Form) (align n : Nat) (va : Nat → DWord) (place : Nat → Place) : Prop where
  reach : ∀ i ∈ lanesOf (lanes s), Reaches s .write f align n i (va i) (place i)
  near : ∀ i ∈ lanesOf (lanes s), spotOf (place i) ≠ none
  room : (s.core s.cur.core).outstanding.length ≤ 512
  unwatched : Unwatched s

/-- The address A + imm9 x size of a lane (07 R195). -/
def laneAddr (s : State) (a : Code) (i : BitVec 9) (size : Nat) (l : Nat) : DWord :=
  (s.vsrc64 a).getD l 0 + i.signExtend 64 * BitVec.ofNat 64 size
/-- The indexed address A + 4 B (07 R204). -/
def indexAddr (s : State) (a b : Code) (l : Nat) : DWord := (s.vsrc64 a).getD l 0 + 4 * (laneOf (s.vsrc b) l).signExtend 64

/-- The vector loads: size, destination, and the words of a value (Table 7-3). -/
noncomputable def loadTable : List ((Code → Code → BitVec 9 → Instr) × Nat × Role × Nat × (Nat → Nat → Word)) := [
  (.ldb, 1, .vreg, 1, fun v _ => BitVec.ofNat 32 v),
  (.ldbs, 1, .vreg, 1, fun v _ => BitVec.ofInt 32 (if v < 128 then (v : Int) else (v : Int) - 256)),
  (.ldh, 2, .vreg, 1, fun v _ => BitVec.ofNat 32 v),
  (.ldhs, 2, .vreg, 1, fun v _ => BitVec.ofInt 32 (if v < 32768 then (v : Int) else (v : Int) - 65536)),
  (.ldw, 4, .vreg, 1, fun v _ => BitVec.ofNat 32 v),
  (.ldd, 8, .vdst64, 2, fun v i => BitVec.ofNat 32 (v / 2 ^ (32 * i))),
  (.ldq, 16, .vquad, 4, fun v i => BitVec.ofNat 32 (v / 2 ^ (32 * i)))]

/-- The vector stores: size and the source of the data (Table 7-3). -/
noncomputable def storeTable : List ((Code → Code → BitVec 9 → Instr) × Nat × Role) := [
  (.stb, 1, .vsrc), (.sth, 2, .vsrc), (.stw, 4, .vsrc), (.std, 8, .vsrc64), (.stq, 16, .vquadsrc)]

/-- The datum of a lane: 32 bits, the pair of lines, or four lines (07 R201). -/
def datum (s : State) (size : Nat) (d : Code) (l : Nat) : Nat :=
  if size = 16 then ((List.range 4).map fun i => (laneOf (s.cur.line (s.cur.wb + d.toNat + i)) l).toNat * 2 ^ (32 * i)).sum
  else if size = 8 then ((s.vsrc64 d).getD l 0).toNat
  else (laneOf (s.vsrc d) l).toNat

/-- One access for the whole entry reads n bytes and finds v. -/
structure EntryReads (s : State) (f : Form) (n : Nat) (home : Bool) (va : DWord) (place : Place) (v : Nat) : Prop where
  reach : Reaches s .read f n n 0 va place
  value : s.readPlace s.cur.core home n place = (s, .ok v)
  free : (s.planMisses s.cur.core home [place]).wait = false
  unwatched : Unwatched s

/-- The private address of byte p of a lane (05 R127, 07 R206). -/
def privAddr (s : State) (p : Int) (l : Nat) : DWord := s.cur.privBase + BitVec.ofInt 64 (p / 4 * 256 + 4 * l + p % 4)

/-- The atomics of one element a lane: its size, and what it computes of the old value, B and D (Table 7-4, R217). -/
noncomputable def atomicTable : List ((Bool → Bool → Code → Code → Code → Instr) × Nat × (Nat → Nat → Nat → Nat)) := [
  (.atadd, 4, fun m b _ => (m + b) % 2 ^ 32),
  (.atmins, 4, fun m b _ => if (BitVec.ofNat 32 b).toInt < (BitVec.ofNat 32 m).toInt then b else m),
  (.atminu, 4, fun m b _ => min m b),
  (.atmaxs, 4, fun m b _ => if (BitVec.ofNat 32 m).toInt < (BitVec.ofNat 32 b).toInt then b else m),
  (.atmaxu, 4, fun m b _ => max m b), (.atand, 4, fun m b _ => Nat.land m b), (.ator, 4, fun m b _ => Nat.lor m b),
  (.atxor, 4, fun m b _ => Nat.xor m b), (.atxchg, 4, fun _ b _ => b), (.atcas, 4, fun m b d => if m = d then b else m),
  (.atfadd, 4, fun m b _ => (Fmt.f32.add 0 m b).1), (.atdadd, 8, fun m b _ => (m + b) % 2 ^ 64),
  (.atdcas, 8, fun m b d => if m = d then b else m)]

/-- The vector atomics: their element's size and operation (Table 7-5). -/
noncomputable def vectorAtomicTable : List ((Bool → Bool → Code → Code → Instr) × Nat × (Nat → Nat → Nat)) := [
  (.vatfadd, 4, fun m b => (Fmt.f32.add 0 m b).1), (.vatbadd, 2, fun m b => (Fmt.bf16.add 0 m b).1),
  (.vatfmax, 4, fun m b => opVatfmax m b 0), (.vatiadd, 4, fun m b => (m + b) % 2 ^ 32)]

/-- A place some bytes further on. -/
def placeAt (p : Place) (k : Nat) : Place :=
  match p with
  | .phys q => .phys { q with addr := q.addr + k }
  | .scratch c o => .scratch c (o + k)
  | .line key l b => .line key l (b + k)
  | .gone => .gone

/-- A strand that may go on from its wait w: its lanes still stand at every wait, it is the supervisor strand, or hot and not
halted, no watchpoint looks on, and no barrier of its cohort is pending; a wait at .rm may first ask for a promotion, so another scope is
asked for here (07 R210, R220, R222, R223). -/
structure MayGoOn (s : State) (key : Nat) (w : Wait) : Prop where
  there : (s.strand key).waits.all (s.strand key).waitsStill = true
  hot : (s.strand key).sup = true ∨
    ((s.cohort (s.strand key).ccb).residency = .hot ∧ (s.cohort (s.strand key).ccb).halted = false)
  unwatched : (s.core (s.strand key).core).watchPoints = []
  calm : (s.cohort (s.strand key).ccb).barrier = none
  scope : w.scope ≠ 5

/-- The wait of a strand has ended with a status: the entry is at the next word and the status stands in its scalar (07 R220). -/
structure Awake (s t : State) (key : Nat) (w : Wait) (status : Nat) : Prop where
  ended : (t.strand key).waitAt w.pc = none
  status : ∀ m, w.status = some m → m < 64 → (t.strand key).scalar m = BitVec.ofNat 64 status
  moved : ∀ l, (∃ e ∈ (s.strand key).frontier, e.pc = w.pc ∧ e.parked = false ∧ e.mask.getLsbD l = true) →
    ∃ e ∈ (t.strand key).frontier, e.pc = w.pc + 4 ∧ e.mask.getLsbD l = true
  lines : ∀ n, (t.strand key).line n = (s.strand key).line n
  scalars : ∀ n, w.status ≠ some n → (t.strand key).scalar n = (s.strand key).scalar n
  memory : SameMemory s t

end Sys2Proof.Claims

/-- 05 R116, R123, 07 R196, Table 7-1: the checks of one lane's address, in order: 0x10 unless it is a multiple of the element,
0x15 above 56 bits, the scratch aperture to the cohort's own scratch or 0x1A, and otherwise a leaf of the core's cache, which gives the
cause of a refused access or the place. -/
def Obligations.AccessChecks : Prop :=
  ∀ (s : State) (k : Access) (f : Form) (align n i : Nat) (va : DWord),
    let r := (s.checkLane s.cur k f align n i va).2
    (va.toNat % align ≠ 0 → r = .error { lane := i, cause := .misaligned, va := va }) ∧
    (va.toNat % align = 0 → 2 ^ 56 ≤ va.toNat → r = .error { lane := i, cause := .nonCanonical, va := va }) ∧
    (va.toNat % align = 0 → 0xFFFF0000000000 ≤ va.toNat → va.toNat < 0xFFFF8000000000 → f ≠ .wait → s.cur.sup = false →
      (va.toNat - 0xFFFF0000000000 + n ≤ s.curCohort.variant.scratch →
        Reaches s k f align n i va (.scratch s.cur.ccb (va.toNat - 0xFFFF0000000000))) ∧
      (s.curCohort.variant.scratch < va.toNat - 0xFFFF0000000000 + n →
        r = .error { lane := i, cause := .scratchBound, va := va })) ∧
    (va.toNat % align = 0 → va.toNat < 0xFFFF0000000000 → ∀ root e, s.rootOf (s.pasidOf s.cur) = some root →
      (s.core s.cur.core).tlb.find? (fun e => e.covers (s.pasidOf s.cur) va.toNat) = some e →
      let x := e.leafFor va.toNat
      let p := leafPhys x e.level va.toNat
      (∀ c, leafCause x (!s.cur.sup) k = some c →
        r = .error { lane := i, cause := c, va := va, walk := some { level := 0, big := decide (e.level = 2) } }) ∧
      (leafCause x (!s.cur.sup) k = none → k ≠ .fetch → (k.writes = true → entD x = true) → p.loc = .dev →
        f.refuses p = false → s.structAt p = none → Reaches s k f align n i va (.phys p)))

/-- 07 R194, R195, R200, R204, R206, R207, R209, Table 7-3: a load whose lanes all reach their places completes: its value, read
at those places, is given to a producer, and nothing else changes but, for an acquire wider than the core, its L1. -/
def Obligations.VectorLoads : Prop :=
  (∀ p ∈ loadTable, ∀ (d a : Code) (i : BitVec 9) (s : State) (place : Nat → Place) (v : Nat → Nat), HasLanes s →
    s.cur.shadow = false → Ready s [⟨.vsrc64, a, false⟩, ⟨p.2.2.1, d, false⟩] →
    LanesRead s .plain p.2.1 p.2.1 false (laneAddr s a i p.2.1) place v →
    ∃ t, exec (p.1 d a i) s = .next t ∧ LoadQueued s t d p.2.2.2.1 (fun l j => p.2.2.2.2 (v l) j) ∧ OnlyGoesOn s t) ∧
  (∀ (e g : Bool) (d a b : Code) (s : State) (place : Nat → Place) (v : Nat → Nat), HasLanes s → s.cur.shadow = false →
    Ready s [⟨.vsrc64, a, e⟩, ⟨.vsrc, b, g⟩, ⟨.vreg, d, false⟩] → LanesRead s .plain 4 4 false (indexAddr s a b) place v →
    ∃ t, exec (.ldwx e g d a b) s = .next t ∧ LoadQueued s t d 1 (fun l _ => BitVec.ofNat 32 (v l)) ∧ OnlyGoesOn s t) ∧
  (∀ (d a : Code) (sel : BitVec 3) (z : BitVec 2) (s : State) (place : Nat → Place) (v : Nat → Nat), HasLanes s →
    s.cur.shadow = false → sel.toNat ≤ 5 → z.toNat ≤ 1 → (sel = 5 → s.marks = []) →
    let n : Nat := if z = 1 then 8 else 4
    Ready s [⟨.vsrc64, a, false⟩, ⟨if n = 8 then .vdst64 else .vreg, d, false⟩] →
    LanesRead s .plain n n (decide (2 ≤ sel.toNat)) (laneAddr s a 0 n) place v →
    ∃ t, exec (.lda d a sel z) s = .next t ∧ LoadQueued s t d (n / 4) (fun l j => BitVec.ofNat 32 (v l / 2 ^ (32 * j))) ∧
      OnlyGoesOn s t ∧ (2 ≤ sel.toNat → ∀ x ∈ (t.core s.cur.core).l1, x.2.priv = true)) ∧
  ∀ (d a : Code) (z : Bool) (o : BitVec 8) (s : State) (place : Nat → Nat → Place) (v : Nat → Nat → Nat), HasLanes s →
    s.cur.shadow = false → s.cur.sup = false →
    let rows : Nat := if z then 2 else 1
    Ready s [⟨.vsrc, a, false⟩, ⟨if z then .vdst64 else .vreg, d, false⟩] →
    let p (l : Nat) : Int := (laneOf (s.vsrc a) l).toInt + 4 * o.toInt
    (∀ l ∈ lanesOf (lanes s), p l % 4 = 0 ∧ 0 ≤ p l ∧ p l + 4 * rows ≤ s.curCohort.variant.priv ∧ ∀ k, k < rows →
      Reaches s .read .priv 4 4 l (privAddr s (p l) l + BitVec.ofNat 64 (256 * k)) (place l k) ∧
      s.readPlace s.cur.core false 4 (place l k) = (s, .ok (v l k))) →
    (s.planMisses s.cur.core false ((lanesOf (lanes s)).flatMap fun l => (List.range rows).map (place l))).wait = false →
    Unwatched s →
    ∃ t, exec (.ldpv d a z o) s = .next t ∧ OnlyGoesOn s t ∧
      LoadQueued s t d rows (fun l j => BitVec.ofNat 32 ((v l 0 + if z then 2 ^ 32 * v l 1 else 0) / 2 ^ (32 * j)))

/-- 07 R195, R200, R201, R204 to R208, 05 R133: a store whose lanes all reach local memory or scratch completes: the bytes at their
places become the lanes' data, the higher lane last, and no other byte, register or engine changes. A private store goes to
the private place of its lane; a release first waits for what it orders. -/
def Obligations.VectorStores : Prop :=
  (∀ p ∈ storeTable, ∀ (d a : Code) (i : BitVec 9) (s : State) (place : Nat → Place), HasLanes s → Unchecked s →
    Ready s [⟨.vsrc64, a, false⟩, ⟨p.2.2, d, false⟩] → LanesWrite s .plain p.2.1 p.2.1 (laneAddr s a i p.2.1) place →
    ∃ t, exec (p.1 d a i) s = .next t ∧
      Stored s t p.2.1 ((lanesOf (lanes s)).map fun l => (place l, datum s p.2.1 d l)) s.cur.stat) ∧
  (∀ (e g : Bool) (d a b : Code) (s : State) (place : Nat → Place), HasLanes s → Unchecked s →
    Ready s [⟨.vsrc64, a, e⟩, ⟨.vsrc, b, g⟩, ⟨.vsrc, d, false⟩] → LanesWrite s .plain 4 4 (indexAddr s a b) place →
    ∃ t, exec (.stwx e g d a b) s = .next t ∧
      Stored s t 4 ((lanesOf (lanes s)).map fun l => (place l, datum s 4 d l)) s.cur.stat) ∧
  (∀ (d a : Code) (sel : BitVec 3) (z : BitVec 2) (s : State) (place : Nat → Place), HasLanes s → Unchecked s →
    sel.toNat ≤ 4 → z.toNat ≤ 1 →
    let n : Nat := if z = 1 then 8 else 4
    Ready s [⟨.vsrc64, a, false⟩, ⟨if n = 8 then .vsrc64 else .vsrc, d, false⟩] →
    (s.releaseWaits s.cur sel.toNat = true → exec (.stl d a sel z) s = .next ((s.noteRelease s.cur sel.toNat).stallWith 12)) ∧
    (s.releaseWaits s.cur sel.toNat = false → LanesWrite (s.noteRelease s.cur sel.toNat) .plain n n (laneAddr s a 0 n) place →
      ∃ t, exec (.stl d a sel z) s = .next t ∧
        Stored s t n ((lanesOf (lanes s)).map fun l => (place l, datum s n d l)) s.cur.stat)) ∧
  ∀ (d a : Code) (z : Bool) (o : BitVec 8) (s : State) (place : Nat → Nat → Place), HasLanes s → Unchecked s →
    s.cur.sup = false →
    let rows : Nat := if z then 2 else 1
    Ready s [⟨.vsrc, a, false⟩, ⟨if z then .vpairsrc else .vsrc, d, false⟩] →
    let p (l : Nat) : Int := (laneOf (s.vsrc a) l).toInt + 4 * o.toInt
    (∀ l ∈ lanesOf (lanes s), p l % 4 = 0 ∧ 0 ≤ p l ∧ p l + 4 * rows ≤ s.curCohort.variant.priv ∧ ∀ k, k < rows →
      Reaches s .write .priv 4 4 l (privAddr s (p l) l + BitVec.ofNat 64 (256 * k)) (place l k) ∧ spotOf (place l k) ≠ none) →
    (s.core s.cur.core).outstanding.length ≤ 512 → Unwatched s →
    ∃ t, exec (.stpv d a z o) s = .next t ∧ Stored s t 4 ((lanesOf (lanes s)).flatMap fun l =>
      (List.range rows).map fun k => (place l k, datum s (4 * rows) d l / 2 ^ (32 * k))) s.cur.stat

/-- 07 R202, R203: the scalar loads, the broadcast load and the scalar stores make one access for the whole entry. -/
def Obligations.ScalarLoadsAndStores : Prop :=
  (∀ (w : Bool) (d a : Code) (i : BitVec 9) (s : State) (place : Place) (v : Nat), HasLanes s →
    let n : Nat := if w then 8 else 4
    let va := s.usrc a + i.signExtend 64 * BitVec.ofNat 64 n
    Ready s [⟨.useg, a, false⟩, ⟨.seg, d, false⟩] → EntryReads s .plain n false va place v →
    ∃ t, exec (if w then .sld d a i else .sldw d a i) s = .next t ∧ GivenScalar s t (d.toNat - 0x60) (BitVec.ofNat 64 v)) ∧
  (∀ (d a : Code) (i : BitVec 9) (s : State) (place : Place) (v : Nat), HasLanes s →
    Ready s [⟨.useg, a, false⟩, ⟨.vreg, d, false⟩] →
    EntryReads s .plain 4 false (s.usrc a + i.signExtend 64 * 4) place v →
    ∃ t, exec (.ldbc d a i) s = .next t ∧ LoadQueued s t d 1 (fun _ _ => BitVec.ofNat 32 v) ∧ OnlyGoesOn s t) ∧
  ∀ (w : Bool) (d a : Code) (i : BitVec 9) (s : State) (place : Place), HasLanes s → Unchecked s →
    let n : Nat := if w then 8 else 4
    Ready s [⟨.useg, a, false⟩, ⟨.useg, d, false⟩] →
    Reaches s .write .plain n n 0 (s.usrc a + i.signExtend 64 * BitVec.ofNat 64 n) place → spotOf place ≠ none →
    (s.core s.cur.core).outstanding.length ≤ 512 → Unwatched s →
    ∃ t, exec (if w then .sst d a i else .sstw d a i) s = .next t ∧ Stored s t n [(place, (s.usrc d).toNat)] s.cur.stat

/-- The value that an element finds after the operations of the lanes before it: those that name the same element count, in
order (07 R215). -/
def elementAfter (op : Nat → Nat → Nat → Nat) (p : Place) (v : Nat) (earlier : List (Place × Nat × Nat)) : Nat :=
  (earlier.filter fun x => decide (x.1.bare = p.bare)).foldl (fun m x => op m x.2.1 x.2.2) v

/-- 07 R214 to R217, Tables 7-4 and 7-5: an atomic of lanes that reach local memory or scratch writes what its operation gives of
the old value and its operands, as one read and write at the home, and returns the old value; lanes that name one element
perform in ascending order, each on what the one before left; a vector atomic does so for each element of 32 bytes a lane and
returns nothing. -/
def Obligations.Atomics : Prop :=
  (∀ p ∈ atomicTable, ∀ (e g : Bool) (d a b : Code) (s : State) (place : Nat → Place) (v : Nat → Nat), HasLanes s →
    Unchecked s → let n := p.2.1
    let r := if n = 8 then Role.vsrc64 else Role.vsrc
    let operand (c : Code) (l : Nat) : Nat := if n = 8 then ((s.vsrc64 c).getD l 0).toNat else (laneOf (s.vsrc c) l).toNat
    let old (l : Nat) : Nat := elementAfter p.2.2 (place l) (v l)
      (((lanesOf (lanes s)).filter fun i => i < l).map fun i => (place i, operand b i, operand d i))
    Ready s [⟨.vsrc64, a, e⟩, ⟨r, b, g⟩, ⟨if n = 8 then .vdst64 else .vreg, d, false⟩] →
    (∀ l ∈ lanesOf (lanes s), Reaches s .atomic (.atomic false) n n l (laneAddr s a 0 n l) (place l) ∧
      spotOf (place l) ≠ none ∧ s.readPlace s.cur.core true n (place l) = (s, .ok (v l))) →
    (s.planAtomics s.cur.core ((lanesOf (lanes s)).map place)).wait = false → Unwatched s →
    ∃ t, exec (p.1 e g d a b) s = .next t ∧ LoadQueued s t d (n / 4) (fun l j => BitVec.ofNat 32 (old l / 2 ^ (32 * j))) ∧
      Stored s t n ((lanesOf (lanes s)).map fun l => (place l, p.2.2 (old l) (operand b l) (operand d l))) s.cur.stat) ∧
  ∀ p ∈ vectorAtomicTable, ∀ (e g : Bool) (a b : Code) (s : State) (place : Nat → Place) (v : Nat → Nat → Nat), HasLanes s →
    Unchecked s → let n := p.2.1
    let operand (l k : Nat) : Nat :=
      (laneOf (s.cur.line (s.cur.wb + b.toNat + n * k / 4)) l).toNat / 2 ^ (8 * (n * k % 4)) % 2 ^ (8 * n)
    let old (l k : Nat) : Nat := elementAfter (fun m x _ => p.2.2 m x) (placeAt (place l) (n * k)) (v l k)
      (((lanesOf (lanes s)).filter fun i => i < l).flatMap fun i =>
        (List.range (32 / n)).map fun k => (placeAt (place i) (n * k), operand i k, 0))
    Ready s [⟨.vsrc64, a, e⟩, ⟨.voct, b, g⟩] →
    (∀ l ∈ lanesOf (lanes s), Reaches s .atomic (.atomic (decide (n < 4))) 32 32 l (laneAddr s a 0 1 l) (place l) ∧
      spotOf (place l) ≠ none ∧
      ∀ k, k < 32 / n → s.readPlace s.cur.core true n (placeAt (place l) (n * k)) = (s, .ok (v l k))) →
    (s.planAtomics s.cur.core ((lanesOf (lanes s)).map place)).wait = false → Unwatched s →
    ∃ t, exec (p.1 e g a b) s = .next t ∧
      Stored s t n ((lanesOf (lanes s)).flatMap fun l => (List.range (32 / n)).map fun k =>
        (placeAt (place l) (n * k), p.2.2 (old l k) (operand l k))) s.cur.stat

/-- 07 R207 to R212, R225: `fence` and `xfence` wait for what they order and then only go on, an acquire wider than the core
dropping its L1 but the private lines, and `xfence` to the load-store path all of it (05 R141); `pref` only goes on, once its
miss-status entries are free, and keeps what ATS answers (15 R412); `cinv` takes its lines from the L1, and `cwb` changes no value a read returns. Reserved
scopes and paths raise 0x01. -/
def Obligations.FencesAndCacheControl : Prop :=
  (∀ (sel : BitVec 3) (s : State),
    let scope := if sel = 5 then 3 else sel.toNat
    (5 < sel.toNat → exec (.fence sel) s = .next (s.raiseAll .illegalOpcode)) ∧
    (sel.toNat ≤ 5 → s.releaseWaits s.cur scope = true → exec (.fence sel) s = .next ((s.noteRelease s.cur scope).stallWith 12)) ∧
    (sel.toNat ≤ 5 → s.releaseWaits s.cur scope = false → HasLanes s → ∃ t, exec (.fence sel) s = .next t ∧ OnlyGoesOn s t ∧
      (2 ≤ sel.toNat → ∀ x ∈ (t.core s.cur.core).l1, x.2.priv = true))) ∧
  (∀ (sel p q : BitVec 3) (s : State),
    ((4 < sel.toNat ∨ p = 7 ∨ q = 7) → exec (.xfence sel p q) s = .next (s.raiseAll .illegalOpcode)) ∧
    (sel.toNat ≤ 4 → p = 5 → q ≠ 7 → (s.core s.cur.core).relaxed ≠ [] → s.cur.flushed ≠ some (place s) →
      exec (.xfence sel p q) s = .next (((s.sendFlush s.cur).noteRelease s.cur sel.toNat).stallWith 12)) ∧
    (sel.toNat ≤ 4 → p ≠ 7 → q ≠ 7 → (p = 5 → (s.core s.cur.core).relaxed = [] ∨ s.cur.flushed = some (place s)) →
      ((p = 0 ∨ p = 6) → s.releaseWaits s.cur sel.toNat = false) → HasLanes s →
      ∃ t, exec (.xfence sel p q) s = .next t ∧ OnlyGoesOn s t ∧ (q = 0 → (t.core s.cur.core).l1 = []))) ∧
  (∀ (a : Code) (i : BitVec 9) (s : State), HasLanes s → Ready s [⟨.vsrc64, a, false⟩] →
    (s.core s.cur.core).misses.length + (s.core s.cur.core).replies + 64 ≤ 512 →
    (∀ m ∈ (s.core s.cur.core).misses, s.now ≤ m.since + 16) →
    ∃ t, exec (.pref a i) s = .next t ∧ Goes s t [(place s + 4, lanes s)] ∧ SameMemory s t ∧
      SameRegisters s.cur t.cur (fun _ => False) (fun _ => False) s.cur.stat ∧
      ((s.functionOf (s.pasidOf s.cur)).ats = false → OnlyGoesOn s t)) ∧
  ∀ (a : Code) (i : BitVec 9) (s : State) (place : Nat → Phys), HasLanes s → Ready s [⟨.vsrc64, a, false⟩] →
    (∀ r ∈ (s.controlRequests a i).reqs, Reaches s .read .cache 1 128 r.1 r.2 (.phys (place r.1))) →
    (∃ t, exec (.cwb a i) s = .next t ∧ OnlyGoesOn s t) ∧
    ∃ t, exec (.cinv a i) s = .next t ∧ OnlyGoesOn s t ∧
      ∀ r ∈ (s.controlRequests a i).reqs, Tab.has (t.core s.cur.core).l1 (place r.1).lineKey = false

/-- 07 R196, R197, R210, R213: the load-store engine's own steps: a fill puts its line, as its home holds it, its uncorrectable words marked, into an L1 with room; a
lost store leaves the list and makes an event; a promotion request performs what the marked release orders; a time-out parks
the lanes of an unanswered access at it, wherever they have gone since (log 24). -/
def Obligations.LoadStoreEvents : Prop :=
  (∀ (s : State) (core line : Nat) (m : Miss), (s.core core).misses.find? (fun x => x.line == line) = some m →
    (s.core core).l1.length < l1Lines (s.core core).carve →
    ∃ t, exec (.l1Fill core line) s = .next t ∧ (t.core core).misses = (s.core core).misses.filter (fun x => x.line != line) ∧
      Tab.get { data := 0, priv := false } (t.core core).l1 line =
        { data := Memory.readN (s.memory (keyLoc line)) (keyAddr line) 128, priv := m.priv,
          bad := (s.errors (keyLoc line)).filter fun w => w / 16 == line / 2 } ∧
      SameMemory s t ∧ SameEngines s t ∧ ∀ k, t.strand k = s.strand k) ∧
  (∀ (s : State) (core place : Nat) (o : Outstanding), (s.core core).outstanding[place]? = some o → (s.core core).queueRoom = true →
    ∃ t ev, exec (.storeLost core place) s = .next t ∧
      (t.core core).outstanding.map (fun x => (x.key, x.va, x.mask)) =
        ((s.core core).outstanding.eraseIdx place).map (fun x => (x.key, x.va, x.mask)) ∧
      (t.core core).evq = (s.core core).evq ++ [ev] ∧ ev.cause = (if o.peer then .peerLink else .hostLink) ∧ ev.taddr = o.va ∧
      ev.tmask = o.mask ∧ t.local_ = s.local_) ∧
  (∀ (s : State) (line : Nat), Tab.has s.marks line = true → ∃ t, exec (.promotionRequest line) s = .next t ∧
    Tab.has t.marks line = false ∧
    (∀ o ∈ (t.core (Tab.get 0 s.marks line)).outstanding, (o.ordered && o.peer) = false) ∧ SameMemory s t ∧ SameEngines s t) ∧
  ∀ (s : State) (key place : Nat) (m : Mask) (p : Producer), (s.strand key).producers[place]? = some p → p.whole = 0 →
    (s.strand key).shadow = false → (s.strand key).sup = false → (s.cohort (s.strand key).ccb).barrier = none →
    (s.core (s.strand key).core).held = [] → (s.core (s.strand key).core).evq.length < 63 →
    m &&& (p.peerLanes ||| p.hostLanes) ≠ 0 →
    let live := ((s.strand key).frontier.filter fun x => !x.parked && !x.pending).foldl (fun (m : Mask) x => m ||| x.mask) 0
    let peer := m &&& p.peerLanes
    let host := m &&& p.hostLanes &&& ~~~ peer
    ∃ t, exec (.accessTimeout key place m) s = .next t ∧ SameMemory s t ∧ SameEngines s t ∧
      (∀ c x, (c, x) = (Cause.peerLink, peer) ∨ (c, x) = (Cause.hostLink, host) → x &&& live ≠ 0 →
        ∃ e ∈ (t.strand key).frontier, e.parked = true ∧ e.pc = p.pc ∧ e.cause = some c ∧ e.mask = x &&& live)

/-- 07 R213, R219 to R222, 10 R284, R285: a wait that finds a miss-status entry and whose condition holds at once ends with
status 2; another arms a free monitor and empties its status scalar: it has issued, and waits. A monitor whose condition a write has met fires, its strand ends with status
0, and a polled wait with status 1. -/
def Obligations.Waits : Prop :=
  (∀ (e g : Bool) (sel : BitVec 3) (t : BitVec 4) (c : BitVec 2) (w : Bool) (r : BitVec 4) (b : BitVec 7) (s : State) (p : Phys),
    c ≠ 3 → sel.toNat ≤ 5 → Unchecked s → s.cur.key = s.curKey → s.cur.waitAt (place s) = none → s.curCohort.barrier = none →
    Ready s [⟨.ssrc, r.zeroExtend 7, e⟩, ⟨.useg, b, g⟩, ⟨.sreg, t.zeroExtend 7, false⟩] →
    let va := s.ssrc (r.zeroExtend 7)
    let n : Nat := if w then 8 else 4
    let cmp := (s.usrc b).toNat % 2 ^ (8 * n)
    Reaches s .read .wait n n 0 va (.phys p) → s.lateCause p n = none → (sel = 5 → Tab.has s.marks p.lineKey = false) →
    (s.core s.cur.core).entriesShort 1 = false → s.peerHeld [.phys p] = false →
    candidate? s.cur = some (candidate s.cur) → (candidate s.cur).parked = false →
    let v := s.elementAt p w
    let holds := if c = 0 then v = cmp else if c = 1 then v ≠ cmp else cmp ≤ v
    (holds → Unwatched s → ∃ u wt, exec (.waitc e g sel t c w r b) s = .next u ∧ wt.status = some t.toNat ∧ wt.pc = place s ∧ Awake s u s.curKey wt 2) ∧
    (¬ holds → ∀ i, s.freeMonitor p.monitorBase = some i → ∃ u wt, exec (.waitc e g sel t c w r b) s = .next u ∧
      u.cur.waitAt (place s) = some wt ∧ wt.how = .armed i ∧ wt.status = some t.toNat ∧ u.cur.stall = 0 ∧ u.cur.lastIssue = s.now ∧
      u.cur.sFull.getLsbD t.toNat = false ∧
      (∃ m, (i, m) ∈ u.monitors ∧ m.addr = p.addr ∧ m.cond = c.toNat ∧ m.cmp = cmp ∧ m.waiter = .strand s.curKey (place s)) ∧
      SameMemory s u ∧ SameEngines s u)) ∧
  (∀ (e g two : Bool) (a b : Code) (s : State) (p : Phys), Unchecked s → s.cur.key = s.curKey → s.cur.waitAt (place s) = none →
    s.curCohort.barrier = none →
    Ready s (if two then [⟨.sseg, a, e⟩, ⟨.useg, b, g⟩] else [⟨.sseg, a, e⟩]) →
    Reaches s .read .wait 8 8 0 (s.usrc a) (.phys p) → s.lateCause p 8 = none →
    (s.core s.cur.core).entriesShort 1 = false → s.peerHeld [.phys p] = false → candidate? s.cur = some (candidate s.cur) →
    (candidate s.cur).parked = false → Unwatched s →
    (if two then (s.usrc b).toNat ≤ s.elementAt p true else s.elementAt p true ≠ 0) →
    ∃ u wt, exec (if two then .cwp e g a b else .cwait e a) s = .next u ∧ wt.status = none ∧ wt.pc = place s ∧ Awake s u s.curKey wt 2) ∧
  (∀ (s : State) (i key : Nat) (m : Monitor) (pc : Pc), s.monitors.find? (fun x => x.1 == i) = some (i, m) → m.due = true →
    m.waiter = .strand key pc →
    ∃ t, exec (.monitorFire i) s = .next t ∧ Tab.has t.monitors i = false ∧
      (t.strand key).waits = (s.strand key).waits.map (fun w => if w.how = .armed i then { w with how := .fired } else w) ∧
      OnlyStrand s t key) ∧
  (∀ (s : State) (key : Nat) (w : Wait), (s.strand key).waits.find? (fun w => decide (w.how = .fired)) = some w → MayGoOn s key w →
    ∃ t, exec (.monitorWake key) s = .next t ∧ Awake s t key w 0) ∧
  ∀ (s : State) (key : Nat) (w : Wait) (p : Phys), (s.strand key).waits.find? (fun w => decide (w.how = .polling)) = some w →
    MayGoOn s key w → s.engineAddr (s.pasidOf (s.strand key)) w.va.toNat = some p →
    s.lateCause p (if w.wide then 8 else 4) = none → condHolds w.cond (s.elementAt p w.wide) w.cmp = true →
    ∃ t, exec (.waitcPoll key) s = .next t ∧ Awake s t key w 1

/-! ### The dispatch engine, translation and the gather unit (03, 06, 12, 14) -/

namespace Sys2Proof.Claims

/-- A cohort under its own key that is no part of a span. -/
structure Single (s : State) (key : DWord) : Prop where
  own : (s.cohort key).ccb = key
  single : (s.cohort key).span = 0

/-- The cohorts that move with a cohort, each under its own key: itself, or the members of its span (04 R80). -/
structure Grouped (s : State) (key : DWord) : Prop where
  here : key ∈ s.groupOf (s.cohort key)
  own : (s.groupOf (s.cohort key)).all (fun x => decide ((s.cohort x).ccb = x)) = true
  once : (s.groupOf (s.cohort key)).Nodup

/-- A scalar is emptied, and its value given to a producer (04 R99); a queue destination has the value at the end of the
mailbox (03 R52). -/
def Answered (s t : State) (d : Code) (v : DWord) : Prop :=
  (d.toNat < 64 → t.cur.sFull.getLsbD d.toNat = false ∧ ∃ p ∈ t.cur.producers, p.scalars = [(d.toNat, v)]) ∧
  (¬ d.toNat < 64 → (t.cohort s.cur.ccb).mailbox.getLast? = some (pairLine v))

/-- A scalar destination or a push has the value v; late, if a source pops a queue (04 R99). -/
def Replied (s t : State) (us : List Use) (d : Code) (v : DWord) : Prop :=
  (popsInto us = false → d.toNat < 64 → t.cur.scalar d.toNat = v) ∧ (popsInto us = true ∨ ¬ d.toNat < 64 → Answered s t d v)

/-- A translation of an address stands in no cache that a removal has named. -/
def Removed (t : State) (r : Removal) : Prop :=
  (∀ c ∈ t.cores, ∀ e ∈ c.2.tlb, r.meets e.pasid e.va (2 ^ e.size) = false) ∧
  (∀ x ∈ t.link.atsCache, r.meets x.pasid (4096 * x.va) 4096 = false) ∧
  ∀ c ∈ t.slices, (∀ e ∈ c.2.leaves, r.meets e.pasid e.va (2 ^ e.size) = false) ∧
    ∀ p ∈ c.2.pointers, r.meets p.pasid (p.va * p.span) p.span = false

/-- The removal that A and B of `tlbinv` name (Table 12-5). -/
def namedRemoval (a b : DWord) : Removal :=
  { kind := b.toNat / 2 ^ 20 % 4, va := a.toNat, pasid := b.toNat % 2 ^ 20, count := b.toNat / 2 ^ 32 % 2 ^ 32 }

/-- The cohorts of a core that hold a resident slot of it (11 R315). -/
def slotHolders (s : State) (core : Nat) : List Cohort :=
  (s.cohortsHeld core).filter fun c => (s.core core).owners.any fun o => o.2.ccb == c.ccb && o.2.resident

end Sys2Proof.Claims

/-- 14 R370, R372, R373, R380: the steps of a queue: a poll that finds work marks it; its tail is read, and one that overruns
the ring stops it with code 3; the record at its head is checked, which sets the A bits of its bundle's pages, and
expanded, or the queue stopped with the code of the check; a store of 0 to the status resumes it; what has waited STV cycles is aged. -/
def Sys2Proof.Claims.QueueSteps : Prop :=
  (∀ (s : State) (q : Nat), s.leased = true → (s.queue q).en = true → (s.queue q).polling = true →
    ((s.queue q).stopped = true ∧ s.queueWord q 0x20 = 0 ∨ (s.queue q).stopped = false ∧ s.queueTail q ≠ s.queueHead q) →
    ∃ t, exec (.tailPoll q) s = .next t ∧ (t.queue q).due = true ∧ SameMemory s t ∧ ∀ k, t.strand k = s.strand k) ∧
  (∀ (s : State) (q : Nat), s.leased = true → (s.queue q).en = true → (s.queue q).due = true → (s.queue q).stopped = false →
    ∃ t, exec (.tailRead q) s = .next t ∧ (t.queue q).tail = s.queueTail q ∧ (t.queue q).due = false ∧
      (2 ^ (s.queue q).n < (s.queueTail q + 2 ^ 64 - s.queueHead q) % 2 ^ 64 → (t.queue q).code = 3)) ∧
  (∀ (s : State) (q a idx : Nat) (chained : Bool) (l : Loc), s.leased = true → (s.queue q).en = true → (s.queue q).stopped = false →
    (s.queue q).expansion = none → s.headRecord q = some (chained, a, l, idx) → s.errorAt l a 64 = false →
    let words := s.recordWords l a
    let s1 := ({ s with free := s.free + if l = .mmio then 8 else 0 } : State).touchRecord words
    (∀ e, s1.checkRecord chained words = .ok e → ∃ t, exec (.recordPop q) s = .next t ∧ (t.queue q).expansion = some e ∧
      (∀ c, (t.core c).icode = []) ∧ SameMemory s1 t) ∧
    (∀ c, s1.checkRecord chained words = .error c → ∃ t, exec (.recordPop q) s = .next t ∧ (t.queue q).code = c)) ∧
  (∀ (s : State) (q : Nat), s.acting = true → (s.queue q).stopped = true → (s.queue q).due = true → s.queueWord q 0x20 = 0 →
    ∃ t, exec (.queueResume q) s = .next t ∧ (t.queue q).code = 0) ∧
  (∀ (s : State) (q : Nat), s.leased = true → (s.queue q).en = true → (s.queue q).expansion.isSome = true →
    s.disp.regs.stv.toNat ≤ s.now - (s.queue q).headSince →
    ∃ t, exec (.starvationAge true q) s = .next t ∧ (t.queue q).aged = true ∧ SameMemory s t) ∧
  ∀ (s : State) (id : Nat), s.acting = true → (s.cohort (BitVec.ofNat 64 id)).ccb = BitVec.ofNat 64 id →
    s.waitingItems.contains (.cohort (BitVec.ofNat 64 id)) = true →
    s.disp.regs.stv.toNat ≤ s.now - (s.cohort (BitVec.ofNat 64 id)).waitSince →
    ∃ t, exec (.starvationAge false id) s = .next t ∧ (t.cohort (BitVec.ofNat 64 id)).aged = true ∧ SameMemory s t

/-- 14 R376, R378 to R380, R386, 04 R83: the record served next has its next group admitted, and the queue is the one served last; one
that cannot be placed shows code 9, or 5 for want of memory. A warm cohort served next is promoted, with its span's members. A launch whose
cohorts are all complete is over. -/
def Sys2Proof.Claims.PlacementAndCompletion : Prop :=
  (∀ (s : State) (q : Nat) (x : Expansion), (s.queue q).expansion = some x → s.leased = true → (s.queue q).en = true →
    (s.queue q).stopped = false →
    (∀ c, s.placeNext q x = .error c → ∃ t, exec (.cohortPlacement q) s = .next t ∧ (t.queue q).code = c) ∧
    (∀ s1 launch ccbs now, s.placeNext q x = .ok (s1, launch, ccbs, now) → s.nextServed = some (.queue q) →
      ∃ t, exec (.cohortPlacement q) s = .next t ∧ t.disp.turn = q ∧
        (x.placed + ccbs.length < natBits (x.words.getD 3 0) 0 24 →
          (t.queue q).expansion = some { x with placed := x.placed + ccbs.length, launch := some launch }) ∧
        (natBits (x.words.getD 3 0) 0 24 ≤ x.placed + ccbs.length → (t.queue q).expansion = none))) ∧
  (∀ (s : State) (ccb : Nat), Grouped s (BitVec.ofNat 64 ccb) → s.acting = true →
    (s.cohort (BitVec.ofNat 64 ccb)).residency = .warm → s.nextServed = some (.cohort (BitVec.ofNat 64 ccb)) →
    ∃ t, exec (.promotion ccb) s = .next t ∧ SameMemory s t ∧ ∀ x ∈ s.groupOf (s.cohort (BitVec.ofNat 64 ccb)),
      (t.cohort x).residency = .hot ∧ (t.cohort x).hotSince = s.now) ∧
  (∀ (s : State) (id : Nat) (l : Launch), s.disp.launches.find? (fun x => x.1 == id) = some (id, l) → l.left = 0 → s.acting = true →
    ∃ t, exec (.launchCompletion id) s = .next t ∧ Tab.has t.disp.launches id = false) ∧
  ∀ (s : State) (ccb : Nat), ccb < 2 ^ 64 → (s.cohort (BitVec.ofNat 64 ccb)).ccb = BitVec.ofNat 64 ccb → s.acting = true →
    Tab.has s.cohorts ccb = true →
    let c := s.cohort (BitVec.ofNat 64 ccb)
    (∀ x ∈ s.cohorts, x.1 ≠ ccb → ∀ k ∈ x.2.keys, k ∉ c.keys) → c.dead = false → (∀ k ∈ c.keys, (s.strand k).exited = true ∧ (s.strand k).freed = true) → (∀ x ∈ c.channels, x.2 = []) →
    (∀ x ∈ s.cores, ∀ o ∈ x.2.mxOps, o.ccb ≠ BitVec.ofNat 64 ccb) → (∀ b, b < 32 → (s.bin c b).free = true) →
    ∃ t, exec (.cohortCompletion ccb) s = .next t ∧ Tab.has t.cohorts ccb = false ∧ ∀ k ∈ c.keys, Tab.has t.strands k = false

/-- 14 R370 to R380, R386, 04 R83: queues, placement and completion. -/
def Obligations.QueuesAndPlacement : Prop :=
  Claims.QueueSteps ∧ Claims.PlacementAndCompletion

/-- 14 R383, R384: `enq` puts its record, under the issuer's PASID, at the tail of a device-fed queue and answers 0; 1 for a full
queue and 2 for one that takes no records. `join` counts its counter down and answers what is left; 0x2C at 0. -/
def Obligations.EnqueueAndJoin : Prop :=
  (∀ (e g : Bool) (d a b : Code) (s : State) (place : Place) (v : Nat), HasLanes s → Unchecked s →
    Ready s (usesPriv e g d a b) → s.releaseWaits s.cur 3 = false → EntryReads s .record 64 false (s.ssrc a) place v →
    let q := (s.ssrc b).toNat
    let x := s.queue q
    let tail := s.queueTail q
    let slot := x.ring + 64 * (tail % 2 ^ x.n)
    ∃ t, exec (.enq e g d a b) s = .next t ∧
      ((256 ≤ q ∨ x.en = false ∨ x.dev = false) → Answered s t d 2 ∧ SameMemory s t) ∧
      (q < 256 → x.en = true → x.dev = true → (tail + 2 ^ 64 - s.queueHead q) % 2 ^ 64 = 2 ^ x.n → Answered s t d 1 ∧ SameMemory s t) ∧
      (q < 256 → x.en = true → x.dev = true → (tail + 2 ^ 64 - s.queueHead q) % 2 ^ 64 ≠ 2 ^ x.n →
        slot + 64 ≤ s.queueAddr q + 0x18 ∨ s.queueAddr q + 0x20 ≤ slot → Answered s t d 0 ∧
        Memory.readN t.local_ (s.queueAddr q + 0x18) 8 = (tail + 1) % 2 ^ 64 ∧
        Memory.readN t.local_ slot 64 = (v % 2 ^ 320 + (v / 2 ^ 320 % 2 ^ 64 / 2 ^ 20 * 2 ^ 20 + s.pasidOf s.cur) * 2 ^ 320 +
          v / 2 ^ 384 % 2 ^ 64 * 2 ^ 384) % 2 ^ 512)) ∧
  ∀ (e : Bool) (d a : Code) (s : State) (place : Place) (v : Nat), HasLanes s → Unchecked s →
    Ready s [⟨.ssrc, a, e⟩, ⟨.sreg, d, false⟩] → s.releaseWaits s.cur 3 = false →
    Reaches s .atomic (.atomic false) 16 16 0 (s.ssrc a) place → spotOf place ≠ none →
    s.readPlace s.cur.core true 16 place = (s, .ok v) → (s.planAtomics s.cur.core [place]).wait = false → Unwatched s →
    (v % 2 ^ 32 = 0 → exec (.join e d a) s = .next (s.raiseAllAt .joinUnderflow 0)) ∧
    (v % 2 ^ 32 ≠ 0 → (v % 2 ^ 32 = 1 → v / 2 ^ 64 % 2 ^ 56 = 0) → ∃ t, exec (.join e d a) s = .next t ∧
      Answered s t d (BitVec.ofNat 64 (v % 2 ^ 32 - 1)) ∧ Stored s t 4 [(place, v % 2 ^ 32 - 1)] s.cur.markScalarWrite.stat)

/-- 14 R381, R382, R392 to R395, 04 R80, R89, 11 R315 (stated for cohorts whose images are sound): a decided swap-out that has
drained leaves its cohort and its span's members absent, a swap-in served next makes them warm or hot on the cores chosen, a
demotion warm, a migration of one cohort hot on the other core; an expired quantum, a starved item and a deadlock over
accumulators decide a move. -/
def Obligations.Moves : Prop :=
  (∀ (s : State) (ccb : Nat), let key := BitVec.ofNat 64 ccb
    let g := s.groupOf (s.cohort key)
    Grouped s key → s.acting = true → s.resident key = true → ((s.cohort key).leaving = some .out ∨ (s.cohort key).stopping = true) →
    (s.cohort key).dead = false → s.groupQuiet key = true → (∀ x ∈ g, s.moveFault x false = none) →
    ∃ t, exec (.swapOut ccb) s = .next t ∧ ∀ x ∈ g, s.resident x = true → (t.cohort x).residency = .absent ∧
      (t.cohort x).leaving = none ∧ (t.cohort x).stopping = false ∧ ∀ k ∈ (s.cohort x).keys, (t.strand k).hot = false) ∧
  (∀ (s : State) (ccb : Nat) (now : Bool) (cores : List Nat), let key := BitVec.ofNat 64 ccb
    let g := s.groupOf (s.cohort key)
    Grouped s key → s.leased = true → (s.cohort key).residency = .absent → s.nextServed = some (.cohort key) →
    s.returnCores key = some (now, cores) → (∀ x ∈ g, s.moveFault x true = none) →
    ∃ t, exec (.swapIn ccb) s = .next t ∧ ∀ x ∈ g.zip cores,
      (t.cohort x.1).residency = (if now then .hot else .warm) ∧ (t.cohort x.1).core = x.2) ∧
  (∀ (s : State) (ccb : Nat), let key := BitVec.ofNat 64 ccb
    let g := s.groupOf (s.cohort key)
    Grouped s key → s.acting = true → (∀ x ∈ g, (s.cohort x).residency = .hot ∧ (s.cohort x).dead = false) →
    s.warmRoom key = true → s.groupStill key = true → (∀ x ∈ g, s.moveFault x false = none) →
    ((∀ x ∈ g, (s.cohort x).leaving = some .demote) ∨ s.disp.regs.pol.getLsbD 1 = true ∧
      ∀ x ∈ g, (s.cohort x).leaving = none ∧ (s.cohort x).stopping = false ∧ s.blockedCohort (s.cohort x) = true) →
    ∃ t, exec (.demotion ccb) s = .next t ∧ ∀ x ∈ g, (t.cohort x).residency = .warm ∧ (t.cohort x).leaving = none) ∧
  (∀ (s : State) (ccb : Nat) (i : Item), let key := BitVec.ofNat 64 ccb
    let c := s.cohort key
    Grouped s key → s.acting = true → c.residency = .hot → c.leaving = none → c.halted = false → c.dead = false →
    s.disp.regs.quant.toNat * s.disp.regs.weight c.cls ≤ s.now - c.hotSince →
    s.served.find? (fun i => s.countedClass i == c.cls && !s.fitsWith i c.core && (s.without key).fitsWith i c.core) = some i →
    ∃ t, exec (.quantumExpiry ccb) s = .next t ∧ SameMemory s t ∧ ∀ x ∈ s.groupOf c, s.resident x = true →
      (s.cohort x).leaving = none → (t.cohort x).leaving =
      (if (s.disp.regs.pol.getLsbD 1 && s.onlyReservation i key && s.warmRoom key) = true then some .demote else some .out)) ∧
  (∀ (s : State) (i : Item) (cores : List Nat) (v : Cohort) (l : List Cohort), s.acting = true →
    s.starved = some (i, cores) → s.roomSwitch i cores = none →
    (∀ x ∈ s.cohorts, ∀ r, x.2.request = some r → r.asked ≠ .room i (s.itemTag i)) →
    s.victims i cores = v :: l → s.settled.itemFits i cores = false → Grouped s v.ccb → s.cohort v.ccb = v →
    ∃ t, exec .preemption s = .next t ∧ SameMemory s t ∧ ∀ x ∈ s.groupOf v, s.resident x = true →
      (s.cohort x).leaving = none → (t.cohort x).leaving = some .out) ∧
  (∀ (s : State) (core : Nat), s.acting = true → slotHolders s core ≠ [] →
    (∀ c ∈ slotHolders s core, c.leaving = none ∧ c.keys.any (fun x => (s.strand x).slotRequest.isSome) = true) →
    (∀ c ∈ s.cohortsHeld core, ∀ x ∈ c.keys, ∀ a, (s.strand x).slotRequest = some a → (s.core core).bindable.length < a.1) →
    ∃ c ∈ slotHolders s core, (∀ x ∈ slotHolders s core, x.seq ≤ c.seq) ∧
      exec (.accDeadlockSwap core) s = .next (s.sendAway c.ccb .out)) ∧
  ∀ (s : State) (ccb core : Nat), let key := BitVec.ofNat 64 ccb
    Single s key → s.leased = true → s.resident key = true → (s.cohort key).dead = false → (s.cohort key).halted = false →
    core < 192 → (s.cohort key).pin.getD core = core →
    (s.cohort key).leaving = some (.migrate core) → s.groupQuiet key = true →
    (s.without key).fitsNow core (s.cohort key).variant (s.cohort key).entriesHeld [] = true →
    s.moveFault key false = none → (s.swapOut key).moveFault key true = none →
    ∃ t, exec (.migration ccb core) s = .next t ∧ (t.cohort key).residency = .hot ∧ (t.cohort key).core = core

/-- 14 R391, R396, R397: `swapo` asks for the swap-out of a resident cohort, with its span's members, and waits for it, holds
them out if told so, and answers 1 for an absent one; `swapi` releases the members of an absent one and pins it; `vreq` places or
cancels a switch request. A CCB that names no living cohort is answered 2. -/
def Sys2Proof.Claims.DispatchInstructions : Prop :=
  ∀ (e g : Bool) (d a b : Code) (s : State), s.cur.priv = true → HasLanes s → Ready s (usesPriv e g d a b) →
    let ccb := s.ssrc a
    let v := s.ssrc b
    let c := s.cohort ccb
    (s.liveCohort ccb = false →
      (∃ t, exec (.swapo e g d a b) s = .next t ∧ GivenScalar s t d.toNat 2) ∧
      (∃ t, exec (.swapi e g d a b) s = .next t ∧ GivenScalar s t d.toNat 2) ∧
      ∃ t, exec (.vreq e g d a b) s = .next t ∧ GivenScalar s t d.toNat 2) ∧
    (s.liveCohort ccb = true → Grouped s ccb →
      (v.toNat < 2 → s.resident ccb = true → s.curKey ∉ c.outDone → c.leaving = none → ∃ t, exec (.swapo e g d a b) s = .next t ∧
        (∀ x ∈ s.groupOf c, s.resident x = true → (s.cohort x).leaving = none → (t.cohort x).leaving = some .out) ∧
        s.curKey ∈ (t.cohort ccb).waiters ∧ t.cur.stall = 12 ∧
        (v = 1 → ∀ x ∈ s.groupOf c, (t.cohort x).heldOut = true) ∧ (v = 0 ∨ c.span = 0 → SameMemory s t)) ∧
      (v.toNat < 2 → s.resident ccb = false → s.asksOut c = false → ∃ t, exec (.swapo e g d a b) s = .next t ∧
        Answered s t d 1 ∧ (v = 0 ∨ c.span = 0 → GivenScalar s t d.toNat 1) ∧
        ∀ x ∈ s.groupOf c, (t.cohort x).heldOut = (v.getLsbD 0 || (s.cohort x).heldOut)) ∧
      (v.toNat < 2 → s.curKey ∈ c.outDone → ∃ t, exec (.swapo e g d a b) s = .next t ∧ Answered s t d 0 ∧
        s.curKey ∉ (t.cohort ccb).outDone) ∧
      (v.toNat < 2 ^ 9 → s.resident ccb = false →
        (v.getLsbD 8 = true → v.toNat % 256 < 192 ∧ natBit c.variant.carve (s.core (v.toNat % 256)).carve = true) →
        ∃ t, exec (.swapi e g d a b) s = .next t ∧ Answered s t d 0 ∧ (c.span = 0 → GivenScalar s t d.toNat 0) ∧
          ∀ x ∈ s.groupOf c, (t.cohort x).heldOut = false ∧
            (t.cohort x).pin = (if x = ccb then (if v.getLsbD 8 then some (v.toNat % 256) else none) else (s.cohort x).pin)) ∧
      (v.toNat < 2 ^ 9 → (v.getLsbD 8 = true → v.toNat % 256 < 192 ∧ natBit c.variant.carve (s.core (v.toNat % 256)).carve = true) →
        s.resident ccb = true → ∃ t, exec (.swapi e g d a b) s = .next t ∧ GivenScalar s t d.toNat 1) ∧
      (v.toNat < 4 → c.nsw = false → s.curKey ∉ c.keys → c.vid ≠ v.toNat → (s.eligibleFor c).any (fun x => x.id == v.toNat) = true →
        ∃ t, exec (.vreq e g d a b) s = .next t ∧ Answered s t d 0 ∧
          (t.cohort ccb).request = some { target := v.toNat, asked := .vreq }) ∧
      (v.toNat < 4 → c.nsw = false → (c.vid = v.toNat ∨ (s.eligibleFor c).any (fun x => x.id == v.toNat) = false) →
        ∃ t, exec (.vreq e g d a b) s = .next t ∧ GivenScalar s t d.toNat 1) ∧
      (4 ≤ v.toNat → v.toNat < 8 → c.nsw = false → s.curKey ∉ c.keys → ∃ t, exec (.vreq e g d a b) s = .next t ∧ Answered s t d 0 ∧
        (t.cohort ccb).request = none ∧ (t.cohort ccb).meet = none))

/-- 14 R387 to R390, 03 R74: `vsw` goes on where no request stands, and else is held at its point for the rendezvous; a request is
raised to make room or for a richer variant, and lapses uncounted when its cause has gone; the first strand that arrives fixes
the point and the time of the rendezvous; a met rendezvous with a good map whose variant fits changes the variant; one
that lasts STO cycles is dropped. -/
def Sys2Proof.Claims.VariantSwitches : Prop :=
  (∀ (k : BitVec 9) (s : State), HasLanes s →
    (s.cur.sup = true ∨ s.curCohort.request = none → ∃ t, exec (.vsw k) s = .next t ∧ OnlyGoesOn s t ∧
      Goes s t [(place s + 4, lanes s)]) ∧
    (∀ r v, s.cur.sup = false → s.liveRequest s.curCohort = some r →
      (∃ p ∈ s.curCohort.variant.points, p.point = k.toNat ∧ s.curCohort.bundle.toNat + p.offset = (place s).toNat) →
      s.curCohort.variants.find? (fun v => v.id == r.target) = some v → (∃ q ∈ v.points, q.point = k.toNat) →
      (∀ m, s.curCohort.meet = some m → m.point = k.toNat) → s.curCohort.barrier = none → ∃ t, exec (.vsw k) s = .next t ∧
      t.cur.stall = 6 ∧
      t.cur.frontier = orderFrontier (dropCandidate s.cur.frontier ++ [{ candidate s.cur with hold := .switch }]) ∧ OnlyGoesOn s t)) ∧
  (∀ (s : State) (ccb target : Nat) (v : Variant) (l : List Variant), let key := BitVec.ofNat 64 ccb
    let c := s.cohort key
    s.acting = true → c.residency = .hot → c.leaving = none → s.switchMet c = false → c.nsw = false → c.dead = false → c.halted = false →
    s.starved = none → s.eligibleFor c = v :: l → v.id = target → v.id ≠ c.vid → l.any (fun x => x.id == c.vid) = true →
    s.variantFits c v = true →
    ∃ t, exec (.switchRequest ccb target) s = .next t ∧ (t.cohort key).request = some { target := target, asked := .richer }) ∧
  (∀ (s : State) (ccb : Nat) (m : SwitchMeet) (r : SwitchRequest) (v : Variant) (p q : SwitchPoint), let key := BitVec.ofNat 64 ccb
    let c := s.cohort key
    s.acting = true → c.residency = .hot → c.dead = false → c.meet = some m → c.request = some r → s.switchMet c = true →
    s.quiet c = true → (∀ k ∈ c.keys, (s.strand k).shadow = false ∧ (s.strand k).cloneBad = none) →
    c.variants.find? (fun v => v.id == r.target) = some v → c.variant.points.find? (fun p => p.point == m.point) = some p →
    v.points.find? (fun q => q.point == m.point) = some q → s.badMap c v p q = false →
    (s.variantFits c v = true → ∃ t, exec (.variantSwitch ccb) s = .next t ∧ (t.cohort key).vid = v.id ∧
      (t.cohort key).request = none ∧ (t.cohort key).meet = none) ∧
    (s.variantFits c v = false → exec (.variantSwitch ccb) s = .next (s.dropSwitch key))) ∧
  (∀ (s : State) (ccb : DWord) (r : SwitchRequest), let c := s.cohort ccb
    c.residency = .hot → c.request = some r → s.switchMet c = false →
    (s.requestStands c r = false → ((s.followSwitch ccb).cohort ccb).request = none ∧ ((s.followSwitch ccb).cohort ccb).meet = none ∧
      (s.followSwitch ccb).disp.regs = s.disp.regs) ∧
    (s.requestStands c r = true → c.meet = none →
      ∀ k, (s.heldPoints c).find? (fun k => c.keys.any fun x => (s.strand x).arrivedAt c k) = some k →
        ((s.followSwitch ccb).cohort ccb).meet = some { point := k, since := s.now })) ∧
  ∀ (s : State) (ccb : Nat) (m : SwitchMeet), let key := BitVec.ofNat 64 ccb
    s.acting = true → (s.cohort key).meet = some m → s.switchMet (s.cohort key) = false → s.disp.regs.sto.toNat ≤ s.now - m.since →
    ∃ t, exec (.switchTimeout ccb) s = .next t ∧ (t.cohort key).meet = none ∧ (t.cohort key).request = none

/-- 14 R387 to R397, 03 R74: the dispatch instructions and variant switches. -/
def Obligations.ControlOfCohorts : Prop :=
  Claims.DispatchInstructions ∧ Claims.VariantSwitches

/-- 12 R331, R333, R337 to R340, Table 12-5: `tfence` waits for its strand's accesses and goes on; `tlbinv` takes every named
translation from every cache, and raises 0x19 for a bad B or address; `tprobe` answers what an access would find; a walk
that ends for an access that passes leaves its leaf in the core's cache. -/
def Obligations.TranslationEngine : Prop :=
  (∀ (sel : BitVec 3) (s : State), s.cur.priv = true →
    (4 < sel.toNat → exec (.tfence sel) s = .next (s.raiseAll .illegalOpcode)) ∧
    (sel.toNat ≤ 4 → HasLanes s →
      (s.accessesWait s.cur sel.toNat = true → exec (.tfence sel) s = .next (s.stallWith 12)) ∧
      (s.accessesWait s.cur sel.toNat = false → ∃ t, exec (.tfence sel) s = .next t ∧ OnlyGoesOn s t))) ∧
  (∀ (e g : Bool) (a b : Code) (s : State), s.cur.priv = true → HasLanes s → Ready s [⟨.ssrc, a, e⟩, ⟨.ssrc, b, g⟩] →
    let r := namedRemoval (s.ssrc a) (s.ssrc b)
    let bad := (s.ssrc b).toNat / 2 ^ 22 % 2 ^ 10 ≠ 0 ∨ (r.kind ≠ 1 ∧ r.count ≠ 0) ∨ (r.kind < 2 ∧ 2 ^ 56 ≤ r.va)
    (bad → exec (.tlbinv e g a b) s = .next (s.raiseAllAt .copyParameter 0)) ∧
    (¬ bad → s.removalWaits r = false → s.monitors = [] → ∃ t, exec (.tlbinv e g a b) s = .next t ∧ Removed t r ∧
      SameMemory s t ∧ SameRegisters s.cur t.cur (fun _ => False) (fun _ => False) s.cur.stat ∧
      (s.link.atsCache = [] → OnlyGoesOn s t))) ∧
  (∀ (e g : Bool) (d a b : Code) (s : State), s.cur.priv = true → HasLanes s → Ready s (usesPriv e g d a b) →
    ∃ t, exec (.tprobe e g d a b) s = .next t ∧ GivenScalar s t d.toNat (s.probeWord s.cur.core (s.ssrc a) (s.ssrc b).toNat)) ∧
  ∀ (s : State) (core pasid kind va root x lv addr : Nat) (user host : Bool), s.rootOf pasid = some root → translates va = true →
    s.walk pasid root va = .leaf x lv addr host → accessCause x user (accessOf kind) = none →
    ∃ t, exec (.walkComplete core pasid user kind va) s = .next t ∧ (t.cachedLeaf (some core) pasid va).isSome = true ∧
      ∀ k, t.strand k = s.strand k

/-- 06 R165, R176, R177, 01 R8, 04 R94: a `brs` whose lanes agree is a `br`; one that splits goes on with the larger side, or raises
0x25 with no bin for the other, and is no instruction of the supervisor (13 R349); a bin is due after 1,024 cycles, and a strand forms from it in the lowest free slot. A line
that is not resident is filled from its image, and a resident one can be written there. -/
def Obligations.GatherUnit : Prop :=
  (∀ (a : Code) (o : BitVec 16) (s : State), HasLanes s → Unchecked s → Untraced s → Ready s [⟨.vsrc, a, false⟩] →
    let t1 := taken s false a
    let t2 := lanes s &&& ~~~ t1
    (s.cur.sup = true → exec (.brs a o) s = .next (s.raiseAll .illegalOpcode)) ∧
    (s.cur.sup = false → (t1 = 0 ∨ t2 = 0 ∨ (candidate s.cur).prio = 0xFFFF) → exec (.brs a o) s = exec (.br a o) s) ∧
    (s.cur.sup = false → t1 ≠ 0 → t2 ≠ 0 → (candidate s.cur).prio ≠ 0xFFFF →
      (s.cur.nlines < s.cur.wb + 16 → exec (.brs a o) s = .next (s.raiseAll .windowOverflow)) ∧
      (s.cur.wb + 16 ≤ s.cur.nlines → s.operandWait [] ((List.range 16).map fun m => s.cur.wb + m) false = none →
        let low := decide (laneCount t1 ≤ laneCount t2)
        let target : Pc := place s + BitVec.ofInt 48 (4 * o.toInt)
        let (endPc, ends, stay) := if low then (target, t1, (place s + 4, t2)) else (place s + 4, t2, (target, t1))
        (s.binRoom s.curCohort endPc < laneCount ends → exec (.brs a o) s = .next (s.raiseAllAt .gatherFull 0)) ∧
        (laneCount ends ≤ s.binRoom s.curCohort endPc → ∃ t, exec (.brs a o) s = .next t ∧ Goes s t [stay] ∧
          SameRegisters s.cur t.cur (fun _ => False) (fun _ => False) s.cur.stat)))) ∧
  (∀ (s : State) (ccb b : Nat), let key := BitVec.ofNat 64 ccb
    let c := s.cohort key
    s.resident key = true → (s.bin c b).open_ = true → (s.bin c b).closed = false → b < 32 →
    let opened := Tab.get s.now c.binOpened b
    1024 ≤ s.now - opened →
    ∃ t, exec (.binAgeExpiry ccb b) s = .next t ∧ Tab.get 0 (t.cohort key).binDue b = opened + 1024 ∧ SameMemory s t) ∧
  (∀ (s : State) (ccb b k : Nat), let key := BitVec.ofNat 64 ccb
    let c := s.cohort key
    s.resident key = true → c.dead = false → c.halted = false → s.dueBin c = some b → s.freeSlot c = some k →
    (s.rangeFaults c.pasid (binBase key b) 0x1100).2 = false →
    let bin := (s.touchRange c.pasid (binBase key b) 0x1100).bin c b
    ∃ t n, exec (.gatherFormation ccb) s = .next t ∧ t.strand (s.slotStrand c k).key = n ∧ StartState c k n ∧
      n.frontier.map (fun e => (e.pc, e.mask)) =
        [(BitVec.ofNat 48 (bin.pc.toNat / 4 * 4), BitVec.ofNat 64 (2 ^ bin.count - 1))] ∧
      n.scalar 4 = BitVec.ofNat 64 k ∧ (t.cohort key).binDue = Tab.del c.binDue b ∧ (t.cohort key).binOpened = Tab.del c.binOpened b) ∧
  ∀ (s : State) (key n : Nat), let st := s.strand key
    let pasid := (s.cohort st.ccb).pasid
    let a := st.cib.toNat + 0x1000 + 0x100 * n
    n < st.nlines → n < 512 → s.rangeFaults pasid a 256 = (false, false) →
    (st.absent.getLsbD n = true → ∃ t, exec (.lineFill key n) s = .next t ∧ (t.strand key).absent.getLsbD n = false ∧
      (t.strand key).line n = natLine ((s.engineRead pasid a 256).getD 0) ∧ SameMemory (s.touchRange pasid a 256) t) ∧
    (st.sup = false → st.absent.getLsbD n = false → st.vFull.getLsbD n = true → st.floatBusy [n] false = false →
      st.lateIn s.now [n] = false → n ∉ s.busyLines st → s.resident st.ccb = true → ∃ t, exec (.lineEvict key n) s = .next t ∧
      (t.strand key).absent.getLsbD n = true ∧ ∀ m, (t.strand key).line m = st.line m)

/-! ### The copy engine and tile transfers (10) -/

namespace Sys2Proof.Claims

/-- The operands of a transfer command: A and A + 1, B and B + 1, k and k + 1 (Table 10-1). -/
def usesCopy (e g : Bool) (k : BitVec 4) (a b : Code) : List Use :=
  [⟨.ssegev, a, e⟩, ⟨.sseg, a + 1, e⟩, ⟨.ssegev, b, g⟩, ⟨.sseg, b + 1, g⟩, ⟨.ssrc, k.zeroExtend 7, false⟩,
    ⟨.ssrc, k.zeroExtend 7 + 1, false⟩]

/-- The command that its registers give (Tables 10-1, 10-2 and 10-5): source and destination from A, the shape and the strides
(for `cpix` the index address) from B, the completion and the pointer address from k. -/
def commandOf (s : State) (op : CopyOp) (k : BitVec 4) (a b : Code) : Command :=
  let shape := (s.usrc b).toNat
  let strides := (s.usrc (b + 1)).toNat
  { op := op, src := s.usrc a, dst := s.usrc (a + 1), len := natBits shape 0 24, rows := natBits shape 24 16,
    sstr := BitVec.ofNat 32 (if op = .cpix then 0 else strides), dstr := BitVec.ofNat 32 (if op = .cpix then 0 else strides / 2 ^ 32),
    index := if op = .cpix then BitVec.ofNat 64 strides else 0, tile := natBit shape 50, sat := natBit shape 48,
    conv := natBits shape 40 8, cwa := s.ssrc (k.zeroExtend 7), pwa := s.ssrc (k.zeroExtend 7 + 1), user := !s.cur.sup,
    pasid := s.pasidOf s.cur, core := s.cur.core, order := s.curCohort.mxOrder }

/-- The transfer commands (Table 10-1). -/
noncomputable def copyTable : List ((Bool → Bool → BitVec 3 → BitVec 4 → Code → Code → Instr) × CopyOp) := [
  (.cpgt, .cpgt), (.cptg, .cptg), (.cpgg, .cpgg), (.cpat, .cpat), (.cpgs, .cpgs), (.cpsg, .cpsg), (.cpix, .cpix), (.cfill, .cfill)]

/-- The repairs of a parked channel, and what becomes of its first command, which parked with a sub-cause (R290): `chres` lets
it go on, `chabt` ends it. -/
noncomputable def repairTable : List ((Bool → Bool → Code → Code → Code → Instr) × (Command → Nat → Command)) := [
  (.chres, fun m _ => { m with parked := none }), (.chabt, fun m f => { m with ended := some (3, f), parked := none })]

/-- Channel c of the issuing strand (R269). -/
def ownChannel (s : State) (c : BitVec 3) : List Command := s.channel s.cur.core s.cur.channelOwner c.toNat

/-- The word of lane l in line i of a tile transfer at window offset o (Table 10-7): mode 0 takes 256 bytes of a line, modes 1 to 3
one word, two halves or four bytes of the rows of the lane. -/
def tileWord (s : State) (mode o l i : Nat) : Word :=
  let byte (x : Nat) := s.readTile s.curCohort x 1
  let half (x : Nat) := s.readTile s.curCohort x 2
  let t := o / 256
  let c := o % 256
  BitVec.ofNat 32 (match mode with
    | 0 => s.readTile s.curCohort (o + 256 * i + 4 * l) 4
    | 1 => s.readTile s.curCohort ((t + l) * 256 + c + 4 * i) 4
    | 2 => half ((t + 2 * l) * 256 + c + 2 * i) + half ((t + 2 * l + 1) * 256 + c + 2 * i) * 2 ^ 16
    | _ => byte ((t + 4 * l) * 256 + c + i) + byte ((t + 4 * l + 1) * 256 + c + i) * 2 ^ 8 +
      byte ((t + 4 * l + 2) * 256 + c + i) * 2 ^ 16 + byte ((t + 4 * l + 3) * 256 + c + i) * 2 ^ 24)

/-- The byte at a tile address after the bytes of a list of addresses and values are written, first to last. -/
def tileAfter (l : List (Nat × Byte)) (old : Byte) (a : Nat) : Byte := l.foldl (fun b x => if x.1 = a then x.2 else b) old

/-- The tile bytes that a `tst` writes: of each line, each lane and each part, ascending. -/
def tileStores (s : State) (d : Code) (mode n o : Nat) : List (Nat × Byte) :=
  (List.range n).flatMap fun i => (lanesOf (lanes s)).flatMap fun l => (tileParts mode o l i).zipIdx.flatMap fun p =>
    (List.range p.1.2).map fun j => (s.curCohort.tileAddr (p.1.1 + j),
      BitVec.ofNat 8 ((laneOf (s.cur.line (s.cur.wb + d.toNat + i)) l).toNat / 2 ^ (8 * (p.1.2 * p.2 + j))))

/-- An uncorrectable error of the tile window is raised for every lane, once (17 Table 17-7). -/
def flawedTile (s : State) : State := (s.setCurCohort { s.curCohort with flawedTile := false }).raiseAll .uncorrectable

/-- The head of a channel is m, and the engine may act on it. -/
structure AtHead (s : State) (core ccb ch : Nat) (m : Command) : Prop where
  head : s.headCommand core (BitVec.ofNat 64 ccb) ch = some m
  running : m.parked = none
  free : s.cpatWaits (BitVec.ofNat 64 ccb) m = false
  /-- The relaxed channel of its core to the host has room (15 R411). -/
  room : (s.core m.core).relaxed.length ≤ 1024

end Sys2Proof.Claims

/-- 10 R269, R272, R273: a transfer command whose parameters meet no cause joins the end of its channel while the channel holds fewer
than 16 commands and the engine fewer than 256, and waits with stall reason 12 otherwise; one whose parameters meet a cause
raises the lowest, with no other effect; an odd k raises 0x01. -/
def Sys2Proof.Claims.TransferAcceptance : Prop :=
  ∀ p ∈ copyTable, ∀ (e g : Bool) (c : BitVec 3) (k : BitVec 4) (a b : Code) (s : State), Unchecked s →
    let m := commandOf s p.2 k a b
    let causes := s.commandCauses s.curCohort { m with order := 0 } (s.usrc b).toNat (s.usrc (b + 1)).toNat
    (k.toNat % 2 = 1 → exec (p.1 e g c k a b) s = .next (s.raiseAll .illegalOpcode)) ∧
    (k.toNat % 2 = 0 → Ready s (usesCopy e g k a b) →
      (∀ x, lowestCause causes = some x → x ≠ .accOwnerMiss → exec (p.1 e g c k a b) s = .next (s.raiseAllAt x 0)) ∧
      (lowestCause causes = none → 16 ≤ (ownChannel s c).length ∨ 256 ≤ s.commandsOn s.cur.core →
        exec (p.1 e g c k a b) s = .next (s.stallWith 12)) ∧
      (lowestCause causes = none → (ownChannel s c).length < 16 → s.commandsOn s.cur.core < 256 → HasLanes s →
        (∀ x ∈ ownChannel s c, x.old = false) → (m.dest = .slot → s.drainHolds s.curCohort m.slotIdx m.col0 m.len = false) →
        ∃ t, exec (p.1 e g c k a b) s = .next t ∧ ownChannel t c = ownChannel s c ++ [m] ∧
          (∀ x, x ≠ c → ownChannel t x = ownChannel s x) ∧ OnlyGoesOn s t))

/-- 10 R286, R287, R289, R290: `ccan` completes at once and ends every command of a channel of its cohort as cancelled, but one
that has its end code and is not parked at its completion word; `cdone` completes with the eight bytes at their home; `chres`
lets a parked command go on and `chabt` ends it with code 3 and its sub-cause: each completes with 0, with 1 for a
channel with nothing parked, and with 2 for a channel number above 7 or a cohort without a command in this core's engine. -/
def Sys2Proof.Claims.ChannelInstructions : Prop :=
  (∀ (c : BitVec 3) (s : State), HasLanes s → Unchecked s → ∃ t, exec (.ccan c) s = .next t ∧ OnlyGoesOn s t ∧
    ownChannel t c = (ownChannel s c).map (fun m => if m.ended.isSome && m.parked.isNone then m
      else { m with ended := some (2, 0), parked := none }) ∧
    ∀ x, x ≠ c → ownChannel t x = ownChannel s x) ∧
  (∀ (e : Bool) (d a : Code) (s : State) (place : Place) (v : Nat), HasLanes s → Unchecked s →
    Ready s [⟨.sseg, a, e⟩, ⟨.seg, d, false⟩] → EntryReads s .plain 8 true (s.usrc a) place v →
    ∃ t, exec (.cdone e d a) s = .next t ∧ GivenScalar s t (d.toNat - 0x60) (BitVec.ofNat 64 v)) ∧
  ∀ r ∈ repairTable, ∀ (e g : Bool) (d a b : Code) (s : State), s.cur.priv = true → HasLanes s →
    let us : List Use := [⟨.ssrc, a, e⟩, ⟨.ssrc, b, g⟩, ⟨.sdst, d, false⟩]
    Ready s us →
    let ccb := s.ssrc a
    let ch := (s.ssrc b).toNat
    let i : Instr := r.1 e g d a b
    let here := (s.channelsOf s.cur.core ccb).any fun x => x.2.any fun m => m.core == s.cur.core
    let head := s.headCommand s.cur.core ccb ch
    (8 ≤ ch ∨ here = false → ∃ t, exec i s = .next t ∧ ScalarResult s t us d 2 s.cur.markScalarWrite.stat) ∧
    (ch < 8 → here = true → (∀ m, head = some m → m.parked = none ∨ m.core ≠ s.cur.core) →
      ∃ t, exec i s = .next t ∧ ScalarResult s t us d 1 s.cur.markScalarWrite.stat) ∧
    ∀ m f, ch < 8 → here = true → head = some m → m.parked = some f → m.core = s.cur.core →
      ∃ t, exec i s = .next t ∧ ScalarResult s t us d 0 s.cur.markScalarWrite.stat ∧
        t.headCommand s.cur.core ccb ch = some (r.2 m f)

/-- 10 R269, R272, R273, R286, R287, R289, R290: the instructions of the copy engine that act on channels. -/
def Obligations.TransferCommands : Prop :=
  Claims.TransferAcceptance ∧ Claims.ChannelInstructions

/-- 10 R270, R274 to R276, R288: the first command of a channel starts, reading the base of its pointer; a unit of it is copied from
memory, a tile or a fill value to local memory or a tile, and the pointer rises by its length; when all is delivered the
completion word is stored and the channel goes on; a fault parks the channel and makes an event 0x18, as that of a completion
word with no translation does. -/
def Obligations.CopyChannels : Prop :=
  (∀ (s : State) (core ccb ch : Nat) (m : Command), AtHead s core ccb ch m → m.ended = none → m.started = false →
    (m.pwa = 0 → ∃ t, exec (.commandStart core ccb ch) s = .next t ∧ SameMemory s t ∧
      t.headCommand core (BitVec.ofNat 64 ccb) ch = some { m with started := true }) ∧
    ∀ v, m.pwa ≠ 0 → s.commandRead m m.pwa 8 = (s, .ok v) → ∃ t, exec (.commandStart core ccb ch) s = .next t ∧ SameMemory s t ∧
      t.headCommand core (BitVec.ofNat 64 ccb) ch = some { m with started := true, base := v }) ∧
  (∀ (s : State) (core ccb ch i v : Nat) (m : Command), AtHead s core ccb ch m → m.ended = none → m.started = true →
    m.delivered < m.total → m.pwa = 0 → s.pickIndex m = (s, .ok i) → s.unitSource (BitVec.ofNat 64 ccb) m i = (s, .ok v) →
    let n := m.unit.2.2
    let after := Command.after { m with picked := if m.op = .cpix then some i else none } n
    let a := rowAddr m.dst m.destStride m.row + BitVec.ofNat 64 m.col
    (∀ p, m.dest = .memory → s.commandPlace m .write a = (s, .ok p) → p.loc = .dev →
      ∃ t, exec (.deliveryUnit core ccb ch) s = .next t ∧ t.headCommand core (BitVec.ofNat 64 ccb) ch = some after ∧
        ∀ x, Memory.read t.local_ x =
          if p.addr ≤ x ∧ x < p.addr + n then BitVec.ofNat 8 (v / 2 ^ (8 * (x - p.addr))) else Memory.read s.local_ x) ∧
    (m.dest = .tile → let c := s.cohort (BitVec.ofNat 64 ccb)
      ∃ t, exec (.deliveryUnit core ccb ch) s = .next t ∧ t.headCommand core (BitVec.ofNat 64 ccb) ch = some after ∧
        t.local_ = s.local_ ∧ ∀ x, Memory.read (t.core c.core).tile x = tileAfter ((List.range n).map fun i =>
          (c.tileAddr (a.toNat + i), BitVec.ofNat 8 (v / 2 ^ (8 * i)))) (Memory.read (s.core c.core).tile x) x)) ∧
  (∀ (s : State) (core ccb ch : Nat) (m : Command), AtHead s core ccb ch m →
    (m.ended = none → m.started = true ∧ m.total ≤ m.delivered) →
    s.unacknowledged m.core { ccb := BitVec.ofNat 64 ccb, channel := ch } = false →
    (m.cwa = 0 → ∃ t, exec (.commandCompletion core ccb ch) s = .next t ∧ SameMemory s t ∧
      t.channel core (BitVec.ofNat 64 ccb) ch = (s.channel core (BitVec.ofNat 64 ccb) ch).tail) ∧
    ∀ p, m.cwa ≠ 0 → s.commandPlace m .write m.cwa = (s, .ok p) → p.loc = .dev →
      ∃ t, exec (.commandCompletion core ccb ch) s = .next t ∧
        t.channel core (BitVec.ofNat 64 ccb) ch = (s.channel core (BitVec.ofNat 64 ccb) ch).tail ∧
        Memory.readN t.local_ p.addr 8 =
          (m.delivered * 2 ^ 24 + (m.ended.getD (1, 0)).2 * 2 ^ 16 + ch * 2 ^ 8 + (m.ended.getD (1, 0)).1) % 2 ^ 64) ∧
  ∀ (s s1 : State) (core ccb ch : Nat) (m : Command) (f : ChannelFault), AtHead s core ccb ch m →
    (s.core m.core).ringFull = false → (s1.core m.core).queueRoom = true →
    (s.channelAction core (BitVec.ofNat 64 ccb) ch m = (s1, .error (.park f)) ∨
      ((m.ended = none → m.started = true ∧ m.total ≤ m.delivered) ∧ canonical m.cwa = true ∧ inAperture m.cwa = false ∧
        m.cwa ≠ 0 ∧ f.va = m.cwa ∧ f.kind = .write ∧
        ∃ w, s.translate m.core m.pasid m.user .write m.cwa.toNat = (s1, .fail f.cause w) ∧ f.level = w.level)) →
    ∃ t ev, exec (.channelFault core ccb ch) s = .next t ∧
      t.headCommand core (BitVec.ofNat 64 ccb) ch = some { m with parked := some f.cause.code } ∧
      (t.core m.core).evq = (s1.core m.core).evq ++ [ev] ∧ ev.cause = .copyChannel ∧ ev.sub = f.cause.code ∧ ev.param = ch ∧
      ev.cib = BitVec.ofNat 64 ccb ∧ ev.taddr = f.va ∧ (t.core m.core).frt = (s1.core m.core).frt + 1

/-- 10 R282, R283: `tld` gives its lines the tile words of the lanes as Table 10-7 lays them out, and `tst` writes them; an offset
beyond the window raises 0x17 and a bad column 0x19, an uncorrectable window 0x29, lines beyond the declared ones 0x05 (TADDR 0: log 11). -/
def Obligations.TileTransfers : Prop :=
  ∀ (e : Bool) (d a : Code) (m : BitVec 2) (n : BitVec 5) (s : State), Unchecked s →
    let count := n.toNat + 1
    let ls := (List.range count).map fun i => s.cur.wb + d.toNat + i
    let us (reads : Bool) : List Use := [⟨.sseg, a, e⟩, ⟨.vlines count reads, d, false⟩]
    let o := s.usrc a
    let cause := s.cur.tileCause s.curCohort m.toNat count o
    ((us true).all (fun u => u.accepted) = true → (e = true → s.cur.sFull.getLsbD (a.toNat - 0x60) = true) →
      (∃ l ∈ ls, s.cur.nlines ≤ l) → exec (.tld e d a m n) s = .next (s.raiseAll .windowOverflow) ∧
        exec (.tst e d a m n) s = .next (s.raiseAll .windowOverflow)) ∧
    (Ready s (us false) →
      (∀ c, cause = some c → exec (.tld e d a m n) s = .next (s.raiseAllAt c 0)) ∧
      (cause = none → s.curCohort.flawedTile = true → exec (.tld e d a m n) s = .next (flawedTile s)) ∧
      (cause = none → s.curCohort.flawedTile = false → HasLanes s → ∃ t, exec (.tld e d a m n) s = .next t ∧
        LoadQueued s t d count (fun l i => tileWord s m.toNat o.toNat l i) ∧ OnlyGoesOn s t)) ∧
    (Ready s (us true) →
      (∀ c, cause = some c → exec (.tst e d a m n) s = .next (s.raiseAllAt c 0)) ∧
      (cause = none → s.curCohort.flawedTile = true → exec (.tst e d a m n) s = .next (flawedTile s)) ∧
      (cause = none → s.curCohort.flawedTile = false → HasLanes s → ∃ t, exec (.tst e d a m n) s = .next t ∧
        (∀ x, Memory.read (t.core s.curCohort.core).tile x =
          tileAfter (tileStores s d m.toNat count o.toNat) (Memory.read (s.core s.curCohort.core).tile x) x) ∧
        (∀ k, k ≠ s.curCohort.core → (t.core k).tile = (s.core k).tile) ∧
        t.local_ = s.local_ ∧ t.host = s.host ∧ t.peer = s.peer ∧ SameEngines s t ∧
        (∀ k, (t.cohort k).scratch = (s.cohort k).scratch) ∧
        SameRegisters s.cur t.cur (fun _ => False) (fun _ => False) s.cur.stat))

/-! ### The matrix engine (11) -/

namespace Sys2Proof.Claims

/-- Registers but the scalars of S, memory and the engines' registers are kept, of every strand. -/
structure Framed (s t : State) (S : Nat → Prop) (stat : DWord) : Prop where
  issuing : t.curKey = s.curKey
  own : SameRegisters s.cur t.cur (fun _ => False) S stat
  others : ∀ k, k ≠ s.curKey → SameRegisters (s.strand k) (t.strand k) (fun _ => False) (fun _ => False) (s.strand k).stat
  memory : SameMemory s t
  engines : SameEngines s t

/-- What `mgang` and `mcfg` keep: all but GANG, the scalars of S and STAT, which is given. -/
structure KeptButGang (s t : State) (S : Nat → Prop) (stat : DWord) : Prop where
  lines : ∀ n, t.cur.line n = s.cur.line n
  scalars : ∀ m, ¬ S m → t.cur.scalar m = s.cur.scalar m
  rest : t.cur.stat = stat ∧ t.cur.wb = s.cur.wb ∧ t.cur.cause = s.cur.cause ∧ t.cur.taddr = s.cur.taddr ∧
    t.cur.tmask = s.cur.tmask ∧ t.cur.handler = s.cur.handler ∧ t.cur.sigmask = s.cur.sigmask ∧ t.cur.faddr = s.cur.faddr
  others : ∀ k, k ≠ s.curKey → SameRegisters (s.strand k) (t.strand k) (fun _ => False) (fun _ => False) (s.strand k).stat
  memory : SameMemory s t
  engines : SameEngines s t

/-- The forms of `mma` (Table 11-1). -/
noncomputable def mmaTable : List ((Bool → Bool → BitVec 4 → BitVec 2 → Bool → Code → Code → Instr) × MxForm) := [
  (.mmaBf16, .bf16), (.mmaF16, .f16), (.mmaE4m3, .e4m3), (.mmaE5m2, .e5m2), (.mmaMxe2m1, .mxe2m1), (.mmaMxe4m3, .mxe4m3),
  (.mmaMxe2m3, .mxe2m3), (.mmaI8, .i8)]

/-- No arrival of the latch of a core has been withdrawn, and no gang that is incomplete has the time of a completion. -/
def Settled (s : State) (core : Nat) : Prop :=
  ∀ g ∈ (s.core core).latch, g.arrivals ≠ [] ∧ (∀ a ∈ g.arrivals, s.arrived a = true) ∧ (g.complete = false → g.metAt = none)

/-- The operations of a list but for whether they run narrowed, which their start decides (11 R294). -/
def unstarted (l : List MxOp) : List MxOp := l.map fun o => { o with narrow := false }

/-- Entry k of the slot map of a cohort. -/
def entryOf (s : State) (ccb : DWord) (k : Nat) : Slot := (s.cohort ccb).slot k

/-- Element (i, j) of a physical slot of a core. -/
def element (s : State) (core phys i j : Nat) : Nat := (s.core core).acc phys i j

end Sys2Proof.Claims

/-- 11 R297, R299, R304: an `mma` that passes its checks arrives: it opens its gang in a latch with room, or joins the one it matches, and
its entry is held; a strand without a gang or one whose gang cannot meet raises 0x22, an entry that is not granted 0x21,
with no lane moved (TADDR 0: log 11). -/
def Obligations.MatrixArrivals : Prop :=
  ∀ p ∈ mmaTable, ∀ (e g : Bool) (k : BitVec 4) (sel : BitVec 2) (z : Bool) (a b : Code) (s : State),
    Ready s [⟨.vfrag, a, false⟩, ⟨.vfrag, b, false⟩] → s.cur.sup = false → sel ≠ 3 → s.cur.cloneBad = none →
    ((s.replayQueue s.cur).any fun r => r.key == s.cur.key) = false → Settled s s.cur.core →
    let latch := (s.core s.cur.core).latch
    let members := gangMembers s.cur.gang.toNat
    let (la, lb, ls) := shareLines p.2 sel.toNat (gangCount s.cur.gang.toNat) (members.idxOf s.cur.sidx) s.cur.wb a.toNat b.toNat
    let new : Gang := { ccb := s.cur.ccb, form := p.2, shape := sel.toNat, z := z, k := k.toNat,
                        members := s.cur.gang.toNat % 2 ^ 35, since := s.now }
    let arrival : Arrival := { key := s.cur.key, sidx := s.cur.sidx, pc := place s, aLines := la, bLines := lb, scales := ls }
    (s.cur.chk = 0 → gangCount s.cur.gang.toNat < 2 →
      ∃ t, exec (p.1 e g k sel z a b) s = .next t ∧ (s.curCohort.barrier = none → HasLanes s →
        ParksLanes s t { cause := .gangMismatch, mask := lanes s })) ∧
    (s.cur.chk = 0 → 2 ≤ gangCount s.cur.gang.toNat → (entryOf s s.cur.ccb k.toNat).granted = false →
      ∃ t, exec (p.1 e g k sel z a b) s = .next t ∧ (s.curCohort.barrier = none → HasLanes s →
        ParksLanes s t { cause := .accSlotNotHeld, mask := lanes s })) ∧
    (s.cur.chk = 0 → 2 ≤ gangCount s.cur.gang.toNat → (entryOf s s.cur.ccb k.toNat).granted = true →
      (∀ n ∈ la ++ lb ++ ls, n < s.cur.nlines ∧ s.cur.vFull.getLsbD n = true ∧ s.cur.absent.getLsbD n = false) →
      s.cur.floatBusy (la ++ lb ++ ls) false = false → s.cur.lateIn s.now (la ++ lb ++ ls) = false →
      (∀ y ∈ latch, ∀ x ∈ y.arrivals, x.key ≠ s.cur.key) → s.memberGone s.curCohort members = false →
      s.curCohort.barrier = none → HasLanes s →
      (latch.find? (fun y => y.same new) = none →
        (∀ y ∈ latch, ¬ (y.ccb = s.cur.ccb ∧ s.cur.sidx ∈ gangMembers y.members)) →
        (8 ≤ latch.length → ∃ t, exec (p.1 e g k sel z a b) s = .next t ∧ t.cur.stall = 3 ∧ OnlyGoesOn s t) ∧
        (latch.length < 8 → ∃ t, exec (p.1 e g k sel z a b) s = .next t ∧ OnlyGoesOn s t ∧
          (t.core s.cur.core).latch = latch ++ [{ new with arrivals := [arrival] }] ∧
          t.cur.frontier = orderFrontier (dropCandidate s.cur.frontier ++ [{ candidate s.cur with hold := .gang }]))) ∧
      ∀ y, latch.find? (fun y => y.same new) = some y → ∃ t, exec (p.1 e g k sel z a b) s = .next t ∧ OnlyGoesOn s t ∧
        (t.core s.cur.core).latch = latch.map (fun x => if x = y then y.withArrivals (y.arrivals ++ [arrival]) (some s.now) else x) ∧
        t.cur.frontier = orderFrontier (dropCandidate s.cur.frontier ++ [{ candidate s.cur with hold := .gang }]))

/-- 11 R293, R298, R299, R301 to R306, R312, 17 R464: a complete gang becomes a joint operation over the lines its members name, and they go
on; the operation leaves in each of the 64 x 128 elements of its slot what the K-groups give, and the slot's mode; one that read
an uncorrectable error leaves the elements and sets ERR; a gang that has waited MRTO cycles leaves the latch. -/
def Obligations.MatrixSteps : Prop :=
  (∀ (s : State) (core place : Nat) (g : Gang), Settled s core → (s.core core).latch[place]? = some g →
    (∀ m ∈ gangMembers g.members, ∃ a ∈ g.arrivals, a.sidx = m) → (entryOf s g.ccb g.k).granted = true →
    ((entryOf s g.ccb g.k).absent = true → g.z = true) → modeForbids g.form g.z (entryOf s g.ccb g.k).mode = false →
    modeForbids g.form g.z (s.modeAfter (s.cohort g.ccb) g.k) = false →
    (s.core core).mxOps.length < 2 → s.drainsOn (s.cohort g.ccb) g.k = false → (s.core core).firstMet g = true →
    (g.arrivals.map fun a => a.key).Nodup →
    ∃ t op, exec (.rendezvousComplete core place) s = .next t ∧ (t.core core).mxOps = (s.core core).mxOps ++ [op] ∧
      (t.core core).latch = (s.core core).latch.filter (fun y => decide (y ≠ g)) ∧
      op.ccb = g.ccb ∧ op.form = g.form ∧ op.shape = g.shape ∧ op.z = g.z ∧ op.k = g.k ∧
      op.aLines = s.gangLines g (fun a => a.aLines) ∧ op.bLines = s.gangLines g (fun a => a.bLines) ∧
      op.scales = s.gangLines g (fun a => a.scales) ∧ SameMemory s t ∧
      ∀ a ∈ g.arrivals, (t.strand a.key).frontier = orderFrontier ((s.strand a.key).frontier.map fun e =>
        if e.hold = .gang ∧ e.pc = a.pc then
          { e with pc := e.pc + 4, prio := s.nextPrio (s.strand a.key) e.prio (e.pc + 4), hold := .no } else e)) ∧
  (∀ (s : State) (core place : Nat) (g : Gang), Settled s core → (s.core core).latch[place]? = some g →
    s.disp.regs.mrto.toNat ≤ s.now - g.since → s.gangPaused g = false → g.complete = false →
    ∃ t, exec (.rendezvousTimeout core place) s = .next t ∧ g ∉ (t.core core).latch ∧ SameMemory s t) ∧
  (∀ (s : State) (core column : Nat) (o : MxOp) (l : List MxOp), (s.core core).mxOps = o :: l → 260 ≤ column →
    (∀ x ∈ (s.cohort o.ccb).channels, ∀ m ∈ x.2, ¬ (m.op = .cpat ∧ m.slotIdx = o.k ∧ m.ended = none ∧ m.order < o.order)) →
    let x := entryOf s o.ccb o.k
    x.granted = true →
    (∃ t, exec (.mmaOperationComplete core false column) s = .next t ∧ unstarted (t.core core).mxOps = unstarted l ∧
      ((s.core core).powerAlarm = true → (t.core core).mxn = true ∧ ∀ y ∈ (t.core core).mxOps.head?, y.narrow = true) ∧
      SameMemory s t ∧
      (∀ i j, i < 64 → j < 128 → element t x.core x.phys i j =
        o.element (if o.z then 0 else element s x.core x.phys i j) i j % 2 ^ 48) ∧
      (entryOf t o.ccb o.k).mode = (if o.form = .i8 then .int48 else .a48) ∧
      (entryOf t o.ccb o.k).err = (x.err && !o.z) ∧ (entryOf t o.ccb o.k).resident = true ∧
      ∀ q i j, q ≠ x.phys → i < 64 → j < 128 → element t x.core q i j = element s x.core q i j) ∧
    ∃ t, exec (.mmaOperationComplete core true column) s = .next t ∧ unstarted (t.core core).mxOps = unstarted l ∧ SameMemory s t ∧
      (entryOf t o.ccb o.k).err = true ∧ ∀ c, (t.core c).accs = (s.core c).accs) ∧
  (∀ (s : State) (key n since : Nat), (s.strand key).slotRequest = some (n, since) → (s.strand key).stall = 12 →
    n ≤ (s.core (s.strand key).core).bindable.length →
    exec (.macqRetry key) s = .next { s with agenda := .bench (s.strand key).core (s.strand key).bench :: s.agenda }) ∧
  (∀ (s : State) (core : Nat), ((s.core core).mxOps ≠ [] → exec (.mxnSet core) s = .next s) ∧
    ((s.core core).mxOps = [] → (s.core core).powerAlarm = true →
      ∃ t, exec (.mxnSet core) s = .next t ∧ (t.core core).mxn = true ∧ SameMemory s t ∧ SameEngines s t)) ∧
  ∀ (s : State) (key q i : Nat) (bad : Bool) (d : Drain), let st := s.strand key
    nextDrain (Tab.get [] st.drains q) = some (i, d) → (Tab.get [] st.readyq q).length < 2 →
    let x := entryOf s st.ccb d.idx
    x.granted = true → x.absent = false → s.resident st.ccb = true → s.opsOn (s.cohort st.ccb) d.idx = 0 →
    (s.cohort st.ccb).fillsColumns d.idx (d.columns d.prepared) = false →
    ∃ t n, exec (.drainEntryReady key q bad) s = .next t ∧ OnlyStrand s t key ∧
      Tab.get [] (t.strand key).readyq q = Tab.get [] st.readyq q ++ [n] ∧ (bad = true → n = none) ∧
      (bad = false → ∃ y, n = some y ∧ ∀ r, r < 64 → laneOf y r = BitVec.ofNat 32 (drainValue d.conv d.saturate x.mode
        ((d.columns d.prepared).map fun j => if x.resident then element s x.core x.phys r j else 0)))

/-- 11 R295, R296, R312 to R314, R318, R320 to R322: `mgang` sets the members of GANG and `mcfg` its configuration, giving the old one to D;
`macq` grants the lowest free entries, clear, and gives D their mask; `mrel` releases acquired entries; `mzero` clears an entry;
`mdrain` puts a descriptor at the end of a stream; `mstat` reads an entry's status; `mwait` waits for what was accepted. -/
def Sys2Proof.Claims.MatrixInstructions : Prop :=
  (∀ (e : Bool) (a : Code) (s : State), HasLanes s → Unchecked s → Ready s [⟨.sseg, a, e⟩] → s.cur.sup = false →
    Settled s s.cur.core →
    let v := (s.usrc a).toNat
    (s.gangBad v = false → ∃ t, exec (.mgang e a) s = .next t ∧ KeptButGang s t (fun _ => False) s.cur.stat ∧
      t.cur.gang.toNat = s.cur.gang.toNat / 2 ^ 35 % 8 * 2 ^ 35 + v / 2 ^ 32 % 8 * 2 ^ 32 + v % 2 ^ 30) ∧
    (s.gangBad v = true → s.curCohort.barrier = none → ∃ t, exec (.mgang e a) s = .next t ∧
      ParksLanes s t { cause := .gangMismatch, mask := lanes s })) ∧
  (∀ (d : Code) (c : BitVec 3) (s : State), HasLanes s → Unchecked s → Ready s [⟨.seg, d, false⟩] →
    let m := d.toNat - 0x60
    let old := s.cur.gang.toNat / 2 ^ 35 % 8
    let stays := (s.core s.cur.core).powerAlarm = true ∧ 4 ≤ old ∧ c.toNat < 4
    ∃ t, exec (.mcfg d c) s = .next t ∧ KeptButGang s t (fun i => i = m) s.cur.markScalarWrite.stat ∧
      t.cur.scalar m = BitVec.ofNat 64 old ∧
      t.cur.gang.toNat % 2 ^ 35 = s.cur.gang.toNat % 2 ^ 35 ∧
      (stays → t.cur.gang.toNat / 2 ^ 35 = c.toNat + 4) ∧ (¬ stays → t.cur.gang.toNat / 2 ^ 35 = c.toNat)) ∧
  (∀ (d : Code) (w : Bool) (n : BitVec 4) (s : State), HasLanes s → Unchecked s → Ready s [⟨.seg, d, false⟩] → s.cur.sup = false →
    s.curCohort.ccb = s.cur.ccb →
    let m := d.toNat - 0x60
    let want := n.toNat + 1
    let is := ((List.range 16).filter fun i => !(s.curCohort.slot i).granted).take want
    let k := s.core s.cur.core
    (s.curCohort.matrix = false → exec (.macq d w n) s = .next (s.raiseAllAt .accSlotNotHeld 0)) ∧
    (s.curCohort.matrix = true → is.length < want →
      (w = true → exec (.macq d w n) s = .next (s.raiseAllAt .accSlotNotHeld 0)) ∧
      (w = false → ∃ t, exec (.macq d w n) s = .next t ∧ t.cur.scalar m = 0 ∧
        Keeps s t (fun _ => False) (fun i => i = m) s.cur.markScalarWrite.stat)) ∧
    let older := s.olderRequest s.cur (place s)
    (s.curCohort.matrix = true → is.length = want →
      (w = true → k.bindable.length < want ∨ older = true → ∃ t, exec (.macq d w n) s = .next t ∧ t.cur.stall = 12 ∧
        t.cur.acquiring = some (place s, want, s.cur.acquiringSince (place s) s.now) ∧ OnlyGoesOn s t) ∧
      (w = false → k.bindable.length < want → ∃ t, exec (.macq d w n) s = .next t ∧ t.cur.scalar m = 0 ∧
        Keeps s t (fun _ => False) (fun i => i = m) s.cur.markScalarWrite.stat)) ∧
    (s.curCohort.matrix = true → is.length = want → want ≤ k.untagged.length → (w = true → older = false) →
      ∃ t, exec (.macq d w n) s = .next t ∧
      t.cur.scalar m = BitVec.ofNat 64 ((is.map fun i => 2 ^ i).sum) ∧
      (∀ i ∈ is, let x := entryOf t s.cur.ccb i
        x.granted = true ∧ x.acquired = true ∧ x.resident = true ∧ x.mode = .clear ∧ x.core = s.cur.core ∧
        ∀ r c, r < 64 → c < 128 → element t s.cur.core x.phys r c = 0) ∧
      (∀ i, i ∉ is → entryOf t s.cur.ccb i = entryOf s s.cur.ccb i) ∧
      Framed s t (fun i => i = m) s.cur.markScalarWrite.stat)) ∧
  (∀ (a : Code) (s : State), HasLanes s → Unchecked s → Ready s [⟨.useg, a, false⟩] → s.curCohort.ccb = s.cur.ccb →
    let c := s.curCohort
    let named (i : Nat) := i < 16 ∧ natBit (s.usrc a).toNat i = true
    ((∃ i, named i ∧ ((c.slot i).granted = false ∨ (c.slot i).acquired = false)) →
      exec (.mrel a) s = .next (s.raiseAllAt .accSlotNotHeld 0)) ∧
    ((∀ i, named i → (c.slot i).granted = true ∧ (c.slot i).acquired = true ∧ s.entryBusy c i = false) →
      ∃ t, exec (.mrel a) s = .next t ∧ Framed s t (fun _ => False) s.cur.stat ∧
        (∀ i, named i → entryOf t s.cur.ccb i = {}) ∧ ∀ i, ¬ named i → entryOf t s.cur.ccb i = entryOf s s.cur.ccb i)) ∧
  (∀ (k : BitVec 4) (s : State), HasLanes s → Unchecked s → s.curCohort.ccb = s.cur.ccb →
    let c := s.curCohort
    let x := c.slot k.toNat
    (x.granted = false → exec (.mzero k) s = .next (s.raiseAllAt .accSlotNotHeld 0)) ∧
    (x.granted = true → (s.entryBusy c k.toNat || s.drainsOn c k.toNat) = true → exec (.mzero k) s = .next (s.stallWith 12)) ∧
    (x.granted = true → s.entryBusy c k.toNat = false → s.drainsOn c k.toNat = false → ∃ t, exec (.mzero k) s = .next t ∧
      Framed s t (fun _ => False) s.cur.stat ∧
      entryOf t s.cur.ccb k.toNat = { x with mode := .clear, err := false, resident := true, saved := false } ∧
      (∀ r c, r < 64 → c < 128 → element t x.core x.phys r c = 0) ∧
      ∀ q r c, q ≠ x.phys → r < 64 → c < 128 → element t x.core q r c = element s x.core q r c)) ∧
  (∀ (e : Bool) (d a : Code) (v : BitVec 7) (s : State), v.toNat < 4 → HasLanes s → Unchecked s →
    Ready s [⟨.sseg, a, e⟩, ⟨.dstream, d, false⟩] → s.cur.sup = false →
    let w := (s.usrc a).toNat
    let x := s.curCohort.slot (w % 16)
    let q := d.toNat - 0x70
    (s.curCohort.matrix = true → x.granted = true → x.absent = true →
      exec (.mdrain e d a v) s = .next (s.raiseAllAt .accOwnerMiss (s.cur.ccb ||| BitVec.ofNat 64 (w % 16)))) ∧
    (s.curCohort.matrix = false ∨ x.granted = false → exec (.mdrain e d a v) s = .next (s.raiseAllAt .accSlotNotHeld 0)) ∧
    (s.curCohort.matrix = true → x.granted = true → x.absent = false →
      (drainBad w v.toNat = true → exec (.mdrain e d a v) s = .next (s.raiseAllAt .matrixType 0)) ∧
      (drainBad w v.toNat = false → 4 ≤ (Tab.get [] s.cur.drains q).length → exec (.mdrain e d a v) s = .next (s.stallWith 9)) ∧
      (drainBad w v.toNat = false → (Tab.get [] s.cur.drains q).length < 4 → ∃ t, exec (.mdrain e d a v) s = .next t ∧
        Framed s t (fun _ => False) s.cur.stat ∧ (∀ c, (t.core c).accs = (s.core c).accs) ∧
        Tab.get [] t.cur.drains q = Tab.get [] s.cur.drains q ++ [{
          conv := v.toNat, idx := w % 16, col := w / 2 ^ 8 % 2 ^ 7, cols := w / 2 ^ 16 % 2 ^ 7 + 1, saturate := natBit w 24,
          clear := natBit w 25, interleave := natBit w 26 }]))) ∧
  (∀ (e : Bool) (d a : Code) (s : State), HasLanes s → Unchecked s → Ready s [⟨.useg, a, e⟩, ⟨.seg, d, false⟩] →
    let k := (s.usrc a).toNat % 16
    let x := s.curCohort.slot k
    let m := d.toNat - 0x60
    x.phys < 16 → ∃ t, exec (.mstat e d a) s = .next t ∧ Keeps s t (fun _ => False) (fun i => i = m) s.cur.markScalarWrite.stat ∧
      let v := (t.cur.scalar m).toNat
      (∀ i, i < 16 → natBit v (48 + i) = (s.curCohort.slot i).granted) ∧ natBit v 47 = (s.core s.cur.core).mxn ∧
      natBit v 46 = x.granted ∧ natBit v 45 = x.acquired ∧ natBit v 44 = x.resident ∧ natBit v 43 = x.saved ∧
      natBits v 41 2 = (match x.mode with | .clear => 0 | .a48 => 1 | .int48 => 2) ∧ natBit v 40 = x.err ∧
      natBits v 36 4 = x.phys ∧ natBits v 32 4 = min 15 (s.opsOn s.curCohort k) ∧ natBits v 0 24 = 0) ∧
  ∀ (e : Bool) (a : Code) (s : State), HasLanes s → Unchecked s → Ready s [⟨.useg, a, e⟩] →
    let busy := ∃ i, i < 16 ∧ natBit (s.usrc a).toNat i = true ∧ s.entryBusy s.curCohort i = true
    (busy → exec (.mwait e a) s = .next (s.stallWith 12)) ∧ (¬ busy → ∃ t, exec (.mwait e a) s = .next t ∧ OnlyGoesOn s t ∧ (t.core s.cur.core).l1 = [])

/-- 11 R316, R317: `aspill` completes: it saves an entry that stands in this core and answers 0, 1 for one that does not, 3 for
one in use and 2 for none. `afill` completes but while an operation on the entry is pending (log 96): it gives a saved entry its
elements back from its save image and answers 0, 1 for a resident entry and 2 otherwise. -/
def Sys2Proof.Claims.AccumulatorMoves : Prop :=
  ∀ (e g : Bool) (d a b : Code) (s : State), s.cur.priv = true → HasLanes s →
    let us : List Use := [⟨.ssrc, a, e⟩, ⟨.ssrc, b, g⟩, ⟨.sdst, d, false⟩]
    Ready s us →
    let ccb := s.ssrc a
    let k := (s.ssrc b).toNat
    let c := s.cohort ccb
    let x := c.slot k
    (16 ≤ k ∨ Tab.has s.cohorts ccb.toNat = false ∨ x.granted = false →
      ∃ t, exec (.aspill e g d a b) s = .next t ∧ ScalarResult s t us d 2 s.cur.markScalarWrite.stat) ∧
    (k < 16 → Tab.has s.cohorts ccb.toNat = true → x.granted = true →
      ((s.entryBusy c k || s.drainsOn c k) = true →
        ∃ t, exec (.aspill e g d a b) s = .next t ∧ ScalarResult s t us d 3 s.cur.markScalarWrite.stat) ∧
      (s.entryBusy c k = false → s.drainsOn c k = false → s.heldOn s.cur.core c k = false →
        ∃ t, exec (.aspill e g d a b) s = .next t ∧ ScalarResult s t us d 1 s.cur.markScalarWrite.stat) ∧
      (s.entryBusy c k = false → s.drainsOn c k = false → s.heldOn s.cur.core c k = true →
        ∃ t, exec (.aspill e g d a b) s = .next t ∧ Replied s t us d 0 ∧
          entryOf t ccb k = { x with resident := false, saved := true } ∧ SameEngines s t ∧
          SameRegisters s.cur t.cur (fun _ => False) (fun m => m = d.toNat) s.cur.markScalarWrite.stat)) ∧
    (16 ≤ k ∨ s.resident ccb = false ∨ c.core ≠ s.cur.core ∨ x.granted = false →
      ∃ t, exec (.afill e g d a b) s = .next t ∧ Answered s t d 2) ∧
    (k < 16 → s.resident ccb = true → c.core = s.cur.core → x.granted = true →
      (x.resident = true → ∃ t, exec (.afill e g d a b) s = .next t ∧ Answered s t d 1) ∧
      (x.resident = false → x.saved = false → ∃ t, exec (.afill e g d a b) s = .next t ∧ Answered s t d 2) ∧
      (x.resident = false → x.saved = true → s.entryBusy c k = true → exec (.afill e g d a b) s = .next (s.stallWith 12)) ∧
      (x.resident = false → x.saved = true → s.entryBusy c k = false → ∃ t, exec (.afill e g d a b) s = .next t ∧ Answered s t d 0 ∧
        entryOf t ccb k = { x with resident := true } ∧ SameMemory (s.touchRange c.pasid (accImage ccb k) 65536) t ∧
        ∀ i j, i < 64 → j < 128 → element t s.cur.core x.phys i j =
          (s.touchRange c.pasid (accImage ccb k) 65536).imageWord c.pasid (accImage ccb k + 8 * (128 * i + j)) % 2 ^ 48))

/-- 11 R295, R296, R307 to R322: gangs, entries, drains and the moves of accumulators. -/
def Obligations.MatrixRegisters : Prop :=
  Claims.MatrixInstructions ∧ Claims.AccumulatorMoves

/-! ### The guard engine (16) -/

namespace Sys2Proof.Claims

/-- The handle, extents and so on of a strand's `msx`: the extent of the held log that A names (R446). -/
def extentNamed (s : State) (a : DWord) : Option Classified :=
  (s.oldExtents s.cur).find? fun c => c.handle == a.toNat % 2 ^ 32 && c.index == a.toNat / 2 ^ 32 % 8

/-- The 128-byte pieces of the verified chunks of an extent: where each is stored and its bytes in the hold-up store (R446). -/
def extractOf (s : State) (c : Classified) (place : Nat → Place) : List (Place × Nat) :=
  c.verified.flatMap fun v => (List.range (min 65536 (c.len - 65536 * v.1) / 128)).map fun j =>
    (place (512 * v.1 + j), Memory.readN s.guard.data (65536 * v.2 + 128 * j) 128)

/-- The operations of `garm` (R437). -/
noncomputable def garmTable : List (Bool → Bool → Code → Code → Code → Instr) := [.garmShare, .garmRead, .garmRelease]

/-- Only the guard engine has changed, and the scalar that D names waits for its value. -/
structure GuardAnswer (s t : State) (d : Code) (v : Nat) : Prop where
  answer : Answered s t d (BitVec.ofNat 64 v)
  memory : SameMemory s t
  own : SameRegisters s.cur t.cur (fun _ => False) (fun _ => False) s.cur.markScalarWrite.stat
  disp : t.disp = s.disp
  link : t.link = s.link
  contexts : t.contexts = s.contexts

end Sys2Proof.Claims

/-- 16 R432 to R436: `msd` with n descriptors declares them under the next handle, or answers the status of Table 16-2, and with none
withdraws the declaration that A names; `hstat` reads GSTAT, the charges, the share, what is left of the limit, and the
extents of a held log. -/
def Sys2Proof.Claims.DeclarationsAndStatus : Prop :=
  (∀ (e : Bool) (d a : Code) (s : State), HasLanes s → Unchecked s → Ready s [⟨.ssrc, a, e⟩, ⟨.sreg, d, false⟩] →
    let v := (s.ssrc a).toNat
    let named (x : Declaration) := x.handle = v ∧ x.pasid = s.pasidOf s.cur
    ∃ t r, exec (.msdWithdraw e d a) s = .next t ∧ GuardAnswer s t d r ∧
      (2 ^ 32 ≤ v → r = 3 * 2 ^ 32 ∧ t.guard = s.guard) ∧
      (v < 2 ^ 32 → (∀ x ∈ s.guard.declarations, ¬ named x) → r = 7 * 2 ^ 32 ∧ t.guard = s.guard) ∧
      (v < 2 ^ 32 → (∃ x ∈ s.guard.declarations, named x) → r = 0 ∧
        t.guard.declarations = s.guard.declarations.filter fun x => decide (x.handle ≠ v))) ∧
  (∀ (e : Bool) (d a : Code) (n : BitVec 7) (s : State), 8 < n.toNat → exec (.msd e d a n) s = .next (s.raiseAll .illegalOpcode)) ∧
  (∀ (e : Bool) (d a : Code) (n : BitVec 7) (s : State) (place : Nat → Place) (v : Nat → Nat), HasLanes s → Unchecked s →
    Ready s [⟨.ssrc, a, e⟩, ⟨.sreg, d, false⟩] → 1 ≤ n.toNat → n.toNat ≤ 8 →
    (∀ i, i < n.toNat → Reaches s .read .record 16 16 0 (s.ssrc a + BitVec.ofNat 64 (16 * i)) (place i) ∧
      s.readPlace s.cur.core false 16 (place i) = (s, .ok (v i))) →
    (s.planMisses s.cur.core false ((List.range n.toNat).map place)).wait = false → Unwatched s →
    let l := (List.range n.toNat).map v
    ∃ t, exec (.msd e d a n) s = .next t ∧ GuardAnswer s t d (s.declare (s.pasidOf s.cur) l).2 ∧
      t.guard = (s.declare (s.pasidOf s.cur) l).1.guard) ∧
  (∀ (d : Code) (sel : BitVec 7) (s : State), HasLanes s → Ready s [⟨.sreg, d, false⟩] → sel.toNat ≤ 3 →
    let g := s.guard
    ∃ t v, exec (.hstat d sel) s = .next t ∧ GivenScalar s t d.toNat (BitVec.ofNat 64 v) ∧
      (sel = 1 → v = g.chargesOf (s.pasidOf s.cur)) ∧ (sel = 2 → v = g.share (s.pasidOf s.cur)) ∧
      (sel = 3 → v = 0x80000000 - g.total) ∧
      (sel = 0 → v / 2 ^ 32 = g.epoch % 2 ^ 32 ∧ natBit v 4 = decide (0x80000000 ≤ g.total) ∧ natBit v 3 = (g.held && g.sealed) ∧
        natBit v 2 = g.held ∧ natBit v 1 = decide (g.sequence = .slice) ∧
        natBit v 0 = decide (g.sequence ≠ .none ∧ g.sequence ≠ .ended))) ∧
  ∀ (e : Bool) (d a : Code) (sel : BitVec 7) (s : State),
    (6 < sel.toNat → exec (.hstatLog e d a sel) s = .next (s.raiseAll .illegalOpcode)) ∧
    (4 ≤ sel.toNat → sel.toNat ≤ 6 → HasLanes s → Ready s [⟨.ssrc, a, e⟩, ⟨.sreg, d, false⟩] →
      ∃ t v, exec (.hstatLog e d a sel) s = .next t ∧ GivenScalar s t d.toNat (BitVec.ofNat 64 v) ∧
        (s.guard.held = false → v = 0) ∧ (s.guard.held = true → v = s.holdupWord s.cur sel.toNat (s.ssrc a).toNat))

/-- 16 R437, R446: `garm` sets and reads shares and releases a held log, and answers a status above bit 31; `msx` stores the verified
chunks of the extent that A names at B, and answers their bytes. -/
def Sys2Proof.Claims.SharesAndExtraction : Prop :=
  (∀ i ∈ garmTable, ∀ (e g : Bool) (d a b : Code) (s : State), s.cur.priv = true → HasLanes s → Ready s (usesPriv e g d a b) →
    let x := (s.ssrc a).toNat
    let v := (s.ssrc b).toNat
    let pasid := x % 2 ^ 20
    let op := x / 2 ^ 20 % 4
    let known := pasid = 0 ∨ (s.slotOf pasid).isSome = true
    ∃ t r, exec (i e g d a b) s = .next t ∧ GuardAnswer s t d r ∧
      (2 ^ 22 ≤ x ∨ op = 3 ∨ (op = 1 ∧ v ≠ 0) ∨ (op = 2 ∧ (pasid ≠ 0 ∨ v ≠ 0)) → r = 2 * 2 ^ 32 ∧ t.guard = s.guard) ∧
      (x < 2 ^ 22 → (op = 0 ∨ op = 1 ∧ v = 0) → ¬ known → r = 2 ^ 32 ∧ t.guard = s.guard) ∧
      (x < 2 ^ 22 → op = 0 → known → r = s.guard.share pasid / 65536 ∧
        t.guard.share pasid = min v 0x80000000 / 65536 * 65536 ∧ ∀ p, p ≠ pasid → t.guard.share p = s.guard.share p) ∧
      (x < 2 ^ 22 → op = 1 → v = 0 → known → r = s.guard.share pasid / 65536 ∧ t.guard = s.guard) ∧
      (x < 2 ^ 22 → op = 2 → pasid = 0 → v = 0 → s.guard.held = false → r = 2 ^ 32 ∧ t.guard = s.guard) ∧
      (x < 2 ^ 22 → op = 2 → pasid = 0 → v = 0 → s.guard.held = true → r = 0 ∧ t.guard.held = false ∧ t.guard.erasing = true)) ∧
  ∀ (e g : Bool) (d a b : Code) (s : State), HasLanes s → Unchecked s → Ready s (usesPriv e g d a b) →
    let va := s.ssrc b
    (2 ^ 35 ≤ (s.ssrc a).toNat ∨ va.toNat % 128 ≠ 0 → ∃ t, exec (.msx e g d a b) s = .next t ∧
      GivenScalar s t d.toNat (BitVec.ofNat 64 (3 * 2 ^ 32))) ∧
    ((s.ssrc a).toNat < 2 ^ 35 → va.toNat % 128 = 0 →
      (extentNamed s (s.ssrc a) = none → ∃ t, exec (.msx e g d a b) s = .next t ∧
        GivenScalar s t d.toNat (BitVec.ofNat 64 (7 * 2 ^ 32))) ∧
      ∀ (c : Classified) (place : Nat → Place), extentNamed s (s.ssrc a) = some c →
        (∀ i, i < c.len / 128 → Reaches s .write .record 128 128 0 (va + BitVec.ofNat 64 (128 * i)) (place i) ∧
          spotOf (place i) ≠ none) → Unwatched s →
        ∃ t, exec (.msx e g d a b) s = .next t ∧
          Answered s t d (BitVec.ofNat 64 ((c.verified.map fun v => min 65536 (c.len - 65536 * v.1)).sum)) ∧
          Stored s t 128 (extractOf s c place) s.cur.markScalarWrite.stat)

/-- 16 R432 to R437, R446: declarations, shares, status and extraction. -/
def Obligations.HoldUp : Prop :=
  Claims.DeclarationsAndStatus ∧ Claims.SharesAndExtraction

/-- 16 R438 to R444: the power-fail sequence: it starts with the drain and a new epoch; the policy slice opens; GDONE or 500
microseconds end it; each chunk is written with its header, its number counting from 1; the seal ends the log, which is
then held; where the supply returns, the sequence runs on to its end and the device then holds; a released log is erased. -/
def Obligations.PowerFailSequence : Prop :=
  (∀ s : State, s.root.stage.isSome = true → s.root.hold = false → s.root.tripped = false → s.guard.sequence = .none →
    ∃ t, exec .powerFail s = .next t ∧ t.guard.sequence = .drain ∧ t.guard.epoch = s.guard.epoch + (if t.guard.noLog then 0 else 1) ∧ t.guard.since = s.now ∧
      t.guard.noLog = (s.guard.held || decide (s.root.lease = .revoking) || decide (s.root.lease = .scrubbing)) ∧
      t.monitors = [] ∧ (∀ c, (t.core c).evq = [] ∧ (t.core c).latch = []) ∧ SameMemory s t) ∧
  (∀ s : State, s.guard.sequence = .drain → (∀ k ∈ s.cores, k.2.mxOps = [] ∧ ∀ r ∈ k.2.replays, r.2 = []) →
    (∀ x ∈ s.strands, x.2.floats = [] ∧ ∀ p ∈ x.2.producers, p.hostLanes ≠ 0 ∨ p.peerLanes ≠ 0) →
    (s.farWork = true → 300 * cyclesPerMicro ≤ s.now - s.guard.since) →
    ∃ t, exec .drainComplete s = .next t ∧ t.guard.sequence = (if s.guard.noLog then .ended else .slice) ∧ t.guard.sliceAt = s.now ∧
      t.guard.drained = t.local_ ∧ (∀ k, (t.strand k).producers = []) ∧
      ∀ c, (t.core c).outstanding = [] ∧ (t.core c).relaxed = [] ∧ (t.core c).peerCopies = []) ∧
  (∀ s : State, s.guard.sequence = .slice →
    (∃ t, exec .gdone s = .next t ∧ t.guard.sequence = .writes ∧ t.guard.chunks = s.chunkList ∧ SameMemory s t) ∧
    (550000 ≤ s.now - s.guard.sliceAt →
      ∃ t, exec .policySliceEnd s = .next t ∧ t.guard.sequence = .writes ∧ t.guard.chunks = s.chunkList ∧ SameMemory s t) ∧
    ∀ h, (∃ d ∈ s.guard.declarations, d.handle = h) → h ∉ s.guard.skipped →
      ∃ t, exec (.gskip h) s = .next t ∧ t.guard.skipped = s.guard.skipped ++ [h] ∧ t.guard.sequence = .slice ∧ SameMemory s t) ∧
  (∀ s : State, s.guard.sequence = .writes →
    (s.guard.chunks = [] → ∃ t, exec .extentWrites s = .next t ∧ t.guard.sequence = .seal ∧ SameMemory s t) ∧
    ∀ c l x, s.guard.chunks = c :: l → c.decl.extents[c.index]? = some x →
      let n := s.guard.written
      let bytes := min 65536 (x.len - 65536 * c.chunk)
      ∃ t, exec .extentWrites s = .next t ∧ t.guard.chunks = l ∧ t.guard.written = n + 1 ∧ SameMemory s t ∧
        (∀ j, j < bytes → (Memory.read t.guard.data (65536 * n + j)).toNat = s.chunkByte x c.chunk j) ∧
        (∀ a, a < 65536 * n ∨ 65536 * n + bytes ≤ a → Memory.read t.guard.data a = Memory.read s.guard.data a) ∧
        Memory.readN t.guard.header (0x200000 + 64 * n) 8 = (n + 1 + c.decl.handle * 2 ^ 64) % 2 ^ 64 ∧
        Memory.readN t.guard.header (0x200000 + 64 * n + 32) 32 = chunkDigest (chunkHeader (n + 1) c.decl.handle c.index x.prio
          c.chunk bytes c.decl.pasid s.guard.epoch) bytes (s.chunkByte x c.chunk) % 2 ^ 256) ∧
  (∀ s : State, s.guard.sequence = .seal → ∃ t, exec .sealLog s = .next t ∧ t.guard.sequence = .ended ∧ t.guard.held = true ∧
    t.root.hold = (s.root.hold || s.guard.returned || s.guard.tripped) ∧
    Memory.readN t.guard.header 0 4 = 0x53444C48 ∧ SameMemory s t ∧
    ∀ i, i < 256 → Memory.read t.guard.header (0x100 + i) = Memory.read s.guard.note i) ∧
  (∀ s : State, s.guard.sequence ≠ .none → ∃ t, exec .supplyReturn s = .next t ∧ SameMemory s t ∧
    (s.guard.sequence = .ended → t.root.hold = true ∧ t.guard = s.guard) ∧
    (s.guard.sequence ≠ .ended → t.guard.returned = true ∧ t.guard.sequence = s.guard.sequence ∧ t.root = s.root)) ∧
  ∀ s : State, s.guard.erasing = true → s.guard.held = false → (s.guard.sequence = .none ∨ s.guard.sequence = .ended) →
    ∃ t, exec .logErase s = .next t ∧ t.guard.data = [] ∧
    t.guard.erasing = false ∧ t.guard.declarations = s.guard.declarations ∧ SameMemory s t

/-! ### The check engine (17) -/

namespace Sys2Proof.Claims

/-- One operand A and a scalar D. -/
def usesChkm (d a : Code) : List Use := [⟨.ssrc, a, false⟩, ⟨.sreg, d, false⟩]

/-- The reads of `chkm`: how many bits of A they use, and what they answer (Table 17-4). -/
noncomputable def chkmTable (s : State) : List ((Code → Code → Instr) × Nat × (Nat → DWord)) := [
  (.chkmLmap, 2, fun x => s.lmapOf s.cur.core x), (.chkmLfail, 2, fun x => s.lfailOf s.cur.core x),
  (.chkmCmap, 0, fun _ => (s.core s.cur.core).cmap),
  (.chkmCnt, 4, fun x => BitVec.ofNat 64 (if x < 8 then Tab.get 0 (s.core s.cur.core).counters x else 0))]

/-- A counter of the check engine, which stops at its largest value (R462). -/
def counter (s : State) (core i : Nat) : Nat := Tab.get 0 (s.core core).counters i

end Sys2Proof.Claims

/-- 17 R451, R461, R462: `lmapw` waits for its bench, writes DIS where it may, and answers its status over the old DIS; `chkm` reads maps
and counters, clears a counter, and sets the floor while every interface is unlocked (one in ERROR: log 118); bits of A that an operation does not use
make it answer all ones. -/
def Sys2Proof.Claims.CheckInstructions : Prop :=
  (∀ (e g : Bool) (d a b : Code) (s : State), s.cur.priv = true → HasLanes s → Ready s (usesPriv e g d a b) →
    let x := (s.ssrc a).toNat
    let y := (s.ssrc b).toNat
    let core := s.cur.core
    let old := s.lmapOf core (x % 4)
    let dis := y % 128
    let bad := 4 ≤ x ∨ 128 ≤ y ∨ 65 ≤ dis ∧ dis ≤ 126
    (s.benchBusy core (x % 4) = true → exec (.lmapw e g d a b) s = .next (s.stallWith 12)) ∧
    (s.benchBusy core (x % 4) = false →
      (bad → ∃ t, exec (.lmapw e g d a b) s = .next t ∧ GivenScalar s t d.toNat (BitVec.ofNat 64 (3 * 2 ^ 32 + old.toNat % 128))) ∧
      (¬ bad → old.getLsbD 63 = true ∨ old.getLsbD 62 = true → ∃ t, exec (.lmapw e g d a b) s = .next t ∧
        GivenScalar s t d.toNat (BitVec.ofNat 64 (2 * 2 ^ 32 + old.toNat % 128))) ∧
      (¬ bad → old.getLsbD 63 = false → old.getLsbD 62 = false →
        let serves (p : Nat) := if dis = 127 then p < 64 else p ≠ dis
        let failed (p : Nat) := p < 65 ∧ laneFailed old (s.lfailOf core (x % 4)) p = true
        ((∃ p, failed p ∧ p ≠ dis ∧ serves p) → ∃ t, exec (.lmapw e g d a b) s = .next t ∧
          GivenScalar s t d.toNat (BitVec.ofNat 64 (2 ^ 32 + old.toNat % 128))) ∧
        ((∀ p, failed p → p = dis ∨ ¬ serves p) → ∃ t, exec (.lmapw e g d a b) s = .next t ∧
          Answered s t d (BitVec.ofNat 64 (old.toNat % 128)) ∧ SameMemory s t ∧
          (t.lmapOf core (x % 4)).toNat % 128 = dis ∧
          (t.lmapOf core (x % 4)).getLsbD 61 = laneFailed old (s.lfailOf core (x % 4)) dis ∧
          (t.lmapOf core (x % 4)).toNat / 2 ^ 62 = old.toNat / 2 ^ 62 ∧
          (t.lmapOf core (x % 4)).toNat % 2 ^ 61 / 128 = old.toNat % 2 ^ 61 / 128)))) ∧
  (∀ (d a : Code) (s : State), s.cur.priv = true → HasLanes s → Ready s (usesChkm d a) →
    let x := (s.ssrc a).toNat
    (∀ p ∈ chkmTable s, ∃ t, exec (p.1 d a) s = .next t ∧
      GivenScalar s t d.toNat (if x < 2 ^ p.2.1 then p.2.2 x else BitVec.allOnes 64)) ∧
    (16 ≤ x → ∃ t, exec (.chkmClr d a) s = .next t ∧ GivenScalar s t d.toNat (BitVec.allOnes 64)) ∧
    (x < 16 → ∃ t, exec (.chkmClr d a) s = .next t ∧ counter t s.cur.core x = 0 ∧ (∀ i, i ≠ x → counter t s.cur.core i = counter s s.cur.core i) ∧
      GivenScalar s t d.toNat (BitVec.ofNat 64 (if x < 8 then counter s s.cur.core x else 0))) ∧
    (4 ≤ x → ∃ t, exec (.chkmFloor d a) s = .next t ∧ GivenScalar s t d.toNat (BitVec.allOnes 64)) ∧
    (x = 3 → ∃ t, exec (.chkmFloor d a) s = .next t ∧ GivenScalar s t d.toNat (BitVec.ofNat 64 (2 ^ 32 + s.disp.floor))) ∧
    (x < 3 → (∃ f ∈ s.link.functions, f.2.tdi ≠ .unlocked) → ∃ t, exec (.chkmFloor d a) s = .next t ∧
      GivenScalar s t d.toNat (BitVec.ofNat 64 (2 * 2 ^ 32 + s.disp.floor))) ∧
    (x < 3 → (∀ f ∈ s.link.functions, f.2.tdi = .unlocked) → ∃ t, exec (.chkmFloor d a) s = .next t ∧ t.disp.floor = x ∧
      Answered s t d (BitVec.ofNat 64 s.disp.floor) ∧ SameMemory s t ∧ t.root.log.length = s.root.log.length + 1))

/-- 17 R449, R450, R453, R454, R456 to R458, R463: a lane that fails its check again is recorded, counted and reported, and its bench's map
then shows it; a column with a second mismatch is mapped out; the oldest replay of a bench leaves the queue, a mismatch
waiting in its strand; a patrol read changes nothing. -/
def Sys2Proof.Claims.CheckSteps : Prop :=
  (∀ (s : State) (key lane : Nat), let st := s.strand key
    let known := Tab.get [] s.root.lanes (4 * st.core + st.bench)
    st.hot = true ∨ st.sup = true → lane ≤ 64 → lane ∉ known →
    (∃ t, exec (.laneReissue key lane true) s = .next t ∧ (t.strand key).stall = 12 ∧ SameMemory s t ∧
      counter t st.core 3 = min 0xFFFFFFFF (counter s st.core 3 + 1)) ∧
    ((s.core st.core).queueRoom = true → (∀ ev ∈ (s.core st.core).evq, ev.cause ≠ .laneFailure) →
      ∃ t, exec (.laneReissue key lane false) s = .next t ∧ SameMemory s t ∧
        Tab.get [] t.root.lanes (4 * st.core + st.bench) = known ++ [lane] ∧
        counter t st.core 4 = min 0xFFFFFFFF (counter s st.core 4 + 1) ∧
        (t.core st.core).evq = (s.core st.core).evq ++ [{ cause := .laneFailure, bench := st.bench, param := lane }])) ∧
  (∀ (s : State) (core bench p : Nat), let old := s.lmapOf core bench
    let fail := s.lfailOf core bench
    (Tab.get [] s.root.lanes (4 * core + bench)).find? (fun p => !laneFailed old fail p) = some p → p ≤ 64 →
    ((List.range 65).filter fun q => laneFailed old fail q).length ≤ 32 ∨ (∀ c ∈ s.cohorts, c.2.dead = true) →
    ∃ t, exec (.lmapUpdate core bench) s = .next t ∧ SameMemory s t ∧
      laneFailed (t.lmapOf core bench) (t.lfailOf core bench) p = true ∧
      (∀ q, q < 65 → q ≠ p → laneFailed (t.lmapOf core bench) (t.lfailOf core bench) q = laneFailed old fail q) ∧
      (old.getLsbD 63 = false → (old.toNat % 128 = 127 ∨ laneFailed old fail (old.toNat % 128) = false) →
        (t.lmapOf core bench).toNat % 128 = p ∧
        (t.lmapOf core bench).getLsbD 63 = (List.range 65).any fun q => laneFailed old fail q) ∧
      (old.getLsbD 63 = true ∨ (old.toNat % 128 < 65 ∧ laneFailed old fail (old.toNat % 128) = true) →
        (t.lmapOf core bench).toNat % 128 = old.toNat % 128 ∧ (t.lmapOf core bench).getLsbD 63 = true)) ∧
  (∀ (s : State) (core column : Nat), let k := s.core core
    2 ≤ k.columnMiss.count column → column ∉ k.columnsFailed → (cmapWord (k.columnsFailed ++ [column])).getLsbD 62 = false →
    k.queueRoom = true → (∀ ev ∈ k.evq, ev.cause ≠ .laneFailure) →
    ∃ t, exec (.columnMapOut core column) s = .next t ∧ (t.core core).columnsFailed = k.columnsFailed ++ [column] ∧
      (t.core core).cmap = cmapWord (k.columnsFailed ++ [column]) ∧ Tab.get [] t.root.columns core = k.columnsFailed ++ [column] ∧
      (t.core core).evq = k.evq ++ [{ cause := .laneFailure, param := 0x80 + column }] ∧ SameMemory s t) ∧
  (∀ (s : State) (core bench : Nat) (r : Replay) (l : List Replay), Tab.get [] (s.core core).replays bench = r :: l →
    (∃ t, exec (.cloneReplay core bench false) s = .next t ∧ Tab.get [] (t.core core).replays bench = l ∧
      SameMemory s t ∧ ∀ k, t.strand k = s.strand k) ∧
    ∃ t, exec (.cloneReplay core bench true) s = .next t ∧ Tab.get [] (t.core core).replays bench = l ∧
      (t.strand r.key).cloneBad = some ((s.strand r.key).cloneBad.getD r.pc) ∧ OnlyStrand s t r.key) ∧
  ∀ (s : State) (line : Nat), exec (.patrolRead line) s = .next s

/-- 17 R449 to R463: the check engine. -/
def Obligations.CheckEngine : Prop :=
  Claims.CheckInstructions ∧ Claims.CheckSteps

/-! ### The trace engine and the dispatch registers (18, 14) -/

namespace Sys2Proof.Claims

/-- A trace register as it takes a value (Table 18-3). -/
def traceTakes (n v : Nat) : Nat :=
  if n = 0 then v % 4 + v / 2 ^ 20 % 2 ^ 20 * 2 ^ 20
  else if n = 1 ∨ n = 5 then v % 2 ^ 56 / 4096 * 4096
  else if n = 2 ∨ n = 6 then max 4 (min 20 (v % 32))
  else if n = 3 ∨ n = 7 then v % 2 ^ 56 / 8 * 8
  else v

/-- A trace register of a core. -/
def traceOf (s : State) (core n : Nat) : DWord := (s.core core).trace.read s.cycles n

/-- A dispatch register as it takes a value (Table 14-9). -/
def dispatchTakes (n v : Nat) : Nat :=
  if n = 0 then v % 2 ^ 52 / 2 ^ 14 * 2 ^ 14
  else if n = 1 then v % 2 ^ 52 / 2 ^ 18 * 2 ^ 18
  else if n = 2 then max 11000 v
  else if n = 3 then ((List.range 8).map fun c => max 1 (v / 2 ^ (8 * c) % 256) * 2 ^ (8 * c)).sum
  else if n = 4 then min 1100000000 v
  else if n = 5 then max 1100 (min 1100000 v)
  else if n = 6 then max 4096 (min 1048576 v)
  else if n = 7 then max 1024 (min 1048576 v)
  else if n = 8 then v % 8
  else v

/-- A dispatch register. -/
def dispatchOf (s : State) (n : Nat) : DWord := s.disp.regs.read n

/-- One operand B and a scalar D. -/
def usesB (g : Bool) (d b : Code) : List Use := [⟨.ssrc, b, g⟩, ⟨.sreg, d, false⟩]

/-- An 8-byte word of a context's entry in the context table (Table 14-7). -/
def contextWord (s : State) (slot off : Nat) : Nat := Memory.readN s.local_ (s.disp.regs.ctb.toNat + 64 * slot + off) 8

end Sys2Proof.Claims

/-- 18 R469, R471, R475, R477: `trcfg` gives D the old value of a trace register and writes it, each within its limits; a read
leaves it, and CYC and LOST are not written; `bpset` and `wpset` write a comparator or answer 1 for reserved operands;
`smpl` sets the period. -/
def Sys2Proof.Claims.TraceRegisters : Prop :=
  (∀ (g : Bool) (d : Code) (sel : BitVec 7) (b : Code) (s : State), s.cur.priv = true →
    let n := sel.toNat
    let core := s.cur.core
    (10 < n % 64 ∨ 64 ≤ n ∧ (g = true ∨ b ≠ 0) →
      exec (.trcfg g d sel b) s = .next (s.raiseAll .illegalOpcode)) ∧
    (64 ≤ n → n % 64 ≤ 10 → g = false → b = 0 → HasLanes s → Ready s [⟨.sreg, d, false⟩] → ∃ t, exec (.trcfg g d sel b) s = .next t ∧
      GivenScalar s t d.toNat (traceOf s core (n % 64)) ∧ ∀ m, m < 10 → traceOf t core m = traceOf s core m) ∧
    (n ≤ 10 → HasLanes s → Ready s (usesB g d b) → ∃ t, exec (.trcfg g d sel b) s = .next t ∧
      Answered s t d (traceOf s core n) ∧ SameMemory s t ∧
      (n ≤ 8 → traceOf t core n = BitVec.ofNat 64 (traceTakes n (s.ssrc b).toNat)) ∧
      ∀ m, m < 10 → (m ≠ n ∨ m = 9) → traceOf t core m = traceOf s core m)) ∧
  (∀ (e g : Bool) (d a b : Code) (s : State), s.cur.priv = true → HasLanes s → Ready s (usesPriv e g d a b) →
    let x := s.ssrc a
    let y := s.ssrc b
    let k := s.core s.cur.core
    let Gives (t : State) (v : DWord) := ScalarResult s t (usesPriv e g d a b) d v s.cur.markScalarWrite.stat
    (bpReserved x.toNat y.toNat = true → ∃ t, exec (.bpset e g d a b) s = .next t ∧ Gives t 1) ∧
    (bpReserved x.toNat y.toNat = false → ∃ t, exec (.bpset e g d a b) s = .next t ∧ Gives t 0 ∧
      (t.core s.cur.core).codePoints = Tab.put k.codePoints (x.toNat / 2 ^ 48 % 8) (x, y)) ∧
    (wpReserved x.toNat y.toNat = true → ∃ t, exec (.wpset e g d a b) s = .next t ∧ Gives t 1) ∧
    (wpReserved x.toNat y.toNat = false → ∃ t, exec (.wpset e g d a b) s = .next t ∧ Gives t 0 ∧
      (t.core s.cur.core).watchPoints = Tab.put k.watchPoints (y.toNat / 2 ^ 8 % 4) (x, y))) ∧
  ∀ (d : Code) (p : BitVec 5) (s : State), s.cur.priv = true →
    let n := p.toNat
    (1 ≤ n ∧ n ≤ 7 ∨ 25 ≤ n → exec (.smpl d p) s = .next (s.raiseAll .illegalOpcode)) ∧
    (n = 0 ∨ 8 ≤ n ∧ n ≤ 24 → HasLanes s → Ready s [⟨.sreg, d, false⟩] → ∃ t, exec (.smpl d p) s = .next t ∧
      ScalarResult s t [⟨.sreg, d, false⟩] d (BitVec.ofNat 64 (s.core s.cur.core).period) s.cur.markScalarWrite.stat ∧
      (t.core s.cur.core).period = n)

/-- 18 R472 to R474, R476, R478: `halt` stops a living cohort, waiting for its swap-out and its span's, and
answers 0, 1 for a halted one and 2 for none; `resm` lets it run again, passing the code hit that stopped it; a stopped
cohort is swapped out; a drawn sample tags the next instruction, and a completed one leaves the count one higher. -/
def Sys2Proof.Claims.HaltingAndSampling : Prop :=
  (∀ (e : Bool) (d a : Code) (s : State), s.cur.priv = true → HasLanes s → Ready s [⟨.ssrc, a, e⟩, ⟨.sreg, d, false⟩] →
    let us : List Use := [⟨.ssrc, a, e⟩, ⟨.sreg, d, false⟩]
    let Gives (t : State) (v : DWord) := ScalarResult s t us d v s.cur.markScalarWrite.stat
    let ccb := s.ssrc a
    let c := s.cohort ccb
    (s.liveCohort ccb = false → (∃ t, exec (.halt e d a) s = .next t ∧ Gives t 2) ∧
      ∃ t, exec (.resm e d a) s = .next t ∧ Gives t 2) ∧
    (s.liveCohort ccb = true → Grouped s ccb → s.cur.sup = true →
      (s.asksOut c = false → c.halted = true → ∃ t, exec (.halt e d a) s = .next t ∧ Gives t 1) ∧
      (s.asksOut c = false → c.halted = false → s.resident ccb = false → ∃ t, exec (.halt e d a) s = .next t ∧
        Replied s t us d 0 ∧ (t.cohort ccb).halted = true ∧ (t.cohort ccb).why = 3) ∧
      (s.asksOut c = false → c.halted = false → s.resident ccb = true → c.leaving = none →
        ∃ t, exec (.halt e d a) s = .next t ∧ t.cur.stall = 12 ∧ (t.cohort ccb).halted = true ∧ (t.cohort ccb).why = 3 ∧
          s.curKey ∈ (t.cohort ccb).waiters ∧ ∀ x ∈ s.groupOf c, s.resident x = true → (s.cohort x).leaving = none →
            (t.cohort x).leaving = some .out) ∧
      (c.halted = false → ∃ t, exec (.resm e d a) s = .next t ∧ Gives t 1) ∧
      (c.halted = true → ∃ t, exec (.resm e d a) s = .next t ∧ Replied s t us d 0 ∧ (t.cohort ccb).halted = false ∧
        (t.cohort ccb).why = 0 ∧ (t.cohort ccb).skip = (c.skip || decide (c.why = 1))))) ∧
  (∀ (s : State) (ccb : Nat), let key := BitVec.ofNat 64 ccb
    let s1 := s.sendAway key .out
    Grouped s key → s.acting = true → (s.cohort key).stopping = true → (s.cohort key).dead = false →
    (s.resident key = false → ∃ t, exec (.debugStop ccb) s = .next t ∧ (t.cohort key).stopping = false) ∧
    (s.resident key = true → s1.groupQuiet key = true → (∀ x ∈ s.groupOf (s.cohort key), s1.moveFault x false = none) →
      ∃ t, exec (.debugStop ccb) s = .next t ∧ ∀ x ∈ s.groupOf (s.cohort key), s.resident x = true →
        (t.cohort x).residency = .absent ∧ (t.cohort x).stopping = false)) ∧
  (∀ (s : State) (core bench : Nat), let k := s.core core
    k.period ≠ 0 → bench < 4 → Tab.get 0 k.tagWait bench / 2 ≤ s.cycles.toNat →
    (k.trace.samplesFull = true → exec (.sampleTag core bench) s = .next s) ∧
    (k.trace.samplesFull = false → ∃ t, exec (.sampleTag core bench) s = .next t ∧
      Tab.get 0 (t.core core).tagWait bench % 2 = 1 ∧ s.cycles.toNat < Tab.get 0 (t.core core).tagWait bench / 2 ∧ SameMemory s t)) ∧
  ∀ (s : State) (core place : Nat) (x : SampleTag), (s.core core).tags.find? (fun x => x.1 == place) = some (place, x) →
    s.sampleDone x = true → (s.core core).trace.samplesFull = false →
    ∃ t, exec (.sampleRecord core place) s = .next t ∧ Tab.has (t.core core).tags place = false ∧
      (t.core core).trace.samples = (s.core core).trace.samples + 1 ∧
      ((t.core core).trace.samplesFull = true → (s.core core).queueRoom = true → (∀ ev ∈ (s.core core).evq, ev.cause ≠ .sampleBuffer) →
        (t.core core).evq = (s.core core).evq ++ [{ cause := .sampleBuffer }])

/-- 18 R469 to R478: the trace engine. -/
def Obligations.TraceEngine : Prop :=
  Claims.TraceRegisters ∧ Claims.HaltingAndSampling

/-- 14 R398, R401, Table 14-9, 05 R122: `dcfg` gives D the old value of a dispatch register and writes it within its limits, or reads it; a
selector of the table's gaps raises 0x01; CARVE asks for a mode, which an empty core takes; KILL ends a cohort. -/
def Sys2Proof.Claims.DispatchRegisters : Prop :=
  (∀ (g : Bool) (d : Code) (sel : BitVec 7) (b : Code) (s : State), s.cur.priv = true →
    let n := sel.toNat
    (¬ (n % 64 ≤ 9 ∨ 16 ≤ n % 64 ∧ n % 64 ≤ 20) ∨ 64 ≤ n ∧ (g = true ∨ b ≠ 0) →
      exec (.dcfg g d sel b) s = .next (s.raiseAll .illegalOpcode)) ∧
    (64 ≤ n → n ≤ 73 → g = false → b = 0 → HasLanes s → Ready s [⟨.sreg, d, false⟩] → ∃ t, exec (.dcfg g d sel b) s = .next t ∧
      GivenScalar s t d.toNat (dispatchOf s (n - 64))) ∧
    (n ≤ 9 → HasLanes s → Ready s (usesB g d b) → ∃ t, exec (.dcfg g d sel b) s = .next t ∧
      Answered s t d (dispatchOf s n) ∧ SameMemory s t ∧ dispatchOf t n = BitVec.ofNat 64 (dispatchTakes n (s.ssrc b).toNat) ∧
      ∀ m, m ≤ 9 → m ≠ n → dispatchOf t m = dispatchOf s m)) ∧
  (∀ (g : Bool) (d b : Code) (s : State), s.cur.priv = true → HasLanes s → Ready s (usesB g d b) →
    let v := (s.ssrc b).toNat
    let core := v % 2 ^ 8
    let mode := v / 2 ^ 8 % 2 ^ 3
    (192 ≤ core ∨ 5 < mode ∨ 2 ^ 12 ≤ v → ∃ t, exec (.carve g d b) s = .next t ∧ GivenScalar s t d.toNat 1) ∧
    (core < 192 → mode ≤ 5 → v < 2 ^ 12 →
      ((s.core core).carveNext.isSome = true → ∃ t, exec (.carve g d b) s = .next t ∧ GivenScalar s t d.toNat 2) ∧
      ((s.core core).carveNext = none → ∃ t, exec (.carve g d b) s = .next t ∧ Answered s t d 0 ∧
        (t.core core).carveNext = some (mode, decide (2 ^ 11 ≤ v)) ∧ SameMemory s t)) ∧
    (s.liveCohort (s.ssrc b) = false → ∃ t, exec (.kill g d b) s = .next t ∧ GivenScalar s t d.toNat 1) ∧
    (s.liveCohort (s.ssrc b) = true → (s.cohort (s.ssrc b)).ccb = s.ssrc b → s.cur.sup = true → s.curKey ∉ (s.cohort (s.ssrc b)).keys →
      ∃ t, exec (.kill g d b) s = .next t ∧
      Answered s t d 0 ∧ Tab.has t.cohorts v = false)) ∧
  ∀ (s : State) (core mode : Nat) (w : Bool), (s.core core).carveNext = some (mode, w) → s.acting = true → s.cohortsHeld core = [] →
    ∃ t, exec (.carveModeChange core) s = .next t ∧ (t.core core).carve = mode ∧ (t.core core).carveNext = none ∧
      (t.core core).l1 = [] ∧ SameMemory s t ∧ ∀ k, t.strand k = s.strand k

/-- 14 R371, R374, R375: CTXON activates the slot that its entry of the context table describes, or answers 1; CTXOFF ends the
context's use of the slot and withdraws its declarations, waits for accesses of the context, and then makes the slot free; QARM takes a queue's descriptor, or disables it. -/
def Sys2Proof.Claims.ContextsAndQueues : Prop :=
  ∀ (g : Bool) (d b : Code) (s : State), s.cur.priv = true → s.cur.sup = true → HasLanes s → Ready s (usesB g d b) →
    let v := (s.ssrc b).toNat
    let old := Tab.get {} s.contexts v
    (2 ^ 12 ≤ v ∨ s.readContext v = none → ∃ t, exec (.ctxon g d b) s = .next t ∧ GivenScalar s t d.toNat 1) ∧
    (v < 2 ^ 12 → Tab.has s.contexts v = true → s.readContext v = none) ∧
    (∀ c, v < 2 ^ 12 → s.readContext v = some c → ∃ t, exec (.ctxon g d b) s = .next t ∧ Answered s t d 0 ∧
      Tab.get {} t.contexts v = c ∧ Tab.has t.contexts v = true ∧
      c.pasid = contextWord s v 0 % 2 ^ 20 ∧ c.pasid ≠ 0 ∧ c.root = contextWord s v 8 ∧ c.framePool = contextWord s v 0x10 ∧
      c.frameBytes = contextWord s v 0x18 ∧ c.privPool = contextWord s v 0x20 ∧
      c.privSize = contextWord s v 0x28 % 2 ^ 32 ∧ c.privCount = contextWord s v 0x28 / 2 ^ 32 ∧
      c.vector = contextWord s v 0x30 % 2 ^ 16) ∧
    (2 ^ 12 ≤ v ∨ Tab.has s.contexts v = false → ∃ t, exec (.ctxoff g d b) s = .next t ∧ GivenScalar s t d.toNat 1) ∧
    (v < 2 ^ 12 → Tab.has s.contexts v = true →
      let waits := s.removalWaits { kind := 2, va := 0, pasid := old.pasid, count := 0 }
      (waits = true → ∃ t, exec (.ctxoff g d b) s = .next t ∧ t.cur.stall = 12 ∧ (Tab.get {} t.contexts v).ending = true ∧
        (old.ending = false → ∀ x ∈ t.guard.declarations, x.pasid ≠ old.pasid)) ∧
      (waits = false → (∀ c ∈ s.cohortsOf v, s.curKey ∉ (s.cohort c).keys) → ∃ t, exec (.ctxoff g d b) s = .next t ∧ Answered s t d 0 ∧ Tab.has t.contexts v = false ∧
        (old.ending = false → ∀ x ∈ t.guard.declarations, x.pasid ≠ old.pasid))) ∧
    let w0 := s.queueWord v 0
    let w1 := s.queueWord v 8
    let n := w1 % 32
    let wrong := w0 % 2 ^ 12 ≠ 0 ∨ 2 ^ 52 ≤ w0 ∨ w1 / 2 ^ 5 % 8 ≠ 0 ∨ 2 ^ 10 ≤ w1 ∨ n < 4 ∨ 16 < n ∨ 2 ^ 42 ≤ w0
    (256 ≤ v → ∃ t, exec (.qarm g d b) s = .next t ∧ GivenScalar s t d.toNat 1) ∧
    (v < 256 → natBit w1 8 = true → wrong → ∃ t, exec (.qarm g d b) s = .next t ∧ Answered s t d 1 ∧ (t.queue v).en = false) ∧
    (v < 256 → natBit w1 8 = false → ∃ t, exec (.qarm g d b) s = .next t ∧ Answered s t d 0 ∧ (t.queue v).en = false) ∧
    (v < 256 → natBit w1 8 = true → ¬ wrong → ∃ t, exec (.qarm g d b) s = .next t ∧ Answered s t d 0 ∧
      (t.queue v).en = true ∧ (t.queue v).dev = natBit w1 9 ∧ (t.queue v).n = n ∧ (t.queue v).ring = w0 ∧ (t.queue v).due = true)

/-- 14 R371, R374, R375, R398, R401, 05 R122: the dispatch registers and operations. -/
def Obligations.DispatchEngine : Prop :=
  Claims.DispatchRegisters ∧ Claims.ContextsAndQueues

/-! ### The link engine (15) -/

namespace Sys2Proof.Claims

/-- An MSI-X message has left on port P, or waits for it (R405). -/
def Posted (s t : State) (fn vec : Nat) : Prop :=
  (0 ∈ s.link.up → t.outputs = s.outputs ++ [.msix fn vec]) ∧
  (0 ∉ s.link.up → t.outputs = s.outputs ∧ t.link.waiting = s.link.waiting ++ [(fn, vec)])

/-- An MSI-X message of a vector has been dealt with (R424): dropped and counted, pending, or posted. -/
def Sent (s t : State) (fn vec : Nat) : Prop :=
  let f := s.function fn
  (f.msixEnable = false ∨ f.tdi = .error → t.outputs = s.outputs ∧ t.link.lostmsi = min (s.link.lostmsi + 1) (2 ^ 64 - 1)) ∧
  (f.msixEnable = true → f.tdi ≠ .error →
    (f.masked vec = true → t.outputs = s.outputs ∧ vec ∈ (t.function fn).pending) ∧
    (f.masked vec = false → Posted s t fn vec))

/-- Source i has fired (R421, R422): it is counted; an open claim stays; else a claim of a service core opens, with its timer, or a
message goes to the host. -/
def Fired (s t : State) (i : Nat) : Prop :=
  let c := s.claim i
  let n := t.claim i
  n.cnt = (c.cnt + 1) % 2 ^ 32 ∧
  (c.open_ = true → n.open_ = true ∧ t.outputs = s.outputs) ∧
  (c.open_ = false → c.sc = true → n.open_ = true ∧ n.openFn = c.fn ∧ n.openVec = c.vec ∧
    t.outputs = s.outputs ++ [.serviceInterrupt c.sct i] ∧
    n.timer = (if c.hc then some (s.now + s.link.intfwd * 1100) else none)) ∧
  (c.open_ = false → c.sc = false → n.open_ = false ∧ (c.hc = true → Sent s t c.fn c.vec) ∧
    (c.hc = false → t.outputs = s.outputs))

/-- The stream of a function is insecure, and every locked or running TDI that it covered is in ERROR (R426, R429). -/
def Insecure (s t : State) (fn : Nat) : Prop :=
  (t.function fn).ide = false ∧
  ∀ f, f < 16 → s.streamOwner f = fn → (s.function f).bound = true → (t.function f).tdi = .error

/-- The operations of `intfw` (R424). -/
noncomputable def intfwTable : List (Bool → Bool → Code → Code → Code → Instr) := [.intfwAck, .intfwFwd, .intfwRaise, .intfwSend]

/-- The state says one thing more to the outside world, and nothing else changes. -/
def Says (s t : State) (words : Option (List Nat)) : Prop := t = { s with outputs := s.outputs ++ [.answer words] }

/-- n bytes of a memory have become those of a value; the others are kept. -/
def Bytes (old new : Memory) (a n v : Nat) : Prop :=
  ∀ x, Memory.read new x = if a ≤ x ∧ x < a + n then BitVec.ofNat 8 (v / 2 ^ (8 * (x - a))) else Memory.read old x

/-- The atomics of peers (R417; 07 Table 7-4), by their place from kind 2 on: their size and the new value of 1 from the old one, the
operand and the comparand. -/
def peerAtomics : List (Nat × Nat × (Nat → Nat → Nat → Nat)) := [
  (2, 4, fun m b _ => (m + b) % 2 ^ 32), (4, 4, fun m b _ => min m b), (6, 4, fun m b _ => max m b),
  (7, 4, fun m b _ => Nat.land m b), (8, 4, fun m b _ => Nat.lor m b), (9, 4, fun m b _ => Nat.xor m b),
  (10, 4, fun _ b _ => b), (11, 4, fun m b d => if m = d then b else m), (13, 8, fun m b _ => (m + b) % 2 ^ 64)]

end Sys2Proof.Claims

/-- 15 R420 to R424: `intfw` closes a claim, forwards it, raises a source of firmware or sends a message, after a release at .sy, and
answers a status; timers forward a claim, ICACK closes one, an unmasked vector sends what was pending, and a doorbell makes
an event 0x34 or an interrupt of a service core. -/
def Obligations.Interrupts : Prop :=
  (∀ i ∈ intfwTable, ∀ (e g : Bool) (d a b : Code) (s : State), s.cur.priv = true → HasLanes s → Ready s (usesPriv e g d a b) →
    let x := (s.ssrc a).toNat
    let y := (s.ssrc b).toNat
    let src := x % 2 ^ 10
    let op := x / 2 ^ 16 % 4
    let reserved := x / 2 ^ 10 % 2 ^ 6 ≠ 0 ∨ 2 ^ 18 ≤ x ∨ (op = 3 ∧ 2 ^ 16 ≤ y) ∨ (op ≠ 3 ∧ y ≠ 0)
    (reserved → ∃ t, exec (i e g d a b) s = .next t ∧ GivenScalar s t d.toNat 2) ∧
    (¬ reserved → s.releaseWaits s.cur 4 = true → exec (i e g d a b) s = .next ((s.noteRelease s.cur 4).stallWith 12)) ∧
    (¬ reserved → s.releaseWaits s.cur 4 = false → ∃ t r, exec (i e g d a b) s = .next t ∧ Answered s t d (BitVec.ofNat 64 r) ∧
      SameMemory s t ∧
      (op = 0 → r = (if (s.claim src).open_ then 0 else 1) ∧ (t.claim src).open_ = false ∧ t.outputs = s.outputs) ∧
      (op = 1 → (s.claim src).open_ = false → r = 1 ∧ t.link = s.link ∧ t.outputs = s.outputs) ∧
      (op = 1 → (s.claim src).open_ = true → r = 0 ∧ (t.claim src).open_ = false ∧
        Sent s t (s.claim src).openFn (s.claim src).openVec) ∧
      (op = 2 → src < 0x300 → r = 2 ∧ t.link = s.link ∧ t.outputs = s.outputs) ∧
      (op = 2 → 0x300 ≤ src → r = 0 ∧ Fired s t src) ∧
      (op = 3 →
        let fn := y / 2 ^ 12
        let vec := y % 2 ^ 12
        (src ≠ 0 ∨ (if fn = 0 then 2048 else 256) ≤ vec → r = 2 ∧ t.link = s.link ∧ t.outputs = s.outputs) ∧
        (src = 0 → vec < (if fn = 0 then 2048 else 256) → Sent s t fn vec ∧
          r = (if (s.function fn).msixEnable = false ∨ (s.function fn).tdi = .error then 3 else 0))))) ∧
  (∀ (s : State) (src τ : Nat), (s.claim src).open_ = true → (s.claim src).timer = some τ → τ ≤ s.now →
    ∃ t, exec (.claimTimerExpiry src) s = .next t ∧ (t.claim src).open_ = false ∧ (t.claim src).timer = none ∧
      Sent s t (s.claim src).openFn (s.claim src).openVec ∧ SameMemory s t) ∧
  (∀ (s : State) (src : Nat), src < 1024 → (s.claim src).open_ = true → ∃ t, exec (.icack src) s = .next t ∧
    (t.claim src).open_ = false ∧ (t.claim src).timer = none ∧ t.outputs = s.outputs ∧ SameMemory s t) ∧
  (∀ (s : State) (fn vec : Nat), vec ∈ (s.function fn).pending → (s.function fn).masked vec = false →
    (s.function fn).msixEnable = true → (s.function fn).tdi ≠ .error →
    ∃ t, exec (.msixUnmask fn vec) s = .next t ∧ Posted s t fn vec ∧ vec ∉ (t.function fn).pending ∧
      SameMemory s t) ∧
  ∀ (s : State) (fn m value : Nat), s.functionThere fn = true → s.answersHost = true → m < 16 → (s.function fn).tdi ≠ .error → s.online = true →
    let target := value % 256
    (target < 192 → (s.core target).queueRoom = true → (∀ ev ∈ (s.core target).evq, ev.cause ≠ .hostInterrupt) →
      ∃ t, exec (.mailboxDoorbell fn m value) s = .next t ∧ SameMemory s t ∧ (t.core target).evq = (s.core target).evq ++
        [{ cause := .hostInterrupt, param := 16 * fn + m, taddr := BitVec.ofNat 64 (s.link.mbb + 0x1000 * (16 * fn + m)) }]) ∧
    (192 ≤ target → target < 196 → exec (.mailboxDoorbell fn m value) s =
      .next { s with outputs := s.outputs ++ [.serviceInterrupt (target - 192) (1024 + 16 * fn + m)] }) ∧
    (196 ≤ target → exec (.mailboxDoorbell fn m value) s = .next s)

/-- 15 R407 to R412, R414, R417, 05 R148: accesses of the host and of peers: a write is acknowledged and made and a read answered at the
line's home after every write acknowledged before, poison or a refusal where the rule says so; no decoder maps an access beyond the 4 TiB of local memory; a bad access to BAR0 is an
Unsupported Request; responses, flushes and ATS invalidations clear what they answer. -/
def Sys2Proof.Claims.HostAndPeerAccesses : Prop :=
  (∀ (s : State) (addr size value : Nat),
    (2 ^ 42 < addr + size → exec (.hostMemWrite addr size value) s = .next s ∧ exec (.hostMemRead addr size) s = .next s) ∧
    (addr + size ≤ 2 ^ 42 → s.online = true → 1 ∈ s.link.up → s.accepting = true →
      let s0 := s.drainIngress
      (∃ t, exec (.hostMemWrite addr size value) s = .next t ∧ t.outputs = s.outputs ++ [.answer (some [])] ∧
        (∀ k, t.strand k = s.strand k) ∧ (s.poisonedAt addr size = true → t.local_ = s0.local_) ∧
        (s.poisonedAt addr size = false → Bytes s0.local_ t.local_ addr size value)) ∧
      (∃ t, exec (.hostMemRead addr size) s = .next t ∧
        ((s.poisonedAt addr size = true ∨ s0.errorAt .dev addr size = true) → Says s0 t none) ∧
        (s.poisonedAt addr size = false → s0.errorAt .dev addr size = false → Says s0 t (some [Memory.readN s0.local_ addr size]))))) ∧
  (∀ (s : State) (addr size value : Nat),
    (addr + size ≤ 2 ^ 52 → ∃ t, exec (.hostSnoop addr size true value) s = .next t ∧ Bytes s.host t.host addr size value) ∧
    (2 ^ 52 < addr + size → exec (.hostSnoop addr size true value) s = .next s) ∧
    exec (.hostSnoop addr size false value) s = .next s) ∧
  (∀ (s : State) (aid addr size value cmp : Nat), s.online = true → s.accepting = true →
    let refused := s.knownPeer aid = false ∨ addr / 128 * 128 < s.link.pwbase ∨ s.link.pwlimit < (addr + size - 1) / 128 * 128
    (∀ kind, refused → ∃ t, exec (.peerInboundAccess aid addr kind size value cmp) s = .next t ∧ Says s t none) ∧
    (¬ refused → s.errorAt .dev addr size = false →
      (∃ t, exec (.peerInboundAccess aid addr 0 size value cmp) s = .next t ∧ Says s t (some [Memory.readN s.local_ addr size])) ∧
      (∃ t, exec (.peerInboundAccess aid addr 1 size value cmp) s = .next t ∧ Bytes s.local_ t.local_ addr size value) ∧
      ∀ p ∈ peerAtomics, p.2.1 = size → value < 2 ^ (8 * size) →
        ∃ t, exec (.peerInboundAccess aid addr p.1 size value cmp) s = .next t ∧
          t.outputs = s.outputs ++ [.answer (some [Memory.readN s.local_ addr size])] ∧
          Bytes s.local_ t.local_ addr size (p.2.2 (Memory.readN s.local_ addr size) value cmp))) ∧
  (∀ (s : State) (fn off size value : Nat) (write : Bool),
    (s.functionThere fn = false ∨ (size ≠ 4 ∧ size ≠ 8) ∨ off % size ≠ 0 ∨ 0x400000 ≤ off ∨ (s.function fn).tdi = .error →
      ∃ t, exec (.bar0Access fn off size write value) s = .next t ∧ Says s t none) ∧
    (s.functionThere fn = true → (size = 4 ∨ size = 8) → off % size = 0 → off < 0x400000 → (s.function fn).tdi ≠ .error →
      s.answersHost = true →
      (∃ t v, exec (.bar0Access fn off size false value) s = .next t ∧ Says s t (some [v]) ∧
        (off = 0 → size = 4 → v = 0xB1) ∧ (off = 4 → size = 4 → v = fn) ∧
        (0x10000 ≤ off → off < 0x20000 → v = Memory.readN s.local_
          (s.link.mbb + 0x1000 * (16 * fn + (off - 0x10000) / 0x1000) + off % 0x1000) size) ∧
        ((0x1000 ≤ off ∧ off < 0x10000 ∨ 0x20000 ≤ off ∧ off < 0x200000) → v = 0)) ∧
      ∃ t, exec (.bar0Access fn off size true value) s = .next t ∧
        ((off < 0x10000 ∨ 0x20000 ≤ off ∧ off < 0x200000 ∨ 0x300000 ≤ off) → t = s) ∧
        (0x10000 ≤ off → off < 0x20000 → ¬ (off % 0x1000 = 0xFF8 ∧ size = 8) → Bytes s.local_ t.local_
          (s.link.mbb + 0x1000 * (16 * fn + (off - 0x10000) / 0x1000) + off % 0x1000) size value))) ∧
  (∀ (s : State) (core : Nat) (f : Flush) (l : List Flush), (s.core core).flushing = f :: l →
    ∃ t, exec (.flushComplete core) s = .next t ∧ (t.core core).relaxed = (s.core core).relaxed.drop f.before ∧
      (t.core core).flushing = l.map (fun x => { x with before := x.before - f.before }) ∧
      (Tab.has s.strands f.key = true → (t.strand f.key).flushed = some f.pc) ∧ SameMemory s t ∧ SameEngines s t) ∧
  (∀ (s : State) (core place : Nat),
    ((s.core core).relaxed.length ≤ place → exec (.globalObservationResponse core true place) s = .next s) ∧
    (place < (s.core core).relaxed.length → ∃ t, exec (.globalObservationResponse core true place) s = .next t ∧
      (t.core core).relaxed = (s.core core).relaxed.eraseIdx place ∧
      (t.core core).flushing = (s.core core).flushing.map (fun x => if place < x.before then { x with before := x.before - 1 } else x) ∧
      SameMemory s t ∧ SameEngines s t) ∧
    (∀ o, (s.core core).outstanding[place]? = some o →
      (o.peer = true ∨ o.uc = false ∨ ∀ x ∈ (s.core core).outstanding.take place, x.peer = true ∨ x.uc = false) →
      ∃ t, exec (.globalObservationResponse core false place) s = .next t ∧
        (t.core core).outstanding = (s.core core).outstanding.eraseIdx place ∧ SameMemory s t ∧ SameEngines s t) ∧
    ∀ o x, (s.core core).outstanding[place]? = some o → o.peer = false → o.uc = true → x ∈ (s.core core).outstanding.take place →
      x.peer = false → x.uc = true → exec (.globalObservationResponse core false place) s = .next s) ∧
  ∀ (s : State) (pasid va count : Nat),
    let named (x : AtsEntry) := x.pasid = pasid ∧ va / 4096 ≤ x.page ∧ x.page < va / 4096 + count
    (∀ k ∈ s.cores, k.2.outstanding = [] ∧ k.2.relaxed = []) → (∀ x ∈ s.strands, ∀ p ∈ x.2.producers, p.hostLanes = 0) →
      ∃ t, exec (.atsInvalidationRequest pasid va count) s = .next t ∧
      (∀ x, x ∈ t.link.atsCache ↔ x ∈ s.link.atsCache ∧ ¬ named x) ∧ t.outputs = s.outputs ++ [.answer (some [])] ∧ SameMemory s t

/-- 15 R405, R415, R418, R425 to R426, 19 R482, R483: ports train, change width and go down; errors of ports C and P fire their sources;
SPDM answers the measurement or an entry of the log with the next signature index, and a key exchange opens a session. -/
def Sys2Proof.Claims.PortsAndSessions : Prop :=
  (∀ (s : State) (port lanes : Nat), port < 14 → lanes ∈ trainsTo port → s.root.stage.isSome = true → ∃ t, exec (.portUp port lanes) s = .next t ∧
    port ∈ t.link.up ∧ Tab.get 0 t.link.width port = lanes ∧ Tab.get 0 t.link.rate port ∈ ratesOf port ∧ SameMemory s t ∧
    (port = 0 → t.link.waiting = [] ∧ t.outputs = s.outputs ++ s.link.waiting.map fun x => .msix x.1 x.2)) ∧
  (∀ (s : State) (u lanes : Nat), u < 12 → 2 + u ∈ s.link.up → lanes ∈ [4, 2, 1] → Tab.get 0 s.link.width (2 + u) ≠ lanes →
    ∃ t, exec (.portWidthChange u lanes) s = .next t ∧
    Tab.get 0 t.link.width (2 + u) = lanes ∧ Fired s t (0x210 + u) ∧ SameMemory s t) ∧
  (∀ (s : State) (u : Nat), u < 12 → 2 + u ∈ s.link.up → ∃ t, exec (.portDown u) s = .next t ∧ 2 + u ∉ t.link.up ∧
    (t.claim (0x210 + u)).cnt = ((s.claim (0x210 + u)).cnt + 1) % 2 ^ 32 ∧ t.local_ = s.local_) ∧
  (∀ s : State, ∃ t, exec .portPDown s = .next t ∧ 0 ∉ t.link.up ∧
    ∀ f, f < 16 → (s.function f).bound = true → (t.function f).tdi = .error) ∧
  (∀ s : State, (∃ t, exec (.portCError true) s = .next t ∧ 1 ∉ t.link.up ∧ Fired s t 0x200 ∧ SameMemory s t) ∧
    (∃ t, exec (.portCError false) s = .next t ∧ t.link.up = s.link.up ∧ Fired s t 0x200 ∧ SameMemory s t) ∧
    ∃ t, exec .portPError s = .next t ∧ Fired s t 0x201 ∧ SameMemory s t) ∧
  (∀ (s : State), s.root.stage.isSome = true → let i := s.root.identityIndex
    (∀ index v, (index = 0x10 ∧ v = s.root.m ∨ index ≠ 0x10 ∧ 0 < index ∧ s.root.log[index - 1]? = some v) →
      ∃ t, exec (.spdmRequest index) s = .next t ∧ SameMemory s t ∧ t.outputs = s.outputs ++
          [.answer (some (if i < 2 ^ 20 then [0, v, i] else [4]))] ∧
        t.root.identityIndex = (if i < 2 ^ 20 then i + 1 else i)) ∧
    (∀ index, (index = 0 ∨ index ≠ 0x10 ∧ s.root.log.length < index) → ∃ t, exec (.spdmRequest index) s = .next t ∧ Says s t none) ∧
    ∃ t, exec .keyExchange s = .next t ∧ SameMemory s t ∧ (i < 2 ^ 20 → t.link.session = true ∧ t.root.identityIndex = i + 1)) ∧
  (∀ (s : State) (fn : Nat), s.link.session = true → s.root.recovery = false → fn < 16 →
    (∃ t, exec (.ideKeyManagement fn false) s = .next t ∧ Insecure s t fn ∧
      ((∀ f, f < 16 → (s.function f).bound = false) → SameMemory s t)) ∧
    ((s.link.functions.filter fun f => f.2.ide && f.1 != fn).length < 8 → ∃ t, exec (.ideKeyManagement fn true) s = .next t ∧
      (t.function fn).ide = true ∧ SameMemory s t)) ∧
  ∀ (s : State) (portC : Bool) (fn : Nat), fn < 16 → ∃ t, exec (.integrityCheckFail portC fn) s = .next t ∧ Insecure s t fn

/-- 15 R405 to R418, R425: host and peer accesses, ports and sessions. -/
def Obligations.LinkAccesses : Prop :=
  Claims.HostAndPeerAccesses ∧ Claims.PortsAndSessions

/-- 15 R428 to R431: the TDISP requests: a lock whose conditions hold, keeping M; a start; a stop, which scrubs the interface's memory and
unlocks it; the report of a locked or running interface; and what sends one to ERROR. Every other request is refused. -/
def Obligations.Interfaces : Prop :=
  (∀ (s : State) (fn : Nat), let f := s.function fn
    let fits := s.link.session = true ∧ s.functionThere fn = true ∧ f.tdi = .unlocked ∧ f.bar ≠ 0 ∧ f.memorySpace = true ∧
      (s.function (s.streamOwner fn)).ide = true ∧ 0 < f.slots.2 ∧ 0 < f.queues.2 ∧ 0 < f.memory.2 ∧
      ∀ n, n < 16 → n ≠ fn → (s.function n).bound = true → rangesMeet f.slots (s.function n).slots = false ∧
        rangesMeet f.queues (s.function n).queues = false ∧ rangesMeet f.memory (s.function n).memory = false
    (fits → ∃ t, exec (.lockInterfaceRequest fn) s = .next t ∧ (t.function fn).tdi = .locked ∧ (t.function fn).lockM = s.root.m ∧
      t.outputs = s.outputs ++ [.answer (some [])] ∧ SameMemory s t) ∧
    (¬ fits → ∃ t, exec (.lockInterfaceRequest fn) s = .next t ∧ Says s t none) ∧
    (s.link.session = true → f.tdi = .locked → ∃ t, exec (.startInterfaceRequest fn) s = .next t ∧ (t.function fn).tdi = .run ∧
      SameMemory s t) ∧
    (s.link.session = false ∨ f.tdi ≠ .locked → ∃ t, exec (.startInterfaceRequest fn) s = .next t ∧ Says s t none) ∧
    (s.link.session = true → f.bound = true → ∃ t, exec (.getDeviceInterfaceReport fn) s = .next t ∧
      Says s t (some (s.interfaceReport fn))) ∧
    (s.link.session = false ∨ f.bound = false → ∃ t, exec (.getDeviceInterfaceReport fn) s = .next t ∧ Says s t none) ∧
    (s.link.session = false ∨ f.tdi = .unlocked → ∃ t, exec (.stopInterfaceRequest fn) s = .next t ∧ Says s t none) ∧
    (s.link.session = true → f.tdi ≠ .unlocked → ∃ t, exec (.stopInterfaceRequest fn) s = .next t ∧ (t.function fn).tdi = .unlocked ∧
      ∀ a, f.memory.1 ≤ a → a < f.memory.1 + f.memory.2 → Memory.read t.local_ a = 0)) ∧
  (∀ (s : State) (fn : Nat), (fn < 16 → (s.function fn).bound = true →
      ∃ t, exec (.functionLevelReset fn) s = .next t ∧ (t.function fn).tdi = .error) ∧
    ∀ f, f < 16 → (s.function f).bound = true → ∃ t, exec (.functionLevelReset 0) s = .next t ∧ (t.function f).tdi = .error) ∧
  ∀ (s : State) (fn item v : Nat), fn < 16 → s.root.stage.isSome = true → s.root.recovery = false → (s.function fn).bound = true →
    (item ≤ 1 ∨ (item = 3 ∨ item = 4) ∧ (s.function fn).config item = 1 ∧ v % 2 = 0 →
      ∃ t, exec (.hostConfigWrite fn item v) s = .next t ∧ (t.function fn).tdi = .error ∧
        (t.function fn).config item = (s.function fn).config item) ∧
    (item = 12 → ∃ t, exec (.hostConfigWrite fn item v) s = .next t ∧ (t.function fn).msixEnable = natBit v 0 ∧
      (t.function fn).tdi = (s.function fn).tdi ∧ SameMemory s t) ∧
    (item = 13 → ∃ t, exec (.hostConfigWrite fn item v) s = .next t ∧ (t.function fn).msixMask = natBit v 0 ∧
      (t.function fn).tdi = (s.function fn).tdi ∧ SameMemory s t)

/-! ### The root controller (01, 19) -/

namespace Sys2Proof.Claims

/-- The base images that may start: signature verified, version at least the floor (R480). -/
def mayStart (r : Root) (i : Image) : Prop := i.verified = true ∧ r.floor ≤ i.version

/-- An event of a cause stands in a core's queue or is held there. -/
def Noticed (t : State) (core : Nat) (c : Cause) : Prop :=
  (∃ e ∈ (t.core core).evq, e.cause = c) ∨ ∃ e, .event e ∈ (t.core core).held ∧ e.cause = c

/-- The bytes of region i of Table 19-5 are clear: HBM, SRAMs, the hold-up store, the service memories, the customer slot. -/
def Clear (t : State) (i : Nat) : Prop :=
  (i = 0 → t.local_ = [] ∧ t.ueLocal = []) ∧
  (i = 1 → t.strands = [] ∧ t.cohorts = [] ∧ t.monitors = [] ∧ ∀ c, (t.core c).tile = [] ∧ (t.core c).accs = [] ∧ (t.core c).l1 = []) ∧
  (i = 2 → t.guard.data = [] ∧ t.guard.header = [] ∧ t.guard.held = false ∧ t.guard.shares = []) ∧
  (i = 3 → t.root.running = false ∧ t.root.service = []) ∧
  (i = 4 → t.root.customer = none)

/-- The supervisor strands stand at the word of an entry point, all lanes in one entry, in a firmware address space. -/
def AtEntry (t : State) (root entry : Nat) : Prop :=
  t.fwRoot = root % 2 ^ 64 ∧ ∀ c, c < 192 → (t.core c).supStopped = false ∧
    (t.strand (2 ^ 64 + c)).sup = true ∧ (t.strand (2 ^ 64 + c)).frontier =
      [{ mask := BitVec.allOnes 64, pc := BitVec.ofNat 48 (entry % 2 ^ 48 / 4 * 4) }]

end Sys2Proof.Claims

/-- 19 R479 to R482, 00 R2, 17 R448, 13 R349 (the entry point and root of the supervisor strands: log 4): ROM starts at power-good and measures itself
and the base image, or recovers; stage 1 needs a base image; stage 2 sets every core's maps and starts the supervisor
strands; a stage that fails leaves the device in the one before. Firmware is stored in its slots and activated while no
context slot is active; a customer image runs only in LEASED, and the base image where it does not. -/
def Sys2Proof.Claims.StagedStart : Prop :=
  (∀ s : State, s.root.stage = none → ∃ t, exec .powerGood s = .next t ∧ t.root.stage = some 0 ∧ SameMemory s t ∧
    (t.root.recovery = true ↔ ¬ mayStart s.root s.root.slotA ∧ ¬ mayStart s.root s.root.slotB) ∧
    (t.root.recovery = true → t.root.log.length = 1) ∧ (t.root.recovery = false → t.root.log.length = 2) ∧
    .stepping 0xB1 ∈ t.outputs) ∧
  (∀ s : State, s.root.hold = false → s.guard.sequence = .none →
    (s.root.stage = some 0 → s.root.recovery = false →
      (∃ t, exec (.stage1 true) s = .next t ∧ t.root.stage = some 1 ∧ SameMemory s t ∧
        t.root.lease = (if s.root.lease = .revoking then .scrubbing else s.root.lease)) ∧
      ∃ t, exec (.stage1 false) s = .next t ∧ t = { s with outputs := s.outputs ++ [.stageFailed 1] }) ∧
    (s.root.stage = some 0 → s.root.recovery = true → ∀ ok, exec (.stage1 ok) s = .next s) ∧
    (s.root.stage = some 1 → s.root.revokeLater = false → ∀ root entry,
      (∃ t, exec (.stage2 true root entry) s = .next t ∧ t.root.stage = some 2 ∧ t.stage2At = s.now ∧ AtEntry t root entry ∧
        ∀ c, c < 192 → (t.core c).carve = 0 ∧ (t.core c).cmap = cmapWord (Tab.get [] s.root.columns c) ∧
          ∀ b, b < 4 → t.lmapOf c b = startMap (Tab.get [] s.root.lanes (4 * c + b)) ∧
            t.lfailOf c b = lfailWord (Tab.get [] s.root.lanes (4 * c + b))) ∧
      ∃ t, exec (.stage2 false root entry) s = .next t ∧ t = { s with outputs := s.outputs ++ [.stageFailed 2] })) ∧
  (∀ (s : State) (slot version size digest : Nat) (v : Bool), s.root.stage.isSome = true →
    let i : Image := { version := version, size := size, digest := digest, verified := v }
    ∃ t, exec (.firmwareUpdate slot version size digest v) s = .next t ∧ SameMemory s t ∧
      (slot = 0 → t.root.slotA = i ∧ t.root.slotB = s.root.slotB) ∧ (slot = 1 → t.root.slotB = i ∧ t.root.slotA = s.root.slotA) ∧
      (slot = 2 → s.root.recovery = false → s.link.up.contains 0 = true → size ≤ 2 ^ 25 →
        t.root.customer = some { i with verified := false })) ∧
  ∀ (s : State) (root entry : Nat), s.acting = true →
    (s.contexts ≠ [] → ∃ t, exec (.activateFirmware root entry) s = .next t ∧ Says s t (some [1])) ∧
    (s.contexts = [] → ∃ t, exec (.activateFirmware root entry) s = .next t ∧ SameMemory s t ∧
      (let runs := if s.root.customer.isSome = true ∧ s.root.lease = .leased then (root, entry) else s.root.base
       AtEntry t runs.1 runs.2) ∧
      t.outputs = s.outputs ++ [.answer (some [0])])

/-- 01 R18, 16 R442, R443: an alarm at its threshold reaches every core and fires its source; a trip makes the device hold, its matrix
engines beginning nothing more, but in a power-fail sequence it is recorded only and the sequence goes on; a reset out of the hold starts ROM again with HBM kept; a collapse of the rail loses it. -/
def Sys2Proof.Claims.PowerAndHeat : Prop :=
  (∀ (s : State) (temp : Nat), s.running = true →
    (s.root.threshold ≤ temp → ∃ t, exec (.thermalAlarm temp) s = .next t ∧ (∀ c, c < 192 → Noticed t c .thermalAlarm) ∧
      Fired s t 0x220 ∧ SameMemory s t) ∧
    (temp < s.root.threshold → exec (.thermalAlarm temp) s = .next s)) ∧
  (∀ (s : State) (watts : Nat), s.running = true →
    (min s.root.powerLimit 5400 < watts → ∃ t, exec (.powerAlarm watts) s = .next t ∧
      (∀ c, c < 192 → Noticed t c .powerAlarm ∧ (t.core c).powerAlarm = true) ∧ Fired s t 0x221 ∧ SameMemory s t) ∧
    (watts ≤ min s.root.powerLimit 5400 → exec (.powerAlarm watts) s = .next s)) ∧
  (∀ s : State, ∃ t, exec .powerAlarmEnd s = .next t ∧ (∀ c, (t.core c).powerAlarm = false ∧ (t.core c).mxn = false) ∧ SameMemory s t) ∧
  (∀ s : State, s.root.stage.isSome = true → ∃ t, exec .thermalTrip s = .next t ∧ t.root.tripped = true ∧ SameMemory s t ∧
    ((s.guard.sequence = .none ∨ s.guard.sequence = .ended) → t.root.hold = true ∧
      ∀ c, (t.core c).mxOps = (s.core c).mxOps.take 1) ∧
    (s.guard.sequence ≠ .none → s.guard.sequence ≠ .ended → t.root.hold = s.root.hold ∧ t.cores = s.cores ∧
      t.guard.sequence = s.guard.sequence ∧ t.guard.tripped = true)) ∧
  (∀ s : State, s.root.hold = true → (s.guard.sequence = .none ∨ s.guard.sequence = .ended) →
    ∃ t, exec .resetDevice s = .next t ∧ t.root.stage = some 0 ∧ t.root.hold = false ∧ t.local_ = s.local_ ∧ t.strands = [] ∧
      t.cohorts = [] ∧ t.guard.held = s.guard.held ∧ t.guard.epoch = s.guard.epoch ∧ t.root.lease = s.root.lease) ∧
  ∀ s : State, (s.guard.sequence ≠ .none ∨ s.root.stage = none ∨ s.root.tripped = true ∨ s.root.hold = true) →
    ∃ t, exec .railCollapse s = .next t ∧ t.root.stage = none ∧ t.local_ = [] ∧ t.strands = [] ∧ t.cohorts = [] ∧
      t.guard.held = (s.guard.held || decide (s.guard.sequence ≠ .none) && !s.guard.noLog)

/-- 19 R479 to R482, 01 R18, 16 R442, R443: the staged start, alarms, trips and resets. -/
def Obligations.StartAndPower : Prop :=
  Claims.StagedStart ∧ Claims.PowerAndHeat

/-- 19 R484 to R490, Table 19-5: the lease commands, in a session of the operator root once the lease record has been read, in the
states that take them, a refusal with status 2 in the others, and no status without such a session (log 121); revocation tells every core, and its deadline ends every context; a scrub leaves what it covered clear, the floor 0, a record, and the
state READY, or VACANT with status 2. -/
def Sys2Proof.Claims.Leases : Prop :=
  (∀ (s : State) (n : Nat), (s.root.stage = some 1 ∨ s.root.stage = some 2) → s.root.session ≠ some s.root.operatorRoot →
    ∀ i ∈ [Instr.getState, .startScrub n, .grant n, .revoke, .getRecord], ∃ t, exec i s = .next t ∧ Says s t none) ∧
  (∀ s : State, (s.root.stage = some 1 ∨ s.root.stage = some 2) → s.root.session = some s.root.operatorRoot →
    (∃ t, exec .getState s = .next t ∧ Says s t (some [s.root.lease.code, s.root.leaseId, s.root.scrubSeq])) ∧
    (∀ r, s.root.record = some r → ∃ t, exec .getRecord s = .next t ∧ Says s t (some [0, r.bytes])) ∧
    (s.root.record = none → 2 ^ 40 ≤ s.root.recordIndex → ∃ t, exec .getRecord s = .next t ∧ Says s t (some [4]))) ∧
  (∀ (s : State) (n : Nat), (s.root.stage = some 1 ∨ s.root.stage = some 2) → s.root.session = some s.root.operatorRoot →
    ((s.root.lease = .vacant ∨ s.root.lease = .ready) → ∃ t, exec (.startScrub n) s = .next t ∧ t.root.lease = .scrubbing ∧
      t.root.nonce = n % 2 ^ 256 ∧ t.outputs = s.outputs ++ [.answer (some [0])] ∧ SameMemory s t) ∧
    (¬ (s.root.lease = .vacant ∨ s.root.lease = .ready) → ∃ t, exec (.startScrub n) s = .next t ∧ Says s t (some [2])) ∧
    (s.root.lease = .ready → ∃ t, exec (.grant n) s = .next t ∧ t.root.lease = .leased ∧ t.root.leaseId = n % 2 ^ 128 ∧
      t.root.log.length = s.root.log.length + 1 ∧ t.outputs = s.outputs ++ [.answer (some [0])] ∧
      ((∀ q ∈ s.disp.queues, q.2.en = false) → SameMemory s t)) ∧
    (s.root.lease ≠ .ready → ∃ t, exec (.grant n) s = .next t ∧ Says s t (some [2])) ∧
    (s.root.lease ≠ .leased → ∃ t, exec .revoke s = .next t ∧ Says s t (some [2])) ∧
    (s.root.lease = .leased → s.acting = false → ∃ t, exec .revoke s = .next t ∧ t.root.revokeLater = true ∧
      t.root.lease = .leased ∧ t.outputs = s.outputs ++ [.answer (some [0])] ∧ SameMemory s t) ∧
    (s.root.lease = .leased → s.acting = true → (∀ q ∈ s.disp.queues, natBit (s.queueWord q.1 0x20) 9 = false) → ∃ t, exec .revoke s = .next t ∧ t.root.lease = .revoking ∧
      t.root.revokedAt = s.now ∧ t.root.nonce ≠ s.root.nonce ∧ t.monitors = [] ∧ (∀ c, c < 192 → Noticed t c .leaseRevocation) ∧
      (t.claim 0x224).cnt = ((s.claim 0x224).cnt + 1) % 2 ^ 32 ∧ SameMemory s t)) ∧
  (∀ s : State, s.running = true → s.root.lease = .revoking → s.guard.sequence = .none → 11000000 ≤ s.now - s.root.revokedAt →
    ∃ t, exec .revokeDeadline s = .next t ∧ t.root.lease = .scrubbing ∧ t.contexts = [] ∧ t.guard.declarations = [] ∧
      t.root.running = false ∧ (∀ x ∈ t.strands, x.2.sup = false) ∧ ∀ f, f < 16 → (t.function f).bound = false) ∧
  ∀ (s : State) (lines : List Nat) (covered : Nat), s.running = true → s.root.lease = .scrubbing → s.guard.sequence = .none →
    let bad := (distinct lines).filter fun l => decide (l < 2 ^ 35)
    ∃ t, exec (.scrubComplete lines covered) s = .next t ∧ t.root.scrubSeq = s.root.scrubSeq + 1 ∧ t.disp.floor = 0 ∧
      (∀ i, i < 6 → natBit covered i = true → Clear t i) ∧ (∀ l ∈ bad, l ∈ t.root.retired) ∧
      (covered % 64 ≠ 63 ∨ 4096 < t.root.retired.length → t.root.lease = .vacant) ∧
      (covered % 64 = 63 → t.root.retired.length ≤ 4096 → t.root.lease = .ready) ∧
      (s.root.recordIndex < 2 ^ 40 → t.root.recordIndex = s.root.recordIndex + 1 ∧ ∃ r, t.root.record = some r ∧
        r.nonce = s.root.nonce ∧ r.failed = bad ∧ r.covered = covered % 64 ∧ r.index = s.root.recordIndex ∧
        r.seq = s.root.scrubSeq + 1 ∧ r.measured = s.root.m ∧
        r.status = (if covered % 64 ≠ 63 ∨ 4096 < t.root.retired.length then 2 else if bad = [] then 0 else 1)) ∧
      (2 ^ 40 ≤ s.root.recordIndex → t.root.record = none)

/-- Tables 15-5, 15-6 and 16-5, 01 R17, R18, 15 R427: what firmware of the service cores writes: registers of the link engine, the policy
note, limits clamped to the safety limits, and the ranges of interfaces that are not locked; in a power-fail sequence only
the policy note, in the slice. -/
def Sys2Proof.Claims.ServiceRegisters : Prop :=
  ∀ (s : State) (block off value : Nat), s.running = true →
    let v := value % 2 ^ 64
    (s.guard.sequence ≠ .none → (s.guard.sequence ≠ .slice ∨ block ≠ 1) → exec (.registerWrite block off value) s = .next s) ∧
    (s.guard.sequence = .none → block = 0 → ∃ t, exec (.registerWrite block off value) s = .next t ∧ SameMemory s t ∧
      (off = 0x00 → t.link.intfwd = max 10 (min 10000 v)) ∧ (off = 0x10 → t.link.prt = v % 2 ^ 52 / 2 ^ 13 * 2 ^ 13) ∧
      (off = 0x18 → t.link.pwbase = v % 2 ^ 42 / 128 * 128) ∧ (off = 0x20 → t.link.pwlimit = v % 2 ^ 42 / 128 * 128) ∧
      (off = 0x28 → t.link.mbb = v % 2 ^ 52 / 2 ^ 20 * 2 ^ 20) ∧
      (off = 0x30 ∨ off = 0x08 → t = s) ∧
      ∀ i, i < 1024 → off = 0x10000 + 8 * i → let c := t.claim i
        c.fn = v / 2 ^ 52 % 2 ^ 4 ∧ c.vec = v / 2 ^ 40 % 2 ^ 12 ∧ c.sct = v / 2 ^ 34 % 4 ∧ c.hc = natBit v 33 ∧ c.sc = natBit v 32 ∧
        c.open_ = (s.claim i).open_ ∧ c.cnt = (s.claim i).cnt) ∧
    (s.guard.sequence = .none ∨ s.guard.sequence = .slice → block = 1 → 0x100 ≤ off → off < 0x200 → off % 8 = 0 →
      ∃ t, exec (.registerWrite block off value) s = .next t ∧ Memory.readN t.guard.note (off - 0x100) 8 = v ∧ SameMemory s t) ∧
    (s.guard.sequence = .none → block = 2 → ∃ t, exec (.registerWrite block off value) s = .next t ∧ SameMemory s t ∧
      (off = 0 → t.root.threshold = min 100 v ∧ (100 < v → t.root.clamps = s.root.clamps + 1)) ∧
      (off = 1 → t.root.powerLimit = min 5400 v ∧ (5400 < v → t.root.clamps = s.root.clamps + 1))) ∧
    (s.guard.sequence = .none → block = 3 →
      (16 ≤ off / 8 ∨ (s.function (off / 8)).tdi ≠ .unlocked → exec (.registerWrite block off value) s = .next s) ∧
      (off / 8 < 16 → (s.function (off / 8)).tdi = .unlocked → ∃ t, exec (.registerWrite block off value) s = .next t ∧
        SameMemory s t ∧ (off % 8 = 4 → (t.function (off / 8)).memory = (v, (s.function (off / 8)).memory.2)) ∧
        (off % 8 = 5 → (t.function (off / 8)).memory = ((s.function (off / 8)).memory.1, v)) ∧
        (off % 8 = 0 → (t.function (off / 8)).slots = (v, (s.function (off / 8)).slots.2)) ∧
        (off % 8 = 3 → (t.function (off / 8)).queues = ((s.function (off / 8)).queues.1, v))))

/-- 19 R484 to R490, 15 Table 15-5: the lease, and what service firmware writes. -/
def Obligations.LeaseAndService : Prop :=
  Claims.Leases ∧ Claims.ServiceRegisters

/-! ### The whole machine: reset, memory, decoding, operands, the step (00, 02, 03, 04) -/

namespace Sys2Proof.Claims

/-- The limits that no setting passes (01 Table 1-6, R18; 14 Table 14-9): the thermal threshold, the power limit, the quantum, and
the ranges of the dispatch registers. -/
structure Limits (s : State) : Prop where
  threshold : s.root.threshold ≤ 100
  power : s.root.powerLimit ≤ 5400
  quantum : 11000 ≤ s.disp.regs.quant.toNat
  latency : 1100 ≤ s.disp.regs.latmax.toNat ∧ s.disp.regs.latmax.toNat ≤ 1100000
  rendezvous : 4096 ≤ s.disp.regs.mrto.toNat ∧ s.disp.regs.mrto.toNat ≤ 1048576
  switching : 1024 ≤ s.disp.regs.sto.toNat ∧ s.disp.regs.sto.toNat ≤ 1048576

/-- Whether a word is of a privileged opcode: class 01, 0x60 to 0x7F (R57). -/
def privilegedWord (w : Word) : Bool := decide (0xE0 ≤ w.toNat / 2 ^ 23) && decide (w.toNat / 2 ^ 23 < 0x100)

/-- Privileged instructions with scalar operands A, B and D (R57). -/
noncomputable def privilegedTable : List (Bool → Bool → Code → Code → Code → Instr) := [.unpark, .sysrp, .tinj, .swapo, .swapi, .vreq,
  .lmapw, .garmShare, .garmRead, .garmRelease, .bpset, .wpset, .intfwAck, .intfwFwd, .intfwRaise, .intfwSend]

/-- A register source that reads empty (R49): a vector-class code that names a declared line or a scalar. -/
def EmptySource (s : State) (c : Code) : Prop :=
  (c.toNat < 0x60 ∧ s.cur.wb + c.toNat < s.cur.nlines ∧ s.cur.vFull.getLsbD (s.cur.wb + c.toNat) = false) ∨
  (0x60 ≤ c.toNat ∧ c.toNat < 0x70 ∧ s.cur.sFull.getLsbD (c.toNat - 0x60) = false)

/-- The worked words of Tables 3-14 and 3-15, and words of other families as their descriptions give them (05 to 19). -/
noncomputable def workedWords : List (Nat × Instr) := [
  (0x00000000, .vadd false false 0 0 0), (0x180705FD, .vaddi 7 2 0x1FD), (0x0E424400, .vpopc true 9 8),
  (0x27A285E4, .vffma .bf16x2 false true 10 11 0x64), (0x12A080E3, .vshflup false true 2 1 0x63), (0x4B050481, .sclz false 20 9),
  (0x8A8000C8, .xfence 3 1 0), (0xC083FFF4, .brz 3 0xFFF4), (0xC3001234, .call 0x1234), (0xC2FFFFFF, .jmp 0x7FFFFF),
  (0xC4A8BEEF, .smovh 40 0xBEEF), (0x70000000, .pget 0 0), (0x78091401, .chkmLfail 9 10), (0x7B02410A, .dcfg false 9 2 10)]

/-- The words of Table 3-14 that raise 0x01. -/
def reservedWords : List Nat := [0xFFFFFFFF, 0x0E200000, 0x36000010, 0x8A800180]

/-- A cycle of a bench begins: the agenda has given it the cycle, and its yields run down (R174). -/
def cycleOf (s : State) (core bench : Nat) (rest : List Agenda) : State := ({ s with agenda := rest } : State).passYields core bench

/-- A strand of a bench is about to run a word: it comes first in the order of its bench, no replay takes the slot before it (none
does before a supervisor strand, 17 R456), its candidate entry may issue and meets no
comparator, and the fetch gives the word. The state in which it runs is given. -/
structure Runs (s : State) (core bench : Nat) (rest : List Agenda) (k : Nat) (others : List Nat) (s1 : State) (e : Entry) (w : Word) :
    Prop where
  agenda : s.agenda = .bench core bench :: rest
  acting : s.acting = true
  order : ({ s with agenda := rest } : State).benchOrder core bench = k :: others
  first : ({ s with agenda := rest } : State).replaysFirst core bench = false ∨ (2 ^ 64 ≤ k ∧ ∀ x ∈ others, x < 2 ^ 64)
  entry : candidate? ((cycleOf s core bench rest).select k).cur = some e
  going : e.parked = false
  posted : ((cycleOf s core bench rest).select k).cur.frontier.all (fun x => !x.pending) = true
  awake : ((cycleOf s core bench rest).select k).cur.waitAt e.pc = none
  bound : ((cycleOf s core bench rest).select k).cur.bound = none
  points : ((cycleOf s core bench rest).select k).pointsAt e = []
  skips : ((cycleOf s core bench rest).select k).curCohort.skip = false
  fetch : ((cycleOf s core bench rest).select k).fetchWord ((cycleOf s core bench rest).select k).cur e.pc = (s1, .word w)

/-- What follows the issue of strand k in a cycle b of its bench, which leads to t: the other strands of the bench report what
holds them back (R162), the ready cycles are counted (R152), a degraded bench takes a second cycle (R154), and time passes. -/
noncomputable def afterIssue (b : State) (core bench k : Nat) (others : List Nat) (t : State) : State :=
  let u := others.foldl (fun u x => u.report b x) t
  if (u.lmapOf core bench).getLsbD 63 then
    (((u.countReady core bench 2 (k :: others) (some k)).passYields core bench).elapse 1).elapse 1
  else (u.countReady core bench 1 (k :: others) (some k)).elapse 1

end Sys2Proof.Claims

/-- 14 Table 14-9, 15 Tables 15-5 and 15-6, 18 Table 18-3, 16 R433, 13 Table 13-3: the registers after reset, for every core, source and
PASID; all lists of events, commands and gangs are empty. -/
def Obligations.ResetValues : Prop :=
  let s := State.reset
  (∀ p ∈ [(0, 0), (1, 0), (2, 11000), (3, 0x0101010101010101), (4, 11000000), (5, 8800), (6, 65536), (7, 65536), (8, 7), (9, 0)],
    dispatchOf s p.1 = BitVec.ofNat 64 p.2) ∧
  (s.link.intfwd = 50 ∧ s.link.prt = 0 ∧ s.link.pwbase = 0 ∧ s.link.pwlimit = 0 ∧ s.link.mbb = 0 ∧ s.link.lostmsi = 0) ∧
  (∀ i, let c := s.claim i
    c.open_ = false ∧ c.hc = true ∧ c.sc = true ∧ c.fn = 0 ∧ c.vec = 0 ∧ c.sct = 0 ∧ c.cnt = 0) ∧
  (∀ core n, n ≤ 9 → traceOf s core n = if n = 2 ∨ n = 6 then 4 else 0) ∧
  (∀ pasid, s.guard.share pasid = 0) ∧ s.guard.declarations = [] ∧ s.guard.nextHandle = 1 ∧ s.disp.floor = 0 ∧
  ∀ core, (s.core core).evq = [] ∧ (s.core core).held = [] ∧ (s.core core).frb = 0 ∧ (s.core core).frt = 0 ∧ (s.core core).frh = 0 ∧
    (s.core core).tgt = 0 ∧ (s.core core).latch = [] ∧ (s.core core).mxOps = [] ∧ (s.core core).carve = 0 ∧
    (s.strand (2 ^ 64 + core)).priv = true ∧ (s.strand (2 ^ 64 + core)).wb = 0

/-- 01 R17, R18, 14 Table 14-9: no step sets a limit beyond its safety limit. -/
def Obligations.LimitsKept : Prop := ∀ s t : State, Limits s → step s = .next t → Limits t

/-- The limits hold after reset (the threshold and the power limit: log 2), where every memory has its canonical form. -/
def Obligations.LimitsAtReset : Prop :=
  let s := State.reset
  Limits s ∧ Memory.wf s.local_ = true ∧ Memory.wf s.host = true ∧ Memory.wf s.peer = true ∧ Memory.wf s.guard.data = true ∧
  Memory.wf s.guard.header = true ∧ ∀ c, Memory.wf (s.core c).tile = true

/-- 00 R4: the byte at the lowest address of a multi-byte value holds bits [7:0]; a write of n bytes reads back, changes no other
byte, and two writes of the same place leave what the second leaves. -/
def Obligations.MemoryReadsBack : Prop :=
  ∀ (m : Memory) (a n v : Nat),
    Memory.readN (Memory.writeN m a n v) a n = v % 2 ^ (8 * n) ∧
    (∀ i, i < n → Memory.read (Memory.writeN m a n v) (a + i) = BitVec.ofNat 8 (v / 2 ^ (8 * i))) ∧
    (∀ x, x < a ∨ a + n ≤ x → Memory.read (Memory.writeN m a n v) x = Memory.read m x) ∧
    (∀ u x, Memory.read (Memory.writeN (Memory.writeN m a n u) a n v) x = Memory.read (Memory.writeN m a n v) x) ∧
    ∀ k, k ≤ n → Memory.readN m a n = Memory.readN m a k + 2 ^ (8 * k) * Memory.readN m (a + k) (n - k)

/-- 03 R44, R45: the decoder reads from the word of every well-formed instruction that instruction, with every operand. -/
def Obligations.DecodeOfEncode : Prop :=
  ∀ (i : Instr) (w : Word), i.wellFormed = true → encode i = some w → decode w = .ok i

/-- 03 R45, R48: a word that decodes is the word of its instruction: no bit of it is read past. -/
def Obligations.EncodeOfDecode : Prop :=
  ∀ (i : Instr) (w : Word), decode w = .ok i → encode i = some w ∧ i.wellFormed = true

/-- 03 Tables 3-14 and 3-15: the worked words decode to the instructions they are given for, and the reserved ones to none. -/
def Obligations.WorkedWords : Prop :=
  (∀ p ∈ workedWords, decode (BitVec.ofNat 32 p.1) = .ok p.2 ∧ encode p.2 = some (BitVec.ofNat 32 p.1)) ∧
  ∀ n ∈ reservedWords, ∀ i, decode (BitVec.ofNat 32 n) ≠ .ok i

/-- 03 R59: a step in which a strand runs a fetched word is `exec` of the instruction that the word decodes to, then what the
replay queue, the bench and the clock do after an issue; a word that decodes to none raises 0x01; an event that the agenda names is `exec` of it.
One step is one cycle (log 9). -/
def Obligations.StepRunsDecoded : Prop :=
  (∀ (s : State) (core bench k : Nat) (rest : List Agenda) (others : List Nat) (s1 t : State) (e : Entry) (w : Word) (i : Instr),
    Runs s core bench rest k others s1 e w → decode w = .ok i → exec i { s1 with reached := 0 } = .next t →
    t.cur.stall = 0 →
    let b := cycleOf s core bench rest
    let st := (b.select k).cur
    step s = .next (afterIssue b core bench k others ((t.keepWord st (s1.replayQueue st).length w).tagIssue st e w))) ∧
  (∀ (s : State) (w : Word), (∀ i, decode w ≠ .ok i) → s.runWord w = .next (s.raiseAll .illegalOpcode)) ∧
  ∀ (s : State) (i : Instr) (rest : List Agenda), s.agenda = .event i :: rest →
    ({ s with agenda := rest } : State).admits i = true →
    step s = afterStep (exec i { s with agenda := rest })

/-- 03 R57, R59: a privileged opcode without STAT.PRIV has no effect but a cause for every lane of the entry: 0x03, or a lower one that
the word itself meets; those with scalar operands raise 0x03 whenever their operand codes are accepted, and 0x02 otherwise. -/
def Obligations.PrivilegedOpcodes : Prop :=
  (∀ (i : Instr) (w : Word) (s : State), encode i = some w → privilegedWord w = true → s.cur.priv = false →
    exec i s = .next (s.raiseAll .privileged) ∨ exec i s = .next (s.raiseAll .illegalOperand) ∨
    exec i s = .next (s.raiseAll .illegalOpcode)) ∧
  ∀ i ∈ privilegedTable, ∀ (e g : Bool) (d a b : Code) (s : State), s.cur.priv = false →
    exec (i e g d a b) s = .next (s.raiseAll (if (usesPriv e g d a b).all (fun u => u.accepted) then .privileged else .illegalOperand))

/-- 03 R49, R50, R53, R54, R59, 04 R98, R99, 06 R162 (stated for the vector integer forms): an operand code that its position does not
accept raises 0x02, an empty source with its trap bit 0x04, a line beyond the declared ones 0x05, in that order and with no other
effect; a line that is not resident makes the strand wait with reason 7, and an empty source or destination with reason 8. -/
def Obligations.OperandChecks : Prop :=
  ∀ p ∈ vectorTable, ∀ (e g : Bool) (d a b : Code) (s : State), s.cur.chk ≠ 1 →
    let us := usesV e g d a b
    let ls := usedLines us s.cur.wb
    let codes := us.all (fun u => u.accepted)
    let traps := (e = true ∧ EmptySource s a) ∨ (g = true ∧ EmptySource s b)
    let declared := ls.all fun n => decide (n < s.cur.nlines)
    (codes = false → exec (p.1 e g d a b) s = .next (s.raiseAll .illegalOperand)) ∧
    (codes = true → traps → exec (p.1 e g d a b) s = .next (s.raiseAll .registerEmpty)) ∧
    (a.toNat < 0x70 → b.toNat < 0x70 → d.toNat < 0x60 → ¬ traps →
      (declared = false → exec (p.1 e g d a b) s = .next (s.raiseAll .windowOverflow)) ∧
      (declared = true → (∃ n ∈ ls, s.cur.absent.getLsbD n = true) → exec (p.1 e g d a b) s = .next (s.stallWith 7)) ∧
      (declared = true → (∀ n ∈ ls, s.cur.absent.getLsbD n = false) →
        (EmptySource s a ∨ EmptySource s b ∨ s.cur.vFull.getLsbD (s.cur.wb + d.toNat) = false) →
        exec (p.1 e g d a b) s = .next (s.stallWith 8)))

/-- 02 R28, 03 R51, R52, Tables 3-3 and 3-4, 04 R98, R102, 01 R8: the value that each source code reads, by lane and as a scalar; a 64-bit
operand takes its low half from the even line; a pop takes the oldest entry. -/
def Obligations.OperandValues : Prop :=
  ∀ (c : Code) (s : State) (l : Nat), l < 64 → let n := c.toNat
    let st := s.cur
    let lane := if st.chk = 2 then l % 32 else l
    let threads := if st.chk = 2 then 32 else 64
    (n < 0x60 → laneOf (s.vsrc c) l = laneOf (st.line (st.wb + n)) l ∧ ((st.line (st.wb + n)).length = 64 →
      (st.line (st.wb + n + 1)).length = 64 →
      ((s.vsrc64 c).getD l 0).toNat = (laneOf (st.line (st.wb + n)) l).toNat + 2 ^ 32 * (laneOf (st.line (st.wb + n + 1)) l).toNat)) ∧
    (0x60 ≤ n → n < 0x70 → laneOf (s.vsrc c) l = BitVec.ofNat 32 (st.scalar (n - 0x60)).toNat ∧
      (s.vsrc64 c).getD l 0 = st.scalar (n - 0x60) ∧ s.usrc c = st.scalar (n - 0x60)) ∧
    (n < 0x40 → s.ssrc c = st.scalar n) ∧
    (n = 0x74 → st.sup = false → ∀ x q, (s.cohort st.ccb).mailbox = x :: q → laneOf (s.vsrc c) l = laneOf x l ∧
      s.ssrc c = BitVec.ofNat 64 ((laneOf x 0).toNat + (laneOf x 1).toNat * 2 ^ 32)) ∧
    (n = 0x78 → laneOf (s.vsrc c) l = 0 ∧ s.ssrc c = 0) ∧
    (n = 0x79 → laneOf (s.vsrc c) l = BitVec.ofNat 32 lane ∧ s.ssrc c = 0) ∧
    (n = 0x7A → laneOf (s.vsrc c) l = BitVec.ofNat 32 st.sidx ∧ s.ssrc c = BitVec.ofNat 64 st.sidx) ∧
    (n = 0x7B → laneOf (s.vsrc c) l = BitVec.ofNat 32 (st.sidx * threads + lane) ∧ s.ssrc c = BitVec.ofNat 64 (st.sidx * threads)) ∧
    (n = 0x7C → laneOf (s.vsrc c) l = 1 ∧ s.ssrc c = 1) ∧
    (n = 0x7D → laneOf (s.vsrc c) l = 0x3F800000 ∧ s.ssrc c = 0x3F800000) ∧
    (n = 0x7E → laneOf (s.vsrc c) l = BitVec.allOnes 32 ∧ s.ssrc c = BitVec.allOnes 64 ∧ (s.vsrc64 c).getD l 0 = BitVec.allOnes 64)

end
end

