-- ==== Sys2Proof/Laws/Tab.lean ====
section
/-! SUPPORT. The laws of tables and memories. -/

namespace Sys2Proof.Machine

theorem Tab.get_put {α : Type} (d : α) (t : Tab α) (x y : Nat) (v : α) :
    Tab.get d (Tab.put t x v) y = if y = x then v else Tab.get d t y := by
  induction t with
  | nil => simp [Tab.put, Tab.get]
  | cons h t ih =>
    obtain ⟨k, w⟩ := h
    by_cases h1 : x < k
    · simp [Tab.put, h1, Tab.get]
    · by_cases h2 : x = k
      · subst h2
        by_cases h3 : y = x <;> simp [Tab.put, Tab.get, h3]
      · by_cases h3 : y = k
        · subst h3
          have : ¬ y = x := fun h => h2 h.symm
          simp [Tab.put, h1, h2, Tab.get, this]
        · simp [Tab.put, h1, h2, Tab.get, h3, ih]

theorem Tab.get_del {α : Type} (d : α) (t : Tab α) (x y : Nat) :
    Tab.get d (Tab.del t x) y = if y = x then d else Tab.get d t y := by
  induction t with
  | nil => simp [Tab.del, Tab.get]
  | cons h t ih =>
    obtain ⟨k, w⟩ := h
    by_cases h2 : x = k
    · subst h2
      by_cases h3 : y = x <;> simp_all [Tab.del, Tab.get]
    · by_cases h3 : y = k
      · subst h3
        have : ¬ y = x := fun h => h2 h.symm
        simp [Tab.del, h2, Tab.get, this]
      · simp [Tab.del, h2, Tab.get, h3, ih]

theorem Tab.get_set {α : Type} [DecidableEq α] (d : α) (t : Tab α) (x y : Nat) (v : α) :
    Tab.get d (Tab.set d t x v) y = if y = x then v else Tab.get d t y := by
  unfold Tab.set
  by_cases h : v = d
  · simp [h, Tab.get_del]
  · simp [h, Tab.get_put]

theorem Tab.has_put {α : Type} (t : Tab α) (x y : Nat) (v : α) :
    Tab.has (Tab.put t x v) y = (y == x || Tab.has t y) := by
  induction t with
  | nil => simp [Tab.put, Tab.has]
  | cons h t ih =>
    obtain ⟨k, w⟩ := h
    by_cases h1 : x < k
    · simp [Tab.put, h1, Tab.has]
    · by_cases h2 : x = k
      · subst h2; simp [Tab.put, Tab.has]
      · simp [Tab.put, h1, h2, Tab.has, ih, Bool.or_left_comm]

/-! ### Memories -/

theorem Memory.read_write (m : Memory) (a b : Nat) (v : Byte) :
    Memory.read (Memory.write m a v) b = if b = a then v else Memory.read m b := by
  simp [Memory.read, Memory.write, Tab.get_set]

theorem Memory.read_writeN (m : Memory) (a n v b : Nat) :
    Memory.read (Memory.writeN m a n v) b =
      if a ≤ b ∧ b < a + n then BitVec.ofNat 8 (v / 256 ^ (b - a)) else Memory.read m b := by
  induction n generalizing m a v with
  | zero => simp only [Memory.writeN]; rw [if_neg (by omega)]
  | succ n ih =>
    simp only [Memory.writeN, ih, Memory.read_write]
    by_cases h1 : b = a
    · subst h1
      rw [if_neg (by omega), if_pos rfl, if_pos (by omega)]; simp
    · by_cases h2 : a + 1 ≤ b ∧ b < a + 1 + n
      · rw [if_pos h2, if_pos (by omega)]
        have : b - a = (b - (a + 1)) + 1 := by omega
        rw [this, Nat.pow_succ, Nat.mul_comm, Nat.div_div_eq_div_mul]
      · rw [if_neg h2, if_neg h1, if_neg (by omega)]

theorem Memory.readN_congr (m m' : Memory) (a n : Nat)
    (h : ∀ b, a ≤ b → b < a + n → Memory.read m b = Memory.read m' b) : Memory.readN m a n = Memory.readN m' a n := by
  induction n generalizing a with
  | zero => rfl
  | succ n ih =>
    simp only [Memory.readN]
    rw [h a (by omega) (by omega), ih (a + 1) fun b h1 h2 => h b (by omega) (by omega)]

/-- What was written is read back, modulo 2^(8n). -/
theorem Memory.readN_writeN (m : Memory) (a n v : Nat) : Memory.readN (Memory.writeN m a n v) a n = v % 256 ^ n := by
  induction n generalizing m a v with
  | zero => simp [Memory.readN, Nat.mod_one]
  | succ n ih =>
    simp only [Memory.readN, Memory.writeN, ih, Memory.read_writeN, Memory.read_write]
    rw [if_neg (by omega)]
    simp only [if_true, BitVec.toNat_ofNat]
    have h : (256 : Nat) ^ (n + 1) = 256 * 256 ^ n := by rw [Nat.pow_succ, Nat.mul_comm]
    rw [h, Nat.mod_mul]

/-- A write elsewhere changes no byte read. -/
theorem Memory.readN_writeN_of_disjoint (m : Memory) (a n v b k : Nat) (h : b + k ≤ a ∨ a + n ≤ b) :
    Memory.readN (Memory.writeN m a n v) b k = Memory.readN m b k :=
  Memory.readN_congr _ _ _ _ fun c h1 h2 => by rw [Memory.read_writeN, if_neg (by omega)]

/-! ### The canonical form -/

/-- Keys strictly rising. -/
def Tab.rising {α : Type} : Tab α → Prop
  | [] => True
  | (k, _) :: t => (∀ x ∈ t, k < x.1) ∧ Tab.rising t

theorem Tab.mem_put {α : Type} (t : Tab α) (x : Nat) (v : α) (y : Nat × α) (h : y ∈ Tab.put t x v) : y = (x, v) ∨ y ∈ t := by
  induction t with
  | nil => exact .inl (List.mem_singleton.1 h)
  | cons a t ih =>
    obtain ⟨k, w⟩ := a
    unfold Tab.put at h
    split at h
    · simpa using h
    · split at h
      · rename_i h2
        subst h2
        simp only [List.mem_cons] at h ⊢
        tauto
      · simp only [List.mem_cons] at h ⊢
        rcases h with h | h
        · tauto
        · have := ih h; tauto

theorem Tab.mem_del {α : Type} (t : Tab α) (x : Nat) (y : Nat × α) (h : y ∈ Tab.del t x) : y ∈ t := by
  induction t with
  | nil => exact h
  | cons a t ih =>
    obtain ⟨k, w⟩ := a
    unfold Tab.del at h
    split at h
    · exact List.mem_cons_of_mem _ (ih h)
    · simp only [List.mem_cons] at h ⊢
      rcases h with h | h
      · exact .inl h
      · exact .inr (ih h)

theorem Tab.rising_put {α : Type} (t : Tab α) (x : Nat) (v : α) (h : Tab.rising t) : Tab.rising (Tab.put t x v) := by
  induction t with
  | nil => simp [Tab.put, Tab.rising]
  | cons a t ih =>
    obtain ⟨k, w⟩ := a
    obtain ⟨h1, h2⟩ := h
    unfold Tab.put
    split
    · refine ⟨fun y hy => ?_, h1, h2⟩
      rcases List.mem_cons.1 hy with rfl | hy
      · assumption
      · have := h1 y hy; omega
    · split
      · rename_i h3; subst h3; exact ⟨h1, h2⟩
      · refine ⟨fun y hy => ?_, ih h2⟩
        rcases Tab.mem_put t x v y hy with rfl | hy
        · show k < x; omega
        · exact h1 y hy

theorem Tab.rising_del {α : Type} (t : Tab α) (x : Nat) (h : Tab.rising t) : Tab.rising (Tab.del t x) := by
  induction t with
  | nil => simp [Tab.del, Tab.rising]
  | cons a t ih =>
    obtain ⟨k, w⟩ := a
    obtain ⟨h1, h2⟩ := h
    unfold Tab.del
    split
    · exact ih h2
    · exact ⟨fun y hy => h1 y (Tab.mem_del t x y hy), ih h2⟩

theorem Memory.wf_iff (m : Memory) : Memory.wf m = true ↔ Tab.rising m ∧ ∀ x ∈ m, x.2 ≠ 0 := by
  induction m with
  | nil => simp [Memory.wf, Tab.rising]
  | cons a t ih =>
    obtain ⟨k, b⟩ := a
    cases t with
    | nil => simp [Memory.wf, Tab.rising]
    | cons c t =>
      obtain ⟨k', b'⟩ := c
      simp only [Memory.wf, Bool.and_eq_true, decide_eq_true_eq, bne_iff_ne, ih]
      constructor
      · rintro ⟨⟨h1, h2⟩, h3, h4⟩
        refine ⟨⟨fun y hy => ?_, h3⟩, ?_⟩
        · rcases List.mem_cons.1 hy with rfl | hy
          · exact h1
          · exact Nat.lt_trans h1 (h3.1 y hy)
        · intro y hy
          rcases List.mem_cons.1 hy with rfl | hy
          · exact h2
          · exact h4 y hy
      · rintro ⟨⟨h1, h3⟩, h4⟩
        exact ⟨⟨h1 _ (List.mem_cons_self ..), h4 _ (List.mem_cons_self ..)⟩, h3, fun y hy => h4 y (List.mem_cons_of_mem _ hy)⟩

theorem Memory.wf_write (m : Memory) (a : Nat) (b : Byte) (h : Memory.wf m = true) : Memory.wf (Memory.write m a b) = true := by
  rw [Memory.wf_iff] at h ⊢
  unfold Memory.write Tab.set
  split
  · exact ⟨Tab.rising_del m a h.1, fun x hx => h.2 x (Tab.mem_del m a x hx)⟩
  · rename_i hb
    refine ⟨Tab.rising_put m a b h.1, fun x hx => ?_⟩
    rcases Tab.mem_put m a b x hx with rfl | hx
    · exact hb
    · exact h.2 x hx

/-- Every write keeps the canonical form. -/
theorem Memory.wf_writeN (m : Memory) (a n v : Nat) (h : Memory.wf m = true) : Memory.wf (Memory.writeN m a n v) = true := by
  induction n generalizing m a v with
  | zero => exact h
  | succ n ih => exact ih _ _ _ (Memory.wf_write m a _ h)

theorem Tab.rising_filter {α : Type} (t : Tab α) (p : Nat × α → Bool) (h : Tab.rising t) : Tab.rising (List.filter p t) := by
  induction t with
  | nil => trivial
  | cons a t ih =>
    obtain ⟨k, b⟩ := a
    obtain ⟨h1, h2⟩ := h
    rw [List.filter_cons]
    split
    · exact ⟨fun x hx => h1 x (List.mem_filter.1 hx).1, ih h2⟩
    · exact ih h2

/-- Dropping cells keeps the canonical form. -/
theorem Memory.wf_filter (m : Memory) (p : Host.Cell → Bool) (h : Memory.wf m = true) : Memory.wf (List.filter p m) = true := by
  rw [Memory.wf_iff] at h ⊢
  exact ⟨Tab.rising_filter m p h.1, fun x hx => h.2 x (List.mem_filter.1 hx).1⟩

/-- The memories after reset have it. -/
theorem reset_memories_wf : Memory.wf State.reset.local_ = true ∧ Memory.wf State.reset.host = true ∧ Memory.wf State.reset.peer = true ∧
    Memory.wf State.reset.guard.data = true ∧ Memory.wf State.reset.guard.header = true ∧ Memory.wf State.reset.guard.note = true := by
  decide

/-- Two canonical memories that read alike are the same list. -/
theorem Memory.ext (m m' : Memory) (h : Memory.wf m = true) (h' : Memory.wf m' = true)
    (hr : ∀ a, Memory.read m a = Memory.read m' a) : m = m' := by
  rw [Memory.wf_iff] at h h'
  have low : ∀ (t : Memory) (k : Nat), (∀ x ∈ t, k < x.1) → ∀ a, a ≤ k → Tab.get (0 : Byte) t a = 0 := by
    intro t
    induction t with
    | nil => intros; rfl
    | cons c t ih =>
      obtain ⟨j, w⟩ := c
      intro k hk a ha
      have : k < j := hk (j, w) (List.mem_cons_self ..)
      simp only [Tab.get]
      rw [if_neg (by omega)]
      exact ih k (fun x hx => hk x (List.mem_cons_of_mem _ hx)) a ha
  induction m generalizing m' with
  | nil =>
    cases m' with
    | nil => rfl
    | cons c t =>
      obtain ⟨k, b⟩ := c
      have := hr k
      simp only [Memory.read, Tab.get, if_true] at this
      exact absurd this.symm (h'.2 _ (List.mem_cons_self ..))
  | cons c t ih =>
    obtain ⟨k, b⟩ := c
    cases m' with
    | nil =>
      have := hr k
      simp only [Memory.read, Tab.get, if_true] at this
      exact absurd this (h.2 _ (List.mem_cons_self ..))
    | cons c' t' =>
      obtain ⟨k', b'⟩ := c'
      have hb := h.2 _ (List.mem_cons_self ..)
      have hb' := h'.2 _ (List.mem_cons_self ..)
      have hk : k = k' := by
        rcases Nat.lt_trichotomy k k' with hlt | heq | hgt
        · have := hr k
          simp only [Memory.read, Tab.get, if_true] at this
          rw [if_neg (by omega), low t' k (fun x hx => Nat.lt_trans hlt (h'.1.1 x hx)) k (Nat.le_refl k)] at this
          exact absurd this hb
        · exact heq
        · have := hr k'
          simp only [Memory.read, Tab.get, if_true] at this
          rw [if_neg (by omega), low t k' (fun x hx => Nat.lt_trans hgt (h.1.1 x hx)) k' (Nat.le_refl k')] at this
          exact absurd this.symm hb'
      subst hk
      have hv := hr k
      simp only [Memory.read, Tab.get, if_true] at hv
      subst hv
      congr 1
      refine ih t' ⟨h.1.2, fun x hx => h.2 x (List.mem_cons_of_mem _ hx)⟩
        ⟨h'.1.2, fun x hx => h'.2 x (List.mem_cons_of_mem _ hx)⟩ fun a => ?_
      have ha := hr a
      simp only [Memory.read, Tab.get] at ha ⊢
      by_cases hak : a = k
      · subst hak
        rw [low t a h.1.1 a (Nat.le_refl a), low t' a h'.1.1 a (Nat.le_refl a)]
      · simpa [hak] using ha

end Sys2Proof.Machine
end

