-- ==== Sys2Proof/Laws/State.lean ====
section
/-! SUPPORT. What each update of a state or of a strand leaves alone, one lemma a field, and what it writes. -/

namespace Sys2Proof.Machine

/-! ### Updates of the state -/

@[simp] theorem State.setStrand_local_ (s : State) (k : Nat) (x : Strand) : (s.setStrand k x).local_ = s.local_ := rfl
@[simp] theorem State.setStrand_host (s : State) (k : Nat) (x : Strand) : (s.setStrand k x).host = s.host := rfl
@[simp] theorem State.setStrand_peer (s : State) (k : Nat) (x : Strand) : (s.setStrand k x).peer = s.peer := rfl
@[simp] theorem State.setStrand_cohorts (s : State) (k : Nat) (x : Strand) : (s.setStrand k x).cohorts = s.cohorts := rfl
@[simp] theorem State.setStrand_spans (s : State) (k : Nat) (x : Strand) : (s.setStrand k x).spans = s.spans := rfl
@[simp] theorem State.setStrand_cores (s : State) (k : Nat) (x : Strand) : (s.setStrand k x).cores = s.cores := rfl
@[simp] theorem State.setStrand_slices (s : State) (k : Nat) (x : Strand) : (s.setStrand k x).slices = s.slices := rfl
@[simp] theorem State.setStrand_monitors (s : State) (k : Nat) (x : Strand) : (s.setStrand k x).monitors = s.monitors := rfl
@[simp] theorem State.setStrand_marks (s : State) (k : Nat) (x : Strand) : (s.setStrand k x).marks = s.marks := rfl
@[simp] theorem State.setStrand_disp (s : State) (k : Nat) (x : Strand) : (s.setStrand k x).disp = s.disp := rfl
@[simp] theorem State.setStrand_link (s : State) (k : Nat) (x : Strand) : (s.setStrand k x).link = s.link := rfl
@[simp] theorem State.setStrand_guard (s : State) (k : Nat) (x : Strand) : (s.setStrand k x).guard = s.guard := rfl
@[simp] theorem State.setStrand_root (s : State) (k : Nat) (x : Strand) : (s.setStrand k x).root = s.root := rfl
@[simp] theorem State.setStrand_contexts (s : State) (k : Nat) (x : Strand) : (s.setStrand k x).contexts = s.contexts := rfl
@[simp] theorem State.setStrand_fwRoot (s : State) (k : Nat) (x : Strand) : (s.setStrand k x).fwRoot = s.fwRoot := rfl
@[simp] theorem State.setStrand_ueLocal (s : State) (k : Nat) (x : Strand) : (s.setStrand k x).ueLocal = s.ueLocal := rfl
@[simp] theorem State.setStrand_ueHost (s : State) (k : Nat) (x : Strand) : (s.setStrand k x).ueHost = s.ueHost := rfl
@[simp] theorem State.setStrand_uePeer (s : State) (k : Nat) (x : Strand) : (s.setStrand k x).uePeer = s.uePeer := rfl
@[simp] theorem State.setStrand_outputs (s : State) (k : Nat) (x : Strand) : (s.setStrand k x).outputs = s.outputs := rfl
@[simp] theorem State.setStrand_free (s : State) (k : Nat) (x : Strand) : (s.setStrand k x).free = s.free := rfl
@[simp] theorem State.setStrand_agenda (s : State) (k : Nat) (x : Strand) : (s.setStrand k x).agenda = s.agenda := rfl
@[simp] theorem State.setStrand_now (s : State) (k : Nat) (x : Strand) : (s.setStrand k x).now = s.now := rfl
@[simp] theorem State.setStrand_stage2At (s : State) (k : Nat) (x : Strand) : (s.setStrand k x).stage2At = s.stage2At := rfl
@[simp] theorem State.setStrand_curKey (s : State) (k : Nat) (x : Strand) : (s.setStrand k x).curKey = s.curKey := rfl
@[simp] theorem State.setStrand_turn (s : State) (k : Nat) (x : Strand) : (s.setStrand k x).turn = s.turn := rfl
@[simp] theorem State.setStrand_reached (s : State) (k : Nat) (x : Strand) : (s.setStrand k x).reached = s.reached := rfl
@[simp] theorem State.setCore_local_ (s : State) (k : Nat) (x : Core) : (s.setCore k x).local_ = s.local_ := rfl
@[simp] theorem State.setCore_host (s : State) (k : Nat) (x : Core) : (s.setCore k x).host = s.host := rfl
@[simp] theorem State.setCore_peer (s : State) (k : Nat) (x : Core) : (s.setCore k x).peer = s.peer := rfl
@[simp] theorem State.setCore_strands (s : State) (k : Nat) (x : Core) : (s.setCore k x).strands = s.strands := rfl
@[simp] theorem State.setCore_cohorts (s : State) (k : Nat) (x : Core) : (s.setCore k x).cohorts = s.cohorts := rfl
@[simp] theorem State.setCore_spans (s : State) (k : Nat) (x : Core) : (s.setCore k x).spans = s.spans := rfl
@[simp] theorem State.setCore_slices (s : State) (k : Nat) (x : Core) : (s.setCore k x).slices = s.slices := rfl
@[simp] theorem State.setCore_monitors (s : State) (k : Nat) (x : Core) : (s.setCore k x).monitors = s.monitors := rfl
@[simp] theorem State.setCore_marks (s : State) (k : Nat) (x : Core) : (s.setCore k x).marks = s.marks := rfl
@[simp] theorem State.setCore_disp (s : State) (k : Nat) (x : Core) : (s.setCore k x).disp = s.disp := rfl
@[simp] theorem State.setCore_link (s : State) (k : Nat) (x : Core) : (s.setCore k x).link = s.link := rfl
@[simp] theorem State.setCore_guard (s : State) (k : Nat) (x : Core) : (s.setCore k x).guard = s.guard := rfl
@[simp] theorem State.setCore_root (s : State) (k : Nat) (x : Core) : (s.setCore k x).root = s.root := rfl
@[simp] theorem State.setCore_contexts (s : State) (k : Nat) (x : Core) : (s.setCore k x).contexts = s.contexts := rfl
@[simp] theorem State.setCore_fwRoot (s : State) (k : Nat) (x : Core) : (s.setCore k x).fwRoot = s.fwRoot := rfl
@[simp] theorem State.setCore_ueLocal (s : State) (k : Nat) (x : Core) : (s.setCore k x).ueLocal = s.ueLocal := rfl
@[simp] theorem State.setCore_ueHost (s : State) (k : Nat) (x : Core) : (s.setCore k x).ueHost = s.ueHost := rfl
@[simp] theorem State.setCore_uePeer (s : State) (k : Nat) (x : Core) : (s.setCore k x).uePeer = s.uePeer := rfl
@[simp] theorem State.setCore_outputs (s : State) (k : Nat) (x : Core) : (s.setCore k x).outputs = s.outputs := rfl
@[simp] theorem State.setCore_free (s : State) (k : Nat) (x : Core) : (s.setCore k x).free = s.free := rfl
@[simp] theorem State.setCore_agenda (s : State) (k : Nat) (x : Core) : (s.setCore k x).agenda = s.agenda := rfl
@[simp] theorem State.setCore_now (s : State) (k : Nat) (x : Core) : (s.setCore k x).now = s.now := rfl
@[simp] theorem State.setCore_stage2At (s : State) (k : Nat) (x : Core) : (s.setCore k x).stage2At = s.stage2At := rfl
@[simp] theorem State.setCore_curKey (s : State) (k : Nat) (x : Core) : (s.setCore k x).curKey = s.curKey := rfl
@[simp] theorem State.setCore_turn (s : State) (k : Nat) (x : Core) : (s.setCore k x).turn = s.turn := rfl
@[simp] theorem State.setCore_reached (s : State) (k : Nat) (x : Core) : (s.setCore k x).reached = s.reached := rfl
@[simp] theorem State.setCohort_local_ (s : State) (k : DWord) (x : Cohort) : (s.setCohort k x).local_ = s.local_ := rfl
@[simp] theorem State.setCohort_host (s : State) (k : DWord) (x : Cohort) : (s.setCohort k x).host = s.host := rfl
@[simp] theorem State.setCohort_peer (s : State) (k : DWord) (x : Cohort) : (s.setCohort k x).peer = s.peer := rfl
@[simp] theorem State.setCohort_strands (s : State) (k : DWord) (x : Cohort) : (s.setCohort k x).strands = s.strands := rfl
@[simp] theorem State.setCohort_spans (s : State) (k : DWord) (x : Cohort) : (s.setCohort k x).spans = s.spans := rfl
@[simp] theorem State.setCohort_cores (s : State) (k : DWord) (x : Cohort) : (s.setCohort k x).cores = s.cores := rfl
@[simp] theorem State.setCohort_slices (s : State) (k : DWord) (x : Cohort) : (s.setCohort k x).slices = s.slices := rfl
@[simp] theorem State.setCohort_monitors (s : State) (k : DWord) (x : Cohort) : (s.setCohort k x).monitors = s.monitors := rfl
@[simp] theorem State.setCohort_marks (s : State) (k : DWord) (x : Cohort) : (s.setCohort k x).marks = s.marks := rfl
@[simp] theorem State.setCohort_disp (s : State) (k : DWord) (x : Cohort) : (s.setCohort k x).disp = s.disp := rfl
@[simp] theorem State.setCohort_link (s : State) (k : DWord) (x : Cohort) : (s.setCohort k x).link = s.link := rfl
@[simp] theorem State.setCohort_guard (s : State) (k : DWord) (x : Cohort) : (s.setCohort k x).guard = s.guard := rfl
@[simp] theorem State.setCohort_root (s : State) (k : DWord) (x : Cohort) : (s.setCohort k x).root = s.root := rfl
@[simp] theorem State.setCohort_contexts (s : State) (k : DWord) (x : Cohort) : (s.setCohort k x).contexts = s.contexts := rfl
@[simp] theorem State.setCohort_fwRoot (s : State) (k : DWord) (x : Cohort) : (s.setCohort k x).fwRoot = s.fwRoot := rfl
@[simp] theorem State.setCohort_ueLocal (s : State) (k : DWord) (x : Cohort) : (s.setCohort k x).ueLocal = s.ueLocal := rfl
@[simp] theorem State.setCohort_ueHost (s : State) (k : DWord) (x : Cohort) : (s.setCohort k x).ueHost = s.ueHost := rfl
@[simp] theorem State.setCohort_uePeer (s : State) (k : DWord) (x : Cohort) : (s.setCohort k x).uePeer = s.uePeer := rfl
@[simp] theorem State.setCohort_outputs (s : State) (k : DWord) (x : Cohort) : (s.setCohort k x).outputs = s.outputs := rfl
@[simp] theorem State.setCohort_free (s : State) (k : DWord) (x : Cohort) : (s.setCohort k x).free = s.free := rfl
@[simp] theorem State.setCohort_agenda (s : State) (k : DWord) (x : Cohort) : (s.setCohort k x).agenda = s.agenda := rfl
@[simp] theorem State.setCohort_now (s : State) (k : DWord) (x : Cohort) : (s.setCohort k x).now = s.now := rfl
@[simp] theorem State.setCohort_stage2At (s : State) (k : DWord) (x : Cohort) : (s.setCohort k x).stage2At = s.stage2At := rfl
@[simp] theorem State.setCohort_curKey (s : State) (k : DWord) (x : Cohort) : (s.setCohort k x).curKey = s.curKey := rfl
@[simp] theorem State.setCohort_turn (s : State) (k : DWord) (x : Cohort) : (s.setCohort k x).turn = s.turn := rfl
@[simp] theorem State.setCohort_reached (s : State) (k : DWord) (x : Cohort) : (s.setCohort k x).reached = s.reached := rfl
@[simp] theorem State.setFunction_local_ (s : State) (k : Nat) (x : Function) : (s.setFunction k x).local_ = s.local_ := rfl
@[simp] theorem State.setFunction_host (s : State) (k : Nat) (x : Function) : (s.setFunction k x).host = s.host := rfl
@[simp] theorem State.setFunction_peer (s : State) (k : Nat) (x : Function) : (s.setFunction k x).peer = s.peer := rfl
@[simp] theorem State.setFunction_strands (s : State) (k : Nat) (x : Function) : (s.setFunction k x).strands = s.strands := rfl
@[simp] theorem State.setFunction_cohorts (s : State) (k : Nat) (x : Function) : (s.setFunction k x).cohorts = s.cohorts := rfl
@[simp] theorem State.setFunction_spans (s : State) (k : Nat) (x : Function) : (s.setFunction k x).spans = s.spans := rfl
@[simp] theorem State.setFunction_cores (s : State) (k : Nat) (x : Function) : (s.setFunction k x).cores = s.cores := rfl
@[simp] theorem State.setFunction_slices (s : State) (k : Nat) (x : Function) : (s.setFunction k x).slices = s.slices := rfl
@[simp] theorem State.setFunction_monitors (s : State) (k : Nat) (x : Function) : (s.setFunction k x).monitors = s.monitors := rfl
@[simp] theorem State.setFunction_marks (s : State) (k : Nat) (x : Function) : (s.setFunction k x).marks = s.marks := rfl
@[simp] theorem State.setFunction_disp (s : State) (k : Nat) (x : Function) : (s.setFunction k x).disp = s.disp := rfl
@[simp] theorem State.setFunction_guard (s : State) (k : Nat) (x : Function) : (s.setFunction k x).guard = s.guard := rfl
@[simp] theorem State.setFunction_root (s : State) (k : Nat) (x : Function) : (s.setFunction k x).root = s.root := rfl
@[simp] theorem State.setFunction_contexts (s : State) (k : Nat) (x : Function) : (s.setFunction k x).contexts = s.contexts := rfl
@[simp] theorem State.setFunction_fwRoot (s : State) (k : Nat) (x : Function) : (s.setFunction k x).fwRoot = s.fwRoot := rfl
@[simp] theorem State.setFunction_ueLocal (s : State) (k : Nat) (x : Function) : (s.setFunction k x).ueLocal = s.ueLocal := rfl
@[simp] theorem State.setFunction_ueHost (s : State) (k : Nat) (x : Function) : (s.setFunction k x).ueHost = s.ueHost := rfl
@[simp] theorem State.setFunction_uePeer (s : State) (k : Nat) (x : Function) : (s.setFunction k x).uePeer = s.uePeer := rfl
@[simp] theorem State.setFunction_outputs (s : State) (k : Nat) (x : Function) : (s.setFunction k x).outputs = s.outputs := rfl
@[simp] theorem State.setFunction_free (s : State) (k : Nat) (x : Function) : (s.setFunction k x).free = s.free := rfl
@[simp] theorem State.setFunction_agenda (s : State) (k : Nat) (x : Function) : (s.setFunction k x).agenda = s.agenda := rfl
@[simp] theorem State.setFunction_now (s : State) (k : Nat) (x : Function) : (s.setFunction k x).now = s.now := rfl
@[simp] theorem State.setFunction_stage2At (s : State) (k : Nat) (x : Function) : (s.setFunction k x).stage2At = s.stage2At := rfl
@[simp] theorem State.setFunction_curKey (s : State) (k : Nat) (x : Function) : (s.setFunction k x).curKey = s.curKey := rfl
@[simp] theorem State.setFunction_turn (s : State) (k : Nat) (x : Function) : (s.setFunction k x).turn = s.turn := rfl
@[simp] theorem State.setFunction_reached (s : State) (k : Nat) (x : Function) : (s.setFunction k x).reached = s.reached := rfl
@[simp] theorem State.setClaim_local_ (s : State) (k : Nat) (x : Claim) : (s.setClaim k x).local_ = s.local_ := rfl
@[simp] theorem State.setClaim_host (s : State) (k : Nat) (x : Claim) : (s.setClaim k x).host = s.host := rfl
@[simp] theorem State.setClaim_peer (s : State) (k : Nat) (x : Claim) : (s.setClaim k x).peer = s.peer := rfl
@[simp] theorem State.setClaim_strands (s : State) (k : Nat) (x : Claim) : (s.setClaim k x).strands = s.strands := rfl
@[simp] theorem State.setClaim_cohorts (s : State) (k : Nat) (x : Claim) : (s.setClaim k x).cohorts = s.cohorts := rfl
@[simp] theorem State.setClaim_spans (s : State) (k : Nat) (x : Claim) : (s.setClaim k x).spans = s.spans := rfl
@[simp] theorem State.setClaim_cores (s : State) (k : Nat) (x : Claim) : (s.setClaim k x).cores = s.cores := rfl
@[simp] theorem State.setClaim_slices (s : State) (k : Nat) (x : Claim) : (s.setClaim k x).slices = s.slices := rfl
@[simp] theorem State.setClaim_monitors (s : State) (k : Nat) (x : Claim) : (s.setClaim k x).monitors = s.monitors := rfl
@[simp] theorem State.setClaim_marks (s : State) (k : Nat) (x : Claim) : (s.setClaim k x).marks = s.marks := rfl
@[simp] theorem State.setClaim_disp (s : State) (k : Nat) (x : Claim) : (s.setClaim k x).disp = s.disp := rfl
@[simp] theorem State.setClaim_guard (s : State) (k : Nat) (x : Claim) : (s.setClaim k x).guard = s.guard := rfl
@[simp] theorem State.setClaim_root (s : State) (k : Nat) (x : Claim) : (s.setClaim k x).root = s.root := rfl
@[simp] theorem State.setClaim_contexts (s : State) (k : Nat) (x : Claim) : (s.setClaim k x).contexts = s.contexts := rfl
@[simp] theorem State.setClaim_fwRoot (s : State) (k : Nat) (x : Claim) : (s.setClaim k x).fwRoot = s.fwRoot := rfl
@[simp] theorem State.setClaim_ueLocal (s : State) (k : Nat) (x : Claim) : (s.setClaim k x).ueLocal = s.ueLocal := rfl
@[simp] theorem State.setClaim_ueHost (s : State) (k : Nat) (x : Claim) : (s.setClaim k x).ueHost = s.ueHost := rfl
@[simp] theorem State.setClaim_uePeer (s : State) (k : Nat) (x : Claim) : (s.setClaim k x).uePeer = s.uePeer := rfl
@[simp] theorem State.setClaim_outputs (s : State) (k : Nat) (x : Claim) : (s.setClaim k x).outputs = s.outputs := rfl
@[simp] theorem State.setClaim_free (s : State) (k : Nat) (x : Claim) : (s.setClaim k x).free = s.free := rfl
@[simp] theorem State.setClaim_agenda (s : State) (k : Nat) (x : Claim) : (s.setClaim k x).agenda = s.agenda := rfl
@[simp] theorem State.setClaim_now (s : State) (k : Nat) (x : Claim) : (s.setClaim k x).now = s.now := rfl
@[simp] theorem State.setClaim_stage2At (s : State) (k : Nat) (x : Claim) : (s.setClaim k x).stage2At = s.stage2At := rfl
@[simp] theorem State.setClaim_curKey (s : State) (k : Nat) (x : Claim) : (s.setClaim k x).curKey = s.curKey := rfl
@[simp] theorem State.setClaim_turn (s : State) (k : Nat) (x : Claim) : (s.setClaim k x).turn = s.turn := rfl
@[simp] theorem State.setClaim_reached (s : State) (k : Nat) (x : Claim) : (s.setClaim k x).reached = s.reached := rfl
@[simp] theorem State.tick_local_ (s : State)  : (s.tick).local_ = s.local_ := rfl
@[simp] theorem State.tick_host (s : State)  : (s.tick).host = s.host := rfl
@[simp] theorem State.tick_peer (s : State)  : (s.tick).peer = s.peer := rfl
@[simp] theorem State.tick_strands (s : State)  : (s.tick).strands = s.strands := rfl
@[simp] theorem State.tick_cohorts (s : State)  : (s.tick).cohorts = s.cohorts := rfl
@[simp] theorem State.tick_spans (s : State)  : (s.tick).spans = s.spans := rfl
@[simp] theorem State.tick_cores (s : State)  : (s.tick).cores = s.cores := rfl
@[simp] theorem State.tick_slices (s : State)  : (s.tick).slices = s.slices := rfl
@[simp] theorem State.tick_monitors (s : State)  : (s.tick).monitors = s.monitors := rfl
@[simp] theorem State.tick_marks (s : State)  : (s.tick).marks = s.marks := rfl
@[simp] theorem State.tick_disp (s : State)  : (s.tick).disp = s.disp := rfl
@[simp] theorem State.tick_link (s : State)  : (s.tick).link = s.link := rfl
@[simp] theorem State.tick_guard (s : State)  : (s.tick).guard = s.guard := rfl
@[simp] theorem State.tick_root (s : State)  : (s.tick).root = s.root := rfl
@[simp] theorem State.tick_contexts (s : State)  : (s.tick).contexts = s.contexts := rfl
@[simp] theorem State.tick_fwRoot (s : State)  : (s.tick).fwRoot = s.fwRoot := rfl
@[simp] theorem State.tick_ueLocal (s : State)  : (s.tick).ueLocal = s.ueLocal := rfl
@[simp] theorem State.tick_ueHost (s : State)  : (s.tick).ueHost = s.ueHost := rfl
@[simp] theorem State.tick_uePeer (s : State)  : (s.tick).uePeer = s.uePeer := rfl
@[simp] theorem State.tick_outputs (s : State)  : (s.tick).outputs = s.outputs := rfl
@[simp] theorem State.tick_agenda (s : State)  : (s.tick).agenda = s.agenda := rfl
@[simp] theorem State.tick_now (s : State)  : (s.tick).now = s.now := rfl
@[simp] theorem State.tick_stage2At (s : State)  : (s.tick).stage2At = s.stage2At := rfl
@[simp] theorem State.tick_curKey (s : State)  : (s.tick).curKey = s.curKey := rfl
@[simp] theorem State.tick_turn (s : State)  : (s.tick).turn = s.turn := rfl
@[simp] theorem State.tick_reached (s : State)  : (s.tick).reached = s.reached := rfl
@[simp] theorem State.output_local_ (s : State) (o : Output) : (s.output o).local_ = s.local_ := rfl
@[simp] theorem State.output_host (s : State) (o : Output) : (s.output o).host = s.host := rfl
@[simp] theorem State.output_peer (s : State) (o : Output) : (s.output o).peer = s.peer := rfl
@[simp] theorem State.output_strands (s : State) (o : Output) : (s.output o).strands = s.strands := rfl
@[simp] theorem State.output_cohorts (s : State) (o : Output) : (s.output o).cohorts = s.cohorts := rfl
@[simp] theorem State.output_spans (s : State) (o : Output) : (s.output o).spans = s.spans := rfl
@[simp] theorem State.output_cores (s : State) (o : Output) : (s.output o).cores = s.cores := rfl
@[simp] theorem State.output_slices (s : State) (o : Output) : (s.output o).slices = s.slices := rfl
@[simp] theorem State.output_monitors (s : State) (o : Output) : (s.output o).monitors = s.monitors := rfl
@[simp] theorem State.output_marks (s : State) (o : Output) : (s.output o).marks = s.marks := rfl
@[simp] theorem State.output_disp (s : State) (o : Output) : (s.output o).disp = s.disp := rfl
@[simp] theorem State.output_link (s : State) (o : Output) : (s.output o).link = s.link := rfl
@[simp] theorem State.output_guard (s : State) (o : Output) : (s.output o).guard = s.guard := rfl
@[simp] theorem State.output_root (s : State) (o : Output) : (s.output o).root = s.root := rfl
@[simp] theorem State.output_contexts (s : State) (o : Output) : (s.output o).contexts = s.contexts := rfl
@[simp] theorem State.output_fwRoot (s : State) (o : Output) : (s.output o).fwRoot = s.fwRoot := rfl
@[simp] theorem State.output_ueLocal (s : State) (o : Output) : (s.output o).ueLocal = s.ueLocal := rfl
@[simp] theorem State.output_ueHost (s : State) (o : Output) : (s.output o).ueHost = s.ueHost := rfl
@[simp] theorem State.output_uePeer (s : State) (o : Output) : (s.output o).uePeer = s.uePeer := rfl
@[simp] theorem State.output_free (s : State) (o : Output) : (s.output o).free = s.free := rfl
@[simp] theorem State.output_agenda (s : State) (o : Output) : (s.output o).agenda = s.agenda := rfl
@[simp] theorem State.output_now (s : State) (o : Output) : (s.output o).now = s.now := rfl
@[simp] theorem State.output_stage2At (s : State) (o : Output) : (s.output o).stage2At = s.stage2At := rfl
@[simp] theorem State.output_curKey (s : State) (o : Output) : (s.output o).curKey = s.curKey := rfl
@[simp] theorem State.output_turn (s : State) (o : Output) : (s.output o).turn = s.turn := rfl
@[simp] theorem State.output_reached (s : State) (o : Output) : (s.output o).reached = s.reached := rfl
@[simp] theorem State.tick_free (s : State) : s.tick.free = s.free + 1 := rfl
@[simp] theorem State.output_outputs (s : State) (o : Output) : (s.output o).outputs = s.outputs ++ [o] := rfl

/-! ### Reading a strand, a core, a cohort after an update -/

theorem State.strand_setStrand (s : State) (k j : Nat) (x : Strand) :
    (s.setStrand k x).strand j = if j = k then x else s.strand j := by
  simp [State.strand, State.setStrand, Tab.get_put]
@[simp] theorem State.strand_setStrand_self (s : State) (k : Nat) (x : Strand) : (s.setStrand k x).strand k = x := by
  simp [State.strand_setStrand]
theorem State.strand_setStrand_ne (s : State) (k j : Nat) (x : Strand) (h : j ≠ k) :
    (s.setStrand k x).strand j = s.strand j := by
  simp [State.strand_setStrand, h]
theorem State.core_setCore (s : State) (k j : Nat) (x : Core) : (s.setCore k x).core j = if j = k then x else s.core j := by
  simp only [State.core, State.setCore, Tab.get_put]
@[simp] theorem State.core_setCore_self (s : State) (k : Nat) (x : Core) : (s.setCore k x).core k = x := by
  simp [State.core_setCore]
theorem State.cohort_setCohort (s : State) (k j : DWord) (x : Cohort) :
    (s.setCohort k x).cohort j = if j = k then x else s.cohort j := by
  simp only [State.cohort, State.setCohort, Tab.get_put]
  by_cases h : j = k
  · simp [h]
  · have : j.toNat ≠ k.toNat := fun e => h (BitVec.eq_of_toNat_eq e)
    simp [h, this]
@[simp] theorem State.cohort_setCohort_self (s : State) (k : DWord) (x : Cohort) : (s.setCohort k x).cohort k = x := by
  simp [State.cohort_setCohort]
@[simp] theorem State.cur_setCur (s : State) (x : Strand) : (s.setCur x).cur = x := by
  simp [State.cur, State.setCur]

@[simp] theorem State.core_setStrand (s : State) (k : Nat) (x : Strand) (j : Nat) : (s.setStrand k x).core j = s.core j := rfl
@[simp] theorem State.cohort_setStrand (s : State) (k : Nat) (x : Strand) (j : DWord) : (s.setStrand k x).cohort j = s.cohort j := rfl
@[simp] theorem State.strand_setCore (s : State) (k : Nat) (x : Core) (j : Nat) : (s.setCore k x).strand j = s.strand j := rfl
@[simp] theorem State.cohort_setCore (s : State) (k : Nat) (x : Core) (j : DWord) : (s.setCore k x).cohort j = s.cohort j := rfl
@[simp] theorem State.cur_setCore (s : State) (k : Nat) (x : Core) : (s.setCore k x).cur = s.cur := rfl
@[simp] theorem State.strand_setCohort (s : State) (k : DWord) (x : Cohort) (j : Nat) : (s.setCohort k x).strand j = s.strand j := rfl
@[simp] theorem State.core_setCohort (s : State) (k : DWord) (x : Cohort) (j : Nat) : (s.setCohort k x).core j = s.core j := rfl
@[simp] theorem State.cur_setCohort (s : State) (k : DWord) (x : Cohort) : (s.setCohort k x).cur = s.cur := rfl
@[simp] theorem State.strand_setFunction (s : State) (k : Nat) (x : Function) (j : Nat) : (s.setFunction k x).strand j = s.strand j := rfl
@[simp] theorem State.core_setFunction (s : State) (k : Nat) (x : Function) (j : Nat) : (s.setFunction k x).core j = s.core j := rfl
@[simp] theorem State.cohort_setFunction (s : State) (k : Nat) (x : Function) (j : DWord) : (s.setFunction k x).cohort j = s.cohort j := rfl
@[simp] theorem State.cur_setFunction (s : State) (k : Nat) (x : Function) : (s.setFunction k x).cur = s.cur := rfl
@[simp] theorem State.strand_setClaim (s : State) (k : Nat) (x : Claim) (j : Nat) : (s.setClaim k x).strand j = s.strand j := rfl
@[simp] theorem State.core_setClaim (s : State) (k : Nat) (x : Claim) (j : Nat) : (s.setClaim k x).core j = s.core j := rfl
@[simp] theorem State.cohort_setClaim (s : State) (k : Nat) (x : Claim) (j : DWord) : (s.setClaim k x).cohort j = s.cohort j := rfl
@[simp] theorem State.cur_setClaim (s : State) (k : Nat) (x : Claim) : (s.setClaim k x).cur = s.cur := rfl
@[simp] theorem State.strand_tick (s : State)  (j : Nat) : (s.tick).strand j = s.strand j := rfl
@[simp] theorem State.core_tick (s : State)  (j : Nat) : (s.tick).core j = s.core j := rfl
@[simp] theorem State.cohort_tick (s : State)  (j : DWord) : (s.tick).cohort j = s.cohort j := rfl
@[simp] theorem State.cur_tick (s : State)  : (s.tick).cur = s.cur := rfl
@[simp] theorem State.strand_output (s : State) (o : Output) (j : Nat) : (s.output o).strand j = s.strand j := rfl
@[simp] theorem State.core_output (s : State) (o : Output) (j : Nat) : (s.output o).core j = s.core j := rfl
@[simp] theorem State.cohort_output (s : State) (o : Output) (j : DWord) : (s.output o).cohort j = s.cohort j := rfl
@[simp] theorem State.cur_output (s : State) (o : Output) : (s.output o).cur = s.cur := rfl
@[simp] theorem State.setCur_local_ (s : State) (x : Strand) : (s.setCur x).local_ = s.local_ := rfl
@[simp] theorem State.setCur_host (s : State) (x : Strand) : (s.setCur x).host = s.host := rfl
@[simp] theorem State.setCur_peer (s : State) (x : Strand) : (s.setCur x).peer = s.peer := rfl
@[simp] theorem State.setCur_cohorts (s : State) (x : Strand) : (s.setCur x).cohorts = s.cohorts := rfl
@[simp] theorem State.setCur_spans (s : State) (x : Strand) : (s.setCur x).spans = s.spans := rfl
@[simp] theorem State.setCur_cores (s : State) (x : Strand) : (s.setCur x).cores = s.cores := rfl
@[simp] theorem State.setCur_slices (s : State) (x : Strand) : (s.setCur x).slices = s.slices := rfl
@[simp] theorem State.setCur_monitors (s : State) (x : Strand) : (s.setCur x).monitors = s.monitors := rfl
@[simp] theorem State.setCur_marks (s : State) (x : Strand) : (s.setCur x).marks = s.marks := rfl
@[simp] theorem State.setCur_disp (s : State) (x : Strand) : (s.setCur x).disp = s.disp := rfl
@[simp] theorem State.setCur_link (s : State) (x : Strand) : (s.setCur x).link = s.link := rfl
@[simp] theorem State.setCur_guard (s : State) (x : Strand) : (s.setCur x).guard = s.guard := rfl
@[simp] theorem State.setCur_root (s : State) (x : Strand) : (s.setCur x).root = s.root := rfl
@[simp] theorem State.setCur_contexts (s : State) (x : Strand) : (s.setCur x).contexts = s.contexts := rfl
@[simp] theorem State.setCur_fwRoot (s : State) (x : Strand) : (s.setCur x).fwRoot = s.fwRoot := rfl
@[simp] theorem State.setCur_ueLocal (s : State) (x : Strand) : (s.setCur x).ueLocal = s.ueLocal := rfl
@[simp] theorem State.setCur_ueHost (s : State) (x : Strand) : (s.setCur x).ueHost = s.ueHost := rfl
@[simp] theorem State.setCur_uePeer (s : State) (x : Strand) : (s.setCur x).uePeer = s.uePeer := rfl
@[simp] theorem State.setCur_outputs (s : State) (x : Strand) : (s.setCur x).outputs = s.outputs := rfl
@[simp] theorem State.setCur_free (s : State) (x : Strand) : (s.setCur x).free = s.free := rfl
@[simp] theorem State.setCur_agenda (s : State) (x : Strand) : (s.setCur x).agenda = s.agenda := rfl
@[simp] theorem State.setCur_now (s : State) (x : Strand) : (s.setCur x).now = s.now := rfl
@[simp] theorem State.setCur_stage2At (s : State) (x : Strand) : (s.setCur x).stage2At = s.stage2At := rfl
@[simp] theorem State.setCur_curKey (s : State) (x : Strand) : (s.setCur x).curKey = s.curKey := rfl
@[simp] theorem State.setCur_turn (s : State) (x : Strand) : (s.setCur x).turn = s.turn := rfl
@[simp] theorem State.setCur_reached (s : State) (x : Strand) : (s.setCur x).reached = s.reached := rfl
@[simp] theorem State.core_setCur (s : State) (x : Strand) (j : Nat) : (s.setCur x).core j = s.core j := rfl
@[simp] theorem State.cohort_setCur (s : State) (x : Strand) (j : DWord) : (s.setCur x).cohort j = s.cohort j := rfl

/-! ### Updates of a strand -/

@[simp] theorem Strand.setTm_key (st : Strand) (b : Bool) : (st.setTm b).key = st.key := rfl
@[simp] theorem Strand.setTm_sup (st : Strand) (b : Bool) : (st.setTm b).sup = st.sup := rfl
@[simp] theorem Strand.setTm_cib (st : Strand) (b : Bool) : (st.setTm b).cib = st.cib := rfl
@[simp] theorem Strand.setTm_ccb (st : Strand) (b : Bool) : (st.setTm b).ccb = st.ccb := rfl
@[simp] theorem Strand.setTm_core (st : Strand) (b : Bool) : (st.setTm b).core = st.core := rfl
@[simp] theorem Strand.setTm_bench (st : Strand) (b : Bool) : (st.setTm b).bench = st.bench := rfl
@[simp] theorem Strand.setTm_slot (st : Strand) (b : Bool) : (st.setTm b).slot = st.slot := rfl
@[simp] theorem Strand.setTm_sidx (st : Strand) (b : Bool) : (st.setTm b).sidx = st.sidx := rfl
@[simp] theorem Strand.setTm_nlines (st : Strand) (b : Bool) : (st.setTm b).nlines = st.nlines := rfl
@[simp] theorem Strand.setTm_privBase (st : Strand) (b : Bool) : (st.setTm b).privBase = st.privBase := rfl
@[simp] theorem Strand.setTm_scal (st : Strand) (b : Bool) : (st.setTm b).scal = st.scal := rfl
@[simp] theorem Strand.setTm_sFull (st : Strand) (b : Bool) : (st.setTm b).sFull = st.sFull := rfl
@[simp] theorem Strand.setTm_vec (st : Strand) (b : Bool) : (st.setTm b).vec = st.vec := rfl
@[simp] theorem Strand.setTm_vFull (st : Strand) (b : Bool) : (st.setTm b).vFull = st.vFull := rfl
@[simp] theorem Strand.setTm_absent (st : Strand) (b : Bool) : (st.setTm b).absent = st.absent := rfl
@[simp] theorem Strand.setTm_wb (st : Strand) (b : Bool) : (st.setTm b).wb = st.wb := rfl
@[simp] theorem Strand.setTm_gang (st : Strand) (b : Bool) : (st.setTm b).gang = st.gang := rfl
@[simp] theorem Strand.setTm_cause (st : Strand) (b : Bool) : (st.setTm b).cause = st.cause := rfl
@[simp] theorem Strand.setTm_taddr (st : Strand) (b : Bool) : (st.setTm b).taddr = st.taddr := rfl
@[simp] theorem Strand.setTm_tmask (st : Strand) (b : Bool) : (st.setTm b).tmask = st.tmask := rfl
@[simp] theorem Strand.setTm_handler (st : Strand) (b : Bool) : (st.setTm b).handler = st.handler := rfl
@[simp] theorem Strand.setTm_sigmask (st : Strand) (b : Bool) : (st.setTm b).sigmask = st.sigmask := rfl
@[simp] theorem Strand.setTm_faddr (st : Strand) (b : Bool) : (st.setTm b).faddr = st.faddr := rfl
@[simp] theorem Strand.setTm_frontier (st : Strand) (b : Bool) : (st.setTm b).frontier = st.frontier := rfl
@[simp] theorem Strand.setTm_resident (st : Strand) (b : Bool) : (st.setTm b).resident = st.resident := rfl
@[simp] theorem Strand.setTm_spilled (st : Strand) (b : Bool) : (st.setTm b).spilled = st.spilled := rfl
@[simp] theorem Strand.setTm_nextOrder (st : Strand) (b : Bool) : (st.setTm b).nextOrder = st.nextOrder := rfl
@[simp] theorem Strand.setTm_succ (st : Strand) (b : Bool) : (st.setTm b).succ = st.succ := rfl
@[simp] theorem Strand.setTm_replies (st : Strand) (b : Bool) : (st.setTm b).replies = st.replies := rfl
@[simp] theorem Strand.setTm_flushed (st : Strand) (b : Bool) : (st.setTm b).flushed = st.flushed := rfl
@[simp] theorem Strand.setTm_drains (st : Strand) (b : Bool) : (st.setTm b).drains = st.drains := rfl
@[simp] theorem Strand.setTm_readyq (st : Strand) (b : Bool) : (st.setTm b).readyq = st.readyq := rfl
@[simp] theorem Strand.setTm_streams (st : Strand) (b : Bool) : (st.setTm b).streams = st.streams := rfl
@[simp] theorem Strand.setTm_producers (st : Strand) (b : Bool) : (st.setTm b).producers = st.producers := rfl
@[simp] theorem Strand.setTm_floats (st : Strand) (b : Bool) : (st.setTm b).floats = st.floats := rfl
@[simp] theorem Strand.setTm_late (st : Strand) (b : Bool) : (st.setTm b).late = st.late := rfl
@[simp] theorem Strand.setTm_stall (st : Strand) (b : Bool) : (st.setTm b).stall = st.stall := rfl
@[simp] theorem Strand.setTm_tried (st : Strand) (b : Bool) : (st.setTm b).tried = st.tried := rfl
@[simp] theorem Strand.setTm_lastIssue (st : Strand) (b : Bool) : (st.setTm b).lastIssue = st.lastIssue := rfl
@[simp] theorem Strand.setTm_ready (st : Strand) (b : Bool) : (st.setTm b).ready = st.ready := rfl
@[simp] theorem Strand.setTm_aged (st : Strand) (b : Bool) : (st.setTm b).aged = st.aged := rfl
@[simp] theorem Strand.setTm_yield (st : Strand) (b : Bool) : (st.setTm b).yield = st.yield := rfl
@[simp] theorem Strand.setTm_waits (st : Strand) (b : Bool) : (st.setTm b).waits = st.waits := rfl
@[simp] theorem Strand.setTm_exited (st : Strand) (b : Bool) : (st.setTm b).exited = st.exited := rfl
@[simp] theorem Strand.setTm_exitedAt (st : Strand) (b : Bool) : (st.setTm b).exitedAt = st.exitedAt := rfl
@[simp] theorem Strand.setTm_freed (st : Strand) (b : Bool) : (st.setTm b).freed = st.freed := rfl
@[simp] theorem Strand.setTm_passed (st : Strand) (b : Bool) : (st.setTm b).passed = st.passed := rfl
@[simp] theorem Strand.setTm_acquiring (st : Strand) (b : Bool) : (st.setTm b).acquiring = st.acquiring := rfl
@[simp] theorem Strand.setTm_also (st : Strand) (b : Bool) : (st.setTm b).also = st.also := rfl
@[simp] theorem Strand.setTm_shadowFl (st : Strand) (b : Bool) : (st.setTm b).shadowFl = st.shadowFl := rfl
@[simp] theorem Strand.setTm_cloneBad (st : Strand) (b : Bool) : (st.setTm b).cloneBad = st.cloneBad := rfl
@[simp] theorem Strand.setTm_cloneLanes (st : Strand) (b : Bool) : (st.setTm b).cloneLanes = st.cloneLanes := rfl
@[simp] theorem Strand.setTm_flawed (st : Strand) (b : Bool) : (st.setTm b).flawed = st.flawed := rfl
@[simp] theorem Strand.setTm_hot (st : Strand) (b : Bool) : (st.setTm b).hot = st.hot := rfl
@[simp] theorem Strand.addFlags_key (st : Strand) (f g : BitVec 5) : (st.addFlags f g).key = st.key := rfl
@[simp] theorem Strand.addFlags_sup (st : Strand) (f g : BitVec 5) : (st.addFlags f g).sup = st.sup := rfl
@[simp] theorem Strand.addFlags_cib (st : Strand) (f g : BitVec 5) : (st.addFlags f g).cib = st.cib := rfl
@[simp] theorem Strand.addFlags_ccb (st : Strand) (f g : BitVec 5) : (st.addFlags f g).ccb = st.ccb := rfl
@[simp] theorem Strand.addFlags_core (st : Strand) (f g : BitVec 5) : (st.addFlags f g).core = st.core := rfl
@[simp] theorem Strand.addFlags_bench (st : Strand) (f g : BitVec 5) : (st.addFlags f g).bench = st.bench := rfl
@[simp] theorem Strand.addFlags_slot (st : Strand) (f g : BitVec 5) : (st.addFlags f g).slot = st.slot := rfl
@[simp] theorem Strand.addFlags_sidx (st : Strand) (f g : BitVec 5) : (st.addFlags f g).sidx = st.sidx := rfl
@[simp] theorem Strand.addFlags_nlines (st : Strand) (f g : BitVec 5) : (st.addFlags f g).nlines = st.nlines := rfl
@[simp] theorem Strand.addFlags_privBase (st : Strand) (f g : BitVec 5) : (st.addFlags f g).privBase = st.privBase := rfl
@[simp] theorem Strand.addFlags_scal (st : Strand) (f g : BitVec 5) : (st.addFlags f g).scal = st.scal := rfl
@[simp] theorem Strand.addFlags_sFull (st : Strand) (f g : BitVec 5) : (st.addFlags f g).sFull = st.sFull := rfl
@[simp] theorem Strand.addFlags_vec (st : Strand) (f g : BitVec 5) : (st.addFlags f g).vec = st.vec := rfl
@[simp] theorem Strand.addFlags_vFull (st : Strand) (f g : BitVec 5) : (st.addFlags f g).vFull = st.vFull := rfl
@[simp] theorem Strand.addFlags_absent (st : Strand) (f g : BitVec 5) : (st.addFlags f g).absent = st.absent := rfl
@[simp] theorem Strand.addFlags_wb (st : Strand) (f g : BitVec 5) : (st.addFlags f g).wb = st.wb := rfl
@[simp] theorem Strand.addFlags_gang (st : Strand) (f g : BitVec 5) : (st.addFlags f g).gang = st.gang := rfl
@[simp] theorem Strand.addFlags_cause (st : Strand) (f g : BitVec 5) : (st.addFlags f g).cause = st.cause := rfl
@[simp] theorem Strand.addFlags_taddr (st : Strand) (f g : BitVec 5) : (st.addFlags f g).taddr = st.taddr := rfl
@[simp] theorem Strand.addFlags_tmask (st : Strand) (f g : BitVec 5) : (st.addFlags f g).tmask = st.tmask := rfl
@[simp] theorem Strand.addFlags_handler (st : Strand) (f g : BitVec 5) : (st.addFlags f g).handler = st.handler := rfl
@[simp] theorem Strand.addFlags_sigmask (st : Strand) (f g : BitVec 5) : (st.addFlags f g).sigmask = st.sigmask := rfl
@[simp] theorem Strand.addFlags_faddr (st : Strand) (f g : BitVec 5) : (st.addFlags f g).faddr = st.faddr := rfl
@[simp] theorem Strand.addFlags_frontier (st : Strand) (f g : BitVec 5) : (st.addFlags f g).frontier = st.frontier := rfl
@[simp] theorem Strand.addFlags_resident (st : Strand) (f g : BitVec 5) : (st.addFlags f g).resident = st.resident := rfl
@[simp] theorem Strand.addFlags_spilled (st : Strand) (f g : BitVec 5) : (st.addFlags f g).spilled = st.spilled := rfl
@[simp] theorem Strand.addFlags_nextOrder (st : Strand) (f g : BitVec 5) : (st.addFlags f g).nextOrder = st.nextOrder := rfl
@[simp] theorem Strand.addFlags_succ (st : Strand) (f g : BitVec 5) : (st.addFlags f g).succ = st.succ := rfl
@[simp] theorem Strand.addFlags_replies (st : Strand) (f g : BitVec 5) : (st.addFlags f g).replies = st.replies := rfl
@[simp] theorem Strand.addFlags_flushed (st : Strand) (f g : BitVec 5) : (st.addFlags f g).flushed = st.flushed := rfl
@[simp] theorem Strand.addFlags_drains (st : Strand) (f g : BitVec 5) : (st.addFlags f g).drains = st.drains := rfl
@[simp] theorem Strand.addFlags_readyq (st : Strand) (f g : BitVec 5) : (st.addFlags f g).readyq = st.readyq := rfl
@[simp] theorem Strand.addFlags_streams (st : Strand) (f g : BitVec 5) : (st.addFlags f g).streams = st.streams := rfl
@[simp] theorem Strand.addFlags_producers (st : Strand) (f g : BitVec 5) : (st.addFlags f g).producers = st.producers := rfl
@[simp] theorem Strand.addFlags_floats (st : Strand) (f g : BitVec 5) : (st.addFlags f g).floats = st.floats := rfl
@[simp] theorem Strand.addFlags_late (st : Strand) (f g : BitVec 5) : (st.addFlags f g).late = st.late := rfl
@[simp] theorem Strand.addFlags_stall (st : Strand) (f g : BitVec 5) : (st.addFlags f g).stall = st.stall := rfl
@[simp] theorem Strand.addFlags_tried (st : Strand) (f g : BitVec 5) : (st.addFlags f g).tried = st.tried := rfl
@[simp] theorem Strand.addFlags_lastIssue (st : Strand) (f g : BitVec 5) : (st.addFlags f g).lastIssue = st.lastIssue := rfl
@[simp] theorem Strand.addFlags_ready (st : Strand) (f g : BitVec 5) : (st.addFlags f g).ready = st.ready := rfl
@[simp] theorem Strand.addFlags_aged (st : Strand) (f g : BitVec 5) : (st.addFlags f g).aged = st.aged := rfl
@[simp] theorem Strand.addFlags_yield (st : Strand) (f g : BitVec 5) : (st.addFlags f g).yield = st.yield := rfl
@[simp] theorem Strand.addFlags_waits (st : Strand) (f g : BitVec 5) : (st.addFlags f g).waits = st.waits := rfl
@[simp] theorem Strand.addFlags_exited (st : Strand) (f g : BitVec 5) : (st.addFlags f g).exited = st.exited := rfl
@[simp] theorem Strand.addFlags_exitedAt (st : Strand) (f g : BitVec 5) : (st.addFlags f g).exitedAt = st.exitedAt := rfl
@[simp] theorem Strand.addFlags_freed (st : Strand) (f g : BitVec 5) : (st.addFlags f g).freed = st.freed := rfl
@[simp] theorem Strand.addFlags_passed (st : Strand) (f g : BitVec 5) : (st.addFlags f g).passed = st.passed := rfl
@[simp] theorem Strand.addFlags_acquiring (st : Strand) (f g : BitVec 5) : (st.addFlags f g).acquiring = st.acquiring := rfl
@[simp] theorem Strand.addFlags_also (st : Strand) (f g : BitVec 5) : (st.addFlags f g).also = st.also := rfl
@[simp] theorem Strand.addFlags_cloneBad (st : Strand) (f g : BitVec 5) : (st.addFlags f g).cloneBad = st.cloneBad := rfl
@[simp] theorem Strand.addFlags_cloneLanes (st : Strand) (f g : BitVec 5) : (st.addFlags f g).cloneLanes = st.cloneLanes := rfl
@[simp] theorem Strand.addFlags_flawed (st : Strand) (f g : BitVec 5) : (st.addFlags f g).flawed = st.flawed := rfl
@[simp] theorem Strand.addFlags_hot (st : Strand) (f g : BitVec 5) : (st.addFlags f g).hot = st.hot := rfl
@[simp] theorem Strand.setScalar_key (st : Strand) (m : Nat) (v : DWord) : (st.setScalar m v).key = st.key := rfl
@[simp] theorem Strand.setScalar_sup (st : Strand) (m : Nat) (v : DWord) : (st.setScalar m v).sup = st.sup := rfl
@[simp] theorem Strand.setScalar_cib (st : Strand) (m : Nat) (v : DWord) : (st.setScalar m v).cib = st.cib := rfl
@[simp] theorem Strand.setScalar_ccb (st : Strand) (m : Nat) (v : DWord) : (st.setScalar m v).ccb = st.ccb := rfl
@[simp] theorem Strand.setScalar_core (st : Strand) (m : Nat) (v : DWord) : (st.setScalar m v).core = st.core := rfl
@[simp] theorem Strand.setScalar_bench (st : Strand) (m : Nat) (v : DWord) : (st.setScalar m v).bench = st.bench := rfl
@[simp] theorem Strand.setScalar_slot (st : Strand) (m : Nat) (v : DWord) : (st.setScalar m v).slot = st.slot := rfl
@[simp] theorem Strand.setScalar_sidx (st : Strand) (m : Nat) (v : DWord) : (st.setScalar m v).sidx = st.sidx := rfl
@[simp] theorem Strand.setScalar_nlines (st : Strand) (m : Nat) (v : DWord) : (st.setScalar m v).nlines = st.nlines := rfl
@[simp] theorem Strand.setScalar_privBase (st : Strand) (m : Nat) (v : DWord) : (st.setScalar m v).privBase = st.privBase := rfl
@[simp] theorem Strand.setScalar_vec (st : Strand) (m : Nat) (v : DWord) : (st.setScalar m v).vec = st.vec := rfl
@[simp] theorem Strand.setScalar_vFull (st : Strand) (m : Nat) (v : DWord) : (st.setScalar m v).vFull = st.vFull := rfl
@[simp] theorem Strand.setScalar_absent (st : Strand) (m : Nat) (v : DWord) : (st.setScalar m v).absent = st.absent := rfl
@[simp] theorem Strand.setScalar_stat (st : Strand) (m : Nat) (v : DWord) : (st.setScalar m v).stat = st.stat := rfl
@[simp] theorem Strand.setScalar_wb (st : Strand) (m : Nat) (v : DWord) : (st.setScalar m v).wb = st.wb := rfl
@[simp] theorem Strand.setScalar_gang (st : Strand) (m : Nat) (v : DWord) : (st.setScalar m v).gang = st.gang := rfl
@[simp] theorem Strand.setScalar_cause (st : Strand) (m : Nat) (v : DWord) : (st.setScalar m v).cause = st.cause := rfl
@[simp] theorem Strand.setScalar_taddr (st : Strand) (m : Nat) (v : DWord) : (st.setScalar m v).taddr = st.taddr := rfl
@[simp] theorem Strand.setScalar_tmask (st : Strand) (m : Nat) (v : DWord) : (st.setScalar m v).tmask = st.tmask := rfl
@[simp] theorem Strand.setScalar_handler (st : Strand) (m : Nat) (v : DWord) : (st.setScalar m v).handler = st.handler := rfl
@[simp] theorem Strand.setScalar_sigmask (st : Strand) (m : Nat) (v : DWord) : (st.setScalar m v).sigmask = st.sigmask := rfl
@[simp] theorem Strand.setScalar_faddr (st : Strand) (m : Nat) (v : DWord) : (st.setScalar m v).faddr = st.faddr := rfl
@[simp] theorem Strand.setScalar_frontier (st : Strand) (m : Nat) (v : DWord) : (st.setScalar m v).frontier = st.frontier := rfl
@[simp] theorem Strand.setScalar_resident (st : Strand) (m : Nat) (v : DWord) : (st.setScalar m v).resident = st.resident := rfl
@[simp] theorem Strand.setScalar_spilled (st : Strand) (m : Nat) (v : DWord) : (st.setScalar m v).spilled = st.spilled := rfl
@[simp] theorem Strand.setScalar_nextOrder (st : Strand) (m : Nat) (v : DWord) : (st.setScalar m v).nextOrder = st.nextOrder := rfl
@[simp] theorem Strand.setScalar_succ (st : Strand) (m : Nat) (v : DWord) : (st.setScalar m v).succ = st.succ := rfl
@[simp] theorem Strand.setScalar_replies (st : Strand) (m : Nat) (v : DWord) : (st.setScalar m v).replies = st.replies := rfl
@[simp] theorem Strand.setScalar_flushed (st : Strand) (m : Nat) (v : DWord) : (st.setScalar m v).flushed = st.flushed := rfl
@[simp] theorem Strand.setScalar_drains (st : Strand) (m : Nat) (v : DWord) : (st.setScalar m v).drains = st.drains := rfl
@[simp] theorem Strand.setScalar_readyq (st : Strand) (m : Nat) (v : DWord) : (st.setScalar m v).readyq = st.readyq := rfl
@[simp] theorem Strand.setScalar_streams (st : Strand) (m : Nat) (v : DWord) : (st.setScalar m v).streams = st.streams := rfl
@[simp] theorem Strand.setScalar_producers (st : Strand) (m : Nat) (v : DWord) : (st.setScalar m v).producers = st.producers := rfl
@[simp] theorem Strand.setScalar_floats (st : Strand) (m : Nat) (v : DWord) : (st.setScalar m v).floats = st.floats := rfl
@[simp] theorem Strand.setScalar_late (st : Strand) (m : Nat) (v : DWord) : (st.setScalar m v).late = st.late := rfl
@[simp] theorem Strand.setScalar_stall (st : Strand) (m : Nat) (v : DWord) : (st.setScalar m v).stall = st.stall := rfl
@[simp] theorem Strand.setScalar_tried (st : Strand) (m : Nat) (v : DWord) : (st.setScalar m v).tried = st.tried := rfl
@[simp] theorem Strand.setScalar_lastIssue (st : Strand) (m : Nat) (v : DWord) : (st.setScalar m v).lastIssue = st.lastIssue := rfl
@[simp] theorem Strand.setScalar_ready (st : Strand) (m : Nat) (v : DWord) : (st.setScalar m v).ready = st.ready := rfl
@[simp] theorem Strand.setScalar_aged (st : Strand) (m : Nat) (v : DWord) : (st.setScalar m v).aged = st.aged := rfl
@[simp] theorem Strand.setScalar_yield (st : Strand) (m : Nat) (v : DWord) : (st.setScalar m v).yield = st.yield := rfl
@[simp] theorem Strand.setScalar_waits (st : Strand) (m : Nat) (v : DWord) : (st.setScalar m v).waits = st.waits := rfl
@[simp] theorem Strand.setScalar_exited (st : Strand) (m : Nat) (v : DWord) : (st.setScalar m v).exited = st.exited := rfl
@[simp] theorem Strand.setScalar_exitedAt (st : Strand) (m : Nat) (v : DWord) : (st.setScalar m v).exitedAt = st.exitedAt := rfl
@[simp] theorem Strand.setScalar_freed (st : Strand) (m : Nat) (v : DWord) : (st.setScalar m v).freed = st.freed := rfl
@[simp] theorem Strand.setScalar_passed (st : Strand) (m : Nat) (v : DWord) : (st.setScalar m v).passed = st.passed := rfl
@[simp] theorem Strand.setScalar_acquiring (st : Strand) (m : Nat) (v : DWord) : (st.setScalar m v).acquiring = st.acquiring := rfl
@[simp] theorem Strand.setScalar_also (st : Strand) (m : Nat) (v : DWord) : (st.setScalar m v).also = st.also := rfl
@[simp] theorem Strand.setScalar_shadowFl (st : Strand) (m : Nat) (v : DWord) : (st.setScalar m v).shadowFl = st.shadowFl := rfl
@[simp] theorem Strand.setScalar_cloneBad (st : Strand) (m : Nat) (v : DWord) : (st.setScalar m v).cloneBad = st.cloneBad := rfl
@[simp] theorem Strand.setScalar_cloneLanes (st : Strand) (m : Nat) (v : DWord) : (st.setScalar m v).cloneLanes = st.cloneLanes := rfl
@[simp] theorem Strand.setScalar_flawed (st : Strand) (m : Nat) (v : DWord) : (st.setScalar m v).flawed = st.flawed := rfl
@[simp] theorem Strand.setScalar_hot (st : Strand) (m : Nat) (v : DWord) : (st.setScalar m v).hot = st.hot := rfl
@[simp] theorem Strand.emptyScalar_key (st : Strand) (m : Nat) : (st.emptyScalar m).key = st.key := rfl
@[simp] theorem Strand.emptyScalar_sup (st : Strand) (m : Nat) : (st.emptyScalar m).sup = st.sup := rfl
@[simp] theorem Strand.emptyScalar_cib (st : Strand) (m : Nat) : (st.emptyScalar m).cib = st.cib := rfl
@[simp] theorem Strand.emptyScalar_ccb (st : Strand) (m : Nat) : (st.emptyScalar m).ccb = st.ccb := rfl
@[simp] theorem Strand.emptyScalar_core (st : Strand) (m : Nat) : (st.emptyScalar m).core = st.core := rfl
@[simp] theorem Strand.emptyScalar_bench (st : Strand) (m : Nat) : (st.emptyScalar m).bench = st.bench := rfl
@[simp] theorem Strand.emptyScalar_slot (st : Strand) (m : Nat) : (st.emptyScalar m).slot = st.slot := rfl
@[simp] theorem Strand.emptyScalar_sidx (st : Strand) (m : Nat) : (st.emptyScalar m).sidx = st.sidx := rfl
@[simp] theorem Strand.emptyScalar_nlines (st : Strand) (m : Nat) : (st.emptyScalar m).nlines = st.nlines := rfl
@[simp] theorem Strand.emptyScalar_privBase (st : Strand) (m : Nat) : (st.emptyScalar m).privBase = st.privBase := rfl
@[simp] theorem Strand.emptyScalar_scal (st : Strand) (m : Nat) : (st.emptyScalar m).scal = st.scal := rfl
@[simp] theorem Strand.emptyScalar_vec (st : Strand) (m : Nat) : (st.emptyScalar m).vec = st.vec := rfl
@[simp] theorem Strand.emptyScalar_vFull (st : Strand) (m : Nat) : (st.emptyScalar m).vFull = st.vFull := rfl
@[simp] theorem Strand.emptyScalar_absent (st : Strand) (m : Nat) : (st.emptyScalar m).absent = st.absent := rfl
@[simp] theorem Strand.emptyScalar_stat (st : Strand) (m : Nat) : (st.emptyScalar m).stat = st.stat := rfl
@[simp] theorem Strand.emptyScalar_wb (st : Strand) (m : Nat) : (st.emptyScalar m).wb = st.wb := rfl
@[simp] theorem Strand.emptyScalar_gang (st : Strand) (m : Nat) : (st.emptyScalar m).gang = st.gang := rfl
@[simp] theorem Strand.emptyScalar_cause (st : Strand) (m : Nat) : (st.emptyScalar m).cause = st.cause := rfl
@[simp] theorem Strand.emptyScalar_taddr (st : Strand) (m : Nat) : (st.emptyScalar m).taddr = st.taddr := rfl
@[simp] theorem Strand.emptyScalar_tmask (st : Strand) (m : Nat) : (st.emptyScalar m).tmask = st.tmask := rfl
@[simp] theorem Strand.emptyScalar_handler (st : Strand) (m : Nat) : (st.emptyScalar m).handler = st.handler := rfl
@[simp] theorem Strand.emptyScalar_sigmask (st : Strand) (m : Nat) : (st.emptyScalar m).sigmask = st.sigmask := rfl
@[simp] theorem Strand.emptyScalar_faddr (st : Strand) (m : Nat) : (st.emptyScalar m).faddr = st.faddr := rfl
@[simp] theorem Strand.emptyScalar_frontier (st : Strand) (m : Nat) : (st.emptyScalar m).frontier = st.frontier := rfl
@[simp] theorem Strand.emptyScalar_resident (st : Strand) (m : Nat) : (st.emptyScalar m).resident = st.resident := rfl
@[simp] theorem Strand.emptyScalar_spilled (st : Strand) (m : Nat) : (st.emptyScalar m).spilled = st.spilled := rfl
@[simp] theorem Strand.emptyScalar_nextOrder (st : Strand) (m : Nat) : (st.emptyScalar m).nextOrder = st.nextOrder := rfl
@[simp] theorem Strand.emptyScalar_succ (st : Strand) (m : Nat) : (st.emptyScalar m).succ = st.succ := rfl
@[simp] theorem Strand.emptyScalar_replies (st : Strand) (m : Nat) : (st.emptyScalar m).replies = st.replies := rfl
@[simp] theorem Strand.emptyScalar_flushed (st : Strand) (m : Nat) : (st.emptyScalar m).flushed = st.flushed := rfl
@[simp] theorem Strand.emptyScalar_drains (st : Strand) (m : Nat) : (st.emptyScalar m).drains = st.drains := rfl
@[simp] theorem Strand.emptyScalar_readyq (st : Strand) (m : Nat) : (st.emptyScalar m).readyq = st.readyq := rfl
@[simp] theorem Strand.emptyScalar_streams (st : Strand) (m : Nat) : (st.emptyScalar m).streams = st.streams := rfl
@[simp] theorem Strand.emptyScalar_producers (st : Strand) (m : Nat) : (st.emptyScalar m).producers = st.producers := rfl
@[simp] theorem Strand.emptyScalar_floats (st : Strand) (m : Nat) : (st.emptyScalar m).floats = st.floats := rfl
@[simp] theorem Strand.emptyScalar_late (st : Strand) (m : Nat) : (st.emptyScalar m).late = st.late := rfl
@[simp] theorem Strand.emptyScalar_stall (st : Strand) (m : Nat) : (st.emptyScalar m).stall = st.stall := rfl
@[simp] theorem Strand.emptyScalar_tried (st : Strand) (m : Nat) : (st.emptyScalar m).tried = st.tried := rfl
@[simp] theorem Strand.emptyScalar_lastIssue (st : Strand) (m : Nat) : (st.emptyScalar m).lastIssue = st.lastIssue := rfl
@[simp] theorem Strand.emptyScalar_ready (st : Strand) (m : Nat) : (st.emptyScalar m).ready = st.ready := rfl
@[simp] theorem Strand.emptyScalar_aged (st : Strand) (m : Nat) : (st.emptyScalar m).aged = st.aged := rfl
@[simp] theorem Strand.emptyScalar_yield (st : Strand) (m : Nat) : (st.emptyScalar m).yield = st.yield := rfl
@[simp] theorem Strand.emptyScalar_waits (st : Strand) (m : Nat) : (st.emptyScalar m).waits = st.waits := rfl
@[simp] theorem Strand.emptyScalar_exited (st : Strand) (m : Nat) : (st.emptyScalar m).exited = st.exited := rfl
@[simp] theorem Strand.emptyScalar_exitedAt (st : Strand) (m : Nat) : (st.emptyScalar m).exitedAt = st.exitedAt := rfl
@[simp] theorem Strand.emptyScalar_freed (st : Strand) (m : Nat) : (st.emptyScalar m).freed = st.freed := rfl
@[simp] theorem Strand.emptyScalar_passed (st : Strand) (m : Nat) : (st.emptyScalar m).passed = st.passed := rfl
@[simp] theorem Strand.emptyScalar_acquiring (st : Strand) (m : Nat) : (st.emptyScalar m).acquiring = st.acquiring := rfl
@[simp] theorem Strand.emptyScalar_also (st : Strand) (m : Nat) : (st.emptyScalar m).also = st.also := rfl
@[simp] theorem Strand.emptyScalar_shadowFl (st : Strand) (m : Nat) : (st.emptyScalar m).shadowFl = st.shadowFl := rfl
@[simp] theorem Strand.emptyScalar_cloneBad (st : Strand) (m : Nat) : (st.emptyScalar m).cloneBad = st.cloneBad := rfl
@[simp] theorem Strand.emptyScalar_cloneLanes (st : Strand) (m : Nat) : (st.emptyScalar m).cloneLanes = st.cloneLanes := rfl
@[simp] theorem Strand.emptyScalar_flawed (st : Strand) (m : Nat) : (st.emptyScalar m).flawed = st.flawed := rfl
@[simp] theorem Strand.emptyScalar_hot (st : Strand) (m : Nat) : (st.emptyScalar m).hot = st.hot := rfl
@[simp] theorem Strand.setLine_key (st : Strand) (n : Nat) (x : Line) : (st.setLine n x).key = st.key := rfl
@[simp] theorem Strand.setLine_sup (st : Strand) (n : Nat) (x : Line) : (st.setLine n x).sup = st.sup := rfl
@[simp] theorem Strand.setLine_cib (st : Strand) (n : Nat) (x : Line) : (st.setLine n x).cib = st.cib := rfl
@[simp] theorem Strand.setLine_ccb (st : Strand) (n : Nat) (x : Line) : (st.setLine n x).ccb = st.ccb := rfl
@[simp] theorem Strand.setLine_core (st : Strand) (n : Nat) (x : Line) : (st.setLine n x).core = st.core := rfl
@[simp] theorem Strand.setLine_bench (st : Strand) (n : Nat) (x : Line) : (st.setLine n x).bench = st.bench := rfl
@[simp] theorem Strand.setLine_slot (st : Strand) (n : Nat) (x : Line) : (st.setLine n x).slot = st.slot := rfl
@[simp] theorem Strand.setLine_sidx (st : Strand) (n : Nat) (x : Line) : (st.setLine n x).sidx = st.sidx := rfl
@[simp] theorem Strand.setLine_nlines (st : Strand) (n : Nat) (x : Line) : (st.setLine n x).nlines = st.nlines := rfl
@[simp] theorem Strand.setLine_privBase (st : Strand) (n : Nat) (x : Line) : (st.setLine n x).privBase = st.privBase := rfl
@[simp] theorem Strand.setLine_scal (st : Strand) (n : Nat) (x : Line) : (st.setLine n x).scal = st.scal := rfl
@[simp] theorem Strand.setLine_sFull (st : Strand) (n : Nat) (x : Line) : (st.setLine n x).sFull = st.sFull := rfl
@[simp] theorem Strand.setLine_absent (st : Strand) (n : Nat) (x : Line) : (st.setLine n x).absent = st.absent := rfl
@[simp] theorem Strand.setLine_stat (st : Strand) (n : Nat) (x : Line) : (st.setLine n x).stat = st.stat := rfl
@[simp] theorem Strand.setLine_wb (st : Strand) (n : Nat) (x : Line) : (st.setLine n x).wb = st.wb := rfl
@[simp] theorem Strand.setLine_gang (st : Strand) (n : Nat) (x : Line) : (st.setLine n x).gang = st.gang := rfl
@[simp] theorem Strand.setLine_cause (st : Strand) (n : Nat) (x : Line) : (st.setLine n x).cause = st.cause := rfl
@[simp] theorem Strand.setLine_taddr (st : Strand) (n : Nat) (x : Line) : (st.setLine n x).taddr = st.taddr := rfl
@[simp] theorem Strand.setLine_tmask (st : Strand) (n : Nat) (x : Line) : (st.setLine n x).tmask = st.tmask := rfl
@[simp] theorem Strand.setLine_handler (st : Strand) (n : Nat) (x : Line) : (st.setLine n x).handler = st.handler := rfl
@[simp] theorem Strand.setLine_sigmask (st : Strand) (n : Nat) (x : Line) : (st.setLine n x).sigmask = st.sigmask := rfl
@[simp] theorem Strand.setLine_faddr (st : Strand) (n : Nat) (x : Line) : (st.setLine n x).faddr = st.faddr := rfl
@[simp] theorem Strand.setLine_frontier (st : Strand) (n : Nat) (x : Line) : (st.setLine n x).frontier = st.frontier := rfl
@[simp] theorem Strand.setLine_resident (st : Strand) (n : Nat) (x : Line) : (st.setLine n x).resident = st.resident := rfl
@[simp] theorem Strand.setLine_spilled (st : Strand) (n : Nat) (x : Line) : (st.setLine n x).spilled = st.spilled := rfl
@[simp] theorem Strand.setLine_nextOrder (st : Strand) (n : Nat) (x : Line) : (st.setLine n x).nextOrder = st.nextOrder := rfl
@[simp] theorem Strand.setLine_succ (st : Strand) (n : Nat) (x : Line) : (st.setLine n x).succ = st.succ := rfl
@[simp] theorem Strand.setLine_replies (st : Strand) (n : Nat) (x : Line) : (st.setLine n x).replies = st.replies := rfl
@[simp] theorem Strand.setLine_flushed (st : Strand) (n : Nat) (x : Line) : (st.setLine n x).flushed = st.flushed := rfl
@[simp] theorem Strand.setLine_drains (st : Strand) (n : Nat) (x : Line) : (st.setLine n x).drains = st.drains := rfl
@[simp] theorem Strand.setLine_readyq (st : Strand) (n : Nat) (x : Line) : (st.setLine n x).readyq = st.readyq := rfl
@[simp] theorem Strand.setLine_streams (st : Strand) (n : Nat) (x : Line) : (st.setLine n x).streams = st.streams := rfl
@[simp] theorem Strand.setLine_producers (st : Strand) (n : Nat) (x : Line) : (st.setLine n x).producers = st.producers := rfl
@[simp] theorem Strand.setLine_floats (st : Strand) (n : Nat) (x : Line) : (st.setLine n x).floats = st.floats := rfl
@[simp] theorem Strand.setLine_late (st : Strand) (n : Nat) (x : Line) : (st.setLine n x).late = st.late := rfl
@[simp] theorem Strand.setLine_stall (st : Strand) (n : Nat) (x : Line) : (st.setLine n x).stall = st.stall := rfl
@[simp] theorem Strand.setLine_tried (st : Strand) (n : Nat) (x : Line) : (st.setLine n x).tried = st.tried := rfl
@[simp] theorem Strand.setLine_lastIssue (st : Strand) (n : Nat) (x : Line) : (st.setLine n x).lastIssue = st.lastIssue := rfl
@[simp] theorem Strand.setLine_ready (st : Strand) (n : Nat) (x : Line) : (st.setLine n x).ready = st.ready := rfl
@[simp] theorem Strand.setLine_aged (st : Strand) (n : Nat) (x : Line) : (st.setLine n x).aged = st.aged := rfl
@[simp] theorem Strand.setLine_yield (st : Strand) (n : Nat) (x : Line) : (st.setLine n x).yield = st.yield := rfl
@[simp] theorem Strand.setLine_waits (st : Strand) (n : Nat) (x : Line) : (st.setLine n x).waits = st.waits := rfl
@[simp] theorem Strand.setLine_exited (st : Strand) (n : Nat) (x : Line) : (st.setLine n x).exited = st.exited := rfl
@[simp] theorem Strand.setLine_exitedAt (st : Strand) (n : Nat) (x : Line) : (st.setLine n x).exitedAt = st.exitedAt := rfl
@[simp] theorem Strand.setLine_freed (st : Strand) (n : Nat) (x : Line) : (st.setLine n x).freed = st.freed := rfl
@[simp] theorem Strand.setLine_passed (st : Strand) (n : Nat) (x : Line) : (st.setLine n x).passed = st.passed := rfl
@[simp] theorem Strand.setLine_acquiring (st : Strand) (n : Nat) (x : Line) : (st.setLine n x).acquiring = st.acquiring := rfl
@[simp] theorem Strand.setLine_also (st : Strand) (n : Nat) (x : Line) : (st.setLine n x).also = st.also := rfl
@[simp] theorem Strand.setLine_shadowFl (st : Strand) (n : Nat) (x : Line) : (st.setLine n x).shadowFl = st.shadowFl := rfl
@[simp] theorem Strand.setLine_cloneBad (st : Strand) (n : Nat) (x : Line) : (st.setLine n x).cloneBad = st.cloneBad := rfl
@[simp] theorem Strand.setLine_cloneLanes (st : Strand) (n : Nat) (x : Line) : (st.setLine n x).cloneLanes = st.cloneLanes := rfl
@[simp] theorem Strand.setLine_flawed (st : Strand) (n : Nat) (x : Line) : (st.setLine n x).flawed = st.flawed := rfl
@[simp] theorem Strand.setLine_hot (st : Strand) (n : Nat) (x : Line) : (st.setLine n x).hot = st.hot := rfl
@[simp] theorem Strand.emptyLine_key (st : Strand) (n : Nat) : (st.emptyLine n).key = st.key := rfl
@[simp] theorem Strand.emptyLine_sup (st : Strand) (n : Nat) : (st.emptyLine n).sup = st.sup := rfl
@[simp] theorem Strand.emptyLine_cib (st : Strand) (n : Nat) : (st.emptyLine n).cib = st.cib := rfl
@[simp] theorem Strand.emptyLine_ccb (st : Strand) (n : Nat) : (st.emptyLine n).ccb = st.ccb := rfl
@[simp] theorem Strand.emptyLine_core (st : Strand) (n : Nat) : (st.emptyLine n).core = st.core := rfl
@[simp] theorem Strand.emptyLine_bench (st : Strand) (n : Nat) : (st.emptyLine n).bench = st.bench := rfl
@[simp] theorem Strand.emptyLine_slot (st : Strand) (n : Nat) : (st.emptyLine n).slot = st.slot := rfl
@[simp] theorem Strand.emptyLine_sidx (st : Strand) (n : Nat) : (st.emptyLine n).sidx = st.sidx := rfl
@[simp] theorem Strand.emptyLine_nlines (st : Strand) (n : Nat) : (st.emptyLine n).nlines = st.nlines := rfl
@[simp] theorem Strand.emptyLine_privBase (st : Strand) (n : Nat) : (st.emptyLine n).privBase = st.privBase := rfl
@[simp] theorem Strand.emptyLine_scal (st : Strand) (n : Nat) : (st.emptyLine n).scal = st.scal := rfl
@[simp] theorem Strand.emptyLine_sFull (st : Strand) (n : Nat) : (st.emptyLine n).sFull = st.sFull := rfl
@[simp] theorem Strand.emptyLine_vec (st : Strand) (n : Nat) : (st.emptyLine n).vec = st.vec := rfl
@[simp] theorem Strand.emptyLine_absent (st : Strand) (n : Nat) : (st.emptyLine n).absent = st.absent := rfl
@[simp] theorem Strand.emptyLine_stat (st : Strand) (n : Nat) : (st.emptyLine n).stat = st.stat := rfl
@[simp] theorem Strand.emptyLine_wb (st : Strand) (n : Nat) : (st.emptyLine n).wb = st.wb := rfl
@[simp] theorem Strand.emptyLine_gang (st : Strand) (n : Nat) : (st.emptyLine n).gang = st.gang := rfl
@[simp] theorem Strand.emptyLine_cause (st : Strand) (n : Nat) : (st.emptyLine n).cause = st.cause := rfl
@[simp] theorem Strand.emptyLine_taddr (st : Strand) (n : Nat) : (st.emptyLine n).taddr = st.taddr := rfl
@[simp] theorem Strand.emptyLine_tmask (st : Strand) (n : Nat) : (st.emptyLine n).tmask = st.tmask := rfl
@[simp] theorem Strand.emptyLine_handler (st : Strand) (n : Nat) : (st.emptyLine n).handler = st.handler := rfl
@[simp] theorem Strand.emptyLine_sigmask (st : Strand) (n : Nat) : (st.emptyLine n).sigmask = st.sigmask := rfl
@[simp] theorem Strand.emptyLine_faddr (st : Strand) (n : Nat) : (st.emptyLine n).faddr = st.faddr := rfl
@[simp] theorem Strand.emptyLine_frontier (st : Strand) (n : Nat) : (st.emptyLine n).frontier = st.frontier := rfl
@[simp] theorem Strand.emptyLine_resident (st : Strand) (n : Nat) : (st.emptyLine n).resident = st.resident := rfl
@[simp] theorem Strand.emptyLine_spilled (st : Strand) (n : Nat) : (st.emptyLine n).spilled = st.spilled := rfl
@[simp] theorem Strand.emptyLine_nextOrder (st : Strand) (n : Nat) : (st.emptyLine n).nextOrder = st.nextOrder := rfl
@[simp] theorem Strand.emptyLine_succ (st : Strand) (n : Nat) : (st.emptyLine n).succ = st.succ := rfl
@[simp] theorem Strand.emptyLine_replies (st : Strand) (n : Nat) : (st.emptyLine n).replies = st.replies := rfl
@[simp] theorem Strand.emptyLine_flushed (st : Strand) (n : Nat) : (st.emptyLine n).flushed = st.flushed := rfl
@[simp] theorem Strand.emptyLine_drains (st : Strand) (n : Nat) : (st.emptyLine n).drains = st.drains := rfl
@[simp] theorem Strand.emptyLine_readyq (st : Strand) (n : Nat) : (st.emptyLine n).readyq = st.readyq := rfl
@[simp] theorem Strand.emptyLine_streams (st : Strand) (n : Nat) : (st.emptyLine n).streams = st.streams := rfl
@[simp] theorem Strand.emptyLine_producers (st : Strand) (n : Nat) : (st.emptyLine n).producers = st.producers := rfl
@[simp] theorem Strand.emptyLine_floats (st : Strand) (n : Nat) : (st.emptyLine n).floats = st.floats := rfl
@[simp] theorem Strand.emptyLine_late (st : Strand) (n : Nat) : (st.emptyLine n).late = st.late := rfl
@[simp] theorem Strand.emptyLine_stall (st : Strand) (n : Nat) : (st.emptyLine n).stall = st.stall := rfl
@[simp] theorem Strand.emptyLine_tried (st : Strand) (n : Nat) : (st.emptyLine n).tried = st.tried := rfl
@[simp] theorem Strand.emptyLine_lastIssue (st : Strand) (n : Nat) : (st.emptyLine n).lastIssue = st.lastIssue := rfl
@[simp] theorem Strand.emptyLine_ready (st : Strand) (n : Nat) : (st.emptyLine n).ready = st.ready := rfl
@[simp] theorem Strand.emptyLine_aged (st : Strand) (n : Nat) : (st.emptyLine n).aged = st.aged := rfl
@[simp] theorem Strand.emptyLine_yield (st : Strand) (n : Nat) : (st.emptyLine n).yield = st.yield := rfl
@[simp] theorem Strand.emptyLine_waits (st : Strand) (n : Nat) : (st.emptyLine n).waits = st.waits := rfl
@[simp] theorem Strand.emptyLine_exited (st : Strand) (n : Nat) : (st.emptyLine n).exited = st.exited := rfl
@[simp] theorem Strand.emptyLine_exitedAt (st : Strand) (n : Nat) : (st.emptyLine n).exitedAt = st.exitedAt := rfl
@[simp] theorem Strand.emptyLine_freed (st : Strand) (n : Nat) : (st.emptyLine n).freed = st.freed := rfl
@[simp] theorem Strand.emptyLine_passed (st : Strand) (n : Nat) : (st.emptyLine n).passed = st.passed := rfl
@[simp] theorem Strand.emptyLine_acquiring (st : Strand) (n : Nat) : (st.emptyLine n).acquiring = st.acquiring := rfl
@[simp] theorem Strand.emptyLine_also (st : Strand) (n : Nat) : (st.emptyLine n).also = st.also := rfl
@[simp] theorem Strand.emptyLine_shadowFl (st : Strand) (n : Nat) : (st.emptyLine n).shadowFl = st.shadowFl := rfl
@[simp] theorem Strand.emptyLine_cloneBad (st : Strand) (n : Nat) : (st.emptyLine n).cloneBad = st.cloneBad := rfl
@[simp] theorem Strand.emptyLine_cloneLanes (st : Strand) (n : Nat) : (st.emptyLine n).cloneLanes = st.cloneLanes := rfl
@[simp] theorem Strand.emptyLine_flawed (st : Strand) (n : Nat) : (st.emptyLine n).flawed = st.flawed := rfl
@[simp] theorem Strand.emptyLine_hot (st : Strand) (n : Nat) : (st.emptyLine n).hot = st.hot := rfl
@[simp] theorem Strand.writeLanes_key (st : Strand) (n : Nat) (m : Mask) (f : Nat → Word) : (st.writeLanes n m f).key = st.key := rfl
@[simp] theorem Strand.writeLanes_sup (st : Strand) (n : Nat) (m : Mask) (f : Nat → Word) : (st.writeLanes n m f).sup = st.sup := rfl
@[simp] theorem Strand.writeLanes_cib (st : Strand) (n : Nat) (m : Mask) (f : Nat → Word) : (st.writeLanes n m f).cib = st.cib := rfl
@[simp] theorem Strand.writeLanes_ccb (st : Strand) (n : Nat) (m : Mask) (f : Nat → Word) : (st.writeLanes n m f).ccb = st.ccb := rfl
@[simp] theorem Strand.writeLanes_core (st : Strand) (n : Nat) (m : Mask) (f : Nat → Word) : (st.writeLanes n m f).core = st.core := rfl
@[simp] theorem Strand.writeLanes_bench (st : Strand) (n : Nat) (m : Mask) (f : Nat → Word) : (st.writeLanes n m f).bench = st.bench := rfl
@[simp] theorem Strand.writeLanes_slot (st : Strand) (n : Nat) (m : Mask) (f : Nat → Word) : (st.writeLanes n m f).slot = st.slot := rfl
@[simp] theorem Strand.writeLanes_sidx (st : Strand) (n : Nat) (m : Mask) (f : Nat → Word) : (st.writeLanes n m f).sidx = st.sidx := rfl
@[simp] theorem Strand.writeLanes_nlines (st : Strand) (n : Nat) (m : Mask) (f : Nat → Word) : (st.writeLanes n m f).nlines = st.nlines := rfl
@[simp] theorem Strand.writeLanes_privBase (st : Strand) (n : Nat) (m : Mask) (f : Nat → Word) : (st.writeLanes n m f).privBase = st.privBase := rfl
@[simp] theorem Strand.writeLanes_scal (st : Strand) (n : Nat) (m : Mask) (f : Nat → Word) : (st.writeLanes n m f).scal = st.scal := rfl
@[simp] theorem Strand.writeLanes_sFull (st : Strand) (n : Nat) (m : Mask) (f : Nat → Word) : (st.writeLanes n m f).sFull = st.sFull := rfl
@[simp] theorem Strand.writeLanes_absent (st : Strand) (n : Nat) (m : Mask) (f : Nat → Word) : (st.writeLanes n m f).absent = st.absent := rfl
@[simp] theorem Strand.writeLanes_stat (st : Strand) (n : Nat) (m : Mask) (f : Nat → Word) : (st.writeLanes n m f).stat = st.stat := rfl
@[simp] theorem Strand.writeLanes_wb (st : Strand) (n : Nat) (m : Mask) (f : Nat → Word) : (st.writeLanes n m f).wb = st.wb := rfl
@[simp] theorem Strand.writeLanes_gang (st : Strand) (n : Nat) (m : Mask) (f : Nat → Word) : (st.writeLanes n m f).gang = st.gang := rfl
@[simp] theorem Strand.writeLanes_cause (st : Strand) (n : Nat) (m : Mask) (f : Nat → Word) : (st.writeLanes n m f).cause = st.cause := rfl
@[simp] theorem Strand.writeLanes_taddr (st : Strand) (n : Nat) (m : Mask) (f : Nat → Word) : (st.writeLanes n m f).taddr = st.taddr := rfl
@[simp] theorem Strand.writeLanes_tmask (st : Strand) (n : Nat) (m : Mask) (f : Nat → Word) : (st.writeLanes n m f).tmask = st.tmask := rfl
@[simp] theorem Strand.writeLanes_handler (st : Strand) (n : Nat) (m : Mask) (f : Nat → Word) : (st.writeLanes n m f).handler = st.handler := rfl
@[simp] theorem Strand.writeLanes_sigmask (st : Strand) (n : Nat) (m : Mask) (f : Nat → Word) : (st.writeLanes n m f).sigmask = st.sigmask := rfl
@[simp] theorem Strand.writeLanes_faddr (st : Strand) (n : Nat) (m : Mask) (f : Nat → Word) : (st.writeLanes n m f).faddr = st.faddr := rfl
@[simp] theorem Strand.writeLanes_frontier (st : Strand) (n : Nat) (m : Mask) (f : Nat → Word) : (st.writeLanes n m f).frontier = st.frontier := rfl
@[simp] theorem Strand.writeLanes_resident (st : Strand) (n : Nat) (m : Mask) (f : Nat → Word) : (st.writeLanes n m f).resident = st.resident := rfl
@[simp] theorem Strand.writeLanes_spilled (st : Strand) (n : Nat) (m : Mask) (f : Nat → Word) : (st.writeLanes n m f).spilled = st.spilled := rfl
@[simp] theorem Strand.writeLanes_nextOrder (st : Strand) (n : Nat) (m : Mask) (f : Nat → Word) : (st.writeLanes n m f).nextOrder = st.nextOrder := rfl
@[simp] theorem Strand.writeLanes_succ (st : Strand) (n : Nat) (m : Mask) (f : Nat → Word) : (st.writeLanes n m f).succ = st.succ := rfl
@[simp] theorem Strand.writeLanes_replies (st : Strand) (n : Nat) (m : Mask) (f : Nat → Word) : (st.writeLanes n m f).replies = st.replies := rfl
@[simp] theorem Strand.writeLanes_flushed (st : Strand) (n : Nat) (m : Mask) (f : Nat → Word) : (st.writeLanes n m f).flushed = st.flushed := rfl
@[simp] theorem Strand.writeLanes_drains (st : Strand) (n : Nat) (m : Mask) (f : Nat → Word) : (st.writeLanes n m f).drains = st.drains := rfl
@[simp] theorem Strand.writeLanes_readyq (st : Strand) (n : Nat) (m : Mask) (f : Nat → Word) : (st.writeLanes n m f).readyq = st.readyq := rfl
@[simp] theorem Strand.writeLanes_streams (st : Strand) (n : Nat) (m : Mask) (f : Nat → Word) : (st.writeLanes n m f).streams = st.streams := rfl
@[simp] theorem Strand.writeLanes_producers (st : Strand) (n : Nat) (m : Mask) (f : Nat → Word) : (st.writeLanes n m f).producers = st.producers := rfl
@[simp] theorem Strand.writeLanes_floats (st : Strand) (n : Nat) (m : Mask) (f : Nat → Word) : (st.writeLanes n m f).floats = st.floats := rfl
@[simp] theorem Strand.writeLanes_late (st : Strand) (n : Nat) (m : Mask) (f : Nat → Word) : (st.writeLanes n m f).late = st.late := rfl
@[simp] theorem Strand.writeLanes_stall (st : Strand) (n : Nat) (m : Mask) (f : Nat → Word) : (st.writeLanes n m f).stall = st.stall := rfl
@[simp] theorem Strand.writeLanes_tried (st : Strand) (n : Nat) (m : Mask) (f : Nat → Word) : (st.writeLanes n m f).tried = st.tried := rfl
@[simp] theorem Strand.writeLanes_lastIssue (st : Strand) (n : Nat) (m : Mask) (f : Nat → Word) : (st.writeLanes n m f).lastIssue = st.lastIssue := rfl
@[simp] theorem Strand.writeLanes_ready (st : Strand) (n : Nat) (m : Mask) (f : Nat → Word) : (st.writeLanes n m f).ready = st.ready := rfl
@[simp] theorem Strand.writeLanes_aged (st : Strand) (n : Nat) (m : Mask) (f : Nat → Word) : (st.writeLanes n m f).aged = st.aged := rfl
@[simp] theorem Strand.writeLanes_yield (st : Strand) (n : Nat) (m : Mask) (f : Nat → Word) : (st.writeLanes n m f).yield = st.yield := rfl
@[simp] theorem Strand.writeLanes_waits (st : Strand) (n : Nat) (m : Mask) (f : Nat → Word) : (st.writeLanes n m f).waits = st.waits := rfl
@[simp] theorem Strand.writeLanes_exited (st : Strand) (n : Nat) (m : Mask) (f : Nat → Word) : (st.writeLanes n m f).exited = st.exited := rfl
@[simp] theorem Strand.writeLanes_exitedAt (st : Strand) (n : Nat) (m : Mask) (f : Nat → Word) : (st.writeLanes n m f).exitedAt = st.exitedAt := rfl
@[simp] theorem Strand.writeLanes_freed (st : Strand) (n : Nat) (m : Mask) (f : Nat → Word) : (st.writeLanes n m f).freed = st.freed := rfl
@[simp] theorem Strand.writeLanes_passed (st : Strand) (n : Nat) (m : Mask) (f : Nat → Word) : (st.writeLanes n m f).passed = st.passed := rfl
@[simp] theorem Strand.writeLanes_acquiring (st : Strand) (n : Nat) (m : Mask) (f : Nat → Word) : (st.writeLanes n m f).acquiring = st.acquiring := rfl
@[simp] theorem Strand.writeLanes_also (st : Strand) (n : Nat) (m : Mask) (f : Nat → Word) : (st.writeLanes n m f).also = st.also := rfl
@[simp] theorem Strand.writeLanes_shadowFl (st : Strand) (n : Nat) (m : Mask) (f : Nat → Word) : (st.writeLanes n m f).shadowFl = st.shadowFl := rfl
@[simp] theorem Strand.writeLanes_cloneBad (st : Strand) (n : Nat) (m : Mask) (f : Nat → Word) : (st.writeLanes n m f).cloneBad = st.cloneBad := rfl
@[simp] theorem Strand.writeLanes_cloneLanes (st : Strand) (n : Nat) (m : Mask) (f : Nat → Word) : (st.writeLanes n m f).cloneLanes = st.cloneLanes := rfl
@[simp] theorem Strand.writeLanes_flawed (st : Strand) (n : Nat) (m : Mask) (f : Nat → Word) : (st.writeLanes n m f).flawed = st.flawed := rfl
@[simp] theorem Strand.writeLanes_hot (st : Strand) (n : Nat) (m : Mask) (f : Nat → Word) : (st.writeLanes n m f).hot = st.hot := rfl
@[simp] theorem Strand.setFrontier_key (st : Strand) (l : List Entry) : (st.setFrontier l).key = st.key := rfl
@[simp] theorem Strand.setFrontier_sup (st : Strand) (l : List Entry) : (st.setFrontier l).sup = st.sup := rfl
@[simp] theorem Strand.setFrontier_cib (st : Strand) (l : List Entry) : (st.setFrontier l).cib = st.cib := rfl
@[simp] theorem Strand.setFrontier_ccb (st : Strand) (l : List Entry) : (st.setFrontier l).ccb = st.ccb := rfl
@[simp] theorem Strand.setFrontier_core (st : Strand) (l : List Entry) : (st.setFrontier l).core = st.core := rfl
@[simp] theorem Strand.setFrontier_bench (st : Strand) (l : List Entry) : (st.setFrontier l).bench = st.bench := rfl
@[simp] theorem Strand.setFrontier_slot (st : Strand) (l : List Entry) : (st.setFrontier l).slot = st.slot := rfl
@[simp] theorem Strand.setFrontier_sidx (st : Strand) (l : List Entry) : (st.setFrontier l).sidx = st.sidx := rfl
@[simp] theorem Strand.setFrontier_nlines (st : Strand) (l : List Entry) : (st.setFrontier l).nlines = st.nlines := rfl
@[simp] theorem Strand.setFrontier_privBase (st : Strand) (l : List Entry) : (st.setFrontier l).privBase = st.privBase := rfl
@[simp] theorem Strand.setFrontier_scal (st : Strand) (l : List Entry) : (st.setFrontier l).scal = st.scal := rfl
@[simp] theorem Strand.setFrontier_sFull (st : Strand) (l : List Entry) : (st.setFrontier l).sFull = st.sFull := rfl
@[simp] theorem Strand.setFrontier_vec (st : Strand) (l : List Entry) : (st.setFrontier l).vec = st.vec := rfl
@[simp] theorem Strand.setFrontier_vFull (st : Strand) (l : List Entry) : (st.setFrontier l).vFull = st.vFull := rfl
@[simp] theorem Strand.setFrontier_absent (st : Strand) (l : List Entry) : (st.setFrontier l).absent = st.absent := rfl
@[simp] theorem Strand.setFrontier_stat (st : Strand) (l : List Entry) : (st.setFrontier l).stat = st.stat := rfl
@[simp] theorem Strand.setFrontier_wb (st : Strand) (l : List Entry) : (st.setFrontier l).wb = st.wb := rfl
@[simp] theorem Strand.setFrontier_gang (st : Strand) (l : List Entry) : (st.setFrontier l).gang = st.gang := rfl
@[simp] theorem Strand.setFrontier_cause (st : Strand) (l : List Entry) : (st.setFrontier l).cause = st.cause := rfl
@[simp] theorem Strand.setFrontier_taddr (st : Strand) (l : List Entry) : (st.setFrontier l).taddr = st.taddr := rfl
@[simp] theorem Strand.setFrontier_tmask (st : Strand) (l : List Entry) : (st.setFrontier l).tmask = st.tmask := rfl
@[simp] theorem Strand.setFrontier_handler (st : Strand) (l : List Entry) : (st.setFrontier l).handler = st.handler := rfl
@[simp] theorem Strand.setFrontier_sigmask (st : Strand) (l : List Entry) : (st.setFrontier l).sigmask = st.sigmask := rfl
@[simp] theorem Strand.setFrontier_faddr (st : Strand) (l : List Entry) : (st.setFrontier l).faddr = st.faddr := rfl
@[simp] theorem Strand.setFrontier_spilled (st : Strand) (l : List Entry) : (st.setFrontier l).spilled = st.spilled := rfl
@[simp] theorem Strand.setFrontier_nextOrder (st : Strand) (l : List Entry) : (st.setFrontier l).nextOrder = st.nextOrder := rfl
@[simp] theorem Strand.setFrontier_succ (st : Strand) (l : List Entry) : (st.setFrontier l).succ = st.succ := rfl
@[simp] theorem Strand.setFrontier_replies (st : Strand) (l : List Entry) : (st.setFrontier l).replies = st.replies := rfl
@[simp] theorem Strand.setFrontier_flushed (st : Strand) (l : List Entry) : (st.setFrontier l).flushed = st.flushed := rfl
@[simp] theorem Strand.setFrontier_drains (st : Strand) (l : List Entry) : (st.setFrontier l).drains = st.drains := rfl
@[simp] theorem Strand.setFrontier_readyq (st : Strand) (l : List Entry) : (st.setFrontier l).readyq = st.readyq := rfl
@[simp] theorem Strand.setFrontier_streams (st : Strand) (l : List Entry) : (st.setFrontier l).streams = st.streams := rfl
@[simp] theorem Strand.setFrontier_producers (st : Strand) (l : List Entry) : (st.setFrontier l).producers = st.producers := rfl
@[simp] theorem Strand.setFrontier_floats (st : Strand) (l : List Entry) : (st.setFrontier l).floats = st.floats := rfl
@[simp] theorem Strand.setFrontier_late (st : Strand) (l : List Entry) : (st.setFrontier l).late = st.late := rfl
@[simp] theorem Strand.setFrontier_stall (st : Strand) (l : List Entry) : (st.setFrontier l).stall = st.stall := rfl
@[simp] theorem Strand.setFrontier_tried (st : Strand) (l : List Entry) : (st.setFrontier l).tried = st.tried := rfl
@[simp] theorem Strand.setFrontier_lastIssue (st : Strand) (l : List Entry) : (st.setFrontier l).lastIssue = st.lastIssue := rfl
@[simp] theorem Strand.setFrontier_ready (st : Strand) (l : List Entry) : (st.setFrontier l).ready = st.ready := rfl
@[simp] theorem Strand.setFrontier_aged (st : Strand) (l : List Entry) : (st.setFrontier l).aged = st.aged := rfl
@[simp] theorem Strand.setFrontier_yield (st : Strand) (l : List Entry) : (st.setFrontier l).yield = st.yield := rfl
@[simp] theorem Strand.setFrontier_waits (st : Strand) (l : List Entry) : (st.setFrontier l).waits = st.waits := rfl
@[simp] theorem Strand.setFrontier_exited (st : Strand) (l : List Entry) : (st.setFrontier l).exited = st.exited := rfl
@[simp] theorem Strand.setFrontier_exitedAt (st : Strand) (l : List Entry) : (st.setFrontier l).exitedAt = st.exitedAt := rfl
@[simp] theorem Strand.setFrontier_freed (st : Strand) (l : List Entry) : (st.setFrontier l).freed = st.freed := rfl
@[simp] theorem Strand.setFrontier_passed (st : Strand) (l : List Entry) : (st.setFrontier l).passed = st.passed := rfl
@[simp] theorem Strand.setFrontier_acquiring (st : Strand) (l : List Entry) : (st.setFrontier l).acquiring = st.acquiring := rfl
@[simp] theorem Strand.setFrontier_also (st : Strand) (l : List Entry) : (st.setFrontier l).also = st.also := rfl
@[simp] theorem Strand.setFrontier_shadowFl (st : Strand) (l : List Entry) : (st.setFrontier l).shadowFl = st.shadowFl := rfl
@[simp] theorem Strand.setFrontier_cloneBad (st : Strand) (l : List Entry) : (st.setFrontier l).cloneBad = st.cloneBad := rfl
@[simp] theorem Strand.setFrontier_cloneLanes (st : Strand) (l : List Entry) : (st.setFrontier l).cloneLanes = st.cloneLanes := rfl
@[simp] theorem Strand.setFrontier_flawed (st : Strand) (l : List Entry) : (st.setFrontier l).flawed = st.flawed := rfl
@[simp] theorem Strand.setFrontier_hot (st : Strand) (l : List Entry) : (st.setFrontier l).hot = st.hot := rfl

theorem Strand.scalar_setScalar (st : Strand) (m n : Nat) (v : DWord) :
    (st.setScalar m v).scalar n = if n = m then v else st.scalar n := by
  simp [Strand.scalar, Strand.setScalar, Tab.get_set]
theorem Strand.line_setLine (st : Strand) (m n : Nat) (x : Line) :
    (st.setLine m x).line n = if n = m then x else st.line n := by
  simp [Strand.line, Strand.setLine, Tab.get_set]
theorem Strand.line_writeLanes (st : Strand) (m n : Nat) (k : Mask) (f : Nat → Word) :
    (st.writeLanes m k f).line n = if n = m then mergeLine (st.line m) k f else st.line n := by
  simp [Strand.writeLanes, Strand.line_setLine]
/-- Each lane of a line that is written in part (08 R227). -/
theorem laneOf_mergeLine (x : Line) (m : Mask) (f : Nat → Word) (l : Nat) (h : l < 64) :
    laneOf (mergeLine x m f) l = if m.getLsbD l then f l else laneOf x l := by
  simp [laneOf, mergeLine, List.getD, List.getElem?_range h]
@[simp] theorem Strand.markScalarWrite_line (st : Strand) (n : Nat) : st.markScalarWrite.line n = st.line n := by
  unfold Strand.markScalarWrite; split <;> rfl
@[simp] theorem Strand.markScalarWrite_scalar (st : Strand) (n : Nat) : st.markScalarWrite.scalar n = st.scalar n := by
  unfold Strand.markScalarWrite; split <;> rfl
@[simp] theorem Strand.markScalarWrite_key (st : Strand) : st.markScalarWrite.key = st.key := by
  unfold Strand.markScalarWrite; split <;> rfl
@[simp] theorem Strand.markScalarWrite_sup (st : Strand) : st.markScalarWrite.sup = st.sup := by
  unfold Strand.markScalarWrite; split <;> rfl
@[simp] theorem Strand.markScalarWrite_cib (st : Strand) : st.markScalarWrite.cib = st.cib := by
  unfold Strand.markScalarWrite; split <;> rfl
@[simp] theorem Strand.markScalarWrite_ccb (st : Strand) : st.markScalarWrite.ccb = st.ccb := by
  unfold Strand.markScalarWrite; split <;> rfl
@[simp] theorem Strand.markScalarWrite_core (st : Strand) : st.markScalarWrite.core = st.core := by
  unfold Strand.markScalarWrite; split <;> rfl
@[simp] theorem Strand.markScalarWrite_bench (st : Strand) : st.markScalarWrite.bench = st.bench := by
  unfold Strand.markScalarWrite; split <;> rfl
@[simp] theorem Strand.markScalarWrite_slot (st : Strand) : st.markScalarWrite.slot = st.slot := by
  unfold Strand.markScalarWrite; split <;> rfl
@[simp] theorem Strand.markScalarWrite_sidx (st : Strand) : st.markScalarWrite.sidx = st.sidx := by
  unfold Strand.markScalarWrite; split <;> rfl
@[simp] theorem Strand.markScalarWrite_nlines (st : Strand) : st.markScalarWrite.nlines = st.nlines := by
  unfold Strand.markScalarWrite; split <;> rfl
@[simp] theorem Strand.markScalarWrite_privBase (st : Strand) : st.markScalarWrite.privBase = st.privBase := by
  unfold Strand.markScalarWrite; split <;> rfl
@[simp] theorem Strand.markScalarWrite_scal (st : Strand) : st.markScalarWrite.scal = st.scal := by
  unfold Strand.markScalarWrite; split <;> rfl
@[simp] theorem Strand.markScalarWrite_sFull (st : Strand) : st.markScalarWrite.sFull = st.sFull := by
  unfold Strand.markScalarWrite; split <;> rfl
@[simp] theorem Strand.markScalarWrite_vec (st : Strand) : st.markScalarWrite.vec = st.vec := by
  unfold Strand.markScalarWrite; split <;> rfl
@[simp] theorem Strand.markScalarWrite_vFull (st : Strand) : st.markScalarWrite.vFull = st.vFull := by
  unfold Strand.markScalarWrite; split <;> rfl
@[simp] theorem Strand.markScalarWrite_absent (st : Strand) : st.markScalarWrite.absent = st.absent := by
  unfold Strand.markScalarWrite; split <;> rfl
@[simp] theorem Strand.markScalarWrite_wb (st : Strand) : st.markScalarWrite.wb = st.wb := by
  unfold Strand.markScalarWrite; split <;> rfl
@[simp] theorem Strand.markScalarWrite_gang (st : Strand) : st.markScalarWrite.gang = st.gang := by
  unfold Strand.markScalarWrite; split <;> rfl
@[simp] theorem Strand.markScalarWrite_cause (st : Strand) : st.markScalarWrite.cause = st.cause := by
  unfold Strand.markScalarWrite; split <;> rfl
@[simp] theorem Strand.markScalarWrite_taddr (st : Strand) : st.markScalarWrite.taddr = st.taddr := by
  unfold Strand.markScalarWrite; split <;> rfl
@[simp] theorem Strand.markScalarWrite_tmask (st : Strand) : st.markScalarWrite.tmask = st.tmask := by
  unfold Strand.markScalarWrite; split <;> rfl
@[simp] theorem Strand.markScalarWrite_handler (st : Strand) : st.markScalarWrite.handler = st.handler := by
  unfold Strand.markScalarWrite; split <;> rfl
@[simp] theorem Strand.markScalarWrite_sigmask (st : Strand) : st.markScalarWrite.sigmask = st.sigmask := by
  unfold Strand.markScalarWrite; split <;> rfl
@[simp] theorem Strand.markScalarWrite_faddr (st : Strand) : st.markScalarWrite.faddr = st.faddr := by
  unfold Strand.markScalarWrite; split <;> rfl
@[simp] theorem Strand.markScalarWrite_frontier (st : Strand) : st.markScalarWrite.frontier = st.frontier := by
  unfold Strand.markScalarWrite; split <;> rfl
@[simp] theorem Strand.markScalarWrite_resident (st : Strand) : st.markScalarWrite.resident = st.resident := by
  unfold Strand.markScalarWrite; split <;> rfl
@[simp] theorem Strand.markScalarWrite_spilled (st : Strand) : st.markScalarWrite.spilled = st.spilled := by
  unfold Strand.markScalarWrite; split <;> rfl
@[simp] theorem Strand.markScalarWrite_nextOrder (st : Strand) : st.markScalarWrite.nextOrder = st.nextOrder := by
  unfold Strand.markScalarWrite; split <;> rfl
@[simp] theorem Strand.markScalarWrite_succ (st : Strand) : st.markScalarWrite.succ = st.succ := by
  unfold Strand.markScalarWrite; split <;> rfl
@[simp] theorem Strand.markScalarWrite_replies (st : Strand) : st.markScalarWrite.replies = st.replies := by
  unfold Strand.markScalarWrite; split <;> rfl
@[simp] theorem Strand.markScalarWrite_flushed (st : Strand) : st.markScalarWrite.flushed = st.flushed := by
  unfold Strand.markScalarWrite; split <;> rfl
@[simp] theorem Strand.markScalarWrite_drains (st : Strand) : st.markScalarWrite.drains = st.drains := by
  unfold Strand.markScalarWrite; split <;> rfl
@[simp] theorem Strand.markScalarWrite_readyq (st : Strand) : st.markScalarWrite.readyq = st.readyq := by
  unfold Strand.markScalarWrite; split <;> rfl
@[simp] theorem Strand.markScalarWrite_streams (st : Strand) : st.markScalarWrite.streams = st.streams := by
  unfold Strand.markScalarWrite; split <;> rfl
@[simp] theorem Strand.markScalarWrite_producers (st : Strand) : st.markScalarWrite.producers = st.producers := by
  unfold Strand.markScalarWrite; split <;> rfl
@[simp] theorem Strand.markScalarWrite_floats (st : Strand) : st.markScalarWrite.floats = st.floats := by
  unfold Strand.markScalarWrite; split <;> rfl
@[simp] theorem Strand.markScalarWrite_late (st : Strand) : st.markScalarWrite.late = st.late := by
  unfold Strand.markScalarWrite; split <;> rfl
@[simp] theorem Strand.markScalarWrite_stall (st : Strand) : st.markScalarWrite.stall = st.stall := by
  unfold Strand.markScalarWrite; split <;> rfl
@[simp] theorem Strand.markScalarWrite_tried (st : Strand) : st.markScalarWrite.tried = st.tried := by
  unfold Strand.markScalarWrite; split <;> rfl
@[simp] theorem Strand.markScalarWrite_lastIssue (st : Strand) : st.markScalarWrite.lastIssue = st.lastIssue := by
  unfold Strand.markScalarWrite; split <;> rfl
@[simp] theorem Strand.markScalarWrite_ready (st : Strand) : st.markScalarWrite.ready = st.ready := by
  unfold Strand.markScalarWrite; split <;> rfl
@[simp] theorem Strand.markScalarWrite_aged (st : Strand) : st.markScalarWrite.aged = st.aged := by
  unfold Strand.markScalarWrite; split <;> rfl
@[simp] theorem Strand.markScalarWrite_yield (st : Strand) : st.markScalarWrite.yield = st.yield := by
  unfold Strand.markScalarWrite; split <;> rfl
@[simp] theorem Strand.markScalarWrite_waits (st : Strand) : st.markScalarWrite.waits = st.waits := by
  unfold Strand.markScalarWrite; split <;> rfl
@[simp] theorem Strand.markScalarWrite_exited (st : Strand) : st.markScalarWrite.exited = st.exited := by
  unfold Strand.markScalarWrite; split <;> rfl
@[simp] theorem Strand.markScalarWrite_exitedAt (st : Strand) : st.markScalarWrite.exitedAt = st.exitedAt := by
  unfold Strand.markScalarWrite; split <;> rfl
@[simp] theorem Strand.markScalarWrite_freed (st : Strand) : st.markScalarWrite.freed = st.freed := by
  unfold Strand.markScalarWrite; split <;> rfl
@[simp] theorem Strand.markScalarWrite_passed (st : Strand) : st.markScalarWrite.passed = st.passed := by
  unfold Strand.markScalarWrite; split <;> rfl
@[simp] theorem Strand.markScalarWrite_acquiring (st : Strand) : st.markScalarWrite.acquiring = st.acquiring := by
  unfold Strand.markScalarWrite; split <;> rfl
@[simp] theorem Strand.markScalarWrite_also (st : Strand) : st.markScalarWrite.also = st.also := by
  unfold Strand.markScalarWrite; split <;> rfl
@[simp] theorem Strand.markScalarWrite_shadowFl (st : Strand) : st.markScalarWrite.shadowFl = st.shadowFl := by
  unfold Strand.markScalarWrite; split <;> rfl
@[simp] theorem Strand.markScalarWrite_cloneBad (st : Strand) : st.markScalarWrite.cloneBad = st.cloneBad := by
  unfold Strand.markScalarWrite; split <;> rfl
@[simp] theorem Strand.markScalarWrite_cloneLanes (st : Strand) : st.markScalarWrite.cloneLanes = st.cloneLanes := by
  unfold Strand.markScalarWrite; split <;> rfl
@[simp] theorem Strand.markScalarWrite_flawed (st : Strand) : st.markScalarWrite.flawed = st.flawed := by
  unfold Strand.markScalarWrite; split <;> rfl
@[simp] theorem Strand.markScalarWrite_hot (st : Strand) : st.markScalarWrite.hot = st.hot := by
  unfold Strand.markScalarWrite; split <;> rfl
@[simp] theorem Strand.scalar_setTm (st : Strand) (b : Bool) (j : Nat) : (st.setTm b).scalar j = st.scalar j := rfl
@[simp] theorem Strand.line_setTm (st : Strand) (b : Bool) (j : Nat) : (st.setTm b).line j = st.line j := rfl
@[simp] theorem Strand.scalar_addFlags (st : Strand) (f g : BitVec 5) (j : Nat) : (st.addFlags f g).scalar j = st.scalar j := rfl
@[simp] theorem Strand.line_addFlags (st : Strand) (f g : BitVec 5) (j : Nat) : (st.addFlags f g).line j = st.line j := rfl
@[simp] theorem Strand.line_setScalar (st : Strand) (m : Nat) (v : DWord) (j : Nat) : (st.setScalar m v).line j = st.line j := rfl
@[simp] theorem Strand.scalar_emptyScalar (st : Strand) (m : Nat) (j : Nat) : (st.emptyScalar m).scalar j = st.scalar j := rfl
@[simp] theorem Strand.line_emptyScalar (st : Strand) (m : Nat) (j : Nat) : (st.emptyScalar m).line j = st.line j := rfl
@[simp] theorem Strand.scalar_setLine (st : Strand) (n : Nat) (x : Line) (j : Nat) : (st.setLine n x).scalar j = st.scalar j := rfl
@[simp] theorem Strand.scalar_emptyLine (st : Strand) (n : Nat) (j : Nat) : (st.emptyLine n).scalar j = st.scalar j := rfl
@[simp] theorem Strand.line_emptyLine (st : Strand) (n : Nat) (j : Nat) : (st.emptyLine n).line j = st.line j := rfl
@[simp] theorem Strand.scalar_writeLanes (st : Strand) (n : Nat) (m : Mask) (f : Nat → Word) (j : Nat) : (st.writeLanes n m f).scalar j = st.scalar j := rfl
@[simp] theorem Strand.scalar_setFrontier (st : Strand) (l : List Entry) (j : Nat) : (st.setFrontier l).scalar j = st.scalar j := rfl
@[simp] theorem Strand.line_setFrontier (st : Strand) (l : List Entry) (j : Nat) : (st.setFrontier l).line j = st.line j := rfl

/-! ### Masks -/

theorem testBit_foldr (p : Nat → Bool) (xs : List Nat) (i : Nat) :
    (xs.foldr (fun l acc => (if p l then 1 else 0) + 2 * acc) 0).testBit i = match xs[i]? with | some x => p x | none => false := by
  induction xs generalizing i with
  | nil => simp
  | cons x xs ih =>
    simp only [List.foldr_cons]
    cases i with
    | zero =>
      have : ∀ n : Nat, ((if p x then 1 else 0) + 2 * n).testBit 0 = p x := by
        intro n; rw [Nat.testBit_zero]; cases p x
        · simp
        · simp only [if_true]; have : (1 + 2 * n) % 2 = 1 := by omega
          simp [this]
      rw [this]; simp
    | succ i =>
      have : ∀ n : Nat, ((if p x then 1 else 0) + 2 * n).testBit (i + 1) = n.testBit i := by
        intro n; rw [Nat.testBit_succ]; congr 1; cases p x
        · simp
        · simp only [if_true]; omega
      rw [this, ih]; simp

/-- A mask has just the lanes of its test. -/
theorem getLsbD_maskOf (p : Nat → Bool) (l : Nat) (h : l < 64) : (maskOf p).getLsbD l = p l := by
  unfold maskOf
  rw [BitVec.getLsbD_ofNat, testBit_foldr, List.getElem?_range h]
  simp [h]

end Sys2Proof.Machine
end

