-- ==== Sys2Proof/Laws/Issue.lean ====
section
/-! SUPPORT. What the end of an issue can do: entries of frontiers move, barriers complete, and nothing else changes. -/

namespace Sys2Proof.Machine

/-- A strand without what the end of an issue changes. -/
def Strand.still (st : Strand) : Strand :=
  { st with frontier := [], resident := 0, exited := false, stall := 0, lastIssue := 0, ready := 0, aged := false
            flushed := none, also := [], exitedAt := 0 }

/-- A cohort without its barrier. -/
def Cohort.still (c : Cohort) : Cohort := { c with barrier := none, spanArrived := false }

/-- A core without its L1. -/
def Core.still (k : Core) : Core := { k with l1 := [] }

/-- A state without its strands, cohorts, spans and cores. -/
def State.rest (s : State) : State := { s with strands := [], cohorts := [], spans := [], cores := [] }

/-- Only frontiers, barriers, the lines that an acquire drops from an L1 and the scheduling state differ. -/
structure Quiet (s t : State) : Prop where
  strands : ∀ k, (t.strand k).still = (s.strand k).still
  cohorts : ∀ c, (t.cohort c).still = (s.cohort c).still
  cores : ∀ c, (t.core c).still = (s.core c).still
  rest : t.rest = s.rest

theorem Quiet.refl (s : State) : Quiet s s := ⟨fun _ => rfl, fun _ => rfl, fun _ => rfl, rfl⟩
theorem Quiet.trans {s t u : State} (h : Quiet s t) (g : Quiet t u) : Quiet s u :=
  ⟨fun k => (g.strands k).trans (h.strands k), fun c => (g.cohorts c).trans (h.cohorts c),
    fun c => (g.cores c).trans (h.cores c), g.rest.trans h.rest⟩

theorem Quiet.setStrand (s : State) (k : Nat) (x : Strand) (h : x.still = (s.strand k).still) : Quiet s (s.setStrand k x) := by
  refine ⟨fun j => ?_, fun _ => rfl, fun _ => rfl, rfl⟩
  rw [State.strand_setStrand]
  split
  · rename_i e; rw [e, h]
  · rfl

theorem Quiet.setCohort (s : State) (k : DWord) (x : Cohort) (h : x.still = (s.cohort k).still) : Quiet s (s.setCohort k x) := by
  refine ⟨fun _ => rfl, fun j => ?_, fun _ => rfl, rfl⟩
  rw [State.cohort_setCohort]
  split
  · rename_i e; rw [e, h]
  · rfl

theorem Quiet.spans (s : State) (x : Tab Span) : Quiet s { s with spans := x } :=
  ⟨fun _ => rfl, fun _ => rfl, fun _ => rfl, rfl⟩

theorem Quiet.invalidateL1 (s : State) (c : Nat) : Quiet s (s.invalidateL1 c) := by
  refine ⟨fun _ => rfl, fun _ => rfl, fun j => ?_, rfl⟩
  unfold State.invalidateL1
  dsimp only
  rw [State.core_setCore]
  split
  · rename_i e; rw [e]; rfl
  · rfl

theorem Quiet.cohortSpans (s : State) (k : DWord) (c : Cohort) (x : Tab Span) (h : c.still = (s.cohort k).still) :
    Quiet s { s.setCohort k c with spans := x } :=
  Quiet.trans (Quiet.setCohort s k c h) (Quiet.spans _ x)

theorem Quiet.foldl {α : Type} (f : State → α → State) (h : ∀ s x, Quiet s (f s x)) (l : List α) (s : State) :
    Quiet s (l.foldl f s) := by
  induction l generalizing s with
  | nil => exact Quiet.refl s
  | cons a l ih => exact (h s a).trans (ih _)

theorem quiet_releaseBarrier (s : State) (ccb : DWord) : Quiet s (s.releaseBarrier ccb) := by
  unfold State.releaseBarrier
  dsimp only
  refine Quiet.trans ?_ (Quiet.setCohort _ _ _ rfl)
  apply Quiet.foldl
  intro s k
  exact Quiet.setStrand _ _ _ rfl

theorem quiet_checkSpan (s : State) (id : Nat) : Quiet s (s.checkSpan id) := by
  unfold State.checkSpan
  dsimp only
  split
  · exact Quiet.refl s
  · refine Quiet.trans (Quiet.spans s _) (Quiet.foldl _ (fun s x => ?_) _ _)
    split
    · exact (quiet_releaseBarrier _ _).trans (Quiet.invalidateL1 _ _)
    · exact Quiet.refl _

theorem quiet_checkBarrier (s : State) (ccb : DWord) : Quiet s (s.checkBarrier ccb) := by
  unfold State.checkBarrier
  dsimp only
  split
  · exact quiet_checkSpan s _
  · split
    · exact Quiet.refl s
    · split
      · exact quiet_releaseBarrier s ccb
      · exact (Quiet.cohortSpans s ccb { s.cohort ccb with spanArrived := true } _ rfl).trans (quiet_checkSpan _ _)

/-- Unless the strand has just become empty. -/
theorem quiet_afterFrontier (s : State) (k : Nat) (h : (s.strand k).done = false ∨ (s.strand k).exited = true) :
    Quiet s (s.afterFrontier k) := by
  unfold State.afterFrontier
  dsimp only
  split
  · exact Quiet.refl s
  · have hc : ((s.strand k).done && !(s.strand k).exited) = false := by
      rcases h with h | h <;> simp [h]
    simp only [hc, Bool.false_eq_true, if_false]
    have q : ∀ (b : Bool) (n : Nat), Quiet s (s.setStrand k { s.strand k with exited := b, exitedAt := n }) :=
      fun b n => Quiet.setStrand s k { s.strand k with exited := b, exitedAt := n } rfl
    split
    · exact (q _ _).trans (quiet_checkBarrier _ _)
    · exact q _ _

theorem mergeEntries_ne_nil (l : List Entry) (h : l ≠ []) : mergeEntries l ≠ [] := by
  cases l with
  | nil => exact absurd rfl h
  | cons x t =>
    unfold mergeEntries
    split
    · simp
    · split <;> simp

theorem insertEntry_ne_nil (e : Entry) (l : List Entry) : insertEntry e l ≠ [] := by
  cases l with
  | nil => simp [insertEntry]
  | cons x t => unfold insertEntry; split <;> simp

theorem orderFrontier_ne_nil (l : List Entry) (h : l ≠ []) : orderFrontier l ≠ [] := by
  refine mergeEntries_ne_nil _ ?_
  have aux : ∀ (l acc : List Entry), (l ≠ [] ∨ acc ≠ []) → l.foldl (fun acc e => insertEntry e acc) acc ≠ [] := by
    intro l
    induction l with
    | nil => intro acc h; rcases h with h | h; exact absurd rfl h; exact h
    | cons a t ih => intro acc _; exact ih _ (.inr (insertEntry_ne_nil a acc))
  exact aux l [] (.inl h)

theorem orderRaises_nil : orderRaises [] = [] := rfl

/-- The end of an issue without causes, some lane of which goes on. -/
theorem quiet_settle (s : State) (outs : List (Pc × Mask)) (h : outs.any (fun o => decide (o.2 ≠ 0)) = true)
    (ha : s.cur.also = []) : Quiet s (s.settle outs []) := by
  unfold State.settle
  dsimp only
  simp only [ha, List.append_nil, List.filter_nil, orderRaises_nil, List.foldl_nil]
  refine Quiet.trans ?_ (quiet_afterFrontier _ _ (.inl ?_))
  · exact Quiet.setStrand s s.curKey _ rfl
  have e : ∀ x : Strand, (s.setCur x).strand s.curKey = x := fun x => State.strand_setStrand_self s s.curKey x
  rw [e]
  unfold Strand.done
  have hne : ∀ (st : Strand) (l : List Entry), l ≠ [] → ((st.setFrontier l).frontier).isEmpty = false := by
    intro st l hl
    have := orderFrontier_ne_nil l hl
    simpa [Strand.setFrontier, List.isEmpty_iff] using this
  rw [Bool.and_eq_false_iff]
  left
  refine hne s.cur _ ?_
  intro hnil
  rw [List.append_eq_nil_iff] at hnil
  have h2 := hnil.2
  rw [List.map_eq_nil_iff, List.filter_eq_nil_iff] at h2
  obtain ⟨o, ho, hp⟩ := List.any_eq_true.1 h
  exact h2 o ho hp

theorem quiet_advance (s : State) (h : HasLanes s) : Quiet s s.advance := by
  unfold State.advance
  refine quiet_settle s _ ?_ h.2
  simpa using h.1

theorem setFrontier_frontier (st : Strand) (l : List Entry) : (st.setFrontier l).frontier = orderFrontier l := rfl

/-- The frontier after an issue without causes, some lane of which goes on (06 R157, R159). -/
theorem goes_settle (s : State) (outs : List (Pc × Mask)) (h : outs.any (fun o => decide (o.2 ≠ 0)) = true)
    (ha : s.cur.also = []) : Goes s (s.settle outs []) outs := by
  intro hb
  unfold State.settle
  dsimp only
  simp only [ha, List.append_nil, List.filter_nil, orderRaises_nil, List.foldl_nil]
  generalize hx : ({ s.cur.setFrontier _ with
    stall := 0, lastIssue := s.now, ready := 0, aged := false, also := [], flushed := _ } : Strand) = x
  have hf : x.frontier = s.moved outs := by rw [← hx]; rfl
  have hsup : x.sup = s.cur.sup := by rw [← hx]; rfl
  have hccb : x.ccb = s.cur.ccb := by rw [← hx]; rfl
  have hne : x.frontier ≠ [] := by
    rw [hf]; unfold State.moved
    refine orderFrontier_ne_nil _ ?_
    intro hnil
    rw [List.append_eq_nil_iff] at hnil
    have h2 := hnil.2
    rw [List.map_eq_nil_iff, List.filter_eq_nil_iff] at h2
    obtain ⟨o, ho, hp⟩ := List.any_eq_true.1 h
    exact h2 o ho hp
  unfold State.afterFrontier
  dsimp only
  have e : (s.setCur x).strand s.curKey = x := State.strand_setStrand_self s s.curKey x
  rw [e, hsup]
  split
  · show ((s.setCur x).strand s.curKey).frontier = _; rw [e, hf]
  · rename_i hns
    have hbn : s.curCohort.barrier = none := by rcases hb with hb | hb; exact absurd hb hns; exact hb
    have hd : x.done = false := by
      unfold Strand.done; cases hh : x.frontier with
      | nil => exact absurd hh hne
      | cons a l => simp
    have hb2 : ∀ y : Strand, (((s.setCur x).setStrand s.curKey y).cohort x.ccb).barrier = none := by
      intro y; rw [hccb]; exact hbn
    simp only [hd, Bool.false_and, Bool.false_eq_true, if_false, hb2, Option.isSome_none, Bool.or_self]
    show ((((s.setCur x).setStrand s.curKey _).strand s.curKey)).frontier = _
    rw [State.strand_setStrand_self]; exact hf

theorem goes_advance (s : State) (h : HasLanes s) : Goes s s.advance [((candidate s.cur).pc + 4, (candidate s.cur).mask)] := by
  unfold State.advance
  exact goes_settle s _ (by simpa using h.1) h.2

/-! ### What follows from it -/

theorem Quiet.curKey {s t : State} (h : Quiet s t) : t.curKey = s.curKey := (congrArg State.curKey h.rest :)
theorem Quiet.cur {s t : State} (h : Quiet s t) : t.cur.still = s.cur.still := by
  unfold State.cur; rw [h.curKey]; exact h.strands _

theorem sameRegisters_of_still {a b : Strand} (h : b.still = a.still) (L S : Nat → Prop) :
    SameRegisters a b L S a.stat := by
  have hv : b.vec = a.vec := (congrArg Strand.vec h :)
  have hs : b.scal = a.scal := (congrArg Strand.scal h :)
  exact ⟨fun n _ => by unfold Strand.line; rw [hv], fun m _ => by unfold Strand.scalar; rw [hs],
    (congrArg Strand.stat h :), (congrArg Strand.wb h :), (congrArg Strand.gang h :), (congrArg Strand.cause h :),
    (congrArg Strand.taddr h :), (congrArg Strand.tmask h :), (congrArg Strand.handler h :), (congrArg Strand.sigmask h :),
    (congrArg Strand.faddr h :)⟩

theorem SameRegisters.trans {a b c : Strand} {L S : Nat → Prop} {x y : DWord} (h : SameRegisters a b L S x)
    (g : SameRegisters b c L S y) : SameRegisters a c L S y :=
  ⟨fun n hn => (g.lines n hn).trans (h.lines n hn), fun m hm => (g.scalars m hm).trans (h.scalars m hm), g.stat,
    g.window.trans h.window, g.gang.trans h.gang, g.cause.trans h.cause, g.taddr.trans h.taddr, g.tmask.trans h.tmask,
    g.handler.trans h.handler, g.sigmask.trans h.sigmask, g.faddr.trans h.faddr⟩

theorem Quiet.memory {s t : State} (h : Quiet s t) : SameMemory s t :=
  ⟨(congrArg State.local_ h.rest :), (congrArg State.host h.rest :), (congrArg State.peer h.rest :),
    fun c => (congrArg Cohort.scratch (h.cohorts c) :),
    fun c => (congrArg Core.tile (h.cores c) :)⟩

theorem Quiet.engines {s t : State} (h : Quiet s t) : SameEngines s t := by
  have h1 := congrArg (fun x : State => (x.disp, x.link, x.guard, x.root, x.contexts)) h.rest
  simp only [State.rest, Prod.mk.injEq] at h1
  exact ⟨h1.1, h1.2.1, h1.2.2.1, h1.2.2.2.1, h1.2.2.2.2, fun c => (congrArg Core.frb (h.cores c) :),
    fun c => (congrArg Core.frt (h.cores c) :), fun c => (congrArg Core.frh (h.cores c) :),
    fun c => (congrArg Core.tgt (h.cores c) :), fun c => (congrArg Core.lmap (h.cores c) :),
    fun c => (congrArg Core.cmap (h.cores c) :)⟩

theorem SameMemory.refl (s : State) : SameMemory s s := ⟨rfl, rfl, rfl, fun _ => rfl, fun _ => rfl⟩
theorem SameMemory.trans {s t u : State} (h : SameMemory s t) (g : SameMemory t u) : SameMemory s u :=
  ⟨g.local_.trans h.local_, g.host.trans h.host, g.peer.trans h.peer, fun c => (g.scratch c).trans (h.scratch c),
    fun c => (g.tile c).trans (h.tile c)⟩
theorem SameEngines.refl (s : State) : SameEngines s s :=
  ⟨rfl, rfl, rfl, rfl, rfl, fun _ => rfl, fun _ => rfl, fun _ => rfl, fun _ => rfl, fun _ => rfl, fun _ => rfl⟩
theorem SameEngines.trans {s t u : State} (h : SameEngines s t) (g : SameEngines t u) : SameEngines s u :=
  ⟨g.disp.trans h.disp, g.link.trans h.link, g.guard.trans h.guard, g.root.trans h.root, g.contexts.trans h.contexts,
    fun c => (g.frb c).trans (h.frb c), fun c => (g.frt c).trans (h.frt c), fun c => (g.frh c).trans (h.frh c),
    fun c => (g.tgt c).trans (h.tgt c), fun c => (g.lmap c).trans (h.lmap c), fun c => (g.cmap c).trans (h.cmap c)⟩
theorem SameRegisters.refl (a : Strand) (L S : Nat → Prop) : SameRegisters a a L S a.stat :=
  sameRegisters_of_still rfl L S

/-- A kept state may still see the end of an issue. -/
theorem Keeps.quiet {s t u : State} {L S : Nat → Prop} {x : DWord} (h : Keeps s t L S x) (q : Quiet t u) : Keeps s u L S x := by
  refine ⟨q.curKey.trans h.issuing, ?_, fun k hk => ?_, h.memory.trans q.memory, h.engines.trans q.engines, fun hd =>
    ⟨(congrArg Strand.drains q.cur :).trans (h.accumulators hd).1, fun c => (congrArg Core.accs (q.cores c) :).trans ((h.accumulators hd).2 c)⟩⟩
  · have := h.own.trans (sameRegisters_of_still q.cur L S)
    rw [h.own.stat] at this; exact this
  · have := (h.others k hk).trans (sameRegisters_of_still (q.strands k) (fun _ => False) (fun _ => False))
    rw [(h.others k hk).stat] at this; exact this

theorem Keeps.refl (s : State) (L S : Nat → Prop) : Keeps s s L S s.cur.stat :=
  ⟨rfl, SameRegisters.refl _ _ _, fun k _ => SameRegisters.refl _ _ _, SameMemory.refl s, SameEngines.refl s,
    fun h => ⟨h, fun _ => rfl⟩⟩

theorem Keeps.trans {s t u : State} {L S : Nat → Prop} {x y : DWord} (h : Keeps s t L S x) (g : Keeps t u L S y) :
    Keeps s u L S y := by
  refine ⟨g.issuing.trans h.issuing, h.own.trans g.own, fun k hk => ?_, h.memory.trans g.memory, h.engines.trans g.engines,
    fun hd => ⟨(g.accumulators (h.accumulators hd).1).1,
      fun c => ((g.accumulators (h.accumulators hd).1).2 c).trans ((h.accumulators hd).2 c)⟩⟩
  have h2 := g.others k (by rw [h.issuing]; exact hk)
  have := (h.others k hk).trans h2
  rw [(h.others k hk).stat] at this; exact this

end Sys2Proof.Machine
end

