-- ==== Sys2Proof/Laws/Operands.lean ====
section
/-! SUPPORT. What the checks before an instruction, the pops of its sources and the writes of its destination can do. -/

namespace Sys2Proof.Machine

/-! ### The checks before an instruction -/

theorem operandCause_of_ready {s : State} {us : List Use} {extra : List Nat} (h : Ready s us extra) {priv : Bool}
    (hp : priv = true → s.cur.priv = true) : s.operandCause us false priv = none := by
  have h1 : us.any (fun u => !u.accepted) = false := by
    rw [List.any_eq_false]; intro u hu; simpa using (List.all_eq_true.1 h.accepted u hu)
  have h2 : (priv && !s.cur.priv) = false := by
    cases priv with
    | false => rfl
    | true => simp [hp rfl]
  have hl : ∀ u ∈ us, ∀ n ∈ u.lines s.cur.wb, s.cur.vFull.getLsbD n = true := by
    intro u hu n hn
    have := List.all_eq_true.1 h.full n (List.mem_append_left _ (List.mem_flatMap.2 ⟨u, hu, hn⟩))
    simp only [Bool.and_eq_true] at this
    exact this.1
  have hq : ∀ q ∈ sourceQueues us, ∃ x, s.peek s.cur q = .entry x := by
    intro q hq
    have := List.all_eq_true.1 h.entries q hq
    revert this
    cases s.peek s.cur q with
    | entry x => intro _; exact ⟨x, rfl⟩
    | empty => intro h; cases h
    | bad c t => intro h; cases h
  have hsq : ∀ u ∈ us, u.role.source = true → ∀ q, u.queue? = some q → q ∈ sourceQueues us := by
    intro u hu hr q hqq
    unfold sourceQueues
    have aux : ∀ (l : List Use) (acc : List Nat), (q ∈ acc ∨ u ∈ l) → q ∈ l.foldl (fun acc u => match u.queue? with
        | some q => if acc.contains q then acc else acc ++ [q]
        | none => acc) acc := by
      intro l
      induction l with
      | nil => intro acc h; rcases h with h | h; exact h; cases h
      | cons a l ih =>
        intro acc h
        simp only [List.foldl_cons]
        apply ih
        rcases h with h | h
        · left
          split
          · split
            · exact h
            · exact List.mem_append_left _ h
          · exact h
        · rcases List.mem_cons.1 h with rfl | h
          · left
            rw [hqq]
            dsimp only
            split
            · rename_i hc; simpa using hc
            · exact List.mem_append_right _ (List.mem_singleton.2 rfl)
          · exact .inr h
    exact aux _ _ (.inr (List.mem_filter.2 ⟨hu, hr⟩))
  have h3 : us.any (fun u => u.trap && u.role.source && !s.cur.misuses u && s.useEmpty s.cur u) = false := by
    rw [List.any_eq_false]
    intro u hu
    have e : u.role.source = true → s.useEmpty s.cur u = false := by
      intro hr
      unfold State.useEmpty
      have e1 : (u.lines s.cur.wb).any (fun n => decide (n < s.cur.nlines) && !s.cur.vFull.getLsbD n) = false := by
        rw [List.any_eq_false]; intro n hn; simp [hl u hu n hn]
      rw [e1]
      have hs := List.all_eq_true.1 h.scalars u hu
      have hqe := hsq u hu hr
      revert hs hqe
      cases u.scalar? <;> cases u.queue? <;> intro hs hqe <;> simp_all
      all_goals (obtain ⟨x, hx⟩ := hq _ hqe; simp [hx])
    cases hr : u.role.source with
    | false => simp
    | true => simp [e hr]
  have h4 : (usedLines us s.cur.wb).any (fun n => decide (s.cur.nlines ≤ n)) = false := by
    rw [List.any_eq_false]; intro n hn
    have := List.all_eq_true.1 h.declared n hn
    simp only [decide_eq_true_eq] at this
    simp; omega
  have h5 : us.any (fun u => s.cur.misuses u) = false := by
    rw [List.any_eq_false]; intro u hu; simpa using (List.all_eq_true.1 h.allowed u hu)
  unfold State.operandCause
  simp only [h1, h2, h3, h4, h5, Bool.false_eq_true, if_false]
  split
  · rename_i c t l hm
    have hmem : (c, t) ∈ (c, t) :: l := List.mem_cons_self ..
    rw [← hm] at hmem
    obtain ⟨q, hqm, he⟩ := List.mem_filterMap.1 hmem
    obtain ⟨x, hx⟩ := hq q hqm
    simp [hx] at he
  · rfl

theorem operandWait_of_ready {s : State} {us : List Use} {extra : List Nat} (h : Ready s us extra) :
    s.operandWait us extra false = none := by
  have h1 : (usedLines us s.cur.wb ++ extra).any (fun n => s.cur.absent.getLsbD n) = false := by
    rw [List.any_eq_false]; intro n hn
    have := List.all_eq_true.1 h.full n hn
    simp only [Bool.and_eq_true] at this
    simpa using this.2
  have h2 : (usedLines us s.cur.wb ++ extra).any (fun n => !s.cur.vFull.getLsbD n) = false := by
    rw [List.any_eq_false]; intro n hn
    have := List.all_eq_true.1 h.full n hn
    simp only [Bool.and_eq_true] at this
    simp [this.1]
  have h4 : (sourceQueues us).any (fun q => decide (s.peek s.cur q = .empty)) = false := by
    rw [List.any_eq_false]; intro q hq
    have := List.all_eq_true.1 h.entries q hq
    revert this
    cases s.peek s.cur q <;> simp [Peek.isEntry]
  have h5 : (destQueues us).any (fun q => decide (16 ≤ s.mailboxLoad (s.cohort s.cur.ccb)) && !(sourceQueues us).contains q) = false := by
    rw [List.any_eq_false]; intro q hq
    have := List.all_eq_true.1 h.room q hq
    simp only [Bool.or_eq_true, decide_eq_true_eq] at this
    rcases this with h | h
    · rw [h]; simp
    · have : ¬ 16 ≤ s.mailboxLoad (s.cohort s.cur.ccb) := by omega
      simp [this]
  unfold State.operandWait
  simp only [h1, h2, h4, h5, h.floats, h.matrix, h.late, Bool.false_eq_true, if_false, Bool.or_self, Bool.false_or]
  rw [if_neg]
  rw [Bool.not_eq_true, List.any_eq_false]; intro u hu
  have := List.all_eq_true.1 h.scalars u hu
  revert this; cases u.scalar? <;> simp

/-- Nothing holds a ready instruction back. -/
theorem halted_of_ready {s : State} {us : List Use} {extra : List Nat} (h : Ready s us extra) {priv : Bool}
    (hp : priv = true → s.cur.priv = true) : s.halted us extra false priv false = none := by
  unfold State.halted
  rw [operandCause_of_ready h hp]
  exact operandWait_of_ready h

theorem run_of_ready {s : State} {us : List Use} {extra : List Nat} (h : Ready s us extra) {priv : Bool}
    (hp : priv = true → s.cur.priv = true) (k : State → State) : run s us extra false priv k = .next (k s) := by
  unfold run runWith
  rw [halted_of_ready h hp]
  simp [h.sound]

theorem runVec_of_ready {s : State} {us : List Use} {extra : List Nat} (h : Ready s us extra) (hc : s.cur.chk ≠ 1) (n : Nat)
    (k : State → State) : runVec s n us extra false false k = .next (k s) := by
  unfold runVec
  have h1 : s.queuesReplay s.cur (candidate s.cur).mask = false := by
    unfold State.queuesReplay; simp [hc]
  simp only [h1, hc, Bool.false_eq_true, if_false, false_and]
  exact run_of_ready h (by simp) k

theorem runPointWith_of_ready {s : State} {us : List Use} {extra : List Nat} (h : Ready s us extra) (hc : Unchecked s)
    {priv : Bool} (hp : priv = true → s.cur.priv = true) (flags : Bool) (k : State → State) :
    runPointWith flags s us extra false priv k = .next (k s) := by
  unfold runPointWith runWith
  simp only [hc.replayed]
  rw [halted_of_ready h hp]
  simp only [h.sound, if_true, hc.matched]
  have : s.cur.shadow = false := by unfold Strand.shadow; simp [hc.mode]
  simp [this]

theorem runPoint_of_ready {s : State} {us : List Use} {extra : List Nat} (h : Ready s us extra) (hc : Unchecked s) {priv : Bool}
    (hp : priv = true → s.cur.priv = true) (k : State → State) : runPoint s us extra false priv k = .next (k s) :=
  runPointWith_of_ready h hc hp true k

theorem runCompare_of_ready {s : State} {us : List Use} {extra : List Nat} (h : Ready s us extra) (hc : Unchecked s)
    {priv : Bool} (hp : priv = true → s.cur.priv = true) (k : State → State) : runCompare s us extra false priv k = .next (k s) :=
  runPointWith_of_ready h hc hp false k

/-! ### Pops -/

/-- A strand without its queues. -/
def Strand.queueless (st : Strand) : Strand := { st with replies := [], drains := [], readyq := [] }

/-- A cohort without its mailbox. -/
def Cohort.queueless (c : Cohort) : Cohort := { c with mailbox := [], mailboxHead := 0, mailAt := 0 }

/-- What pops leave alone. -/
structure Popped (s t : State) : Prop where
  curKey : t.curKey = s.curKey
  strands : ∀ k, (t.strand k).queueless = (s.strand k).queueless
  memory : SameMemory s t
  engines : SameEngines s t
  accumulators : ∀ k, (s.strand k).drains = [] → (t.strand k).drains = []
  kept : (∀ k, k = s.curKey → (s.strand k).drains = []) → ∀ c, (t.core c).accs = (s.core c).accs
  /-- Cohorts change in their mailboxes alone. -/
  cohorts : ∀ c, (t.cohort c).queueless = (s.cohort c).queueless

theorem Popped.refl (s : State) : Popped s s :=
  ⟨rfl, fun _ => rfl, SameMemory.refl s, SameEngines.refl s, fun _ h => h, fun _ _ => rfl, fun _ => rfl⟩
theorem Popped.trans {s t u : State} (h : Popped s t) (g : Popped t u) : Popped s u :=
  ⟨g.curKey.trans h.curKey, fun k => (g.strands k).trans (h.strands k), h.memory.trans g.memory, h.engines.trans g.engines,
    fun k hk => g.accumulators k (h.accumulators k hk),
    fun hd c => (g.kept (fun k hk => h.accumulators k (hd k (hk.trans h.curKey))) c).trans (h.kept hd c),
    fun c => (g.cohorts c).trans (h.cohorts c)⟩

theorem SameMemory.setStrand (s : State) (k : Nat) (x : Strand) : SameMemory s (s.setStrand k x) :=
  ⟨rfl, rfl, rfl, fun _ => rfl, fun _ => rfl⟩
theorem SameEngines.setStrand (s : State) (k : Nat) (x : Strand) : SameEngines s (s.setStrand k x) :=
  ⟨rfl, rfl, rfl, rfl, rfl, fun _ => rfl, fun _ => rfl, fun _ => rfl, fun _ => rfl, fun _ => rfl, fun _ => rfl⟩
theorem SameMemory.setCohort (s : State) (k : DWord) (x : Cohort) (h : x.scratch = (s.cohort k).scratch) :
    SameMemory s (s.setCohort k x) :=
  ⟨rfl, rfl, rfl, fun c => by rw [State.cohort_setCohort]; split; · rename_i e; rw [e, h]
                              · rfl, fun _ => rfl⟩
theorem SameEngines.setCohort (s : State) (k : DWord) (x : Cohort) : SameEngines s (s.setCohort k x) :=
  ⟨rfl, rfl, rfl, rfl, rfl, fun _ => rfl, fun _ => rfl, fun _ => rfl, fun _ => rfl, fun _ => rfl, fun _ => rfl⟩

/-- Two cores with the same tile store and the same registers. -/
def Core.alike (a b : Core) : Prop :=
  b.tile = a.tile ∧ b.frb = a.frb ∧ b.frt = a.frt ∧ b.frh = a.frh ∧ b.tgt = a.tgt ∧ b.lmap = a.lmap ∧ b.cmap = a.cmap
theorem Core.alike_refl (a : Core) : a.alike a := ⟨rfl, rfl, rfl, rfl, rfl, rfl, rfl⟩

theorem alike_setCore (s : State) (k : Nat) (x : Core) (h : (s.core k).alike x) (c : Nat) :
    (s.core c).alike ((s.setCore k x).core c) := by
  rw [State.core_setCore]
  split
  · rename_i e; rw [e]; exact h
  · exact Core.alike_refl _

theorem SameMemory.setCore (s : State) (k : Nat) (x : Core) (h : (s.core k).alike x) : SameMemory s (s.setCore k x) :=
  ⟨rfl, rfl, rfl, fun _ => rfl, fun c => (alike_setCore s k x h c).1⟩
theorem SameEngines.setCore (s : State) (k : Nat) (x : Core) (h : (s.core k).alike x) : SameEngines s (s.setCore k x) :=
  ⟨rfl, rfl, rfl, rfl, rfl, fun c => (alike_setCore s k x h c).2.1, fun c => (alike_setCore s k x h c).2.2.1,
    fun c => (alike_setCore s k x h c).2.2.2.1, fun c => (alike_setCore s k x h c).2.2.2.2.1,
    fun c => (alike_setCore s k x h c).2.2.2.2.2.1, fun c => (alike_setCore s k x h c).2.2.2.2.2.2⟩

theorem Popped.setStrand (s : State) (k : Nat) (x : Strand) (h : x.queueless = (s.strand k).queueless)
    (hd : (s.strand k).drains = [] → x.drains = []) : Popped s (s.setStrand k x) := by
  refine ⟨rfl, fun j => ?_, SameMemory.setStrand s k x, SameEngines.setStrand s k x, fun j hj => ?_, fun _ _ => rfl, fun _ => rfl⟩
  · rw [State.strand_setStrand]
    split
    · rename_i e; rw [e, h]
    · rfl
  · rw [State.strand_setStrand]
    split
    · rename_i e; exact hd (e ▸ hj)
    · exact hj

theorem Popped.setCore (s : State) (k : Nat) (x : Core) (h : (s.core k).alike x) (ha : x.accs = (s.core k).accs) :
    Popped s (s.setCore k x) :=
  ⟨rfl, fun _ => rfl, SameMemory.setCore s k x h, SameEngines.setCore s k x h, fun _ h => h,
    fun _ c => by rw [State.core_setCore]; split <;> simp_all, fun _ => rfl⟩
theorem Popped.setCohort (s : State) (k : DWord) (x : Cohort) (h : x.scratch = (s.cohort k).scratch)
    (hq : x.queueless = (s.cohort k).queueless) : Popped s (s.setCohort k x) :=
  ⟨rfl, fun _ => rfl, SameMemory.setCohort s k x h, SameEngines.setCohort s k x, fun _ h => h, fun _ _ => rfl,
    fun c => by rw [State.cohort_setCohort]; split <;> simp_all⟩

theorem popped_popDrain (s : State) (q : Nat) : Popped s (s.popDrain s.curKey q) := by
  unfold State.popDrain
  dsimp only
  split
  · exact Popped.refl s
  · rename_i d t hq
    have hne : (s.strand s.curKey).drains = [] → False := by intro h; rw [h] at hq; cases hq
    have h1 : ∀ x : Strand, x.queueless = (s.strand s.curKey).queueless → Popped s (s.setStrand s.curKey x) :=
      fun x h => Popped.setStrand _ _ _ h fun h => (hne h).elim
    split
    · generalize hx : ({ s.strand s.curKey with drains := _, readyq := _ } : Strand) = x
      have h2 := h1 x (by rw [← hx]; rfl)
      refine ⟨h2.curKey, h2.strands, h2.memory.trans (SameMemory.setCore _ _ _ ⟨rfl, rfl, rfl, rfl, rfl, rfl, rfl⟩),
        h2.engines.trans (SameEngines.setCore _ _ _ ⟨rfl, rfl, rfl, rfl, rfl, rfl, rfl⟩), h2.accumulators,
        fun hd => (hne (hd _ rfl)).elim, h2.cohorts⟩
    · exact h1 _ rfl

theorem popped_popQueue (s : State) (q : Nat) : Popped s (s.popQueue s.curKey q) := by
  unfold State.popQueue
  dsimp only
  split
  · exact Popped.setCore _ _ _ ⟨rfl, rfl, rfl, rfl, rfl, rfl, rfl⟩ rfl
  · split
    · exact Popped.setCohort _ _ _ rfl rfl
    · split
      · exact Popped.setStrand _ _ _ rfl fun h => h
      · exact popped_popDrain s q

/-- Popping the sources changes nothing but queues and, for a drain that clears, accumulators. -/
theorem popped_popSources (s : State) (us : List Use) : Popped s (s.popSources us) := by
  unfold State.popSources
  generalize sourceQueues us = l
  induction l generalizing s with
  | nil => exact Popped.refl s
  | cons q l ih => exact (popped_popQueue s q).trans (ih _)

theorem popSources_of_none (s : State) (us : List Use) (h : popsInto us = false) : s.popSources us = s := by
  unfold popsInto at h
  have : sourceQueues us = [] := by simpa using h
  unfold State.popSources; rw [this]; rfl

theorem Popped.cur {s t : State} (h : Popped s t) : t.cur.queueless = s.cur.queueless := by
  unfold State.cur; rw [h.curKey]; exact h.strands _

theorem sameRegisters_of_queueless {a b : Strand} (h : b.queueless = a.queueless) (L S : Nat → Prop) :
    SameRegisters a b L S a.stat := by
  have hv : b.vec = a.vec := (congrArg Strand.vec h :)
  have hs : b.scal = a.scal := (congrArg Strand.scal h :)
  exact ⟨fun n _ => by unfold Strand.line; rw [hv], fun m _ => by unfold Strand.scalar; rw [hs],
    (congrArg Strand.stat h :), (congrArg Strand.wb h :), (congrArg Strand.gang h :), (congrArg Strand.cause h :),
    (congrArg Strand.taddr h :), (congrArg Strand.tmask h :), (congrArg Strand.handler h :), (congrArg Strand.sigmask h :),
    (congrArg Strand.faddr h :)⟩

theorem Popped.keeps {s t : State} (h : Popped s t) (L S : Nat → Prop) : Keeps s t L S s.cur.stat :=
  ⟨h.curKey, sameRegisters_of_queueless h.cur L S,
    fun k _ => sameRegisters_of_queueless (h.strands k) (fun _ => False) (fun _ => False), h.memory, h.engines,
    fun hd => ⟨by unfold State.cur; rw [h.curKey]; exact h.accumulators _ hd, h.kept fun k hk => hk ▸ hd⟩⟩

/-- Whether lanes can go on depends on the frontier and on the causes beside the instruction alone. -/
theorem HasLanes.of {s t : State} (h : HasLanes s) (hf : t.cur.frontier = s.cur.frontier) (ha : t.cur.also = s.cur.also) :
    HasLanes t := by
  have hc : candidate t.cur = candidate s.cur := by unfold candidate candidate?; rw [hf]
  unfold HasLanes; rw [hc, ha]; exact h

theorem Popped.hasLanes {s t : State} (p : Popped s t) (h : HasLanes s) : HasLanes t :=
  h.of (congrArg Strand.frontier p.cur :) (congrArg Strand.also p.cur :)

/-! ### Writes of the issuing strand -/

/-- A new value of the issuing strand with the same registers but those listed. -/
theorem Keeps.setCur {s : State} {x : Strand} {L S : Nat → Prop} {y : DWord} (h : SameRegisters s.cur x L S y)
    (hd : x.drains = s.cur.drains := by first | rfl | (subst_vars; rfl) | (subst_vars; simp)) :
    Keeps s (s.setCur x) L S y := by
  refine ⟨rfl, by rw [State.cur_setCur]; exact h, fun k hk => ?_, SameMemory.setStrand s _ x, SameEngines.setStrand s _ x,
    fun h0 => ⟨by rw [State.cur_setCur, hd]; exact h0, fun _ => rfl⟩⟩
  show SameRegisters (s.strand k) ((s.setStrand s.curKey x).strand k) _ _ _
  rw [State.strand_setStrand_ne s _ _ _ hk]
  exact SameRegisters.refl _ _ _

theorem Keeps.setCohort {s : State} {k : DWord} {x : Cohort} (h : x.scratch = (s.cohort k).scratch) (L S : Nat → Prop) :
    Keeps s (s.setCohort k x) L S s.cur.stat :=
  ⟨rfl, SameRegisters.refl _ _ _, fun _ _ => SameRegisters.refl _ _ _, SameMemory.setCohort s k x h, SameEngines.setCohort s k x,
    fun h0 => ⟨h0, fun _ => rfl⟩⟩

theorem candidate_congr {a b : Strand} (h : b.frontier = a.frontier) : candidate b = candidate a := by
  unfold candidate candidate?; rw [h]

theorem Popped.frontier {s t : State} (h : Popped s t) : t.cur.frontier = s.cur.frontier := (congrArg Strand.frontier h.cur :)
theorem Popped.candidate {s t : State} (h : Popped s t) : candidate t.cur = candidate s.cur := candidate_congr h.frontier
theorem Popped.wb {s t : State} (h : Popped s t) : t.cur.wb = s.cur.wb := (congrArg Strand.wb h.cur :)
theorem Popped.ccb {s t : State} (h : Popped s t) : t.cur.ccb = s.cur.ccb := (congrArg Strand.ccb h.cur :)
theorem Popped.stat {s t : State} (h : Popped s t) : t.cur.stat = s.cur.stat := (congrArg Strand.stat h.cur :)
theorem Popped.line {s t : State} (h : Popped s t) (n : Nat) : t.cur.line n = s.cur.line n := by
  have : t.cur.vec = s.cur.vec := (congrArg Strand.vec h.cur :)
  unfold Strand.line; rw [this]

theorem getLsbD_setBit_false {w : Nat} (x : BitVec w) (i : Nat) : (setBit x i false).getLsbD i = false := by
  by_cases h : i < w
  · simp only [setBit, Bool.false_eq_true, if_false, BitVec.getLsbD_and, BitVec.getLsbD_not, BitVec.getLsbD_ofNat,
      Nat.testBit_two_pow_self, h, decide_true, Bool.and_self, Bool.not_true, Bool.and_false]
  · exact BitVec.getLsbD_of_ge _ _ (Nat.le_of_not_lt h)

/-- A vector destination: exactly what `VectorResult` says (08 R227, 04 R99). -/
theorem vectorResult_writeV (s : State) (us : List Use) (d : Code) (f : Nat → Word) (h : HasLanes s) :
    VectorResult s ((s.popSources us).writeV d (popsInto us) f).advance us d f := by
  have hp := popped_popSources s us
  have hk := hp.keeps (fun n => d.toNat < 0x60 ∧ popsInto us = false ∧ n = s.cur.wb + d.toNat) (fun _ => False)
  by_cases hd : d.toNat < 0x60
  · by_cases hl : popsInto us = true
    · -- a pop into a register
      have e : (s.popSources us).writeV d (popsInto us) f = (s.popSources us).setCur
          { (s.popSources us).cur.emptyLine ((s.popSources us).cur.wb + d.toNat) with
            producers := (s.popSources us).cur.producers ++ [{ lines := [((s.popSources us).cur.wb + d.toNat,
              (candidate (s.popSources us).cur).mask, mergeLine zeroLine (candidate (s.popSources us).cur).mask f)] }] } := by
        unfold State.writeV; simp [hd, hl]
      rw [e]
      generalize hx : ({ (s.popSources us).cur.emptyLine ((s.popSources us).cur.wb + d.toNat) with
            producers := (s.popSources us).cur.producers ++ [{ lines := [((s.popSources us).cur.wb + d.toNat,
              (candidate (s.popSources us).cur).mask, mergeLine zeroLine (candidate (s.popSources us).cur).mask f)] }] } : Strand) = x
      have q : Quiet ((s.popSources us).setCur x) ((s.popSources us).setCur x).advance := by
        apply quiet_advance
        exact (hp.hasLanes h).of (by rw [State.cur_setCur, ← hx]; rfl) (by rw [State.cur_setCur, ← hx]; rfl)
      have hcur := q.cur
      rw [State.cur_setCur] at hcur
      refine ⟨fun _ hn => absurd hl (by simp [hn]), fun _ _ => ⟨?_, ?_⟩, fun hn => absurd hd hn, ?_⟩
      · have : ((s.popSources us).setCur x).advance.cur.vFull = x.vFull := (congrArg Strand.vFull hcur :)
        rw [this, ← hx, ← hp.wb]
        exact getLsbD_setBit_false _ _
      · have : ((s.popSources us).setCur x).advance.cur.producers = x.producers := (congrArg Strand.producers hcur :)
        rw [this, ← hx, ← hp.wb, ← hp.candidate]
        exact ⟨_, List.mem_append_right _ (List.mem_singleton.2 rfl), rfl⟩
      · refine (hk.trans (Keeps.setCur (y := s.cur.stat) ?_)).quiet q
        rw [← hx, ← hp.stat]
        exact ⟨fun _ _ => rfl, fun _ _ => rfl, rfl, rfl, rfl, rfl, rfl, rfl, rfl, rfl, rfl⟩
    · have hl : popsInto us = false := by simpa using hl
      have hs := popSources_of_none s us hl
      rw [hs]
      have e : s.writeV d (popsInto us) f = s.setCur (s.cur.writeLanes (s.cur.wb + d.toNat) (candidate s.cur).mask f) := by
        unfold State.writeV; simp [hd, hl]
      rw [e]
      generalize hx : s.cur.writeLanes (s.cur.wb + d.toNat) (candidate s.cur).mask f = x
      have q : Quiet (s.setCur x) (s.setCur x).advance := by
        apply quiet_advance
        exact h.of (by rw [State.cur_setCur, ← hx]; rfl) (by rw [State.cur_setCur, ← hx]; rfl)
      have hcur := q.cur
      rw [State.cur_setCur] at hcur
      have hv : (s.setCur x).advance.cur.vec = x.vec := (congrArg Strand.vec hcur :)
      refine ⟨fun _ _ l hl64 => ?_, fun _ hn => absurd hn (by simp [hl]), fun hn => absurd hd hn, ?_⟩
      · have : (s.setCur x).advance.cur.line (s.cur.wb + d.toNat) = x.line (s.cur.wb + d.toNat) := by
          unfold Strand.line; rw [hv]
        rw [this, ← hx, Strand.line_writeLanes, if_pos rfl, laneOf_mergeLine _ _ _ _ hl64]
      · refine Keeps.quiet (Keeps.setCur ?_) q
        rw [← hx]
        refine ⟨fun n hn => ?_, fun _ _ => rfl, rfl, rfl, rfl, rfl, rfl, rfl, rfl, rfl, rfl⟩
        rw [Strand.line_writeLanes, if_neg fun en => hn ⟨hd, hl, en⟩]
  · have e : (s.popSources us).writeV d (popsInto us) f = (s.popSources us).pushQueue (s.popSources us).curKey
        (mergeLine zeroLine (candidate (s.popSources us).cur).mask f) := by
      unfold State.writeV; simp [hd]
    rw [e]
    have ek : ((s.popSources us).strand (s.popSources us).curKey).ccb = s.cur.ccb := hp.ccb
    unfold State.pushQueue
    dsimp only
    rw [ek]
    generalize hx : ({ (s.popSources us).cohort s.cur.ccb with
      mailbox := ((s.popSources us).cohort s.cur.ccb).mailbox ++ [mergeLine zeroLine (candidate (s.popSources us).cur).mask f], mailAt := _ } : Cohort) = x
    have q : Quiet ((s.popSources us).setCohort s.cur.ccb x) ((s.popSources us).setCohort s.cur.ccb x).advance := by
      apply quiet_advance
      exact (hp.hasLanes h).of rfl rfl
    refine ⟨fun hn => absurd hn hd, fun hn => absurd hn hd, fun _ => ?_, ?_⟩
    · have := (congrArg Cohort.mailbox (q.cohorts s.cur.ccb) :)
      rw [State.cohort_setCohort_self] at this
      have e2 : x.still.mailbox = x.mailbox := rfl
      show (((s.popSources us).setCohort s.cur.ccb x).advance.cohort s.cur.ccb).still.mailbox = _
      rw [this, e2, ← hx, hp.candidate]
    · refine Keeps.quiet (hk.trans (y := s.cur.stat) ?_) q
      have := Keeps.setCohort (s := s.popSources us) (k := s.cur.ccb) (x := x) (by rw [← hx])
        (fun n => d.toNat < 0x60 ∧ popsInto us = false ∧ n = s.cur.wb + d.toNat) (fun _ => False)
      rw [hp.stat] at this
      exact this

theorem markScalarWrite_stat_congr {a b : Strand} (hf : b.frontier = a.frontier) (hs : b.stat = a.stat) :
    b.markScalarWrite.stat = a.markScalarWrite.stat := by
  unfold Strand.markScalarWrite; rw [hf, hs]; split <;> simp [hs]

theorem Popped.scalar {s t : State} (h : Popped s t) (n : Nat) : t.cur.scalar n = s.cur.scalar n := by
  have : t.cur.scal = s.cur.scal := (congrArg Strand.scal h.cur :)
  unfold Strand.scalar; rw [this]

/-- Only frontiers and barriers change after a scalar result. -/
theorem ScalarResult.quiet {s t u : State} {us : List Use} {d : Code} {v x : DWord} (h : ScalarResult s t us d v x)
    (q : Quiet t u) : ScalarResult s u us d v x := by
  have hcur := q.cur
  refine ⟨fun h1 h2 => ?_, fun h1 h2 => ⟨?_, ?_⟩, fun h1 => ?_, h.keeps.quiet q⟩
  · have : u.cur.scal = t.cur.scal := (congrArg Strand.scal hcur :)
    rw [← h.now h1 h2]; unfold Strand.scalar; rw [this]
  · have : u.cur.sFull = t.cur.sFull := (congrArg Strand.sFull hcur :)
    rw [this]; exact (h.late h1 h2).1
  · have : u.cur.producers = t.cur.producers := (congrArg Strand.producers hcur :)
    rw [this]; exact (h.late h1 h2).2
  · rw [← h.push h1]; exact (congrArg Cohort.mailbox (q.cohorts s.cur.ccb) :)

/-- A change of STAT and of the shadow flags alone. -/
theorem ScalarResult.setStat {s t : State} {us : List Use} {d : Code} {v x : DWord} (h : ScalarResult s t us d v x)
    (y : DWord) (z : BitVec 5) : ScalarResult s (t.setCur { t.cur with stat := y, shadowFl := z }) us d v y := by
  refine ⟨fun h1 h2 => ?_, fun h1 h2 => ⟨?_, ?_⟩, fun h1 => h.push h1, ?_⟩
  · rw [State.cur_setCur]; exact h.now h1 h2
  · rw [State.cur_setCur]; exact (h.late h1 h2).1
  · rw [State.cur_setCur]; exact (h.late h1 h2).2
  · exact h.keeps.trans (Keeps.setCur ⟨fun _ _ => rfl, fun _ _ => rfl, rfl, rfl, rfl, rfl, rfl, rfl, rfl, rfl, rfl⟩)

theorem putScalar_drains (st : Strand) (late : Bool) (m : Nat) (v : DWord) : (st.putScalar late m v).drains = st.drains := by
  unfold Strand.putScalar; cases late <;> simp

/-- A scalar destination: exactly what `ScalarResult` says (03 R52, 04 R99, 06 R178). -/
theorem scalarResult_write (s : State) (us : List Use) (d : Code) (v : DWord) :
    ScalarResult s ((s.popSources us).writeS d (popsInto us) v) us d v s.cur.markScalarWrite.stat ∧
    ((s.popSources us).writeS d (popsInto us) v).cur.frontier = s.cur.frontier ∧
    ((s.popSources us).writeS d (popsInto us) v).cur.also = s.cur.also := by
  have hal : (s.popSources us).cur.also = s.cur.also := (congrArg Strand.also (popped_popSources s us).cur :)
  have hp := popped_popSources s us
  have hk := hp.keeps (fun _ => False) (fun m => d.toNat < 64 ∧ popsInto us = false ∧ m = d.toNat)
  have hm := markScalarWrite_stat_congr hp.frontier hp.stat
  by_cases hd : d.toNat < 64
  · have e : (s.popSources us).writeS d (popsInto us) v =
        (s.popSources us).setCur ((s.popSources us).cur.putScalar (popsInto us) d.toNat v) := by
      unfold State.writeS State.onCur; simp [hd]
    rw [e]
    generalize hx : (s.popSources us).cur.putScalar (popsInto us) d.toNat v = x
    have hfr : x.frontier = s.cur.frontier := by
      rw [← hx, ← hp.frontier]; unfold Strand.putScalar; cases popsInto us <;> simp
    have hax : x.also = s.cur.also := by
      rw [← hx, ← hal]; unfold Strand.putScalar; cases popsInto us <;> simp
    have hsame : SameRegisters (s.popSources us).cur x (fun _ => False)
        (fun m => d.toNat < 64 ∧ popsInto us = false ∧ m = d.toNat) s.cur.markScalarWrite.stat := by
      rw [← hx, ← hm]
      unfold Strand.putScalar
      cases hl : popsInto us with
      | true => exact ⟨fun _ _ => by simp [Strand.line], fun _ _ => by simp [Strand.scalar], rfl, by simp, by simp, by simp, by simp, by simp, by simp, by simp, by simp⟩
      | false =>
        refine ⟨fun _ _ => by simp, fun m hn => ?_, by simp, by simp, by simp, by simp, by simp, by simp, by simp, by simp, by simp⟩
        simp only [Bool.false_eq_true, if_false, Strand.scalar_setScalar]
        rw [if_neg fun en => hn ⟨hd, rfl, en⟩]; simp
    refine ⟨⟨fun _ hn => ?_, fun _ hn => ⟨?_, ?_⟩, fun hn => absurd hd hn,
      hk.trans (Keeps.setCur hsame (by rw [← hx, putScalar_drains]))⟩, ?_⟩
    · rw [State.cur_setCur, ← hx, hn]
      unfold Strand.putScalar
      simp [Strand.scalar_setScalar]
    · rw [State.cur_setCur, ← hx, hn]
      unfold Strand.putScalar
      simp only [if_true]
      exact getLsbD_setBit_false _ _
    · rw [State.cur_setCur, ← hx, hn]
      unfold Strand.putScalar
      simp only [if_true]
      exact ⟨_, List.mem_append_right _ (List.mem_singleton.2 rfl), rfl⟩
    · rw [State.cur_setCur]; exact ⟨hfr, hax⟩
  · have e : (s.popSources us).writeS d (popsInto us) v =
        ((s.popSources us).setCur (s.popSources us).cur.markScalarWrite).pushQueue (s.popSources us).curKey (pairLine v) := by
      unfold State.writeS State.onCur; simp [hd]
    rw [e]
    have ek : (((s.popSources us).setCur (s.popSources us).cur.markScalarWrite).strand (s.popSources us).curKey).ccb = s.cur.ccb := by
      have : ((s.popSources us).setCur (s.popSources us).cur.markScalarWrite).strand (s.popSources us).curKey =
        (s.popSources us).cur.markScalarWrite := State.cur_setCur _ _
      rw [this, ← hp.ccb]; simp
    unfold State.pushQueue
    dsimp only
    rw [ek]
    generalize hx : ({ ((s.popSources us).setCur (s.popSources us).cur.markScalarWrite).cohort s.cur.ccb with
      mailbox := (((s.popSources us).setCur (s.popSources us).cur.markScalarWrite).cohort s.cur.ccb).mailbox ++ [pairLine v], mailAt := _ } : Cohort) = x
    generalize hy : (s.popSources us).setCur (s.popSources us).cur.markScalarWrite = y at *
    have hcy : y.cur = (s.popSources us).cur.markScalarWrite := by rw [← hy]; exact State.cur_setCur _ _
    refine ⟨⟨fun hn => absurd hn hd, fun hn => absurd hn hd, fun _ => ?_, ?_⟩, ?_⟩
    · rw [State.cohort_setCohort_self, ← hx, ← hy]
      rfl
    · have hsame : SameRegisters (s.popSources us).cur (s.popSources us).cur.markScalarWrite (fun _ => False)
          (fun m => d.toNat < 64 ∧ popsInto us = false ∧ m = d.toNat) s.cur.markScalarWrite.stat := by
        rw [← hm]
        exact ⟨fun _ _ => by simp, fun _ _ => by simp, rfl, by simp, by simp, by simp, by simp, by simp, by simp, by simp, by simp⟩
      have k1 := hk.trans (Keeps.setCur hsame)
      rw [hy] at k1
      refine k1.trans (y := s.cur.markScalarWrite.stat) ?_
      have := Keeps.setCohort (s := y) (k := s.cur.ccb) (x := x) (by rw [← hx])
        (fun _ => False) (fun m => d.toNat < 64 ∧ popsInto us = false ∧ m = d.toNat)
      rw [hcy, hm] at this
      exact this
    · rw [State.cur_setCohort, hcy]; simp [hp.frontier, hal]

theorem scalarResult_writeS (s : State) (us : List Use) (d : Code) (v : DWord) (h : HasLanes s) :
    ScalarResult s ((s.popSources us).writeS d (popsInto us) v).advance us d v s.cur.markScalarWrite.stat := by
  obtain ⟨h1, h2, h3⟩ := scalarResult_write s us d v
  exact h1.quiet (quiet_advance _ (h.of h2 h3))

/-- A new value of the issuing strand with the same frontier, and the end of the issue. -/
theorem quiet_advance_setCur (s : State) (x : Strand) (hf : x.frontier = s.cur.frontier) (ha : x.also = s.cur.also)
    (h : HasLanes s) : Quiet (s.setCur x) (s.setCur x).advance :=
  quiet_advance _ (h.of (by rw [State.cur_setCur, hf]) (by rw [State.cur_setCur, ha]))

/-- A scalar given to a producer. -/
theorem givenScalar_putScalar (s : State) (us : List Use) (m : Nat) (v : DWord) (h : HasLanes s) :
    GivenScalar s ((s.popSources us).onCur fun st => st.putScalar true m v).advance m v := by
  have hp := popped_popSources s us
  unfold State.onCur
  dsimp only
  generalize hx : (s.popSources us).cur.putScalar true m v = x
  have q := quiet_advance_setCur (s.popSources us) x (by rw [← hx]; unfold Strand.putScalar; simp)
    (by rw [← hx]; unfold Strand.putScalar; simp) (hp.hasLanes h)
  have hcur := q.cur
  rw [State.cur_setCur] at hcur
  refine ⟨?_, ?_, ?_⟩
  · have : ((s.popSources us).setCur x).advance.cur.sFull = x.sFull := (congrArg Strand.sFull hcur :)
    rw [this, ← hx]
    exact getLsbD_setBit_false _ _
  · have : ((s.popSources us).setCur x).advance.cur.producers = x.producers := (congrArg Strand.producers hcur :)
    rw [this, ← hx]
    exact ⟨_, List.mem_append_right _ (List.mem_singleton.2 rfl), rfl⟩
  · refine ((hp.keeps (fun _ => False) (fun _ => False)).trans (Keeps.setCur ?_
      (by rw [← hx, putScalar_drains]))).quiet q
    rw [← hx, ← markScalarWrite_stat_congr hp.frontier hp.stat]
    unfold Strand.putScalar
    exact ⟨fun _ _ => by simp [Strand.line], fun _ _ => by simp [Strand.scalar], rfl, by simp, by simp, by simp, by simp,
      by simp, by simp, by simp, by simp⟩

end Sys2Proof.Machine
end

