-- ==== Sys2Proof/Laws/Float.lean ====
section
/-! SUPPORT. What a vector float instruction leaves for its write-back. -/

namespace Sys2Proof.Machine

theorem getD_map_range {α : Type} (f : Nat → α) (d : α) (l : Nat) (h : l < 64) : ((List.range 64).map f).getD l d = f l := by
  simp [List.getD, List.getElem?_range h]

/-- The results of the lanes are queued with nothing else changed (09 R246, R250). -/
theorem floatQueued_queueFloat (s : State) (us : List Use) (d : Code) (wide : Bool) (op : Nat → Nat × Flags) (h : HasLanes s) :
    FloatQueued s ((s.popSources us).queueFloat d wide ((List.range 64).map fun l =>
      if (candidate s.cur).mask.getLsbD l then op l else (0, 0))).advance d wide op := by
  have hp := popped_popSources s us
  generalize hr : ((List.range 64).map fun l => if (candidate s.cur).mask.getLsbD l then op l else ((0, 0) : Nat × Flags)) = r
  have hrl : ∀ l, l < 64 → (candidate s.cur).mask.getLsbD l = true → r.getD l (0, 0) = op l := by
    intro l h1 h2; rw [← hr, getD_map_range _ _ _ h1, if_pos h2]
  have hlo : ∀ (f : Nat × Flags → Word) (l : Nat), l < 64 → (candidate s.cur).mask.getLsbD l = true →
      laneOf (r.map f) l = f (op l) := by
    intro f l h1 h2
    rw [← hr, List.map_map]
    show ((List.range 64).map _).getD l 0 = _
    rw [getD_map_range _ _ _ h1]
    simp [h2]
  unfold State.queueFloat
  dsimp only
  generalize hq : (FloatResult.mk _ _ _ _ _ _ _ _) = q
  generalize hx : ({ (s.popSources us).cur with floats := (s.popSources us).cur.floats ++ [q] } : Strand) = x
  have qt := quiet_advance_setCur (s.popSources us) x (by rw [← hx]) (by rw [← hx]) (hp.hasLanes h)
  have hcur := qt.cur
  rw [State.cur_setCur] at hcur
  have hwb : (s.popSources us).cur.wb = s.cur.wb := hp.wb
  have hc := hp.candidate
  have hte : (s.popSources us).cur.te = s.cur.te := by unfold Strand.te; rw [hp.stat]
  refine ⟨⟨q, ?_, ?_, ?_, ?_, ?_, ?_, ?_, ?_⟩, ?_⟩
  · have : ((s.popSources us).setCur x).advance.cur.floats = x.floats := (congrArg Strand.floats hcur :)
    have hf : (s.popSources us).cur.floats = s.cur.floats := (congrArg Strand.floats hp.cur :)
    rw [this, ← hx, ← hf]
  · rw [← hq, ← hc]
  · rw [← hq, ← hc]
  · rw [← hq, ← hc]
  · rw [← hq, ← hte]
  · intro hs l h1 h2
    have hs2 : (s.popSources us).cur.shadow = false := by
      unfold Strand.shadow Strand.chk at hs ⊢; rw [hp.stat]; exact hs
    rw [← hq] at h2 ⊢
    rw [hc] at h2
    unfold laneFlags Strand.laneNumber
    simp only [hs2, Bool.false_eq_true, if_false]
    rw [getD_map_range _ _ _ h1, hrl l h1 h2]
  · intro hd
    rw [← hq]
    simp only [hd, if_true, hwb, hc]
    refine ⟨trivial, _, _, rfl, fun l h1 h2 => ⟨hlo _ l h1 h2, hlo _ l h1 h2⟩⟩
  · intro hd
    rw [← hq]
    simp only [hd, if_false, hc]
    refine ⟨trivial, _, rfl, fun l h1 => ?_⟩
    rw [laneOf_mergeLine _ _ _ _ h1]
    by_cases hm : (candidate s.cur).mask.getLsbD l = true
    · rw [if_pos hm, if_pos hm, hlo _ l h1 hm]
    · rw [if_neg hm, if_neg hm]
      show (List.replicate 64 (0 : Word)).getD l 0 = 0
      rw [List.getD_eq_getElem?_getD, List.getElem?_replicate]; split <;> rfl
  · refine ((hp.keeps (fun _ => False) (fun _ => False)).trans (Keeps.setCur ?_)).quiet qt
    rw [← hx, ← hp.stat]
    exact ⟨fun _ _ => rfl, fun _ _ => rfl, rfl, rfl, rfl, rfl, rfl, rfl, rfl, rfl, rfl⟩

/-- A ready float instruction outside clone mode queues its results. -/
theorem vecFloat_of_ready {s : State} {us : List Use} (h : Ready s us) (hl : HasLanes s) (hc : s.cur.chk ≠ 1)
    (wideA wideB wideD modify : Bool) (a b d : Code) (op : Nat → Nat → Nat → Nat → Nat × Flags) (slow : Bool) :
    ∃ t, vecFloat us wideA wideB wideD modify a b d op s false slow = .next t ∧ FloatQueued s t d wideD fun l =>
      op s.cur.frm ((s.lanesAt wideA a).getD l 0) ((s.lanesAt wideB b).getD l 0)
        ((if modify then s.lanesAt wideD d else []).getD l 0) := by
  unfold vecFloat
  exact ⟨_, runVec_of_ready h hc _ _, floatQueued_queueFloat s us d wideD _ hl⟩

/-! ### Write-back -/

/-- A strand without its lines. -/
def Strand.lineless (st : Strand) : Strand := { st with vec := [], vFull := 0 }

theorem lineless_writeLines (l : List (Nat × Mask × Line)) (st : Strand) :
    (l.foldl (fun st x => st.writeLanes x.1 x.2.1 (laneOf x.2.2)) st).lineless = st.lineless := by
  induction l generalizing st with
  | nil => rfl
  | cons a l ih => rw [List.foldl_cons, ih]; rfl

theorem line_writeLines (l : List (Nat × Mask × Line)) (st : Strand) (n : Nat) (h : ¬ ∃ x ∈ l, x.1 = n) :
    (l.foldl (fun st x => st.writeLanes x.1 x.2.1 (laneOf x.2.2)) st).line n = st.line n := by
  induction l generalizing st with
  | nil => rfl
  | cons a l ih =>
    rw [List.foldl_cons, ih _ fun ⟨x, hx, e⟩ => h ⟨x, List.mem_cons_of_mem _ hx, e⟩, Strand.line_writeLanes,
      if_neg fun e => h ⟨a, List.mem_cons_self .., e.symm⟩]

end Sys2Proof.Machine
end

