-- ==== Sys2Proof/Laws/PerInstr.lean ====
section
/-! SUPPORT. One lemma per constructor of Instr: the decoder reads the word that the encoder gives (03 R44, R45). -/

namespace Sys2Proof.Laws.Encode

set_option linter.unusedSimpArgs false

/-- The word of a well-formed instruction decodes to it. An event has no word. -/
def Statement (i : Instr) : Prop := ∀ w, i.wellFormed = true → encode i = some w → decode w = .ok i

/-- A word of a class and an opcode is decoded by its row. -/
theorem row (w : BitVec 32) (c op : Nat) (i : Instr) (hc : w.toNat / 1073741824 = c) (ho : w.toNat / 8388608 % 128 = op)
    (h : (match c with
      | 0 => decodeVector op w
      | 1 => decodeScalar op w
      | 2 => decodeMemory op w
      | _ => decodeLong op w) = .ok i) (hw : i.wellFormed = true) : decode w = .ok i := by
  have h2 : decodeRow w = .ok i := by
    unfold decodeRow
    simp only [hc, ho]
    exact h
  unfold decode
  rw [h2]
  simp [hw]

theorem bits (lo k : Nat) (w : BitVec 32) (x : BitVec k) (h : w.toNat / 2 ^ lo % 2 ^ k = x.toNat) : bitsAt lo k w = x :=
  BitVec.eq_of_toNat_eq (by simp [bitsAt, h])

theorem bit (lo : Nat) (w : BitVec 32) (b : Bool) (h : w.toNat / 2 ^ lo % 2 = b.toNat) : bitAt lo w = b := by
  cases b <;> simp [bitAt, h]

theorem fixed (lo k v : Nat) (w : BitVec 32) (h : w.toNat / 2 ^ lo % 2 ^ k = v) : fix lo k v w = true := by
  simp [fix, h]

theorem other (lo k v : Nat) (w : BitVec 32) (h : w.toNat / 2 ^ lo % 2 ^ k ≠ v) : fix lo k v w = false := by
  simp [fix, h]

theorem number (n : Nat) (w : BitVec 32) (h : some (BitVec.ofNat 32 n) = some w) (hn : n < 4294967296) : w.toNat = n := by
  cases h
  simpa using hn

theorem differs (lo k v u : Nat) (w : BitVec 32) (h : fix lo k v w = true) (hne : (v == u) = false) : fix lo k u w = false := by
  unfold fix at *
  rw [beq_iff_eq] at h
  rw [h, hne]

theorem flag (b : Bool) : b.toNat < 2 := by cases b <;> decide


theorem shape1 (word : BitVec 32) (k base : Nat)
    (f0 : Bool)
    (f1 : Bool)
    (f2 : BitVec 7)
    (f3 : BitVec 7)
    (f4 : BitVec 7)
    (hb : base = k * 8388608)
    (hn : word.toNat = base + f0.toNat * 4194304 + f1.toNat * 2097152 + f2.toNat * 16384 + f3.toNat * 128 + f4.toNat) :
    word.toNat / 1073741824 = k / 128 ∧
    word.toNat / 8388608 % 128 = k % 128 ∧
    bitAt 22 word = f0 ∧
    bitAt 21 word = f1 ∧
    bitsAt 14 7 word = f2 ∧
    bitsAt 7 7 word = f3 ∧
    bitsAt 0 7 word = f4 := by
  have h_f0 := flag f0
  have h_f1 := flag f1
  have h_f2 := f2.isLt
  have h_f3 := f3.isLt
  have h_f4 := f4.isLt
  exact ⟨by omega,
    by omega,
    bit 22 word f0 (by omega),
    bit 21 word f1 (by omega),
    bits 14 7 word f2 (by omega),
    bits 7 7 word f3 (by omega),
    bits 0 7 word f4 (by omega)⟩

theorem vadd (e g : Bool) (d a b : BitVec 7) : Statement (.vadd e g d a b) := by
  intro word hw h
  have h_e := flag e
  have h_g := flag g
  have h_d := d.isLt
  have h_a := a.isLt
  have h_b := b.isLt
  obtain ⟨h1, h2, h3, h4, h5, h6, h7⟩ :=
    shape1 word 0 0 e g d a b rfl
      (number _ word h (by omega))
  refine row word 0 0 _ h1 h2 ?_ hw
  show Except.ok _ = _
  rw [h3, h4, h5, h6, h7]

theorem vsub (e g : Bool) (d a b : BitVec 7) : Statement (.vsub e g d a b) := by
  intro word hw h
  have h_e := flag e
  have h_g := flag g
  have h_d := d.isLt
  have h_a := a.isLt
  have h_b := b.isLt
  obtain ⟨h1, h2, h3, h4, h5, h6, h7⟩ :=
    shape1 word 1 8388608 e g d a b rfl
      (number _ word h (by omega))
  refine row word 0 1 _ h1 h2 ?_ hw
  show Except.ok _ = _
  rw [h3, h4, h5, h6, h7]

theorem vmullo (e g : Bool) (d a b : BitVec 7) : Statement (.vmullo e g d a b) := by
  intro word hw h
  have h_e := flag e
  have h_g := flag g
  have h_d := d.isLt
  have h_a := a.isLt
  have h_b := b.isLt
  obtain ⟨h1, h2, h3, h4, h5, h6, h7⟩ :=
    shape1 word 2 16777216 e g d a b rfl
      (number _ word h (by omega))
  refine row word 0 2 _ h1 h2 ?_ hw
  show Except.ok _ = _
  rw [h3, h4, h5, h6, h7]

theorem vmulhis (e g : Bool) (d a b : BitVec 7) : Statement (.vmulhis e g d a b) := by
  intro word hw h
  have h_e := flag e
  have h_g := flag g
  have h_d := d.isLt
  have h_a := a.isLt
  have h_b := b.isLt
  obtain ⟨h1, h2, h3, h4, h5, h6, h7⟩ :=
    shape1 word 3 25165824 e g d a b rfl
      (number _ word h (by omega))
  refine row word 0 3 _ h1 h2 ?_ hw
  show Except.ok _ = _
  rw [h3, h4, h5, h6, h7]

theorem vmulhiu (e g : Bool) (d a b : BitVec 7) : Statement (.vmulhiu e g d a b) := by
  intro word hw h
  have h_e := flag e
  have h_g := flag g
  have h_d := d.isLt
  have h_a := a.isLt
  have h_b := b.isLt
  obtain ⟨h1, h2, h3, h4, h5, h6, h7⟩ :=
    shape1 word 4 33554432 e g d a b rfl
      (number _ word h (by omega))
  refine row word 0 4 _ h1 h2 ?_ hw
  show Except.ok _ = _
  rw [h3, h4, h5, h6, h7]

theorem vmad (e g : Bool) (d a b : BitVec 7) : Statement (.vmad e g d a b) := by
  intro word hw h
  have h_e := flag e
  have h_g := flag g
  have h_d := d.isLt
  have h_a := a.isLt
  have h_b := b.isLt
  obtain ⟨h1, h2, h3, h4, h5, h6, h7⟩ :=
    shape1 word 5 41943040 e g d a b rfl
      (number _ word h (by omega))
  refine row word 0 5 _ h1 h2 ?_ hw
  show Except.ok _ = _
  rw [h3, h4, h5, h6, h7]

theorem vadds (e g : Bool) (d a b : BitVec 7) : Statement (.vadds e g d a b) := by
  intro word hw h
  have h_e := flag e
  have h_g := flag g
  have h_d := d.isLt
  have h_a := a.isLt
  have h_b := b.isLt
  obtain ⟨h1, h2, h3, h4, h5, h6, h7⟩ :=
    shape1 word 6 50331648 e g d a b rfl
      (number _ word h (by omega))
  refine row word 0 6 _ h1 h2 ?_ hw
  show Except.ok _ = _
  rw [h3, h4, h5, h6, h7]

theorem vsubs (e g : Bool) (d a b : BitVec 7) : Statement (.vsubs e g d a b) := by
  intro word hw h
  have h_e := flag e
  have h_g := flag g
  have h_d := d.isLt
  have h_a := a.isLt
  have h_b := b.isLt
  obtain ⟨h1, h2, h3, h4, h5, h6, h7⟩ :=
    shape1 word 7 58720256 e g d a b rfl
      (number _ word h (by omega))
  refine row word 0 7 _ h1 h2 ?_ hw
  show Except.ok _ = _
  rw [h3, h4, h5, h6, h7]

theorem vaddx2 (e g : Bool) (d a b : BitVec 7) : Statement (.vaddx2 e g d a b) := by
  intro word hw h
  have h_e := flag e
  have h_g := flag g
  have h_d := d.isLt
  have h_a := a.isLt
  have h_b := b.isLt
  obtain ⟨h1, h2, h3, h4, h5, h6, h7⟩ :=
    shape1 word 8 67108864 e g d a b rfl
      (number _ word h (by omega))
  refine row word 0 8 _ h1 h2 ?_ hw
  show Except.ok _ = _
  rw [h3, h4, h5, h6, h7]

theorem vsubx2 (e g : Bool) (d a b : BitVec 7) : Statement (.vsubx2 e g d a b) := by
  intro word hw h
  have h_e := flag e
  have h_g := flag g
  have h_d := d.isLt
  have h_a := a.isLt
  have h_b := b.isLt
  obtain ⟨h1, h2, h3, h4, h5, h6, h7⟩ :=
    shape1 word 9 75497472 e g d a b rfl
      (number _ word h (by omega))
  refine row word 0 9 _ h1 h2 ?_ hw
  show Except.ok _ = _
  rw [h3, h4, h5, h6, h7]

theorem vmins (e g : Bool) (d a b : BitVec 7) : Statement (.vmins e g d a b) := by
  intro word hw h
  have h_e := flag e
  have h_g := flag g
  have h_d := d.isLt
  have h_a := a.isLt
  have h_b := b.isLt
  obtain ⟨h1, h2, h3, h4, h5, h6, h7⟩ :=
    shape1 word 10 83886080 e g d a b rfl
      (number _ word h (by omega))
  refine row word 0 10 _ h1 h2 ?_ hw
  show Except.ok _ = _
  rw [h3, h4, h5, h6, h7]

theorem vminu (e g : Bool) (d a b : BitVec 7) : Statement (.vminu e g d a b) := by
  intro word hw h
  have h_e := flag e
  have h_g := flag g
  have h_d := d.isLt
  have h_a := a.isLt
  have h_b := b.isLt
  obtain ⟨h1, h2, h3, h4, h5, h6, h7⟩ :=
    shape1 word 11 92274688 e g d a b rfl
      (number _ word h (by omega))
  refine row word 0 11 _ h1 h2 ?_ hw
  show Except.ok _ = _
  rw [h3, h4, h5, h6, h7]

theorem vmaxs (e g : Bool) (d a b : BitVec 7) : Statement (.vmaxs e g d a b) := by
  intro word hw h
  have h_e := flag e
  have h_g := flag g
  have h_d := d.isLt
  have h_a := a.isLt
  have h_b := b.isLt
  obtain ⟨h1, h2, h3, h4, h5, h6, h7⟩ :=
    shape1 word 12 100663296 e g d a b rfl
      (number _ word h (by omega))
  refine row word 0 12 _ h1 h2 ?_ hw
  show Except.ok _ = _
  rw [h3, h4, h5, h6, h7]

theorem vmaxu (e g : Bool) (d a b : BitVec 7) : Statement (.vmaxu e g d a b) := by
  intro word hw h
  have h_e := flag e
  have h_g := flag g
  have h_d := d.isLt
  have h_a := a.isLt
  have h_b := b.isLt
  obtain ⟨h1, h2, h3, h4, h5, h6, h7⟩ :=
    shape1 word 13 109051904 e g d a b rfl
      (number _ word h (by omega))
  refine row word 0 13 _ h1 h2 ?_ hw
  show Except.ok _ = _
  rw [h3, h4, h5, h6, h7]

theorem vdot4s (e g : Bool) (d a b : BitVec 7) : Statement (.vdot4s e g d a b) := by
  intro word hw h
  have h_e := flag e
  have h_g := flag g
  have h_d := d.isLt
  have h_a := a.isLt
  have h_b := b.isLt
  obtain ⟨h1, h2, h3, h4, h5, h6, h7⟩ :=
    shape1 word 14 117440512 e g d a b rfl
      (number _ word h (by omega))
  refine row word 0 14 _ h1 h2 ?_ hw
  show Except.ok _ = _
  rw [h3, h4, h5, h6, h7]

theorem vdot4u (e g : Bool) (d a b : BitVec 7) : Statement (.vdot4u e g d a b) := by
  intro word hw h
  have h_e := flag e
  have h_g := flag g
  have h_d := d.isLt
  have h_a := a.isLt
  have h_b := b.isLt
  obtain ⟨h1, h2, h3, h4, h5, h6, h7⟩ :=
    shape1 word 15 125829120 e g d a b rfl
      (number _ word h (by omega))
  refine row word 0 15 _ h1 h2 ?_ hw
  show Except.ok _ = _
  rw [h3, h4, h5, h6, h7]

theorem vand (e g : Bool) (d a b : BitVec 7) : Statement (.vand e g d a b) := by
  intro word hw h
  have h_e := flag e
  have h_g := flag g
  have h_d := d.isLt
  have h_a := a.isLt
  have h_b := b.isLt
  obtain ⟨h1, h2, h3, h4, h5, h6, h7⟩ :=
    shape1 word 16 134217728 e g d a b rfl
      (number _ word h (by omega))
  refine row word 0 16 _ h1 h2 ?_ hw
  show Except.ok _ = _
  rw [h3, h4, h5, h6, h7]

theorem vor (e g : Bool) (d a b : BitVec 7) : Statement (.vor e g d a b) := by
  intro word hw h
  have h_e := flag e
  have h_g := flag g
  have h_d := d.isLt
  have h_a := a.isLt
  have h_b := b.isLt
  obtain ⟨h1, h2, h3, h4, h5, h6, h7⟩ :=
    shape1 word 17 142606336 e g d a b rfl
      (number _ word h (by omega))
  refine row word 0 17 _ h1 h2 ?_ hw
  show Except.ok _ = _
  rw [h3, h4, h5, h6, h7]

theorem vxor (e g : Bool) (d a b : BitVec 7) : Statement (.vxor e g d a b) := by
  intro word hw h
  have h_e := flag e
  have h_g := flag g
  have h_d := d.isLt
  have h_a := a.isLt
  have h_b := b.isLt
  obtain ⟨h1, h2, h3, h4, h5, h6, h7⟩ :=
    shape1 word 18 150994944 e g d a b rfl
      (number _ word h (by omega))
  refine row word 0 18 _ h1 h2 ?_ hw
  show Except.ok _ = _
  rw [h3, h4, h5, h6, h7]

theorem vandn (e g : Bool) (d a b : BitVec 7) : Statement (.vandn e g d a b) := by
  intro word hw h
  have h_e := flag e
  have h_g := flag g
  have h_d := d.isLt
  have h_a := a.isLt
  have h_b := b.isLt
  obtain ⟨h1, h2, h3, h4, h5, h6, h7⟩ :=
    shape1 word 19 159383552 e g d a b rfl
      (number _ word h (by omega))
  refine row word 0 19 _ h1 h2 ?_ hw
  show Except.ok _ = _
  rw [h3, h4, h5, h6, h7]

theorem vshl (e g : Bool) (d a b : BitVec 7) : Statement (.vshl e g d a b) := by
  intro word hw h
  have h_e := flag e
  have h_g := flag g
  have h_d := d.isLt
  have h_a := a.isLt
  have h_b := b.isLt
  obtain ⟨h1, h2, h3, h4, h5, h6, h7⟩ :=
    shape1 word 20 167772160 e g d a b rfl
      (number _ word h (by omega))
  refine row word 0 20 _ h1 h2 ?_ hw
  show Except.ok _ = _
  rw [h3, h4, h5, h6, h7]

theorem vshru (e g : Bool) (d a b : BitVec 7) : Statement (.vshru e g d a b) := by
  intro word hw h
  have h_e := flag e
  have h_g := flag g
  have h_d := d.isLt
  have h_a := a.isLt
  have h_b := b.isLt
  obtain ⟨h1, h2, h3, h4, h5, h6, h7⟩ :=
    shape1 word 21 176160768 e g d a b rfl
      (number _ word h (by omega))
  refine row word 0 21 _ h1 h2 ?_ hw
  show Except.ok _ = _
  rw [h3, h4, h5, h6, h7]

theorem vshrs (e g : Bool) (d a b : BitVec 7) : Statement (.vshrs e g d a b) := by
  intro word hw h
  have h_e := flag e
  have h_g := flag g
  have h_d := d.isLt
  have h_a := a.isLt
  have h_b := b.isLt
  obtain ⟨h1, h2, h3, h4, h5, h6, h7⟩ :=
    shape1 word 22 184549376 e g d a b rfl
      (number _ word h (by omega))
  refine row word 0 22 _ h1 h2 ?_ hw
  show Except.ok _ = _
  rw [h3, h4, h5, h6, h7]

theorem vrot (e g : Bool) (d a b : BitVec 7) : Statement (.vrot e g d a b) := by
  intro word hw h
  have h_e := flag e
  have h_g := flag g
  have h_d := d.isLt
  have h_a := a.isLt
  have h_b := b.isLt
  obtain ⟨h1, h2, h3, h4, h5, h6, h7⟩ :=
    shape1 word 23 192937984 e g d a b rfl
      (number _ word h (by omega))
  refine row word 0 23 _ h1 h2 ?_ hw
  show Except.ok _ = _
  rw [h3, h4, h5, h6, h7]

theorem vbfeu (e g : Bool) (d a b : BitVec 7) : Statement (.vbfeu e g d a b) := by
  intro word hw h
  have h_e := flag e
  have h_g := flag g
  have h_d := d.isLt
  have h_a := a.isLt
  have h_b := b.isLt
  obtain ⟨h1, h2, h3, h4, h5, h6, h7⟩ :=
    shape1 word 24 201326592 e g d a b rfl
      (number _ word h (by omega))
  refine row word 0 24 _ h1 h2 ?_ hw
  show Except.ok _ = _
  rw [h3, h4, h5, h6, h7]

theorem vbfes (e g : Bool) (d a b : BitVec 7) : Statement (.vbfes e g d a b) := by
  intro word hw h
  have h_e := flag e
  have h_g := flag g
  have h_d := d.isLt
  have h_a := a.isLt
  have h_b := b.isLt
  obtain ⟨h1, h2, h3, h4, h5, h6, h7⟩ :=
    shape1 word 25 209715200 e g d a b rfl
      (number _ word h (by omega))
  refine row word 0 25 _ h1 h2 ?_ hw
  show Except.ok _ = _
  rw [h3, h4, h5, h6, h7]

theorem vbfi (e g : Bool) (d a b : BitVec 7) : Statement (.vbfi e g d a b) := by
  intro word hw h
  have h_e := flag e
  have h_g := flag g
  have h_d := d.isLt
  have h_a := a.isLt
  have h_b := b.isLt
  obtain ⟨h1, h2, h3, h4, h5, h6, h7⟩ :=
    shape1 word 26 218103808 e g d a b rfl
      (number _ word h (by omega))
  refine row word 0 26 _ h1 h2 ?_ hw
  show Except.ok _ = _
  rw [h3, h4, h5, h6, h7]

theorem vsel (e g : Bool) (d a b : BitVec 7) : Statement (.vsel e g d a b) := by
  intro word hw h
  have h_e := flag e
  have h_g := flag g
  have h_d := d.isLt
  have h_a := a.isLt
  have h_b := b.isLt
  obtain ⟨h1, h2, h3, h4, h5, h6, h7⟩ :=
    shape1 word 27 226492416 e g d a b rfl
      (number _ word h (by omega))
  refine row word 0 27 _ h1 h2 ?_ hw
  show Except.ok _ = _
  rw [h3, h4, h5, h6, h7]

theorem shape2 (word : BitVec 32) (k base v0 v1 : Nat)
    (f0 : Bool)
    (f1 : BitVec 7)
    (f2 : BitVec 7)
    (b0 : v0 < 128)
    (b1 : v1 < 2)
    (hb : base = k * 8388608 + v0 * 1 + v1 * 2097152)
    (hn : word.toNat = base + f0.toNat * 4194304 + f1.toNat * 16384 + f2.toNat * 128) :
    word.toNat / 1073741824 = k / 128 ∧
    word.toNat / 8388608 % 128 = k % 128 ∧
    bitAt 22 word = f0 ∧
    bitsAt 14 7 word = f1 ∧
    bitsAt 7 7 word = f2 ∧
    fix 0 7 v0 word = true ∧
    fix 21 1 v1 word = true := by
  have h_f0 := flag f0
  have h_f1 := f1.isLt
  have h_f2 := f2.isLt
  exact ⟨by omega,
    by omega,
    bit 22 word f0 (by omega),
    bits 14 7 word f1 (by omega),
    bits 7 7 word f2 (by omega),
    fixed 0 7 v0 word (by omega),
    fixed 21 1 v1 word (by omega)⟩

theorem vpopc (e : Bool) (d a : BitVec 7) : Statement (.vpopc e d a) := by
  intro word hw h
  have h_e := flag e
  have h_d := d.isLt
  have h_a := a.isLt
  obtain ⟨h1, h2, h3, h4, h5, h6, h7⟩ :=
    shape2 word 28 234881024 0 0 e d a (by decide) (by decide) rfl
      (number _ word h (by omega))
  refine row word 0 28 _ h1 h2 ?_ hw
  show (if _ then _ else _) = _
  simp only [h3, h4, h5, h6, h7, Bool.true_and, Bool.and_self, Bool.false_eq_true, if_true, if_false]

theorem vclz (e : Bool) (d a : BitVec 7) : Statement (.vclz e d a) := by
  intro word hw h
  have h_e := flag e
  have h_d := d.isLt
  have h_a := a.isLt
  obtain ⟨h1, h2, h3, h4, h5, h6, h7⟩ :=
    shape2 word 28 234881025 1 0 e d a (by decide) (by decide) rfl
      (number _ word h (by omega))
  refine row word 0 28 _ h1 h2 ?_ hw
  show (if _ then _ else _) = _
  simp only [differs 0 7 1 0 word h6 rfl, h3, h4, h5, h6, h7, Bool.false_and, Bool.true_and, Bool.and_self,
    Bool.false_eq_true, if_true, if_false]

theorem vctz (e : Bool) (d a : BitVec 7) : Statement (.vctz e d a) := by
  intro word hw h
  have h_e := flag e
  have h_d := d.isLt
  have h_a := a.isLt
  obtain ⟨h1, h2, h3, h4, h5, h6, h7⟩ :=
    shape2 word 28 234881026 2 0 e d a (by decide) (by decide) rfl
      (number _ word h (by omega))
  refine row word 0 28 _ h1 h2 ?_ hw
  show (if _ then _ else _) = _
  simp only [differs 0 7 2 0 word h6 rfl, differs 0 7 2 1 word h6 rfl, h3, h4, h5, h6, h7, Bool.false_and,
    Bool.true_and, Bool.and_self, Bool.false_eq_true, if_true, if_false]

theorem vbrev (e : Bool) (d a : BitVec 7) : Statement (.vbrev e d a) := by
  intro word hw h
  have h_e := flag e
  have h_d := d.isLt
  have h_a := a.isLt
  obtain ⟨h1, h2, h3, h4, h5, h6, h7⟩ :=
    shape2 word 28 234881027 3 0 e d a (by decide) (by decide) rfl
      (number _ word h (by omega))
  refine row word 0 28 _ h1 h2 ?_ hw
  show (if _ then _ else _) = _
  simp only [differs 0 7 3 0 word h6 rfl, differs 0 7 3 1 word h6 rfl, differs 0 7 3 2 word h6 rfl, h3, h4, h5,
    h6, h7, Bool.false_and, Bool.true_and, Bool.and_self, Bool.false_eq_true, if_true, if_false]

theorem vnot (e : Bool) (d a : BitVec 7) : Statement (.vnot e d a) := by
  intro word hw h
  have h_e := flag e
  have h_d := d.isLt
  have h_a := a.isLt
  obtain ⟨h1, h2, h3, h4, h5, h6, h7⟩ :=
    shape2 word 28 234881028 4 0 e d a (by decide) (by decide) rfl
      (number _ word h (by omega))
  refine row word 0 28 _ h1 h2 ?_ hw
  show (if _ then _ else _) = _
  simp only [differs 0 7 4 0 word h6 rfl, differs 0 7 4 1 word h6 rfl, differs 0 7 4 2 word h6 rfl,
    differs 0 7 4 3 word h6 rfl, h3, h4, h5, h6, h7, Bool.false_and, Bool.true_and, Bool.and_self,
    Bool.false_eq_true, if_true, if_false]

theorem vabs (e : Bool) (d a : BitVec 7) : Statement (.vabs e d a) := by
  intro word hw h
  have h_e := flag e
  have h_d := d.isLt
  have h_a := a.isLt
  obtain ⟨h1, h2, h3, h4, h5, h6, h7⟩ :=
    shape2 word 28 234881029 5 0 e d a (by decide) (by decide) rfl
      (number _ word h (by omega))
  refine row word 0 28 _ h1 h2 ?_ hw
  show (if _ then _ else _) = _
  simp only [differs 0 7 5 0 word h6 rfl, differs 0 7 5 1 word h6 rfl, differs 0 7 5 2 word h6 rfl,
    differs 0 7 5 3 word h6 rfl, differs 0 7 5 4 word h6 rfl, h3, h4, h5, h6, h7, Bool.false_and, Bool.true_and,
    Bool.and_self, Bool.false_eq_true, if_true, if_false]

theorem vneg (e : Bool) (d a : BitVec 7) : Statement (.vneg e d a) := by
  intro word hw h
  have h_e := flag e
  have h_d := d.isLt
  have h_a := a.isLt
  obtain ⟨h1, h2, h3, h4, h5, h6, h7⟩ :=
    shape2 word 28 234881030 6 0 e d a (by decide) (by decide) rfl
      (number _ word h (by omega))
  refine row word 0 28 _ h1 h2 ?_ hw
  show (if _ then _ else _) = _
  simp only [differs 0 7 6 0 word h6 rfl, differs 0 7 6 1 word h6 rfl, differs 0 7 6 2 word h6 rfl,
    differs 0 7 6 3 word h6 rfl, differs 0 7 6 4 word h6 rfl, differs 0 7 6 5 word h6 rfl, h3, h4, h5, h6, h7,
    Bool.false_and, Bool.true_and, Bool.and_self, Bool.false_eq_true, if_true, if_false]

theorem vsx8 (e : Bool) (d a : BitVec 7) : Statement (.vsx8 e d a) := by
  intro word hw h
  have h_e := flag e
  have h_d := d.isLt
  have h_a := a.isLt
  obtain ⟨h1, h2, h3, h4, h5, h6, h7⟩ :=
    shape2 word 28 234881031 7 0 e d a (by decide) (by decide) rfl
      (number _ word h (by omega))
  refine row word 0 28 _ h1 h2 ?_ hw
  show (if _ then _ else _) = _
  simp only [differs 0 7 7 0 word h6 rfl, differs 0 7 7 1 word h6 rfl, differs 0 7 7 2 word h6 rfl,
    differs 0 7 7 3 word h6 rfl, differs 0 7 7 4 word h6 rfl, differs 0 7 7 5 word h6 rfl,
    differs 0 7 7 6 word h6 rfl, h3, h4, h5, h6, h7, Bool.false_and, Bool.true_and, Bool.and_self,
    Bool.false_eq_true, if_true, if_false]

theorem vsx16 (e : Bool) (d a : BitVec 7) : Statement (.vsx16 e d a) := by
  intro word hw h
  have h_e := flag e
  have h_d := d.isLt
  have h_a := a.isLt
  obtain ⟨h1, h2, h3, h4, h5, h6, h7⟩ :=
    shape2 word 28 234881032 8 0 e d a (by decide) (by decide) rfl
      (number _ word h (by omega))
  refine row word 0 28 _ h1 h2 ?_ hw
  show (if _ then _ else _) = _
  simp only [differs 0 7 8 0 word h6 rfl, differs 0 7 8 1 word h6 rfl, differs 0 7 8 2 word h6 rfl,
    differs 0 7 8 3 word h6 rfl, differs 0 7 8 4 word h6 rfl, differs 0 7 8 5 word h6 rfl,
    differs 0 7 8 6 word h6 rfl, differs 0 7 8 7 word h6 rfl, h3, h4, h5, h6, h7, Bool.false_and, Bool.true_and,
    Bool.and_self, Bool.false_eq_true, if_true, if_false]

theorem vzx8 (e : Bool) (d a : BitVec 7) : Statement (.vzx8 e d a) := by
  intro word hw h
  have h_e := flag e
  have h_d := d.isLt
  have h_a := a.isLt
  obtain ⟨h1, h2, h3, h4, h5, h6, h7⟩ :=
    shape2 word 28 234881033 9 0 e d a (by decide) (by decide) rfl
      (number _ word h (by omega))
  refine row word 0 28 _ h1 h2 ?_ hw
  show (if _ then _ else _) = _
  simp only [differs 0 7 9 0 word h6 rfl, differs 0 7 9 1 word h6 rfl, differs 0 7 9 2 word h6 rfl,
    differs 0 7 9 3 word h6 rfl, differs 0 7 9 4 word h6 rfl, differs 0 7 9 5 word h6 rfl,
    differs 0 7 9 6 word h6 rfl, differs 0 7 9 7 word h6 rfl, differs 0 7 9 8 word h6 rfl, h3, h4, h5, h6, h7,
    Bool.false_and, Bool.true_and, Bool.and_self, Bool.false_eq_true, if_true, if_false]

theorem vzx16 (e : Bool) (d a : BitVec 7) : Statement (.vzx16 e d a) := by
  intro word hw h
  have h_e := flag e
  have h_d := d.isLt
  have h_a := a.isLt
  obtain ⟨h1, h2, h3, h4, h5, h6, h7⟩ :=
    shape2 word 28 234881034 10 0 e d a (by decide) (by decide) rfl
      (number _ word h (by omega))
  refine row word 0 28 _ h1 h2 ?_ hw
  show (if _ then _ else _) = _
  simp only [differs 0 7 10 0 word h6 rfl, differs 0 7 10 1 word h6 rfl, differs 0 7 10 2 word h6 rfl,
    differs 0 7 10 3 word h6 rfl, differs 0 7 10 4 word h6 rfl, differs 0 7 10 5 word h6 rfl,
    differs 0 7 10 6 word h6 rfl, differs 0 7 10 7 word h6 rfl, differs 0 7 10 8 word h6 rfl,
    differs 0 7 10 9 word h6 rfl, h3, h4, h5, h6, h7, Bool.false_and, Bool.true_and, Bool.and_self,
    Bool.false_eq_true, if_true, if_false]

theorem vmov (e : Bool) (d a : BitVec 7) : Statement (.vmov e d a) := by
  intro word hw h
  have h_e := flag e
  have h_d := d.isLt
  have h_a := a.isLt
  obtain ⟨h1, h2, h3, h4, h5, h6, h7⟩ :=
    shape2 word 29 243269632 0 0 e d a (by decide) (by decide) rfl
      (number _ word h (by omega))
  refine row word 0 29 _ h1 h2 ?_ hw
  show take _ _ = _
  unfold take
  rw [h6, h7, h3, h4, h5]
  rfl

theorem vcmpeq (e g : Bool) (d a b : BitVec 7) : Statement (.vcmpeq e g d a b) := by
  intro word hw h
  have h_e := flag e
  have h_g := flag g
  have h_d := d.isLt
  have h_a := a.isLt
  have h_b := b.isLt
  obtain ⟨h1, h2, h3, h4, h5, h6, h7⟩ :=
    shape1 word 30 251658240 e g d a b rfl
      (number _ word h (by omega))
  refine row word 0 30 _ h1 h2 ?_ hw
  show Except.ok _ = _
  rw [h3, h4, h5, h6, h7]

theorem vcmplts (e g : Bool) (d a b : BitVec 7) : Statement (.vcmplts e g d a b) := by
  intro word hw h
  have h_e := flag e
  have h_g := flag g
  have h_d := d.isLt
  have h_a := a.isLt
  have h_b := b.isLt
  obtain ⟨h1, h2, h3, h4, h5, h6, h7⟩ :=
    shape1 word 31 260046848 e g d a b rfl
      (number _ word h (by omega))
  refine row word 0 31 _ h1 h2 ?_ hw
  show Except.ok _ = _
  rw [h3, h4, h5, h6, h7]

theorem vcmpltu (e g : Bool) (d a b : BitVec 7) : Statement (.vcmpltu e g d a b) := by
  intro word hw h
  have h_e := flag e
  have h_g := flag g
  have h_d := d.isLt
  have h_a := a.isLt
  have h_b := b.isLt
  obtain ⟨h1, h2, h3, h4, h5, h6, h7⟩ :=
    shape1 word 32 268435456 e g d a b rfl
      (number _ word h (by omega))
  refine row word 0 32 _ h1 h2 ?_ hw
  show Except.ok _ = _
  rw [h3, h4, h5, h6, h7]

theorem vcmples (e g : Bool) (d a b : BitVec 7) : Statement (.vcmples e g d a b) := by
  intro word hw h
  have h_e := flag e
  have h_g := flag g
  have h_d := d.isLt
  have h_a := a.isLt
  have h_b := b.isLt
  obtain ⟨h1, h2, h3, h4, h5, h6, h7⟩ :=
    shape1 word 33 276824064 e g d a b rfl
      (number _ word h (by omega))
  refine row word 0 33 _ h1 h2 ?_ hw
  show Except.ok _ = _
  rw [h3, h4, h5, h6, h7]

theorem vcmpleu (e g : Bool) (d a b : BitVec 7) : Statement (.vcmpleu e g d a b) := by
  intro word hw h
  have h_e := flag e
  have h_g := flag g
  have h_d := d.isLt
  have h_a := a.isLt
  have h_b := b.isLt
  obtain ⟨h1, h2, h3, h4, h5, h6, h7⟩ :=
    shape1 word 34 285212672 e g d a b rfl
      (number _ word h (by omega))
  refine row word 0 34 _ h1 h2 ?_ hw
  show Except.ok _ = _
  rw [h3, h4, h5, h6, h7]

theorem vshfl (e f : Bool) (d a b : BitVec 7) : Statement (.vshfl e f d a b) := by
  intro word hw h
  have h_e := flag e
  have h_f := flag f
  have h_d := d.isLt
  have h_a := a.isLt
  have h_b := b.isLt
  obtain ⟨h1, h2, h3, h4, h5, h6, h7⟩ :=
    shape1 word 35 293601280 e f d a b rfl
      (number _ word h (by omega))
  refine row word 0 35 _ h1 h2 ?_ hw
  show Except.ok _ = _
  rw [h3, h4, h5, h6, h7]

theorem vshflx (e f : Bool) (d a b : BitVec 7) : Statement (.vshflx e f d a b) := by
  intro word hw h
  have h_e := flag e
  have h_f := flag f
  have h_d := d.isLt
  have h_a := a.isLt
  have h_b := b.isLt
  obtain ⟨h1, h2, h3, h4, h5, h6, h7⟩ :=
    shape1 word 36 301989888 e f d a b rfl
      (number _ word h (by omega))
  refine row word 0 36 _ h1 h2 ?_ hw
  show Except.ok _ = _
  rw [h3, h4, h5, h6, h7]

theorem vshflup (e f : Bool) (d a b : BitVec 7) : Statement (.vshflup e f d a b) := by
  intro word hw h
  have h_e := flag e
  have h_f := flag f
  have h_d := d.isLt
  have h_a := a.isLt
  have h_b := b.isLt
  obtain ⟨h1, h2, h3, h4, h5, h6, h7⟩ :=
    shape1 word 37 310378496 e f d a b rfl
      (number _ word h (by omega))
  refine row word 0 37 _ h1 h2 ?_ hw
  show Except.ok _ = _
  rw [h3, h4, h5, h6, h7]

theorem vshfldn (e f : Bool) (d a b : BitVec 7) : Statement (.vshfldn e f d a b) := by
  intro word hw h
  have h_e := flag e
  have h_f := flag f
  have h_d := d.isLt
  have h_a := a.isLt
  have h_b := b.isLt
  obtain ⟨h1, h2, h3, h4, h5, h6, h7⟩ :=
    shape1 word 38 318767104 e f d a b rfl
      (number _ word h (by omega))
  refine row word 0 38 _ h1 h2 ?_ hw
  show Except.ok _ = _
  rw [h3, h4, h5, h6, h7]

theorem vrdlane (e g : Bool) (d a b : BitVec 7) : Statement (.vrdlane e g d a b) := by
  intro word hw h
  have h_e := flag e
  have h_g := flag g
  have h_d := d.isLt
  have h_a := a.isLt
  have h_b := b.isLt
  obtain ⟨h1, h2, h3, h4, h5, h6, h7⟩ :=
    shape1 word 39 327155712 e g d a b rfl
      (number _ word h (by omega))
  refine row word 0 39 _ h1 h2 ?_ hw
  show Except.ok _ = _
  rw [h3, h4, h5, h6, h7]

theorem vwrlane (e g : Bool) (d a b : BitVec 7) : Statement (.vwrlane e g d a b) := by
  intro word hw h
  have h_e := flag e
  have h_g := flag g
  have h_d := d.isLt
  have h_a := a.isLt
  have h_b := b.isLt
  obtain ⟨h1, h2, h3, h4, h5, h6, h7⟩ :=
    shape1 word 40 335544320 e g d a b rfl
      (number _ word h (by omega))
  refine row word 0 40 _ h1 h2 ?_ hw
  show Except.ok _ = _
  rw [h3, h4, h5, h6, h7]

theorem vredadd (e : Bool) (d a : BitVec 7) : Statement (.vredadd e d a) := by
  intro word hw h
  have h_e := flag e
  have h_d := d.isLt
  have h_a := a.isLt
  obtain ⟨h1, h2, h3, h4, h5, h6, h7⟩ :=
    shape2 word 41 343932928 0 0 e d a (by decide) (by decide) rfl
      (number _ word h (by omega))
  refine row word 0 41 _ h1 h2 ?_ hw
  show take _ _ = _
  unfold take
  rw [h6, h7, h3, h4, h5]
  rfl

theorem vredmins (e : Bool) (d a : BitVec 7) : Statement (.vredmins e d a) := by
  intro word hw h
  have h_e := flag e
  have h_d := d.isLt
  have h_a := a.isLt
  obtain ⟨h1, h2, h3, h4, h5, h6, h7⟩ :=
    shape2 word 42 352321536 0 0 e d a (by decide) (by decide) rfl
      (number _ word h (by omega))
  refine row word 0 42 _ h1 h2 ?_ hw
  show take _ _ = _
  unfold take
  rw [h6, h7, h3, h4, h5]
  rfl

theorem vredmaxs (e : Bool) (d a : BitVec 7) : Statement (.vredmaxs e d a) := by
  intro word hw h
  have h_e := flag e
  have h_d := d.isLt
  have h_a := a.isLt
  obtain ⟨h1, h2, h3, h4, h5, h6, h7⟩ :=
    shape2 word 43 360710144 0 0 e d a (by decide) (by decide) rfl
      (number _ word h (by omega))
  refine row word 0 43 _ h1 h2 ?_ hw
  show take _ _ = _
  unfold take
  rw [h6, h7, h3, h4, h5]
  rfl

theorem vredand (e : Bool) (d a : BitVec 7) : Statement (.vredand e d a) := by
  intro word hw h
  have h_e := flag e
  have h_d := d.isLt
  have h_a := a.isLt
  obtain ⟨h1, h2, h3, h4, h5, h6, h7⟩ :=
    shape2 word 44 369098752 0 0 e d a (by decide) (by decide) rfl
      (number _ word h (by omega))
  refine row word 0 44 _ h1 h2 ?_ hw
  show take _ _ = _
  unfold take
  rw [h6, h7, h3, h4, h5]
  rfl

theorem vredor (e : Bool) (d a : BitVec 7) : Statement (.vredor e d a) := by
  intro word hw h
  have h_e := flag e
  have h_d := d.isLt
  have h_a := a.isLt
  obtain ⟨h1, h2, h3, h4, h5, h6, h7⟩ :=
    shape2 word 45 377487360 0 0 e d a (by decide) (by decide) rfl
      (number _ word h (by omega))
  refine row word 0 45 _ h1 h2 ?_ hw
  show take _ _ = _
  unfold take
  rw [h6, h7, h3, h4, h5]
  rfl

theorem vscanadd (e : Bool) (d a : BitVec 7) : Statement (.vscanadd e d a) := by
  intro word hw h
  have h_e := flag e
  have h_d := d.isLt
  have h_a := a.isLt
  obtain ⟨h1, h2, h3, h4, h5, h6, h7⟩ :=
    shape2 word 46 385875968 0 0 e d a (by decide) (by decide) rfl
      (number _ word h (by omega))
  refine row word 0 46 _ h1 h2 ?_ hw
  show take _ _ = _
  unfold take
  rw [h6, h7, h3, h4, h5]
  rfl

theorem vballot (e : Bool) (d a : BitVec 7) : Statement (.vballot e d a) := by
  intro word hw h
  have h_e := flag e
  have h_d := d.isLt
  have h_a := a.isLt
  obtain ⟨h1, h2, h3, h4, h5, h6, h7⟩ :=
    shape2 word 47 394264576 0 0 e d a (by decide) (by decide) rfl
      (number _ word h (by omega))
  refine row word 0 47 _ h1 h2 ?_ hw
  show take _ _ = _
  unfold take
  rw [h6, h7, h3, h4, h5]
  rfl

theorem shape3 (word : BitVec 32) (k base : Nat)
    (f0 : BitVec 7)
    (f1 : BitVec 7)
    (f2 : BitVec 9)
    (hb : base = k * 8388608)
    (hn : word.toNat = base + f0.toNat * 65536 + f1.toNat * 512 + f2.toNat) :
    word.toNat / 1073741824 = k / 128 ∧
    word.toNat / 8388608 % 128 = k % 128 ∧
    bitsAt 16 7 word = f0 ∧
    bitsAt 9 7 word = f1 ∧
    bitsAt 0 9 word = f2 := by
  have h_f0 := f0.isLt
  have h_f1 := f1.isLt
  have h_f2 := f2.isLt
  exact ⟨by omega,
    by omega,
    bits 16 7 word f0 (by omega),
    bits 9 7 word f1 (by omega),
    bits 0 9 word f2 (by omega)⟩

theorem vaddi (d a : BitVec 7) (i : BitVec 9) : Statement (.vaddi d a i) := by
  intro word hw h
  have h_d := d.isLt
  have h_a := a.isLt
  have h_i := i.isLt
  obtain ⟨h1, h2, h3, h4, h5⟩ :=
    shape3 word 48 402653184 d a i rfl
      (number _ word h (by omega))
  refine row word 0 48 _ h1 h2 ?_ hw
  show Except.ok _ = _
  rw [h3, h4, h5]

theorem vmuli (d a : BitVec 7) (i : BitVec 9) : Statement (.vmuli d a i) := by
  intro word hw h
  have h_d := d.isLt
  have h_a := a.isLt
  have h_i := i.isLt
  obtain ⟨h1, h2, h3, h4, h5⟩ :=
    shape3 word 49 411041792 d a i rfl
      (number _ word h (by omega))
  refine row word 0 49 _ h1 h2 ?_ hw
  show Except.ok _ = _
  rw [h3, h4, h5]

theorem vandi (d a : BitVec 7) (i : BitVec 9) : Statement (.vandi d a i) := by
  intro word hw h
  have h_d := d.isLt
  have h_a := a.isLt
  have h_i := i.isLt
  obtain ⟨h1, h2, h3, h4, h5⟩ :=
    shape3 word 50 419430400 d a i rfl
      (number _ word h (by omega))
  refine row word 0 50 _ h1 h2 ?_ hw
  show Except.ok _ = _
  rw [h3, h4, h5]

theorem vori (d a : BitVec 7) (i : BitVec 9) : Statement (.vori d a i) := by
  intro word hw h
  have h_d := d.isLt
  have h_a := a.isLt
  have h_i := i.isLt
  obtain ⟨h1, h2, h3, h4, h5⟩ :=
    shape3 word 51 427819008 d a i rfl
      (number _ word h (by omega))
  refine row word 0 51 _ h1 h2 ?_ hw
  show Except.ok _ = _
  rw [h3, h4, h5]

theorem vxori (d a : BitVec 7) (i : BitVec 9) : Statement (.vxori d a i) := by
  intro word hw h
  have h_d := d.isLt
  have h_a := a.isLt
  have h_i := i.isLt
  obtain ⟨h1, h2, h3, h4, h5⟩ :=
    shape3 word 52 436207616 d a i rfl
      (number _ word h (by omega))
  refine row word 0 52 _ h1 h2 ?_ hw
  show Except.ok _ = _
  rw [h3, h4, h5]

theorem vshli (d a : BitVec 7) (i : BitVec 9) : Statement (.vshli d a i) := by
  intro word hw h
  have h_d := d.isLt
  have h_a := a.isLt
  have h_i := i.isLt
  obtain ⟨h1, h2, h3, h4, h5⟩ :=
    shape3 word 53 444596224 d a i rfl
      (number _ word h (by omega))
  refine row word 0 53 _ h1 h2 ?_ hw
  show Except.ok _ = _
  rw [h3, h4, h5]

theorem vshrui (d a : BitVec 7) (i : BitVec 9) : Statement (.vshrui d a i) := by
  intro word hw h
  have h_d := d.isLt
  have h_a := a.isLt
  have h_i := i.isLt
  obtain ⟨h1, h2, h3, h4, h5⟩ :=
    shape3 word 54 452984832 d a i rfl
      (number _ word h (by omega))
  refine row word 0 54 _ h1 h2 ?_ hw
  show Except.ok _ = _
  rw [h3, h4, h5]

theorem vshrsi (d a : BitVec 7) (i : BitVec 9) : Statement (.vshrsi d a i) := by
  intro word hw h
  have h_d := d.isLt
  have h_a := a.isLt
  have h_i := i.isLt
  obtain ⟨h1, h2, h3, h4, h5⟩ :=
    shape3 word 55 461373440 d a i rfl
      (number _ word h (by omega))
  refine row word 0 55 _ h1 h2 ?_ hw
  show Except.ok _ = _
  rw [h3, h4, h5]

theorem vcmpeqi (d a : BitVec 7) (i : BitVec 9) : Statement (.vcmpeqi d a i) := by
  intro word hw h
  have h_d := d.isLt
  have h_a := a.isLt
  have h_i := i.isLt
  obtain ⟨h1, h2, h3, h4, h5⟩ :=
    shape3 word 56 469762048 d a i rfl
      (number _ word h (by omega))
  refine row word 0 56 _ h1 h2 ?_ hw
  show Except.ok _ = _
  rw [h3, h4, h5]

theorem vcmpltsi (d a : BitVec 7) (i : BitVec 9) : Statement (.vcmpltsi d a i) := by
  intro word hw h
  have h_d := d.isLt
  have h_a := a.isLt
  have h_i := i.isLt
  obtain ⟨h1, h2, h3, h4, h5⟩ :=
    shape3 word 57 478150656 d a i rfl
      (number _ word h (by omega))
  refine row word 0 57 _ h1 h2 ?_ hw
  show Except.ok _ = _
  rw [h3, h4, h5]

theorem vcmpltui (d a : BitVec 7) (i : BitVec 9) : Statement (.vcmpltui d a i) := by
  intro word hw h
  have h_d := d.isLt
  have h_a := a.isLt
  have h_i := i.isLt
  obtain ⟨h1, h2, h3, h4, h5⟩ :=
    shape3 word 58 486539264 d a i rfl
      (number _ word h (by omega))
  refine row word 0 58 _ h1 h2 ?_ hw
  show Except.ok _ = _
  rw [h3, h4, h5]

theorem vfadd (t : FType) (e g : Bool) (d a b : BitVec 7) : Statement (.vfadd t e g d a b) := by
  cases t
  · intro word hw h
    have h_e := flag e
    have h_g := flag g
    have h_d := d.isLt
    have h_a := a.isLt
    have h_b := b.isLt
    obtain ⟨h1, h2, h3, h4, h5, h6, h7⟩ :=
      shape1 word 64 536870912 e g d a b rfl
        (number _ word h (by omega))
    refine row word 0 64 _ h1 h2 ?_ hw
    show Except.ok _ = _
    rw [h3, h4, h5, h6, h7]
  · intro word hw h
    have h_e := flag e
    have h_g := flag g
    have h_d := d.isLt
    have h_a := a.isLt
    have h_b := b.isLt
    obtain ⟨h1, h2, h3, h4, h5, h6, h7⟩ :=
      shape1 word 65 545259520 e g d a b rfl
        (number _ word h (by omega))
    refine row word 0 65 _ h1 h2 ?_ hw
    show Except.ok _ = _
    rw [h3, h4, h5, h6, h7]
  · intro word hw h
    have h_e := flag e
    have h_g := flag g
    have h_d := d.isLt
    have h_a := a.isLt
    have h_b := b.isLt
    obtain ⟨h1, h2, h3, h4, h5, h6, h7⟩ :=
      shape1 word 66 553648128 e g d a b rfl
        (number _ word h (by omega))
    refine row word 0 66 _ h1 h2 ?_ hw
    show Except.ok _ = _
    rw [h3, h4, h5, h6, h7]
  · intro word hw h
    have h_e := flag e
    have h_g := flag g
    have h_d := d.isLt
    have h_a := a.isLt
    have h_b := b.isLt
    obtain ⟨h1, h2, h3, h4, h5, h6, h7⟩ :=
      shape1 word 67 562036736 e g d a b rfl
        (number _ word h (by omega))
    refine row word 0 67 _ h1 h2 ?_ hw
    show Except.ok _ = _
    rw [h3, h4, h5, h6, h7]

theorem vfsub (t : FType) (e g : Bool) (d a b : BitVec 7) : Statement (.vfsub t e g d a b) := by
  cases t
  · intro word hw h
    have h_e := flag e
    have h_g := flag g
    have h_d := d.isLt
    have h_a := a.isLt
    have h_b := b.isLt
    obtain ⟨h1, h2, h3, h4, h5, h6, h7⟩ :=
      shape1 word 68 570425344 e g d a b rfl
        (number _ word h (by omega))
    refine row word 0 68 _ h1 h2 ?_ hw
    show Except.ok _ = _
    rw [h3, h4, h5, h6, h7]
  · intro word hw h
    have h_e := flag e
    have h_g := flag g
    have h_d := d.isLt
    have h_a := a.isLt
    have h_b := b.isLt
    obtain ⟨h1, h2, h3, h4, h5, h6, h7⟩ :=
      shape1 word 69 578813952 e g d a b rfl
        (number _ word h (by omega))
    refine row word 0 69 _ h1 h2 ?_ hw
    show Except.ok _ = _
    rw [h3, h4, h5, h6, h7]
  · intro word hw h
    have h_e := flag e
    have h_g := flag g
    have h_d := d.isLt
    have h_a := a.isLt
    have h_b := b.isLt
    obtain ⟨h1, h2, h3, h4, h5, h6, h7⟩ :=
      shape1 word 70 587202560 e g d a b rfl
        (number _ word h (by omega))
    refine row word 0 70 _ h1 h2 ?_ hw
    show Except.ok _ = _
    rw [h3, h4, h5, h6, h7]
  · intro word hw h
    have h_e := flag e
    have h_g := flag g
    have h_d := d.isLt
    have h_a := a.isLt
    have h_b := b.isLt
    obtain ⟨h1, h2, h3, h4, h5, h6, h7⟩ :=
      shape1 word 71 595591168 e g d a b rfl
        (number _ word h (by omega))
    refine row word 0 71 _ h1 h2 ?_ hw
    show Except.ok _ = _
    rw [h3, h4, h5, h6, h7]

theorem vfmul (t : FType) (e g : Bool) (d a b : BitVec 7) : Statement (.vfmul t e g d a b) := by
  cases t
  · intro word hw h
    have h_e := flag e
    have h_g := flag g
    have h_d := d.isLt
    have h_a := a.isLt
    have h_b := b.isLt
    obtain ⟨h1, h2, h3, h4, h5, h6, h7⟩ :=
      shape1 word 72 603979776 e g d a b rfl
        (number _ word h (by omega))
    refine row word 0 72 _ h1 h2 ?_ hw
    show Except.ok _ = _
    rw [h3, h4, h5, h6, h7]
  · intro word hw h
    have h_e := flag e
    have h_g := flag g
    have h_d := d.isLt
    have h_a := a.isLt
    have h_b := b.isLt
    obtain ⟨h1, h2, h3, h4, h5, h6, h7⟩ :=
      shape1 word 73 612368384 e g d a b rfl
        (number _ word h (by omega))
    refine row word 0 73 _ h1 h2 ?_ hw
    show Except.ok _ = _
    rw [h3, h4, h5, h6, h7]
  · intro word hw h
    have h_e := flag e
    have h_g := flag g
    have h_d := d.isLt
    have h_a := a.isLt
    have h_b := b.isLt
    obtain ⟨h1, h2, h3, h4, h5, h6, h7⟩ :=
      shape1 word 74 620756992 e g d a b rfl
        (number _ word h (by omega))
    refine row word 0 74 _ h1 h2 ?_ hw
    show Except.ok _ = _
    rw [h3, h4, h5, h6, h7]
  · intro word hw h
    have h_e := flag e
    have h_g := flag g
    have h_d := d.isLt
    have h_a := a.isLt
    have h_b := b.isLt
    obtain ⟨h1, h2, h3, h4, h5, h6, h7⟩ :=
      shape1 word 75 629145600 e g d a b rfl
        (number _ word h (by omega))
    refine row word 0 75 _ h1 h2 ?_ hw
    show Except.ok _ = _
    rw [h3, h4, h5, h6, h7]

theorem vffma (t : FType) (e g : Bool) (d a b : BitVec 7) : Statement (.vffma t e g d a b) := by
  cases t
  · intro word hw h
    have h_e := flag e
    have h_g := flag g
    have h_d := d.isLt
    have h_a := a.isLt
    have h_b := b.isLt
    obtain ⟨h1, h2, h3, h4, h5, h6, h7⟩ :=
      shape1 word 76 637534208 e g d a b rfl
        (number _ word h (by omega))
    refine row word 0 76 _ h1 h2 ?_ hw
    show Except.ok _ = _
    rw [h3, h4, h5, h6, h7]
  · intro word hw h
    have h_e := flag e
    have h_g := flag g
    have h_d := d.isLt
    have h_a := a.isLt
    have h_b := b.isLt
    obtain ⟨h1, h2, h3, h4, h5, h6, h7⟩ :=
      shape1 word 77 645922816 e g d a b rfl
        (number _ word h (by omega))
    refine row word 0 77 _ h1 h2 ?_ hw
    show Except.ok _ = _
    rw [h3, h4, h5, h6, h7]
  · intro word hw h
    have h_e := flag e
    have h_g := flag g
    have h_d := d.isLt
    have h_a := a.isLt
    have h_b := b.isLt
    obtain ⟨h1, h2, h3, h4, h5, h6, h7⟩ :=
      shape1 word 78 654311424 e g d a b rfl
        (number _ word h (by omega))
    refine row word 0 78 _ h1 h2 ?_ hw
    show Except.ok _ = _
    rw [h3, h4, h5, h6, h7]
  · intro word hw h
    have h_e := flag e
    have h_g := flag g
    have h_d := d.isLt
    have h_a := a.isLt
    have h_b := b.isLt
    obtain ⟨h1, h2, h3, h4, h5, h6, h7⟩ :=
      shape1 word 79 662700032 e g d a b rfl
        (number _ word h (by omega))
    refine row word 0 79 _ h1 h2 ?_ hw
    show Except.ok _ = _
    rw [h3, h4, h5, h6, h7]

theorem vffms (t : FType) (e g : Bool) (d a b : BitVec 7) : Statement (.vffms t e g d a b) := by
  cases t
  · intro word hw h
    have h_e := flag e
    have h_g := flag g
    have h_d := d.isLt
    have h_a := a.isLt
    have h_b := b.isLt
    obtain ⟨h1, h2, h3, h4, h5, h6, h7⟩ :=
      shape1 word 80 671088640 e g d a b rfl
        (number _ word h (by omega))
    refine row word 0 80 _ h1 h2 ?_ hw
    show Except.ok _ = _
    rw [h3, h4, h5, h6, h7]
  · intro word hw h
    have h_e := flag e
    have h_g := flag g
    have h_d := d.isLt
    have h_a := a.isLt
    have h_b := b.isLt
    obtain ⟨h1, h2, h3, h4, h5, h6, h7⟩ :=
      shape1 word 81 679477248 e g d a b rfl
        (number _ word h (by omega))
    refine row word 0 81 _ h1 h2 ?_ hw
    show Except.ok _ = _
    rw [h3, h4, h5, h6, h7]
  · intro word hw h
    have h_e := flag e
    have h_g := flag g
    have h_d := d.isLt
    have h_a := a.isLt
    have h_b := b.isLt
    obtain ⟨h1, h2, h3, h4, h5, h6, h7⟩ :=
      shape1 word 82 687865856 e g d a b rfl
        (number _ word h (by omega))
    refine row word 0 82 _ h1 h2 ?_ hw
    show Except.ok _ = _
    rw [h3, h4, h5, h6, h7]
  · intro word hw h
    have h_e := flag e
    have h_g := flag g
    have h_d := d.isLt
    have h_a := a.isLt
    have h_b := b.isLt
    obtain ⟨h1, h2, h3, h4, h5, h6, h7⟩ :=
      shape1 word 83 696254464 e g d a b rfl
        (number _ word h (by omega))
    refine row word 0 83 _ h1 h2 ?_ hw
    show Except.ok _ = _
    rw [h3, h4, h5, h6, h7]

theorem vfmin (t : FType) (e g : Bool) (d a b : BitVec 7) : Statement (.vfmin t e g d a b) := by
  cases t
  · intro word hw h
    have h_e := flag e
    have h_g := flag g
    have h_d := d.isLt
    have h_a := a.isLt
    have h_b := b.isLt
    obtain ⟨h1, h2, h3, h4, h5, h6, h7⟩ :=
      shape1 word 84 704643072 e g d a b rfl
        (number _ word h (by omega))
    refine row word 0 84 _ h1 h2 ?_ hw
    show Except.ok _ = _
    rw [h3, h4, h5, h6, h7]
  · intro word hw h
    have h_e := flag e
    have h_g := flag g
    have h_d := d.isLt
    have h_a := a.isLt
    have h_b := b.isLt
    obtain ⟨h1, h2, h3, h4, h5, h6, h7⟩ :=
      shape1 word 85 713031680 e g d a b rfl
        (number _ word h (by omega))
    refine row word 0 85 _ h1 h2 ?_ hw
    show Except.ok _ = _
    rw [h3, h4, h5, h6, h7]
  · intro word hw h
    have h_e := flag e
    have h_g := flag g
    have h_d := d.isLt
    have h_a := a.isLt
    have h_b := b.isLt
    obtain ⟨h1, h2, h3, h4, h5, h6, h7⟩ :=
      shape1 word 86 721420288 e g d a b rfl
        (number _ word h (by omega))
    refine row word 0 86 _ h1 h2 ?_ hw
    show Except.ok _ = _
    rw [h3, h4, h5, h6, h7]
  · intro word hw h
    have h_e := flag e
    have h_g := flag g
    have h_d := d.isLt
    have h_a := a.isLt
    have h_b := b.isLt
    obtain ⟨h1, h2, h3, h4, h5, h6, h7⟩ :=
      shape1 word 87 729808896 e g d a b rfl
        (number _ word h (by omega))
    refine row word 0 87 _ h1 h2 ?_ hw
    show Except.ok _ = _
    rw [h3, h4, h5, h6, h7]

theorem vfmax (t : FType) (e g : Bool) (d a b : BitVec 7) : Statement (.vfmax t e g d a b) := by
  cases t
  · intro word hw h
    have h_e := flag e
    have h_g := flag g
    have h_d := d.isLt
    have h_a := a.isLt
    have h_b := b.isLt
    obtain ⟨h1, h2, h3, h4, h5, h6, h7⟩ :=
      shape1 word 88 738197504 e g d a b rfl
        (number _ word h (by omega))
    refine row word 0 88 _ h1 h2 ?_ hw
    show Except.ok _ = _
    rw [h3, h4, h5, h6, h7]
  · intro word hw h
    have h_e := flag e
    have h_g := flag g
    have h_d := d.isLt
    have h_a := a.isLt
    have h_b := b.isLt
    obtain ⟨h1, h2, h3, h4, h5, h6, h7⟩ :=
      shape1 word 89 746586112 e g d a b rfl
        (number _ word h (by omega))
    refine row word 0 89 _ h1 h2 ?_ hw
    show Except.ok _ = _
    rw [h3, h4, h5, h6, h7]
  · intro word hw h
    have h_e := flag e
    have h_g := flag g
    have h_d := d.isLt
    have h_a := a.isLt
    have h_b := b.isLt
    obtain ⟨h1, h2, h3, h4, h5, h6, h7⟩ :=
      shape1 word 90 754974720 e g d a b rfl
        (number _ word h (by omega))
    refine row word 0 90 _ h1 h2 ?_ hw
    show Except.ok _ = _
    rw [h3, h4, h5, h6, h7]
  · intro word hw h
    have h_e := flag e
    have h_g := flag g
    have h_d := d.isLt
    have h_a := a.isLt
    have h_b := b.isLt
    obtain ⟨h1, h2, h3, h4, h5, h6, h7⟩ :=
      shape1 word 91 763363328 e g d a b rfl
        (number _ word h (by omega))
    refine row word 0 91 _ h1 h2 ?_ hw
    show Except.ok _ = _
    rw [h3, h4, h5, h6, h7]

theorem vfcmpeq (t : FType) (e g : Bool) (d a b : BitVec 7) : Statement (.vfcmpeq t e g d a b) := by
  cases t
  · intro word hw h
    have h_e := flag e
    have h_g := flag g
    have h_d := d.isLt
    have h_a := a.isLt
    have h_b := b.isLt
    obtain ⟨h1, h2, h3, h4, h5, h6, h7⟩ :=
      shape1 word 92 771751936 e g d a b rfl
        (number _ word h (by omega))
    refine row word 0 92 _ h1 h2 ?_ hw
    show Except.ok _ = _
    rw [h3, h4, h5, h6, h7]
  · intro word hw h
    have h_e := flag e
    have h_g := flag g
    have h_d := d.isLt
    have h_a := a.isLt
    have h_b := b.isLt
    obtain ⟨h1, h2, h3, h4, h5, h6, h7⟩ :=
      shape1 word 93 780140544 e g d a b rfl
        (number _ word h (by omega))
    refine row word 0 93 _ h1 h2 ?_ hw
    show Except.ok _ = _
    rw [h3, h4, h5, h6, h7]
  · intro word hw h
    have h_e := flag e
    have h_g := flag g
    have h_d := d.isLt
    have h_a := a.isLt
    have h_b := b.isLt
    obtain ⟨h1, h2, h3, h4, h5, h6, h7⟩ :=
      shape1 word 94 788529152 e g d a b rfl
        (number _ word h (by omega))
    refine row word 0 94 _ h1 h2 ?_ hw
    show Except.ok _ = _
    rw [h3, h4, h5, h6, h7]
  · intro word hw h
    have h_e := flag e
    have h_g := flag g
    have h_d := d.isLt
    have h_a := a.isLt
    have h_b := b.isLt
    obtain ⟨h1, h2, h3, h4, h5, h6, h7⟩ :=
      shape1 word 95 796917760 e g d a b rfl
        (number _ word h (by omega))
    refine row word 0 95 _ h1 h2 ?_ hw
    show Except.ok _ = _
    rw [h3, h4, h5, h6, h7]

theorem vfcmplt (t : FType) (e g : Bool) (d a b : BitVec 7) : Statement (.vfcmplt t e g d a b) := by
  cases t
  · intro word hw h
    have h_e := flag e
    have h_g := flag g
    have h_d := d.isLt
    have h_a := a.isLt
    have h_b := b.isLt
    obtain ⟨h1, h2, h3, h4, h5, h6, h7⟩ :=
      shape1 word 96 805306368 e g d a b rfl
        (number _ word h (by omega))
    refine row word 0 96 _ h1 h2 ?_ hw
    show Except.ok _ = _
    rw [h3, h4, h5, h6, h7]
  · intro word hw h
    have h_e := flag e
    have h_g := flag g
    have h_d := d.isLt
    have h_a := a.isLt
    have h_b := b.isLt
    obtain ⟨h1, h2, h3, h4, h5, h6, h7⟩ :=
      shape1 word 97 813694976 e g d a b rfl
        (number _ word h (by omega))
    refine row word 0 97 _ h1 h2 ?_ hw
    show Except.ok _ = _
    rw [h3, h4, h5, h6, h7]
  · intro word hw h
    have h_e := flag e
    have h_g := flag g
    have h_d := d.isLt
    have h_a := a.isLt
    have h_b := b.isLt
    obtain ⟨h1, h2, h3, h4, h5, h6, h7⟩ :=
      shape1 word 98 822083584 e g d a b rfl
        (number _ word h (by omega))
    refine row word 0 98 _ h1 h2 ?_ hw
    show Except.ok _ = _
    rw [h3, h4, h5, h6, h7]
  · intro word hw h
    have h_e := flag e
    have h_g := flag g
    have h_d := d.isLt
    have h_a := a.isLt
    have h_b := b.isLt
    obtain ⟨h1, h2, h3, h4, h5, h6, h7⟩ :=
      shape1 word 99 830472192 e g d a b rfl
        (number _ word h (by omega))
    refine row word 0 99 _ h1 h2 ?_ hw
    show Except.ok _ = _
    rw [h3, h4, h5, h6, h7]

theorem vfcmple (t : FType) (e g : Bool) (d a b : BitVec 7) : Statement (.vfcmple t e g d a b) := by
  cases t
  · intro word hw h
    have h_e := flag e
    have h_g := flag g
    have h_d := d.isLt
    have h_a := a.isLt
    have h_b := b.isLt
    obtain ⟨h1, h2, h3, h4, h5, h6, h7⟩ :=
      shape1 word 100 838860800 e g d a b rfl
        (number _ word h (by omega))
    refine row word 0 100 _ h1 h2 ?_ hw
    show Except.ok _ = _
    rw [h3, h4, h5, h6, h7]
  · intro word hw h
    have h_e := flag e
    have h_g := flag g
    have h_d := d.isLt
    have h_a := a.isLt
    have h_b := b.isLt
    obtain ⟨h1, h2, h3, h4, h5, h6, h7⟩ :=
      shape1 word 101 847249408 e g d a b rfl
        (number _ word h (by omega))
    refine row word 0 101 _ h1 h2 ?_ hw
    show Except.ok _ = _
    rw [h3, h4, h5, h6, h7]
  · intro word hw h
    have h_e := flag e
    have h_g := flag g
    have h_d := d.isLt
    have h_a := a.isLt
    have h_b := b.isLt
    obtain ⟨h1, h2, h3, h4, h5, h6, h7⟩ :=
      shape1 word 102 855638016 e g d a b rfl
        (number _ word h (by omega))
    refine row word 0 102 _ h1 h2 ?_ hw
    show Except.ok _ = _
    rw [h3, h4, h5, h6, h7]
  · intro word hw h
    have h_e := flag e
    have h_g := flag g
    have h_d := d.isLt
    have h_a := a.isLt
    have h_b := b.isLt
    obtain ⟨h1, h2, h3, h4, h5, h6, h7⟩ :=
      shape1 word 103 864026624 e g d a b rfl
        (number _ word h (by omega))
    refine row word 0 103 _ h1 h2 ?_ hw
    show Except.ok _ = _
    rw [h3, h4, h5, h6, h7]

theorem vfcmpun (t : FType) (e g : Bool) (d a b : BitVec 7) : Statement (.vfcmpun t e g d a b) := by
  cases t
  · intro word hw h
    have h_e := flag e
    have h_g := flag g
    have h_d := d.isLt
    have h_a := a.isLt
    have h_b := b.isLt
    obtain ⟨h1, h2, h3, h4, h5, h6, h7⟩ :=
      shape1 word 104 872415232 e g d a b rfl
        (number _ word h (by omega))
    refine row word 0 104 _ h1 h2 ?_ hw
    show Except.ok _ = _
    rw [h3, h4, h5, h6, h7]
  · intro word hw h
    have h_e := flag e
    have h_g := flag g
    have h_d := d.isLt
    have h_a := a.isLt
    have h_b := b.isLt
    obtain ⟨h1, h2, h3, h4, h5, h6, h7⟩ :=
      shape1 word 105 880803840 e g d a b rfl
        (number _ word h (by omega))
    refine row word 0 105 _ h1 h2 ?_ hw
    show Except.ok _ = _
    rw [h3, h4, h5, h6, h7]
  · intro word hw h
    have h_e := flag e
    have h_g := flag g
    have h_d := d.isLt
    have h_a := a.isLt
    have h_b := b.isLt
    obtain ⟨h1, h2, h3, h4, h5, h6, h7⟩ :=
      shape1 word 106 889192448 e g d a b rfl
        (number _ word h (by omega))
    refine row word 0 106 _ h1 h2 ?_ hw
    show Except.ok _ = _
    rw [h3, h4, h5, h6, h7]
  · intro word hw h
    have h_e := flag e
    have h_g := flag g
    have h_d := d.isLt
    have h_a := a.isLt
    have h_b := b.isLt
    obtain ⟨h1, h2, h3, h4, h5, h6, h7⟩ :=
      shape1 word 107 897581056 e g d a b rfl
        (number _ word h (by omega))
    refine row word 0 107 _ h1 h2 ?_ hw
    show Except.ok _ = _
    rw [h3, h4, h5, h6, h7]

theorem vfsqrt (t : FType) (e : Bool) (d a : BitVec 7) : Statement (.vfsqrt t e d a) := by
  cases t
  · intro word hw h
    have h_e := flag e
    have h_d := d.isLt
    have h_a := a.isLt
    obtain ⟨h1, h2, h3, h4, h5, h6, h7⟩ :=
      shape2 word 108 905969664 0 0 e d a (by decide) (by decide) rfl
        (number _ word h (by omega))
    refine row word 0 108 _ h1 h2 ?_ hw
    show (if _ then _ else _) = _
    simp only [h3, h4, h5, h6, h7, Bool.true_and, Bool.and_self, Bool.false_eq_true, if_true, if_false]
  · intro word hw h
    have h_e := flag e
    have h_d := d.isLt
    have h_a := a.isLt
    obtain ⟨h1, h2, h3, h4, h5, h6, h7⟩ :=
      shape2 word 109 914358272 0 0 e d a (by decide) (by decide) rfl
        (number _ word h (by omega))
    refine row word 0 109 _ h1 h2 ?_ hw
    show (if _ then _ else _) = _
    simp only [h3, h4, h5, h6, h7, Bool.true_and, Bool.and_self, Bool.false_eq_true, if_true, if_false]
  · intro word hw h
    have h_e := flag e
    have h_d := d.isLt
    have h_a := a.isLt
    obtain ⟨h1, h2, h3, h4, h5, h6, h7⟩ :=
      shape2 word 110 922746880 0 0 e d a (by decide) (by decide) rfl
        (number _ word h (by omega))
    refine row word 0 110 _ h1 h2 ?_ hw
    show (if _ then _ else _) = _
    simp only [h3, h4, h5, h6, h7, Bool.true_and, Bool.and_self, Bool.false_eq_true, if_true, if_false]
  · intro word hw h
    have h_e := flag e
    have h_d := d.isLt
    have h_a := a.isLt
    obtain ⟨h1, h2, h3, h4, h5, h6, h7⟩ :=
      shape2 word 111 931135488 0 0 e d a (by decide) (by decide) rfl
        (number _ word h (by omega))
    refine row word 0 111 _ h1 h2 ?_ hw
    show (if _ then _ else _) = _
    simp only [h3, h4, h5, h6, h7, Bool.true_and, Bool.and_self, Bool.false_eq_true, if_true, if_false]

theorem vfrsq (t : FType) (e : Bool) (d a : BitVec 7) : Statement (.vfrsq t e d a) := by
  cases t
  · intro word hw h
    have h_e := flag e
    have h_d := d.isLt
    have h_a := a.isLt
    obtain ⟨h1, h2, h3, h4, h5, h6, h7⟩ :=
      shape2 word 108 905969665 1 0 e d a (by decide) (by decide) rfl
        (number _ word h (by omega))
    refine row word 0 108 _ h1 h2 ?_ hw
    show (if _ then _ else _) = _
    simp only [differs 0 7 1 0 word h6 rfl, h3, h4, h5, h6, h7, Bool.false_and, Bool.true_and, Bool.and_self,
      Bool.false_eq_true, if_true, if_false]
  · intro word hw h
    have h_e := flag e
    have h_d := d.isLt
    have h_a := a.isLt
    obtain ⟨h1, h2, h3, h4, h5, h6, h7⟩ :=
      shape2 word 109 914358273 1 0 e d a (by decide) (by decide) rfl
        (number _ word h (by omega))
    refine row word 0 109 _ h1 h2 ?_ hw
    show (if _ then _ else _) = _
    simp only [differs 0 7 1 0 word h6 rfl, h3, h4, h5, h6, h7, Bool.false_and, Bool.true_and, Bool.and_self,
      Bool.false_eq_true, if_true, if_false]
  · intro word hw h
    have h_e := flag e
    have h_d := d.isLt
    have h_a := a.isLt
    obtain ⟨h1, h2, h3, h4, h5, h6, h7⟩ :=
      shape2 word 110 922746881 1 0 e d a (by decide) (by decide) rfl
        (number _ word h (by omega))
    refine row word 0 110 _ h1 h2 ?_ hw
    show (if _ then _ else _) = _
    simp only [differs 0 7 1 0 word h6 rfl, h3, h4, h5, h6, h7, Bool.false_and, Bool.true_and, Bool.and_self,
      Bool.false_eq_true, if_true, if_false]
  · intro word hw h
    have h_e := flag e
    have h_d := d.isLt
    have h_a := a.isLt
    obtain ⟨h1, h2, h3, h4, h5, h6, h7⟩ :=
      shape2 word 111 931135489 1 0 e d a (by decide) (by decide) rfl
        (number _ word h (by omega))
    refine row word 0 111 _ h1 h2 ?_ hw
    show (if _ then _ else _) = _
    simp only [differs 0 7 1 0 word h6 rfl, h3, h4, h5, h6, h7, Bool.false_and, Bool.true_and, Bool.and_self,
      Bool.false_eq_true, if_true, if_false]

theorem vfrcp (t : FType) (e : Bool) (d a : BitVec 7) : Statement (.vfrcp t e d a) := by
  cases t
  · intro word hw h
    have h_e := flag e
    have h_d := d.isLt
    have h_a := a.isLt
    obtain ⟨h1, h2, h3, h4, h5, h6, h7⟩ :=
      shape2 word 108 905969666 2 0 e d a (by decide) (by decide) rfl
        (number _ word h (by omega))
    refine row word 0 108 _ h1 h2 ?_ hw
    show (if _ then _ else _) = _
    simp only [differs 0 7 2 0 word h6 rfl, differs 0 7 2 1 word h6 rfl, h3, h4, h5, h6, h7, Bool.false_and,
      Bool.true_and, Bool.and_self, Bool.false_eq_true, if_true, if_false]
  · intro word hw h
    have h_e := flag e
    have h_d := d.isLt
    have h_a := a.isLt
    obtain ⟨h1, h2, h3, h4, h5, h6, h7⟩ :=
      shape2 word 109 914358274 2 0 e d a (by decide) (by decide) rfl
        (number _ word h (by omega))
    refine row word 0 109 _ h1 h2 ?_ hw
    show (if _ then _ else _) = _
    simp only [differs 0 7 2 0 word h6 rfl, differs 0 7 2 1 word h6 rfl, h3, h4, h5, h6, h7, Bool.false_and,
      Bool.true_and, Bool.and_self, Bool.false_eq_true, if_true, if_false]
  · intro word hw h
    have h_e := flag e
    have h_d := d.isLt
    have h_a := a.isLt
    obtain ⟨h1, h2, h3, h4, h5, h6, h7⟩ :=
      shape2 word 110 922746882 2 0 e d a (by decide) (by decide) rfl
        (number _ word h (by omega))
    refine row word 0 110 _ h1 h2 ?_ hw
    show (if _ then _ else _) = _
    simp only [differs 0 7 2 0 word h6 rfl, differs 0 7 2 1 word h6 rfl, h3, h4, h5, h6, h7, Bool.false_and,
      Bool.true_and, Bool.and_self, Bool.false_eq_true, if_true, if_false]
  · intro word hw h
    have h_e := flag e
    have h_d := d.isLt
    have h_a := a.isLt
    obtain ⟨h1, h2, h3, h4, h5, h6, h7⟩ :=
      shape2 word 111 931135490 2 0 e d a (by decide) (by decide) rfl
        (number _ word h (by omega))
    refine row word 0 111 _ h1 h2 ?_ hw
    show (if _ then _ else _) = _
    simp only [differs 0 7 2 0 word h6 rfl, differs 0 7 2 1 word h6 rfl, h3, h4, h5, h6, h7, Bool.false_and,
      Bool.true_and, Bool.and_self, Bool.false_eq_true, if_true, if_false]

theorem vfexp2 (t : FType) (e : Bool) (d a : BitVec 7) : Statement (.vfexp2 t e d a) := by
  cases t
  · intro word hw h
    have h_e := flag e
    have h_d := d.isLt
    have h_a := a.isLt
    obtain ⟨h1, h2, h3, h4, h5, h6, h7⟩ :=
      shape2 word 108 905969667 3 0 e d a (by decide) (by decide) rfl
        (number _ word h (by omega))
    refine row word 0 108 _ h1 h2 ?_ hw
    show (if _ then _ else _) = _
    simp only [differs 0 7 3 0 word h6 rfl, differs 0 7 3 1 word h6 rfl, differs 0 7 3 2 word h6 rfl, h3, h4, h5,
      h6, h7, Bool.false_and, Bool.true_and, Bool.and_self, Bool.false_eq_true, if_true, if_false]
  · intro word hw h
    have h_e := flag e
    have h_d := d.isLt
    have h_a := a.isLt
    obtain ⟨h1, h2, h3, h4, h5, h6, h7⟩ :=
      shape2 word 109 914358275 3 0 e d a (by decide) (by decide) rfl
        (number _ word h (by omega))
    refine row word 0 109 _ h1 h2 ?_ hw
    show (if _ then _ else _) = _
    simp only [differs 0 7 3 0 word h6 rfl, differs 0 7 3 1 word h6 rfl, differs 0 7 3 2 word h6 rfl, h3, h4, h5,
      h6, h7, Bool.false_and, Bool.true_and, Bool.and_self, Bool.false_eq_true, if_true, if_false]
  · intro word hw h
    have h_e := flag e
    have h_d := d.isLt
    have h_a := a.isLt
    obtain ⟨h1, h2, h3, h4, h5, h6, h7⟩ :=
      shape2 word 110 922746883 3 0 e d a (by decide) (by decide) rfl
        (number _ word h (by omega))
    refine row word 0 110 _ h1 h2 ?_ hw
    show (if _ then _ else _) = _
    simp only [differs 0 7 3 0 word h6 rfl, differs 0 7 3 1 word h6 rfl, differs 0 7 3 2 word h6 rfl, h3, h4, h5,
      h6, h7, Bool.false_and, Bool.true_and, Bool.and_self, Bool.false_eq_true, if_true, if_false]
  · intro word hw h
    have h_e := flag e
    have h_d := d.isLt
    have h_a := a.isLt
    obtain ⟨h1, h2, h3, h4, h5, h6, h7⟩ :=
      shape2 word 111 931135491 3 0 e d a (by decide) (by decide) rfl
        (number _ word h (by omega))
    refine row word 0 111 _ h1 h2 ?_ hw
    show (if _ then _ else _) = _
    simp only [differs 0 7 3 0 word h6 rfl, differs 0 7 3 1 word h6 rfl, differs 0 7 3 2 word h6 rfl, h3, h4, h5,
      h6, h7, Bool.false_and, Bool.true_and, Bool.and_self, Bool.false_eq_true, if_true, if_false]

theorem vflog2 (t : FType) (e : Bool) (d a : BitVec 7) : Statement (.vflog2 t e d a) := by
  cases t
  · intro word hw h
    have h_e := flag e
    have h_d := d.isLt
    have h_a := a.isLt
    obtain ⟨h1, h2, h3, h4, h5, h6, h7⟩ :=
      shape2 word 108 905969668 4 0 e d a (by decide) (by decide) rfl
        (number _ word h (by omega))
    refine row word 0 108 _ h1 h2 ?_ hw
    show (if _ then _ else _) = _
    simp only [differs 0 7 4 0 word h6 rfl, differs 0 7 4 1 word h6 rfl, differs 0 7 4 2 word h6 rfl,
      differs 0 7 4 3 word h6 rfl, h3, h4, h5, h6, h7, Bool.false_and, Bool.true_and, Bool.and_self,
      Bool.false_eq_true, if_true, if_false]
  · intro word hw h
    have h_e := flag e
    have h_d := d.isLt
    have h_a := a.isLt
    obtain ⟨h1, h2, h3, h4, h5, h6, h7⟩ :=
      shape2 word 109 914358276 4 0 e d a (by decide) (by decide) rfl
        (number _ word h (by omega))
    refine row word 0 109 _ h1 h2 ?_ hw
    show (if _ then _ else _) = _
    simp only [differs 0 7 4 0 word h6 rfl, differs 0 7 4 1 word h6 rfl, differs 0 7 4 2 word h6 rfl,
      differs 0 7 4 3 word h6 rfl, h3, h4, h5, h6, h7, Bool.false_and, Bool.true_and, Bool.and_self,
      Bool.false_eq_true, if_true, if_false]
  · intro word hw h
    have h_e := flag e
    have h_d := d.isLt
    have h_a := a.isLt
    obtain ⟨h1, h2, h3, h4, h5, h6, h7⟩ :=
      shape2 word 110 922746884 4 0 e d a (by decide) (by decide) rfl
        (number _ word h (by omega))
    refine row word 0 110 _ h1 h2 ?_ hw
    show (if _ then _ else _) = _
    simp only [differs 0 7 4 0 word h6 rfl, differs 0 7 4 1 word h6 rfl, differs 0 7 4 2 word h6 rfl,
      differs 0 7 4 3 word h6 rfl, h3, h4, h5, h6, h7, Bool.false_and, Bool.true_and, Bool.and_self,
      Bool.false_eq_true, if_true, if_false]
  · intro word hw h
    have h_e := flag e
    have h_d := d.isLt
    have h_a := a.isLt
    obtain ⟨h1, h2, h3, h4, h5, h6, h7⟩ :=
      shape2 word 111 931135492 4 0 e d a (by decide) (by decide) rfl
        (number _ word h (by omega))
    refine row word 0 111 _ h1 h2 ?_ hw
    show (if _ then _ else _) = _
    simp only [differs 0 7 4 0 word h6 rfl, differs 0 7 4 1 word h6 rfl, differs 0 7 4 2 word h6 rfl,
      differs 0 7 4 3 word h6 rfl, h3, h4, h5, h6, h7, Bool.false_and, Bool.true_and, Bool.and_self,
      Bool.false_eq_true, if_true, if_false]

theorem vfsinpi (t : FType) (e : Bool) (d a : BitVec 7) : Statement (.vfsinpi t e d a) := by
  cases t
  · intro word hw h
    have h_e := flag e
    have h_d := d.isLt
    have h_a := a.isLt
    obtain ⟨h1, h2, h3, h4, h5, h6, h7⟩ :=
      shape2 word 108 905969669 5 0 e d a (by decide) (by decide) rfl
        (number _ word h (by omega))
    refine row word 0 108 _ h1 h2 ?_ hw
    show (if _ then _ else _) = _
    simp only [differs 0 7 5 0 word h6 rfl, differs 0 7 5 1 word h6 rfl, differs 0 7 5 2 word h6 rfl,
      differs 0 7 5 3 word h6 rfl, differs 0 7 5 4 word h6 rfl, h3, h4, h5, h6, h7, Bool.false_and, Bool.true_and,
      Bool.and_self, Bool.false_eq_true, if_true, if_false]
  · intro word hw h
    have h_e := flag e
    have h_d := d.isLt
    have h_a := a.isLt
    obtain ⟨h1, h2, h3, h4, h5, h6, h7⟩ :=
      shape2 word 109 914358277 5 0 e d a (by decide) (by decide) rfl
        (number _ word h (by omega))
    refine row word 0 109 _ h1 h2 ?_ hw
    show (if _ then _ else _) = _
    simp only [differs 0 7 5 0 word h6 rfl, differs 0 7 5 1 word h6 rfl, differs 0 7 5 2 word h6 rfl,
      differs 0 7 5 3 word h6 rfl, differs 0 7 5 4 word h6 rfl, h3, h4, h5, h6, h7, Bool.false_and, Bool.true_and,
      Bool.and_self, Bool.false_eq_true, if_true, if_false]
  · intro word hw h
    have h_e := flag e
    have h_d := d.isLt
    have h_a := a.isLt
    obtain ⟨h1, h2, h3, h4, h5, h6, h7⟩ :=
      shape2 word 110 922746885 5 0 e d a (by decide) (by decide) rfl
        (number _ word h (by omega))
    refine row word 0 110 _ h1 h2 ?_ hw
    show (if _ then _ else _) = _
    simp only [differs 0 7 5 0 word h6 rfl, differs 0 7 5 1 word h6 rfl, differs 0 7 5 2 word h6 rfl,
      differs 0 7 5 3 word h6 rfl, differs 0 7 5 4 word h6 rfl, h3, h4, h5, h6, h7, Bool.false_and, Bool.true_and,
      Bool.and_self, Bool.false_eq_true, if_true, if_false]
  · intro word hw h
    have h_e := flag e
    have h_d := d.isLt
    have h_a := a.isLt
    obtain ⟨h1, h2, h3, h4, h5, h6, h7⟩ :=
      shape2 word 111 931135493 5 0 e d a (by decide) (by decide) rfl
        (number _ word h (by omega))
    refine row word 0 111 _ h1 h2 ?_ hw
    show (if _ then _ else _) = _
    simp only [differs 0 7 5 0 word h6 rfl, differs 0 7 5 1 word h6 rfl, differs 0 7 5 2 word h6 rfl,
      differs 0 7 5 3 word h6 rfl, differs 0 7 5 4 word h6 rfl, h3, h4, h5, h6, h7, Bool.false_and, Bool.true_and,
      Bool.and_self, Bool.false_eq_true, if_true, if_false]

theorem vfcospi (t : FType) (e : Bool) (d a : BitVec 7) : Statement (.vfcospi t e d a) := by
  cases t
  · intro word hw h
    have h_e := flag e
    have h_d := d.isLt
    have h_a := a.isLt
    obtain ⟨h1, h2, h3, h4, h5, h6, h7⟩ :=
      shape2 word 108 905969670 6 0 e d a (by decide) (by decide) rfl
        (number _ word h (by omega))
    refine row word 0 108 _ h1 h2 ?_ hw
    show (if _ then _ else _) = _
    simp only [differs 0 7 6 0 word h6 rfl, differs 0 7 6 1 word h6 rfl, differs 0 7 6 2 word h6 rfl,
      differs 0 7 6 3 word h6 rfl, differs 0 7 6 4 word h6 rfl, differs 0 7 6 5 word h6 rfl, h3, h4, h5, h6, h7,
      Bool.false_and, Bool.true_and, Bool.and_self, Bool.false_eq_true, if_true, if_false]
  · intro word hw h
    have h_e := flag e
    have h_d := d.isLt
    have h_a := a.isLt
    obtain ⟨h1, h2, h3, h4, h5, h6, h7⟩ :=
      shape2 word 109 914358278 6 0 e d a (by decide) (by decide) rfl
        (number _ word h (by omega))
    refine row word 0 109 _ h1 h2 ?_ hw
    show (if _ then _ else _) = _
    simp only [differs 0 7 6 0 word h6 rfl, differs 0 7 6 1 word h6 rfl, differs 0 7 6 2 word h6 rfl,
      differs 0 7 6 3 word h6 rfl, differs 0 7 6 4 word h6 rfl, differs 0 7 6 5 word h6 rfl, h3, h4, h5, h6, h7,
      Bool.false_and, Bool.true_and, Bool.and_self, Bool.false_eq_true, if_true, if_false]
  · intro word hw h
    have h_e := flag e
    have h_d := d.isLt
    have h_a := a.isLt
    obtain ⟨h1, h2, h3, h4, h5, h6, h7⟩ :=
      shape2 word 110 922746886 6 0 e d a (by decide) (by decide) rfl
        (number _ word h (by omega))
    refine row word 0 110 _ h1 h2 ?_ hw
    show (if _ then _ else _) = _
    simp only [differs 0 7 6 0 word h6 rfl, differs 0 7 6 1 word h6 rfl, differs 0 7 6 2 word h6 rfl,
      differs 0 7 6 3 word h6 rfl, differs 0 7 6 4 word h6 rfl, differs 0 7 6 5 word h6 rfl, h3, h4, h5, h6, h7,
      Bool.false_and, Bool.true_and, Bool.and_self, Bool.false_eq_true, if_true, if_false]
  · intro word hw h
    have h_e := flag e
    have h_d := d.isLt
    have h_a := a.isLt
    obtain ⟨h1, h2, h3, h4, h5, h6, h7⟩ :=
      shape2 word 111 931135494 6 0 e d a (by decide) (by decide) rfl
        (number _ word h (by omega))
    refine row word 0 111 _ h1 h2 ?_ hw
    show (if _ then _ else _) = _
    simp only [differs 0 7 6 0 word h6 rfl, differs 0 7 6 1 word h6 rfl, differs 0 7 6 2 word h6 rfl,
      differs 0 7 6 3 word h6 rfl, differs 0 7 6 4 word h6 rfl, differs 0 7 6 5 word h6 rfl, h3, h4, h5, h6, h7,
      Bool.false_and, Bool.true_and, Bool.and_self, Bool.false_eq_true, if_true, if_false]

theorem vftanh (t : FType) (e : Bool) (d a : BitVec 7) : Statement (.vftanh t e d a) := by
  cases t
  · intro word hw h
    have h_e := flag e
    have h_d := d.isLt
    have h_a := a.isLt
    obtain ⟨h1, h2, h3, h4, h5, h6, h7⟩ :=
      shape2 word 108 905969671 7 0 e d a (by decide) (by decide) rfl
        (number _ word h (by omega))
    refine row word 0 108 _ h1 h2 ?_ hw
    show (if _ then _ else _) = _
    simp only [differs 0 7 7 0 word h6 rfl, differs 0 7 7 1 word h6 rfl, differs 0 7 7 2 word h6 rfl,
      differs 0 7 7 3 word h6 rfl, differs 0 7 7 4 word h6 rfl, differs 0 7 7 5 word h6 rfl,
      differs 0 7 7 6 word h6 rfl, h3, h4, h5, h6, h7, Bool.false_and, Bool.true_and, Bool.and_self,
      Bool.false_eq_true, if_true, if_false]
  · intro word hw h
    have h_e := flag e
    have h_d := d.isLt
    have h_a := a.isLt
    obtain ⟨h1, h2, h3, h4, h5, h6, h7⟩ :=
      shape2 word 109 914358279 7 0 e d a (by decide) (by decide) rfl
        (number _ word h (by omega))
    refine row word 0 109 _ h1 h2 ?_ hw
    show (if _ then _ else _) = _
    simp only [differs 0 7 7 0 word h6 rfl, differs 0 7 7 1 word h6 rfl, differs 0 7 7 2 word h6 rfl,
      differs 0 7 7 3 word h6 rfl, differs 0 7 7 4 word h6 rfl, differs 0 7 7 5 word h6 rfl,
      differs 0 7 7 6 word h6 rfl, h3, h4, h5, h6, h7, Bool.false_and, Bool.true_and, Bool.and_self,
      Bool.false_eq_true, if_true, if_false]
  · intro word hw h
    have h_e := flag e
    have h_d := d.isLt
    have h_a := a.isLt
    obtain ⟨h1, h2, h3, h4, h5, h6, h7⟩ :=
      shape2 word 110 922746887 7 0 e d a (by decide) (by decide) rfl
        (number _ word h (by omega))
    refine row word 0 110 _ h1 h2 ?_ hw
    show (if _ then _ else _) = _
    simp only [differs 0 7 7 0 word h6 rfl, differs 0 7 7 1 word h6 rfl, differs 0 7 7 2 word h6 rfl,
      differs 0 7 7 3 word h6 rfl, differs 0 7 7 4 word h6 rfl, differs 0 7 7 5 word h6 rfl,
      differs 0 7 7 6 word h6 rfl, h3, h4, h5, h6, h7, Bool.false_and, Bool.true_and, Bool.and_self,
      Bool.false_eq_true, if_true, if_false]
  · intro word hw h
    have h_e := flag e
    have h_d := d.isLt
    have h_a := a.isLt
    obtain ⟨h1, h2, h3, h4, h5, h6, h7⟩ :=
      shape2 word 111 931135495 7 0 e d a (by decide) (by decide) rfl
        (number _ word h (by omega))
    refine row word 0 111 _ h1 h2 ?_ hw
    show (if _ then _ else _) = _
    simp only [differs 0 7 7 0 word h6 rfl, differs 0 7 7 1 word h6 rfl, differs 0 7 7 2 word h6 rfl,
      differs 0 7 7 3 word h6 rfl, differs 0 7 7 4 word h6 rfl, differs 0 7 7 5 word h6 rfl,
      differs 0 7 7 6 word h6 rfl, h3, h4, h5, h6, h7, Bool.false_and, Bool.true_and, Bool.and_self,
      Bool.false_eq_true, if_true, if_false]

theorem vfabs (t : FType) (e : Bool) (d a : BitVec 7) : Statement (.vfabs t e d a) := by
  cases t
  · intro word hw h
    have h_e := flag e
    have h_d := d.isLt
    have h_a := a.isLt
    obtain ⟨h1, h2, h3, h4, h5, h6, h7⟩ :=
      shape2 word 108 905969672 8 0 e d a (by decide) (by decide) rfl
        (number _ word h (by omega))
    refine row word 0 108 _ h1 h2 ?_ hw
    show (if _ then _ else _) = _
    simp only [differs 0 7 8 0 word h6 rfl, differs 0 7 8 1 word h6 rfl, differs 0 7 8 2 word h6 rfl,
      differs 0 7 8 3 word h6 rfl, differs 0 7 8 4 word h6 rfl, differs 0 7 8 5 word h6 rfl,
      differs 0 7 8 6 word h6 rfl, differs 0 7 8 7 word h6 rfl, h3, h4, h5, h6, h7, Bool.false_and, Bool.true_and,
      Bool.and_self, Bool.false_eq_true, if_true, if_false]
  · intro word hw h
    have h_e := flag e
    have h_d := d.isLt
    have h_a := a.isLt
    obtain ⟨h1, h2, h3, h4, h5, h6, h7⟩ :=
      shape2 word 109 914358280 8 0 e d a (by decide) (by decide) rfl
        (number _ word h (by omega))
    refine row word 0 109 _ h1 h2 ?_ hw
    show (if _ then _ else _) = _
    simp only [differs 0 7 8 0 word h6 rfl, differs 0 7 8 1 word h6 rfl, differs 0 7 8 2 word h6 rfl,
      differs 0 7 8 3 word h6 rfl, differs 0 7 8 4 word h6 rfl, differs 0 7 8 5 word h6 rfl,
      differs 0 7 8 6 word h6 rfl, differs 0 7 8 7 word h6 rfl, h3, h4, h5, h6, h7, Bool.false_and, Bool.true_and,
      Bool.and_self, Bool.false_eq_true, if_true, if_false]
  · intro word hw h
    have h_e := flag e
    have h_d := d.isLt
    have h_a := a.isLt
    obtain ⟨h1, h2, h3, h4, h5, h6, h7⟩ :=
      shape2 word 110 922746888 8 0 e d a (by decide) (by decide) rfl
        (number _ word h (by omega))
    refine row word 0 110 _ h1 h2 ?_ hw
    show (if _ then _ else _) = _
    simp only [differs 0 7 8 0 word h6 rfl, differs 0 7 8 1 word h6 rfl, differs 0 7 8 2 word h6 rfl,
      differs 0 7 8 3 word h6 rfl, differs 0 7 8 4 word h6 rfl, differs 0 7 8 5 word h6 rfl,
      differs 0 7 8 6 word h6 rfl, differs 0 7 8 7 word h6 rfl, h3, h4, h5, h6, h7, Bool.false_and, Bool.true_and,
      Bool.and_self, Bool.false_eq_true, if_true, if_false]
  · intro word hw h
    have h_e := flag e
    have h_d := d.isLt
    have h_a := a.isLt
    obtain ⟨h1, h2, h3, h4, h5, h6, h7⟩ :=
      shape2 word 111 931135496 8 0 e d a (by decide) (by decide) rfl
        (number _ word h (by omega))
    refine row word 0 111 _ h1 h2 ?_ hw
    show (if _ then _ else _) = _
    simp only [differs 0 7 8 0 word h6 rfl, differs 0 7 8 1 word h6 rfl, differs 0 7 8 2 word h6 rfl,
      differs 0 7 8 3 word h6 rfl, differs 0 7 8 4 word h6 rfl, differs 0 7 8 5 word h6 rfl,
      differs 0 7 8 6 word h6 rfl, differs 0 7 8 7 word h6 rfl, h3, h4, h5, h6, h7, Bool.false_and, Bool.true_and,
      Bool.and_self, Bool.false_eq_true, if_true, if_false]

theorem vfneg (t : FType) (e : Bool) (d a : BitVec 7) : Statement (.vfneg t e d a) := by
  cases t
  · intro word hw h
    have h_e := flag e
    have h_d := d.isLt
    have h_a := a.isLt
    obtain ⟨h1, h2, h3, h4, h5, h6, h7⟩ :=
      shape2 word 108 905969673 9 0 e d a (by decide) (by decide) rfl
        (number _ word h (by omega))
    refine row word 0 108 _ h1 h2 ?_ hw
    show (if _ then _ else _) = _
    simp only [differs 0 7 9 0 word h6 rfl, differs 0 7 9 1 word h6 rfl, differs 0 7 9 2 word h6 rfl,
      differs 0 7 9 3 word h6 rfl, differs 0 7 9 4 word h6 rfl, differs 0 7 9 5 word h6 rfl,
      differs 0 7 9 6 word h6 rfl, differs 0 7 9 7 word h6 rfl, differs 0 7 9 8 word h6 rfl, h3, h4, h5, h6, h7,
      Bool.false_and, Bool.true_and, Bool.and_self, Bool.false_eq_true, if_true, if_false]
  · intro word hw h
    have h_e := flag e
    have h_d := d.isLt
    have h_a := a.isLt
    obtain ⟨h1, h2, h3, h4, h5, h6, h7⟩ :=
      shape2 word 109 914358281 9 0 e d a (by decide) (by decide) rfl
        (number _ word h (by omega))
    refine row word 0 109 _ h1 h2 ?_ hw
    show (if _ then _ else _) = _
    simp only [differs 0 7 9 0 word h6 rfl, differs 0 7 9 1 word h6 rfl, differs 0 7 9 2 word h6 rfl,
      differs 0 7 9 3 word h6 rfl, differs 0 7 9 4 word h6 rfl, differs 0 7 9 5 word h6 rfl,
      differs 0 7 9 6 word h6 rfl, differs 0 7 9 7 word h6 rfl, differs 0 7 9 8 word h6 rfl, h3, h4, h5, h6, h7,
      Bool.false_and, Bool.true_and, Bool.and_self, Bool.false_eq_true, if_true, if_false]
  · intro word hw h
    have h_e := flag e
    have h_d := d.isLt
    have h_a := a.isLt
    obtain ⟨h1, h2, h3, h4, h5, h6, h7⟩ :=
      shape2 word 110 922746889 9 0 e d a (by decide) (by decide) rfl
        (number _ word h (by omega))
    refine row word 0 110 _ h1 h2 ?_ hw
    show (if _ then _ else _) = _
    simp only [differs 0 7 9 0 word h6 rfl, differs 0 7 9 1 word h6 rfl, differs 0 7 9 2 word h6 rfl,
      differs 0 7 9 3 word h6 rfl, differs 0 7 9 4 word h6 rfl, differs 0 7 9 5 word h6 rfl,
      differs 0 7 9 6 word h6 rfl, differs 0 7 9 7 word h6 rfl, differs 0 7 9 8 word h6 rfl, h3, h4, h5, h6, h7,
      Bool.false_and, Bool.true_and, Bool.and_self, Bool.false_eq_true, if_true, if_false]
  · intro word hw h
    have h_e := flag e
    have h_d := d.isLt
    have h_a := a.isLt
    obtain ⟨h1, h2, h3, h4, h5, h6, h7⟩ :=
      shape2 word 111 931135497 9 0 e d a (by decide) (by decide) rfl
        (number _ word h (by omega))
    refine row word 0 111 _ h1 h2 ?_ hw
    show (if _ then _ else _) = _
    simp only [differs 0 7 9 0 word h6 rfl, differs 0 7 9 1 word h6 rfl, differs 0 7 9 2 word h6 rfl,
      differs 0 7 9 3 word h6 rfl, differs 0 7 9 4 word h6 rfl, differs 0 7 9 5 word h6 rfl,
      differs 0 7 9 6 word h6 rfl, differs 0 7 9 7 word h6 rfl, differs 0 7 9 8 word h6 rfl, h3, h4, h5, h6, h7,
      Bool.false_and, Bool.true_and, Bool.and_self, Bool.false_eq_true, if_true, if_false]

theorem vffloor (t : FType) (e : Bool) (d a : BitVec 7) : Statement (.vffloor t e d a) := by
  cases t
  · intro word hw h
    have h_e := flag e
    have h_d := d.isLt
    have h_a := a.isLt
    obtain ⟨h1, h2, h3, h4, h5, h6, h7⟩ :=
      shape2 word 108 905969674 10 0 e d a (by decide) (by decide) rfl
        (number _ word h (by omega))
    refine row word 0 108 _ h1 h2 ?_ hw
    show (if _ then _ else _) = _
    simp only [differs 0 7 10 0 word h6 rfl, differs 0 7 10 1 word h6 rfl, differs 0 7 10 2 word h6 rfl,
      differs 0 7 10 3 word h6 rfl, differs 0 7 10 4 word h6 rfl, differs 0 7 10 5 word h6 rfl,
      differs 0 7 10 6 word h6 rfl, differs 0 7 10 7 word h6 rfl, differs 0 7 10 8 word h6 rfl,
      differs 0 7 10 9 word h6 rfl, h3, h4, h5, h6, h7, Bool.false_and, Bool.true_and, Bool.and_self,
      Bool.false_eq_true, if_true, if_false]
  · intro word hw h
    have h_e := flag e
    have h_d := d.isLt
    have h_a := a.isLt
    obtain ⟨h1, h2, h3, h4, h5, h6, h7⟩ :=
      shape2 word 109 914358282 10 0 e d a (by decide) (by decide) rfl
        (number _ word h (by omega))
    refine row word 0 109 _ h1 h2 ?_ hw
    show (if _ then _ else _) = _
    simp only [differs 0 7 10 0 word h6 rfl, differs 0 7 10 1 word h6 rfl, differs 0 7 10 2 word h6 rfl,
      differs 0 7 10 3 word h6 rfl, differs 0 7 10 4 word h6 rfl, differs 0 7 10 5 word h6 rfl,
      differs 0 7 10 6 word h6 rfl, differs 0 7 10 7 word h6 rfl, differs 0 7 10 8 word h6 rfl,
      differs 0 7 10 9 word h6 rfl, h3, h4, h5, h6, h7, Bool.false_and, Bool.true_and, Bool.and_self,
      Bool.false_eq_true, if_true, if_false]
  · intro word hw h
    have h_e := flag e
    have h_d := d.isLt
    have h_a := a.isLt
    obtain ⟨h1, h2, h3, h4, h5, h6, h7⟩ :=
      shape2 word 110 922746890 10 0 e d a (by decide) (by decide) rfl
        (number _ word h (by omega))
    refine row word 0 110 _ h1 h2 ?_ hw
    show (if _ then _ else _) = _
    simp only [differs 0 7 10 0 word h6 rfl, differs 0 7 10 1 word h6 rfl, differs 0 7 10 2 word h6 rfl,
      differs 0 7 10 3 word h6 rfl, differs 0 7 10 4 word h6 rfl, differs 0 7 10 5 word h6 rfl,
      differs 0 7 10 6 word h6 rfl, differs 0 7 10 7 word h6 rfl, differs 0 7 10 8 word h6 rfl,
      differs 0 7 10 9 word h6 rfl, h3, h4, h5, h6, h7, Bool.false_and, Bool.true_and, Bool.and_self,
      Bool.false_eq_true, if_true, if_false]
  · intro word hw h
    have h_e := flag e
    have h_d := d.isLt
    have h_a := a.isLt
    obtain ⟨h1, h2, h3, h4, h5, h6, h7⟩ :=
      shape2 word 111 931135498 10 0 e d a (by decide) (by decide) rfl
        (number _ word h (by omega))
    refine row word 0 111 _ h1 h2 ?_ hw
    show (if _ then _ else _) = _
    simp only [differs 0 7 10 0 word h6 rfl, differs 0 7 10 1 word h6 rfl, differs 0 7 10 2 word h6 rfl,
      differs 0 7 10 3 word h6 rfl, differs 0 7 10 4 word h6 rfl, differs 0 7 10 5 word h6 rfl,
      differs 0 7 10 6 word h6 rfl, differs 0 7 10 7 word h6 rfl, differs 0 7 10 8 word h6 rfl,
      differs 0 7 10 9 word h6 rfl, h3, h4, h5, h6, h7, Bool.false_and, Bool.true_and, Bool.and_self,
      Bool.false_eq_true, if_true, if_false]

theorem vfceil (t : FType) (e : Bool) (d a : BitVec 7) : Statement (.vfceil t e d a) := by
  cases t
  · intro word hw h
    have h_e := flag e
    have h_d := d.isLt
    have h_a := a.isLt
    obtain ⟨h1, h2, h3, h4, h5, h6, h7⟩ :=
      shape2 word 108 905969675 11 0 e d a (by decide) (by decide) rfl
        (number _ word h (by omega))
    refine row word 0 108 _ h1 h2 ?_ hw
    show (if _ then _ else _) = _
    simp only [differs 0 7 11 0 word h6 rfl, differs 0 7 11 1 word h6 rfl, differs 0 7 11 2 word h6 rfl,
      differs 0 7 11 3 word h6 rfl, differs 0 7 11 4 word h6 rfl, differs 0 7 11 5 word h6 rfl,
      differs 0 7 11 6 word h6 rfl, differs 0 7 11 7 word h6 rfl, differs 0 7 11 8 word h6 rfl,
      differs 0 7 11 9 word h6 rfl, differs 0 7 11 10 word h6 rfl, h3, h4, h5, h6, h7, Bool.false_and, Bool.true_and,
      Bool.and_self, Bool.false_eq_true, if_true, if_false]
  · intro word hw h
    have h_e := flag e
    have h_d := d.isLt
    have h_a := a.isLt
    obtain ⟨h1, h2, h3, h4, h5, h6, h7⟩ :=
      shape2 word 109 914358283 11 0 e d a (by decide) (by decide) rfl
        (number _ word h (by omega))
    refine row word 0 109 _ h1 h2 ?_ hw
    show (if _ then _ else _) = _
    simp only [differs 0 7 11 0 word h6 rfl, differs 0 7 11 1 word h6 rfl, differs 0 7 11 2 word h6 rfl,
      differs 0 7 11 3 word h6 rfl, differs 0 7 11 4 word h6 rfl, differs 0 7 11 5 word h6 rfl,
      differs 0 7 11 6 word h6 rfl, differs 0 7 11 7 word h6 rfl, differs 0 7 11 8 word h6 rfl,
      differs 0 7 11 9 word h6 rfl, differs 0 7 11 10 word h6 rfl, h3, h4, h5, h6, h7, Bool.false_and, Bool.true_and,
      Bool.and_self, Bool.false_eq_true, if_true, if_false]
  · intro word hw h
    have h_e := flag e
    have h_d := d.isLt
    have h_a := a.isLt
    obtain ⟨h1, h2, h3, h4, h5, h6, h7⟩ :=
      shape2 word 110 922746891 11 0 e d a (by decide) (by decide) rfl
        (number _ word h (by omega))
    refine row word 0 110 _ h1 h2 ?_ hw
    show (if _ then _ else _) = _
    simp only [differs 0 7 11 0 word h6 rfl, differs 0 7 11 1 word h6 rfl, differs 0 7 11 2 word h6 rfl,
      differs 0 7 11 3 word h6 rfl, differs 0 7 11 4 word h6 rfl, differs 0 7 11 5 word h6 rfl,
      differs 0 7 11 6 word h6 rfl, differs 0 7 11 7 word h6 rfl, differs 0 7 11 8 word h6 rfl,
      differs 0 7 11 9 word h6 rfl, differs 0 7 11 10 word h6 rfl, h3, h4, h5, h6, h7, Bool.false_and, Bool.true_and,
      Bool.and_self, Bool.false_eq_true, if_true, if_false]
  · intro word hw h
    have h_e := flag e
    have h_d := d.isLt
    have h_a := a.isLt
    obtain ⟨h1, h2, h3, h4, h5, h6, h7⟩ :=
      shape2 word 111 931135499 11 0 e d a (by decide) (by decide) rfl
        (number _ word h (by omega))
    refine row word 0 111 _ h1 h2 ?_ hw
    show (if _ then _ else _) = _
    simp only [differs 0 7 11 0 word h6 rfl, differs 0 7 11 1 word h6 rfl, differs 0 7 11 2 word h6 rfl,
      differs 0 7 11 3 word h6 rfl, differs 0 7 11 4 word h6 rfl, differs 0 7 11 5 word h6 rfl,
      differs 0 7 11 6 word h6 rfl, differs 0 7 11 7 word h6 rfl, differs 0 7 11 8 word h6 rfl,
      differs 0 7 11 9 word h6 rfl, differs 0 7 11 10 word h6 rfl, h3, h4, h5, h6, h7, Bool.false_and, Bool.true_and,
      Bool.and_self, Bool.false_eq_true, if_true, if_false]

theorem vftrunc (t : FType) (e : Bool) (d a : BitVec 7) : Statement (.vftrunc t e d a) := by
  cases t
  · intro word hw h
    have h_e := flag e
    have h_d := d.isLt
    have h_a := a.isLt
    obtain ⟨h1, h2, h3, h4, h5, h6, h7⟩ :=
      shape2 word 108 905969676 12 0 e d a (by decide) (by decide) rfl
        (number _ word h (by omega))
    refine row word 0 108 _ h1 h2 ?_ hw
    show (if _ then _ else _) = _
    simp only [differs 0 7 12 0 word h6 rfl, differs 0 7 12 1 word h6 rfl, differs 0 7 12 2 word h6 rfl,
      differs 0 7 12 3 word h6 rfl, differs 0 7 12 4 word h6 rfl, differs 0 7 12 5 word h6 rfl,
      differs 0 7 12 6 word h6 rfl, differs 0 7 12 7 word h6 rfl, differs 0 7 12 8 word h6 rfl,
      differs 0 7 12 9 word h6 rfl, differs 0 7 12 10 word h6 rfl, differs 0 7 12 11 word h6 rfl, h3, h4, h5, h6, h7,
      Bool.false_and, Bool.true_and, Bool.and_self, Bool.false_eq_true, if_true, if_false]
  · intro word hw h
    have h_e := flag e
    have h_d := d.isLt
    have h_a := a.isLt
    obtain ⟨h1, h2, h3, h4, h5, h6, h7⟩ :=
      shape2 word 109 914358284 12 0 e d a (by decide) (by decide) rfl
        (number _ word h (by omega))
    refine row word 0 109 _ h1 h2 ?_ hw
    show (if _ then _ else _) = _
    simp only [differs 0 7 12 0 word h6 rfl, differs 0 7 12 1 word h6 rfl, differs 0 7 12 2 word h6 rfl,
      differs 0 7 12 3 word h6 rfl, differs 0 7 12 4 word h6 rfl, differs 0 7 12 5 word h6 rfl,
      differs 0 7 12 6 word h6 rfl, differs 0 7 12 7 word h6 rfl, differs 0 7 12 8 word h6 rfl,
      differs 0 7 12 9 word h6 rfl, differs 0 7 12 10 word h6 rfl, differs 0 7 12 11 word h6 rfl, h3, h4, h5, h6, h7,
      Bool.false_and, Bool.true_and, Bool.and_self, Bool.false_eq_true, if_true, if_false]
  · intro word hw h
    have h_e := flag e
    have h_d := d.isLt
    have h_a := a.isLt
    obtain ⟨h1, h2, h3, h4, h5, h6, h7⟩ :=
      shape2 word 110 922746892 12 0 e d a (by decide) (by decide) rfl
        (number _ word h (by omega))
    refine row word 0 110 _ h1 h2 ?_ hw
    show (if _ then _ else _) = _
    simp only [differs 0 7 12 0 word h6 rfl, differs 0 7 12 1 word h6 rfl, differs 0 7 12 2 word h6 rfl,
      differs 0 7 12 3 word h6 rfl, differs 0 7 12 4 word h6 rfl, differs 0 7 12 5 word h6 rfl,
      differs 0 7 12 6 word h6 rfl, differs 0 7 12 7 word h6 rfl, differs 0 7 12 8 word h6 rfl,
      differs 0 7 12 9 word h6 rfl, differs 0 7 12 10 word h6 rfl, differs 0 7 12 11 word h6 rfl, h3, h4, h5, h6, h7,
      Bool.false_and, Bool.true_and, Bool.and_self, Bool.false_eq_true, if_true, if_false]
  · intro word hw h
    have h_e := flag e
    have h_d := d.isLt
    have h_a := a.isLt
    obtain ⟨h1, h2, h3, h4, h5, h6, h7⟩ :=
      shape2 word 111 931135500 12 0 e d a (by decide) (by decide) rfl
        (number _ word h (by omega))
    refine row word 0 111 _ h1 h2 ?_ hw
    show (if _ then _ else _) = _
    simp only [differs 0 7 12 0 word h6 rfl, differs 0 7 12 1 word h6 rfl, differs 0 7 12 2 word h6 rfl,
      differs 0 7 12 3 word h6 rfl, differs 0 7 12 4 word h6 rfl, differs 0 7 12 5 word h6 rfl,
      differs 0 7 12 6 word h6 rfl, differs 0 7 12 7 word h6 rfl, differs 0 7 12 8 word h6 rfl,
      differs 0 7 12 9 word h6 rfl, differs 0 7 12 10 word h6 rfl, differs 0 7 12 11 word h6 rfl, h3, h4, h5, h6, h7,
      Bool.false_and, Bool.true_and, Bool.and_self, Bool.false_eq_true, if_true, if_false]

theorem vfrne (t : FType) (e : Bool) (d a : BitVec 7) : Statement (.vfrne t e d a) := by
  cases t
  · intro word hw h
    have h_e := flag e
    have h_d := d.isLt
    have h_a := a.isLt
    obtain ⟨h1, h2, h3, h4, h5, h6, h7⟩ :=
      shape2 word 108 905969677 13 0 e d a (by decide) (by decide) rfl
        (number _ word h (by omega))
    refine row word 0 108 _ h1 h2 ?_ hw
    show (if _ then _ else _) = _
    simp only [differs 0 7 13 0 word h6 rfl, differs 0 7 13 1 word h6 rfl, differs 0 7 13 2 word h6 rfl,
      differs 0 7 13 3 word h6 rfl, differs 0 7 13 4 word h6 rfl, differs 0 7 13 5 word h6 rfl,
      differs 0 7 13 6 word h6 rfl, differs 0 7 13 7 word h6 rfl, differs 0 7 13 8 word h6 rfl,
      differs 0 7 13 9 word h6 rfl, differs 0 7 13 10 word h6 rfl, differs 0 7 13 11 word h6 rfl,
      differs 0 7 13 12 word h6 rfl, h3, h4, h5, h6, h7, Bool.false_and, Bool.true_and, Bool.and_self,
      Bool.false_eq_true, if_true, if_false]
  · intro word hw h
    have h_e := flag e
    have h_d := d.isLt
    have h_a := a.isLt
    obtain ⟨h1, h2, h3, h4, h5, h6, h7⟩ :=
      shape2 word 109 914358285 13 0 e d a (by decide) (by decide) rfl
        (number _ word h (by omega))
    refine row word 0 109 _ h1 h2 ?_ hw
    show (if _ then _ else _) = _
    simp only [differs 0 7 13 0 word h6 rfl, differs 0 7 13 1 word h6 rfl, differs 0 7 13 2 word h6 rfl,
      differs 0 7 13 3 word h6 rfl, differs 0 7 13 4 word h6 rfl, differs 0 7 13 5 word h6 rfl,
      differs 0 7 13 6 word h6 rfl, differs 0 7 13 7 word h6 rfl, differs 0 7 13 8 word h6 rfl,
      differs 0 7 13 9 word h6 rfl, differs 0 7 13 10 word h6 rfl, differs 0 7 13 11 word h6 rfl,
      differs 0 7 13 12 word h6 rfl, h3, h4, h5, h6, h7, Bool.false_and, Bool.true_and, Bool.and_self,
      Bool.false_eq_true, if_true, if_false]
  · intro word hw h
    have h_e := flag e
    have h_d := d.isLt
    have h_a := a.isLt
    obtain ⟨h1, h2, h3, h4, h5, h6, h7⟩ :=
      shape2 word 110 922746893 13 0 e d a (by decide) (by decide) rfl
        (number _ word h (by omega))
    refine row word 0 110 _ h1 h2 ?_ hw
    show (if _ then _ else _) = _
    simp only [differs 0 7 13 0 word h6 rfl, differs 0 7 13 1 word h6 rfl, differs 0 7 13 2 word h6 rfl,
      differs 0 7 13 3 word h6 rfl, differs 0 7 13 4 word h6 rfl, differs 0 7 13 5 word h6 rfl,
      differs 0 7 13 6 word h6 rfl, differs 0 7 13 7 word h6 rfl, differs 0 7 13 8 word h6 rfl,
      differs 0 7 13 9 word h6 rfl, differs 0 7 13 10 word h6 rfl, differs 0 7 13 11 word h6 rfl,
      differs 0 7 13 12 word h6 rfl, h3, h4, h5, h6, h7, Bool.false_and, Bool.true_and, Bool.and_self,
      Bool.false_eq_true, if_true, if_false]
  · intro word hw h
    have h_e := flag e
    have h_d := d.isLt
    have h_a := a.isLt
    obtain ⟨h1, h2, h3, h4, h5, h6, h7⟩ :=
      shape2 word 111 931135501 13 0 e d a (by decide) (by decide) rfl
        (number _ word h (by omega))
    refine row word 0 111 _ h1 h2 ?_ hw
    show (if _ then _ else _) = _
    simp only [differs 0 7 13 0 word h6 rfl, differs 0 7 13 1 word h6 rfl, differs 0 7 13 2 word h6 rfl,
      differs 0 7 13 3 word h6 rfl, differs 0 7 13 4 word h6 rfl, differs 0 7 13 5 word h6 rfl,
      differs 0 7 13 6 word h6 rfl, differs 0 7 13 7 word h6 rfl, differs 0 7 13 8 word h6 rfl,
      differs 0 7 13 9 word h6 rfl, differs 0 7 13 10 word h6 rfl, differs 0 7 13 11 word h6 rfl,
      differs 0 7 13 12 word h6 rfl, h3, h4, h5, h6, h7, Bool.false_and, Bool.true_and, Bool.and_self,
      Bool.false_eq_true, if_true, if_false]

theorem vffrac (t : FType) (e : Bool) (d a : BitVec 7) : Statement (.vffrac t e d a) := by
  cases t
  · intro word hw h
    have h_e := flag e
    have h_d := d.isLt
    have h_a := a.isLt
    obtain ⟨h1, h2, h3, h4, h5, h6, h7⟩ :=
      shape2 word 108 905969678 14 0 e d a (by decide) (by decide) rfl
        (number _ word h (by omega))
    refine row word 0 108 _ h1 h2 ?_ hw
    show (if _ then _ else _) = _
    simp only [differs 0 7 14 0 word h6 rfl, differs 0 7 14 1 word h6 rfl, differs 0 7 14 2 word h6 rfl,
      differs 0 7 14 3 word h6 rfl, differs 0 7 14 4 word h6 rfl, differs 0 7 14 5 word h6 rfl,
      differs 0 7 14 6 word h6 rfl, differs 0 7 14 7 word h6 rfl, differs 0 7 14 8 word h6 rfl,
      differs 0 7 14 9 word h6 rfl, differs 0 7 14 10 word h6 rfl, differs 0 7 14 11 word h6 rfl,
      differs 0 7 14 12 word h6 rfl, differs 0 7 14 13 word h6 rfl, h3, h4, h5, h6, h7, Bool.false_and,
      Bool.true_and, Bool.and_self, Bool.false_eq_true, if_true, if_false]
  · intro word hw h
    have h_e := flag e
    have h_d := d.isLt
    have h_a := a.isLt
    obtain ⟨h1, h2, h3, h4, h5, h6, h7⟩ :=
      shape2 word 109 914358286 14 0 e d a (by decide) (by decide) rfl
        (number _ word h (by omega))
    refine row word 0 109 _ h1 h2 ?_ hw
    show (if _ then _ else _) = _
    simp only [differs 0 7 14 0 word h6 rfl, differs 0 7 14 1 word h6 rfl, differs 0 7 14 2 word h6 rfl,
      differs 0 7 14 3 word h6 rfl, differs 0 7 14 4 word h6 rfl, differs 0 7 14 5 word h6 rfl,
      differs 0 7 14 6 word h6 rfl, differs 0 7 14 7 word h6 rfl, differs 0 7 14 8 word h6 rfl,
      differs 0 7 14 9 word h6 rfl, differs 0 7 14 10 word h6 rfl, differs 0 7 14 11 word h6 rfl,
      differs 0 7 14 12 word h6 rfl, differs 0 7 14 13 word h6 rfl, h3, h4, h5, h6, h7, Bool.false_and,
      Bool.true_and, Bool.and_self, Bool.false_eq_true, if_true, if_false]
  · intro word hw h
    have h_e := flag e
    have h_d := d.isLt
    have h_a := a.isLt
    obtain ⟨h1, h2, h3, h4, h5, h6, h7⟩ :=
      shape2 word 110 922746894 14 0 e d a (by decide) (by decide) rfl
        (number _ word h (by omega))
    refine row word 0 110 _ h1 h2 ?_ hw
    show (if _ then _ else _) = _
    simp only [differs 0 7 14 0 word h6 rfl, differs 0 7 14 1 word h6 rfl, differs 0 7 14 2 word h6 rfl,
      differs 0 7 14 3 word h6 rfl, differs 0 7 14 4 word h6 rfl, differs 0 7 14 5 word h6 rfl,
      differs 0 7 14 6 word h6 rfl, differs 0 7 14 7 word h6 rfl, differs 0 7 14 8 word h6 rfl,
      differs 0 7 14 9 word h6 rfl, differs 0 7 14 10 word h6 rfl, differs 0 7 14 11 word h6 rfl,
      differs 0 7 14 12 word h6 rfl, differs 0 7 14 13 word h6 rfl, h3, h4, h5, h6, h7, Bool.false_and,
      Bool.true_and, Bool.and_self, Bool.false_eq_true, if_true, if_false]
  · intro word hw h
    have h_e := flag e
    have h_d := d.isLt
    have h_a := a.isLt
    obtain ⟨h1, h2, h3, h4, h5, h6, h7⟩ :=
      shape2 word 111 931135502 14 0 e d a (by decide) (by decide) rfl
        (number _ word h (by omega))
    refine row word 0 111 _ h1 h2 ?_ hw
    show (if _ then _ else _) = _
    simp only [differs 0 7 14 0 word h6 rfl, differs 0 7 14 1 word h6 rfl, differs 0 7 14 2 word h6 rfl,
      differs 0 7 14 3 word h6 rfl, differs 0 7 14 4 word h6 rfl, differs 0 7 14 5 word h6 rfl,
      differs 0 7 14 6 word h6 rfl, differs 0 7 14 7 word h6 rfl, differs 0 7 14 8 word h6 rfl,
      differs 0 7 14 9 word h6 rfl, differs 0 7 14 10 word h6 rfl, differs 0 7 14 11 word h6 rfl,
      differs 0 7 14 12 word h6 rfl, differs 0 7 14 13 word h6 rfl, h3, h4, h5, h6, h7, Bool.false_and,
      Bool.true_and, Bool.and_self, Bool.false_eq_true, if_true, if_false]

theorem vfclass (t : FType) (e : Bool) (d a : BitVec 7) : Statement (.vfclass t e d a) := by
  cases t
  · intro word hw h
    have h_e := flag e
    have h_d := d.isLt
    have h_a := a.isLt
    obtain ⟨h1, h2, h3, h4, h5, h6, h7⟩ :=
      shape2 word 108 905969679 15 0 e d a (by decide) (by decide) rfl
        (number _ word h (by omega))
    refine row word 0 108 _ h1 h2 ?_ hw
    show (if _ then _ else _) = _
    simp only [differs 0 7 15 0 word h6 rfl, differs 0 7 15 1 word h6 rfl, differs 0 7 15 2 word h6 rfl,
      differs 0 7 15 3 word h6 rfl, differs 0 7 15 4 word h6 rfl, differs 0 7 15 5 word h6 rfl,
      differs 0 7 15 6 word h6 rfl, differs 0 7 15 7 word h6 rfl, differs 0 7 15 8 word h6 rfl,
      differs 0 7 15 9 word h6 rfl, differs 0 7 15 10 word h6 rfl, differs 0 7 15 11 word h6 rfl,
      differs 0 7 15 12 word h6 rfl, differs 0 7 15 13 word h6 rfl, differs 0 7 15 14 word h6 rfl, h3, h4, h5, h6,
      h7, Bool.false_and, Bool.true_and, Bool.and_self, Bool.false_eq_true, if_true, if_false]
  · intro word hw h
    have h_e := flag e
    have h_d := d.isLt
    have h_a := a.isLt
    obtain ⟨h1, h2, h3, h4, h5, h6, h7⟩ :=
      shape2 word 109 914358287 15 0 e d a (by decide) (by decide) rfl
        (number _ word h (by omega))
    refine row word 0 109 _ h1 h2 ?_ hw
    show (if _ then _ else _) = _
    simp only [differs 0 7 15 0 word h6 rfl, differs 0 7 15 1 word h6 rfl, differs 0 7 15 2 word h6 rfl,
      differs 0 7 15 3 word h6 rfl, differs 0 7 15 4 word h6 rfl, differs 0 7 15 5 word h6 rfl,
      differs 0 7 15 6 word h6 rfl, differs 0 7 15 7 word h6 rfl, differs 0 7 15 8 word h6 rfl,
      differs 0 7 15 9 word h6 rfl, differs 0 7 15 10 word h6 rfl, differs 0 7 15 11 word h6 rfl,
      differs 0 7 15 12 word h6 rfl, differs 0 7 15 13 word h6 rfl, differs 0 7 15 14 word h6 rfl, h3, h4, h5, h6,
      h7, Bool.false_and, Bool.true_and, Bool.and_self, Bool.false_eq_true, if_true, if_false]
  · intro word hw h
    have h_e := flag e
    have h_d := d.isLt
    have h_a := a.isLt
    obtain ⟨h1, h2, h3, h4, h5, h6, h7⟩ :=
      shape2 word 110 922746895 15 0 e d a (by decide) (by decide) rfl
        (number _ word h (by omega))
    refine row word 0 110 _ h1 h2 ?_ hw
    show (if _ then _ else _) = _
    simp only [differs 0 7 15 0 word h6 rfl, differs 0 7 15 1 word h6 rfl, differs 0 7 15 2 word h6 rfl,
      differs 0 7 15 3 word h6 rfl, differs 0 7 15 4 word h6 rfl, differs 0 7 15 5 word h6 rfl,
      differs 0 7 15 6 word h6 rfl, differs 0 7 15 7 word h6 rfl, differs 0 7 15 8 word h6 rfl,
      differs 0 7 15 9 word h6 rfl, differs 0 7 15 10 word h6 rfl, differs 0 7 15 11 word h6 rfl,
      differs 0 7 15 12 word h6 rfl, differs 0 7 15 13 word h6 rfl, differs 0 7 15 14 word h6 rfl, h3, h4, h5, h6,
      h7, Bool.false_and, Bool.true_and, Bool.and_self, Bool.false_eq_true, if_true, if_false]
  · intro word hw h
    have h_e := flag e
    have h_d := d.isLt
    have h_a := a.isLt
    obtain ⟨h1, h2, h3, h4, h5, h6, h7⟩ :=
      shape2 word 111 931135503 15 0 e d a (by decide) (by decide) rfl
        (number _ word h (by omega))
    refine row word 0 111 _ h1 h2 ?_ hw
    show (if _ then _ else _) = _
    simp only [differs 0 7 15 0 word h6 rfl, differs 0 7 15 1 word h6 rfl, differs 0 7 15 2 word h6 rfl,
      differs 0 7 15 3 word h6 rfl, differs 0 7 15 4 word h6 rfl, differs 0 7 15 5 word h6 rfl,
      differs 0 7 15 6 word h6 rfl, differs 0 7 15 7 word h6 rfl, differs 0 7 15 8 word h6 rfl,
      differs 0 7 15 9 word h6 rfl, differs 0 7 15 10 word h6 rfl, differs 0 7 15 11 word h6 rfl,
      differs 0 7 15 12 word h6 rfl, differs 0 7 15 13 word h6 rfl, differs 0 7 15 14 word h6 rfl, h3, h4, h5, h6,
      h7, Bool.false_and, Bool.true_and, Bool.and_self, Bool.false_eq_true, if_true, if_false]

theorem shape4 (word : BitVec 32) (k base v0 : Nat)
    (f0 : Bool)
    (f1 : BitVec 7)
    (f2 : BitVec 7)
    (f3 : BitVec 7)
    (b0 : v0 < 2)
    (hb : base = k * 8388608 + v0 * 2097152)
    (hn : word.toNat = base + f0.toNat * 4194304 + f1.toNat * 16384 + f2.toNat * 128 + f3.toNat) :
    word.toNat / 1073741824 = k / 128 ∧
    word.toNat / 8388608 % 128 = k % 128 ∧
    bitAt 22 word = f0 ∧
    bitsAt 14 7 word = f1 ∧
    bitsAt 7 7 word = f2 ∧
    bitsAt 0 7 word = f3 ∧
    fix 21 1 v0 word = true := by
  have h_f0 := flag f0
  have h_f1 := f1.isLt
  have h_f2 := f2.isLt
  have h_f3 := f3.isLt
  exact ⟨by omega,
    by omega,
    bit 22 word f0 (by omega),
    bits 14 7 word f1 (by omega),
    bits 7 7 word f2 (by omega),
    bits 0 7 word f3 (by omega),
    fixed 21 1 v0 word (by omega)⟩

theorem vcvt (e : Bool) (d a c : BitVec 7) : Statement (.vcvt e d a c) := by
  intro word hw h
  have h_e := flag e
  have h_d := d.isLt
  have h_a := a.isLt
  have h_c := c.isLt
  obtain ⟨h1, h2, h3, h4, h5, h6, h7⟩ :=
    shape4 word 112 939524096 0 e d a c (by decide) rfl
      (number _ word h (by omega))
  refine row word 0 112 _ h1 h2 ?_ hw
  show take _ _ = _
  unfold take
  rw [h7, h3, h4, h5, h6]
  rfl

theorem vcvts (e : Bool) (d a c : BitVec 7) : Statement (.vcvts e d a c) := by
  intro word hw h
  have h_e := flag e
  have h_d := d.isLt
  have h_a := a.isLt
  have h_c := c.isLt
  obtain ⟨h1, h2, h3, h4, h5, h6, h7⟩ :=
    shape4 word 113 947912704 0 e d a c (by decide) rfl
      (number _ word h (by omega))
  refine row word 0 113 _ h1 h2 ?_ hw
  show take _ _ = _
  unfold take
  rw [h7, h3, h4, h5, h6]
  rfl

theorem vpackF16 (e g : Bool) (d a b : BitVec 7) : Statement (.vpackF16 e g d a b) := by
  intro word hw h
  have h_e := flag e
  have h_g := flag g
  have h_d := d.isLt
  have h_a := a.isLt
  have h_b := b.isLt
  obtain ⟨h1, h2, h3, h4, h5, h6, h7⟩ :=
    shape1 word 114 956301312 e g d a b rfl
      (number _ word h (by omega))
  refine row word 0 114 _ h1 h2 ?_ hw
  show Except.ok _ = _
  rw [h3, h4, h5, h6, h7]

theorem vpackBf16 (e g : Bool) (d a b : BitVec 7) : Statement (.vpackBf16 e g d a b) := by
  intro word hw h
  have h_e := flag e
  have h_g := flag g
  have h_d := d.isLt
  have h_a := a.isLt
  have h_b := b.isLt
  obtain ⟨h1, h2, h3, h4, h5, h6, h7⟩ :=
    shape1 word 115 964689920 e g d a b rfl
      (number _ word h (by omega))
  refine row word 0 115 _ h1 h2 ?_ hw
  show Except.ok _ = _
  rw [h3, h4, h5, h6, h7]

theorem vfscaleF32 (e g : Bool) (d a b : BitVec 7) : Statement (.vfscaleF32 e g d a b) := by
  intro word hw h
  have h_e := flag e
  have h_g := flag g
  have h_d := d.isLt
  have h_a := a.isLt
  have h_b := b.isLt
  obtain ⟨h1, h2, h3, h4, h5, h6, h7⟩ :=
    shape1 word 116 973078528 e g d a b rfl
      (number _ word h (by omega))
  refine row word 0 116 _ h1 h2 ?_ hw
  show Except.ok _ = _
  rw [h3, h4, h5, h6, h7]

theorem vfscaleF64 (e g : Bool) (d a b : BitVec 7) : Statement (.vfscaleF64 e g d a b) := by
  intro word hw h
  have h_e := flag e
  have h_g := flag g
  have h_d := d.isLt
  have h_a := a.isLt
  have h_b := b.isLt
  obtain ⟨h1, h2, h3, h4, h5, h6, h7⟩ :=
    shape1 word 117 981467136 e g d a b rfl
      (number _ word h (by omega))
  refine row word 0 117 _ h1 h2 ?_ hw
  show Except.ok _ = _
  rw [h3, h4, h5, h6, h7]

theorem vfdot2F16 (e g : Bool) (d a b : BitVec 7) : Statement (.vfdot2F16 e g d a b) := by
  intro word hw h
  have h_e := flag e
  have h_g := flag g
  have h_d := d.isLt
  have h_a := a.isLt
  have h_b := b.isLt
  obtain ⟨h1, h2, h3, h4, h5, h6, h7⟩ :=
    shape1 word 118 989855744 e g d a b rfl
      (number _ word h (by omega))
  refine row word 0 118 _ h1 h2 ?_ hw
  show Except.ok _ = _
  rw [h3, h4, h5, h6, h7]

theorem vfdot2Bf16 (e g : Bool) (d a b : BitVec 7) : Statement (.vfdot2Bf16 e g d a b) := by
  intro word hw h
  have h_e := flag e
  have h_g := flag g
  have h_d := d.isLt
  have h_a := a.isLt
  have h_b := b.isLt
  obtain ⟨h1, h2, h3, h4, h5, h6, h7⟩ :=
    shape1 word 119 998244352 e g d a b rfl
      (number _ word h (by omega))
  refine row word 0 119 _ h1 h2 ?_ hw
  show Except.ok _ = _
  rw [h3, h4, h5, h6, h7]

theorem sadd (e g : Bool) (d a b : BitVec 7) : Statement (.sadd e g d a b) := by
  intro word hw h
  have h_e := flag e
  have h_g := flag g
  have h_d := d.isLt
  have h_a := a.isLt
  have h_b := b.isLt
  obtain ⟨h1, h2, h3, h4, h5, h6, h7⟩ :=
    shape1 word 128 1073741824 e g d a b rfl
      (number _ word h (by omega))
  refine row word 1 0 _ h1 h2 ?_ hw
  show Except.ok _ = _
  rw [h3, h4, h5, h6, h7]

theorem ssub (e g : Bool) (d a b : BitVec 7) : Statement (.ssub e g d a b) := by
  intro word hw h
  have h_e := flag e
  have h_g := flag g
  have h_d := d.isLt
  have h_a := a.isLt
  have h_b := b.isLt
  obtain ⟨h1, h2, h3, h4, h5, h6, h7⟩ :=
    shape1 word 129 1082130432 e g d a b rfl
      (number _ word h (by omega))
  refine row word 1 1 _ h1 h2 ?_ hw
  show Except.ok _ = _
  rw [h3, h4, h5, h6, h7]

theorem smul (e g : Bool) (d a b : BitVec 7) : Statement (.smul e g d a b) := by
  intro word hw h
  have h_e := flag e
  have h_g := flag g
  have h_d := d.isLt
  have h_a := a.isLt
  have h_b := b.isLt
  obtain ⟨h1, h2, h3, h4, h5, h6, h7⟩ :=
    shape1 word 130 1090519040 e g d a b rfl
      (number _ word h (by omega))
  refine row word 1 2 _ h1 h2 ?_ hw
  show Except.ok _ = _
  rw [h3, h4, h5, h6, h7]

theorem smulhu (e g : Bool) (d a b : BitVec 7) : Statement (.smulhu e g d a b) := by
  intro word hw h
  have h_e := flag e
  have h_g := flag g
  have h_d := d.isLt
  have h_a := a.isLt
  have h_b := b.isLt
  obtain ⟨h1, h2, h3, h4, h5, h6, h7⟩ :=
    shape1 word 131 1098907648 e g d a b rfl
      (number _ word h (by omega))
  refine row word 1 3 _ h1 h2 ?_ hw
  show Except.ok _ = _
  rw [h3, h4, h5, h6, h7]

theorem smulhs (e g : Bool) (d a b : BitVec 7) : Statement (.smulhs e g d a b) := by
  intro word hw h
  have h_e := flag e
  have h_g := flag g
  have h_d := d.isLt
  have h_a := a.isLt
  have h_b := b.isLt
  obtain ⟨h1, h2, h3, h4, h5, h6, h7⟩ :=
    shape1 word 132 1107296256 e g d a b rfl
      (number _ word h (by omega))
  refine row word 1 4 _ h1 h2 ?_ hw
  show Except.ok _ = _
  rw [h3, h4, h5, h6, h7]

theorem sdivu (e g : Bool) (d a b : BitVec 7) : Statement (.sdivu e g d a b) := by
  intro word hw h
  have h_e := flag e
  have h_g := flag g
  have h_d := d.isLt
  have h_a := a.isLt
  have h_b := b.isLt
  obtain ⟨h1, h2, h3, h4, h5, h6, h7⟩ :=
    shape1 word 133 1115684864 e g d a b rfl
      (number _ word h (by omega))
  refine row word 1 5 _ h1 h2 ?_ hw
  show Except.ok _ = _
  rw [h3, h4, h5, h6, h7]

theorem sdivs (e g : Bool) (d a b : BitVec 7) : Statement (.sdivs e g d a b) := by
  intro word hw h
  have h_e := flag e
  have h_g := flag g
  have h_d := d.isLt
  have h_a := a.isLt
  have h_b := b.isLt
  obtain ⟨h1, h2, h3, h4, h5, h6, h7⟩ :=
    shape1 word 134 1124073472 e g d a b rfl
      (number _ word h (by omega))
  refine row word 1 6 _ h1 h2 ?_ hw
  show Except.ok _ = _
  rw [h3, h4, h5, h6, h7]

theorem sremu (e g : Bool) (d a b : BitVec 7) : Statement (.sremu e g d a b) := by
  intro word hw h
  have h_e := flag e
  have h_g := flag g
  have h_d := d.isLt
  have h_a := a.isLt
  have h_b := b.isLt
  obtain ⟨h1, h2, h3, h4, h5, h6, h7⟩ :=
    shape1 word 135 1132462080 e g d a b rfl
      (number _ word h (by omega))
  refine row word 1 7 _ h1 h2 ?_ hw
  show Except.ok _ = _
  rw [h3, h4, h5, h6, h7]

theorem srems (e g : Bool) (d a b : BitVec 7) : Statement (.srems e g d a b) := by
  intro word hw h
  have h_e := flag e
  have h_g := flag g
  have h_d := d.isLt
  have h_a := a.isLt
  have h_b := b.isLt
  obtain ⟨h1, h2, h3, h4, h5, h6, h7⟩ :=
    shape1 word 136 1140850688 e g d a b rfl
      (number _ word h (by omega))
  refine row word 1 8 _ h1 h2 ?_ hw
  show Except.ok _ = _
  rw [h3, h4, h5, h6, h7]

theorem smins (e g : Bool) (d a b : BitVec 7) : Statement (.smins e g d a b) := by
  intro word hw h
  have h_e := flag e
  have h_g := flag g
  have h_d := d.isLt
  have h_a := a.isLt
  have h_b := b.isLt
  obtain ⟨h1, h2, h3, h4, h5, h6, h7⟩ :=
    shape1 word 137 1149239296 e g d a b rfl
      (number _ word h (by omega))
  refine row word 1 9 _ h1 h2 ?_ hw
  show Except.ok _ = _
  rw [h3, h4, h5, h6, h7]

theorem sminu (e g : Bool) (d a b : BitVec 7) : Statement (.sminu e g d a b) := by
  intro word hw h
  have h_e := flag e
  have h_g := flag g
  have h_d := d.isLt
  have h_a := a.isLt
  have h_b := b.isLt
  obtain ⟨h1, h2, h3, h4, h5, h6, h7⟩ :=
    shape1 word 138 1157627904 e g d a b rfl
      (number _ word h (by omega))
  refine row word 1 10 _ h1 h2 ?_ hw
  show Except.ok _ = _
  rw [h3, h4, h5, h6, h7]

theorem smaxs (e g : Bool) (d a b : BitVec 7) : Statement (.smaxs e g d a b) := by
  intro word hw h
  have h_e := flag e
  have h_g := flag g
  have h_d := d.isLt
  have h_a := a.isLt
  have h_b := b.isLt
  obtain ⟨h1, h2, h3, h4, h5, h6, h7⟩ :=
    shape1 word 139 1166016512 e g d a b rfl
      (number _ word h (by omega))
  refine row word 1 11 _ h1 h2 ?_ hw
  show Except.ok _ = _
  rw [h3, h4, h5, h6, h7]

theorem smaxu (e g : Bool) (d a b : BitVec 7) : Statement (.smaxu e g d a b) := by
  intro word hw h
  have h_e := flag e
  have h_g := flag g
  have h_d := d.isLt
  have h_a := a.isLt
  have h_b := b.isLt
  obtain ⟨h1, h2, h3, h4, h5, h6, h7⟩ :=
    shape1 word 140 1174405120 e g d a b rfl
      (number _ word h (by omega))
  refine row word 1 12 _ h1 h2 ?_ hw
  show Except.ok _ = _
  rw [h3, h4, h5, h6, h7]

theorem sand (e g : Bool) (d a b : BitVec 7) : Statement (.sand e g d a b) := by
  intro word hw h
  have h_e := flag e
  have h_g := flag g
  have h_d := d.isLt
  have h_a := a.isLt
  have h_b := b.isLt
  obtain ⟨h1, h2, h3, h4, h5, h6, h7⟩ :=
    shape1 word 141 1182793728 e g d a b rfl
      (number _ word h (by omega))
  refine row word 1 13 _ h1 h2 ?_ hw
  show Except.ok _ = _
  rw [h3, h4, h5, h6, h7]

theorem sor (e g : Bool) (d a b : BitVec 7) : Statement (.sor e g d a b) := by
  intro word hw h
  have h_e := flag e
  have h_g := flag g
  have h_d := d.isLt
  have h_a := a.isLt
  have h_b := b.isLt
  obtain ⟨h1, h2, h3, h4, h5, h6, h7⟩ :=
    shape1 word 142 1191182336 e g d a b rfl
      (number _ word h (by omega))
  refine row word 1 14 _ h1 h2 ?_ hw
  show Except.ok _ = _
  rw [h3, h4, h5, h6, h7]

theorem sxor (e g : Bool) (d a b : BitVec 7) : Statement (.sxor e g d a b) := by
  intro word hw h
  have h_e := flag e
  have h_g := flag g
  have h_d := d.isLt
  have h_a := a.isLt
  have h_b := b.isLt
  obtain ⟨h1, h2, h3, h4, h5, h6, h7⟩ :=
    shape1 word 143 1199570944 e g d a b rfl
      (number _ word h (by omega))
  refine row word 1 15 _ h1 h2 ?_ hw
  show Except.ok _ = _
  rw [h3, h4, h5, h6, h7]

theorem sandn (e g : Bool) (d a b : BitVec 7) : Statement (.sandn e g d a b) := by
  intro word hw h
  have h_e := flag e
  have h_g := flag g
  have h_d := d.isLt
  have h_a := a.isLt
  have h_b := b.isLt
  obtain ⟨h1, h2, h3, h4, h5, h6, h7⟩ :=
    shape1 word 144 1207959552 e g d a b rfl
      (number _ word h (by omega))
  refine row word 1 16 _ h1 h2 ?_ hw
  show Except.ok _ = _
  rw [h3, h4, h5, h6, h7]

theorem sshl (e g : Bool) (d a b : BitVec 7) : Statement (.sshl e g d a b) := by
  intro word hw h
  have h_e := flag e
  have h_g := flag g
  have h_d := d.isLt
  have h_a := a.isLt
  have h_b := b.isLt
  obtain ⟨h1, h2, h3, h4, h5, h6, h7⟩ :=
    shape1 word 145 1216348160 e g d a b rfl
      (number _ word h (by omega))
  refine row word 1 17 _ h1 h2 ?_ hw
  show Except.ok _ = _
  rw [h3, h4, h5, h6, h7]

theorem sshru (e g : Bool) (d a b : BitVec 7) : Statement (.sshru e g d a b) := by
  intro word hw h
  have h_e := flag e
  have h_g := flag g
  have h_d := d.isLt
  have h_a := a.isLt
  have h_b := b.isLt
  obtain ⟨h1, h2, h3, h4, h5, h6, h7⟩ :=
    shape1 word 146 1224736768 e g d a b rfl
      (number _ word h (by omega))
  refine row word 1 18 _ h1 h2 ?_ hw
  show Except.ok _ = _
  rw [h3, h4, h5, h6, h7]

theorem sshrs (e g : Bool) (d a b : BitVec 7) : Statement (.sshrs e g d a b) := by
  intro word hw h
  have h_e := flag e
  have h_g := flag g
  have h_d := d.isLt
  have h_a := a.isLt
  have h_b := b.isLt
  obtain ⟨h1, h2, h3, h4, h5, h6, h7⟩ :=
    shape1 word 147 1233125376 e g d a b rfl
      (number _ word h (by omega))
  refine row word 1 19 _ h1 h2 ?_ hw
  show Except.ok _ = _
  rw [h3, h4, h5, h6, h7]

theorem sbfe (e g : Bool) (d a b : BitVec 7) : Statement (.sbfe e g d a b) := by
  intro word hw h
  have h_e := flag e
  have h_g := flag g
  have h_d := d.isLt
  have h_a := a.isLt
  have h_b := b.isLt
  obtain ⟨h1, h2, h3, h4, h5, h6, h7⟩ :=
    shape1 word 148 1241513984 e g d a b rfl
      (number _ word h (by omega))
  refine row word 1 20 _ h1 h2 ?_ hw
  show Except.ok _ = _
  rw [h3, h4, h5, h6, h7]

theorem sbfi (e g : Bool) (d a b : BitVec 7) : Statement (.sbfi e g d a b) := by
  intro word hw h
  have h_e := flag e
  have h_g := flag g
  have h_d := d.isLt
  have h_a := a.isLt
  have h_b := b.isLt
  obtain ⟨h1, h2, h3, h4, h5, h6, h7⟩ :=
    shape1 word 149 1249902592 e g d a b rfl
      (number _ word h (by omega))
  refine row word 1 21 _ h1 h2 ?_ hw
  show Except.ok _ = _
  rw [h3, h4, h5, h6, h7]

theorem spopc (e : Bool) (d a : BitVec 7) : Statement (.spopc e d a) := by
  intro word hw h
  have h_e := flag e
  have h_d := d.isLt
  have h_a := a.isLt
  obtain ⟨h1, h2, h3, h4, h5, h6, h7⟩ :=
    shape2 word 150 1258291200 0 0 e d a (by decide) (by decide) rfl
      (number _ word h (by omega))
  refine row word 1 22 _ h1 h2 ?_ hw
  show (if _ then _ else _) = _
  simp only [h3, h4, h5, h6, h7, Bool.true_and, Bool.and_self, Bool.false_eq_true, if_true, if_false]

theorem sclz (e : Bool) (d a : BitVec 7) : Statement (.sclz e d a) := by
  intro word hw h
  have h_e := flag e
  have h_d := d.isLt
  have h_a := a.isLt
  obtain ⟨h1, h2, h3, h4, h5, h6, h7⟩ :=
    shape2 word 150 1258291201 1 0 e d a (by decide) (by decide) rfl
      (number _ word h (by omega))
  refine row word 1 22 _ h1 h2 ?_ hw
  show (if _ then _ else _) = _
  simp only [differs 0 7 1 0 word h6 rfl, h3, h4, h5, h6, h7, Bool.false_and, Bool.true_and, Bool.and_self,
    Bool.false_eq_true, if_true, if_false]

theorem sctz (e : Bool) (d a : BitVec 7) : Statement (.sctz e d a) := by
  intro word hw h
  have h_e := flag e
  have h_d := d.isLt
  have h_a := a.isLt
  obtain ⟨h1, h2, h3, h4, h5, h6, h7⟩ :=
    shape2 word 150 1258291202 2 0 e d a (by decide) (by decide) rfl
      (number _ word h (by omega))
  refine row word 1 22 _ h1 h2 ?_ hw
  show (if _ then _ else _) = _
  simp only [differs 0 7 2 0 word h6 rfl, differs 0 7 2 1 word h6 rfl, h3, h4, h5, h6, h7, Bool.false_and,
    Bool.true_and, Bool.and_self, Bool.false_eq_true, if_true, if_false]

theorem sbrev (e : Bool) (d a : BitVec 7) : Statement (.sbrev e d a) := by
  intro word hw h
  have h_e := flag e
  have h_d := d.isLt
  have h_a := a.isLt
  obtain ⟨h1, h2, h3, h4, h5, h6, h7⟩ :=
    shape2 word 150 1258291203 3 0 e d a (by decide) (by decide) rfl
      (number _ word h (by omega))
  refine row word 1 22 _ h1 h2 ?_ hw
  show (if _ then _ else _) = _
  simp only [differs 0 7 3 0 word h6 rfl, differs 0 7 3 1 word h6 rfl, differs 0 7 3 2 word h6 rfl, h3, h4, h5,
    h6, h7, Bool.false_and, Bool.true_and, Bool.and_self, Bool.false_eq_true, if_true, if_false]

theorem snot (e : Bool) (d a : BitVec 7) : Statement (.snot e d a) := by
  intro word hw h
  have h_e := flag e
  have h_d := d.isLt
  have h_a := a.isLt
  obtain ⟨h1, h2, h3, h4, h5, h6, h7⟩ :=
    shape2 word 150 1258291204 4 0 e d a (by decide) (by decide) rfl
      (number _ word h (by omega))
  refine row word 1 22 _ h1 h2 ?_ hw
  show (if _ then _ else _) = _
  simp only [differs 0 7 4 0 word h6 rfl, differs 0 7 4 1 word h6 rfl, differs 0 7 4 2 word h6 rfl,
    differs 0 7 4 3 word h6 rfl, h3, h4, h5, h6, h7, Bool.false_and, Bool.true_and, Bool.and_self,
    Bool.false_eq_true, if_true, if_false]

theorem sneg (e : Bool) (d a : BitVec 7) : Statement (.sneg e d a) := by
  intro word hw h
  have h_e := flag e
  have h_d := d.isLt
  have h_a := a.isLt
  obtain ⟨h1, h2, h3, h4, h5, h6, h7⟩ :=
    shape2 word 150 1258291205 5 0 e d a (by decide) (by decide) rfl
      (number _ word h (by omega))
  refine row word 1 22 _ h1 h2 ?_ hw
  show (if _ then _ else _) = _
  simp only [differs 0 7 5 0 word h6 rfl, differs 0 7 5 1 word h6 rfl, differs 0 7 5 2 word h6 rfl,
    differs 0 7 5 3 word h6 rfl, differs 0 7 5 4 word h6 rfl, h3, h4, h5, h6, h7, Bool.false_and, Bool.true_and,
    Bool.and_self, Bool.false_eq_true, if_true, if_false]

theorem ssx32 (e : Bool) (d a : BitVec 7) : Statement (.ssx32 e d a) := by
  intro word hw h
  have h_e := flag e
  have h_d := d.isLt
  have h_a := a.isLt
  obtain ⟨h1, h2, h3, h4, h5, h6, h7⟩ :=
    shape2 word 150 1258291206 6 0 e d a (by decide) (by decide) rfl
      (number _ word h (by omega))
  refine row word 1 22 _ h1 h2 ?_ hw
  show (if _ then _ else _) = _
  simp only [differs 0 7 6 0 word h6 rfl, differs 0 7 6 1 word h6 rfl, differs 0 7 6 2 word h6 rfl,
    differs 0 7 6 3 word h6 rfl, differs 0 7 6 4 word h6 rfl, differs 0 7 6 5 word h6 rfl, h3, h4, h5, h6, h7,
    Bool.false_and, Bool.true_and, Bool.and_self, Bool.false_eq_true, if_true, if_false]

theorem szx32 (e : Bool) (d a : BitVec 7) : Statement (.szx32 e d a) := by
  intro word hw h
  have h_e := flag e
  have h_d := d.isLt
  have h_a := a.isLt
  obtain ⟨h1, h2, h3, h4, h5, h6, h7⟩ :=
    shape2 word 150 1258291207 7 0 e d a (by decide) (by decide) rfl
      (number _ word h (by omega))
  refine row word 1 22 _ h1 h2 ?_ hw
  show (if _ then _ else _) = _
  simp only [differs 0 7 7 0 word h6 rfl, differs 0 7 7 1 word h6 rfl, differs 0 7 7 2 word h6 rfl,
    differs 0 7 7 3 word h6 rfl, differs 0 7 7 4 word h6 rfl, differs 0 7 7 5 word h6 rfl,
    differs 0 7 7 6 word h6 rfl, h3, h4, h5, h6, h7, Bool.false_and, Bool.true_and, Bool.and_self,
    Bool.false_eq_true, if_true, if_false]

theorem smov (e : Bool) (d a : BitVec 7) : Statement (.smov e d a) := by
  intro word hw h
  have h_e := flag e
  have h_d := d.isLt
  have h_a := a.isLt
  obtain ⟨h1, h2, h3, h4, h5, h6, h7⟩ :=
    shape2 word 151 1266679808 0 0 e d a (by decide) (by decide) rfl
      (number _ word h (by omega))
  refine row word 1 23 _ h1 h2 ?_ hw
  show take _ _ = _
  unfold take
  rw [h6, h7, h3, h4, h5]
  rfl

theorem scmpeq (e g : Bool) (d a b : BitVec 7) : Statement (.scmpeq e g d a b) := by
  intro word hw h
  have h_e := flag e
  have h_g := flag g
  have h_d := d.isLt
  have h_a := a.isLt
  have h_b := b.isLt
  obtain ⟨h1, h2, h3, h4, h5, h6, h7⟩ :=
    shape1 word 152 1275068416 e g d a b rfl
      (number _ word h (by omega))
  refine row word 1 24 _ h1 h2 ?_ hw
  show Except.ok _ = _
  rw [h3, h4, h5, h6, h7]

theorem scmplts (e g : Bool) (d a b : BitVec 7) : Statement (.scmplts e g d a b) := by
  intro word hw h
  have h_e := flag e
  have h_g := flag g
  have h_d := d.isLt
  have h_a := a.isLt
  have h_b := b.isLt
  obtain ⟨h1, h2, h3, h4, h5, h6, h7⟩ :=
    shape1 word 153 1283457024 e g d a b rfl
      (number _ word h (by omega))
  refine row word 1 25 _ h1 h2 ?_ hw
  show Except.ok _ = _
  rw [h3, h4, h5, h6, h7]

theorem scmpltu (e g : Bool) (d a b : BitVec 7) : Statement (.scmpltu e g d a b) := by
  intro word hw h
  have h_e := flag e
  have h_g := flag g
  have h_d := d.isLt
  have h_a := a.isLt
  have h_b := b.isLt
  obtain ⟨h1, h2, h3, h4, h5, h6, h7⟩ :=
    shape1 word 154 1291845632 e g d a b rfl
      (number _ word h (by omega))
  refine row word 1 26 _ h1 h2 ?_ hw
  show Except.ok _ = _
  rw [h3, h4, h5, h6, h7]

theorem scmples (e g : Bool) (d a b : BitVec 7) : Statement (.scmples e g d a b) := by
  intro word hw h
  have h_e := flag e
  have h_g := flag g
  have h_d := d.isLt
  have h_a := a.isLt
  have h_b := b.isLt
  obtain ⟨h1, h2, h3, h4, h5, h6, h7⟩ :=
    shape1 word 155 1300234240 e g d a b rfl
      (number _ word h (by omega))
  refine row word 1 27 _ h1 h2 ?_ hw
  show Except.ok _ = _
  rw [h3, h4, h5, h6, h7]

theorem scmpleu (e g : Bool) (d a b : BitVec 7) : Statement (.scmpleu e g d a b) := by
  intro word hw h
  have h_e := flag e
  have h_g := flag g
  have h_d := d.isLt
  have h_a := a.isLt
  have h_b := b.isLt
  obtain ⟨h1, h2, h3, h4, h5, h6, h7⟩ :=
    shape1 word 156 1308622848 e g d a b rfl
      (number _ word h (by omega))
  refine row word 1 28 _ h1 h2 ?_ hw
  show Except.ok _ = _
  rw [h3, h4, h5, h6, h7]

theorem ssel (e g : Bool) (d a b : BitVec 7) : Statement (.ssel e g d a b) := by
  intro word hw h
  have h_e := flag e
  have h_g := flag g
  have h_d := d.isLt
  have h_a := a.isLt
  have h_b := b.isLt
  obtain ⟨h1, h2, h3, h4, h5, h6, h7⟩ :=
    shape1 word 157 1317011456 e g d a b rfl
      (number _ word h (by omega))
  refine row word 1 29 _ h1 h2 ?_ hw
  show Except.ok _ = _
  rw [h3, h4, h5, h6, h7]

theorem shape5 (word : BitVec 32) (k base v0 v1 : Nat)
    (f0 : BitVec 7)
    (f1 : BitVec 7)
    (b0 : v0 < 128)
    (b1 : v1 < 4)
    (hb : base = k * 8388608 + v0 * 1 + v1 * 2097152)
    (hn : word.toNat = base + f0.toNat * 16384 + f1.toNat * 128) :
    word.toNat / 1073741824 = k / 128 ∧
    word.toNat / 8388608 % 128 = k % 128 ∧
    bitsAt 14 7 word = f0 ∧
    bitsAt 7 7 word = f1 ∧
    fix 0 7 v0 word = true ∧
    fix 21 2 v1 word = true := by
  have h_f0 := f0.isLt
  have h_f1 := f1.isLt
  exact ⟨by omega,
    by omega,
    bits 14 7 word f0 (by omega),
    bits 7 7 word f1 (by omega),
    fixed 0 7 v0 word (by omega),
    fixed 21 2 v1 word (by omega)⟩

theorem sgetst (d sel : BitVec 7) : Statement (.sgetst d sel) := by
  intro word hw h
  have h_d := d.isLt
  have h_sel := sel.isLt
  obtain ⟨h1, h2, h3, h4, h5, h6⟩ :=
    shape5 word 158 1325400064 0 0 d sel (by decide) (by decide) rfl
      (number _ word h (by omega))
  refine row word 1 30 _ h1 h2 ?_ hw
  show take _ _ = _
  unfold take
  rw [h5, h6, h3, h4]
  rfl

theorem shape6 (word : BitVec 32) (k base v0 : Nat)
    (f0 : Bool)
    (f1 : Bool)
    (f2 : BitVec 7)
    (f3 : BitVec 7)
    (b0 : v0 < 128)
    (hb : base = k * 8388608 + v0 * 16384)
    (hn : word.toNat = base + f0.toNat * 4194304 + f1.toNat * 2097152 + f2.toNat * 128 + f3.toNat) :
    word.toNat / 1073741824 = k / 128 ∧
    word.toNat / 8388608 % 128 = k % 128 ∧
    bitAt 22 word = f0 ∧
    bitAt 21 word = f1 ∧
    bitsAt 7 7 word = f2 ∧
    bitsAt 0 7 word = f3 ∧
    fix 14 7 v0 word = true := by
  have h_f0 := flag f0
  have h_f1 := flag f1
  have h_f2 := f2.isLt
  have h_f3 := f3.isLt
  exact ⟨by omega,
    by omega,
    bit 22 word f0 (by omega),
    bit 21 word f1 (by omega),
    bits 7 7 word f2 (by omega),
    bits 0 7 word f3 (by omega),
    fixed 14 7 v0 word (by omega)⟩

theorem ssetst (e g : Bool) (a b : BitVec 7) : Statement (.ssetst e g a b) := by
  intro word hw h
  have h_e := flag e
  have h_g := flag g
  have h_a := a.isLt
  have h_b := b.isLt
  obtain ⟨h1, h2, h3, h4, h5, h6, h7⟩ :=
    shape6 word 159 1333788672 0 e g a b (by decide) rfl
      (number _ word h (by omega))
  refine row word 1 31 _ h1 h2 ?_ hw
  show take _ _ = _
  unfold take
  rw [h7, h3, h4, h5, h6]
  rfl

theorem sfadd (e g : Bool) (d a b : BitVec 7) : Statement (.sfadd e g d a b) := by
  intro word hw h
  have h_e := flag e
  have h_g := flag g
  have h_d := d.isLt
  have h_a := a.isLt
  have h_b := b.isLt
  obtain ⟨h1, h2, h3, h4, h5, h6, h7⟩ :=
    shape1 word 160 1342177280 e g d a b rfl
      (number _ word h (by omega))
  refine row word 1 32 _ h1 h2 ?_ hw
  show Except.ok _ = _
  rw [h3, h4, h5, h6, h7]

theorem sfsub (e g : Bool) (d a b : BitVec 7) : Statement (.sfsub e g d a b) := by
  intro word hw h
  have h_e := flag e
  have h_g := flag g
  have h_d := d.isLt
  have h_a := a.isLt
  have h_b := b.isLt
  obtain ⟨h1, h2, h3, h4, h5, h6, h7⟩ :=
    shape1 word 161 1350565888 e g d a b rfl
      (number _ word h (by omega))
  refine row word 1 33 _ h1 h2 ?_ hw
  show Except.ok _ = _
  rw [h3, h4, h5, h6, h7]

theorem sfmul (e g : Bool) (d a b : BitVec 7) : Statement (.sfmul e g d a b) := by
  intro word hw h
  have h_e := flag e
  have h_g := flag g
  have h_d := d.isLt
  have h_a := a.isLt
  have h_b := b.isLt
  obtain ⟨h1, h2, h3, h4, h5, h6, h7⟩ :=
    shape1 word 162 1358954496 e g d a b rfl
      (number _ word h (by omega))
  refine row word 1 34 _ h1 h2 ?_ hw
  show Except.ok _ = _
  rw [h3, h4, h5, h6, h7]

theorem sffma (e g : Bool) (d a b : BitVec 7) : Statement (.sffma e g d a b) := by
  intro word hw h
  have h_e := flag e
  have h_g := flag g
  have h_d := d.isLt
  have h_a := a.isLt
  have h_b := b.isLt
  obtain ⟨h1, h2, h3, h4, h5, h6, h7⟩ :=
    shape1 word 163 1367343104 e g d a b rfl
      (number _ word h (by omega))
  refine row word 1 35 _ h1 h2 ?_ hw
  show Except.ok _ = _
  rw [h3, h4, h5, h6, h7]

theorem sfcmplt (e g : Bool) (d a b : BitVec 7) : Statement (.sfcmplt e g d a b) := by
  intro word hw h
  have h_e := flag e
  have h_g := flag g
  have h_d := d.isLt
  have h_a := a.isLt
  have h_b := b.isLt
  obtain ⟨h1, h2, h3, h4, h5, h6, h7⟩ :=
    shape1 word 164 1375731712 e g d a b rfl
      (number _ word h (by omega))
  refine row word 1 36 _ h1 h2 ?_ hw
  show Except.ok _ = _
  rw [h3, h4, h5, h6, h7]

theorem sfcvt (e : Bool) (d a n : BitVec 7) : Statement (.sfcvt e d a n) := by
  intro word hw h
  have h_e := flag e
  have h_d := d.isLt
  have h_a := a.isLt
  have h_n := n.isLt
  obtain ⟨h1, h2, h3, h4, h5, h6, h7⟩ :=
    shape4 word 165 1384120320 0 e d a n (by decide) rfl
      (number _ word h (by omega))
  refine row word 1 37 _ h1 h2 ?_ hw
  show take _ _ = _
  unfold take
  rw [h7, h3, h4, h5, h6]
  rfl

theorem saddi (d a : BitVec 7) (i : BitVec 9) : Statement (.saddi d a i) := by
  intro word hw h
  have h_d := d.isLt
  have h_a := a.isLt
  have h_i := i.isLt
  obtain ⟨h1, h2, h3, h4, h5⟩ :=
    shape3 word 166 1392508928 d a i rfl
      (number _ word h (by omega))
  refine row word 1 38 _ h1 h2 ?_ hw
  show Except.ok _ = _
  rw [h3, h4, h5]

theorem sandi (d a : BitVec 7) (i : BitVec 9) : Statement (.sandi d a i) := by
  intro word hw h
  have h_d := d.isLt
  have h_a := a.isLt
  have h_i := i.isLt
  obtain ⟨h1, h2, h3, h4, h5⟩ :=
    shape3 word 167 1400897536 d a i rfl
      (number _ word h (by omega))
  refine row word 1 39 _ h1 h2 ?_ hw
  show Except.ok _ = _
  rw [h3, h4, h5]

theorem sori (d a : BitVec 7) (i : BitVec 9) : Statement (.sori d a i) := by
  intro word hw h
  have h_d := d.isLt
  have h_a := a.isLt
  have h_i := i.isLt
  obtain ⟨h1, h2, h3, h4, h5⟩ :=
    shape3 word 168 1409286144 d a i rfl
      (number _ word h (by omega))
  refine row word 1 40 _ h1 h2 ?_ hw
  show Except.ok _ = _
  rw [h3, h4, h5]

theorem sxori (d a : BitVec 7) (i : BitVec 9) : Statement (.sxori d a i) := by
  intro word hw h
  have h_d := d.isLt
  have h_a := a.isLt
  have h_i := i.isLt
  obtain ⟨h1, h2, h3, h4, h5⟩ :=
    shape3 word 169 1417674752 d a i rfl
      (number _ word h (by omega))
  refine row word 1 41 _ h1 h2 ?_ hw
  show Except.ok _ = _
  rw [h3, h4, h5]

theorem sshli (d a : BitVec 7) (i : BitVec 9) : Statement (.sshli d a i) := by
  intro word hw h
  have h_d := d.isLt
  have h_a := a.isLt
  have h_i := i.isLt
  obtain ⟨h1, h2, h3, h4, h5⟩ :=
    shape3 word 170 1426063360 d a i rfl
      (number _ word h (by omega))
  refine row word 1 42 _ h1 h2 ?_ hw
  show Except.ok _ = _
  rw [h3, h4, h5]

theorem sshrui (d a : BitVec 7) (i : BitVec 9) : Statement (.sshrui d a i) := by
  intro word hw h
  have h_d := d.isLt
  have h_a := a.isLt
  have h_i := i.isLt
  obtain ⟨h1, h2, h3, h4, h5⟩ :=
    shape3 word 171 1434451968 d a i rfl
      (number _ word h (by omega))
  refine row word 1 43 _ h1 h2 ?_ hw
  show Except.ok _ = _
  rw [h3, h4, h5]

theorem sshrsi (d a : BitVec 7) (i : BitVec 9) : Statement (.sshrsi d a i) := by
  intro word hw h
  have h_d := d.isLt
  have h_a := a.isLt
  have h_i := i.isLt
  obtain ⟨h1, h2, h3, h4, h5⟩ :=
    shape3 word 172 1442840576 d a i rfl
      (number _ word h (by omega))
  refine row word 1 44 _ h1 h2 ?_ hw
  show Except.ok _ = _
  rw [h3, h4, h5]

theorem scmpeqi (d a : BitVec 7) (i : BitVec 9) : Statement (.scmpeqi d a i) := by
  intro word hw h
  have h_d := d.isLt
  have h_a := a.isLt
  have h_i := i.isLt
  obtain ⟨h1, h2, h3, h4, h5⟩ :=
    shape3 word 173 1451229184 d a i rfl
      (number _ word h (by omega))
  refine row word 1 45 _ h1 h2 ?_ hw
  show Except.ok _ = _
  rw [h3, h4, h5]

theorem scmpltsi (d a : BitVec 7) (i : BitVec 9) : Statement (.scmpltsi d a i) := by
  intro word hw h
  have h_d := d.isLt
  have h_a := a.isLt
  have h_i := i.isLt
  obtain ⟨h1, h2, h3, h4, h5⟩ :=
    shape3 word 174 1459617792 d a i rfl
      (number _ word h (by omega))
  refine row word 1 46 _ h1 h2 ?_ hw
  show Except.ok _ = _
  rw [h3, h4, h5]

theorem scmpltui (d a : BitVec 7) (i : BitVec 9) : Statement (.scmpltui d a i) := by
  intro word hw h
  have h_d := d.isLt
  have h_a := a.isLt
  have h_i := i.isLt
  obtain ⟨h1, h2, h3, h4, h5⟩ :=
    shape3 word 175 1468006400 d a i rfl
      (number _ word h (by omega))
  refine row word 1 47 _ h1 h2 ?_ hw
  show Except.ok _ = _
  rw [h3, h4, h5]

theorem shape7 (word : BitVec 32) (k base v0 : Nat)
    (f0 : BitVec 7)
    (f1 : BitVec 9)
    (b0 : v0 < 128)
    (hb : base = k * 8388608 + v0 * 65536)
    (hn : word.toNat = base + f0.toNat * 512 + f1.toNat) :
    word.toNat / 1073741824 = k / 128 ∧
    word.toNat / 8388608 % 128 = k % 128 ∧
    bitsAt 9 7 word = f0 ∧
    bitsAt 0 9 word = f1 ∧
    fix 16 7 v0 word = true := by
  have h_f0 := f0.isLt
  have h_f1 := f1.isLt
  exact ⟨by omega,
    by omega,
    bits 9 7 word f0 (by omega),
    bits 0 9 word f1 (by omega),
    fixed 16 7 v0 word (by omega)⟩

theorem bri (a : BitVec 7) (n : BitVec 9) : Statement (.bri a n) := by
  intro word hw h
  have h_a := a.isLt
  have h_n := n.isLt
  obtain ⟨h1, h2, h3, h4, h5⟩ :=
    shape7 word 192 1610612736 0 a n (by decide) rfl
      (number _ word h (by omega))
  refine row word 1 64 _ h1 h2 ?_ hw
  show take _ _ = _
  unfold take
  rw [h5, h3, h4]
  rfl

theorem shape8 (word : BitVec 32) (k base v0 v1 : Nat)
    (f0 : Bool)
    (f1 : BitVec 7)
    (b0 : v0 < 128)
    (b1 : v1 < 256)
    (hb : base = k * 8388608 + v0 * 1 + v1 * 16384)
    (hn : word.toNat = base + f0.toNat * 4194304 + f1.toNat * 128) :
    word.toNat / 1073741824 = k / 128 ∧
    word.toNat / 8388608 % 128 = k % 128 ∧
    bitAt 22 word = f0 ∧
    bitsAt 7 7 word = f1 ∧
    fix 0 7 v0 word = true ∧
    fix 14 8 v1 word = true := by
  have h_f0 := flag f0
  have h_f1 := f1.isLt
  exact ⟨by omega,
    by omega,
    bit 22 word f0 (by omega),
    bits 7 7 word f1 (by omega),
    fixed 0 7 v0 word (by omega),
    fixed 14 8 v1 word (by omega)⟩

theorem jr (e : Bool) (a : BitVec 7) : Statement (.jr e a) := by
  intro word hw h
  have h_e := flag e
  have h_a := a.isLt
  obtain ⟨h1, h2, h3, h4, h5, h6⟩ :=
    shape8 word 193 1619001344 0 0 e a (by decide) (by decide) rfl
      (number _ word h (by omega))
  refine row word 1 65 _ h1 h2 ?_ hw
  show take _ _ = _
  unfold take
  rw [h5, h6, h3, h4]
  rfl

theorem callr (e : Bool) (a : BitVec 7) : Statement (.callr e a) := by
  intro word hw h
  have h_e := flag e
  have h_a := a.isLt
  obtain ⟨h1, h2, h3, h4, h5, h6⟩ :=
    shape8 word 194 1627389952 0 0 e a (by decide) (by decide) rfl
      (number _ word h (by omega))
  refine row word 1 66 _ h1 h2 ?_ hw
  show take _ _ = _
  unfold take
  rw [h5, h6, h3, h4]
  rfl

theorem shape9 (word : BitVec 32) (k base v0 : Nat)
    (b0 : v0 < 8388608)
    (hb : base = k * 8388608 + v0 * 1)
    (hn : word.toNat = base) :
    word.toNat / 1073741824 = k / 128 ∧
    word.toNat / 8388608 % 128 = k % 128 ∧
    fix 0 23 v0 word = true := by
  exact ⟨by omega,
    by omega,
    fixed 0 23 v0 word (by omega)⟩

theorem exit : Statement (.exit) := by
  intro word hw h
  obtain ⟨h1, h2, h3⟩ :=
    shape9 word 195 1635778560 0 (by decide) rfl
      (number _ word h (by omega))
  refine row word 1 67 _ h1 h2 ?_ hw
  show take _ _ = _
  unfold take
  rw [h3]
  rfl

theorem exitto (a : BitVec 7) (n : BitVec 9) : Statement (.exitto a n) := by
  intro word hw h
  have h_a := a.isLt
  have h_n := n.isLt
  obtain ⟨h1, h2, h3, h4, h5⟩ :=
    shape7 word 196 1644167168 0 a n (by decide) rfl
      (number _ word h (by omega))
  refine row word 1 68 _ h1 h2 ?_ hw
  show take _ _ = _
  unfold take
  rw [h5, h3, h4]
  rfl

theorem shape10 (word : BitVec 32) (k base v0 : Nat)
    (f0 : BitVec 7)
    (f1 : BitVec 7)
    (b0 : v0 < 512)
    (hb : base = k * 8388608 + v0 * 1)
    (hn : word.toNat = base + f0.toNat * 65536 + f1.toNat * 512) :
    word.toNat / 1073741824 = k / 128 ∧
    word.toNat / 8388608 % 128 = k % 128 ∧
    bitsAt 16 7 word = f0 ∧
    bitsAt 9 7 word = f1 ∧
    fix 0 9 v0 word = true := by
  have h_f0 := f0.isLt
  have h_f1 := f1.isLt
  exact ⟨by omega,
    by omega,
    bits 16 7 word f0 (by omega),
    bits 9 7 word f1 (by omega),
    fixed 0 9 v0 word (by omega)⟩

theorem spawn (d a : BitVec 7) : Statement (.spawn d a) := by
  intro word hw h
  have h_d := d.isLt
  have h_a := a.isLt
  obtain ⟨h1, h2, h3, h4, h5⟩ :=
    shape10 word 197 1652555776 0 d a (by decide) rfl
      (number _ word h (by omega))
  refine row word 1 69 _ h1 h2 ?_ hw
  show take _ _ = _
  unfold take
  rw [h5, h3, h4]
  rfl

theorem bar : Statement (.bar) := by
  intro word hw h
  obtain ⟨h1, h2, h3⟩ :=
    shape9 word 198 1660944384 0 (by decide) rfl
      (number _ word h (by omega))
  refine row word 1 70 _ h1 h2 ?_ hw
  show (if _ then _ else _) = _
  simp only [h3, Bool.and_self, Bool.false_eq_true, if_true, if_false]

theorem barSp : Statement (.barSp) := by
  intro word hw h
  obtain ⟨h1, h2, h3⟩ :=
    shape9 word 198 1660944385 1 (by decide) rfl
      (number _ word h (by omega))
  refine row word 1 70 _ h1 h2 ?_ hw
  show (if _ then _ else _) = _
  simp only [differs 0 23 1 0 word h3 rfl, h3, Bool.false_and, Bool.and_self, Bool.false_eq_true, if_true,
    if_false]

theorem shape11 (word : BitVec 32) (k base v0 : Nat)
    (f0 : BitVec 7)
    (f1 : BitVec 5)
    (f2 : BitVec 3)
    (b0 : v0 < 256)
    (hb : base = k * 8388608 + v0 * 256)
    (hn : word.toNat = base + f0.toNat * 65536 + f1.toNat * 8 + f2.toNat) :
    word.toNat / 1073741824 = k / 128 ∧
    word.toNat / 8388608 % 128 = k % 128 ∧
    bitsAt 16 7 word = f0 ∧
    bitsAt 3 5 word = f1 ∧
    bitsAt 0 3 word = f2 ∧
    fix 8 8 v0 word = true := by
  have h_f0 := f0.isLt
  have h_f1 := f1.isLt
  have h_f2 := f2.isLt
  exact ⟨by omega,
    by omega,
    bits 16 7 word f0 (by omega),
    bits 3 5 word f1 (by omega),
    bits 0 3 word f2 (by omega),
    fixed 8 8 v0 word (by omega)⟩

theorem parv (d : BitVec 7) (n : BitVec 5) (k : BitVec 3) : Statement (.parv d n k) := by
  intro word hw h
  have h_d := d.isLt
  have h_n := n.isLt
  have h_k := k.isLt
  obtain ⟨h1, h2, h3, h4, h5, h6⟩ :=
    shape11 word 199 1669332992 0 d n k (by decide) rfl
      (number _ word h (by omega))
  refine row word 1 71 _ h1 h2 ?_ hw
  show take _ _ = _
  unfold take
  rw [h6, h3, h4, h5]
  rfl

theorem shape12 (word : BitVec 32) (k base v0 v1 : Nat)
    (f0 : BitVec 7)
    (f1 : BitVec 3)
    (b0 : v0 < 64)
    (b1 : v1 < 128)
    (hb : base = k * 8388608 + v0 * 8 + v1 * 65536)
    (hn : word.toNat = base + f0.toNat * 512 + f1.toNat) :
    word.toNat / 1073741824 = k / 128 ∧
    word.toNat / 8388608 % 128 = k % 128 ∧
    bitsAt 9 7 word = f0 ∧
    bitsAt 0 3 word = f1 ∧
    fix 3 6 v0 word = true ∧
    fix 16 7 v1 word = true := by
  have h_f0 := f0.isLt
  have h_f1 := f1.isLt
  exact ⟨by omega,
    by omega,
    bits 9 7 word f0 (by omega),
    bits 0 3 word f1 (by omega),
    fixed 3 6 v0 word (by omega),
    fixed 16 7 v1 word (by omega)⟩

theorem pwait (a : BitVec 7) (k : BitVec 3) : Statement (.pwait a k) := by
  intro word hw h
  have h_a := a.isLt
  have h_k := k.isLt
  obtain ⟨h1, h2, h3, h4, h5, h6⟩ :=
    shape12 word 200 1677721600 0 0 a k (by decide) (by decide) rfl
      (number _ word h (by omega))
  refine row word 1 72 _ h1 h2 ?_ hw
  show take _ _ = _
  unfold take
  rw [h5, h6, h3, h4]
  rfl

theorem shape13 (word : BitVec 32) (k base v0 : Nat)
    (f0 : BitVec 9)
    (b0 : v0 < 16384)
    (hb : base = k * 8388608 + v0 * 512)
    (hn : word.toNat = base + f0.toNat) :
    word.toNat / 1073741824 = k / 128 ∧
    word.toNat / 8388608 % 128 = k % 128 ∧
    bitsAt 0 9 word = f0 ∧
    fix 9 14 v0 word = true := by
  have h_f0 := f0.isLt
  exact ⟨by omega,
    by omega,
    bits 0 9 word f0 (by omega),
    fixed 9 14 v0 word (by omega)⟩

theorem win (i : BitVec 9) : Statement (.win i) := by
  intro word hw h
  have h_i := i.isLt
  obtain ⟨h1, h2, h3, h4⟩ :=
    shape13 word 201 1686110208 0 i (by decide) rfl
      (number _ word h (by omega))
  refine row word 1 73 _ h1 h2 ?_ hw
  show take _ _ = _
  unfold take
  rw [h4, h3]
  rfl

theorem shape14 (word : BitVec 32) (k base v0 v1 : Nat)
    (f0 : BitVec 7)
    (b0 : v0 < 16384)
    (b1 : v1 < 4)
    (hb : base = k * 8388608 + v0 * 1 + v1 * 2097152)
    (hn : word.toNat = base + f0.toNat * 16384) :
    word.toNat / 1073741824 = k / 128 ∧
    word.toNat / 8388608 % 128 = k % 128 ∧
    bitsAt 14 7 word = f0 ∧
    fix 0 14 v0 word = true ∧
    fix 21 2 v1 word = true := by
  have h_f0 := f0.isLt
  exact ⟨by omega,
    by omega,
    bits 14 7 word f0 (by omega),
    fixed 0 14 v0 word (by omega),
    fixed 21 2 v1 word (by omega)⟩

theorem winq (d : BitVec 7) : Statement (.winq d) := by
  intro word hw h
  have h_d := d.isLt
  obtain ⟨h1, h2, h3, h4, h5⟩ :=
    shape14 word 202 1694498816 0 0 d (by decide) (by decide) rfl
      (number _ word h (by omega))
  refine row word 1 74 _ h1 h2 ?_ hw
  show take _ _ = _
  unfold take
  rw [h4, h5, h3]
  rfl

theorem vsw (k : BitVec 9) : Statement (.vsw k) := by
  intro word hw h
  have h_k := k.isLt
  obtain ⟨h1, h2, h3, h4⟩ :=
    shape13 word 203 1702887424 0 k (by decide) rfl
      (number _ word h (by omega))
  refine row word 1 75 _ h1 h2 ?_ hw
  show take _ _ = _
  unfold take
  rw [h4, h3]
  rfl

theorem yield : Statement (.yield) := by
  intro word hw h
  obtain ⟨h1, h2, h3⟩ :=
    shape9 word 204 1711276032 0 (by decide) rfl
      (number _ word h (by omega))
  refine row word 1 76 _ h1 h2 ?_ hw
  show take _ _ = _
  unfold take
  rw [h3]
  rfl

theorem nop : Statement (.nop) := by
  intro word hw h
  obtain ⟨h1, h2, h3⟩ :=
    shape9 word 205 1719664640 0 (by decide) rfl
      (number _ word h (by omega))
  refine row word 1 77 _ h1 h2 ?_ hw
  show take _ _ = _
  unfold take
  rw [h3]
  rfl

theorem sysc (n : BitVec 9) : Statement (.sysc n) := by
  intro word hw h
  have h_n := n.isLt
  obtain ⟨h1, h2, h3, h4⟩ :=
    shape13 word 206 1728053248 0 n (by decide) rfl
      (number _ word h (by omega))
  refine row word 1 78 _ h1 h2 ?_ hw
  show take _ _ = _
  unfold take
  rw [h4, h3]
  rfl

theorem brk (n : BitVec 9) : Statement (.brk n) := by
  intro word hw h
  have h_n := n.isLt
  obtain ⟨h1, h2, h3, h4⟩ :=
    shape13 word 207 1736441856 0 n (by decide) rfl
      (number _ word h (by omega))
  refine row word 1 79 _ h1 h2 ?_ hw
  show take _ _ = _
  unfold take
  rw [h4, h3]
  rfl

theorem tret : Statement (.tret) := by
  intro word hw h
  obtain ⟨h1, h2, h3⟩ :=
    shape9 word 208 1744830464 0 (by decide) rfl
      (number _ word h (by omega))
  refine row word 1 80 _ h1 h2 ?_ hw
  show take _ _ = _
  unfold take
  rw [h3]
  rfl

theorem enq (e g : Bool) (d a b : BitVec 7) : Statement (.enq e g d a b) := by
  intro word hw h
  have h_e := flag e
  have h_g := flag g
  have h_d := d.isLt
  have h_a := a.isLt
  have h_b := b.isLt
  obtain ⟨h1, h2, h3, h4, h5, h6, h7⟩ :=
    shape1 word 209 1753219072 e g d a b rfl
      (number _ word h (by omega))
  refine row word 1 81 _ h1 h2 ?_ hw
  show Except.ok _ = _
  rw [h3, h4, h5, h6, h7]

theorem join (e : Bool) (d a : BitVec 7) : Statement (.join e d a) := by
  intro word hw h
  have h_e := flag e
  have h_d := d.isLt
  have h_a := a.isLt
  obtain ⟨h1, h2, h3, h4, h5, h6, h7⟩ :=
    shape2 word 210 1761607680 0 0 e d a (by decide) (by decide) rfl
      (number _ word h (by omega))
  refine row word 1 82 _ h1 h2 ?_ hw
  show take _ _ = _
  unfold take
  rw [h6, h7, h3, h4, h5]
  rfl

theorem msd (e : Bool) (d a n : BitVec 7) : Statement (.msd e d a n) := by
  intro word hw h
  have h_e := flag e
  have h_d := d.isLt
  have h_a := a.isLt
  have h_n := n.isLt
  obtain ⟨h1, h2, h3, h4, h5, h6, h7⟩ :=
    shape4 word 211 1769996288 0 e d a n (by decide) rfl
      (number _ word h (by omega))
  have hn := number _ word h (by omega)
  refine row word 1 83 _ h1 h2 ?_ hw
  have hs : 1 ≤ n.toNat := by simp only [Instr.wellFormed, Bool.and_eq_true, decide_eq_true_eq] at hw; omega
  show (if _ then _ else _) = _
  simp only [other 0 7 0 word (by omega), h3, h4, h5, h6, h7, Bool.false_and, Bool.and_self, Bool.false_eq_true,
    if_true, if_false]

theorem msdWithdraw (e : Bool) (d a : BitVec 7) : Statement (.msdWithdraw e d a) := by
  intro word hw h
  have h_e := flag e
  have h_d := d.isLt
  have h_a := a.isLt
  obtain ⟨h1, h2, h3, h4, h5, h6, h7⟩ :=
    shape2 word 211 1769996288 0 0 e d a (by decide) (by decide) rfl
      (number _ word h (by omega))
  refine row word 1 83 _ h1 h2 ?_ hw
  show (if _ then _ else _) = _
  simp only [h3, h4, h5, h6, h7, Bool.true_and, Bool.and_self, Bool.false_eq_true, if_true, if_false]

theorem msx (e g : Bool) (d a b : BitVec 7) : Statement (.msx e g d a b) := by
  intro word hw h
  have h_e := flag e
  have h_g := flag g
  have h_d := d.isLt
  have h_a := a.isLt
  have h_b := b.isLt
  obtain ⟨h1, h2, h3, h4, h5, h6, h7⟩ :=
    shape1 word 212 1778384896 e g d a b rfl
      (number _ word h (by omega))
  refine row word 1 84 _ h1 h2 ?_ hw
  show Except.ok _ = _
  rw [h3, h4, h5, h6, h7]

theorem shape15 (word : BitVec 32) (k base v0 v1 : Nat)
    (f0 : BitVec 7)
    (f1 : BitVec 7)
    (b0 : v0 < 128)
    (b1 : v1 < 4)
    (hb : base = k * 8388608 + v0 * 128 + v1 * 2097152)
    (hn : word.toNat = base + f0.toNat * 16384 + f1.toNat) :
    word.toNat / 1073741824 = k / 128 ∧
    word.toNat / 8388608 % 128 = k % 128 ∧
    bitsAt 14 7 word = f0 ∧
    bitsAt 0 7 word = f1 ∧
    fix 7 7 v0 word = true ∧
    fix 21 2 v1 word = true := by
  have h_f0 := f0.isLt
  have h_f1 := f1.isLt
  exact ⟨by omega,
    by omega,
    bits 14 7 word f0 (by omega),
    bits 0 7 word f1 (by omega),
    fixed 7 7 v0 word (by omega),
    fixed 21 2 v1 word (by omega)⟩

theorem hstat (d sel : BitVec 7) : Statement (.hstat d sel) := by
  intro word hw h
  have h_d := d.isLt
  have h_sel := sel.isLt
  obtain ⟨h1, h2, h3, h4, h5, h6⟩ :=
    shape15 word 213 1786773504 0 0 d sel (by decide) (by decide) rfl
      (number _ word h (by omega))
  have hn := number _ word h (by omega)
  refine row word 1 85 _ h1 h2 ?_ hw
  have hs : word.toNat % 128 < 4 := by simp only [Instr.wellFormed, decide_eq_true_eq] at hw; omega
  show (if _ then _ else _) = _
  simp only [hs, decide_true, h3, h4, h5, h6, Bool.true_and, Bool.and_self, Bool.false_eq_true, if_true, if_false]

theorem hstatLog (e : Bool) (d a sel : BitVec 7) : Statement (.hstatLog e d a sel) := by
  intro word hw h
  have h_e := flag e
  have h_d := d.isLt
  have h_a := a.isLt
  have h_sel := sel.isLt
  obtain ⟨h1, h2, h3, h4, h5, h6, h7⟩ :=
    shape4 word 213 1786773504 0 e d a sel (by decide) rfl
      (number _ word h (by omega))
  have hn := number _ word h (by omega)
  refine row word 1 85 _ h1 h2 ?_ hw
  have hs : ¬ word.toNat % 128 < 4 := by simp only [Instr.wellFormed, Bool.and_eq_true, decide_eq_true_eq] at hw; omega
  show (if _ then _ else _) = _
  simp only [hs, decide_false, h3, h4, h5, h6, h7, Bool.false_and, Bool.and_self, Bool.false_eq_true, if_true,
    if_false]

theorem sigmask (e : Bool) (d a : BitVec 7) : Statement (.sigmask e d a) := by
  intro word hw h
  have h_e := flag e
  have h_d := d.isLt
  have h_a := a.isLt
  obtain ⟨h1, h2, h3, h4, h5, h6, h7⟩ :=
    shape2 word 214 1795162112 0 0 e d a (by decide) (by decide) rfl
      (number _ word h (by omega))
  refine row word 1 86 _ h1 h2 ?_ hw
  show take _ _ = _
  unfold take
  rw [h6, h7, h3, h4, h5]
  rfl

theorem sighand (e : Bool) (d a : BitVec 7) : Statement (.sighand e d a) := by
  intro word hw h
  have h_e := flag e
  have h_d := d.isLt
  have h_a := a.isLt
  obtain ⟨h1, h2, h3, h4, h5, h6, h7⟩ :=
    shape2 word 215 1803550720 0 0 e d a (by decide) (by decide) rfl
      (number _ word h (by omega))
  have hn := number _ word h (by omega)
  refine row word 1 87 _ h1 h2 ?_ hw
  show (if _ then _ else _) = _
  simp only [other 0 14 1 word (by omega), other 0 14 2 word (by omega), other 0 14 3 word (by omega),
    other 0 14 4 word (by omega), h3, h4, h5, h6, h7, Bool.false_and, Bool.true_and, Bool.and_self,
    Bool.false_eq_true, if_true, if_false]

theorem sighandCause (d : BitVec 7) : Statement (.sighandCause d) := by
  intro word hw h
  have h_d := d.isLt
  obtain ⟨h1, h2, h3, h4, h5⟩ :=
    shape14 word 215 1803550721 1 0 d (by decide) (by decide) rfl
      (number _ word h (by omega))
  refine row word 1 87 _ h1 h2 ?_ hw
  show (if _ then _ else _) = _
  simp only [h3, h4, h5, Bool.true_and, Bool.and_self, Bool.false_eq_true, if_true, if_false]

theorem sighandTaddr (d : BitVec 7) : Statement (.sighandTaddr d) := by
  intro word hw h
  have h_d := d.isLt
  obtain ⟨h1, h2, h3, h4, h5⟩ :=
    shape14 word 215 1803550722 2 0 d (by decide) (by decide) rfl
      (number _ word h (by omega))
  refine row word 1 87 _ h1 h2 ?_ hw
  show (if _ then _ else _) = _
  simp only [differs 0 14 2 1 word h4 rfl, h3, h4, h5, Bool.false_and, Bool.true_and, Bool.and_self,
    Bool.false_eq_true, if_true, if_false]

theorem sighandTmask (d : BitVec 7) : Statement (.sighandTmask d) := by
  intro word hw h
  have h_d := d.isLt
  obtain ⟨h1, h2, h3, h4, h5⟩ :=
    shape14 word 215 1803550723 3 0 d (by decide) (by decide) rfl
      (number _ word h (by omega))
  refine row word 1 87 _ h1 h2 ?_ hw
  show (if _ then _ else _) = _
  simp only [differs 0 14 3 1 word h4 rfl, differs 0 14 3 2 word h4 rfl, h3, h4, h5, Bool.false_and,
    Bool.true_and, Bool.and_self, Bool.false_eq_true, if_true, if_false]

theorem sighandFaddr (d : BitVec 7) : Statement (.sighandFaddr d) := by
  intro word hw h
  have h_d := d.isLt
  obtain ⟨h1, h2, h3, h4, h5⟩ :=
    shape14 word 215 1803550724 4 0 d (by decide) (by decide) rfl
      (number _ word h (by omega))
  refine row word 1 87 _ h1 h2 ?_ hw
  show (if _ then _ else _) = _
  simp only [differs 0 14 4 1 word h4 rfl, differs 0 14 4 2 word h4 rfl, differs 0 14 4 3 word h4 rfl, h3, h4,
    h5, Bool.false_and, Bool.true_and, Bool.and_self, Bool.false_eq_true, if_true, if_false]

theorem shape16 (word : BitVec 32) (k base v0 : Nat)
    (f0 : BitVec 7)
    (f1 : BitVec 9)
    (b0 : v0 < 128)
    (hb : base = k * 8388608 + v0 * 512)
    (hn : word.toNat = base + f0.toNat * 65536 + f1.toNat) :
    word.toNat / 1073741824 = k / 128 ∧
    word.toNat / 8388608 % 128 = k % 128 ∧
    bitsAt 16 7 word = f0 ∧
    bitsAt 0 9 word = f1 ∧
    fix 9 7 v0 word = true := by
  have h_f0 := f0.isLt
  have h_f1 := f1.isLt
  exact ⟨by omega,
    by omega,
    bits 16 7 word f0 (by omega),
    bits 0 9 word f1 (by omega),
    fixed 9 7 v0 word (by omega)⟩

theorem pget (d : BitVec 7) (sel : BitVec 9) : Statement (.pget d sel) := by
  intro word hw h
  have h_d := d.isLt
  have h_sel := sel.isLt
  obtain ⟨h1, h2, h3, h4, h5⟩ :=
    shape16 word 224 1879048192 0 d sel (by decide) rfl
      (number _ word h (by omega))
  refine row word 1 96 _ h1 h2 ?_ hw
  show take _ _ = _
  unfold take
  rw [h5, h3, h4]
  rfl

theorem pset (a : BitVec 7) (sel : BitVec 9) : Statement (.pset a sel) := by
  intro word hw h
  have h_a := a.isLt
  have h_sel := sel.isLt
  obtain ⟨h1, h2, h3, h4, h5⟩ :=
    shape7 word 225 1887436800 0 a sel (by decide) rfl
      (number _ word h (by omega))
  refine row word 1 97 _ h1 h2 ?_ hw
  show take _ _ = _
  unfold take
  rw [h5, h3, h4]
  rfl

theorem unpark (e g : Bool) (d a b : BitVec 7) : Statement (.unpark e g d a b) := by
  intro word hw h
  have h_e := flag e
  have h_g := flag g
  have h_d := d.isLt
  have h_a := a.isLt
  have h_b := b.isLt
  obtain ⟨h1, h2, h3, h4, h5, h6, h7⟩ :=
    shape1 word 226 1895825408 e g d a b rfl
      (number _ word h (by omega))
  refine row word 1 98 _ h1 h2 ?_ hw
  show Except.ok _ = _
  rw [h3, h4, h5, h6, h7]

theorem sig (e : Bool) (d a : BitVec 7) : Statement (.sig e d a) := by
  intro word hw h
  have h_e := flag e
  have h_d := d.isLt
  have h_a := a.isLt
  obtain ⟨h1, h2, h3, h4, h5, h6, h7⟩ :=
    shape2 word 227 1904214016 0 0 e d a (by decide) (by decide) rfl
      (number _ word h (by omega))
  refine row word 1 99 _ h1 h2 ?_ hw
  show take _ _ = _
  unfold take
  rw [h6, h7, h3, h4, h5]
  rfl

theorem tinj (e g : Bool) (d a b : BitVec 7) : Statement (.tinj e g d a b) := by
  intro word hw h
  have h_e := flag e
  have h_g := flag g
  have h_d := d.isLt
  have h_a := a.isLt
  have h_b := b.isLt
  obtain ⟨h1, h2, h3, h4, h5, h6, h7⟩ :=
    shape1 word 228 1912602624 e g d a b rfl
      (number _ word h (by omega))
  refine row word 1 100 _ h1 h2 ?_ hw
  show Except.ok _ = _
  rw [h3, h4, h5, h6, h7]

theorem swapo (e g : Bool) (d a b : BitVec 7) : Statement (.swapo e g d a b) := by
  intro word hw h
  have h_e := flag e
  have h_g := flag g
  have h_d := d.isLt
  have h_a := a.isLt
  have h_b := b.isLt
  obtain ⟨h1, h2, h3, h4, h5, h6, h7⟩ :=
    shape1 word 229 1920991232 e g d a b rfl
      (number _ word h (by omega))
  refine row word 1 101 _ h1 h2 ?_ hw
  show Except.ok _ = _
  rw [h3, h4, h5, h6, h7]

theorem swapi (e g : Bool) (d a b : BitVec 7) : Statement (.swapi e g d a b) := by
  intro word hw h
  have h_e := flag e
  have h_g := flag g
  have h_d := d.isLt
  have h_a := a.isLt
  have h_b := b.isLt
  obtain ⟨h1, h2, h3, h4, h5, h6, h7⟩ :=
    shape1 word 230 1929379840 e g d a b rfl
      (number _ word h (by omega))
  refine row word 1 102 _ h1 h2 ?_ hw
  show Except.ok _ = _
  rw [h3, h4, h5, h6, h7]

theorem sysrp (e g : Bool) (d a b : BitVec 7) : Statement (.sysrp e g d a b) := by
  intro word hw h
  have h_e := flag e
  have h_g := flag g
  have h_d := d.isLt
  have h_a := a.isLt
  have h_b := b.isLt
  obtain ⟨h1, h2, h3, h4, h5, h6, h7⟩ :=
    shape1 word 231 1937768448 e g d a b rfl
      (number _ word h (by omega))
  refine row word 1 103 _ h1 h2 ?_ hw
  show Except.ok _ = _
  rw [h3, h4, h5, h6, h7]

theorem tlbinv (e g : Bool) (a b : BitVec 7) : Statement (.tlbinv e g a b) := by
  intro word hw h
  have h_e := flag e
  have h_g := flag g
  have h_a := a.isLt
  have h_b := b.isLt
  obtain ⟨h1, h2, h3, h4, h5, h6, h7⟩ :=
    shape6 word 232 1946157056 0 e g a b (by decide) rfl
      (number _ word h (by omega))
  refine row word 1 104 _ h1 h2 ?_ hw
  show take _ _ = _
  unfold take
  rw [h7, h3, h4, h5, h6]
  rfl

theorem shape17 (word : BitVec 32) (k base v0 v1 : Nat)
    (f0 : BitVec 3)
    (b0 : v0 < 64)
    (b1 : v1 < 16384)
    (hb : base = k * 8388608 + v0 * 1 + v1 * 512)
    (hn : word.toNat = base + f0.toNat * 64) :
    word.toNat / 1073741824 = k / 128 ∧
    word.toNat / 8388608 % 128 = k % 128 ∧
    bitsAt 6 3 word = f0 ∧
    fix 0 6 v0 word = true ∧
    fix 9 14 v1 word = true := by
  have h_f0 := f0.isLt
  exact ⟨by omega,
    by omega,
    bits 6 3 word f0 (by omega),
    fixed 0 6 v0 word (by omega),
    fixed 9 14 v1 word (by omega)⟩

theorem tfence (sel : BitVec 3) : Statement (.tfence sel) := by
  intro word hw h
  have h_sel := sel.isLt
  obtain ⟨h1, h2, h3, h4, h5⟩ :=
    shape17 word 233 1954545664 0 0 sel (by decide) (by decide) rfl
      (number _ word h (by omega))
  refine row word 1 105 _ h1 h2 ?_ hw
  show take _ _ = _
  unfold take
  rw [h4, h5, h3]
  rfl

theorem tprobe (e g : Bool) (d a b : BitVec 7) : Statement (.tprobe e g d a b) := by
  intro word hw h
  have h_e := flag e
  have h_g := flag g
  have h_d := d.isLt
  have h_a := a.isLt
  have h_b := b.isLt
  obtain ⟨h1, h2, h3, h4, h5, h6, h7⟩ :=
    shape1 word 234 1962934272 e g d a b rfl
      (number _ word h (by omega))
  refine row word 1 106 _ h1 h2 ?_ hw
  show Except.ok _ = _
  rw [h3, h4, h5, h6, h7]

theorem aspill (e g : Bool) (d a b : BitVec 7) : Statement (.aspill e g d a b) := by
  intro word hw h
  have h_e := flag e
  have h_g := flag g
  have h_d := d.isLt
  have h_a := a.isLt
  have h_b := b.isLt
  obtain ⟨h1, h2, h3, h4, h5, h6, h7⟩ :=
    shape1 word 235 1971322880 e g d a b rfl
      (number _ word h (by omega))
  refine row word 1 107 _ h1 h2 ?_ hw
  show Except.ok _ = _
  rw [h3, h4, h5, h6, h7]

theorem afill (e g : Bool) (d a b : BitVec 7) : Statement (.afill e g d a b) := by
  intro word hw h
  have h_e := flag e
  have h_g := flag g
  have h_d := d.isLt
  have h_a := a.isLt
  have h_b := b.isLt
  obtain ⟨h1, h2, h3, h4, h5, h6, h7⟩ :=
    shape1 word 236 1979711488 e g d a b rfl
      (number _ word h (by omega))
  refine row word 1 108 _ h1 h2 ?_ hw
  show Except.ok _ = _
  rw [h3, h4, h5, h6, h7]

theorem chres (e g : Bool) (d a b : BitVec 7) : Statement (.chres e g d a b) := by
  intro word hw h
  have h_e := flag e
  have h_g := flag g
  have h_d := d.isLt
  have h_a := a.isLt
  have h_b := b.isLt
  obtain ⟨h1, h2, h3, h4, h5, h6, h7⟩ :=
    shape1 word 237 1988100096 e g d a b rfl
      (number _ word h (by omega))
  refine row word 1 109 _ h1 h2 ?_ hw
  show Except.ok _ = _
  rw [h3, h4, h5, h6, h7]

theorem chabt (e g : Bool) (d a b : BitVec 7) : Statement (.chabt e g d a b) := by
  intro word hw h
  have h_e := flag e
  have h_g := flag g
  have h_d := d.isLt
  have h_a := a.isLt
  have h_b := b.isLt
  obtain ⟨h1, h2, h3, h4, h5, h6, h7⟩ :=
    shape1 word 238 1996488704 e g d a b rfl
      (number _ word h (by omega))
  refine row word 1 110 _ h1 h2 ?_ hw
  show Except.ok _ = _
  rw [h3, h4, h5, h6, h7]

theorem lmapw (e g : Bool) (d a b : BitVec 7) : Statement (.lmapw e g d a b) := by
  intro word hw h
  have h_e := flag e
  have h_g := flag g
  have h_d := d.isLt
  have h_a := a.isLt
  have h_b := b.isLt
  obtain ⟨h1, h2, h3, h4, h5, h6, h7⟩ :=
    shape1 word 239 2004877312 e g d a b rfl
      (number _ word h (by omega))
  refine row word 1 111 _ h1 h2 ?_ hw
  show Except.ok _ = _
  rw [h3, h4, h5, h6, h7]

theorem chkmFloor (d a : BitVec 7) : Statement (.chkmFloor d a) := by
  intro word hw h
  have h_d := d.isLt
  have h_a := a.isLt
  obtain ⟨h1, h2, h3, h4, h5⟩ :=
    shape10 word 240 2013265920 0 d a (by decide) rfl
      (number _ word h (by omega))
  refine row word 1 112 _ h1 h2 ?_ hw
  show (if _ then _ else _) = _
  simp only [h3, h4, h5, Bool.and_self, Bool.false_eq_true, if_true, if_false]

theorem chkmLmap (d a : BitVec 7) : Statement (.chkmLmap d a) := by
  intro word hw h
  have h_d := d.isLt
  have h_a := a.isLt
  obtain ⟨h1, h2, h3, h4, h5⟩ :=
    shape10 word 240 2013265921 1 d a (by decide) rfl
      (number _ word h (by omega))
  refine row word 1 112 _ h1 h2 ?_ hw
  show (if _ then _ else _) = _
  simp only [differs 0 9 1 0 word h5 rfl, h3, h4, h5, Bool.false_and, Bool.and_self, Bool.false_eq_true, if_true,
    if_false]

theorem chkmLfail (d a : BitVec 7) : Statement (.chkmLfail d a) := by
  intro word hw h
  have h_d := d.isLt
  have h_a := a.isLt
  obtain ⟨h1, h2, h3, h4, h5⟩ :=
    shape10 word 240 2013265922 2 d a (by decide) rfl
      (number _ word h (by omega))
  refine row word 1 112 _ h1 h2 ?_ hw
  show (if _ then _ else _) = _
  simp only [differs 0 9 2 0 word h5 rfl, differs 0 9 2 1 word h5 rfl, h3, h4, h5, Bool.false_and, Bool.and_self,
    Bool.false_eq_true, if_true, if_false]

theorem chkmCmap (d a : BitVec 7) : Statement (.chkmCmap d a) := by
  intro word hw h
  have h_d := d.isLt
  have h_a := a.isLt
  obtain ⟨h1, h2, h3, h4, h5⟩ :=
    shape10 word 240 2013265923 3 d a (by decide) rfl
      (number _ word h (by omega))
  refine row word 1 112 _ h1 h2 ?_ hw
  show (if _ then _ else _) = _
  simp only [differs 0 9 3 0 word h5 rfl, differs 0 9 3 1 word h5 rfl, differs 0 9 3 2 word h5 rfl, h3, h4, h5,
    Bool.false_and, Bool.and_self, Bool.false_eq_true, if_true, if_false]

theorem chkmCnt (d a : BitVec 7) : Statement (.chkmCnt d a) := by
  intro word hw h
  have h_d := d.isLt
  have h_a := a.isLt
  obtain ⟨h1, h2, h3, h4, h5⟩ :=
    shape10 word 240 2013265924 4 d a (by decide) rfl
      (number _ word h (by omega))
  refine row word 1 112 _ h1 h2 ?_ hw
  show (if _ then _ else _) = _
  simp only [differs 0 9 4 0 word h5 rfl, differs 0 9 4 1 word h5 rfl, differs 0 9 4 2 word h5 rfl,
    differs 0 9 4 3 word h5 rfl, h3, h4, h5, Bool.false_and, Bool.and_self, Bool.false_eq_true, if_true, if_false]

theorem chkmClr (d a : BitVec 7) : Statement (.chkmClr d a) := by
  intro word hw h
  have h_d := d.isLt
  have h_a := a.isLt
  obtain ⟨h1, h2, h3, h4, h5⟩ :=
    shape10 word 240 2013265925 5 d a (by decide) rfl
      (number _ word h (by omega))
  refine row word 1 112 _ h1 h2 ?_ hw
  show (if _ then _ else _) = _
  simp only [differs 0 9 5 0 word h5 rfl, differs 0 9 5 1 word h5 rfl, differs 0 9 5 2 word h5 rfl,
    differs 0 9 5 3 word h5 rfl, differs 0 9 5 4 word h5 rfl, h3, h4, h5, Bool.false_and, Bool.and_self,
    Bool.false_eq_true, if_true, if_false]

theorem shape18 (word : BitVec 32) (k base v0 : Nat)
    (f0 : Bool)
    (f1 : BitVec 7)
    (f2 : BitVec 7)
    (f3 : BitVec 7)
    (b0 : v0 < 2)
    (hb : base = k * 8388608 + v0 * 4194304)
    (hn : word.toNat = base + f0.toNat * 2097152 + f1.toNat * 16384 + f2.toNat * 128 + f3.toNat) :
    word.toNat / 1073741824 = k / 128 ∧
    word.toNat / 8388608 % 128 = k % 128 ∧
    bitAt 21 word = f0 ∧
    bitsAt 14 7 word = f1 ∧
    bitsAt 7 7 word = f2 ∧
    bitsAt 0 7 word = f3 ∧
    fix 22 1 v0 word = true := by
  have h_f0 := flag f0
  have h_f1 := f1.isLt
  have h_f2 := f2.isLt
  have h_f3 := f3.isLt
  exact ⟨by omega,
    by omega,
    bit 21 word f0 (by omega),
    bits 14 7 word f1 (by omega),
    bits 7 7 word f2 (by omega),
    bits 0 7 word f3 (by omega),
    fixed 22 1 v0 word (by omega)⟩

theorem trcfg (g : Bool) (d sel b : BitVec 7) : Statement (.trcfg g d sel b) := by
  intro word hw h
  have h_g := flag g
  have h_d := d.isLt
  have h_sel := sel.isLt
  have h_b := b.isLt
  obtain ⟨h1, h2, h3, h4, h5, h6, h7⟩ :=
    shape18 word 241 2021654528 0 g d sel b (by decide) rfl
      (number _ word h (by omega))
  refine row word 1 113 _ h1 h2 ?_ hw
  show take _ _ = _
  unfold take
  rw [h7, h3, h4, h5, h6]
  rfl

theorem bpset (e g : Bool) (d a b : BitVec 7) : Statement (.bpset e g d a b) := by
  intro word hw h
  have h_e := flag e
  have h_g := flag g
  have h_d := d.isLt
  have h_a := a.isLt
  have h_b := b.isLt
  obtain ⟨h1, h2, h3, h4, h5, h6, h7⟩ :=
    shape1 word 242 2030043136 e g d a b rfl
      (number _ word h (by omega))
  refine row word 1 114 _ h1 h2 ?_ hw
  show Except.ok _ = _
  rw [h3, h4, h5, h6, h7]

theorem wpset (e g : Bool) (d a b : BitVec 7) : Statement (.wpset e g d a b) := by
  intro word hw h
  have h_e := flag e
  have h_g := flag g
  have h_d := d.isLt
  have h_a := a.isLt
  have h_b := b.isLt
  obtain ⟨h1, h2, h3, h4, h5, h6, h7⟩ :=
    shape1 word 243 2038431744 e g d a b rfl
      (number _ word h (by omega))
  refine row word 1 115 _ h1 h2 ?_ hw
  show Except.ok _ = _
  rw [h3, h4, h5, h6, h7]

theorem shape19 (word : BitVec 32) (k base v0 : Nat)
    (f0 : BitVec 7)
    (f1 : BitVec 5)
    (b0 : v0 < 2048)
    (hb : base = k * 8388608 + v0 * 32)
    (hn : word.toNat = base + f0.toNat * 65536 + f1.toNat) :
    word.toNat / 1073741824 = k / 128 ∧
    word.toNat / 8388608 % 128 = k % 128 ∧
    bitsAt 16 7 word = f0 ∧
    bitsAt 0 5 word = f1 ∧
    fix 5 11 v0 word = true := by
  have h_f0 := f0.isLt
  have h_f1 := f1.isLt
  exact ⟨by omega,
    by omega,
    bits 16 7 word f0 (by omega),
    bits 0 5 word f1 (by omega),
    fixed 5 11 v0 word (by omega)⟩

theorem smpl (d : BitVec 7) (p : BitVec 5) : Statement (.smpl d p) := by
  intro word hw h
  have h_d := d.isLt
  have h_p := p.isLt
  obtain ⟨h1, h2, h3, h4, h5⟩ :=
    shape19 word 244 2046820352 0 d p (by decide) rfl
      (number _ word h (by omega))
  refine row word 1 116 _ h1 h2 ?_ hw
  show take _ _ = _
  unfold take
  rw [h5, h3, h4]
  rfl

theorem garmShare (e g : Bool) (d a b : BitVec 7) : Statement (.garmShare e g d a b) := by
  intro word hw h
  have h_e := flag e
  have h_g := flag g
  have h_d := d.isLt
  have h_a := a.isLt
  have h_b := b.isLt
  obtain ⟨h1, h2, h3, h4, h5, h6, h7⟩ :=
    shape1 word 245 2055208960 e g d a b rfl
      (number _ word h (by omega))
  refine row word 1 117 _ h1 h2 ?_ hw
  show Except.ok _ = _
  rw [h3, h4, h5, h6, h7]

theorem garmRead (e g : Bool) (d a b : BitVec 7) : Statement (.garmRead e g d a b) := by
  intro word hw
  exact absurd hw Bool.false_ne_true

theorem garmRelease (e g : Bool) (d a b : BitVec 7) : Statement (.garmRelease e g d a b) := by
  intro word hw
  exact absurd hw Bool.false_ne_true

theorem dcfg (g : Bool) (d sel b : BitVec 7) : Statement (.dcfg g d sel b) := by
  intro word hw h
  have h_g := flag g
  have h_d := d.isLt
  have h_sel := sel.isLt
  have h_b := b.isLt
  obtain ⟨h1, h2, h3, h4, h5, h6, h7⟩ :=
    shape18 word 246 2063597568 0 g d sel b (by decide) rfl
      (number _ word h (by omega))
  have hn := number _ word h (by omega)
  refine row word 1 118 _ h1 h2 ?_ hw
  have hs : sel.toNat ≤ 9 ∨ 64 ≤ sel.toNat := by
    simp only [Instr.wellFormed, Bool.and_eq_true, Bool.or_eq_true, decide_eq_true_eq] at hw; omega
  show (if _ then _ else _) = _
  simp only [other 7 7 20 word (by omega), other 7 7 19 word (by omega), other 7 7 18 word (by omega),
    other 7 7 17 word (by omega), other 7 7 16 word (by omega), h3, h4, h5, h6, h7, Bool.false_and, Bool.and_self,
    Bool.false_eq_true, if_true, if_false]

theorem shape20 (word : BitVec 32) (k base v0 v1 : Nat)
    (f0 : Bool)
    (f1 : BitVec 7)
    (f2 : BitVec 7)
    (b0 : v0 < 128)
    (b1 : v1 < 2)
    (hb : base = k * 8388608 + v0 * 128 + v1 * 4194304)
    (hn : word.toNat = base + f0.toNat * 2097152 + f1.toNat * 16384 + f2.toNat) :
    word.toNat / 1073741824 = k / 128 ∧
    word.toNat / 8388608 % 128 = k % 128 ∧
    bitAt 21 word = f0 ∧
    bitsAt 14 7 word = f1 ∧
    bitsAt 0 7 word = f2 ∧
    fix 7 7 v0 word = true ∧
    fix 22 1 v1 word = true := by
  have h_f0 := flag f0
  have h_f1 := f1.isLt
  have h_f2 := f2.isLt
  exact ⟨by omega,
    by omega,
    bit 21 word f0 (by omega),
    bits 14 7 word f1 (by omega),
    bits 0 7 word f2 (by omega),
    fixed 7 7 v0 word (by omega),
    fixed 22 1 v1 word (by omega)⟩

theorem carve (g : Bool) (d b : BitVec 7) : Statement (.carve g d b) := by
  intro word hw h
  have h_g := flag g
  have h_d := d.isLt
  have h_b := b.isLt
  obtain ⟨h1, h2, h3, h4, h5, h6, h7⟩ :=
    shape20 word 246 2063599616 16 0 g d b (by decide) (by decide) rfl
      (number _ word h (by omega))
  refine row word 1 118 _ h1 h2 ?_ hw
  show (if _ then _ else _) = _
  simp only [h3, h4, h5, h6, h7, Bool.true_and, Bool.and_self, Bool.false_eq_true, if_true, if_false]

theorem ctxon (g : Bool) (d b : BitVec 7) : Statement (.ctxon g d b) := by
  intro word hw h
  have h_g := flag g
  have h_d := d.isLt
  have h_b := b.isLt
  obtain ⟨h1, h2, h3, h4, h5, h6, h7⟩ :=
    shape20 word 246 2063599744 17 0 g d b (by decide) (by decide) rfl
      (number _ word h (by omega))
  refine row word 1 118 _ h1 h2 ?_ hw
  show (if _ then _ else _) = _
  simp only [differs 7 7 17 16 word h6 rfl, h3, h4, h5, h6, h7, Bool.false_and, Bool.true_and, Bool.and_self,
    Bool.false_eq_true, if_true, if_false]

theorem ctxoff (g : Bool) (d b : BitVec 7) : Statement (.ctxoff g d b) := by
  intro word hw h
  have h_g := flag g
  have h_d := d.isLt
  have h_b := b.isLt
  obtain ⟨h1, h2, h3, h4, h5, h6, h7⟩ :=
    shape20 word 246 2063599872 18 0 g d b (by decide) (by decide) rfl
      (number _ word h (by omega))
  refine row word 1 118 _ h1 h2 ?_ hw
  show (if _ then _ else _) = _
  simp only [differs 7 7 18 16 word h6 rfl, differs 7 7 18 17 word h6 rfl, h3, h4, h5, h6, h7, Bool.false_and,
    Bool.true_and, Bool.and_self, Bool.false_eq_true, if_true, if_false]

theorem qarm (g : Bool) (d b : BitVec 7) : Statement (.qarm g d b) := by
  intro word hw h
  have h_g := flag g
  have h_d := d.isLt
  have h_b := b.isLt
  obtain ⟨h1, h2, h3, h4, h5, h6, h7⟩ :=
    shape20 word 246 2063600000 19 0 g d b (by decide) (by decide) rfl
      (number _ word h (by omega))
  refine row word 1 118 _ h1 h2 ?_ hw
  show (if _ then _ else _) = _
  simp only [differs 7 7 19 16 word h6 rfl, differs 7 7 19 17 word h6 rfl, differs 7 7 19 18 word h6 rfl, h3, h4,
    h5, h6, h7, Bool.false_and, Bool.true_and, Bool.and_self, Bool.false_eq_true, if_true, if_false]

theorem kill (g : Bool) (d b : BitVec 7) : Statement (.kill g d b) := by
  intro word hw h
  have h_g := flag g
  have h_d := d.isLt
  have h_b := b.isLt
  obtain ⟨h1, h2, h3, h4, h5, h6, h7⟩ :=
    shape20 word 246 2063600128 20 0 g d b (by decide) (by decide) rfl
      (number _ word h (by omega))
  refine row word 1 118 _ h1 h2 ?_ hw
  show (if _ then _ else _) = _
  simp only [differs 7 7 20 16 word h6 rfl, differs 7 7 20 17 word h6 rfl, differs 7 7 20 18 word h6 rfl,
    differs 7 7 20 19 word h6 rfl, h3, h4, h5, h6, h7, Bool.false_and, Bool.true_and, Bool.and_self,
    Bool.false_eq_true, if_true, if_false]

theorem vreq (e g : Bool) (d a b : BitVec 7) : Statement (.vreq e g d a b) := by
  intro word hw h
  have h_e := flag e
  have h_g := flag g
  have h_d := d.isLt
  have h_a := a.isLt
  have h_b := b.isLt
  obtain ⟨h1, h2, h3, h4, h5, h6, h7⟩ :=
    shape1 word 247 2071986176 e g d a b rfl
      (number _ word h (by omega))
  refine row word 1 119 _ h1 h2 ?_ hw
  show Except.ok _ = _
  rw [h3, h4, h5, h6, h7]

theorem halt (e : Bool) (d a : BitVec 7) : Statement (.halt e d a) := by
  intro word hw h
  have h_e := flag e
  have h_d := d.isLt
  have h_a := a.isLt
  obtain ⟨h1, h2, h3, h4, h5, h6, h7⟩ :=
    shape2 word 248 2080374784 0 0 e d a (by decide) (by decide) rfl
      (number _ word h (by omega))
  refine row word 1 120 _ h1 h2 ?_ hw
  show take _ _ = _
  unfold take
  rw [h6, h7, h3, h4, h5]
  rfl

theorem resm (e : Bool) (d a : BitVec 7) : Statement (.resm e d a) := by
  intro word hw h
  have h_e := flag e
  have h_d := d.isLt
  have h_a := a.isLt
  obtain ⟨h1, h2, h3, h4, h5, h6, h7⟩ :=
    shape2 word 249 2088763392 0 0 e d a (by decide) (by decide) rfl
      (number _ word h (by omega))
  refine row word 1 121 _ h1 h2 ?_ hw
  show take _ _ = _
  unfold take
  rw [h6, h7, h3, h4, h5]
  rfl

theorem intfwAck (e g : Bool) (d a b : BitVec 7) : Statement (.intfwAck e g d a b) := by
  intro word hw h
  have h_e := flag e
  have h_g := flag g
  have h_d := d.isLt
  have h_a := a.isLt
  have h_b := b.isLt
  obtain ⟨h1, h2, h3, h4, h5, h6, h7⟩ :=
    shape1 word 250 2097152000 e g d a b rfl
      (number _ word h (by omega))
  refine row word 1 122 _ h1 h2 ?_ hw
  show Except.ok _ = _
  rw [h3, h4, h5, h6, h7]

theorem intfwFwd (e g : Bool) (d a b : BitVec 7) : Statement (.intfwFwd e g d a b) := by
  intro word hw
  exact absurd hw Bool.false_ne_true

theorem intfwRaise (e g : Bool) (d a b : BitVec 7) : Statement (.intfwRaise e g d a b) := by
  intro word hw
  exact absurd hw Bool.false_ne_true

theorem intfwSend (e g : Bool) (d a b : BitVec 7) : Statement (.intfwSend e g d a b) := by
  intro word hw
  exact absurd hw Bool.false_ne_true

theorem ldb (d a : BitVec 7) (i : BitVec 9) : Statement (.ldb d a i) := by
  intro word hw h
  have h_d := d.isLt
  have h_a := a.isLt
  have h_i := i.isLt
  obtain ⟨h1, h2, h3, h4, h5⟩ :=
    shape3 word 256 2147483648 d a i rfl
      (number _ word h (by omega))
  refine row word 2 0 _ h1 h2 ?_ hw
  show Except.ok _ = _
  rw [h3, h4, h5]

theorem ldbs (d a : BitVec 7) (i : BitVec 9) : Statement (.ldbs d a i) := by
  intro word hw h
  have h_d := d.isLt
  have h_a := a.isLt
  have h_i := i.isLt
  obtain ⟨h1, h2, h3, h4, h5⟩ :=
    shape3 word 257 2155872256 d a i rfl
      (number _ word h (by omega))
  refine row word 2 1 _ h1 h2 ?_ hw
  show Except.ok _ = _
  rw [h3, h4, h5]

theorem ldh (d a : BitVec 7) (i : BitVec 9) : Statement (.ldh d a i) := by
  intro word hw h
  have h_d := d.isLt
  have h_a := a.isLt
  have h_i := i.isLt
  obtain ⟨h1, h2, h3, h4, h5⟩ :=
    shape3 word 258 2164260864 d a i rfl
      (number _ word h (by omega))
  refine row word 2 2 _ h1 h2 ?_ hw
  show Except.ok _ = _
  rw [h3, h4, h5]

theorem ldhs (d a : BitVec 7) (i : BitVec 9) : Statement (.ldhs d a i) := by
  intro word hw h
  have h_d := d.isLt
  have h_a := a.isLt
  have h_i := i.isLt
  obtain ⟨h1, h2, h3, h4, h5⟩ :=
    shape3 word 259 2172649472 d a i rfl
      (number _ word h (by omega))
  refine row word 2 3 _ h1 h2 ?_ hw
  show Except.ok _ = _
  rw [h3, h4, h5]

theorem ldw (d a : BitVec 7) (i : BitVec 9) : Statement (.ldw d a i) := by
  intro word hw h
  have h_d := d.isLt
  have h_a := a.isLt
  have h_i := i.isLt
  obtain ⟨h1, h2, h3, h4, h5⟩ :=
    shape3 word 260 2181038080 d a i rfl
      (number _ word h (by omega))
  refine row word 2 4 _ h1 h2 ?_ hw
  show Except.ok _ = _
  rw [h3, h4, h5]

theorem ldd (d a : BitVec 7) (i : BitVec 9) : Statement (.ldd d a i) := by
  intro word hw h
  have h_d := d.isLt
  have h_a := a.isLt
  have h_i := i.isLt
  obtain ⟨h1, h2, h3, h4, h5⟩ :=
    shape3 word 261 2189426688 d a i rfl
      (number _ word h (by omega))
  refine row word 2 5 _ h1 h2 ?_ hw
  show Except.ok _ = _
  rw [h3, h4, h5]

theorem ldq (d a : BitVec 7) (i : BitVec 9) : Statement (.ldq d a i) := by
  intro word hw h
  have h_d := d.isLt
  have h_a := a.isLt
  have h_i := i.isLt
  obtain ⟨h1, h2, h3, h4, h5⟩ :=
    shape3 word 262 2197815296 d a i rfl
      (number _ word h (by omega))
  refine row word 2 6 _ h1 h2 ?_ hw
  show Except.ok _ = _
  rw [h3, h4, h5]

theorem stb (d a : BitVec 7) (i : BitVec 9) : Statement (.stb d a i) := by
  intro word hw h
  have h_d := d.isLt
  have h_a := a.isLt
  have h_i := i.isLt
  obtain ⟨h1, h2, h3, h4, h5⟩ :=
    shape3 word 263 2206203904 d a i rfl
      (number _ word h (by omega))
  refine row word 2 7 _ h1 h2 ?_ hw
  show Except.ok _ = _
  rw [h3, h4, h5]

theorem sth (d a : BitVec 7) (i : BitVec 9) : Statement (.sth d a i) := by
  intro word hw h
  have h_d := d.isLt
  have h_a := a.isLt
  have h_i := i.isLt
  obtain ⟨h1, h2, h3, h4, h5⟩ :=
    shape3 word 264 2214592512 d a i rfl
      (number _ word h (by omega))
  refine row word 2 8 _ h1 h2 ?_ hw
  show Except.ok _ = _
  rw [h3, h4, h5]

theorem stw (d a : BitVec 7) (i : BitVec 9) : Statement (.stw d a i) := by
  intro word hw h
  have h_d := d.isLt
  have h_a := a.isLt
  have h_i := i.isLt
  obtain ⟨h1, h2, h3, h4, h5⟩ :=
    shape3 word 265 2222981120 d a i rfl
      (number _ word h (by omega))
  refine row word 2 9 _ h1 h2 ?_ hw
  show Except.ok _ = _
  rw [h3, h4, h5]

theorem std (d a : BitVec 7) (i : BitVec 9) : Statement (.std d a i) := by
  intro word hw h
  have h_d := d.isLt
  have h_a := a.isLt
  have h_i := i.isLt
  obtain ⟨h1, h2, h3, h4, h5⟩ :=
    shape3 word 266 2231369728 d a i rfl
      (number _ word h (by omega))
  refine row word 2 10 _ h1 h2 ?_ hw
  show Except.ok _ = _
  rw [h3, h4, h5]

theorem stq (d a : BitVec 7) (i : BitVec 9) : Statement (.stq d a i) := by
  intro word hw h
  have h_d := d.isLt
  have h_a := a.isLt
  have h_i := i.isLt
  obtain ⟨h1, h2, h3, h4, h5⟩ :=
    shape3 word 267 2239758336 d a i rfl
      (number _ word h (by omega))
  refine row word 2 11 _ h1 h2 ?_ hw
  show Except.ok _ = _
  rw [h3, h4, h5]

theorem sld (d a : BitVec 7) (i : BitVec 9) : Statement (.sld d a i) := by
  intro word hw h
  have h_d := d.isLt
  have h_a := a.isLt
  have h_i := i.isLt
  obtain ⟨h1, h2, h3, h4, h5⟩ :=
    shape3 word 268 2248146944 d a i rfl
      (number _ word h (by omega))
  refine row word 2 12 _ h1 h2 ?_ hw
  show Except.ok _ = _
  rw [h3, h4, h5]

theorem sldw (d a : BitVec 7) (i : BitVec 9) : Statement (.sldw d a i) := by
  intro word hw h
  have h_d := d.isLt
  have h_a := a.isLt
  have h_i := i.isLt
  obtain ⟨h1, h2, h3, h4, h5⟩ :=
    shape3 word 269 2256535552 d a i rfl
      (number _ word h (by omega))
  refine row word 2 13 _ h1 h2 ?_ hw
  show Except.ok _ = _
  rw [h3, h4, h5]

theorem sst (d a : BitVec 7) (i : BitVec 9) : Statement (.sst d a i) := by
  intro word hw h
  have h_d := d.isLt
  have h_a := a.isLt
  have h_i := i.isLt
  obtain ⟨h1, h2, h3, h4, h5⟩ :=
    shape3 word 270 2264924160 d a i rfl
      (number _ word h (by omega))
  refine row word 2 14 _ h1 h2 ?_ hw
  show Except.ok _ = _
  rw [h3, h4, h5]

theorem sstw (d a : BitVec 7) (i : BitVec 9) : Statement (.sstw d a i) := by
  intro word hw h
  have h_d := d.isLt
  have h_a := a.isLt
  have h_i := i.isLt
  obtain ⟨h1, h2, h3, h4, h5⟩ :=
    shape3 word 271 2273312768 d a i rfl
      (number _ word h (by omega))
  refine row word 2 15 _ h1 h2 ?_ hw
  show Except.ok _ = _
  rw [h3, h4, h5]

theorem ldwx (e g : Bool) (d a b : BitVec 7) : Statement (.ldwx e g d a b) := by
  intro word hw h
  have h_e := flag e
  have h_g := flag g
  have h_d := d.isLt
  have h_a := a.isLt
  have h_b := b.isLt
  obtain ⟨h1, h2, h3, h4, h5, h6, h7⟩ :=
    shape1 word 272 2281701376 e g d a b rfl
      (number _ word h (by omega))
  refine row word 2 16 _ h1 h2 ?_ hw
  show Except.ok _ = _
  rw [h3, h4, h5, h6, h7]

theorem stwx (e g : Bool) (d a b : BitVec 7) : Statement (.stwx e g d a b) := by
  intro word hw h
  have h_e := flag e
  have h_g := flag g
  have h_d := d.isLt
  have h_a := a.isLt
  have h_b := b.isLt
  obtain ⟨h1, h2, h3, h4, h5, h6, h7⟩ :=
    shape1 word 273 2290089984 e g d a b rfl
      (number _ word h (by omega))
  refine row word 2 17 _ h1 h2 ?_ hw
  show Except.ok _ = _
  rw [h3, h4, h5, h6, h7]

theorem shape21 (word : BitVec 32) (k base v0 : Nat)
    (f0 : BitVec 7)
    (f1 : BitVec 7)
    (f2 : BitVec 3)
    (f3 : BitVec 2)
    (b0 : v0 < 16)
    (hb : base = k * 8388608 + v0 * 1)
    (hn : word.toNat = base + f0.toNat * 65536 + f1.toNat * 512 + f2.toNat * 64 + f3.toNat * 16) :
    word.toNat / 1073741824 = k / 128 ∧
    word.toNat / 8388608 % 128 = k % 128 ∧
    bitsAt 16 7 word = f0 ∧
    bitsAt 9 7 word = f1 ∧
    bitsAt 6 3 word = f2 ∧
    bitsAt 4 2 word = f3 ∧
    fix 0 4 v0 word = true := by
  have h_f0 := f0.isLt
  have h_f1 := f1.isLt
  have h_f2 := f2.isLt
  have h_f3 := f3.isLt
  exact ⟨by omega,
    by omega,
    bits 16 7 word f0 (by omega),
    bits 9 7 word f1 (by omega),
    bits 6 3 word f2 (by omega),
    bits 4 2 word f3 (by omega),
    fixed 0 4 v0 word (by omega)⟩

theorem lda (d a : BitVec 7) (sel : BitVec 3) (z : BitVec 2) : Statement (.lda d a sel z) := by
  intro word hw h
  have h_d := d.isLt
  have h_a := a.isLt
  have h_sel := sel.isLt
  have h_z := z.isLt
  obtain ⟨h1, h2, h3, h4, h5, h6, h7⟩ :=
    shape21 word 274 2298478592 0 d a sel z (by decide) rfl
      (number _ word h (by omega))
  refine row word 2 18 _ h1 h2 ?_ hw
  show take _ _ = _
  unfold take
  rw [h7, h3, h4, h5, h6]
  rfl

theorem stl (d a : BitVec 7) (sel : BitVec 3) (z : BitVec 2) : Statement (.stl d a sel z) := by
  intro word hw h
  have h_d := d.isLt
  have h_a := a.isLt
  have h_sel := sel.isLt
  have h_z := z.isLt
  obtain ⟨h1, h2, h3, h4, h5, h6, h7⟩ :=
    shape21 word 275 2306867200 0 d a sel z (by decide) rfl
      (number _ word h (by omega))
  refine row word 2 19 _ h1 h2 ?_ hw
  show take _ _ = _
  unfold take
  rw [h7, h3, h4, h5, h6]
  rfl

theorem fence (sel : BitVec 3) : Statement (.fence sel) := by
  intro word hw h
  have h_sel := sel.isLt
  obtain ⟨h1, h2, h3, h4, h5⟩ :=
    shape17 word 276 2315255808 0 0 sel (by decide) (by decide) rfl
      (number _ word h (by omega))
  refine row word 2 20 _ h1 h2 ?_ hw
  show take _ _ = _
  unfold take
  rw [h4, h5, h3]
  rfl

theorem shape22 (word : BitVec 32) (k base v0 : Nat)
    (f0 : BitVec 3)
    (f1 : BitVec 3)
    (f2 : BitVec 3)
    (b0 : v0 < 16384)
    (hb : base = k * 8388608 + v0 * 512)
    (hn : word.toNat = base + f0.toNat * 64 + f1.toNat * 8 + f2.toNat) :
    word.toNat / 1073741824 = k / 128 ∧
    word.toNat / 8388608 % 128 = k % 128 ∧
    bitsAt 6 3 word = f0 ∧
    bitsAt 3 3 word = f1 ∧
    bitsAt 0 3 word = f2 ∧
    fix 9 14 v0 word = true := by
  have h_f0 := f0.isLt
  have h_f1 := f1.isLt
  have h_f2 := f2.isLt
  exact ⟨by omega,
    by omega,
    bits 6 3 word f0 (by omega),
    bits 3 3 word f1 (by omega),
    bits 0 3 word f2 (by omega),
    fixed 9 14 v0 word (by omega)⟩

theorem xfence (sel p q : BitVec 3) : Statement (.xfence sel p q) := by
  intro word hw h
  have h_sel := sel.isLt
  have h_p := p.isLt
  have h_q := q.isLt
  obtain ⟨h1, h2, h3, h4, h5, h6⟩ :=
    shape22 word 277 2323644416 0 sel p q (by decide) rfl
      (number _ word h (by omega))
  refine row word 2 21 _ h1 h2 ?_ hw
  show take _ _ = _
  unfold take
  rw [h6, h3, h4, h5]
  rfl

theorem atadd (e g : Bool) (d a b : BitVec 7) : Statement (.atadd e g d a b) := by
  intro word hw h
  have h_e := flag e
  have h_g := flag g
  have h_d := d.isLt
  have h_a := a.isLt
  have h_b := b.isLt
  obtain ⟨h1, h2, h3, h4, h5, h6, h7⟩ :=
    shape1 word 278 2332033024 e g d a b rfl
      (number _ word h (by omega))
  refine row word 2 22 _ h1 h2 ?_ hw
  show Except.ok _ = _
  rw [h3, h4, h5, h6, h7]

theorem atmins (e g : Bool) (d a b : BitVec 7) : Statement (.atmins e g d a b) := by
  intro word hw h
  have h_e := flag e
  have h_g := flag g
  have h_d := d.isLt
  have h_a := a.isLt
  have h_b := b.isLt
  obtain ⟨h1, h2, h3, h4, h5, h6, h7⟩ :=
    shape1 word 279 2340421632 e g d a b rfl
      (number _ word h (by omega))
  refine row word 2 23 _ h1 h2 ?_ hw
  show Except.ok _ = _
  rw [h3, h4, h5, h6, h7]

theorem atminu (e g : Bool) (d a b : BitVec 7) : Statement (.atminu e g d a b) := by
  intro word hw h
  have h_e := flag e
  have h_g := flag g
  have h_d := d.isLt
  have h_a := a.isLt
  have h_b := b.isLt
  obtain ⟨h1, h2, h3, h4, h5, h6, h7⟩ :=
    shape1 word 280 2348810240 e g d a b rfl
      (number _ word h (by omega))
  refine row word 2 24 _ h1 h2 ?_ hw
  show Except.ok _ = _
  rw [h3, h4, h5, h6, h7]

theorem atmaxs (e g : Bool) (d a b : BitVec 7) : Statement (.atmaxs e g d a b) := by
  intro word hw h
  have h_e := flag e
  have h_g := flag g
  have h_d := d.isLt
  have h_a := a.isLt
  have h_b := b.isLt
  obtain ⟨h1, h2, h3, h4, h5, h6, h7⟩ :=
    shape1 word 281 2357198848 e g d a b rfl
      (number _ word h (by omega))
  refine row word 2 25 _ h1 h2 ?_ hw
  show Except.ok _ = _
  rw [h3, h4, h5, h6, h7]

theorem atmaxu (e g : Bool) (d a b : BitVec 7) : Statement (.atmaxu e g d a b) := by
  intro word hw h
  have h_e := flag e
  have h_g := flag g
  have h_d := d.isLt
  have h_a := a.isLt
  have h_b := b.isLt
  obtain ⟨h1, h2, h3, h4, h5, h6, h7⟩ :=
    shape1 word 282 2365587456 e g d a b rfl
      (number _ word h (by omega))
  refine row word 2 26 _ h1 h2 ?_ hw
  show Except.ok _ = _
  rw [h3, h4, h5, h6, h7]

theorem atand (e g : Bool) (d a b : BitVec 7) : Statement (.atand e g d a b) := by
  intro word hw h
  have h_e := flag e
  have h_g := flag g
  have h_d := d.isLt
  have h_a := a.isLt
  have h_b := b.isLt
  obtain ⟨h1, h2, h3, h4, h5, h6, h7⟩ :=
    shape1 word 283 2373976064 e g d a b rfl
      (number _ word h (by omega))
  refine row word 2 27 _ h1 h2 ?_ hw
  show Except.ok _ = _
  rw [h3, h4, h5, h6, h7]

theorem ator (e g : Bool) (d a b : BitVec 7) : Statement (.ator e g d a b) := by
  intro word hw h
  have h_e := flag e
  have h_g := flag g
  have h_d := d.isLt
  have h_a := a.isLt
  have h_b := b.isLt
  obtain ⟨h1, h2, h3, h4, h5, h6, h7⟩ :=
    shape1 word 284 2382364672 e g d a b rfl
      (number _ word h (by omega))
  refine row word 2 28 _ h1 h2 ?_ hw
  show Except.ok _ = _
  rw [h3, h4, h5, h6, h7]

theorem atxor (e g : Bool) (d a b : BitVec 7) : Statement (.atxor e g d a b) := by
  intro word hw h
  have h_e := flag e
  have h_g := flag g
  have h_d := d.isLt
  have h_a := a.isLt
  have h_b := b.isLt
  obtain ⟨h1, h2, h3, h4, h5, h6, h7⟩ :=
    shape1 word 285 2390753280 e g d a b rfl
      (number _ word h (by omega))
  refine row word 2 29 _ h1 h2 ?_ hw
  show Except.ok _ = _
  rw [h3, h4, h5, h6, h7]

theorem atxchg (e g : Bool) (d a b : BitVec 7) : Statement (.atxchg e g d a b) := by
  intro word hw h
  have h_e := flag e
  have h_g := flag g
  have h_d := d.isLt
  have h_a := a.isLt
  have h_b := b.isLt
  obtain ⟨h1, h2, h3, h4, h5, h6, h7⟩ :=
    shape1 word 286 2399141888 e g d a b rfl
      (number _ word h (by omega))
  refine row word 2 30 _ h1 h2 ?_ hw
  show Except.ok _ = _
  rw [h3, h4, h5, h6, h7]

theorem atcas (e g : Bool) (d a b : BitVec 7) : Statement (.atcas e g d a b) := by
  intro word hw h
  have h_e := flag e
  have h_g := flag g
  have h_d := d.isLt
  have h_a := a.isLt
  have h_b := b.isLt
  obtain ⟨h1, h2, h3, h4, h5, h6, h7⟩ :=
    shape1 word 287 2407530496 e g d a b rfl
      (number _ word h (by omega))
  refine row word 2 31 _ h1 h2 ?_ hw
  show Except.ok _ = _
  rw [h3, h4, h5, h6, h7]

theorem atfadd (e g : Bool) (d a b : BitVec 7) : Statement (.atfadd e g d a b) := by
  intro word hw h
  have h_e := flag e
  have h_g := flag g
  have h_d := d.isLt
  have h_a := a.isLt
  have h_b := b.isLt
  obtain ⟨h1, h2, h3, h4, h5, h6, h7⟩ :=
    shape1 word 288 2415919104 e g d a b rfl
      (number _ word h (by omega))
  refine row word 2 32 _ h1 h2 ?_ hw
  show Except.ok _ = _
  rw [h3, h4, h5, h6, h7]

theorem atdadd (e g : Bool) (d a b : BitVec 7) : Statement (.atdadd e g d a b) := by
  intro word hw h
  have h_e := flag e
  have h_g := flag g
  have h_d := d.isLt
  have h_a := a.isLt
  have h_b := b.isLt
  obtain ⟨h1, h2, h3, h4, h5, h6, h7⟩ :=
    shape1 word 289 2424307712 e g d a b rfl
      (number _ word h (by omega))
  refine row word 2 33 _ h1 h2 ?_ hw
  show Except.ok _ = _
  rw [h3, h4, h5, h6, h7]

theorem atdcas (e g : Bool) (d a b : BitVec 7) : Statement (.atdcas e g d a b) := by
  intro word hw h
  have h_e := flag e
  have h_g := flag g
  have h_d := d.isLt
  have h_a := a.isLt
  have h_b := b.isLt
  obtain ⟨h1, h2, h3, h4, h5, h6, h7⟩ :=
    shape1 word 290 2432696320 e g d a b rfl
      (number _ word h (by omega))
  refine row word 2 34 _ h1 h2 ?_ hw
  show Except.ok _ = _
  rw [h3, h4, h5, h6, h7]

theorem vatfadd (e g : Bool) (a b : BitVec 7) : Statement (.vatfadd e g a b) := by
  intro word hw h
  have h_e := flag e
  have h_g := flag g
  have h_a := a.isLt
  have h_b := b.isLt
  obtain ⟨h1, h2, h3, h4, h5, h6, h7⟩ :=
    shape6 word 291 2441084928 0 e g a b (by decide) rfl
      (number _ word h (by omega))
  refine row word 2 35 _ h1 h2 ?_ hw
  show take _ _ = _
  unfold take
  rw [h7, h3, h4, h5, h6]
  rfl

theorem vatbadd (e g : Bool) (a b : BitVec 7) : Statement (.vatbadd e g a b) := by
  intro word hw h
  have h_e := flag e
  have h_g := flag g
  have h_a := a.isLt
  have h_b := b.isLt
  obtain ⟨h1, h2, h3, h4, h5, h6, h7⟩ :=
    shape6 word 292 2449473536 0 e g a b (by decide) rfl
      (number _ word h (by omega))
  refine row word 2 36 _ h1 h2 ?_ hw
  show take _ _ = _
  unfold take
  rw [h7, h3, h4, h5, h6]
  rfl

theorem vatfmax (e g : Bool) (a b : BitVec 7) : Statement (.vatfmax e g a b) := by
  intro word hw h
  have h_e := flag e
  have h_g := flag g
  have h_a := a.isLt
  have h_b := b.isLt
  obtain ⟨h1, h2, h3, h4, h5, h6, h7⟩ :=
    shape6 word 293 2457862144 0 e g a b (by decide) rfl
      (number _ word h (by omega))
  refine row word 2 37 _ h1 h2 ?_ hw
  show take _ _ = _
  unfold take
  rw [h7, h3, h4, h5, h6]
  rfl

theorem vatiadd (e g : Bool) (a b : BitVec 7) : Statement (.vatiadd e g a b) := by
  intro word hw h
  have h_e := flag e
  have h_g := flag g
  have h_a := a.isLt
  have h_b := b.isLt
  obtain ⟨h1, h2, h3, h4, h5, h6, h7⟩ :=
    shape6 word 294 2466250752 0 e g a b (by decide) rfl
      (number _ word h (by omega))
  refine row word 2 38 _ h1 h2 ?_ hw
  show take _ _ = _
  unfold take
  rw [h7, h3, h4, h5, h6]
  rfl

theorem shape23 (word : BitVec 32) (k base : Nat)
    (f0 : Bool)
    (f1 : Bool)
    (f2 : BitVec 3)
    (f3 : BitVec 4)
    (f4 : BitVec 2)
    (f5 : Bool)
    (f6 : BitVec 4)
    (f7 : BitVec 7)
    (hb : base = k * 8388608)
    (hn : word.toNat = base + f0.toNat * 4194304 + f1.toNat * 2097152 + f2.toNat * 262144 + f3.toNat * 16384 + f4.toNat * 4096 + f5.toNat * 2048 + f6.toNat * 128 + f7.toNat) :
    word.toNat / 1073741824 = k / 128 ∧
    word.toNat / 8388608 % 128 = k % 128 ∧
    bitAt 22 word = f0 ∧
    bitAt 21 word = f1 ∧
    bitsAt 18 3 word = f2 ∧
    bitsAt 14 4 word = f3 ∧
    bitsAt 12 2 word = f4 ∧
    bitAt 11 word = f5 ∧
    bitsAt 7 4 word = f6 ∧
    bitsAt 0 7 word = f7 := by
  have h_f0 := flag f0
  have h_f1 := flag f1
  have h_f2 := f2.isLt
  have h_f3 := f3.isLt
  have h_f4 := f4.isLt
  have h_f5 := flag f5
  have h_f6 := f6.isLt
  have h_f7 := f7.isLt
  exact ⟨by omega,
    by omega,
    bit 22 word f0 (by omega),
    bit 21 word f1 (by omega),
    bits 18 3 word f2 (by omega),
    bits 14 4 word f3 (by omega),
    bits 12 2 word f4 (by omega),
    bit 11 word f5 (by omega),
    bits 7 4 word f6 (by omega),
    bits 0 7 word f7 (by omega)⟩

theorem waitc (e g : Bool) (sel : BitVec 3) (t : BitVec 4) (c : BitVec 2) (w : Bool) (r : BitVec 4) (b : BitVec 7) : Statement (.waitc e g sel t c w r b) := by
  intro word hw h
  have h_e := flag e
  have h_g := flag g
  have h_sel := sel.isLt
  have h_t := t.isLt
  have h_c := c.isLt
  have h_w := flag w
  have h_r := r.isLt
  have h_b := b.isLt
  obtain ⟨h1, h2, h3, h4, h5, h6, h7, h8, h9, h10⟩ :=
    shape23 word 295 2474639360 e g sel t c w r b rfl
      (number _ word h (by omega))
  refine row word 2 39 _ h1 h2 ?_ hw
  show Except.ok _ = _
  rw [h3, h4, h5, h6, h7, h8, h9, h10]

theorem pref (a : BitVec 7) (i : BitVec 9) : Statement (.pref a i) := by
  intro word hw h
  have h_a := a.isLt
  have h_i := i.isLt
  obtain ⟨h1, h2, h3, h4, h5⟩ :=
    shape7 word 296 2483027968 0 a i (by decide) rfl
      (number _ word h (by omega))
  refine row word 2 40 _ h1 h2 ?_ hw
  show take _ _ = _
  unfold take
  rw [h5, h3, h4]
  rfl

theorem cinv (a : BitVec 7) (i : BitVec 9) : Statement (.cinv a i) := by
  intro word hw h
  have h_a := a.isLt
  have h_i := i.isLt
  obtain ⟨h1, h2, h3, h4, h5⟩ :=
    shape7 word 297 2491416576 0 a i (by decide) rfl
      (number _ word h (by omega))
  refine row word 2 41 _ h1 h2 ?_ hw
  show take _ _ = _
  unfold take
  rw [h5, h3, h4]
  rfl

theorem cwb (a : BitVec 7) (i : BitVec 9) : Statement (.cwb a i) := by
  intro word hw h
  have h_a := a.isLt
  have h_i := i.isLt
  obtain ⟨h1, h2, h3, h4, h5⟩ :=
    shape7 word 298 2499805184 0 a i (by decide) rfl
      (number _ word h (by omega))
  refine row word 2 42 _ h1 h2 ?_ hw
  show take _ _ = _
  unfold take
  rw [h5, h3, h4]
  rfl

theorem shape24 (word : BitVec 32) (k base : Nat)
    (f0 : BitVec 7)
    (f1 : BitVec 7)
    (f2 : Bool)
    (f3 : BitVec 8)
    (hb : base = k * 8388608)
    (hn : word.toNat = base + f0.toNat * 65536 + f1.toNat * 512 + f2.toNat * 256 + f3.toNat) :
    word.toNat / 1073741824 = k / 128 ∧
    word.toNat / 8388608 % 128 = k % 128 ∧
    bitsAt 16 7 word = f0 ∧
    bitsAt 9 7 word = f1 ∧
    bitAt 8 word = f2 ∧
    bitsAt 0 8 word = f3 := by
  have h_f0 := f0.isLt
  have h_f1 := f1.isLt
  have h_f2 := flag f2
  have h_f3 := f3.isLt
  exact ⟨by omega,
    by omega,
    bits 16 7 word f0 (by omega),
    bits 9 7 word f1 (by omega),
    bit 8 word f2 (by omega),
    bits 0 8 word f3 (by omega)⟩

theorem ldpv (d a : BitVec 7) (z : Bool) (o : BitVec 8) : Statement (.ldpv d a z o) := by
  intro word hw h
  have h_d := d.isLt
  have h_a := a.isLt
  have h_z := flag z
  have h_o := o.isLt
  obtain ⟨h1, h2, h3, h4, h5, h6⟩ :=
    shape24 word 299 2508193792 d a z o rfl
      (number _ word h (by omega))
  refine row word 2 43 _ h1 h2 ?_ hw
  show Except.ok _ = _
  rw [h3, h4, h5, h6]

theorem stpv (d a : BitVec 7) (z : Bool) (o : BitVec 8) : Statement (.stpv d a z o) := by
  intro word hw h
  have h_d := d.isLt
  have h_a := a.isLt
  have h_z := flag z
  have h_o := o.isLt
  obtain ⟨h1, h2, h3, h4, h5, h6⟩ :=
    shape24 word 300 2516582400 d a z o rfl
      (number _ word h (by omega))
  refine row word 2 44 _ h1 h2 ?_ hw
  show Except.ok _ = _
  rw [h3, h4, h5, h6]

theorem ldbc (d a : BitVec 7) (i : BitVec 9) : Statement (.ldbc d a i) := by
  intro word hw h
  have h_d := d.isLt
  have h_a := a.isLt
  have h_i := i.isLt
  obtain ⟨h1, h2, h3, h4, h5⟩ :=
    shape3 word 301 2524971008 d a i rfl
      (number _ word h (by omega))
  refine row word 2 45 _ h1 h2 ?_ hw
  show Except.ok _ = _
  rw [h3, h4, h5]

theorem shape25 (word : BitVec 32) (k base : Nat)
    (f0 : Bool)
    (f1 : Bool)
    (f2 : BitVec 3)
    (f3 : BitVec 4)
    (f4 : BitVec 7)
    (f5 : BitVec 7)
    (hb : base = k * 8388608)
    (hn : word.toNat = base + f0.toNat * 4194304 + f1.toNat * 2097152 + f2.toNat * 262144 + f3.toNat * 16384 + f4.toNat * 128 + f5.toNat) :
    word.toNat / 1073741824 = k / 128 ∧
    word.toNat / 8388608 % 128 = k % 128 ∧
    bitAt 22 word = f0 ∧
    bitAt 21 word = f1 ∧
    bitsAt 18 3 word = f2 ∧
    bitsAt 14 4 word = f3 ∧
    bitsAt 7 7 word = f4 ∧
    bitsAt 0 7 word = f5 := by
  have h_f0 := flag f0
  have h_f1 := flag f1
  have h_f2 := f2.isLt
  have h_f3 := f3.isLt
  have h_f4 := f4.isLt
  have h_f5 := f5.isLt
  exact ⟨by omega,
    by omega,
    bit 22 word f0 (by omega),
    bit 21 word f1 (by omega),
    bits 18 3 word f2 (by omega),
    bits 14 4 word f3 (by omega),
    bits 7 7 word f4 (by omega),
    bits 0 7 word f5 (by omega)⟩

theorem cpgt (e g : Bool) (c : BitVec 3) (k : BitVec 4) (a b : BitVec 7) : Statement (.cpgt e g c k a b) := by
  intro word hw h
  have h_e := flag e
  have h_g := flag g
  have h_c := c.isLt
  have h_k := k.isLt
  have h_a := a.isLt
  have h_b := b.isLt
  obtain ⟨h1, h2, h3, h4, h5, h6, h7, h8⟩ :=
    shape25 word 320 2684354560 e g c k a b rfl
      (number _ word h (by omega))
  refine row word 2 64 _ h1 h2 ?_ hw
  show Except.ok _ = _
  rw [h3, h4, h5, h6, h7, h8]

theorem cptg (e g : Bool) (c : BitVec 3) (k : BitVec 4) (a b : BitVec 7) : Statement (.cptg e g c k a b) := by
  intro word hw h
  have h_e := flag e
  have h_g := flag g
  have h_c := c.isLt
  have h_k := k.isLt
  have h_a := a.isLt
  have h_b := b.isLt
  obtain ⟨h1, h2, h3, h4, h5, h6, h7, h8⟩ :=
    shape25 word 321 2692743168 e g c k a b rfl
      (number _ word h (by omega))
  refine row word 2 65 _ h1 h2 ?_ hw
  show Except.ok _ = _
  rw [h3, h4, h5, h6, h7, h8]

theorem cpgg (e g : Bool) (c : BitVec 3) (k : BitVec 4) (a b : BitVec 7) : Statement (.cpgg e g c k a b) := by
  intro word hw h
  have h_e := flag e
  have h_g := flag g
  have h_c := c.isLt
  have h_k := k.isLt
  have h_a := a.isLt
  have h_b := b.isLt
  obtain ⟨h1, h2, h3, h4, h5, h6, h7, h8⟩ :=
    shape25 word 322 2701131776 e g c k a b rfl
      (number _ word h (by omega))
  refine row word 2 66 _ h1 h2 ?_ hw
  show Except.ok _ = _
  rw [h3, h4, h5, h6, h7, h8]

theorem cpat (e g : Bool) (c : BitVec 3) (k : BitVec 4) (a b : BitVec 7) : Statement (.cpat e g c k a b) := by
  intro word hw h
  have h_e := flag e
  have h_g := flag g
  have h_c := c.isLt
  have h_k := k.isLt
  have h_a := a.isLt
  have h_b := b.isLt
  obtain ⟨h1, h2, h3, h4, h5, h6, h7, h8⟩ :=
    shape25 word 323 2709520384 e g c k a b rfl
      (number _ word h (by omega))
  refine row word 2 67 _ h1 h2 ?_ hw
  show Except.ok _ = _
  rw [h3, h4, h5, h6, h7, h8]

theorem cpgs (e g : Bool) (c : BitVec 3) (k : BitVec 4) (a b : BitVec 7) : Statement (.cpgs e g c k a b) := by
  intro word hw h
  have h_e := flag e
  have h_g := flag g
  have h_c := c.isLt
  have h_k := k.isLt
  have h_a := a.isLt
  have h_b := b.isLt
  obtain ⟨h1, h2, h3, h4, h5, h6, h7, h8⟩ :=
    shape25 word 324 2717908992 e g c k a b rfl
      (number _ word h (by omega))
  refine row word 2 68 _ h1 h2 ?_ hw
  show Except.ok _ = _
  rw [h3, h4, h5, h6, h7, h8]

theorem cpsg (e g : Bool) (c : BitVec 3) (k : BitVec 4) (a b : BitVec 7) : Statement (.cpsg e g c k a b) := by
  intro word hw h
  have h_e := flag e
  have h_g := flag g
  have h_c := c.isLt
  have h_k := k.isLt
  have h_a := a.isLt
  have h_b := b.isLt
  obtain ⟨h1, h2, h3, h4, h5, h6, h7, h8⟩ :=
    shape25 word 325 2726297600 e g c k a b rfl
      (number _ word h (by omega))
  refine row word 2 69 _ h1 h2 ?_ hw
  show Except.ok _ = _
  rw [h3, h4, h5, h6, h7, h8]

theorem cpix (e g : Bool) (c : BitVec 3) (k : BitVec 4) (a b : BitVec 7) : Statement (.cpix e g c k a b) := by
  intro word hw h
  have h_e := flag e
  have h_g := flag g
  have h_c := c.isLt
  have h_k := k.isLt
  have h_a := a.isLt
  have h_b := b.isLt
  obtain ⟨h1, h2, h3, h4, h5, h6, h7, h8⟩ :=
    shape25 word 326 2734686208 e g c k a b rfl
      (number _ word h (by omega))
  refine row word 2 70 _ h1 h2 ?_ hw
  show Except.ok _ = _
  rw [h3, h4, h5, h6, h7, h8]

theorem shape26 (word : BitVec 32) (k base v0 : Nat)
    (f0 : Bool)
    (f1 : BitVec 7)
    (f2 : BitVec 7)
    (f3 : BitVec 2)
    (f4 : BitVec 5)
    (b0 : v0 < 2)
    (hb : base = k * 8388608 + v0 * 2097152)
    (hn : word.toNat = base + f0.toNat * 4194304 + f1.toNat * 16384 + f2.toNat * 128 + f3.toNat * 32 + f4.toNat) :
    word.toNat / 1073741824 = k / 128 ∧
    word.toNat / 8388608 % 128 = k % 128 ∧
    bitAt 22 word = f0 ∧
    bitsAt 14 7 word = f1 ∧
    bitsAt 7 7 word = f2 ∧
    bitsAt 5 2 word = f3 ∧
    bitsAt 0 5 word = f4 ∧
    fix 21 1 v0 word = true := by
  have h_f0 := flag f0
  have h_f1 := f1.isLt
  have h_f2 := f2.isLt
  have h_f3 := f3.isLt
  have h_f4 := f4.isLt
  exact ⟨by omega,
    by omega,
    bit 22 word f0 (by omega),
    bits 14 7 word f1 (by omega),
    bits 7 7 word f2 (by omega),
    bits 5 2 word f3 (by omega),
    bits 0 5 word f4 (by omega),
    fixed 21 1 v0 word (by omega)⟩

theorem tld (e : Bool) (d a : BitVec 7) (m : BitVec 2) (n : BitVec 5) : Statement (.tld e d a m n) := by
  intro word hw h
  have h_e := flag e
  have h_d := d.isLt
  have h_a := a.isLt
  have h_m := m.isLt
  have h_n := n.isLt
  obtain ⟨h1, h2, h3, h4, h5, h6, h7, h8⟩ :=
    shape26 word 327 2743074816 0 e d a m n (by decide) rfl
      (number _ word h (by omega))
  refine row word 2 71 _ h1 h2 ?_ hw
  show take _ _ = _
  unfold take
  rw [h8, h3, h4, h5, h6, h7]
  rfl

theorem tst (e : Bool) (d a : BitVec 7) (m : BitVec 2) (n : BitVec 5) : Statement (.tst e d a m n) := by
  intro word hw h
  have h_e := flag e
  have h_d := d.isLt
  have h_a := a.isLt
  have h_m := m.isLt
  have h_n := n.isLt
  obtain ⟨h1, h2, h3, h4, h5, h6, h7, h8⟩ :=
    shape26 word 328 2751463424 0 e d a m n (by decide) rfl
      (number _ word h (by omega))
  refine row word 2 72 _ h1 h2 ?_ hw
  show take _ _ = _
  unfold take
  rw [h8, h3, h4, h5, h6, h7]
  rfl

theorem cwp (e g : Bool) (a b : BitVec 7) : Statement (.cwp e g a b) := by
  intro word hw h
  have h_e := flag e
  have h_g := flag g
  have h_a := a.isLt
  have h_b := b.isLt
  obtain ⟨h1, h2, h3, h4, h5, h6, h7⟩ :=
    shape6 word 329 2759852032 0 e g a b (by decide) rfl
      (number _ word h (by omega))
  refine row word 2 73 _ h1 h2 ?_ hw
  show take _ _ = _
  unfold take
  rw [h7, h3, h4, h5, h6]
  rfl

theorem cwait (e : Bool) (a : BitVec 7) : Statement (.cwait e a) := by
  intro word hw h
  have h_e := flag e
  have h_a := a.isLt
  obtain ⟨h1, h2, h3, h4, h5, h6⟩ :=
    shape8 word 330 2768240640 0 0 e a (by decide) (by decide) rfl
      (number _ word h (by omega))
  refine row word 2 74 _ h1 h2 ?_ hw
  show take _ _ = _
  unfold take
  rw [h5, h6, h3, h4]
  rfl

theorem cdone (e : Bool) (d a : BitVec 7) : Statement (.cdone e d a) := by
  intro word hw h
  have h_e := flag e
  have h_d := d.isLt
  have h_a := a.isLt
  obtain ⟨h1, h2, h3, h4, h5, h6, h7⟩ :=
    shape2 word 331 2776629248 0 0 e d a (by decide) (by decide) rfl
      (number _ word h (by omega))
  refine row word 2 75 _ h1 h2 ?_ hw
  show take _ _ = _
  unfold take
  rw [h6, h7, h3, h4, h5]
  rfl

theorem cfill (e g : Bool) (c : BitVec 3) (k : BitVec 4) (a b : BitVec 7) : Statement (.cfill e g c k a b) := by
  intro word hw h
  have h_e := flag e
  have h_g := flag g
  have h_c := c.isLt
  have h_k := k.isLt
  have h_a := a.isLt
  have h_b := b.isLt
  obtain ⟨h1, h2, h3, h4, h5, h6, h7, h8⟩ :=
    shape25 word 332 2785017856 e g c k a b rfl
      (number _ word h (by omega))
  refine row word 2 76 _ h1 h2 ?_ hw
  show Except.ok _ = _
  rw [h3, h4, h5, h6, h7, h8]

theorem shape27 (word : BitVec 32) (k base v0 v1 : Nat)
    (f0 : BitVec 3)
    (b0 : v0 < 262144)
    (b1 : v1 < 4)
    (hb : base = k * 8388608 + v0 * 1 + v1 * 2097152)
    (hn : word.toNat = base + f0.toNat * 262144) :
    word.toNat / 1073741824 = k / 128 ∧
    word.toNat / 8388608 % 128 = k % 128 ∧
    bitsAt 18 3 word = f0 ∧
    fix 0 18 v0 word = true ∧
    fix 21 2 v1 word = true := by
  have h_f0 := f0.isLt
  exact ⟨by omega,
    by omega,
    bits 18 3 word f0 (by omega),
    fixed 0 18 v0 word (by omega),
    fixed 21 2 v1 word (by omega)⟩

theorem ccan (c : BitVec 3) : Statement (.ccan c) := by
  intro word hw h
  have h_c := c.isLt
  obtain ⟨h1, h2, h3, h4, h5⟩ :=
    shape27 word 333 2793406464 0 0 c (by decide) (by decide) rfl
      (number _ word h (by omega))
  refine row word 2 77 _ h1 h2 ?_ hw
  show take _ _ = _
  unfold take
  rw [h4, h5, h3]
  rfl

theorem shape28 (word : BitVec 32) (k base : Nat)
    (f0 : Bool)
    (f1 : Bool)
    (f2 : BitVec 4)
    (f3 : BitVec 2)
    (f4 : Bool)
    (f5 : BitVec 7)
    (f6 : BitVec 7)
    (hb : base = k * 8388608)
    (hn : word.toNat = base + f0.toNat * 4194304 + f1.toNat * 2097152 + f2.toNat * 131072 + f3.toNat * 32768 + f4.toNat * 16384 + f5.toNat * 128 + f6.toNat) :
    word.toNat / 1073741824 = k / 128 ∧
    word.toNat / 8388608 % 128 = k % 128 ∧
    bitAt 22 word = f0 ∧
    bitAt 21 word = f1 ∧
    bitsAt 17 4 word = f2 ∧
    bitsAt 15 2 word = f3 ∧
    bitAt 14 word = f4 ∧
    bitsAt 7 7 word = f5 ∧
    bitsAt 0 7 word = f6 := by
  have h_f0 := flag f0
  have h_f1 := flag f1
  have h_f2 := f2.isLt
  have h_f3 := f3.isLt
  have h_f4 := flag f4
  have h_f5 := f5.isLt
  have h_f6 := f6.isLt
  exact ⟨by omega,
    by omega,
    bit 22 word f0 (by omega),
    bit 21 word f1 (by omega),
    bits 17 4 word f2 (by omega),
    bits 15 2 word f3 (by omega),
    bit 14 word f4 (by omega),
    bits 7 7 word f5 (by omega),
    bits 0 7 word f6 (by omega)⟩

theorem mmaBf16 (e g : Bool) (k : BitVec 4) (sel : BitVec 2) (z : Bool) (a b : BitVec 7) : Statement (.mmaBf16 e g k sel z a b) := by
  intro word hw h
  have h_e := flag e
  have h_g := flag g
  have h_k := k.isLt
  have h_sel := sel.isLt
  have h_z := flag z
  have h_a := a.isLt
  have h_b := b.isLt
  obtain ⟨h1, h2, h3, h4, h5, h6, h7, h8, h9⟩ :=
    shape28 word 352 2952790016 e g k sel z a b rfl
      (number _ word h (by omega))
  refine row word 2 96 _ h1 h2 ?_ hw
  show Except.ok _ = _
  rw [h3, h4, h5, h6, h7, h8, h9]

theorem mmaF16 (e g : Bool) (k : BitVec 4) (sel : BitVec 2) (z : Bool) (a b : BitVec 7) : Statement (.mmaF16 e g k sel z a b) := by
  intro word hw h
  have h_e := flag e
  have h_g := flag g
  have h_k := k.isLt
  have h_sel := sel.isLt
  have h_z := flag z
  have h_a := a.isLt
  have h_b := b.isLt
  obtain ⟨h1, h2, h3, h4, h5, h6, h7, h8, h9⟩ :=
    shape28 word 353 2961178624 e g k sel z a b rfl
      (number _ word h (by omega))
  refine row word 2 97 _ h1 h2 ?_ hw
  show Except.ok _ = _
  rw [h3, h4, h5, h6, h7, h8, h9]

theorem mmaE4m3 (e g : Bool) (k : BitVec 4) (sel : BitVec 2) (z : Bool) (a b : BitVec 7) : Statement (.mmaE4m3 e g k sel z a b) := by
  intro word hw h
  have h_e := flag e
  have h_g := flag g
  have h_k := k.isLt
  have h_sel := sel.isLt
  have h_z := flag z
  have h_a := a.isLt
  have h_b := b.isLt
  obtain ⟨h1, h2, h3, h4, h5, h6, h7, h8, h9⟩ :=
    shape28 word 354 2969567232 e g k sel z a b rfl
      (number _ word h (by omega))
  refine row word 2 98 _ h1 h2 ?_ hw
  show Except.ok _ = _
  rw [h3, h4, h5, h6, h7, h8, h9]

theorem mmaE5m2 (e g : Bool) (k : BitVec 4) (sel : BitVec 2) (z : Bool) (a b : BitVec 7) : Statement (.mmaE5m2 e g k sel z a b) := by
  intro word hw h
  have h_e := flag e
  have h_g := flag g
  have h_k := k.isLt
  have h_sel := sel.isLt
  have h_z := flag z
  have h_a := a.isLt
  have h_b := b.isLt
  obtain ⟨h1, h2, h3, h4, h5, h6, h7, h8, h9⟩ :=
    shape28 word 355 2977955840 e g k sel z a b rfl
      (number _ word h (by omega))
  refine row word 2 99 _ h1 h2 ?_ hw
  show Except.ok _ = _
  rw [h3, h4, h5, h6, h7, h8, h9]

theorem mmaMxe2m1 (e g : Bool) (k : BitVec 4) (sel : BitVec 2) (z : Bool) (a b : BitVec 7) : Statement (.mmaMxe2m1 e g k sel z a b) := by
  intro word hw h
  have h_e := flag e
  have h_g := flag g
  have h_k := k.isLt
  have h_sel := sel.isLt
  have h_z := flag z
  have h_a := a.isLt
  have h_b := b.isLt
  obtain ⟨h1, h2, h3, h4, h5, h6, h7, h8, h9⟩ :=
    shape28 word 356 2986344448 e g k sel z a b rfl
      (number _ word h (by omega))
  refine row word 2 100 _ h1 h2 ?_ hw
  show Except.ok _ = _
  rw [h3, h4, h5, h6, h7, h8, h9]

theorem mmaMxe4m3 (e g : Bool) (k : BitVec 4) (sel : BitVec 2) (z : Bool) (a b : BitVec 7) : Statement (.mmaMxe4m3 e g k sel z a b) := by
  intro word hw h
  have h_e := flag e
  have h_g := flag g
  have h_k := k.isLt
  have h_sel := sel.isLt
  have h_z := flag z
  have h_a := a.isLt
  have h_b := b.isLt
  obtain ⟨h1, h2, h3, h4, h5, h6, h7, h8, h9⟩ :=
    shape28 word 357 2994733056 e g k sel z a b rfl
      (number _ word h (by omega))
  refine row word 2 101 _ h1 h2 ?_ hw
  show Except.ok _ = _
  rw [h3, h4, h5, h6, h7, h8, h9]

theorem mmaMxe2m3 (e g : Bool) (k : BitVec 4) (sel : BitVec 2) (z : Bool) (a b : BitVec 7) : Statement (.mmaMxe2m3 e g k sel z a b) := by
  intro word hw h
  have h_e := flag e
  have h_g := flag g
  have h_k := k.isLt
  have h_sel := sel.isLt
  have h_z := flag z
  have h_a := a.isLt
  have h_b := b.isLt
  obtain ⟨h1, h2, h3, h4, h5, h6, h7, h8, h9⟩ :=
    shape28 word 358 3003121664 e g k sel z a b rfl
      (number _ word h (by omega))
  refine row word 2 102 _ h1 h2 ?_ hw
  show Except.ok _ = _
  rw [h3, h4, h5, h6, h7, h8, h9]

theorem mmaI8 (e g : Bool) (k : BitVec 4) (sel : BitVec 2) (z : Bool) (a b : BitVec 7) : Statement (.mmaI8 e g k sel z a b) := by
  intro word hw h
  have h_e := flag e
  have h_g := flag g
  have h_k := k.isLt
  have h_sel := sel.isLt
  have h_z := flag z
  have h_a := a.isLt
  have h_b := b.isLt
  obtain ⟨h1, h2, h3, h4, h5, h6, h7, h8, h9⟩ :=
    shape28 word 359 3011510272 e g k sel z a b rfl
      (number _ word h (by omega))
  refine row word 2 103 _ h1 h2 ?_ hw
  show Except.ok _ = _
  rw [h3, h4, h5, h6, h7, h8, h9]

theorem mgang (e : Bool) (a : BitVec 7) : Statement (.mgang e a) := by
  intro word hw h
  have h_e := flag e
  have h_a := a.isLt
  obtain ⟨h1, h2, h3, h4, h5, h6⟩ :=
    shape8 word 360 3019898880 0 0 e a (by decide) (by decide) rfl
      (number _ word h (by omega))
  refine row word 2 104 _ h1 h2 ?_ hw
  show take _ _ = _
  unfold take
  rw [h5, h6, h3, h4]
  rfl

theorem shape29 (word : BitVec 32) (k base v0 v1 : Nat)
    (f0 : BitVec 7)
    (f1 : Bool)
    (f2 : BitVec 4)
    (b0 : v0 < 16)
    (b1 : v1 < 128)
    (hb : base = k * 8388608 + v0 * 16 + v1 * 512)
    (hn : word.toNat = base + f0.toNat * 65536 + f1.toNat * 256 + f2.toNat) :
    word.toNat / 1073741824 = k / 128 ∧
    word.toNat / 8388608 % 128 = k % 128 ∧
    bitsAt 16 7 word = f0 ∧
    bitAt 8 word = f1 ∧
    bitsAt 0 4 word = f2 ∧
    fix 4 4 v0 word = true ∧
    fix 9 7 v1 word = true := by
  have h_f0 := f0.isLt
  have h_f1 := flag f1
  have h_f2 := f2.isLt
  exact ⟨by omega,
    by omega,
    bits 16 7 word f0 (by omega),
    bit 8 word f1 (by omega),
    bits 0 4 word f2 (by omega),
    fixed 4 4 v0 word (by omega),
    fixed 9 7 v1 word (by omega)⟩

theorem macq (d : BitVec 7) (w : Bool) (n : BitVec 4) : Statement (.macq d w n) := by
  intro word hw h
  have h_d := d.isLt
  have h_w := flag w
  have h_n := n.isLt
  obtain ⟨h1, h2, h3, h4, h5, h6, h7⟩ :=
    shape29 word 361 3028287488 0 0 d w n (by decide) (by decide) rfl
      (number _ word h (by omega))
  refine row word 2 105 _ h1 h2 ?_ hw
  show take _ _ = _
  unfold take
  rw [h6, h7, h3, h4, h5]
  rfl

theorem shape30 (word : BitVec 32) (k base v0 v1 : Nat)
    (f0 : BitVec 7)
    (b0 : v0 < 512)
    (b1 : v1 < 128)
    (hb : base = k * 8388608 + v0 * 1 + v1 * 65536)
    (hn : word.toNat = base + f0.toNat * 512) :
    word.toNat / 1073741824 = k / 128 ∧
    word.toNat / 8388608 % 128 = k % 128 ∧
    bitsAt 9 7 word = f0 ∧
    fix 0 9 v0 word = true ∧
    fix 16 7 v1 word = true := by
  have h_f0 := f0.isLt
  exact ⟨by omega,
    by omega,
    bits 9 7 word f0 (by omega),
    fixed 0 9 v0 word (by omega),
    fixed 16 7 v1 word (by omega)⟩

theorem mrel (a : BitVec 7) : Statement (.mrel a) := by
  intro word hw h
  have h_a := a.isLt
  obtain ⟨h1, h2, h3, h4, h5⟩ :=
    shape30 word 362 3036676096 0 0 a (by decide) (by decide) rfl
      (number _ word h (by omega))
  refine row word 2 106 _ h1 h2 ?_ hw
  show take _ _ = _
  unfold take
  rw [h4, h5, h3]
  rfl

theorem shape31 (word : BitVec 32) (k base v0 : Nat)
    (f0 : BitVec 4)
    (b0 : v0 < 524288)
    (hb : base = k * 8388608 + v0 * 16)
    (hn : word.toNat = base + f0.toNat) :
    word.toNat / 1073741824 = k / 128 ∧
    word.toNat / 8388608 % 128 = k % 128 ∧
    bitsAt 0 4 word = f0 ∧
    fix 4 19 v0 word = true := by
  have h_f0 := f0.isLt
  exact ⟨by omega,
    by omega,
    bits 0 4 word f0 (by omega),
    fixed 4 19 v0 word (by omega)⟩

theorem mzero (k : BitVec 4) : Statement (.mzero k) := by
  intro word hw h
  have h_k := k.isLt
  obtain ⟨h1, h2, h3, h4⟩ :=
    shape31 word 363 3045064704 0 k (by decide) rfl
      (number _ word h (by omega))
  refine row word 2 107 _ h1 h2 ?_ hw
  show take _ _ = _
  unfold take
  rw [h4, h3]
  rfl

theorem mdrain (e : Bool) (d a v : BitVec 7) : Statement (.mdrain e d a v) := by
  intro word hw h
  have h_e := flag e
  have h_d := d.isLt
  have h_a := a.isLt
  have h_v := v.isLt
  obtain ⟨h1, h2, h3, h4, h5, h6, h7⟩ :=
    shape4 word 364 3053453312 0 e d a v (by decide) rfl
      (number _ word h (by omega))
  refine row word 2 108 _ h1 h2 ?_ hw
  show take _ _ = _
  unfold take
  rw [h7, h3, h4, h5, h6]
  rfl

theorem shape32 (word : BitVec 32) (k base v0 : Nat)
    (f0 : BitVec 7)
    (f1 : BitVec 3)
    (b0 : v0 < 8192)
    (hb : base = k * 8388608 + v0 * 8)
    (hn : word.toNat = base + f0.toNat * 65536 + f1.toNat) :
    word.toNat / 1073741824 = k / 128 ∧
    word.toNat / 8388608 % 128 = k % 128 ∧
    bitsAt 16 7 word = f0 ∧
    bitsAt 0 3 word = f1 ∧
    fix 3 13 v0 word = true := by
  have h_f0 := f0.isLt
  have h_f1 := f1.isLt
  exact ⟨by omega,
    by omega,
    bits 16 7 word f0 (by omega),
    bits 0 3 word f1 (by omega),
    fixed 3 13 v0 word (by omega)⟩

theorem mcfg (d : BitVec 7) (c : BitVec 3) : Statement (.mcfg d c) := by
  intro word hw h
  have h_d := d.isLt
  have h_c := c.isLt
  obtain ⟨h1, h2, h3, h4, h5⟩ :=
    shape32 word 365 3061841920 0 d c (by decide) rfl
      (number _ word h (by omega))
  refine row word 2 109 _ h1 h2 ?_ hw
  show take _ _ = _
  unfold take
  rw [h5, h3, h4]
  rfl

theorem mstat (e : Bool) (d a : BitVec 7) : Statement (.mstat e d a) := by
  intro word hw h
  have h_e := flag e
  have h_d := d.isLt
  have h_a := a.isLt
  obtain ⟨h1, h2, h3, h4, h5, h6, h7⟩ :=
    shape2 word 366 3070230528 0 0 e d a (by decide) (by decide) rfl
      (number _ word h (by omega))
  refine row word 2 110 _ h1 h2 ?_ hw
  show take _ _ = _
  unfold take
  rw [h6, h7, h3, h4, h5]
  rfl

theorem mwait (e : Bool) (a : BitVec 7) : Statement (.mwait e a) := by
  intro word hw h
  have h_e := flag e
  have h_a := a.isLt
  obtain ⟨h1, h2, h3, h4, h5, h6⟩ :=
    shape8 word 367 3078619136 0 0 e a (by decide) (by decide) rfl
      (number _ word h (by omega))
  refine row word 2 111 _ h1 h2 ?_ hw
  show take _ _ = _
  unfold take
  rw [h5, h6, h3, h4]
  rfl

theorem shape33 (word : BitVec 32) (k base : Nat)
    (f0 : BitVec 7)
    (f1 : BitVec 16)
    (hb : base = k * 8388608)
    (hn : word.toNat = base + f0.toNat * 65536 + f1.toNat) :
    word.toNat / 1073741824 = k / 128 ∧
    word.toNat / 8388608 % 128 = k % 128 ∧
    bitsAt 16 7 word = f0 ∧
    bitsAt 0 16 word = f1 := by
  have h_f0 := f0.isLt
  have h_f1 := f1.isLt
  exact ⟨by omega,
    by omega,
    bits 16 7 word f0 (by omega),
    bits 0 16 word f1 (by omega)⟩

theorem br (a : BitVec 7) (o : BitVec 16) : Statement (.br a o) := by
  intro word hw h
  have h_a := a.isLt
  have h_o := o.isLt
  obtain ⟨h1, h2, h3, h4⟩ :=
    shape33 word 384 3221225472 a o rfl
      (number _ word h (by omega))
  refine row word 3 0 _ h1 h2 ?_ hw
  show Except.ok _ = _
  rw [h3, h4]

theorem brz (a : BitVec 7) (o : BitVec 16) : Statement (.brz a o) := by
  intro word hw h
  have h_a := a.isLt
  have h_o := o.isLt
  obtain ⟨h1, h2, h3, h4⟩ :=
    shape33 word 385 3229614080 a o rfl
      (number _ word h (by omega))
  refine row word 3 1 _ h1 h2 ?_ hw
  show Except.ok _ = _
  rw [h3, h4]

theorem bru (a : BitVec 7) (o : BitVec 16) : Statement (.bru a o) := by
  intro word hw h
  have h_a := a.isLt
  have h_o := o.isLt
  obtain ⟨h1, h2, h3, h4⟩ :=
    shape33 word 386 3238002688 a o rfl
      (number _ word h (by omega))
  refine row word 3 2 _ h1 h2 ?_ hw
  show Except.ok _ = _
  rw [h3, h4]

theorem bruz (a : BitVec 7) (o : BitVec 16) : Statement (.bruz a o) := by
  intro word hw h
  have h_a := a.isLt
  have h_o := o.isLt
  obtain ⟨h1, h2, h3, h4⟩ :=
    shape33 word 387 3246391296 a o rfl
      (number _ word h (by omega))
  refine row word 3 3 _ h1 h2 ?_ hw
  show Except.ok _ = _
  rw [h3, h4]

theorem brs (a : BitVec 7) (o : BitVec 16) : Statement (.brs a o) := by
  intro word hw h
  have h_a := a.isLt
  have h_o := o.isLt
  obtain ⟨h1, h2, h3, h4⟩ :=
    shape33 word 388 3254779904 a o rfl
      (number _ word h (by omega))
  refine row word 3 4 _ h1 h2 ?_ hw
  show Except.ok _ = _
  rw [h3, h4]

theorem shape34 (word : BitVec 32) (k base : Nat)
    (f0 : BitVec 23)
    (hb : base = k * 8388608)
    (hn : word.toNat = base + f0.toNat) :
    word.toNat / 1073741824 = k / 128 ∧
    word.toNat / 8388608 % 128 = k % 128 ∧
    bitsAt 0 23 word = f0 := by
  have h_f0 := f0.isLt
  exact ⟨by omega,
    by omega,
    bits 0 23 word f0 (by omega)⟩

theorem jmp (o : BitVec 23) : Statement (.jmp o) := by
  intro word hw h
  have h_o := o.isLt
  obtain ⟨h1, h2, h3⟩ :=
    shape34 word 389 3263168512 o rfl
      (number _ word h (by omega))
  refine row word 3 5 _ h1 h2 ?_ hw
  show Except.ok _ = _
  rw [h3]

theorem call (o : BitVec 23) : Statement (.call o) := by
  intro word hw h
  have h_o := o.isLt
  obtain ⟨h1, h2, h3⟩ :=
    shape34 word 390 3271557120 o rfl
      (number _ word h (by omega))
  refine row word 3 6 _ h1 h2 ?_ hw
  show Except.ok _ = _
  rw [h3]

theorem sloop (a : BitVec 7) (o : BitVec 16) : Statement (.sloop a o) := by
  intro word hw h
  have h_a := a.isLt
  have h_o := o.isLt
  obtain ⟨h1, h2, h3, h4⟩ :=
    shape33 word 391 3279945728 a o rfl
      (number _ word h (by omega))
  refine row word 3 7 _ h1 h2 ?_ hw
  show Except.ok _ = _
  rw [h3, h4]

theorem smovl (d : BitVec 7) (i : BitVec 16) : Statement (.smovl d i) := by
  intro word hw h
  have h_d := d.isLt
  have h_i := i.isLt
  obtain ⟨h1, h2, h3, h4⟩ :=
    shape33 word 392 3288334336 d i rfl
      (number _ word h (by omega))
  refine row word 3 8 _ h1 h2 ?_ hw
  show Except.ok _ = _
  rw [h3, h4]

theorem smovh (d : BitVec 7) (i : BitVec 16) : Statement (.smovh d i) := by
  intro word hw h
  have h_d := d.isLt
  have h_i := i.isLt
  obtain ⟨h1, h2, h3, h4⟩ :=
    shape33 word 393 3296722944 d i rfl
      (number _ word h (by omega))
  refine row word 3 9 _ h1 h2 ?_ hw
  show Except.ok _ = _
  rw [h3, h4]

theorem smovx (d : BitVec 7) (i : BitVec 16) : Statement (.smovx d i) := by
  intro word hw h
  have h_d := d.isLt
  have h_i := i.isLt
  obtain ⟨h1, h2, h3, h4⟩ :=
    shape33 word 394 3305111552 d i rfl
      (number _ word h (by omega))
  refine row word 3 10 _ h1 h2 ?_ hw
  show Except.ok _ = _
  rw [h3, h4]

theorem smovt (d : BitVec 7) (i : BitVec 16) : Statement (.smovt d i) := by
  intro word hw h
  have h_d := d.isLt
  have h_i := i.isLt
  obtain ⟨h1, h2, h3, h4⟩ :=
    shape33 word 395 3313500160 d i rfl
      (number _ word h (by omega))
  refine row word 3 11 _ h1 h2 ?_ hw
  show Except.ok _ = _
  rw [h3, h4]

theorem vmovl (d : BitVec 7) (i : BitVec 16) : Statement (.vmovl d i) := by
  intro word hw h
  have h_d := d.isLt
  have h_i := i.isLt
  obtain ⟨h1, h2, h3, h4⟩ :=
    shape33 word 396 3321888768 d i rfl
      (number _ word h (by omega))
  refine row word 3 12 _ h1 h2 ?_ hw
  show Except.ok _ = _
  rw [h3, h4]

theorem vmovh (d : BitVec 7) (i : BitVec 16) : Statement (.vmovh d i) := by
  intro word hw h
  have h_d := d.isLt
  have h_i := i.isLt
  obtain ⟨h1, h2, h3, h4⟩ :=
    shape33 word 397 3330277376 d i rfl
      (number _ word h (by omega))
  refine row word 3 13 _ h1 h2 ?_ hw
  show Except.ok _ = _
  rw [h3, h4]

theorem strandAged (key : Nat) : Statement (.strandAged key) := nofun

theorem lineFill (key n : Nat) : Statement (.lineFill key n) := nofun

theorem lineEvict (key n : Nat) : Statement (.lineEvict key n) := nofun

theorem frontierRefill (key : Nat) : Statement (.frontierRefill key) := nofun

theorem producerWriteback (key place : Nat) : Statement (.producerWriteback key place) := nofun

theorem floatWriteback (key place : Nat) : Statement (.floatWriteback key place) := nofun

theorem successorStart (key : Nat) : Statement (.successorStart key) := nofun

theorem slotFree (key : Nat) : Statement (.slotFree key) := nofun

theorem binAgeExpiry (ccb b : Nat) : Statement (.binAgeExpiry ccb b) := nofun

theorem gatherFormation (ccb : Nat) : Statement (.gatherFormation ccb) := nofun

theorem l1Fill (core line : Nat) : Statement (.l1Fill core line) := nofun

theorem storeLost (core place : Nat) : Statement (.storeLost core place) := nofun

theorem accessTimeout (key place : Nat) (lanes : Mask) : Statement (.accessTimeout key place lanes) := nofun

theorem promotionRequest (line : Nat) : Statement (.promotionRequest line) := nofun

theorem monitorFire (place : Nat) : Statement (.monitorFire place) := nofun

theorem waitcPoll (key : Nat) : Statement (.waitcPoll key) := nofun

theorem monitorWake (key : Nat) : Statement (.monitorWake key) := nofun

theorem tailPoll (q : Nat) : Statement (.tailPoll q) := nofun

theorem commandStart (core ccb ch : Nat) : Statement (.commandStart core ccb ch) := nofun

theorem deliveryUnit (core ccb ch : Nat) : Statement (.deliveryUnit core ccb ch) := nofun

theorem commandCompletion (core ccb ch : Nat) : Statement (.commandCompletion core ccb ch) := nofun

theorem channelFault (core ccb ch : Nat) : Statement (.channelFault core ccb ch) := nofun

theorem rendezvousComplete (core place : Nat) : Statement (.rendezvousComplete core place) := nofun

theorem rendezvousTimeout (core place : Nat) : Statement (.rendezvousTimeout core place) := nofun

theorem mmaOperationComplete (core : Nat) (error : Bool) (column : Nat) : Statement (.mmaOperationComplete core error column) := nofun

theorem macqRetry (key : Nat) : Statement (.macqRetry key) := nofun

theorem drainEntryReady (key q : Nat) (bad : Bool) : Statement (.drainEntryReady key q bad) := nofun

theorem accDeadlockSwap (core : Nat) : Statement (.accDeadlockSwap core) := nofun

theorem mxnSet (core : Nat) : Statement (.mxnSet core) := nofun

theorem columnMapOut (core column : Nat) : Statement (.columnMapOut core column) := nofun

theorem walkComplete (core pasid : Nat) (user : Bool) (kind va : Nat) : Statement (.walkComplete core pasid user kind va) := nofun

theorem heldEventEntry (core : Nat) : Statement (.heldEventEntry core) := nofun

theorem machineCheck (ccb sub : Nat) : Statement (.machineCheck ccb sub) := nofun

theorem tailRead (q : Nat) : Statement (.tailRead q) := nofun

theorem recordPop (q : Nat) : Statement (.recordPop q) := nofun

theorem queueResume (q : Nat) : Statement (.queueResume q) := nofun

theorem starvationAge (record : Bool) (id : Nat) : Statement (.starvationAge record id) := nofun

theorem cohortPlacement (q : Nat) : Statement (.cohortPlacement q) := nofun

theorem promotion (ccb : Nat) : Statement (.promotion ccb) := nofun

theorem demotion (ccb : Nat) : Statement (.demotion ccb) := nofun

theorem quantumExpiry (ccb : Nat) : Statement (.quantumExpiry ccb) := nofun

theorem preemption : Statement (.preemption) := nofun

theorem switchRequest (ccb target : Nat) : Statement (.switchRequest ccb target) := nofun

theorem variantSwitch (ccb : Nat) : Statement (.variantSwitch ccb) := nofun

theorem switchTimeout (ccb : Nat) : Statement (.switchTimeout ccb) := nofun

theorem swapOut (ccb : Nat) : Statement (.swapOut ccb) := nofun

theorem swapIn (ccb : Nat) : Statement (.swapIn ccb) := nofun

theorem migration (ccb core : Nat) : Statement (.migration ccb core) := nofun

theorem carveModeChange (core : Nat) : Statement (.carveModeChange core) := nofun

theorem cohortCompletion (ccb : Nat) : Statement (.cohortCompletion ccb) := nofun

theorem launchCompletion (id : Nat) : Statement (.launchCompletion id) := nofun

theorem debugStop (ccb : Nat) : Statement (.debugStop ccb) := nofun

theorem sampleTag (core bench : Nat) : Statement (.sampleTag core bench) := nofun

theorem sampleRecord (core place : Nat) : Statement (.sampleRecord core place) := nofun

theorem laneReissue (key lane : Nat) (passes : Bool) : Statement (.laneReissue key lane passes) := nofun

theorem lmapUpdate (core bench : Nat) : Statement (.lmapUpdate core bench) := nofun

theorem cloneReplay (core bench : Nat) (bad : Bool) : Statement (.cloneReplay core bench bad) := nofun

theorem patrolRead (line : Nat) : Statement (.patrolRead line) := nofun

theorem hostMemWrite (addr size value : Nat) : Statement (.hostMemWrite addr size value) := nofun

theorem hostMemRead (addr size : Nat) : Statement (.hostMemRead addr size) := nofun

theorem bar0Access (fn off size : Nat) (write : Bool) (value : Nat) : Statement (.bar0Access fn off size write value) := nofun

theorem mailboxDoorbell (fn m value : Nat) : Statement (.mailboxDoorbell fn m value) := nofun

theorem flushComplete (core : Nat) : Statement (.flushComplete core) := nofun

theorem atsInvalidationRequest (pasid va count : Nat) : Statement (.atsInvalidationRequest pasid va count) := nofun

theorem peerInboundAccess (aid addr kind size value cmp : Nat) : Statement (.peerInboundAccess aid addr kind size value cmp) := nofun

theorem portDown (u : Nat) : Statement (.portDown u) := nofun

theorem portWidthChange (u lanes : Nat) : Statement (.portWidthChange u lanes) := nofun

theorem claimTimerExpiry (src : Nat) : Statement (.claimTimerExpiry src) := nofun

theorem icack (src : Nat) : Statement (.icack src) := nofun

theorem msixUnmask (fn vec : Nat) : Statement (.msixUnmask fn vec) := nofun

theorem integrityCheckFail (portC : Bool) (fn : Nat) : Statement (.integrityCheckFail portC fn) := nofun

theorem ideKeyManagement (fn : Nat) (secure : Bool) : Statement (.ideKeyManagement fn secure) := nofun

theorem spdmRequest (index : Nat) : Statement (.spdmRequest index) := nofun

theorem keyExchange : Statement (.keyExchange) := nofun

theorem lockInterfaceRequest (fn : Nat) : Statement (.lockInterfaceRequest fn) := nofun

theorem startInterfaceRequest (fn : Nat) : Statement (.startInterfaceRequest fn) := nofun

theorem stopInterfaceRequest (fn : Nat) : Statement (.stopInterfaceRequest fn) := nofun

theorem getDeviceInterfaceReport (fn : Nat) : Statement (.getDeviceInterfaceReport fn) := nofun

theorem hostConfigWrite (fn item v : Nat) : Statement (.hostConfigWrite fn item v) := nofun

theorem functionLevelReset (fn : Nat) : Statement (.functionLevelReset fn) := nofun

theorem powerFail : Statement (.powerFail) := nofun

theorem drainComplete : Statement (.drainComplete) := nofun

theorem gdone : Statement (.gdone) := nofun

theorem gskip (handle : Nat) : Statement (.gskip handle) := nofun

theorem policySliceEnd : Statement (.policySliceEnd) := nofun

theorem extentWrites : Statement (.extentWrites) := nofun

theorem sealLog : Statement (.sealLog) := nofun

theorem railCollapse : Statement (.railCollapse) := nofun

theorem supplyReturn : Statement (.supplyReturn) := nofun

theorem logErase : Statement (.logErase) := nofun

theorem thermalAlarm (temp : Nat) : Statement (.thermalAlarm temp) := nofun

theorem thermalTrip : Statement (.thermalTrip) := nofun

theorem powerAlarm (watts : Nat) : Statement (.powerAlarm watts) := nofun

theorem powerAlarmEnd : Statement (.powerAlarmEnd) := nofun

theorem powerGood : Statement (.powerGood) := nofun

theorem stage1 (ok : Bool) : Statement (.stage1 ok) := nofun

theorem stage2 (ok : Bool) (root entry : Nat) : Statement (.stage2 ok root entry) := nofun

theorem firmwareUpdate (slot version size digest : Nat) (verified : Bool) : Statement (.firmwareUpdate slot version size digest verified) := nofun

theorem activateFirmware (root entry : Nat) : Statement (.activateFirmware root entry) := nofun

theorem getState : Statement (.getState) := nofun

theorem startScrub (nonce : Nat) : Statement (.startScrub nonce) := nofun

theorem grant (id : Nat) : Statement (.grant id) := nofun

theorem revoke : Statement (.revoke) := nofun

theorem getRecord : Statement (.getRecord) := nofun

theorem revokeDeadline : Statement (.revokeDeadline) := nofun

theorem scrubComplete (lines : List Nat) (covered : Nat) : Statement (.scrubComplete lines covered) := nofun

theorem registerWrite (block off value : Nat) : Statement (.registerWrite block off value) := nofun

theorem hostSnoop (addr size : Nat) (takes : Bool) (value : Nat) : Statement (.hostSnoop addr size takes value) := nofun

theorem globalObservationResponse (core : Nat) (relaxed : Bool) (place : Nat) : Statement (.globalObservationResponse core relaxed place) := nofun

theorem portUp (port lanes : Nat) : Statement (.portUp port lanes) := nofun

theorem portPDown : Statement (.portPDown) := nofun

theorem portCError (lost : Bool) : Statement (.portCError lost) := nofun

theorem portPError : Statement (.portPError) := nofun

theorem resetDevice : Statement (.resetDevice) := nofun

theorem serviceCoreMessage (core : Nat) : Statement (.serviceCoreMessage core) := nofun

end Sys2Proof.Laws.Encode
end

