-- ==== Sys2Proof/Tests/Slice0.lean ====
section
/-! SUPPORT. The model's own tests: words from the spec's encodings, ill-formed terms, states that meet the hypotheses of each
statement, and single steps with results taken from the spec. -/

namespace Sys2Proof.Tests

set_option Elab.async false

open Sys2Proof Sys2Proof.Machine Sys2Proof.Claims

/-! ### Decoding: words written out from Tables 3-2 and 3-5 to 3-11 and the descriptions -/

/-- V and U formats: class, opcode, ea, eb, D, A, B at [31:30], [29:23], [22], [21], [20:14], [13:7], [6:0]. -/
def wordV (cls op ea eb d a b : Nat) : Word := BitVec.ofNat 32 (cls * 2 ^ 30 + op * 2 ^ 23 + ea * 2 ^ 22 + eb * 2 ^ 21 + d * 2 ^ 14 + a * 2 ^ 7 + b)
/-- I format: D at [22:16], A at [15:9], imm9 at [8:0]. -/
def wordI (cls op d a i : Nat) : Word := BitVec.ofNat 32 (cls * 2 ^ 30 + op * 2 ^ 23 + d * 2 ^ 16 + a * 2 ^ 9 + i)
/-- L and B formats of class 11: D or A at [22:16], imm16 or off16 at [15:0]. -/
def wordL (op x i : Nat) : Word := BitVec.ofNat 32 (3 * 2 ^ 30 + op * 2 ^ 23 + x * 2 ^ 16 + i)
/-- Each word of a list decodes to its instruction. -/
noncomputable def decodesAll (l : List (Word × Instr)) : Bool := l.all fun p => decide (decode p.1 = .ok p.2)

theorem test_decode_vector_two_sources : decodesAll
    (([(0x00, .vadd), (0x01, .vsub), (0x02, .vmullo), (0x03, .vmulhis), (0x04, .vmulhiu), (0x05, .vmad), (0x06, .vadds), (0x07, .vsubs),
      (0x08, .vaddx2), (0x09, .vsubx2), (0x0A, .vmins), (0x0B, .vminu), (0x0C, .vmaxs), (0x0D, .vmaxu), (0x0E, .vdot4s), (0x0F, .vdot4u),
      (0x10, .vand), (0x11, .vor), (0x12, .vxor), (0x13, .vandn), (0x14, .vshl), (0x15, .vshru), (0x16, .vshrs), (0x17, .vrot),
      (0x18, .vbfeu), (0x19, .vbfes), (0x1A, .vbfi), (0x1B, .vsel), (0x1E, .vcmpeq), (0x1F, .vcmplts), (0x20, .vcmpltu), (0x21, .vcmples),
      (0x22, .vcmpleu), (0x23, .vshfl), (0x24, .vshflx), (0x25, .vshflup), (0x26, .vshfldn), (0x27, .vrdlane), (0x28, .vwrlane),
      (0x72, .vpackF16), (0x73, .vpackBf16), (0x74, .vfscaleF32), (0x75, .vfscaleF64), (0x76, .vfdot2F16), (0x77, .vfdot2Bf16)] :
        List (Nat × (Bool → Bool → Code → Code → Code → Instr))).map fun p => (wordV 0 p.1 0 1 5 6 0x71, p.2 false true 5 6 0x71)) = true := by
  decide

theorem test_decode_vector_one_source : decodesAll
    (([(0x1D, .vmov), (0x29, .vredadd), (0x2A, .vredmins), (0x2B, .vredmaxs), (0x2C, .vredand), (0x2D, .vredor), (0x2E, .vscanadd),
      (0x2F, .vballot)] : List (Nat × (Bool → Code → Code → Instr))).map fun p => (wordV 0 p.1 1 0 0x5F 6 0, p.2 true 0x5F 6)) = true ∧
    decodesAll (([(0, .vpopc), (1, .vclz), (2, .vctz), (3, .vbrev), (4, .vnot), (5, .vabs), (6, .vneg), (7, .vsx8), (8, .vsx16),
      (9, .vzx8), (10, .vzx16)] : List (Nat × (Bool → Code → Code → Instr))).map fun p => (wordV 0 0x1C 1 0 9 8 p.1, p.2 true 9 8)) = true := by
  decide

theorem test_decode_vector_immediates : decodesAll
    (([(0x30, .vaddi), (0x31, .vmuli), (0x32, .vandi), (0x33, .vori), (0x34, .vxori), (0x35, .vshli), (0x36, .vshrui), (0x37, .vshrsi),
      (0x38, .vcmpeqi), (0x39, .vcmpltsi), (0x3A, .vcmpltui)] : List (Nat × (Code → Code → BitVec 9 → Instr))).map
      fun p => (wordI 0 p.1 7 2 0x1F, p.2 7 2 0x1F)) = true := by
  decide

theorem test_decode_vector_float : decodesAll
    (([.vfadd, .vfsub, .vfmul, .vffma, .vffms, .vfmin, .vfmax, .vfcmpeq, .vfcmplt, .vfcmple, .vfcmpun] :
        List (FType → Bool → Bool → Code → Code → Code → Instr)).zipIdx.flatMap fun p =>
      [(0, .f32), (1, .f64), (2, .f16x2), (3, .bf16x2)].map fun q =>
        (wordV 0 (0x40 + 4 * p.2 + q.1) 1 0 10 12 0x64, p.1 q.2 true false 10 12 0x64)) = true := by
  decide

theorem test_decode_vector_float_functions : decodesAll
    (([.vfsqrt, .vfrsq, .vfrcp, .vfexp2, .vflog2, .vfsinpi, .vfcospi, .vftanh, .vfabs, .vfneg, .vffloor, .vfceil, .vftrunc, .vfrne, .vffrac,
      .vfclass] : List (FType → Bool → Code → Code → Instr)).zipIdx.flatMap fun p =>
      [(0, .f32), (1, .f64), (2, .f16x2), (3, .bf16x2)].map fun q => (wordV 0 (0x6C + q.1) 0 0 6 10 p.2, p.1 q.2 false 6 10)) = true ∧
    decodesAll [(wordV 0 0x70 0 0 4 2 0x04, .vcvt false 4 2 0x04), (wordV 0 0x71 1 0 5 2 0x0A, .vcvts true 5 2 0x0A)] = true := by
  decide

theorem test_decode_scalar : decodesAll
    (([.sadd, .ssub, .smul, .smulhu, .smulhs, .sdivu, .sdivs, .sremu, .srems, .smins, .sminu, .smaxs, .smaxu, .sand, .sor, .sxor, .sandn,
      .sshl, .sshru, .sshrs, .sbfe, .sbfi] : List (Bool → Bool → Code → Code → Code → Instr)).zipIdx.map fun p =>
      (wordV 1 p.2 1 0 30 31 0x7C, p.1 true false 30 31 0x7C)) = true ∧
    decodesAll (([(0x18, .scmpeq), (0x19, .scmplts), (0x1A, .scmpltu), (0x1B, .scmples), (0x1C, .scmpleu), (0x1D, .ssel), (0x20, .sfadd),
      (0x21, .sfsub), (0x22, .sfmul), (0x23, .sffma), (0x24, .sfcmplt)] : List (Nat × (Bool → Bool → Code → Code → Code → Instr))).map
      fun p => (wordV 1 p.1 0 1 30 31 32, p.2 false true 30 31 32)) = true ∧
    decodesAll (([.spopc, .sclz, .sctz, .sbrev, .snot, .sneg, .ssx32, .szx32] : List (Bool → Code → Code → Instr)).zipIdx.map fun p =>
      (wordV 1 0x16 0 0 20 9 p.2, p.1 false 20 9)) = true ∧
    decodesAll (([.saddi, .sandi, .sori, .sxori, .sshli, .sshrui, .sshrsi, .scmpeqi, .scmpltsi, .scmpltui] :
      List (Code → Code → BitVec 9 → Instr)).zipIdx.map fun p => (wordI 1 (0x26 + p.2) 20 9 0x3F, p.1 20 9 0x3F)) = true ∧
    decodesAll [(wordV 1 0x17 1 0 1 2 0, .smov true 1 2), (0x4F050180, .sgetst 20 3), (wordV 1 0x1F 1 1 0 3 4, .ssetst true true 3 4),
      (wordV 1 0x25 0 0 7 8 5, .sfcvt false 7 8 5)] = true := by
  decide

theorem test_decode_control : decodesAll [(0x60001805, .bri 12 5), (wordV 1 0x41 1 0 0 9 0, .jr true 9), (wordV 1 0x42 0 0 0 9 0, .callr false 9),
    (0x61800000, .exit), (0x62002A10, .exitto 21 16), (0x62942A00, .spawn 20 21), (0x63000000, .bar), (0x63000001, .barSp),
    (0x6394003B, .parv 20 7 3), (0x64002803, .pwait 20 3), (0x648001F0, .win 0x1F0), (0x65078000, .winq 30), (0x65800001, .vsw 1),
    (0x66000000, .yield), (0x66800000, .nop), (0x67000007, .sysc 7), (0x67800005, .brk 5), (wordV 1 0x50 0 0 0 0 0, .tret)] = true := by
  decide

theorem test_decode_dispatch_guard_trap : decodesAll [(0x6882450B, .enq false false 9 10 11), (0x69024500, .join false 9 10),
    (wordV 1 0x53 0 0 9 10 8, .msd false 9 10 8), (wordV 1 0x53 1 0 9 10 0, .msdWithdraw true 9 10),
    (wordV 1 0x54 0 1 13 12 14, .msx false true 13 12 14), (wordV 1 0x55 0 0 9 0 3, .hstat 9 3), (wordV 1 0x55 0 0 9 10 4, .hstatLog false 9 10 4),
    (wordV 1 0x56 0 0 9 10 0, .sigmask false 9 10), (wordV 1 0x57 0 0 9 10 0, .sighand false 9 10), (wordV 1 0x57 0 0 9 0 1, .sighandCause 9),
    (0x6B824002, .sighandTaddr 9), (wordV 1 0x57 0 0 9 0 3, .sighandTmask 9), (wordV 1 0x57 0 0 9 0 4, .sighandFaddr 9)] = true := by
  decide

theorem test_decode_privileged : decodesAll [(0x700D0048, .pget 13 0x48), (0x70801610, .pset 11 0x10), (wordV 1 0x62 0 1 1 2 3, .unpark false true 1 2 3),
    (wordV 1 0x63 1 0 1 2 0, .sig true 1 2), (wordV 1 0x64 0 0 1 2 3, .tinj false false 1 2 3), (0x72850A96, .swapo false false 20 21 22),
    (wordV 1 0x66 0 0 20 21 22, .swapi false false 20 21 22), (0x7383C58D, .sysrp false false 15 11 13),
    (wordV 1 0x68 1 1 0 21 22, .tlbinv true true 21 22), (0x74800040, .tfence 1), (0x748000C0, .tfence 3), (0x75050A96, .tprobe false false 20 21 22),
    (wordV 1 0x6B 0 0 20 21 22, .aspill false false 20 21 22), (wordV 1 0x6C 0 0 20 21 22, .afill false false 20 21 22),
    (0x76850A96, .chres false false 20 21 22), (wordV 1 0x6E 0 0 20 21 22, .chabt false false 20 21 22), (0x7782450B, .lmapw false false 9 10 11),
    (wordI 1 0x70 9 10 0, .chkmFloor 9 10), (0x78091401, .chkmLmap 9 10), (wordI 1 0x70 9 10 2, .chkmLfail 9 10),
    (wordI 1 0x70 9 10 3, .chkmCmap 9 10), (wordI 1 0x70 9 10 4, .chkmCnt 9 10), (wordI 1 0x70 9 10 5, .chkmClr 9 10)] = true ∧
    decodesAll [(wordV 1 0x71 0 1 9 2 10, .trcfg true 9 2 10), (0x7902450B, .bpset false false 9 10 11), (wordV 1 0x73 0 0 9 10 11, .wpset false false 9 10 11),
    (wordI 1 0x74 9 0 24, .smpl 9 24), (wordV 1 0x75 0 0 9 10 11, .garmShare false false 9 10 11), (0x7B02410A, .dcfg false 9 2 10),
    (wordV 1 0x76 0 1 9 0x10 10, .carve true 9 10), (wordV 1 0x76 0 0 9 0x11 10, .ctxon false 9 10), (wordV 1 0x76 0 0 9 0x12 10, .ctxoff false 9 10),
    (wordV 1 0x76 0 0 9 0x13 10, .qarm false 9 10), (wordV 1 0x76 0 0 9 0x14 10, .kill false 9 10), (wordV 1 0x77 0 0 9 10 11, .vreq false false 9 10 11),
    (0x7C050A80, .halt false 20 21), (0x7C850A80, .resm false 20 21), (0x7D02450B, .intfwAck false false 9 10 11)] = true := by
  decide

theorem test_decode_load_store : decodesAll
    (([.ldb, .ldbs, .ldh, .ldhs, .ldw, .ldd, .ldq, .stb, .sth, .stw, .std, .stq, .sld, .sldw, .sst, .sstw] :
      List (Code → Code → BitVec 9 → Instr)).zipIdx.map fun p => (wordI 2 p.2 4 0x6E 0x1FF, p.1 4 0x6E 0x1FF)) = true ∧
    decodesAll (([.atadd, .atmins, .atminu, .atmaxs, .atmaxu, .atand, .ator, .atxor, .atxchg, .atcas, .atfadd, .atdadd, .atdcas] :
      List (Bool → Bool → Code → Code → Code → Instr)).zipIdx.map fun p => (wordV 2 (0x16 + p.2) 0 1 4 0x6E 6, p.1 false true 4 0x6E 6)) = true ∧
    decodesAll (([.vatfadd, .vatbadd, .vatfmax, .vatiadd] : List (Bool → Bool → Code → Code → Instr)).zipIdx.map fun p =>
      (wordV 2 (0x23 + p.2) 1 0 0 0x6E 6, p.1 true false 0x6E 6)) = true ∧
    decodesAll [(wordV 2 0x10 0 0 4 0x6E 6, .ldwx false false 4 0x6E 6), (wordV 2 0x11 0 0 4 0x6E 6, .stwx false false 4 0x6E 6),
      (0x8907DD40, .lda 7 0x6E 5 0), (wordI 2 0x13 0x7C 0x6E 0x050, .stl 0x7C 0x6E 1 1), (0x8A000100, .fence 4), (0x8A8000C8, .xfence 3 1 0),
      (0x9397C77C, .waitc false false 5 15 0 false 14 0x7C), (wordI 2 0x28 0 0x6E 1, .pref 0x6E 1), (wordI 2 0x29 0 0x6E 1, .cinv 0x6E 1),
      (wordI 2 0x2A 0 0x6E 1, .cwb 0x6E 1), (wordI 2 0x2B 4 0x6E 0x102, .ldpv 4 0x6E true 2), (0x9614DEFE, .stpv 0x14 0x6F false 0xFE),
      (wordI 2 0x2D 4 0x6E 1, .ldbc 4 0x6E 1)] = true := by
  decide

theorem test_decode_copy_and_matrix : decodesAll
    (([(0x40, .cpgt), (0x41, .cptg), (0x42, .cpgg), (0x43, .cpat), (0x44, .cpgs), (0x45, .cpsg), (0x46, .cpix), (0x4C, .cfill)] :
      List (Nat × (Bool → Bool → BitVec 3 → BitVec 4 → Code → Code → Instr))).map fun p =>
      (wordV 2 p.1 1 0 (5 * 16 + 12) 0x68 0x6A, p.2 true false 5 12 0x68 0x6A)) = true ∧
    decodesAll [(wordV 2 0x47 0 0 8 0x68 (2 * 32 + 31), .tld false 8 0x68 2 31), (wordV 2 0x48 0 0 8 0x68 (1 * 32 + 3), .tst false 8 0x68 1 3),
      (wordV 2 0x49 0 1 0 0x68 0x7C, .cwp false true 0x68 0x7C), (wordV 2 0x4A 1 0 0 0x68 0, .cwait true 0x68),
      (wordV 2 0x4B 0 0 0x69 0x68 0, .cdone false 0x69 0x68), (wordV 2 0x4D 0 0 (5 * 16) 0 0, .ccan 5)] = true ∧
    decodesAll (([.mmaBf16, .mmaF16, .mmaE4m3, .mmaE5m2, .mmaMxe2m1, .mmaMxe4m3, .mmaMxe2m3, .mmaI8] :
      List (Bool → Bool → BitVec 4 → BitVec 2 → Bool → Code → Code → Instr)).zipIdx.map fun p =>
      (wordV 2 (0x60 + p.2) 0 1 (9 * 8 + 1 * 2 + 1) 8 0x28, p.1 false true 9 1 true 8 0x28)) = true ∧
    decodesAll [(0xB0014428, .mmaBf16 false false 0 2 true 8 0x28), (wordV 2 0x68 1 0 0 0x6F 0, .mgang true 0x6F), (wordI 2 0x69 0x69 0 0x101, .macq 0x69 true 1),
      (wordI 2 0x6A 0 0x69 0, .mrel 0x69), (wordI 2 0x6B 0 0 11, .mzero 11), (0xB61C3180, .mdrain false 0x70 0x63 0),
      (wordI 2 0x6D 0x69 0 4, .mcfg 0x69 4), (wordV 2 0x6E 0 0 0x69 0x68 0, .mstat false 0x69 0x68), (wordV 2 0x6F 0 0 0 0x68 0, .mwait false 0x68)] = true := by
  decide

theorem test_decode_long : decodesAll [(wordL 0 3 0x8000, .br 3 0x8000), (wordL 1 3 0xFFF4, .brz 3 0xFFF4), (wordL 2 0x61 2, .bru 0x61 2),
    (wordL 3 0x61 2, .bruz 0x61 2), (wordL 4 3 1, .brs 3 1), (0xC2FFFFFF, .jmp 0x7FFFFF), (0xC3001234, .call 0x1234), (wordL 7 0x69 0xFFF9, .sloop 0x69 0xFFF9),
    (wordL 8 40 0xBEEF, .smovl 40 0xBEEF), (0xC4A8BEEF, .smovh 40 0xBEEF), (wordL 10 40 1, .smovx 40 1), (wordL 11 40 1, .smovt 40 1),
    (wordL 12 7 0xABCD, .vmovl 7 0xABCD), (wordL 13 7 0xABCD, .vmovh 7 0xABCD)] = true := by
  decide

/-! ### Well-formedness: one ill-formed term for each check, and a word of it that the decoder refuses -/

theorem test_ill_formed_refused : ([.lda 0 0 6 0, .lda 0 0 0 2, .stl 0 0 5 0, .stl 0 0 0 3, .fence 6, .xfence 5 0 0, .xfence 0 7 0, .xfence 0 0 7,
    .tfence 5, .waitc false false 6 0 0 false 0 0, .waitc false false 0 0 3 false 0 0, .sgetst 0 7, .sfcvt false 0 0 7, .bri 0 0, .exitto 0 97, .win 4,
    .mmaBf16 false false 0 3 false 0 0, .mmaI8 false false 0 3 false 0 0, .mdrain false 0 0 4, .smpl 0 7, .smpl 0 25, .msd false 0 0 0, .msd false 0 0 9,
    .hstat 0 4, .hstatLog false 0 0 3, .hstatLog false 0 0 7, .trcfg false 0 11 0, .trcfg true 0 64 0, .trcfg false 0 64 1, .dcfg false 0 10 0,
    .dcfg false 0 74 0, .dcfg true 0 80 0, .dcfg false 0 85 0, .garmRead false false 0 0 0, .garmRelease false false 0 0 0,
    .intfwFwd false false 0 0 0, .intfwRaise false false 0 0 0, .intfwSend false false 0 0 0] : List Instr).all (fun i => !i.wellFormed) = true := by
  decide

theorem test_reserved_words_refused : ([0xFFFFFFFF, 0x0E200000, 0x36000010, 0x8A800180, 0x8900000F, 0x4F000380, 0x60000000, 0x62000061, 0x64800004,
    0x7A000007, 0x6980000A, 0x78805800, 0x7B000500, 0xB0018000, 0xB6000004] : List Nat).all
      (fun w => match decode (BitVec.ofNat 32 w) with | .ok _ => false | .error _ => true) = true := by
  decide

/-! ### States for the witnesses

A witness shows a concrete state and operands that meet the hypotheses of a statement, or of a clause of one, together. -/

/-- The strand that `withFetchWord` sets up, issuing: PASID 1, core 0, 128 lines, a first GiB mapped to local memory. -/
def user : State := { State.reset.harness 0 with curKey := 0x300000 }
/-- The supervisor strand of core 0, issuing. -/
def super : State := { State.reset.harness (0xE0 * 2 ^ 23) with curKey := 2 ^ 64 }
/-- The issuing strand changed. -/
def withCur (s : State) (f : Strand → Strand) : State := s.setCur (f s.cur)
/-- The cohort of the issuing strand changed. -/
def withCohort (s : State) (f : Cohort → Cohort) : State := s.setCurCohort (f s.curCohort)
/-- A core changed. -/
def withCore (s : State) (k : Nat) (f : Core → Core) : State := s.setCore k (f (s.core k))
/-- Scalars of the issuing strand given. -/
def withScalars (s : State) (l : List (Nat × Nat)) : State := withCur s fun st => { st with scal := l.map fun x => (x.1, BitVec.ofNat 64 x.2) }

/-- The issuing strand with one entry of the mailbox q4. -/
def mailed : State := withCohort user fun c => { c with mailbox := [zeroLine] }

/-- `Ready`, as one test. -/
def readyTest (s : State) (us : List Use) (extra : List Nat := []) : Bool :=
  us.all (fun u => u.accepted) && us.all (fun u => !s.cur.misuses u) &&
  (sourceQueues us).all (fun q => (s.peek s.cur q).isEntry) &&
  (destQueues us).all (fun q => (sourceQueues us).contains q || decide (s.mailboxLoad (s.cohort s.cur.ccb) < 16)) &&
  (usedLines us s.cur.wb).all (fun n => decide (n < s.cur.nlines)) &&
  (usedLines us s.cur.wb ++ extra).all (fun n => s.cur.vFull.getLsbD n && !s.cur.absent.getLsbD n) &&
  us.all (fun u => match u.scalar? with | some m => s.cur.sFull.getLsbD m | none => true) &&
  !s.cur.floatBusy (usedLines us s.cur.wb ++ extra) (!(destQueues us).isEmpty) && !s.matrixBusy s.cur us &&
  s.flawedLanes us == 0 && !s.cur.lateIn s.now (usedLines us s.cur.wb ++ extra)

theorem ready_of_test {s : State} {us : List Use} {extra : List Nat} (h : readyTest s us extra = true) : Ready s us extra := by
  simp only [readyTest, Bool.and_eq_true, Bool.not_eq_true'] at h
  obtain ⟨⟨⟨⟨⟨⟨⟨⟨⟨⟨h1, h2⟩, h3⟩, h4⟩, h5⟩, h6⟩, h7⟩, h8⟩, h9⟩, h10⟩, h11⟩ := h
  exact ⟨h1, h2, h3, h4, h5, h6, h7, h8, h9, h11, eq_of_beq h10⟩

theorem hasLanes_of {s : State} (h : decide ((candidate s.cur).mask ≠ 0 ∧ s.cur.also = []) = true) : HasLanes s :=
  of_decide_eq_true (p := (candidate s.cur).mask ≠ 0 ∧ s.cur.also = []) h

theorem user_hasLanes : HasLanes user := hasLanes_of (by decide +kernel)
theorem user_unchecked : Unchecked user := ⟨by decide +kernel, by decide +kernel, by decide +kernel⟩
theorem user_untraced : Untraced user := by unfold Untraced; decide +kernel
theorem super_hasLanes : HasLanes super := hasLanes_of (by decide +kernel)
theorem super_unchecked : Unchecked super := ⟨by decide +kernel, by decide +kernel, by decide +kernel⟩

/-! ### Witnesses: vector and scalar units (08, 09, 06) -/

/-- Float results outstanding: one to be written to a line with the flag inexact, one to be pushed, and one whose flag traps. -/
def waiting : State := withCur user fun st => { st with floats := [
  { mask := 3, lines := [(4, 3, zeroLine)], flags := [16, 16] }, { mask := 3, push := some (4, zeroLine) },
  { mask := 3, lines := [(5, 3, zeroLine)], flags := [16, 16], te := 16 }] }

theorem witness_vector_forms : HasLanes user ∧ user.cur.chk ≠ 1 ∧ Ready user (usesV false false 1 2 3) ∧ Ready mailed (usesV true true 0x74 0x74 0x7E) ∧
    Ready user (usesM false true 95 2 0x79) ∧ Ready user (usesU true 1 2) ∧ Ready user (usesU false 5 0x7D) ∧
    (31 : BitVec 9).toNat < 32 ∧ 32 ≤ (32 : BitVec 9).toNat := by
  and_intros <;> first
    | decide +kernel
    | exact ready_of_test (by decide +kernel)
    | exact user_hasLanes

theorem witness_lane_exchange : HasLanes user ∧ user.cur.chk = 0 ∧ Ready user (usesV true false 1 2 0x79) ∧
    Ready user [⟨.vsrc, 1, true⟩, ⟨.useg, 0x61, false⟩, ⟨.seg, 0x6F, false⟩] ∧ Ready user [⟨.useg, 0x61, false⟩, ⟨.useg, 0x79, false⟩, ⟨.vreg, 5, false⟩] ∧
    Ready user [⟨.vsrc, 1, false⟩, ⟨.vred, 0x69, false⟩] ∧ isSeg 0x69 = true ∧ Ready user [⟨.vsrc, 1, false⟩, ⟨.vred, 7, false⟩] ∧ isSeg 7 = false ∧
    Ready user [⟨.vsrc, 1, false⟩, ⟨.vbal, 0x6A, false⟩] ∧ isSeg 0x6A = true ∧ Ready user [⟨.vsrc, 1, false⟩, ⟨.vbal, 6, false⟩] ∧
    isSeg 6 = false ∧ popsInto [⟨.vsrc, 1, false⟩, ⟨.vbal, 6, false⟩] = false ∧ Ready mailed [⟨.vsrc, 0x74, false⟩, ⟨.vbal, 6, false⟩] ∧
    popsInto [⟨.vsrc, 0x74, false⟩, ⟨.vbal, 6, false⟩] = true := by
  and_intros <;> first
    | decide +kernel
    | exact ready_of_test (by decide +kernel)
    | exact user_hasLanes

theorem witness_float_forms : HasLanes user ∧ user.cur.chk ≠ 1 ∧ (∀ ty ∈ [FType.f32, .f64, .f16x2, .bf16x2], ∀ m ∈ [false, true], ∀ n ∈ [false, true],
    Ready user (usesF ty m n false false 4 6 8) ∧ Ready user (usesF1 ty n true 4 6)) ∧
    cvtListed false 0x08 = true ∧ cvtListed true 0x08 = true ∧ cvtListed false 0x7F = false ∧
    (∀ a ∈ [Role.vsrc64, .vsrc], ∀ d ∈ [Role.vdst64, .vdst], Ready user [⟨a, 2, false⟩, ⟨d, 4, false⟩] ∧
      Ready user [⟨a, 2, false⟩, ⟨.vsrc, 5, false⟩, ⟨d, 4, false⟩]) ∧ Ready user (usesM false false 4 2 3) := by
  and_intros <;> first
    | decide +kernel
    | exact fun ty hty m hm n hn => ⟨ready_of_test (by revert ty m n; decide +kernel), ready_of_test (by revert ty m n; decide +kernel)⟩
    | exact fun a ha d hd => ⟨ready_of_test (by revert a d; decide +kernel), ready_of_test (by revert a d; decide +kernel)⟩
    | exact ready_of_test (by decide +kernel)
    | exact user_hasLanes

theorem witness_FloatWriteback :
    (∃ f, (waiting.strand 0x300000).floats[0]? = some f ∧ f.raises = [] ∧ f.lines = [(4, f.mask, zeroLine)] ∧ f.push = none) ∧
    (∃ f, (waiting.strand 0x300000).floats[1]? = some f ∧ f.raises = [] ∧ f.push = some (4, zeroLine)) ∧
    (∃ f, (waiting.strand 0x300000).floats[2]? = some f ∧
      f.raises = [{ cause := .floatInexact, mask := 3, taddr := pcWord f.pc }]) ∧ waiting.guard.sequence = .none ∧
    (waiting.strand 0x300000).sup = false ∧ (waiting.strand 0x300000).handler.getLsbD 0 = false ∧
    (waiting.core (waiting.strand 0x300000).core).held = [] ∧ (waiting.core (waiting.strand 0x300000).core).evq.length < 64 := by
  and_intros <;> first
    | decide +kernel
    | exact ⟨_, rfl, by decide +kernel, by decide +kernel, by decide +kernel⟩
    | exact ⟨_, rfl, by decide +kernel, by decide +kernel⟩
    | exact ⟨_, rfl, by decide +kernel⟩

theorem witness_FloatRounding : (FVal.nan true).isNan = true ∧ (2 : Nat) ≤ Nat.log2 6 ∧ (1 : Nat) ≤ Nat.log2 2 ∧ 2 * (6 % 2 ^ 2) = 2 ^ 2 := by decide +kernel

theorem witness_ScalarArithmetic : HasLanes user ∧ Ready user (usesS true false 30 31 0x7C) ∧ user.ssrc 0x7C ≠ 0 ∧ Ready mailed (usesS false false 0x74 0x74 63) ∧
    Ready user (usesS false false 1 2 0x78) ∧ user.ssrc 0x78 = 0 := by
  and_intros <;> first
    | decide +kernel
    | exact ready_of_test (by decide +kernel)
    | exact user_hasLanes

theorem witness_ScalarForms : HasLanes user ∧ Ready user (usesSU true 1 2) ∧ (63 : BitVec 9).toNat < 64 ∧ 64 ≤ (64 : BitVec 9).toNat ∧
    Ready user (usesS false false 1 2 0x7C) ∧ fieldReserved (user.ssrc 0x7C) = false ∧ Ready user (usesS false false 1 2 0x7E) ∧
    fieldReserved (user.ssrc 0x7E) = true ∧ Ready user (usesSM false false 1 2 0x7C) ∧ Ready user (usesSM false false 1 2 0x7E) ∧
    Ready user [⟨.sreg, 63, false⟩] ∧ Ready user [⟨.vreg, 95, false⟩] := by
  and_intros <;> first
    | decide +kernel
    | exact ready_of_test (by decide +kernel)
    | exact user_hasLanes

/-- 1.0 in s1, 0 in s2 and inexact enabled in STAT.TE. -/
def enabled : State := withCur (withScalars user [(1, 0x3FF0000000000000), (2, 0x3CA0000000000000)]) fun st => { st with stat := 0x1F00 }

theorem witness_StatusAndScalarFloat : HasLanes user ∧ (0 : Code).toNat < 7 ∧ (6 : Code).toNat < 7 ∧ user.cur.floats = [] ∧ Ready user [⟨.sdst, 5, false⟩] ∧
    Ready user [⟨.ssrc, 1, true⟩, ⟨.ssrc, 2, false⟩] ∧ Ready user [⟨.ssrc, 1, true⟩, ⟨.ssrc, 2, false⟩, ⟨.sdst, 3, false⟩] ∧
    Ready user [⟨.ssrc, 1, true⟩, ⟨.ssrc, 2, false⟩, ⟨.ssrc, 3, false⟩, ⟨.sdst, 3, false⟩] ∧
    (Fmt.f64.add user.cur.frm 0 0).2 &&& user.cur.te = 0 ∧ Ready user (usesSU false 3 1) ∧
    (scalarConvert 0 user.cur.frm (user.ssrc 1).toNat).2 &&& user.cur.te = 0 ∧
    (floatCauses.find? fun c => ((Fmt.f64.add 0 (enabled.ssrc 1).toNat (enabled.ssrc 2).toNat).2 &&& enabled.cur.te).getLsbD c.1).isSome = true := by
  and_intros <;> first
    | decide +kernel
    | exact ready_of_test (by decide +kernel)
    | exact user_hasLanes

/-! ### Witnesses: control flow (06) -/

/-- One lane of line 3 is not zero. -/
def parted : State := withCur user fun st => st.setLine 3 (mergeLine zeroLine 1 fun _ => 1)
/-- s1 holds 0x100000, s2 holds 0x100002 and s3 holds 2^48. -/
def targets : State := withScalars user [(1, 0x100000), (2, 0x100002), (3, 2 ^ 48)]

theorem witness_ConditionalBranches : HasLanes parted ∧ Unchecked parted ∧ Untraced parted ∧ Ready parted [⟨.vsrc, 3, false⟩] ∧
    taken parted false 3 ≠ 0 ∧ lanes parted &&& ~~~ (taken parted false 3) ≠ 0 ∧ taken parted true 3 ≠ 0 ∧ lanes parted &&& ~~~ (taken parted true 3) ≠ 0 ∧
    Ready user [⟨.vsrc, 3, false⟩] ∧ taken user false 3 = 0 ∧ taken user true 3 = lanes user := by
  and_intros <;> first
    | decide +kernel
    | exact ⟨by decide +kernel, by decide +kernel, by decide +kernel⟩
    | exact ready_of_test (by decide +kernel)
    | exact hasLanes_of (by decide +kernel)
    | (unfold Untraced; decide +kernel)

theorem witness_Jumps : HasLanes targets ∧ Unchecked targets ∧ Untraced targets ∧ Ready targets [⟨.sreg, 63, false⟩] ∧
    (∀ a ∈ ([1, 2, 3] : List Code), Ready targets [⟨.ssrc, a, true⟩] ∧ Ready targets [⟨.ssrc, a, true⟩, ⟨.sreg, 63, false⟩]) ∧
    (targets.ssrc 1).toNat % 4 = 0 ∧ (targets.ssrc 1).toNat < 2 ^ 48 ∧ (targets.ssrc 2).toNat % 4 ≠ 0 ∧ (targets.ssrc 3).toNat % 4 = 0 ∧ 2 ^ 48 ≤ (targets.ssrc 3).toNat := by
  and_intros <;> first
    | decide +kernel
    | exact fun a ha => ⟨ready_of_test (by revert a; decide +kernel), ready_of_test (by revert a; decide +kernel)⟩
    | exact ⟨by decide +kernel, by decide +kernel, by decide +kernel⟩
    | exact ready_of_test (by decide +kernel)
    | exact hasLanes_of (by decide +kernel)
    | (unfold Untraced; decide +kernel)

theorem witness_LoopsAndExits : HasLanes user ∧ Unchecked user ∧ Untraced user ∧ Ready user [⟨.ssrc, 1, false⟩] ∧ (1 : BitVec 9) ≠ 0 ∧ Ready user [⟨.sloop, 0x69, false⟩] ∧
    user.cur.sup = false ∧ ((user.core user.cur.core).latch.all fun g => !(g.ccb == user.cur.ccb && (gangMembers g.members).contains user.cur.sidx)) = true ∧ user.curCohort.barrier = none ∧ super.cur.sup = true ∧ Unchecked super ∧
    96 < (97 : BitVec 9).toNat ∧ (96 : BitVec 9).toNat ≤ 96 ∧ user.cur.wb + 96 ≤ user.cur.nlines ∧
    (let s := withCur user fun st => { st with wb := 40 }; Unchecked s ∧ s.cur.sup = false ∧ Ready s [⟨.ssrc, 1, false⟩] ∧ s.cur.nlines < s.cur.wb + 96) := by
  and_intros <;> first
    | decide +kernel
    | exact ⟨by decide +kernel, by decide +kernel, by decide +kernel⟩
    | exact ready_of_test (by decide +kernel)
    | exact super_unchecked
    | exact user_unchecked
    | exact user_hasLanes
    | exact user_untraced

/-- The strand has ended and left a successor. -/
def succeeding : State := withCur user fun st => { st with frontier := [], succ := some ⟨0x100000, 16, 8⟩ }
/-- A cohort of two strands, the second one freed. -/
def pairOf : State :=
  { withCohort targets fun c => { c with cibs := [some 0x300000, some 0x310000], variants := [{ strands := 2, lines := 128, acc := 1, scratch := 4096 }] } with
    strands := (targets.strands ++ [(0x310000, { key := 0x310000, cib := 0x310000, ccb := 0x200000, sidx := 1, nlines := 128, exited := true, freed := true })]) }

theorem witness_SuccessorAndSlot : (∃ x, (succeeding.strand 0x300000).succ = some x) ∧ (succeeding.strand 0x300000).frontier = [] ∧
    (succeeding.strand 0x300000).producers = [] ∧ (succeeding.strand 0x300000).floats = [] ∧
    (let s := withCur user fun st => { st with frontier := [], exited := true }
     (s.strand 0x300000).exited = true ∧ (s.strand 0x300000).producers = [] ∧ (s.strand 0x300000).floats = []) :=
  ⟨⟨_, rfl⟩, by decide +kernel⟩

theorem witness_Spawn : targets.cur.sup = false ∧ HasLanes targets ∧ Ready targets [⟨.ssrc, 1, false⟩, ⟨.sreg, 20, false⟩] ((List.range 8).map fun i => targets.cur.wb + i) ∧
    (targets.ssrc 1).toNat % 4 = 0 ∧ (targets.ssrc 1).toNat < 2 ^ 48 ∧ targets.freeSlot targets.curCohort = none ∧
    pairOf.cur.sup = false ∧ HasLanes pairOf ∧ Ready pairOf [⟨.ssrc, 1, false⟩, ⟨.sreg, 20, false⟩] ((List.range 8).map fun i => pairOf.cur.wb + i) ∧
    (pairOf.ssrc 1).toNat % 4 = 0 ∧ (pairOf.ssrc 1).toNat < 2 ^ 48 ∧ pairOf.freeSlot pairOf.curCohort = some 1 ∧
    (pairOf.slotStrand pairOf.curCohort 1).key ≠ pairOf.curKey := by
  and_intros <;> first
    | decide +kernel
    | exact ready_of_test (by decide +kernel)
    | exact hasLanes_of (by decide +kernel)

theorem witness_WindowAndYield : (4 : BitVec 9).toNat % 8 ≠ 0 ∧ HasLanes user ∧
    (120 : BitVec 9).toNat % 8 = 0 ∧ (0 : Int) ≤ user.cur.wb + (120 : BitVec 9).toInt ∧ user.cur.wb + (120 : BitVec 9).toInt ≤ (user.cur.nlines : Int) - 8 ∧
    (128 : BitVec 9).toNat % 8 = 0 ∧ (user.cur.nlines : Int) - 8 < user.cur.wb + (128 : BitVec 9).toInt ∧
    (0x1F8 : BitVec 9).toNat % 8 = 0 ∧ user.cur.wb + (0x1F8 : BitVec 9).toInt < 0 ∧ Ready user [⟨.sdst, 30, false⟩] := by
  and_intros <;> first
    | decide +kernel
    | exact ready_of_test (by decide +kernel)
    | exact user_hasLanes

/-- Barrier 0 has one arrival of two; barrier 1 awaits three. -/
def arrived : State := withCohort user fun c => { c with phases := [(0, { cnt := 1, n := 1, act := true }), (1, { cnt := 1, n := 2, act := true })] }

theorem witness_Barriers : user.cur.sup = false ∧ (candidate user.cur).prio ≠ 0xFFFF ∧ user.curCohort.barrier = none ∧
    (candidate (withCur user fun st => { st with frontier := [{ mask := 1, prio := 0xFFFF, pc := 0x100000 }] }).cur).prio = 0xFFFF ∧
    (withCohort user fun c => { c with barrier := some { pc := 0x100004 } }).curCohort.barrier = some { pc := 0x100004 } ∧
    Ready arrived [⟨.sreg, 20, false⟩] ∧ arrived.cur.sup = false ∧ HasLanes arrived ∧
    (let p := Tab.get {} arrived.curCohort.phases 0; ¬ (p.act = true ∧ p.n ≠ (1 : BitVec 5).toNat) ∧ p.cnt = (1 : BitVec 5).toNat) ∧
    (let p := Tab.get {} arrived.curCohort.phases 1; ¬ (p.act = true ∧ p.n ≠ (2 : BitVec 5).toNat) ∧ p.cnt ≠ (2 : BitVec 5).toNat) ∧
    (let p := Tab.get {} arrived.curCohort.phases 1; p.act = true ∧ p.n ≠ (1 : BitVec 5).toNat) ∧
    Ready arrived [⟨.ssrc, 0x7C, false⟩] ∧ (Tab.get {} arrived.curCohort.phases 0).ph ≠ (arrived.ssrc 0x7C).getLsbD 0 ∧
    Ready arrived [⟨.ssrc, 0x78, false⟩] ∧ (Tab.get {} arrived.curCohort.phases 0).ph = (arrived.ssrc 0x78).getLsbD 0 := by
  and_intros <;> first
    | decide +kernel
    | exact ready_of_test (by decide +kernel)
    | exact hasLanes_of (by decide +kernel)

/-- A producer that holds a line and a scalar, a strand ready for 128 cycles, and nine entries of which eight are resident. -/
def scheduled : State := withCur user fun st => { st with
  producers := [{ lines := [(4, 3, zeroLine), (5, 3, zeroLine)] }, { scalars := [(5, 7)] }, { push := some (4, zeroLine) }], ready := 128, resident := 7,
  frontier := (List.range 9).map fun i => { mask := 2 ^ i, prio := 0x8000, pc := BitVec.ofNat 48 (4 * i) } }

theorem witness_SchedulerEvents : (∃ p, (scheduled.strand 0x300000).producers[0]? = some p ∧ (p.lines.map fun x => x.1).Nodup ∧ p.lines ≠ []) ∧
    (∃ p, (scheduled.strand 0x300000).producers[1]? = some p ∧ (p.scalars.map fun x => x.1).Nodup ∧ p.scalars ≠ []) ∧
    (∃ p, (scheduled.strand 0x300000).producers[2]? = some p ∧ p.push = some (4, zeroLine) ∧ p.lines = []) ∧
    128 ≤ (scheduled.strand 0x300000).ready ∧ (scheduled.strand 0x300000).frontier ≠ [] ∧ (scheduled.strand 0x300000).resident < 8 ∧
    (scheduled.strand 0x300000).resident < (scheduled.strand 0x300000).frontier.length := by
  and_intros <;> first
    | decide +kernel
    | exact ⟨_, rfl, by decide +kernel, by decide +kernel⟩

/-! ### Witnesses: causes, handlers and the supervisor (13) -/

/-- A user handler, and in s1 to s3 an address with handler bit, a misaligned and a non-canonical one. -/
def handled : State := withCur (withScalars user [(1, 0x100001), (2, 0x100002), (3, 2 ^ 48)]) fun st => { st with handler := 0x100001 }
/-- The strand stands in its handler. -/
def handling : State := withCur handled fun st => { st with
  stat := 2 ^ 62, cause := 0x09, taddr := 0x100000, frontier := [{ mask := BitVec.allOnes 64, prio := 0xFFFF, pc := 0x100000 }] }
/-- The supervisor strand issues, and TGT names the user strand, which stands with a system call parked and another entry. -/
def managed : State :=
  { withCore (withCur (withScalars handled []) fun st => { st with
      frontier := [{ mask := 1, prio := 0x8000, pc := 0x100000, parked := true, cause := some .systemCall, order := 1 },
        { mask := 2, prio := 0x8000, pc := 0x100004 }] }) 0 (fun c => { c with tgt := 0x300000 }) with
    strands := handled.strands.map (fun x => (x.1, { x.2 with
      frontier := [{ mask := 1, prio := 0x8000, pc := 0x100000, parked := true, cause := some .systemCall, order := 1 },
        { mask := 2, prio := 0x8000, pc := 0x100004 }] })) ++ super.strands.map (fun x => (x.1, { x.2 with
      scal := [(1, 0x300000), (2, 0x300001), (3, 0x300002), (4, 0x30002B), (5, 0x300045), (6, 0x300008), (7, BitVec.allOnes 64)] })),
    curKey := 2 ^ 64 }
/-- The same with the lanes of the first entry alone, in a candidate entry that runs. -/
def signalled : State := { managed with strands := managed.strands.map fun x =>
  if x.1 = 0x300000 then (x.1, { x.2 with frontier := [{ mask := 1, prio := 0x8000, pc := 0x100000 }] }) else x }

theorem witness_TakingCauses : ToSupervisor user .systemCall ∧ Cause.systemCall.merges = false ∧ Cause.systemCall ≠ .uncorrectable ∧
    handled.cur.sup = false ∧ Cause.user .floatDivideByZero = true ∧ handled.cur.handlerOpen (candidate handled.cur).prio = true ∧
    handled.curCohort.barrier = none ∧ lanes handled ≠ 0 ∧
    super.cur.sup = true ∧ ¬ hasHandler super.cur ∧ hasHandler (withCur super fun st => { st with handler := 0x100001 }).cur ∧
    (withCur super fun st => { st with handler := 0x100001 }).cur.tm = false := by
  and_intros <;> first
    | decide +kernel
    | exact ⟨by and_intros <;> decide +kernel⟩
    | (unfold hasHandler; decide +kernel)

theorem witness_TrapsAndReturns : (candidate handling.cur).prio = 0xFFFF ∧ Untraced handling ∧ (candidate user.cur).prio ≠ 0xFFFF ∧ HasLanes handled ∧
    Ready handled (usesSU false 9 1) ∧ (handled.ssrc 1).toNat < 2 ^ 48 ∧ (handled.ssrc 1).toNat / 2 % 8 = 0 ∧
    Ready handled (usesSU false 9 2) ∧ (handled.ssrc 2).toNat / 2 % 8 ≠ 0 ∧ Ready handled (usesSU true 9 3) ∧ (handled.ssrc 3).toNat / 2 % 8 = 0 ∧
    2 ^ 48 ≤ (handled.ssrc 3).toNat ∧ Ready handled [⟨.sdst, 9, false⟩] ∧ super.cur.sup = true ∧ Unchecked user ∧
    ToSupervisor user .systemCall ∧ ToSupervisor user .brk := by
  and_intros <;> first
    | decide +kernel
    | exact ⟨by and_intros <;> decide +kernel⟩
    | exact ready_of_test (by decide +kernel)
    | exact hasLanes_of (by decide +kernel)
    | (unfold Untraced; decide +kernel)
    | exact user_unchecked

theorem witness_SupervisorRegisters : managed.cur.priv = true ∧ HasLanes managed ∧ Ready managed [⟨.sdst, 9, false⟩] ∧
    (∀ n ∈ [0, 1, 2, 3, 4, 0x10], (coreRegisterOf managed n).isSome = true) ∧ managed.target managed.cur.core = some 0x300000 ∧
    (∀ n ∈ [0x11, 0x12, 0x13, 0x14, 0x15, 0x16, 0x17, 0x40, 0x7F], (targetRegisterOf (managed.strand 0x300000) n).isSome = true) ∧
    (∀ n ∈ [0x40, 0x7F], (managed.strand 0x300000).sFull.getLsbD (n - 0x40) = true) ∧ 0x300000 ≠ managed.curKey ∧
    Ready managed [⟨.ssrc, 1, false⟩] ∧ super.cur.priv = true ∧ HasLanes super ∧ Ready super [⟨.sdst, 9, false⟩] ∧ Ready super [⟨.ssrc, 1, false⟩] ∧
    super.target super.cur.core = none := by
  and_intros <;> first
    | decide +kernel
    | exact ready_of_test (by decide +kernel)
    | exact hasLanes_of (by decide +kernel)
    | exact super_hasLanes

theorem managed_target : Target managed 0x300000 := by constructor <;> decide +kernel
theorem signalled_target : Target signalled 0x300000 := by constructor <;> decide +kernel

theorem witness_unpark_and_sysrp : managed.cur.priv = true ∧ HasLanes managed ∧
    (∀ a ∈ ([1, 2, 3] : List Code), Ready managed (usesPriv false true 9 a 7) ∧ (managed.ssrc a).toNat % 4096 < 3 ∧
      (managed.ssrc a).toNat / 4096 * 4096 = 0x300000) ∧
    (let named := (managed.strand 0x300000).frontier.filter fun n => n.parked && decide (n.mask &&& ~~~ (managed.ssrc 7) = 0)
     named ≠ [] ∧ (managed.strand 0x300000).frontier.any (fun n => !named.contains n) = true) ∧
    (∃ c, (managed.strand 0x300000).oldest Entry.calls = some c) ∧ (managed.strand 0x300000).replies.length < 4 := by
  and_intros <;> first
    | decide +kernel
    | exact fun a ha => ⟨ready_of_test (by revert a; decide +kernel), by revert a; decide +kernel, by revert a; decide +kernel⟩
    | exact hasLanes_of (by decide +kernel)
    | exact ⟨_, rfl⟩

theorem witness_sig_and_tinj : signalled.cur.priv = true ∧ HasLanes signalled ∧ Ready signalled [⟨.ssrc, 1, false⟩, ⟨.sreg, 9, false⟩] ∧ (signalled.ssrc 1).toNat / 64 % 64 = 0 ∧
    (signalled.ssrc 1).toNat / 4096 * 4096 = 0x300000 ∧
    (∃ c, (signalled.strand 0x300000).frontier.find? (fun h => decide (h.hold = .no ∨ h.hold = .gang)) = some c ∧ c.parked = false ∧
      c.prio ≠ 0xFFFF) ∧ (signalled.strand 0x300000).frontier.any Entry.pending = false ∧ (signalled.strand 0x300000).tm = false ∧
    hasHandler (signalled.strand 0x300000) ∧ (signalled.strand 0x300000).sigmask.getLsbD 0 = false ∧
    (∀ a ∈ ([4, 6] : List Code), Ready managed (usesPriv false false 9 a 7)) ∧ (managed.ssrc 4).toNat % 64 = 0x2B ∧ (managed.ssrc 6).toNat % 64 = 0x08 ∧
    (managed.ssrc 6).toNat / 64 % 64 = 0 ∧ (managed.strand 0x300000).sigmask.getLsbD 0 = false ∧
    (∃ c, (managed.strand 0x300000).frontier.filter (fun k => k.parked && decide (k.mask &&& ~~~ (managed.ssrc 7) = 0)) = [c] ∧ c.prio ≠ 0xFFFF) ∧
    (managed.strand 0x300000).tm = false ∧ hasHandler (managed.strand 0x300000) := by
  and_intros <;> first
    | decide +kernel
    | exact fun a ha => ready_of_test (by revert a; decide +kernel)
    | exact ⟨_, rfl, by decide +kernel, by decide +kernel⟩
    | exact ready_of_test (by decide +kernel)
    | exact hasLanes_of (by decide +kernel)
    | (unfold hasHandler; decide +kernel)
    | exact ⟨_, rfl, by decide +kernel⟩

/-- An event held back, with a place free in the queue. -/
def heldBack : State := withCore user 0 fun c => { c with held := [.event { cause := .hostInterrupt }] }
/-- A system call held back, whose lanes stand at their instruction. -/
def heldCause : State := withCore user 0 fun c => { c with held := [.cause 0x300000 { mask := 1, prio := 0, pc := 0 } { cause := .systemCall, mask := 1, taddr := 0 }] }
/-- An uncorrectable error in the cohort's image, which stands in frames that are not locked. -/
def spoiled : State := { user with ueLocal := [0x200000 / 8] }

theorem witness_EventQueue : (∃ e t, (heldBack.core 0).held = .event e :: t) ∧ (heldBack.core 0).evq.length < 64 ∧
    (∃ e r t, (heldCause.core 0).held = .cause 0x300000 e r :: t ∧ r.records = []) ∧ (heldCause.strand 0x300000).core = 0 ∧
    (heldCause.core 0).evq.length < 64 ∧ (user.core 0).queueRoom = true ∧
    (user.core 0).evq.all (fun e => decide (e.cause ≠ .serviceMessage)) = true ∧ Tab.has spoiled.cohorts 0x200000 = true ∧
    (spoiled.cohort 0x200000).dead = false ∧ (spoiled.imageFaults (spoiled.cohort 0x200000)).2 = true ∧
    (spoiled.imageFaults (spoiled.cohort 0x200000)).1 = true ∧ (spoiled.core (spoiled.cohort 0x200000).core).queueRoom = true := by
  and_intros <;> first
    | decide +kernel
    | exact ⟨_, _, _, rfl, rfl⟩
    | exact ⟨_, _, rfl⟩

/-! ### Witnesses: memory (05, 07, 12) -/

/-- The scratch of the cohort begins at s1, a page of local memory at s3. -/
def addressed : State := withScalars user [(1, 0xFFFF0000000000), (2, 0xFFFF0000000001), (3, 0x400000)]
/-- A core that has translated the first page already, with the leaf's dirty bit set; private bytes for each thread. -/
def warm : State :=
  let s := withCohort (withCur addressed fun st => { st with privBase := 0x500000 }) fun c =>
    { c with variants := [{ lines := 128, acc := 1, scratch := 4096, priv := 1024 }] }
  (s.checkLane s.cur .write .plain 4 4 0 0x400000).1
/-- The same with one lane. -/
def oneLane : State := withCur warm fun st => { st with frontier := [{ mask := 1 <<< 17, prio := 0x8000, pc := 0x100000 }] }
/-- The cached leaf has lost its user bit. -/
def guarded : State := withCore warm 0 fun c => { c with tlb := c.tlb.map fun e => { e with leaf := e.leaf - 0x20 } }

theorem witness_AccessChecks : (2 ^ 0 + 1 : Nat) % 4 ≠ 0 ∧ (2 ^ 56 : Nat) % 4 = 0 ∧ user.cur.sup = false ∧ Form.plain ≠ .wait ∧
    (0xFFFF0000000FFC : Nat) - 0xFFFF0000000000 + 4 ≤ user.curCohort.variant.scratch ∧
    user.curCohort.variant.scratch < (0xFFFF0000001000 : Nat) - 0xFFFF0000000000 + 4 ∧
    (∃ root e, warm.rootOf (warm.pasidOf warm.cur) = some root ∧
      (warm.core warm.cur.core).tlb.find? (fun e => e.covers (warm.pasidOf warm.cur) 0x400000) = some e ∧
      leafCause (e.leafFor 0x400000) (!warm.cur.sup) .write = none ∧ Access.write ≠ .fetch ∧ entD (e.leafFor 0x400000) = true ∧
      (leafPhys (e.leafFor 0x400000) e.level 0x400000).loc = .dev ∧
      Form.plain.refuses (leafPhys (e.leafFor 0x400000) e.level 0x400000) = false ∧
      warm.structAt (leafPhys (e.leafFor 0x400000) e.level 0x400000) = none) ∧
    (∃ root e, guarded.rootOf (guarded.pasidOf guarded.cur) = some root ∧
      (guarded.core guarded.cur.core).tlb.find? (fun e => e.covers (guarded.pasidOf guarded.cur) 0x400000) = some e ∧
      leafCause (e.leafFor 0x400000) (!guarded.cur.sup) .read = some .permission) := by
  and_intros <;> first
    | decide +kernel
    | exact ⟨_, _, rfl, rfl, by and_intros <;> decide +kernel⟩
    | exact ⟨_, _, rfl, rfl, by decide +kernel⟩

/-- The place of an address in the scratch, and in local memory. -/
def inScratch (o : Nat) : Place := .scratch 0x200000 o
def inLocal (a : Nat) : Place := .phys { loc := .dev, addr := a, uc := false, locked := false }

theorem witness_VectorLoads : HasLanes warm ∧ warm.cur.shadow = false ∧
    (∀ x ∈ [(1, Role.vreg), (2, .vreg), (4, .vreg), (8, .vdst64), (16, .vquad)],
      Ready warm [⟨.vsrc64, 0x61, false⟩, ⟨x.2, 4, false⟩] ∧
      LanesRead warm .plain x.1 x.1 false (laneAddr warm 0x61 3 x.1) (fun _ => inScratch (3 * x.1)) (fun _ => 0)) ∧
    LanesRead warm .plain 4 4 false (laneAddr warm 0x63 1 4) (fun _ => inLocal 0x400004) (fun _ => 0) ∧
    Ready warm [⟨.vsrc64, 0x61, true⟩, ⟨.vsrc, 0x79, false⟩, ⟨.vreg, 4, false⟩] ∧
    LanesRead warm .plain 4 4 false (indexAddr warm 0x61 0x79) (fun l => inScratch (4 * l)) (fun _ => 0) ∧ warm.marks = [] ∧
    LanesRead warm .plain 8 8 true (laneAddr warm 0x63 0 8) (fun _ => inLocal 0x400000) (fun _ => 0) := by
  and_intros <;> first
    | decide +kernel
    | exact fun x hx => ⟨ready_of_test (by revert x; decide +kernel), ⟨by revert x; unfold Reaches; decide +kernel, by revert x; decide +kernel, by revert x; decide +kernel, by unfold Unwatched; decide +kernel⟩⟩
    | exact ⟨by unfold Reaches; decide +kernel, by decide +kernel, by decide +kernel, by unfold Unwatched; decide +kernel⟩
    | exact ready_of_test (by decide +kernel)
    | exact hasLanes_of (by decide +kernel)
    | (unfold Unwatched; decide +kernel)
    | (unfold Reaches; decide +kernel)

theorem witness_private_access : warm.cur.sup = false ∧ Ready warm [⟨.vsrc, 0x78, false⟩, ⟨.vdst64, 4, false⟩] ∧ Ready warm [⟨.vsrc, 0x78, false⟩, ⟨.vpairsrc, 4, false⟩] ∧
    (let p (l : Nat) : Int := (laneOf (warm.vsrc 0x78) l).toInt + 4 * (127 : BitVec 8).toInt
     let place (l k : Nat) : Place := inLocal (0x500000 + 127 * 256 + 4 * l + 256 * k)
     (∀ l ∈ lanesOf (lanes warm), p l % 4 = 0 ∧ 0 ≤ p l ∧ p l + 4 * 2 ≤ warm.curCohort.variant.priv ∧ ∀ k ∈ List.range 2,
      Reaches warm .read .priv 4 4 l (privAddr warm (p l) l + BitVec.ofNat 64 (256 * k)) (place l k) ∧
      Reaches warm .write .priv 4 4 l (privAddr warm (p l) l + BitVec.ofNat 64 (256 * k)) (place l k) ∧ spotOf (place l k) ≠ none ∧
      warm.readPlace warm.cur.core false 4 (place l k) = (warm, .ok 0)) ∧
     (warm.planMisses warm.cur.core false ((lanesOf (lanes warm)).flatMap fun l => (List.range 2).map (place l))).wait = false) ∧
    (warm.core warm.cur.core).outstanding.length ≤ 512 ∧ Unwatched warm := by
  and_intros <;> first
    | decide +kernel
    | exact ready_of_test (by decide +kernel)
    | (unfold Unwatched; decide +kernel)
    | (unfold Reaches; decide +kernel)

theorem witness_VectorStores : HasLanes warm ∧ Unchecked warm ∧
    (∀ x ∈ [(1, Role.vsrc), (2, .vsrc), (4, .vsrc), (8, .vsrc64), (16, .vquadsrc)],
      Ready warm [⟨.vsrc64, 0x61, false⟩, ⟨x.2, 4, false⟩] ∧
      LanesWrite warm .plain x.1 x.1 (laneAddr warm 0x61 3 x.1) (fun _ => inScratch (3 * x.1))) ∧
    LanesWrite warm .plain 4 4 (laneAddr warm 0x63 1 4) (fun _ => inLocal 0x400004) ∧
    Ready warm [⟨.vsrc64, 0x63, true⟩, ⟨.vsrc, 0x79, false⟩, ⟨.vsrc, 4, false⟩] ∧
    LanesWrite warm .plain 4 4 (indexAddr warm 0x63 0x79) (fun l => inLocal (0x400000 + 4 * l)) ∧
    warm.releaseWaits warm.cur 3 = false ∧ LanesWrite (warm.noteRelease warm.cur 3) .plain 8 8 (laneAddr warm 0x63 0 8) (fun _ => inLocal 0x400000) ∧
    (let s := withCore warm 0 fun c => { c with relaxed := [{ pasid := 1, va := 0x400000 }] }
     HasLanes s ∧ Unchecked s ∧ Ready s [⟨.vsrc64, 0x61, false⟩, ⟨.vsrc64, 4, false⟩] ∧ s.releaseWaits s.cur 4 = true) := by
  and_intros <;> first
    | decide +kernel
    | exact fun x hx => ⟨ready_of_test (by revert x; decide +kernel), ⟨by revert x; unfold Reaches; decide +kernel, by revert x; decide +kernel, by revert x; decide +kernel, by unfold Unwatched; decide +kernel⟩⟩
    | exact ⟨by unfold Reaches; decide +kernel, by decide +kernel, by decide +kernel, by unfold Unwatched; decide +kernel⟩
    | exact ⟨by decide +kernel, by decide +kernel, by decide +kernel⟩
    | exact ready_of_test (by decide +kernel)
    | exact hasLanes_of (by decide +kernel)
    | (unfold Unwatched; decide +kernel)
    | (unfold Reaches; decide +kernel)

theorem witness_ScalarLoadsAndStores : HasLanes warm ∧ Unchecked warm ∧ Ready warm [⟨.useg, 0x63, false⟩, ⟨.seg, 0x6F, false⟩] ∧
    EntryReads warm .plain 8 false (warm.usrc 0x63 + (0x1FF : BitVec 9).signExtend 64 * 8) (inLocal 0x3FFFF8) 0 ∧
    EntryReads warm .plain 4 false (warm.usrc 0x61) (inScratch 0) 0 ∧ Ready warm [⟨.useg, 0x61, false⟩, ⟨.vreg, 4, false⟩] ∧
    EntryReads warm .plain 4 false (warm.usrc 0x61 + (3 : BitVec 9).signExtend 64 * 4) (inScratch 12) 0 ∧ Ready warm [⟨.useg, 0x63, false⟩, ⟨.useg, 0x64, false⟩] ∧
    Reaches warm .write .plain 8 8 0 (warm.usrc 0x63 + (3 : BitVec 9).signExtend 64 * 8) (inLocal 0x400018) ∧ spotOf (inLocal 0x400018) ≠ none ∧
    (warm.core warm.cur.core).outstanding.length ≤ 512 ∧ Unwatched warm := by
  and_intros <;> first
    | decide +kernel
    | exact ⟨by unfold Reaches; decide +kernel, by decide +kernel, by decide +kernel, by unfold Unwatched; decide +kernel⟩
    | exact ⟨by decide +kernel, by decide +kernel, by decide +kernel⟩
    | exact ready_of_test (by decide +kernel)
    | exact hasLanes_of (by decide +kernel)
    | (unfold Unwatched; decide +kernel)
    | (unfold Reaches; decide +kernel)

theorem witness_Atomics : Unchecked oneLane ∧ HasLanes oneLane ∧ lanesOf (lanes oneLane) = [17] ∧
    (∀ x ∈ [(4, Role.vsrc, Role.vreg), (8, .vsrc64, .vdst64)], Ready oneLane [⟨.vsrc64, 0x63, false⟩, ⟨x.2.1, 6, false⟩, ⟨x.2.2, 4, false⟩] ∧
      Reaches oneLane .atomic (.atomic false) x.1 x.1 17 (laneAddr oneLane 0x63 0 x.1 17) (inLocal 0x400000) ∧
      oneLane.readPlace oneLane.cur.core true x.1 (inLocal 0x400000) = (oneLane, .ok 0)) ∧ spotOf (inLocal 0x400000) ≠ none ∧
    (oneLane.planAtomics oneLane.cur.core [inLocal 0x400000]).wait = false ∧ Unwatched oneLane ∧
    (∀ n ∈ [2, 4], Ready oneLane [⟨.vsrc64, 0x61, true⟩, ⟨.voct, 8, false⟩] ∧
      Reaches oneLane .atomic (.atomic (decide (n < 4))) 32 32 17 (laneAddr oneLane 0x61 0 1 17) (inScratch 0) ∧
      ∀ k ∈ List.range (32 / n), oneLane.readPlace oneLane.cur.core true n (placeAt (inScratch 0) (n * k)) = (oneLane, .ok 0)) ∧
    (oneLane.planAtomics oneLane.cur.core [inScratch 0]).wait = false ∧ spotOf (inScratch 0) ≠ none := by
  and_intros <;> first
    | decide +kernel
    | exact fun x hx => ⟨ready_of_test (by revert x; decide +kernel), by revert x; unfold Reaches; decide +kernel, by revert x; decide +kernel⟩
    | exact fun n hn => ⟨ready_of_test (by revert n; decide +kernel), by revert n; unfold Reaches; decide +kernel, by revert n; decide +kernel⟩
    | exact ⟨by decide +kernel, by decide +kernel, by decide +kernel⟩
    | exact hasLanes_of (by decide +kernel)
    | (unfold Unwatched; decide +kernel)

/-- Every lane names one element; each finds what the lower lanes left. -/
theorem witness_Atomics_together : Unchecked warm ∧ HasLanes warm ∧ Unwatched warm ∧
    Ready warm [⟨.vsrc64, 0x63, false⟩, ⟨.vsrc, 6, false⟩, ⟨.vreg, 4, false⟩] ∧
    (∀ l ∈ lanesOf (lanes warm), Reaches warm .atomic (.atomic false) 4 4 l (laneAddr warm 0x63 0 4 l) (inLocal 0x400000) ∧
      warm.readPlace warm.cur.core true 4 (inLocal 0x400000) = (warm, .ok 0)) ∧
    (warm.planAtomics warm.cur.core ((lanesOf (lanes warm)).map fun _ => inLocal 0x400000)).wait = false ∧
    elementAfter (fun m b _ => m + b) (inLocal 8) 5 [(inLocal 8, 1, 0), (inLocal 4, 9, 0), (inLocal 8, 2, 0)] = 8 := by
  and_intros <;> first
    | decide +kernel
    | exact fun x hx => ⟨by revert x; unfold Reaches; decide +kernel, by revert x; decide +kernel⟩
    | exact ⟨by decide +kernel, by decide +kernel, by decide +kernel⟩
    | exact ready_of_test (by decide +kernel)
    | exact hasLanes_of (by decide +kernel)
    | (unfold Unwatched; decide +kernel)

theorem witness_FencesAndCacheControl : (5 : BitVec 3).toNat ≤ 5 ∧ 5 < (6 : BitVec 3).toNat ∧ warm.releaseWaits warm.cur 3 = false ∧ warm.releaseWaits warm.cur 4 = false ∧
    HasLanes warm ∧ (withCore warm 0 fun c => { c with relaxed := [{ pasid := 1, va := 0x400000 }] }).releaseWaits (withCore warm 0 fun c => { c with relaxed := [{ pasid := 1, va := 0x400000 }] }).cur 4 = true ∧
    4 < (5 : BitVec 3).toNat ∧ (6 : BitVec 3) ≠ 7 ∧ (warm.core warm.cur.core).relaxed = [] ∧
    (let s := withCore warm 0 fun c => { c with relaxed := [{ pasid := 1, va := 0x400000 }] }; (s.core s.cur.core).relaxed ≠ [] ∧ s.cur.flushed ≠ some (place s)) ∧
    (warm.core warm.cur.core).misses.length + (warm.core warm.cur.core).replies + 64 ≤ 512 ∧
    (∀ m ∈ (warm.core warm.cur.core).misses, warm.now ≤ m.since + 16) ∧ Ready warm [⟨.vsrc64, 0x63, false⟩] ∧
    (∀ r ∈ (warm.controlRequests 0x63 0).reqs, Reaches warm .read .cache 1 128 r.1 r.2 (.phys { loc := .dev, addr := 0x400000, uc := false, locked := false })) ∧
    (warm.controlRequests 0x63 0).reqs ≠ [] ∧ (warm.functionOf (warm.pasidOf warm.cur)).ats = false ∧
    (let s := withCur (withCore warm 0 fun c => { c with relaxed := [{ pasid := 1, va := 0x400000 }] }) fun st => { st with flushed := some 0x100000 }
     (s.core s.cur.core).relaxed ≠ [] ∧ s.cur.flushed = some (place s) ∧ HasLanes s) := by
  and_intros <;> first
    | decide +kernel
    | exact ready_of_test (by decide +kernel)
    | exact hasLanes_of (by decide +kernel)
    | (unfold Reaches; decide +kernel)

/-- A miss, a store to a peer that is not acknowledged and is ordered, a marked line, and a load from a peer under way. -/
def pendingAccesses : State :=
  { withCore (withCur user fun st => { st with producers := [{ lines := [(4, 3, zeroLine)], peerLanes := 3, pc := 0x100000, issued := 0 }] }) 0 fun c =>
      { c with misses := [{ line := 0x8000, since := 0, priv := false }],
               outstanding := [{ peer := true, key := 0x300000, mask := 3, va := 0x400000, ordered := true, cells := [] }] } with
    marks := [(0x8000, 0)] }

theorem witness_LoadStoreEvents :
    (∃ m, (pendingAccesses.core 0).misses.find? (fun x => x.line == 0x8000) = some m) ∧
    (pendingAccesses.core 0).l1.length < l1Lines (pendingAccesses.core 0).carve ∧ (∃ o, (pendingAccesses.core 0).outstanding[0]? = some o) ∧
    (pendingAccesses.core 0).queueRoom = true ∧ Tab.has pendingAccesses.marks 0x8000 = true ∧
    (∃ p, (pendingAccesses.strand 0x300000).producers[0]? = some p ∧ p.whole = 0 ∧
      (2 : Mask) &&& (p.peerLanes ||| p.hostLanes) ≠ 0) ∧ (pendingAccesses.strand 0x300000).shadow = false ∧
    (pendingAccesses.strand 0x300000).sup = false ∧ (pendingAccesses.cohort (pendingAccesses.strand 0x300000).ccb).barrier = none ∧
    (pendingAccesses.core (pendingAccesses.strand 0x300000).core).held = [] ∧
    (pendingAccesses.core (pendingAccesses.strand 0x300000).core).evq.length < 63 := by
  and_intros <;> first
    | decide +kernel
    | exact ⟨_, rfl, by decide +kernel, by decide +kernel⟩
    | exact ⟨_, rfl⟩

/-- The strand waits in these ways on the word at 0x400000. -/
def waitingHow (how : WaitHow) (cond cmp : Nat) : State := withCur warm fun st => { st with
  waits := [{ pc := 0x100000, how := how, va := 0x400000, wide := false, cond := cond, cmp := cmp, scope := 3, status := some 9 }] }
/-- Its monitor, met by a write. -/
def firing : State :=
  let m : Monitor := ⟨0, 0x400000, 0x400000, false, 0, 0, 1, .strand 0x300000 0x100000, true⟩
  { waitingHow (.armed 5) 0 0 with monitors := [(5, m)] }
/-- The word at 0x400000 holds 7. -/
def stored : State := { warm with local_ := Memory.writeN warm.local_ 0x400000 8 7 }

theorem witness_waits_begin : Unchecked warm ∧ warm.cur.key = warm.curKey ∧ warm.cur.waitAt (place warm) = none ∧ warm.curCohort.barrier = none ∧ warm.monitors = [] ∧
    Ready warm [⟨.ssrc, (3 : BitVec 4).zeroExtend 7, false⟩, ⟨.useg, 0x78, false⟩, ⟨.sreg, (9 : BitVec 4).zeroExtend 7, false⟩] ∧
    (∀ n ∈ [4, 8], Reaches warm .read .wait n n 0 (warm.ssrc 3) (inLocal 0x400000) ∧ warm.lateCause { loc := .dev, addr := 0x400000, uc := false, locked := false } n = none) ∧
    (warm.core warm.cur.core).entriesShort 1 = false ∧ warm.peerHeld [inLocal 0x400000] = false ∧ warm.marks = [] ∧
    candidate? warm.cur = some (candidate warm.cur) ∧ (candidate warm.cur).parked = false ∧ Unwatched warm ∧
    (warm.elementAt { loc := .dev, addr := 0x400000, uc := false, locked := false } false = (warm.usrc 0x78).toNat % 2 ^ 32) ∧
    warm.elementAt { loc := .dev, addr := 0x400000, uc := false, locked := false } false ≠ (warm.usrc 0x7C).toNat % 2 ^ 32 ∧
    (warm.freeMonitor ({ loc := .dev, addr := 0x400000, uc := false, locked := false } : Phys).monitorBase).isSome = true ∧
    Ready stored [⟨.sseg, 0x63, false⟩, ⟨.useg, 0x7C, false⟩] ∧ Ready stored [⟨.sseg, 0x63, false⟩] ∧ Unchecked stored ∧ stored.cur.key = stored.curKey ∧ stored.cur.waitAt (place stored) = none ∧ stored.curCohort.barrier = none ∧
    (stored.core stored.cur.core).entriesShort 1 = false ∧ stored.peerHeld [inLocal 0x400000] = false ∧
    candidate? stored.cur = some (candidate stored.cur) ∧ (candidate stored.cur).parked = false ∧
    stored.lateCause { loc := .dev, addr := 0x400000, uc := false, locked := false } 8 = none ∧
    Reaches stored .read .wait 8 8 0 (stored.usrc 0x63) (inLocal 0x400000) ∧ Unwatched stored ∧
    (stored.usrc 0x7C).toNat ≤ stored.elementAt { loc := .dev, addr := 0x400000, uc := false, locked := false } true ∧
    stored.elementAt { loc := .dev, addr := 0x400000, uc := false, locked := false } true ≠ 0 := by
  and_intros <;> first
    | decide +kernel
    | exact ⟨by decide +kernel, by decide +kernel, by decide +kernel⟩
    | exact ready_of_test (by decide +kernel)
    | (unfold Unwatched; decide +kernel)
    | (unfold Reaches; decide +kernel)

theorem witness_waits_end : (∃ m, firing.monitors.find? (fun x => x.1 == 5) = some (5, m) ∧ m.due = true ∧ m.waiter = .strand 0x300000 0x100000) ∧
    (∃ w, ((waitingHow .fired 0 0).strand 0x300000).waits.find? (fun w => decide (w.how = .fired)) = some w ∧
      MayGoOn (waitingHow .fired 0 0) 0x300000 w) ∧
    (∃ w, ((waitingHow .polling 0 0).strand 0x300000).waits.find? (fun w => decide (w.how = .polling)) = some w ∧
      MayGoOn (waitingHow .polling 0 0) 0x300000 w) ∧
    (∃ p, (waitingHow .polling 0 0).engineAddr 1 0x400000 = some p ∧ (waitingHow .polling 0 0).lateCause p 4 = none ∧
      condHolds 0 ((waitingHow .polling 0 0).elementAt p false) 0 = true) := by
  and_intros <;> first
    | decide +kernel
    | exact ⟨_, rfl, by constructor <;> decide +kernel⟩
    | exact ⟨_, rfl, by decide +kernel, by decide +kernel⟩

/-! ### Witnesses: the dispatch engine, translation and the gather unit (03, 06, 12, 14) -/

/-- A bundle of one variant (Tables 14-10 and 14-11) at 0x600000; a record of it, in PASID 1, and one of PASID 0 in the rings of the
queues; the tails of six queues. -/
def launchWords : List (Nat × Nat) := [
  (0x600000, 0x000100014B525953), (0x600008, 0x0000000100000180), (0x600010, 0x0000000000000180), (0x600018, 0x0000000000000180),
  (0x600020, 0x500), (0x600100, 0x400), (0x600108, 0x00000020003F0001), (0x600110, 128), (0x600118, 8192), (0x600180, 0x8000000000000400),
  (0x900000, 0x600000), (0x900018, 1), (0x900028, 1), (0x900030, 1),
  (0x800018, 1), (0x800058, 16), (0x800098, 100), (0x8000D8, 1), (0x800120, 1), (0x800160, 0)]

def bundleVariant : Variant := { entry := 0x400, lines := 32, carve := 0x3F, scratch := 128, reservation := 8192 }
/-- The expansion of a record of a number of cohorts. -/
def expanded (n : Nat) : Expansion :=
  { chained := false, words := [0x600000, 0, 0, n, 0, 1, 1, 0], slot := 0, variants := [bundleVariant], pmap := [(0x600400, 0x8000)] }
/-- Queue 0 has a record, queue 1 is full, queue 2 is overrun, queue 3 has a record of an inactive PASID, queue 4 is stopped. -/
def queues : State :=
  { warm with
    local_ := launchWords.foldl (fun m x => Memory.writeN m x.1 8 x.2) warm.local_
    contexts := [(0, { pasid := 1, root := 0x10001, framePool := 0x2000000, frameBytes := 0x1000000, privPool := 0x4000000, privSize := 0x40000, privCount := 64 })]
    now := 11000000
    disp := { warm.disp with
      regs := { warm.disp.regs with qtb := 0x800000 }
      queues := [(0, { en := true, dev := true, ring := 0x900000, tail := 1, polling := true }), (1, { en := true, dev := true, ring := 0x910000, tail := 16 }),
        (2, { en := true, ring := 0x920000, due := true }), (3, { en := true, ring := 0x930000, tail := 1 }), (4, { en := true, code := 2, due := true, polling := true }),
        (5, { en := true, code := 2, due := true, polling := true })] } }
/-- The words of the record at an address. -/
def recordAt (a : Nat) : List Nat := queues.recordWords .dev a
/-- Queue 0 has a record of n cohorts in expansion. -/
def placing (n : Nat) : State := { queues with disp := { queues.disp with queues := [(0, { en := true, dev := true, ring := 0x900000, tail := 1, expansion := some (expanded n) })] } }

theorem witness_QueueSteps : queues.leased = true ∧ queues.acting = true ∧ (∀ q ∈ [0, 1, 2, 3, 4, 5], (queues.queue q).en = true) ∧ (queues.queue 0).polling = true ∧
    (queues.queue 0).stopped = false ∧ queues.queueTail 0 ≠ queues.queueHead 0 ∧ (queues.queue 5).polling = true ∧ (queues.queue 5).stopped = true ∧
    queues.queueWord 5 0x20 = 0 ∧ (queues.queue 5).due = true ∧
    (queues.queue 2).due = true ∧ (queues.queue 2).stopped = false ∧ 2 ^ (queues.queue 2).n < (queues.queueTail 2 + 2 ^ 64 - queues.queueHead 2) % 2 ^ 64 ∧
    (queues.queue 0).expansion = none ∧ queues.headRecord 0 = some (false, 0x900000, .dev, 0) ∧ queues.errorAt .dev 0x900000 64 = false ∧
    (queues.touchRecord (recordAt 0x900000)).checkRecord false (recordAt 0x900000) = .ok { expanded 1 with since := 11000000 } ∧
    (queues.queue 3).expansion = none ∧ (queues.queue 3).stopped = false ∧ queues.headRecord 3 = some (false, 0x930000, .dev, 0) ∧ queues.errorAt .dev 0x930000 64 = false ∧
    (queues.touchRecord (recordAt 0x930000)).checkRecord false (recordAt 0x930000) = .error 1 := by
  and_intros <;> decide +kernel

/-- The cohort is absent and ready. -/
def returning : State := withCohort { warm with now := 11000000 } fun c => { c with residency := .absent }

theorem witness_aging : (placing 1).leased = true ∧ ((placing 1).queue 0).expansion.isSome = true ∧ (placing 1).disp.regs.stv.toNat ≤ (placing 1).now - ((placing 1).queue 0).headSince ∧
    returning.acting = true ∧ (returning.cohort (BitVec.ofNat 64 0x200000)).ccb = BitVec.ofNat 64 0x200000 ∧
    returning.waitingItems.contains (.cohort (BitVec.ofNat 64 0x200000)) = true ∧ returning.disp.regs.stv.toNat ≤ returning.now - (returning.cohort 0x200000).waitSince := by
  decide

/-- No frame memory for the record. -/
def cramped : State := { placing 1 with contexts := [(0, { pasid := 1, root := 0x10001, privSize := 0x40000, privCount := 64 })] }

/-- Whether the next group of a queue's record is placed. -/
def places (s : State) (x : Expansion) : Bool := match s.placeNext 0 x with | .ok _ => true | .error _ => false

theorem witness_no_place : (cramped.queue 0).expansion = some (expanded 1) ∧ cramped.leased = true ∧ (cramped.queue 0).stopped = false ∧ places cramped (expanded 1) = false := by
  and_intros <;> decide +kernel

/-- The cohort is warm; a launch has no cohort left; the cohort's strand has ended and is freed. -/
def waiting1 : State := { withCohort warm fun c => { c with residency := .warm } with disp := { warm.disp with launches := [(7, { left := 0 })] } }
def ended : State := withCur warm fun st => { st with frontier := [], exited := true, freed := true }

theorem witness_promotion_and_completion : Grouped waiting1 (BitVec.ofNat 64 0x200000) ∧ waiting1.acting = true ∧ (waiting1.cohort (BitVec.ofNat 64 0x200000)).residency = .warm ∧
    waiting1.nextServed = some (.cohort (BitVec.ofNat 64 0x200000)) ∧ (∃ l, waiting1.disp.launches.find? (fun x => x.1 == 7) = some (7, l) ∧ l.left = 0) ∧
    (ended.cohort (BitVec.ofNat 64 0x200000)).ccb = BitVec.ofNat 64 0x200000 ∧ ended.acting = true ∧ Tab.has ended.cohorts 0x200000 = true ∧
    (let c := ended.cohort (BitVec.ofNat 64 0x200000)
     (∀ x ∈ ended.cohorts, x.1 ≠ 0x200000 → ∀ k ∈ x.2.keys, k ∉ c.keys) ∧ c.dead = false ∧ (∀ k ∈ c.keys, (ended.strand k).exited = true ∧ (ended.strand k).freed = true) ∧ (∀ x ∈ c.channels, x.2 = []) ∧
     (∀ x ∈ ended.cores, ∀ o ∈ x.2.mxOps, o.ccb ≠ BitVec.ofNat 64 0x200000) ∧ ∀ b ∈ List.range 32, (ended.bin c b).free = true) := by
  and_intros <;> first
    | decide +kernel
    | exact ⟨by decide +kernel, by decide +kernel, by decide +kernel⟩
    | exact ⟨_, rfl, by decide +kernel⟩

/-- s4 to s6 name queues: one with room, a full one, and none. -/
def enqueuing : State := withCur queues fun st => { st with scal := [(3, 0x400000), (4, 0), (5, 1), (6, 256)] }
/-- The join block at 0x400000 holds a count of one without a parent. -/
def joining : State := { warm with local_ := Memory.writeN warm.local_ 0x400000 8 1 }

theorem witness_EnqueueAndJoin : HasLanes enqueuing ∧ Unchecked enqueuing ∧ (∀ b ∈ ([4, 5, 6] : List Code), Ready enqueuing (usesPriv false false 9 3 b)) ∧
    enqueuing.releaseWaits enqueuing.cur 3 = false ∧ EntryReads enqueuing .record 64 false (enqueuing.ssrc 3) (inLocal 0x400000) 0 ∧
    (enqueuing.queue 0).en = true ∧ (enqueuing.queue 0).dev = true ∧ (enqueuing.queueTail 0 + 2 ^ 64 - enqueuing.queueHead 0) % 2 ^ 64 ≠ 2 ^ (enqueuing.queue 0).n ∧
    (enqueuing.queueAddr 0 + 0x20 ≤ (enqueuing.queue 0).ring + 64 * (enqueuing.queueTail 0 % 2 ^ (enqueuing.queue 0).n)) ∧
    (enqueuing.queue 1).en = true ∧ (enqueuing.queue 1).dev = true ∧ (enqueuing.queueTail 1 + 2 ^ 64 - enqueuing.queueHead 1) % 2 ^ 64 = 2 ^ (enqueuing.queue 1).n ∧
    256 ≤ (enqueuing.ssrc 6).toNat ∧
    (∀ s ∈ [warm, stored, joining], Unchecked s ∧ s.releaseWaits s.cur 3 = false ∧ Reaches s .atomic (.atomic false) 16 16 0 (s.ssrc 3) (inLocal 0x400000) ∧
      spotOf (inLocal 0x400000) ≠ none ∧ (s.planAtomics s.cur.core [inLocal 0x400000]).wait = false ∧ Unwatched s) ∧ Ready warm [⟨.ssrc, 3, false⟩, ⟨.sreg, 9, false⟩] ∧
    Ready stored [⟨.ssrc, 3, false⟩, ⟨.sreg, 9, false⟩] ∧ Ready joining [⟨.ssrc, 3, false⟩, ⟨.sreg, 9, false⟩] ∧
    warm.readPlace warm.cur.core true 16 (inLocal 0x400000) = (warm, .ok 0) ∧ stored.readPlace stored.cur.core true 16 (inLocal 0x400000) = (stored, .ok 7) ∧
    joining.readPlace joining.cur.core true 16 (inLocal 0x400000) = (joining, .ok 1) ∧ 1 / 2 ^ 64 % 2 ^ 56 = 0 := by
  refine ⟨hasLanes_of (by decide +kernel), ⟨by decide +kernel, by decide +kernel, by decide +kernel⟩, fun b hb => ready_of_test (by revert b; decide +kernel), by decide +kernel,
    ⟨by unfold Reaches; decide +kernel, by decide +kernel, by decide +kernel, by unfold Unwatched; decide +kernel⟩, by decide +kernel, by decide +kernel, by decide +kernel, by decide +kernel, by decide +kernel, by decide +kernel, by decide +kernel, by decide +kernel, ?_,
    ready_of_test (by decide +kernel), ready_of_test (by decide +kernel), ready_of_test (by decide +kernel), by and_intros <;> decide +kernel⟩
  intro s hs
  rcases List.mem_cons.1 hs with rfl | hs
  · exact ⟨⟨by decide +kernel, by decide +kernel, by decide +kernel⟩, by decide +kernel, by unfold Reaches; decide +kernel, by decide +kernel, by decide +kernel, by unfold Unwatched; decide +kernel⟩
  rcases List.mem_cons.1 hs with rfl | hs
  · exact ⟨⟨by decide +kernel, by decide +kernel, by decide +kernel⟩, by decide +kernel, by unfold Reaches; decide +kernel, by decide +kernel, by decide +kernel, by unfold Unwatched; decide +kernel⟩
  · obtain rfl := List.mem_singleton.1 hs
    exact ⟨⟨by decide +kernel, by decide +kernel, by decide +kernel⟩, by decide +kernel, by unfold Reaches; decide +kernel, by decide +kernel, by decide +kernel, by unfold Unwatched; decide +kernel⟩

/-- The first GiB is a locked page, as images lie in. -/
def locked : State := { warm with local_ := Memory.writeN warm.local_ 0x20000 8 0x23F, slices := [], cores := [] }
/-- A move of the cohort has been decided. -/
def moving (l : Leave) : State := withCohort (withCur locked fun st => { st with nlines := 8 }) fun c => { c with leaving := some l, variants := [{ lines := 8, scratch := 4096, carve := 0x3F, reservation := 2 ^ 21 }] }
/-- The hot cohort fills core 0, and another one, held to core 0 and of a class as given, waits to return. -/
def contended (cls : Nat) : State :=
  let full : Variant := { lines := 128, carve := 0x3F, reservation := 2 ^ 21 }
  let s := withCohort { locked with now := 11000000 } fun c => { c with variants := [full] }
  { s with
    cohorts := s.cohorts ++ [(0xA00000, { ccb := 0xA00000, pasid := 1, cls := cls, residency := .absent, variants := [full], cibs := [some 0xB00000], pin := some 0, seq := 1 })]
    strands := s.strands ++ [(0xB00000, { key := 0xB00000, cib := 0xB00000, ccb := 0xA00000, nlines := 128, frontier := [{ mask := 1, prio := 0x8000, pc := 0x100000 }] })] }

/-- A move of a cohort whose strand slots are all free. -/
def slotless : State := withCohort (moving (.migrate 5)) fun c => { c with cibs := [], variants := [{ lines := 8, carve := 0x3F, reservation := 2 ^ 21 }] }

/-- The only strand of the cohort is parked, and no move is decided. -/
def blockedOne : State := withCohort (withCur (moving .demote) fun st => { st with frontier := st.frontier.map fun e => { e with parked := true } }) fun c =>
  { c with leaving := none }

/-- The moving cohort as the first of a span of two, the second on core 1. -/
def inSpan : State :=
  let s := withCohort (moving .out) fun c => { c with span := 1 }
  { s with
    cohorts := s.cohorts ++ [(0x210000, { s.cohort 0x200000 with ccb := 0x210000, core := 1, pos := 1, cibs := [] })]
    spans := [(1, { size := 2, ccbs := [0x200000, 0x210000] })] }

theorem witness_swaps : (∀ l ∈ [Leave.out, .demote, .migrate 5], Single (moving l) 0x200000 ∧ Grouped (moving l) 0x200000 ∧ (moving l).acting = true ∧ (moving l).resident 0x200000 = true ∧
      ((moving l).cohort 0x200000).leaving = some l ∧ ((moving l).cohort 0x200000).dead = false ∧ (moving l).groupQuiet 0x200000 = true ∧
      ((moving l).cohort 0x200000).residency = .hot ∧ (moving l).warmRoom 0x200000 = true ∧ (moving l).moveFault 0x200000 false = none) ∧
    ((moving (.migrate 5)).without 0x200000).fitsNow 5 ((moving (.migrate 5)).cohort 0x200000).variant ((moving (.migrate 5)).cohort 0x200000).entriesHeld [] = true ∧
    (slotless.resident 0x200000 = true ∧ (slotless.cohort 0x200000).leaving = some (.migrate 5) ∧ slotless.groupQuiet 0x200000 = true ∧
      Single slotless 0x200000 ∧ slotless.leased = true ∧ (slotless.cohort 0x200000).dead = false ∧ (slotless.cohort 0x200000).halted = false ∧
      (slotless.cohort 0x200000).pin.getD 5 = 5 ∧
      (slotless.without 0x200000).fitsNow 5 (slotless.cohort 0x200000).variant (slotless.cohort 0x200000).entriesHeld [] = true ∧
      slotless.moveFault 0x200000 false = none ∧ (slotless.swapOut 0x200000).moveFault 0x200000 true = none) ∧
    Grouped blockedOne 0x200000 ∧ blockedOne.groupOf (blockedOne.cohort 0x200000) = [0x200000] ∧ blockedOne.acting = true ∧
    (let c := blockedOne.cohort 0x200000
     c.residency = .hot ∧ c.dead = false ∧ c.leaving = none ∧ c.stopping = false ∧ blockedOne.blockedCohort c = true ∧ blockedOne.warmRoom 0x200000 = true ∧
      blockedOne.groupStill 0x200000 = true ∧ blockedOne.moveFault 0x200000 false = none ∧ blockedOne.disp.regs.pol.getLsbD 1 = true) ∧
    (moving .demote).groupStill 0x200000 = true ∧
    Grouped inSpan 0x200000 ∧ inSpan.groupOf (inSpan.cohort 0x200000) = [0x200000, 0x210000] ∧ inSpan.acting = true ∧
    inSpan.resident 0x200000 = true ∧ (inSpan.cohort 0x200000).leaving = some .out ∧ (inSpan.cohort 0x200000).dead = false ∧
    inSpan.groupQuiet 0x200000 = true ∧ (inSpan.groupOf (inSpan.cohort 0x200000)).all (fun x => decide (inSpan.moveFault x false = none)) = true := by
  and_intros <;> first
    | decide +kernel
    | exact fun l hl => ⟨⟨by revert l; decide +kernel, by revert l; decide +kernel⟩, ⟨by revert l; decide +kernel, by revert l; decide +kernel, by revert l; decide +kernel⟩, by revert l; decide +kernel⟩
    | exact ⟨by decide +kernel, by decide +kernel, by decide +kernel⟩
    | exact ⟨by decide +kernel, by decide +kernel⟩

/-- The waiting cohort alone, with its core free. -/
def freed1 : State := { contended 0 with cohorts := (contended 0).cohorts.drop 1, strands := (contended 0).strands.drop 1 }

theorem witness_swapIn_and_quantum : Grouped freed1 0xA00000 ∧ freed1.acting = true ∧ (freed1.cohort 0xA00000).residency = .absent ∧ freed1.nextServed = some (.cohort 0xA00000) ∧
    freed1.returnCores 0xA00000 = some (true, [0]) ∧ freed1.moveFault 0xA00000 true = none ∧
    Grouped (contended 0) 0x200000 ∧ ((contended 0).cohort 0x200000).leaving = none ∧ ((contended 0).cohort 0x200000).halted = false ∧ ((contended 0).cohort 0x200000).dead = false ∧
    (contended 0).disp.regs.quant.toNat * (contended 0).disp.regs.weight ((contended 0).cohort 0x200000).cls ≤ (contended 0).now - ((contended 0).cohort 0x200000).hotSince ∧
    (contended 0).served.find? (fun i => (contended 0).countedClass i == ((contended 0).cohort 0x200000).cls && !(contended 0).fitsWith i ((contended 0).cohort 0x200000).core &&
      ((contended 0).without 0x200000).fitsWith i ((contended 0).cohort 0x200000).core) = some (.cohort 0xA00000) := by
  and_intros <;> first
    | decide +kernel
    | exact ⟨by decide +kernel, by decide +kernel, by decide +kernel⟩

theorem witness_preemption : (contended 1).acting = true ∧ (contended 1).starved = some (.cohort 0xA00000, [0]) ∧ (contended 1).roomSwitch (.cohort 0xA00000) [0] = none ∧
    (∀ x ∈ (contended 1).cohorts, x.2.request = none) ∧ (contended 1).victims (.cohort 0xA00000) [0] = [(contended 1).cohort 0x200000] ∧
    (contended 1).settled.itemFits (.cohort 0xA00000) [0] = false ∧ Grouped (contended 1) ((contended 1).cohort 0x200000).ccb ∧
    (contended 1).cohort ((contended 1).cohort 0x200000).ccb = (contended 1).cohort 0x200000 ∧ (contended 1).resident 0x200000 = true ∧ ((contended 1).cohort 0x200000).leaving = none := by
  and_intros <;> first
    | decide +kernel
    | exact ⟨by decide +kernel, by decide +kernel, by decide +kernel⟩

/-- The cohort holds every slot of core 0 and its strand waits for one more. -/
def starving : State := withCore (withCur warm fun st => { st with acquiring := some (0x100000, 1, 0) }) 0 fun c =>
  { c with owners := (List.range 16).map fun i => (i, { ccb := 0x200000, idx := i, resident := true }) }

theorem witness_accDeadlock : starving.acting = true ∧ slotHolders starving 0 ≠ [] ∧
    (∀ c ∈ slotHolders starving 0, c.leaving = none ∧ c.keys.any (fun x => (starving.strand x).slotRequest.isSome) = true) ∧
    (starving.core 0).bindable.length < 1 ∧ (∀ c ∈ starving.cohortsHeld 0, ∀ x ∈ c.keys, (starving.strand x).slotRequest = some (1, 0)) := by
  decide

/-- The supervisor strand with, in its scalars: an unknown CCB, the user cohort's, 0 to 4, a pin to core 5, and bit 63. -/
def governing (s : State) : State :=
  { s with
    strands := s.strands ++ super.strands.map (fun x => (x.1, { x.2 with scal := [(1, 0x700000), (2, 0x200000), (3, 0), (4, 1), (5, 4), (6, 0x105), (7, 3), (8, 0x8000000000000000), (9, 2)] }))
    curKey := 2 ^ 64 }
/-- The cohort has two variants with a switch point each. -/
def twoVariants : State := withCohort { warm with contexts := queues.contexts } fun c => { c with
  vmask := 3, bundle := 0x100000, variants := [{ lines := 128, carve := 0x3F, reservation := 2 ^ 15, points := [{ point := 1, offset := 0 }] },
    { id := 1, lines := 128, carve := 0x3F, reservation := 2 ^ 15, points := [{ point := 1, offset := 0x40 }] }] }

/-- The swap-out for which the supervisor waited is done. -/
def outAnswered : State := governing (withCohort returning fun c => { c with outDone := [2 ^ 64] })

/-- The same cohort as the first of a span of two. -/
def ofSpan : State := governing { inSpan with cohorts := inSpan.cohorts.map fun x => (x.1, { x.2 with leaving := none }) }

theorem witness_DispatchInstructions : (∀ s ∈ [governing twoVariants, governing returning, outAnswered, ofSpan], s.cur.priv = true ∧ HasLanes s ∧ s.liveCohort 0x700000 = false ∧
      s.liveCohort 0x200000 = true ∧ Grouped s 0x200000) ∧
    (∀ a ∈ ([1, 2] : List Code), ∀ b ∈ ([3, 4, 5, 6, 7] : List Code), Ready (governing twoVariants) (usesPriv false false 20 a b) ∧ Ready (governing returning) (usesPriv false false 20 a b)) ∧
    (governing twoVariants).resident 0x200000 = true ∧ ((governing twoVariants).cohort 0x200000).leaving = none ∧ (governing returning).resident 0x200000 = false ∧
    (governing returning).asksOut ((governing returning).cohort 0x200000) = false ∧ outAnswered.curKey ∈ (outAnswered.cohort 0x200000).outDone ∧
    (governing twoVariants).curKey ∉ ((governing twoVariants).cohort 0x200000).outDone ∧ ((governing twoVariants).ssrc 6).toNat < 2 ^ 9 ∧
    (((governing twoVariants).ssrc 6).getLsbD 8 = true ∧ ((governing twoVariants).ssrc 6).toNat % 256 < 192 ∧
      natBit ((governing twoVariants).cohort 0x200000).variant.carve ((governing twoVariants).core 5).carve = true) ∧
    (let c := (governing twoVariants).cohort 0x200000
     c.nsw = false ∧ c.meet = none ∧ c.vid ≠ ((governing twoVariants).ssrc 4).toNat ∧ ((governing twoVariants).eligibleFor c).any (fun x => x.id == ((governing twoVariants).ssrc 4).toNat) = true ∧
      c.vid = ((governing twoVariants).ssrc 3).toNat ∧ ((governing twoVariants).eligibleFor c).any (fun x => x.id == ((governing twoVariants).ssrc 7).toNat) = false) ∧
    4 ≤ ((governing twoVariants).ssrc 5).toNat ∧ ((governing twoVariants).ssrc 5).toNat < 8 ∧
    (ofSpan.cohort 0x200000).span ≠ 0 ∧ ofSpan.groupOf (ofSpan.cohort 0x200000) = [0x200000, 0x210000] := by
  refine ⟨?_, fun a ha b hb => ⟨ready_of_test (by revert a b; decide +kernel), ready_of_test (by revert a b; decide +kernel)⟩, by and_intros <;> decide +kernel⟩
  intro s hs
  rcases List.mem_cons.1 hs with rfl | hs
  · exact ⟨by decide +kernel, hasLanes_of (by decide +kernel), by decide +kernel, by decide +kernel, ⟨by decide +kernel, by decide +kernel, by decide +kernel⟩⟩
  rcases List.mem_cons.1 hs with rfl | hs
  · exact ⟨by decide +kernel, hasLanes_of (by decide +kernel), by decide +kernel, by decide +kernel, ⟨by decide +kernel, by decide +kernel, by decide +kernel⟩⟩
  rcases List.mem_cons.1 hs with rfl | hs
  · exact ⟨by decide +kernel, hasLanes_of (by decide +kernel), by decide +kernel, by decide +kernel, ⟨by decide +kernel, by decide +kernel, by decide +kernel⟩⟩
  · obtain rfl := List.mem_singleton.1 hs
    exact ⟨by decide +kernel, hasLanes_of (by decide +kernel), by decide +kernel, by decide +kernel, ⟨by decide +kernel, by decide +kernel, by decide +kernel⟩⟩

/-- A request to variant 1 stands, and the strand is at switch point 1. -/
def requested : State := withCohort twoVariants fun c => { c with request := some { target := 1, asked := .vreq } }
/-- The strand is held at the rendezvous; the same with a variant that has no room; and a rendezvous that lasts. -/
def met : State := withCohort (withCur requested fun st => { st with frontier := st.frontier.map fun e => { e with hold := .switch } }) fun c =>
  { c with meet := some { point := 1, since := 0 } }
def metFull : State := withCohort met fun c => { c with variants := c.variants.map fun v => if v.id = 1 then { v with reservation := 2 ^ 22 } else v }
def held (a : Asked) (v : Nat) : State := withCohort met fun c => { c with meet := none, request := some { target := v, asked := a } }
def lasting : State := { withCohort requested fun c => { c with meet := some { point := 1, since := 0 } } with now := 65536 }

theorem witness_VariantSwitches : HasLanes requested ∧ warm.curCohort.request = none ∧ super.cur.sup = true ∧ requested.cur.sup = false ∧
    (∃ r v, requested.liveRequest requested.curCohort = some r ∧ (∃ p ∈ requested.curCohort.variant.points, p.point = (1 : BitVec 9).toNat ∧
      requested.curCohort.bundle.toNat + p.offset = (place requested).toNat) ∧ requested.curCohort.variants.find? (fun v => v.id == r.target) = some v ∧
      ∃ q ∈ v.points, q.point = (1 : BitVec 9).toNat) ∧ requested.curCohort.meet = none ∧ requested.curCohort.barrier = none ∧
    (let s := withCohort twoVariants fun c => { c with vid := 1 }
     let c := s.cohort 0x200000
     s.acting = true ∧ c.residency = .hot ∧ c.leaving = none ∧ c.meet = none ∧ c.nsw = false ∧ c.dead = false ∧ c.halted = false ∧ s.starved = none ∧
      s.eligibleFor c = c.variants ∧ c.vid = 1 ∧ c.variants.map (fun v => v.id) = [0, 1] ∧ c.variants.all (fun v => s.variantFits c v) = true) ∧
    (∃ m r v p q, (met.cohort 0x200000).meet = some m ∧ (met.cohort 0x200000).request = some r ∧ met.switchMet (met.cohort 0x200000) = true ∧
      met.quiet (met.cohort 0x200000) = true ∧
      (∀ k ∈ (met.cohort 0x200000).keys, (met.strand k).shadow = false ∧ (met.strand k).cloneBad = none) ∧ (met.cohort 0x200000).variants.find? (fun v => v.id == r.target) = some v ∧
      (met.cohort 0x200000).variant.points.find? (fun p => p.point == m.point) = some p ∧ v.points.find? (fun q => q.point == m.point) = some q ∧
      met.badMap (met.cohort 0x200000) v p q = false ∧ met.variantFits (met.cohort 0x200000) v = true) ∧
    (∃ m r v p q, (metFull.cohort 0x200000).meet = some m ∧ (metFull.cohort 0x200000).request = some r ∧ metFull.switchMet (metFull.cohort 0x200000) = true ∧
      (metFull.cohort 0x200000).variants.find? (fun v => v.id == r.target) = some v ∧
      (metFull.cohort 0x200000).variant.points.find? (fun p => p.point == m.point) = some p ∧ v.points.find? (fun q => q.point == m.point) = some q ∧
      metFull.badMap (metFull.cohort 0x200000) v p q = false ∧ metFull.variantFits (metFull.cohort 0x200000) v = false) ∧
    (∀ s ∈ [held .vreq 1, held .richer 3], let c := s.cohort 0x200000
      c.residency = .hot ∧ c.request.isSome = true ∧ s.switchMet c = false ∧ c.meet = none ∧ (s.heldPoints c).find? (fun k => c.keys.any fun x => (s.strand x).arrivedAt c k) = some 1) ∧
    (held .vreq 1).requestStands ((held .vreq 1).cohort 0x200000) { target := 1, asked := .vreq } = true ∧
    (held .richer 3).requestStands ((held .richer 3).cohort 0x200000) { target := 3, asked := .richer } = false ∧
    (∃ m, (lasting.cohort 0x200000).meet = some m ∧ lasting.disp.regs.sto.toNat ≤ lasting.now - m.since) ∧ lasting.acting = true ∧
    lasting.switchMet (lasting.cohort 0x200000) = false := by
  and_intros <;> first
    | decide +kernel
    | exact ⟨by and_intros <;> decide +kernel⟩
    | exact ⟨_, _, _, _, _, rfl, rfl, by decide +kernel, by decide +kernel, by decide +kernel, rfl, rfl, rfl, by decide +kernel, by decide +kernel⟩
    | exact ⟨_, _, _, _, _, rfl, rfl, by decide +kernel, rfl, rfl, rfl, by decide +kernel, by decide +kernel⟩
    | exact ⟨_, _, rfl, by decide +kernel, rfl, by decide +kernel⟩
    | exact hasLanes_of (by decide +kernel)
    | exact ⟨_, rfl, by decide +kernel⟩

/-! The device chooses among the free frames, so that a placement is shown for every choice. -/

/-- The frames at which a run of n frames may start, and the state in which one has been taken. -/
def freeStarts (s : State) (slot n : Nat) : List Nat :=
  let c := Tab.get {} s.contexts slot
  (List.range c.poolFrames).filter fun i => c.framesFree i n && !Tab.has s.cohorts (c.frameAddr i) && !Tab.has s.strands (c.frameAddr i)
def took (s : State) (slot n i : Nat) : State :=
  let c := Tab.get {} s.contexts slot
  { s.tick with contexts := Tab.put s.contexts slot { c with taken := c.taken ++ [(i, n)] } }
/-- Whether runs can be taken whatever is chosen, and a private slot after them. -/
def runsOk : State → Nat → List Nat → Bool
  | s, slot, [] => (let c := Tab.get {} s.contexts slot; !((List.range c.privCount).filter fun i => !c.privTaken.contains i).isEmpty)
  | s, slot, n :: t => if n = 0 then runsOk s slot t else !(freeStarts s slot n).isEmpty && (freeStarts s slot n).all fun i => runsOk (took s slot n i) slot t

theorem takeFrames_some (s : State) (slot n : Nat) (h : (freeStarts s slot n).isEmpty = false) :
    ∃ i ∈ freeStarts s slot n, s.takeFrames slot n = some (took s slot n i, i) := by
  generalize hl : freeStarts s slot n = l at h ⊢
  simp only [freeStarts] at hl
  unfold State.takeFrames
  simp only [hl]
  cases l with
  | nil => simp at h
  | cons x t =>
    have hk : Config.freeNat s.free % (t.length + 1) < (x :: t).length := Nat.mod_lt _ (Nat.succ_pos _)
    exact ⟨(x :: t)[Config.freeNat s.free % (t.length + 1)], List.getElem_mem hk, by simp only [List.getElem?_eq_getElem hk, Option.getD_some, took]⟩

theorem takePrivate_some (s : State) (slot : Nat) (h : runsOk s slot [] = true) : ∃ r, s.takePrivate slot = some r := by
  simp only [runsOk, Bool.not_eq_true'] at h
  unfold State.takePrivate
  simp only
  split
  · next e => rw [e] at h; simp at h
  · exact ⟨_, rfl⟩

theorem takeRuns_some (runs : List Nat) (slot : Nat) : ∀ s : State, runsOk s slot runs = true →
    ∃ s1 l s2 p, s.takeRuns slot runs = some (s1, l) ∧ s1.takePrivates slot 1 = some (s2, p) := by
  induction runs with
  | nil =>
    intro s h
    obtain ⟨⟨s2, i⟩, hr⟩ := takePrivate_some s slot h
    exact ⟨s, [], s2, [i], rfl, by simp [State.takePrivates, hr]⟩
  | cons n t ih =>
    intro s h
    unfold runsOk at h
    unfold State.takeRuns
    split at h
    · next h0 =>
      obtain ⟨s1, l, s2, p, h1, h2⟩ := ih s h
      exact ⟨s1, 0 :: l, s2, p, by simp [h0, h1], h2⟩
    · next h0 =>
      simp only [Bool.and_eq_true, Bool.not_eq_true', List.all_eq_true] at h
      obtain ⟨i, hi, hf⟩ := takeFrames_some s slot n h.1
      obtain ⟨s1, l, s2, p, h1, h2⟩ := ih _ (h.2 i hi)
      exact ⟨s1, i :: l, s2, p, by simp [h0, hf, h1], h2⟩

def packedVariant : Variant := { bundleVariant with scratch := 0 }
/-- A record of n cohorts, the first of them placed, and a pool with room for one more. -/
def packedRecord (n : Nat) : Expansion := { expanded n with variants := [packedVariant], placed := 1, launch := some 0 }
def packed (n : Nat) : State :=
  { queues with
    contexts := [(0, { pasid := 1, root := 0x10001, framePool := 0x2000000, frameBytes := 60 * 4096, privPool := 0x4000000, privSize := 0x40000, privCount := 2, taken := [(36, 8), (47, 4)] })]
    disp := { queues.disp with queues := [(0, { en := true, dev := true, ring := 0x900000, tail := 1, expansion := some (packedRecord n) })], launches := [(0, { left := n })] } }

/-- The runs of frames that a cohort of the record takes: its image, no scratch, its mailbox, its one strand. -/
def packedRuns : List Nat :=
  let proto : Cohort := { variants := (packedRecord 2).variants }
  [framesOf proto.imageBytes, framesOf proto.maxScratch, 1] ++ (List.range (mostStrands (packedRecord 2).variants)).map fun k => framesOf (0x1000 + proto.maxLines k * 0x100)

theorem packedRuns_eq : packedRuns = [35, 0, 1, 3] := by decide +kernel

theorem packed_places {n : Nat} {now : Bool} {core : Nat}
    (hc : (packed n).chosen (packedRecord n) = some (now, packedVariant, [core]))
    (hr : runsOk (packed n) 0 [35, 0, 1, 3] = true) : ∃ s launch ccb, (packed n).placeNext 0 (packedRecord n) = .ok (s, launch, [ccb], now) := by
  rw [← packedRuns_eq] at hr
  obtain ⟨s1, l, s2, p, h1, h2⟩ := takeRuns_some _ _ _ hr
  have ha : ∃ r, (packed n).admitOne (packedRecord n) packedVariant core 0 0 0 1 0 = some r := by
    unfold State.admitOne
    dsimp only
    split
    · next e => exact absurd (e.symm.trans h1) (by simp)
    · next e =>
      obtain ⟨rfl, rfl⟩ := Prod.mk.inj (Option.some.inj (e.symm.trans h1))
      split
      · next e2 => exact absurd (e2.symm.trans h2) (by simp)
      · exact ⟨_, rfl⟩
  obtain ⟨⟨s3, ccb⟩, ha⟩ := ha
  have hl : (packed n).launchOf 0 (packedRecord n) = some (packed n, 0) := rfl
  have hsp : (packed n).spanOf (packedRecord n).slot 1 = some (packed n, 0, 0) := rfl
  have hall : (packed n).admitAll (packedRecord n) packedVariant 0 0 1 0 0 [core] = some (s3, [ccb]) := by simp only [State.admitAll, ha, Option.map_some]
  refine ⟨s3.scrambleBitmap 0, 0, ccb, ?_⟩
  simp only [State.placeNext, hc, State.admitGroup, hl, List.length_singleton, hsp, hall, le_refl, if_true]
  rfl

theorem witness_placement {n : Nat} (hn : n = 2 ∨ n = 3) : (packed n).leased = true ∧ ((packed n).queue 0).expansion = some (packedRecord n) ∧ ((packed n).queue 0).en = true ∧
    ((packed n).queue 0).stopped = false ∧ (packed n).nextServed = some (.queue 0) ∧
    (∃ s launch ccbs now, (packed n).placeNext 0 (packedRecord n) = .ok (s, launch, ccbs, now) ∧ (packedRecord n).placed + ccbs.length = 2) ∧
    natBits ((packedRecord n).words.getD 3 0) 0 24 = n := by
  have hc : ∃ core, (packed n).chosen (packedRecord n) = some (true, packedVariant, [core]) := ⟨0, by rcases hn with rfl | rfl <;> decide +kernel⟩
  obtain ⟨core, hc⟩ := hc
  obtain ⟨s, launch, ccb, hp⟩ := packed_places hc (by rcases hn with rfl | rfl <;> decide +kernel)
  have hs : (packed n).served = [.queue 0] := by rcases hn with rfl | rfl <;> decide +kernel
  have hx : ((packed n).queue 0).expansion = some (packedRecord n) := rfl
  refine ⟨by rcases hn with rfl | rfl <;> decide +kernel, hx, rfl, by rcases hn with rfl | rfl <;> decide +kernel, ?_, ⟨s, launch, [ccb], true, hp, rfl⟩, by rcases hn with rfl | rfl <;> decide +kernel⟩
  simp [State.nextServed, hs, State.canServe, hx, hp]

/-- The supervisor strand has a store to a peer that is not acknowledged. -/
def farWork : State := withCore super 0 fun c => { c with outstanding := [{ peer := true, key := 2 ^ 64, mask := 1, va := 0x400000, cells := [] }] }

/-- Translations cached in a core, and a reserved bit, a count and an address out of range in s4 to s6. -/
def translating : State := { governing warm with strands := (governing warm).strands.map fun x =>
  (x.1, if x.1 = 2 ^ 64 then { x.2 with scal := [(1, 0x400000), (2, 1), (3, 0x400000), (4, 2 ^ 22), (5, 2 ^ 32), (6, 2 ^ 56), (7, 0x100000001)] } else x.2) }

theorem witness_TranslationEngine : super.cur.priv = true ∧ 4 < (5 : BitVec 3).toNat ∧ (4 : BitVec 3).toNat ≤ 4 ∧ super.accessesWait super.cur 4 = false ∧
    farWork.cur.priv = true ∧ HasLanes farWork ∧ farWork.accessesWait farWork.cur 4 = true ∧ warm.link.atsCache = [] ∧ HasLanes super ∧
    translating.cur.priv = true ∧ HasLanes translating ∧ (∀ b ∈ ([2, 4, 5, 7] : List Code), ∀ a ∈ ([1, 6] : List Code), Ready translating [⟨.ssrc, a, false⟩, ⟨.ssrc, b, false⟩]) ∧
    (translating.ssrc 4).toNat / 2 ^ 22 % 2 ^ 10 ≠ 0 ∧
    (let r := namedRemoval (translating.ssrc 1) (translating.ssrc 5); r.kind ≠ 1 ∧ r.count ≠ 0) ∧ (let r := namedRemoval (translating.ssrc 6) (translating.ssrc 2); r.kind < 2 ∧ 2 ^ 56 ≤ r.va) ∧
    (let r := namedRemoval (translating.ssrc 1) (translating.ssrc 2)
     ¬ ((translating.ssrc 2).toNat / 2 ^ 22 % 2 ^ 10 ≠ 0 ∨ (r.kind ≠ 1 ∧ r.count ≠ 0) ∨ (r.kind < 2 ∧ 2 ^ 56 ≤ r.va)) ∧ translating.removalWaits r = false ∧ translating.monitors = []) ∧
    Ready translating (usesPriv false false 9 1 2) ∧
    (∃ root x lv addr host, user.rootOf 1 = some root ∧ user.walk 1 root 0x400000 = .leaf x lv addr host ∧ accessCause x true (accessOf 1) = none) := by
  and_intros <;> first
    | decide +kernel
    | exact fun b hb a ha => ready_of_test (by revert a b; decide +kernel)
    | exact ⟨_, _, _, _, _, rfl, rfl, by decide +kernel⟩
    | exact ready_of_test (by decide +kernel)
    | exact hasLanes_of (by decide +kernel)
    | exact super_hasLanes

/-- The bins of the cohort, all of them open for another place; and one open bin of a few threads that is due. -/
def fullBins : State := { parted with local_ := (List.range 32).foldl (fun m b =>
  Memory.writeN (Memory.writeN m (binBase 0x200000 b) 8 0x700000) (binBase 0x200000 b + 8) 8 (64 + 2 ^ 8)) parted.local_ }
def oneBin : State :=
  let s := withCohort { pairOf with now := 2000 } fun c => { c with binOpened := [(3, 0)] }
  { s with local_ := Memory.writeN (Memory.writeN s.local_ (binBase 0x200000 3) 8 0x700000) (binBase 0x200000 3 + 8) 8 (5 + 2 ^ 8) }
def dueBin3 : State := withCohort oneBin fun c => { c with binDue := [(3, 1024)] }

theorem witness_GatherUnit : (HasLanes super ∧ Unchecked super ∧ Untraced super ∧ Ready super [⟨.vsrc, 3, false⟩] ∧ super.cur.sup = true) ∧
    parted.cur.sup = false ∧ fullBins.cur.sup = false ∧ user.cur.sup = false ∧ HasLanes parted ∧ Unchecked parted ∧ Untraced parted ∧ Ready parted [⟨.vsrc, 3, false⟩] ∧ taken parted false 3 ≠ 0 ∧
    lanes parted &&& ~~~ (taken parted false 3) ≠ 0 ∧ (candidate parted.cur).prio ≠ 0xFFFF ∧ parted.cur.wb + 16 ≤ parted.cur.nlines ∧
    parted.operandWait [] ((List.range 16).map fun m => parted.cur.wb + m) false = none ∧ laneCount (taken parted false 3) ≤ parted.binRoom parted.curCohort 0x100040 ∧
    (let s := withCur parted fun st => { st with wb := 120 }
     HasLanes s ∧ Unchecked s ∧ Untraced s ∧ s.cur.nlines < s.cur.wb + 16) ∧
    HasLanes fullBins ∧ Unchecked fullBins ∧ Untraced fullBins ∧ Ready fullBins [⟨.vsrc, 3, false⟩] ∧ fullBins.binRoom fullBins.curCohort 0x100040 < laneCount (taken fullBins false 3) ∧
    Ready user [⟨.vsrc, 3, false⟩] ∧ taken user false 3 = 0 ∧
    oneBin.resident (BitVec.ofNat 64 0x200000) = true ∧ (oneBin.bin (oneBin.cohort 0x200000) 3).open_ = true ∧ (oneBin.bin (oneBin.cohort 0x200000) 3).closed = false ∧
    1024 ≤ oneBin.now - Tab.get oneBin.now (oneBin.cohort 0x200000).binOpened 3 ∧
    dueBin3.resident 0x200000 = true ∧ (dueBin3.cohort 0x200000).dead = false ∧ (dueBin3.cohort 0x200000).halted = false ∧ dueBin3.dueBin (dueBin3.cohort 0x200000) = some 3 ∧
    dueBin3.freeSlot (dueBin3.cohort 0x200000) = some 1 ∧ (dueBin3.rangeFaults (dueBin3.cohort 0x200000).pasid (binBase 0x200000 3) 0x1100).2 = false := by
  and_intros <;> first
    | decide +kernel
    | exact ⟨super_hasLanes, super_unchecked, by unfold Untraced; decide +kernel, ready_of_test (by decide +kernel), by decide +kernel⟩
    | exact ⟨hasLanes_of (by decide +kernel), ⟨by decide +kernel, by decide +kernel, by decide +kernel⟩, by unfold Untraced; decide +kernel, by decide +kernel⟩
    | exact ⟨by decide +kernel, by decide +kernel, by decide +kernel⟩
    | exact ready_of_test (by decide +kernel)
    | exact hasLanes_of (by decide +kernel)
    | (unfold Untraced; decide +kernel)
    | exact super_unchecked
    | exact super_hasLanes

/-- Frames that are locked, and line 5 not resident. -/
def lineGone : State := withCur { user with local_ := Memory.writeN user.local_ 0x20000 8 0x23F } fun st => { st with absent := 1 <<< 5 }

theorem witness_lines : (∀ n ∈ [5, 6], n < (lineGone.strand 0x300000).nlines ∧
      lineGone.rangeFaults (lineGone.cohort (lineGone.strand 0x300000).ccb).pasid ((lineGone.strand 0x300000).cib.toNat + 0x1000 + 0x100 * n) 256 = (false, false)) ∧
    (lineGone.strand 0x300000).absent.getLsbD 5 = true ∧ (lineGone.strand 0x300000).sup = false ∧ (lineGone.strand 0x300000).absent.getLsbD 6 = false ∧
    (lineGone.strand 0x300000).vFull.getLsbD 6 = true ∧ (lineGone.strand 0x300000).floatBusy [6] false = false ∧ (lineGone.strand 0x300000).lateIn lineGone.now [6] = false ∧ 6 ∉ lineGone.busyLines (lineGone.strand 0x300000) ∧
    lineGone.resident (lineGone.strand 0x300000).ccb = true := by
  and_intros <;> decide +kernel

/-! ### Witnesses: the copy engine and tile transfers (10) -/

/-- SRC, DST, the shape and the strides in s8 to s11; entry 0 of the slot map is granted, clear and resident. -/
def copying (src dst shape strides : Nat) : State :=
  withCohort (withCur warm fun st => { st with scal := [(8, BitVec.ofNat 64 src), (9, BitVec.ofNat 64 dst), (10, BitVec.ofNat 64 shape), (11, BitVec.ofNat 64 strides)] })
    fun c => { c with slots := [(0, { granted := true, resident := true, mode := .a48 })] }
/-- Parameters that each command accepts. -/
def copyParameters : List (CopyOp × Nat × Nat × Nat × Nat) := [
  (.cpgt, 0x400000, 0, 2 ^ 24 + 64, 0), (.cptg, 0, 0x400000, 2 ^ 24 + 64, 0), (.cpgg, 0x400000, 0x480000, 2 ^ 24 + 64, 0),
  (.cpat, 0, 0x400000, 2 ^ 24 + 4, 0), (.cpgs, 0x400000, 0xFFFF0000000000, 2 ^ 24 + 64, 0), (.cpsg, 0xFFFF0000000000, 0x400000, 2 ^ 24 + 64, 0),
  (.cpix, 0x400000, 0, 2 ^ 24 + 64, 0x480000), (.cfill, 7, 0x400000, 2 ^ 24 + 64, 0)]

theorem witness_TransferCommands : (∀ x ∈ copyParameters,
      let s := copying x.2.1 x.2.2.1 x.2.2.2.1 x.2.2.2.2
      let m := commandOf s x.1 12 0x68 0x6A
      s.cur.chk = 0 ∧ lowestCause (s.commandCauses s.curCohort { m with order := 0 } (s.usrc 0x6A).toNat (s.usrc (0x6A + 1)).toNat) = none ∧
      readyTest s (usesCopy false false 12 0x68 0x6A) = true ∧ (ownChannel s 3).length < 16 ∧ s.commandsOn s.cur.core < 256 ∧ (∀ x ∈ ownChannel s 3, x.old = false) ∧
      s.drainHolds s.curCohort m.slotIdx m.col0 m.len = false) ∧
    (13 : BitVec 4).toNat % 2 = 1 ∧ (12 : BitVec 4).toNat % 2 = 0 ∧
    (let s := copying 0x400000 0x480000 0 0
     let m := commandOf s .cpgg 12 0x68 0x6A
     Unchecked s ∧ Ready s (usesCopy false false 12 0x68 0x6A) ∧
      lowestCause (s.commandCauses s.curCohort { m with order := 0 } (s.usrc 0x6A).toNat (s.usrc (0x6A + 1)).toNat) = some .copyParameter) ∧
    (let s := withCohort (copying 0x400000 0x480000 (2 ^ 24 + 64) 0) fun c => { c with channels := [(3, List.replicate 16 (commandOf warm .cpgg 12 0x68 0x6A))] }
     let m := commandOf s .cpgg 12 0x68 0x6A
     Unchecked s ∧ Ready s (usesCopy false false 12 0x68 0x6A) ∧ 16 ≤ (ownChannel s 3).length ∧
      lowestCause (s.commandCauses s.curCohort { m with order := 0 } (s.usrc 0x6A).toNat (s.usrc (0x6A + 1)).toNat) = none) := by
  and_intros <;> first
    | decide +kernel
    | exact ⟨⟨by decide +kernel, by decide +kernel, by decide +kernel⟩, ready_of_test (by decide +kernel), by decide +kernel, by decide +kernel⟩
    | exact ⟨⟨by decide +kernel, by decide +kernel, by decide +kernel⟩, ready_of_test (by decide +kernel), by decide +kernel⟩
    | exact ⟨by decide +kernel, by decide +kernel, by decide +kernel⟩
    | exact ready_of_test (by decide +kernel)

/-- A command of 64 bytes from 0x400000, at the head of channel 3. -/
def transfer : Command := { op := .cpgg, src := 0x400000, dst := 0x480000, len := 64, rows := 1, sstr := 0, dstr := 0, cwa := 0, pwa := 0, user := true, pasid := 1, core := 0 }
def channelled (m : Command) : State := withCohort warm fun c => { c with channels := [(3, [m])] }

theorem atHead_of (m : Command) (h : ((channelled m).headCommand 0 (BitVec.ofNat 64 0x200000) 3 == some m && m.parked == none &&
    !(channelled m).cpatWaits (BitVec.ofNat 64 0x200000) m && decide (((channelled m).core m.core).relaxed.length ≤ 1024)) = true) : AtHead (channelled m) 0 0x200000 3 m := by
  simp only [Bool.and_eq_true, beq_iff_eq, Bool.not_eq_true', decide_eq_true_eq] at h
  exact ⟨h.1.1.1, h.1.1.2, h.1.2, h.2⟩

theorem witness_ChannelSteps : AtHead (channelled transfer) 0 0x200000 3 transfer ∧ transfer.ended = none ∧ transfer.started = false ∧ transfer.pwa = 0 ∧
    (let m := { transfer with pwa := 0x4C0000 }; AtHead (channelled m) 0 0x200000 3 m ∧ (channelled m).commandRead m m.pwa 8 = (channelled m, .ok 0)) ∧
    (let m := { transfer with started := true }
     AtHead (channelled m) 0 0x200000 3 m ∧ m.delivered < m.total ∧ (channelled m).pickIndex m = (channelled m, .ok 0) ∧ m.pwa = 0 ∧
      (channelled m).unitSource (BitVec.ofNat 64 0x200000) m 0 = (channelled m, .ok 0) ∧ m.dest = .memory ∧
      (∃ p, (channelled m).commandPlace m .write (rowAddr m.dst m.destStride m.row + BitVec.ofNat 64 m.col) = (channelled m, .ok p) ∧ p.loc = .dev)) ∧
    (let m := { transfer with started := true, op := .cpgt, dst := 0 }
     AtHead (channelled m) 0 0x200000 3 m ∧ m.delivered < m.total ∧ (channelled m).pickIndex m = (channelled m, .ok 0) ∧ m.pwa = 0 ∧
      (channelled m).unitSource (BitVec.ofNat 64 0x200000) m 0 = (channelled m, .ok 0) ∧ m.dest = .tile) ∧
    (let m := { transfer with started := true, delivered := 64, row := 1 }; AtHead (channelled m) 0 0x200000 3 m ∧ m.total ≤ m.delivered ∧ m.cwa = 0 ∧ (channelled m).unacknowledged m.core { ccb := BitVec.ofNat 64 0x200000, channel := 3 } = false) ∧
    (let m := { transfer with started := true, delivered := 64, row := 1, cwa := 0x4C0000 }
     AtHead (channelled m) 0 0x200000 3 m ∧ m.total ≤ m.delivered ∧ (channelled m).unacknowledged m.core { ccb := BitVec.ofNat 64 0x200000, channel := 3 } = false ∧ ∃ p, (channelled m).commandPlace m .write m.cwa = (channelled m, .ok p) ∧ p.loc = .dev) ∧
    (let m := { transfer with started := true, src := 0x40000000 }
     AtHead (channelled m) 0 0x200000 3 m ∧ ((channelled m).core m.core).ringFull = false ∧
      ∃ s1 f, (channelled m).channelAction 0 (BitVec.ofNat 64 0x200000) 3 m = (s1, .error (.park f)) ∧ (s1.core m.core).queueRoom = true) ∧
    (let m := { transfer with started := true, delivered := 64, row := 1, cwa := 0x40000000 }
     let f : ChannelFault := { cause := .pageNotPresent, level := 2, va := 0x40000000, kind := .write }
     AtHead (channelled m) 0 0x200000 3 m ∧ ((channelled m).core m.core).ringFull = false ∧ m.started = true ∧ m.total ≤ m.delivered ∧
      canonical m.cwa = true ∧ inAperture m.cwa = false ∧ m.cwa ≠ 0 ∧ f.va = m.cwa ∧ f.kind = .write ∧
      ∃ s1 w, (channelled m).translate m.core m.pasid m.user .write m.cwa.toNat = (s1, .fail f.cause w) ∧ f.level = w.level ∧ (s1.core m.core).queueRoom = true) := by
  and_intros <;> first
    | decide +kernel
    | exact ⟨atHead_of _ (by decide +kernel), by decide +kernel, rfl, by decide +kernel, rfl, by decide +kernel, ⟨_, rfl, by decide +kernel⟩⟩
    | exact ⟨atHead_of _ (by decide +kernel), by decide +kernel, rfl, by decide +kernel, rfl, by decide +kernel⟩
    | exact ⟨atHead_of _ (by decide +kernel), by decide +kernel, ⟨_, _, rfl, by decide +kernel⟩⟩
    | exact ⟨atHead_of _ (by decide +kernel), by decide +kernel, ⟨_, rfl, by decide +kernel⟩⟩
    | exact ⟨atHead_of _ (by decide +kernel), by decide +kernel, by decide +kernel⟩
    | exact ⟨atHead_of _ (by decide +kernel), rfl⟩
    | exact atHead_of _ (by decide +kernel)
    | exact ⟨_, _, rfl, by decide +kernel⟩
    | exact ⟨_, rfl, by decide +kernel⟩
    | exact ⟨_, _, rfl, rfl, by decide +kernel⟩
    | exact ⟨atHead_of _ (by decide +kernel), by decide +kernel, by decide +kernel, by decide +kernel, by decide +kernel, by decide +kernel, by decide +kernel, by decide +kernel, by decide +kernel, ⟨_, _, rfl, by decide +kernel, by decide +kernel⟩⟩
    | exact ⟨atHead_of _ (by decide +kernel), by decide +kernel, rfl, by decide +kernel⟩
    | exact ⟨atHead_of _ (by decide +kernel), by decide +kernel, by decide +kernel, ⟨_, rfl, by decide +kernel⟩⟩

/-- A parked command, a running one, and the operands of `chres` in s1 to s6: the CCB, channels 3, 8 and 4. -/
def parkedChannel : State :=
  let s := governing (withCohort warm fun c => { c with channels := [(3, [{ transfer with parked := some 0x11 }]), (4, [transfer])] })
  { s with strands := s.strands.map fun x => (x.1, if x.1 = 2 ^ 64 then { x.2 with scal := [(1, 0x200000), (2, 3), (3, 8), (4, 4), (5, 0x700000)] } else x.2) }

theorem witness_ChannelInstructions : HasLanes (channelled transfer) ∧ Unchecked (channelled transfer) ∧ (ownChannel (channelled transfer) 3) ≠ [] ∧
    HasLanes warm ∧ Unchecked warm ∧ Ready warm [⟨.sseg, 0x63, false⟩, ⟨.seg, 0x69, false⟩] ∧ EntryReads warm .plain 8 true (warm.usrc 0x63) (inLocal 0x400000) 0 ∧
    parkedChannel.cur.priv = true ∧ HasLanes parkedChannel ∧ (∀ b ∈ ([2, 3, 4] : List Code), Ready parkedChannel [⟨.ssrc, 1, false⟩, ⟨.ssrc, b, false⟩, ⟨.sdst, 20, false⟩]) ∧
    8 ≤ (parkedChannel.ssrc 3).toNat ∧ ((parkedChannel.channelsOf 0 (parkedChannel.ssrc 1)).any fun x => x.2.any fun m => m.core == parkedChannel.cur.core) = true ∧
    (parkedChannel.ssrc 2).toNat < 8 ∧ parkedChannel.headCommand 0 (parkedChannel.ssrc 1) (parkedChannel.ssrc 2).toNat = some { transfer with parked := some 0x11 } ∧
    parkedChannel.headCommand 0 (parkedChannel.ssrc 1) (parkedChannel.ssrc 4).toNat = some transfer ∧ transfer.core = parkedChannel.cur.core ∧
    Ready parkedChannel [⟨.ssrc, 5, false⟩, ⟨.ssrc, 2, false⟩, ⟨.sdst, 20, false⟩] ∧
    ((parkedChannel.channelsOf 0 (parkedChannel.ssrc 5)).any fun x => x.2.any fun m => m.core == parkedChannel.cur.core) = false := by
  and_intros <;> first
    | decide +kernel
    | exact ⟨by unfold Reaches; decide +kernel, by decide +kernel, by decide +kernel, by unfold Unwatched; decide +kernel⟩
    | exact fun b hb => ready_of_test (by revert b; decide +kernel)
    | exact ⟨by decide +kernel, by decide +kernel, by decide +kernel⟩
    | exact ready_of_test (by decide +kernel)
    | exact hasLanes_of (by decide +kernel)
    | (unfold Unwatched; decide +kernel)
    | (unfold Reaches; decide +kernel)

/-- Tile offsets in s1 to s3: one in the window, one beyond it, one in a bad column. -/
def tiling : State := withCohort (withScalars user [(1, 0), (2, 0x7FF00), (3, 2)]) fun c => { c with
  slots := [(0, { granted := true, resident := true, phys := 0 }), (1, { granted := true, resident := true, phys := 1 })] }

theorem witness_TileTransfers : Unchecked tiling ∧ HasLanes tiling ∧
    (∀ a ∈ ([0x61, 0x62, 0x63] : List Code), ∀ r ∈ [false, true], Ready tiling [⟨.sseg, a, false⟩, ⟨.vlines 32 r, 95, false⟩]) ∧
    (∀ m ∈ [0, 1, 2, 3], tiling.cur.tileCause tiling.curCohort m 8 (tiling.usrc 0x61) = none ∧
      tiling.cur.tileCause tiling.curCohort m 8 (tiling.usrc 0x62) = some .tileBound) ∧
    tiling.cur.tileCause tiling.curCohort 1 8 (tiling.usrc 0x63) = some .copyParameter ∧ tiling.curCohort.flawedTile = false ∧
    (let s := withCohort tiling fun c => { c with flawedTile := true }
     Unchecked s ∧ Ready s [⟨.sseg, 0x61, false⟩, ⟨.vlines 32 true, 95, false⟩] ∧ s.cur.tileCause s.curCohort 1 8 (s.usrc 0x61) = none ∧ s.curCohort.flawedTile = true) ∧
    (let s := withCur tiling fun st => { st with wb := 8 }
     let us : List Use := [⟨.sseg, 0x61, false⟩, ⟨.vlines 32 true, 95, false⟩]
     Unchecked s ∧ us.all (fun u => u.accepted) = true ∧
      ∃ l ∈ (List.range 32).map fun i => s.cur.wb + (95 : Code).toNat + i, s.cur.nlines ≤ l) := by
  and_intros <;> first
    | decide +kernel
    | exact fun a ha r hr => ready_of_test (by revert a r; decide +kernel)
    | exact ⟨by decide +kernel, by decide +kernel, by decide +kernel⟩
    | exact ready_of_test (by decide +kernel)
    | exact hasLanes_of (by decide +kernel)

/-! ### Witnesses: the matrix engine (11) -/

/-- A cohort of two strands with one accumulator slot, entry 0; the second strand is held at an `mma` at the first address; s1 to s5:
a gang of both, a reserved gang, and the masks of entries 0 and 1. -/
def paired : State :=
  let s := withCohort (withScalars warm [(1, 2 * 2 ^ 32 + 2 ^ 5), (2, 7 * 2 ^ 32), (3, 1), (4, 2), (5, 0)]) fun c => { c with
    cibs := [some 0x300000, some 0x310000], variants := [{ strands := 2, lines := 128, acc := 1, scratch := 4096 }], matrix := true,
    slots := [(0, { granted := true, acquired := true, resident := true })] }
  { s with strands := s.strands ++ [(0x310000, { key := 0x310000, cib := 0x310000, ccb := 0x200000, sidx := 1, nlines := 128, gang := 2 * 2 ^ 32 + 2 ^ 5, frontier := [{ mask := 1, pc := 0x100000, hold := .gang }] })] }
/-- The gang register of the issuing strand names both; with the slot map as given. -/
def ganged (granted : Bool) : State :=
  withCohort (withCur paired fun st => { st with gang := 2 * 2 ^ 32 + 2 ^ 5 }) fun c => { c with slots := [(0, { granted := granted, resident := granted })] }
/-- An arrival of the second strand, and one of the first; a gang with given arrivals; a latch. -/
def other : Arrival := { key := 0x310000, sidx := 1, pc := 0x100000, aLines := [], bLines := [24, 25], scales := [] }
def mine : Arrival := { key := 0x300000, sidx := 0, pc := 0x100000, aLines := [0, 1], bLines := [16, 17], scales := [] }
def gangOf (ccb : DWord) (l : List Arrival) : Gang := { ccb := ccb, form := .bf16, shape := 0, z := false, k := 0, members := 2 * 2 ^ 32 + 2 ^ 5, arrivals := l, since := 0 }
def latched (s : State) (l : List Gang) : State := withCore s 0 fun c => { c with latch := l }

/-- What every clause of an arrival asks for. -/
def arriving (s : State) : Bool :=
  readyTest s [⟨.vfrag, 0, false⟩, ⟨.vfrag, 16, false⟩] && !s.cur.sup && decide (s.cur.cloneBad = none) && decide (s.cur.chk = 0) &&
  !((s.replayQueue s.cur).any fun r => r.key == s.cur.key) && decide (s.curCohort.barrier = none) && decide (lanes s ≠ 0)
/-- The gang that arrives. -/
def newGang (s : State) : Gang :=
  { ccb := s.cur.ccb, form := .bf16, shape := 0, z := false, k := 0, members := s.cur.gang.toNat % 2 ^ 35, since := s.now }

theorem witness_MatrixArrivals : arriving user = true ∧ gangCount user.cur.gang.toNat < 2 ∧ Settled user user.cur.core ∧
    arriving (ganged false) = true ∧ 2 ≤ gangCount (ganged false).cur.gang.toNat ∧ (entryOf (ganged false) (ganged false).cur.ccb 0).granted = false ∧
    Settled (ganged false) (ganged false).cur.core ∧
    (∀ s ∈ [ganged true, latched (ganged true) (List.replicate 8 (gangOf 0xA00000 [other])), latched (ganged true) [gangOf 0x200000 [other]]],
      arriving s = true ∧ s.cur.also = [] ∧ 2 ≤ gangCount s.cur.gang.toNat ∧ (entryOf s s.cur.ccb 0).granted = true ∧ s.memberGone s.curCohort (gangMembers s.cur.gang.toNat) = false ∧
      (let x := shareLines .bf16 0 (gangCount s.cur.gang.toNat) ((gangMembers s.cur.gang.toNat).idxOf s.cur.sidx) s.cur.wb 0 16
       (∀ n ∈ x.1 ++ x.2.1 ++ x.2.2, n < s.cur.nlines ∧ s.cur.vFull.getLsbD n = true ∧ s.cur.absent.getLsbD n = false) ∧ s.cur.floatBusy (x.1 ++ x.2.1 ++ x.2.2) false = false ∧ s.cur.lateIn s.now (x.1 ++ x.2.1 ++ x.2.2) = false) ∧
      (∀ y ∈ (s.core s.cur.core).latch, ∀ x ∈ y.arrivals, x.key ≠ s.cur.key) ∧ Settled s s.cur.core) ∧
    (∀ s ∈ [ganged true, latched (ganged true) (List.replicate 8 (gangOf 0xA00000 [other]))], ((s.core s.cur.core).latch.find? fun y => y.same (newGang s)) = none ∧
      ∀ y ∈ (s.core s.cur.core).latch, ¬ (y.ccb = s.cur.ccb ∧ s.cur.sidx ∈ gangMembers y.members)) ∧
    (let s := latched (ganged true) [gangOf 0x200000 [other]]; ((s.core s.cur.core).latch.find? fun y => y.same (newGang s)) = some (gangOf 0x200000 [other])) := by
  unfold Settled
  and_intros <;> decide +kernel

/-- Both strands are held, and the gang is complete; the time-out has passed. -/
def complete : State := latched (withCur (ganged true) fun st => { st with frontier := st.frontier.map fun e => { e with hold := .gang } }) [gangOf 0x200000 [mine, other]]
def late : State := { latched (ganged true) [gangOf 0x200000 [other]] with now := 65536 }
/-- An operation on entry 0, which the core's first physical slot holds. -/
def operation : MxOp := { ccb := 0x200000, form := .bf16, shape := 0, z := false, k := 0, ta := false, tb := false, narrow := false, aLines := [], bLines := [], scales := [], order := 0 }
def operating : State := withCore (ganged true) 0 fun c => { c with mxOps := [operation], owners := [(0, { ccb := 0x200000, idx := 0, resident := true })] }
/-- A `macq.w` waits; the power alarm holds; a drain descriptor waits. -/
def acquires : State := withCur paired fun st => { st with acquiring := some (0x100000, 1, 0), stall := 12 }
def alarmed : State := withCore (withCur paired fun st => { st with gang := 4 * 2 ^ 35 }) 0 fun c => { c with powerAlarm := true }
def draining : State := withCur paired fun st => { st with drains := [(2, [{ idx := 0, cols := 4 }])] }

theorem witness_MatrixSteps : Settled complete 0 ∧ (complete.core 0).latch[0]? = some (gangOf 0x200000 [mine, other]) ∧
    (let g := gangOf 0x200000 [mine, other]
     (∀ m ∈ gangMembers g.members, ∃ a ∈ g.arrivals, a.sidx = m) ∧ (entryOf complete g.ccb g.k).granted = true ∧
      ((entryOf complete g.ccb g.k).absent = true → g.z = true) ∧ modeForbids g.form g.z (entryOf complete g.ccb g.k).mode = false ∧
      modeForbids g.form g.z (complete.modeAfter (complete.cohort g.ccb) g.k) = false ∧
      (complete.core 0).mxOps.length < 2 ∧ complete.drainsOn (complete.cohort g.ccb) g.k = false ∧ (complete.core 0).firstMet g = true ∧
      (g.arrivals.map fun a => a.key).Nodup) ∧
    (let g := gangOf 0x200000 [other]
     Settled late 0 ∧ (late.core 0).latch[0]? = some g ∧ late.disp.regs.mrto.toNat ≤ late.now - g.since ∧ late.gangPaused g = false ∧ g.complete = false) ∧
    (operating.core 0).mxOps = [operation] ∧ 260 ≤ 300 ∧ (operating.cohort operation.ccb).channels = [] ∧ (entryOf operating operation.ccb operation.k).granted = true ∧
    (acquires.strand 0x300000).slotRequest = some (1, 0) ∧ (acquires.strand 0x300000).stall = 12 ∧
    1 ≤ (acquires.core (acquires.strand 0x300000).core).bindable.length ∧ (alarmed.core 0).powerAlarm = true ∧
    (alarmed.core 0).mxOps = [] ∧ (operating.core 0).mxOps ≠ [] ∧
    (∃ d, nextDrain (Tab.get [] (draining.strand 0x300000).drains 2) = some (0, d) ∧ (Tab.get [] (draining.strand 0x300000).readyq 2).length < 2 ∧
      (entryOf draining (draining.strand 0x300000).ccb d.idx).granted = true ∧ (entryOf draining (draining.strand 0x300000).ccb d.idx).absent = false ∧
      draining.resident (draining.strand 0x300000).ccb = true ∧ draining.opsOn (draining.cohort (draining.strand 0x300000).ccb) d.idx = 0 ∧
      (draining.cohort (draining.strand 0x300000).ccb).fillsColumns d.idx (d.columns d.prepared) = false) := by
  unfold Settled
  and_intros <;> first
    | decide +kernel
    | exact ⟨by and_intros <;> decide +kernel⟩
    | exact ⟨by and_intros <;> decide +kernel⟩
    | exact ⟨_, rfl, by decide +kernel⟩

/-- What every matrix instruction asks for. -/
def calm (s : State) : Prop := HasLanes s ∧ Unchecked s
theorem calm_of {s : State} (h : decide ((candidate s.cur).mask ≠ 0 ∧ s.cur.also = []) = true) (u : Unchecked s) : calm s := ⟨hasLanes_of h, u⟩

/-- The cohort holds all sixteen entries; sixteen resident slots of others; entry 0 saved and absent; four descriptors in stream q0. -/
def fullMap : State := withCohort paired fun c => { c with slots := (List.range 16).map fun i => (i, { granted := true, acquired := true, phys := i }) }
def fullCore : State := withCore paired 0 fun c => { c with owners := (List.range 16).map fun i => (i, { ccb := 0xA00000, idx := i, resident := true }) }
def away : State := withCohort paired fun c => { c with slots := [(0, { granted := true, saved := true })] }
def fullStream : State := withCur paired fun st => { st with drains := [(0, List.replicate 4 {})] }
/-- Scalars that `mdrain` accepts, and refuses. -/
def drainable (s : State) : State := withCur s fun st => { st with scal := [(1, 0), (2, 2 ^ 15)] }

theorem witness_MatrixInstructions : calm paired ∧ Ready paired [⟨.sseg, 0x61, false⟩] ∧ paired.cur.sup = false ∧ (paired.core paired.cur.core).latch = [] ∧
    paired.gangBad (paired.usrc 0x61).toNat = false ∧ Ready paired [⟨.sseg, 0x62, false⟩] ∧ paired.gangBad (paired.usrc 0x62).toNat = true ∧ paired.curCohort.barrier = none ∧
    calm alarmed ∧ Ready alarmed [⟨.seg, 0x69, false⟩] ∧
    ((alarmed.core alarmed.cur.core).powerAlarm = true ∧ 4 ≤ alarmed.cur.gang.toNat / 2 ^ 35 % 8 ∧ (3 : BitVec 3).toNat < 4) ∧
    calm user ∧ Ready user [⟨.seg, 0x69, false⟩] ∧ user.curCohort.ccb = user.cur.ccb ∧ user.curCohort.matrix = false ∧
    (∀ s ∈ [fullMap, fullCore, paired], readyTest s [⟨.seg, 0x69, false⟩] = true ∧ s.cur.sup = false ∧ s.curCohort.ccb = s.cur.ccb ∧ s.curCohort.matrix = true) ∧
    calm fullMap ∧ calm fullCore ∧
    ((List.range 16).filter fun i => !(fullMap.curCohort.slot i).granted).length < (0 : BitVec 4).toNat + 1 ∧
    (((List.range 16).filter fun i => !(fullCore.curCohort.slot i).granted).take 1).length = (0 : BitVec 4).toNat + 1 ∧ (fullCore.core fullCore.cur.core).bindable.length < 1 ∧
    (((List.range 16).filter fun i => !(paired.curCohort.slot i).granted).take 1).length = (0 : BitVec 4).toNat + 1 ∧ 1 ≤ (paired.core paired.cur.core).untagged.length ∧
    paired.olderRequest paired.cur (place paired) = false ∧ Settled paired paired.cur.core := by
  and_intros <;> first
    | decide +kernel
    | exact calm_of (by decide +kernel) ⟨by decide +kernel, by decide +kernel, by decide +kernel⟩
    | exact ⟨by decide +kernel, by decide +kernel, by decide +kernel⟩
    | exact ready_of_test (by decide +kernel)
    | exact hasLanes_of (by decide +kernel)
    | (unfold Settled; decide +kernel)

theorem witness_MatrixEntries : Ready paired [⟨.useg, 0x63, false⟩] ∧ Ready paired [⟨.useg, 0x64, false⟩] ∧ paired.curCohort.ccb = paired.cur.ccb ∧
    (∃ i, (i < 16 ∧ natBit (paired.usrc 0x64).toNat i = true) ∧ ((paired.curCohort.slot i).granted = false ∨ (paired.curCohort.slot i).acquired = false)) ∧
    (∀ i < 16, natBit (paired.usrc 0x63).toNat i = true → (paired.curCohort.slot i).granted = true ∧ (paired.curCohort.slot i).acquired = true ∧
      paired.entryBusy paired.curCohort i = false) ∧
    calm operating ∧ (paired.curCohort.slot 1).granted = false ∧ operating.curCohort.ccb = operating.cur.ccb ∧ (operating.curCohort.slot 0).granted = true ∧
    (operating.entryBusy operating.curCohort 0 || operating.drainsOn operating.curCohort 0) = true ∧
    (paired.curCohort.slot 0).granted = true ∧ paired.entryBusy paired.curCohort 0 = false ∧ paired.drainsOn paired.curCohort 0 = false ∧
    (∀ s ∈ [paired, fullStream, away, user], ∀ a ∈ ([0x61, 0x62] : List Code), readyTest (drainable s) [⟨.sseg, a, false⟩, ⟨.dstream, 0x70, false⟩] = true ∧ (drainable s).cur.sup = false) ∧
    (let x := (drainable away).curCohort.slot (((drainable away).usrc 0x61).toNat % 16); (drainable away).curCohort.matrix = true ∧ x.granted = true ∧ x.absent = true) ∧
    (drainable user).curCohort.matrix = false ∧
    (let x := (drainable paired).curCohort.slot (((drainable paired).usrc 0x61).toNat % 16); (drainable paired).curCohort.matrix = true ∧ x.granted = true ∧ x.absent = false) ∧
    drainBad ((drainable paired).usrc 0x62).toNat 0 = true ∧ drainBad ((drainable paired).usrc 0x61).toNat 0 = false ∧ (Tab.get [] (drainable paired).cur.drains 0).length < 4 ∧
    (Tab.get [] (drainable fullStream).cur.drains 0).length = 4 ∧
    Ready paired [⟨.useg, 0x65, false⟩, ⟨.seg, 0x69, false⟩] ∧ (paired.curCohort.slot ((paired.usrc 0x65).toNat % 16)).phys < 16 ∧
    Ready operating [⟨.useg, 0x63, false⟩] ∧ (∃ i, i < 16 ∧ natBit (operating.usrc 0x63).toNat i = true ∧ operating.entryBusy operating.curCohort i = true) := by
  and_intros <;> first
    | decide +kernel
    | exact calm_of (by decide +kernel) ⟨by decide +kernel, by decide +kernel, by decide +kernel⟩
    | exact ⟨by decide +kernel, by decide +kernel, by decide +kernel⟩
    | exact ready_of_test (by decide +kernel)
    | exact hasLanes_of (by decide +kernel)
    | exact ⟨1, by decide +kernel⟩
    | exact ⟨0, by decide +kernel⟩

/-- The supervisor beside a cohort whose entry 0 is in use, stands elsewhere, stands here, or has been saved. -/
def inUse : State := governing operating
def elsewhere : State := governing paired
def standing : State := governing (withCore paired 0 fun c => { c with owners := [(0, { ccb := 0x200000, idx := 0, resident := true })] })
def savedAway : State := governing away
def neither : State := governing (withCohort paired fun c => { c with slots := [(0, { granted := true })] })

theorem witness_AccumulatorMoves : (∀ s ∈ [inUse, elsewhere, standing, savedAway, neither], s.cur.priv = true ∧ decide ((candidate s.cur).mask ≠ 0 ∧ s.cur.also = []) = true ∧
      (∀ a ∈ ([1, 2] : List Code), readyTest s [⟨.ssrc, a, false⟩, ⟨.ssrc, 3, false⟩, ⟨.sdst, 20, false⟩] = true) ∧
      (s.ssrc 3).toNat < 16 ∧ Tab.has s.cohorts (s.ssrc 1).toNat = false ∧ Tab.has s.cohorts (s.ssrc 2).toNat = true ∧
      ((s.cohort (s.ssrc 2)).slot 0).granted = true ∧ s.resident (s.ssrc 2) = true ∧ (s.cohort (s.ssrc 2)).core = s.cur.core) ∧
    popsInto [⟨.ssrc, 2, false⟩, ⟨.ssrc, 3, false⟩, ⟨.sdst, 20, false⟩] = false ∧ (20 : Code).toNat < 64 ∧
    (inUse.entryBusy (inUse.cohort 0x200000) 0 || inUse.drainsOn (inUse.cohort 0x200000) 0) = true ∧
    (∀ s ∈ [elsewhere, standing], s.entryBusy (s.cohort 0x200000) 0 = false ∧ s.drainsOn (s.cohort 0x200000) 0 = false) ∧
    elsewhere.heldOn 0 (elsewhere.cohort 0x200000) 0 = false ∧ standing.heldOn 0 (standing.cohort 0x200000) 0 = true ∧
    ((standing.cohort 0x200000).slot 0).resident = true ∧ savedAway.entryBusy (savedAway.cohort 0x200000) 0 = false ∧
    (let s := governing (withCohort operating fun c => { c with slots := [(0, { granted := true, saved := true })] })
     ((s.cohort 0x200000).slot 0).resident = false ∧ ((s.cohort 0x200000).slot 0).saved = true ∧ s.entryBusy (s.cohort 0x200000) 0 = true) ∧ ((savedAway.cohort 0x200000).slot 0).resident = false ∧ ((savedAway.cohort 0x200000).slot 0).saved = true ∧
    ((neither.cohort 0x200000).slot 0).resident = false ∧ ((neither.cohort 0x200000).slot 0).saved = false := by
  and_intros <;> decide +kernel

/-! ### Witnesses: the guard engine (16) -/

/-- A declaration of one extent of 128 bytes; a held log with one extent, verified in chunk 0; scalars for `msd`, `msx` and `hstat`. -/
def declared : Declaration := { handle := 1, pasid := 1, extents := [{ base := 0x400000, len := 128, prio := 0, frames := [0x400000] }] }
def oldExtent : Classified := { handle := 5, pasid := 1, index := 0, len := 128, chunks := 1, verified := [(0, 0)] }
def holding : State := { withScalars warm [(1, 2 ^ 32), (2, 7), (3, 1), (4, 0x400000), (5, 5), (6, 2 ^ 35), (7, 0x400004), (8, 6)] with
  guard := { declarations := [declared], held := true, classes := [oldExtent] } }

theorem witness_DeclarationsAndStatus : HasLanes holding ∧ Unchecked holding ∧ (∀ a ∈ ([1, 2, 3, 4] : List Code), Ready holding [⟨.ssrc, a, false⟩, ⟨.sreg, 20, false⟩]) ∧
    2 ^ 32 ≤ (holding.ssrc 1).toNat ∧ (holding.ssrc 2).toNat < 2 ^ 32 ∧ (∀ x ∈ holding.guard.declarations, ¬ (x.handle = (holding.ssrc 2).toNat ∧ x.pasid = holding.pasidOf holding.cur)) ∧
    (holding.ssrc 3).toNat < 2 ^ 32 ∧ (∃ x ∈ holding.guard.declarations, x.handle = (holding.ssrc 3).toNat ∧ x.pasid = holding.pasidOf holding.cur) ∧
    8 < (9 : BitVec 7).toNat ∧ 1 ≤ (1 : BitVec 7).toNat ∧ (8 : BitVec 7).toNat ≤ 8 ∧
    Reaches holding .read .plain 16 16 0 (holding.ssrc 4 + BitVec.ofNat 64 (16 * 0)) (inLocal 0x400000) ∧
    holding.readPlace holding.cur.core false 16 (inLocal 0x400000) = (holding, .ok 0) ∧ (holding.planMisses holding.cur.core false [inLocal 0x400000]).wait = false ∧ Unwatched holding ∧
    Ready holding [⟨.sreg, 20, false⟩] ∧ (3 : BitVec 7).toNat ≤ 3 ∧ 6 < (7 : BitVec 7).toNat ∧ 4 ≤ (4 : BitVec 7).toNat ∧ (6 : BitVec 7).toNat ≤ 6 ∧
    holding.guard.held = true ∧ warm.guard.held = false := by
  and_intros <;> first
    | decide +kernel
    | exact fun a ha => ready_of_test (by revert a; decide +kernel)
    | exact ⟨by decide +kernel, by decide +kernel, by decide +kernel⟩
    | exact ready_of_test (by decide +kernel)
    | exact hasLanes_of (by decide +kernel)
    | (unfold Unwatched; decide +kernel)
    | (unfold Reaches; decide +kernel)

/-- The supervisor with operands of `garm`: a share of PASID 0 and 1, a reserved operand, an unknown PASID, a read, and a release. -/
def sharing : State :=
  let s := governing warm
  { s with
    strands := s.strands.map fun x => (x.1, if x.1 = 2 ^ 64 then { x.2 with scal := [(1, 0), (2, 1), (3, 2 ^ 22), (4, 5), (5, 2 ^ 20 + 1), (6, 2 ^ 21), (7, 0), (8, 0x30000)] } else x.2)
    contexts := [(0, { pasid := 1, root := 0x10001 })] }

theorem witness_SharesAndExtraction : sharing.cur.priv = true ∧ HasLanes sharing ∧
    (∀ a ∈ ([1, 2, 3, 4, 5, 6] : List Code), ∀ b ∈ ([7, 8] : List Code), Ready sharing (usesPriv false false 20 a b)) ∧
    (∀ a ∈ ([1, 2, 4, 5, 6] : List Code), (sharing.ssrc a).toNat < 2 ^ 22) ∧ (sharing.slotOf 1).isSome = true ∧ sharing.slotOf 5 = none ∧
    (∀ a ∈ ([1, 2, 4] : List Code), (sharing.ssrc a).toNat / 2 ^ 20 % 4 = 0) ∧ (sharing.ssrc 5).toNat / 2 ^ 20 % 4 = 1 ∧ (sharing.ssrc 7).toNat = 0 ∧
    (sharing.ssrc 6).toNat / 2 ^ 20 % 4 = 2 ∧ (sharing.ssrc 6).toNat % 2 ^ 20 = 0 ∧ sharing.guard.held = false ∧
    (let s := { sharing with guard := { held := true } }; s.cur.priv = true ∧ decide ((candidate s.cur).mask ≠ 0 ∧ s.cur.also = []) = true ∧ readyTest s (usesPriv false false 20 6 7) = true ∧ s.guard.held = true) ∧
    (∀ a ∈ ([5, 6, 8] : List Code), ∀ b ∈ ([4, 7] : List Code), Ready holding (usesPriv false false 20 a b)) ∧ 2 ^ 35 ≤ (holding.ssrc 6).toNat ∧ (holding.ssrc 7).toNat % 128 ≠ 0 ∧
    (holding.ssrc 5).toNat < 2 ^ 35 ∧ (holding.ssrc 4).toNat % 128 = 0 ∧ extentNamed holding (holding.ssrc 8) = none ∧ extentNamed holding (holding.ssrc 5) = some oldExtent ∧
    (∀ i, i < oldExtent.len / 128 → Reaches holding .write .plain 128 128 0 (holding.ssrc 4 + BitVec.ofNat 64 (128 * i)) (inLocal (0x400000 + 128 * i)) ∧
      spotOf (inLocal (0x400000 + 128 * i)) ≠ none) ∧ Unwatched holding := by
  and_intros <;> first
    | decide +kernel
    | exact fun a ha b hb => ready_of_test (by revert a b; decide +kernel)
    | exact hasLanes_of (by decide +kernel)
    | (unfold Unwatched; decide +kernel)
    | (unfold Reaches; decide +kernel)

/-- The phases of a power-fail sequence; a chunk to be written. -/
def failing (q : Sequence) : State := { warm with guard := { sequence := q, declarations := [declared], chunks := [{ decl := declared, index := 0, chunk := 0 }] } }
def endedSlice : State := { failing .slice with now := 550000 }

theorem witness_PowerFailSequence : warm.root.stage.isSome = true ∧ warm.root.hold = false ∧ warm.root.tripped = false ∧ warm.guard.sequence = .none ∧
    (failing .drain).guard.sequence = .drain ∧ (∀ k ∈ (failing .drain).cores, k.2.mxOps = [] ∧ ∀ r ∈ k.2.replays, r.2 = []) ∧
    (∀ x ∈ (failing .drain).strands, x.2.floats = [] ∧ ∀ p ∈ x.2.producers, p.hostLanes ≠ 0 ∨ p.peerLanes ≠ 0) ∧
    (failing .drain).farWork = false ∧
    (let s := withCore { failing .drain with now := 330000 } 0 fun c => { c with outstanding := [{ peer := true, key := 0x300000, mask := 1, va := 0x400000, cells := [] }] }
     s.guard.sequence = .drain ∧ s.farWork = true ∧ 300 * cyclesPerMicro ≤ s.now - s.guard.since ∧ (∀ k ∈ s.cores, k.2.mxOps = [] ∧ ∀ r ∈ k.2.replays, r.2 = []) ∧
      ∀ x ∈ s.strands, x.2.floats = [] ∧ ∀ p ∈ x.2.producers, p.hostLanes ≠ 0 ∨ p.peerLanes ≠ 0) ∧
    (failing .ended).guard.sequence = .ended ∧ (failing .writes).guard.sequence ≠ .ended ∧
    endedSlice.guard.sequence = .slice ∧ 550000 ≤ endedSlice.now - endedSlice.guard.sliceAt ∧ (∃ d ∈ endedSlice.guard.declarations, d.handle = 1) ∧ 1 ∉ endedSlice.guard.skipped ∧
    (let s := { failing .writes with guard := { (failing .writes).guard with chunks := [] } }; s.guard.sequence = .writes ∧ s.guard.chunks = []) ∧
    (∃ c l x, (failing .writes).guard.chunks = c :: l ∧ c.decl.extents[c.index]? = some x) ∧ (failing .writes).guard.sequence = .writes ∧
    (failing .seal).guard.sequence = .seal ∧ (failing .seal).guard.sequence ≠ .none ∧
    (let s := { warm with guard := { erasing := true } }; s.guard.erasing = true ∧ s.guard.held = false ∧ s.guard.sequence = .none) := by
  and_intros <;> first
    | decide +kernel
    | exact ⟨_, _, _, rfl, rfl⟩

/-! ### Witnesses: the check and trace engines, the dispatch registers (14, 17, 18) -/

/-- The supervisor with scalars given, beside the user strand. -/
def asked (s : State) (l : List (Nat × Nat)) : State :=
  let s := governing s
  { s with strands := s.strands.map fun x => (x.1, if x.1 = 2 ^ 64 then { x.2 with scal := l.map fun y => (y.1, BitVec.ofNat 64 y.2) } else x.2) }
/-- Lane 3 of bench 1 has failed, lanes 3 and 4 of bench 2 (degraded); a replay waits in bench 3. -/
def mapped : State := asked (withCore warm 0 fun c => { c with
  lmap := [(1, startMap [3]), (2, startMap [3, 4])], lfail := [(1, lfailWord [3]), (2, lfailWord [3, 4])],
  replays := [(3, [{ key := 0x300000, pc := 0x100000, cycles := 2 }])] }) [(1, 1), (2, 2), (3, 3), (4, 4), (5, 5), (16, 16), (17, 127), (18, 128), (19, 7), (20, 0)]

theorem witness_CheckInstructions : mapped.cur.priv = true ∧ HasLanes mapped ∧ (∀ a ∈ ([1, 2, 3, 4, 20] : List Code), ∀ b ∈ ([3, 17, 18, 19] : List Code), Ready mapped (usesPriv false false 30 a b)) ∧
    mapped.benchBusy mapped.cur.core ((mapped.ssrc 3).toNat % 4) = true ∧ (∀ a ∈ ([1, 2, 20] : List Code), mapped.benchBusy mapped.cur.core ((mapped.ssrc a).toNat % 4) = false) ∧
    4 ≤ (mapped.ssrc 4).toNat ∧ 128 ≤ (mapped.ssrc 18).toNat ∧ (mapped.lmapOf 0 2).getLsbD 63 = true ∧ (mapped.lmapOf 0 1).getLsbD 63 = false ∧ (mapped.lmapOf 0 1).getLsbD 62 = false ∧
    (let old := mapped.lmapOf 0 1
     let dis := (mapped.ssrc 19).toNat % 128
     let serves (p : Nat) := if dis = 127 then p < 64 else p ≠ dis
     let failed (p : Nat) := p < 65 ∧ laneFailed old (mapped.lfailOf 0 1) p = true
     dis = 7 ∧ ∃ p, failed p ∧ p ≠ dis ∧ serves p) ∧
    (let old := mapped.lmapOf 0 1
     let dis := (mapped.ssrc 3).toNat % 128
     let serves (p : Nat) := if dis = 127 then p < 64 else p ≠ dis
     let failed (p : Nat) := p < 65 ∧ laneFailed old (mapped.lfailOf 0 1) p = true
     dis = 3 ∧ ∀ p < 65, failed p → p = dis ∨ ¬ serves p) ∧
    (∀ a ∈ ([1, 3, 5, 16] : List Code), Ready mapped (usesChkm 30 a)) ∧ 16 ≤ (mapped.ssrc 16).toNat ∧ (mapped.ssrc 5).toNat < 16 ∧ 4 ≤ (mapped.ssrc 5).toNat ∧ (mapped.ssrc 3).toNat = 3 ∧
    (mapped.ssrc 1).toNat < 3 ∧ (∀ f ∈ mapped.link.functions, f.2.bound = false) ∧
    (let s := { mapped with link := { mapped.link with functions := [(0, { tdi := .locked })] } }; s.cur.priv = true ∧ decide ((candidate s.cur).mask ≠ 0 ∧ s.cur.also = []) = true ∧
      readyTest s (usesChkm 30 1) = true ∧ ∃ f ∈ s.link.functions, f.2.bound = true) := by
  and_intros <;> first
    | decide +kernel
    | exact fun a ha b hb => ready_of_test (by revert a b; decide +kernel)
    | exact fun a ha => ready_of_test (by revert a; decide +kernel)
    | exact ⟨by decide +kernel, 3, by decide +kernel⟩
    | exact hasLanes_of (by decide +kernel)
    | exact ⟨3, by decide +kernel⟩

/-- Bench 0 has a failed lane that its map does not show; column 9 has two mismatches; no cohort lives. -/
def mismatched : State := withCore { warm with root := { warm.root with lanes := [(0, [5])] }, cohorts := [] } 0 fun c => { c with columnMiss := [9, 9] }

theorem witness_CheckSteps : (warm.strand 0x300000).hot = true ∧ 64 ∉ Tab.get [] warm.root.lanes (4 * (warm.strand 0x300000).core + (warm.strand 0x300000).bench) ∧
    (warm.core (warm.strand 0x300000).core).queueRoom = true ∧ (∀ ev ∈ (warm.core (warm.strand 0x300000).core).evq, ev.cause ≠ .laneFailure) ∧
    (Tab.get [] mismatched.root.lanes (4 * 0 + 0)).find? (fun p => !laneFailed (mismatched.lmapOf 0 0) (mismatched.lfailOf 0 0) p) = some 5 ∧
    ((List.range 65).filter fun q => laneFailed (mismatched.lmapOf 0 0) (mismatched.lfailOf 0 0) q).length ≤ 32 ∧ (∀ c ∈ mismatched.cohorts, c.2.dead = true) ∧
    (mismatched.lmapOf 0 0).getLsbD 63 = false ∧ (mismatched.lmapOf 0 0).toNat % 128 = 127 ∧
    (let s := withCore { mismatched with root := { warm.root with lanes := [(0, [3, 5])] } } 0 fun c => { c with lmap := [(0, startMap [3])], lfail := [(0, lfailWord [3])] }
     (Tab.get [] s.root.lanes (4 * 0 + 0)).find? (fun p => !laneFailed (s.lmapOf 0 0) (s.lfailOf 0 0) p) = some 5 ∧ (s.lmapOf 0 0).toNat % 128 < 65 ∧
      laneFailed (s.lmapOf 0 0) (s.lfailOf 0 0) ((s.lmapOf 0 0).toNat % 128) = true ∧ ∀ c ∈ s.cohorts, c.2.dead = true) ∧
    2 ≤ (mismatched.core 0).columnMiss.count 9 ∧ 9 ∉ (mismatched.core 0).columnsFailed ∧ (cmapWord ((mismatched.core 0).columnsFailed ++ [9])).getLsbD 62 = false ∧
    (mismatched.core 0).queueRoom = true ∧ (∀ ev ∈ (mismatched.core 0).evq, ev.cause ≠ .laneFailure) ∧ (∃ r l, Tab.get [] (mapped.core 0).replays 3 = r :: l) := by
  and_intros <;> first
    | decide +kernel
    | exact ⟨_, _, rfl⟩

/-- Comparator words: accepted and reserved ones of both kinds. -/
def tracing : State := asked warm [(1, 2 ^ 63 + 0x1000), (2, 0), (3, 2 ^ 63 + 1), (4, 0x1000), (5, 3), (6, 0)]

theorem witness_TraceRegisters : tracing.cur.priv = true ∧ HasLanes tracing ∧ 10 < (11 : BitVec 7).toNat % 64 ∧ 64 ≤ (64 : BitVec 7).toNat ∧ (74 : BitVec 7).toNat % 64 ≤ 10 ∧
    Ready tracing [⟨.sreg, 30, false⟩] ∧ Ready tracing (usesB false 30 1) ∧ (10 : BitVec 7).toNat ≤ 10 ∧
    (∀ a ∈ ([1, 3, 4] : List Code), ∀ b ∈ ([2, 5] : List Code), Ready tracing (usesPriv false false 30 a b)) ∧
    bpReserved (tracing.ssrc 3).toNat (tracing.ssrc 2).toNat = true ∧ bpReserved (tracing.ssrc 1).toNat (tracing.ssrc 2).toNat = false ∧
    wpReserved (tracing.ssrc 4).toNat (tracing.ssrc 2).toNat = true ∧ wpReserved (tracing.ssrc 4).toNat (tracing.ssrc 5).toNat = false ∧
    (1 ≤ (7 : BitVec 5).toNat ∧ (7 : BitVec 5).toNat ≤ 7) ∧ 25 ≤ (25 : BitVec 5).toNat ∧ (8 ≤ (8 : BitVec 5).toNat ∧ (24 : BitVec 5).toNat ≤ 24) := by
  and_intros <;> first
    | decide +kernel
    | exact fun a ha b hb => ready_of_test (by revert a b; decide +kernel)
    | exact ready_of_test (by decide +kernel)
    | exact hasLanes_of (by decide +kernel)

/-- The cohort as it may stand when `halt` and `resm` name it. -/
def debugged (f : Cohort → Cohort) : State := asked (withCohort warm f) [(1, 0x700000), (2, 0x200000)]
/-- The sampler of bench 0 is due, with a full ring or not; a tagged instruction has completed. -/
def sampling (full : Bool) : State := withCore { warm with now := 0x1000 } 0 fun c => { c with period := 8, trace := { samples := if full then 16 else 0 } }
def sampled : State := withCore warm 0 fun c => { c with tags := [(0, { key := 0x300000, lane := 0, pc := 0xFFFFC, mask := 1, word := 0, start := 0, stat := 0 })] }

/-- `Grouped`, as a test. -/
def grouped (s : State) (key : DWord) : Bool :=
  let g := s.groupOf (s.cohort key)
  g.contains key && g.all (fun x => decide ((s.cohort x).ccb = x)) && decide g.Nodup

theorem grouped_of (s : State) (key : DWord) (h : grouped s key = true) : Grouped s key := by
  simp only [grouped, Bool.and_eq_true, decide_eq_true_eq, List.contains_iff_mem] at h
  exact ⟨h.1.1, h.1.2, h.2⟩

theorem witness_HaltingAndSampling : (∀ s ∈ [debugged fun c => c, debugged fun c => { c with halted := true }, debugged fun c => { c with residency := .absent }], s.cur.priv = true ∧
      decide ((candidate s.cur).mask ≠ 0 ∧ s.cur.also = []) = true ∧ (∀ a ∈ ([1, 2] : List Code), readyTest s [⟨.ssrc, a, false⟩, ⟨.sreg, 30, false⟩] = true) ∧ s.liveCohort (s.ssrc 1) = false ∧
      s.liveCohort (s.ssrc 2) = true ∧ grouped s (s.ssrc 2) = true ∧ s.cur.sup = true ∧ s.asksOut (s.cohort (s.ssrc 2)) = false) ∧
    (let s := debugged fun c => { c with halted := true }; (s.cohort (s.ssrc 2)).halted = true) ∧
    (let s := debugged fun c => { c with residency := .absent }; (s.cohort (s.ssrc 2)).halted = false ∧ s.resident (s.ssrc 2) = false) ∧
    (let s := debugged fun c => c; (s.cohort (s.ssrc 2)).halted = false ∧ s.resident (s.ssrc 2) = true ∧ (s.cohort (s.ssrc 2)).leaving = none) ∧
    (let s := withCohort warm fun c => { c with stopping := true, residency := .absent }
     grouped s 0x200000 = true ∧ s.acting = true ∧ (s.cohort 0x200000).stopping = true ∧ (s.cohort 0x200000).dead = false ∧ s.resident 0x200000 = false) ∧
    (let s := withCohort locked fun c => { c with stopping := true, leaving := some .out }
     grouped s 0x200000 = true ∧ s.acting = true ∧ (s.cohort 0x200000).stopping = true ∧ (s.cohort 0x200000).dead = false ∧ s.resident 0x200000 = true ∧
      (s.sendAway 0x200000 .out).groupQuiet 0x200000 = true ∧
      (s.groupOf (s.cohort 0x200000)).all (fun x => decide ((s.sendAway 0x200000 .out).moveFault x false = none)) = true) ∧
    (∀ b ∈ [true, false], let k := (sampling b).core 0
      k.period ≠ 0 ∧ Tab.get 0 k.tagWait 0 / 2 ≤ (sampling b).cycles.toNat ∧ k.trace.samplesFull = b) ∧
    (let k := sampled.core 0; k.trace.samplesFull = false ∧ k.queueRoom = true ∧ ∀ ev ∈ k.evq, ev.cause ≠ .sampleBuffer) ∧
    (∃ x, (sampled.core 0).tags.find? (fun x => x.1 == 0) = some (0, x) ∧ sampled.sampleDone x = true) := by
  and_intros <;> first
    | decide +kernel
    | exact ⟨_, rfl, by decide +kernel⟩

/-- Operands of `carve` and `kill`: a core that does not exist, a good one, CCBs; core 5 has a change that waits. -/
def carving : State := withCore (asked warm [(1, 192), (2, 0x101), (3, 0x105), (4, 0x700000), (5, 0x200000)]) 5 fun c => { c with carveNext := some (2, false) }

theorem witness_DispatchRegisters : carving.cur.priv = true ∧ HasLanes carving ∧ ¬ ((10 : BitVec 7).toNat % 64 ≤ 9 ∨ 16 ≤ (10 : BitVec 7).toNat % 64) ∧ 64 ≤ (73 : BitVec 7).toNat ∧ (73 : BitVec 7).toNat ≤ 73 ∧
    (9 : BitVec 7).toNat ≤ 9 ∧ Ready carving [⟨.sreg, 30, false⟩] ∧ (∀ b ∈ ([1, 2, 3, 4, 5] : List Code), Ready carving (usesB false 30 b)) ∧ 192 ≤ (carving.ssrc 1).toNat % 2 ^ 8 ∧
    (∀ b ∈ ([2, 3] : List Code), (carving.ssrc b).toNat % 2 ^ 8 < 192 ∧ (carving.ssrc b).toNat / 2 ^ 8 % 2 ^ 3 ≤ 5 ∧ (carving.ssrc b).toNat < 2 ^ 12) ∧
    (carving.core ((carving.ssrc 3).toNat % 2 ^ 8)).carveNext.isSome = true ∧ (carving.core ((carving.ssrc 2).toNat % 2 ^ 8)).carveNext = none ∧
    carving.liveCohort (carving.ssrc 4) = false ∧ carving.liveCohort (carving.ssrc 5) = true ∧ (carving.cohort (carving.ssrc 5)).ccb = carving.ssrc 5 ∧ carving.cur.sup = true ∧
    carving.curKey ∉ (carving.cohort (carving.ssrc 5)).keys ∧ (carving.core 5).carveNext = some (2, false) ∧ carving.acting = true ∧ carving.cohortsHeld 5 = [] := by
  and_intros <;> first
    | decide +kernel
    | exact fun b hb => ready_of_test (by revert b; decide +kernel)
    | exact ready_of_test (by decide +kernel)
    | exact hasLanes_of (by decide +kernel)
    | exact ⟨by decide +kernel, by decide +kernel⟩

/-- Context entry 1 is good; queue descriptors 0 to 2 are good, disabled and wrong; a store of the cohort's context waits. -/
def contextual : State :=
  let s := asked queues [(1, 2 ^ 12), (2, 1), (3, 0), (4, 2), (5, 256)]
  let words := [(0x700040, 2), (0x700048, 0x10001), (0x700050, 0x2000000), (0x700058, 0x1000000), (0x700060, 0x4000000), (0x700068, 2 ^ 32 + 0x40000), (0x700070, 7),
    (0x800000, 0x900000), (0x800008, 0x304), (0x800040, 0x900000), (0x800048, 4), (0x800080, 0x900001), (0x800088, 0x304)]
  { s with local_ := words.foldl (fun m x => Memory.writeN m x.1 8 x.2) s.local_, disp := { s.disp with regs := { s.disp.regs with ctb := 0x700000 } } }
def storing : State := withCore contextual 0 fun c => { c with outstanding := [{ peer := false, key := 0x300000, pasid := 1, mask := 1, va := 0x400000, cells := [] }] }
/-- The context's use of its slot has ended already. -/
def endingSlot : State := { contextual with contexts := contextual.contexts.map fun x => (x.1, { x.2 with ending := true }) }

theorem witness_ContextsAndQueues : contextual.cur.priv = true ∧ contextual.cur.sup = true ∧ HasLanes contextual ∧ (∀ b ∈ ([1, 2, 3, 4, 5] : List Code), Ready contextual (usesB false 30 b)) ∧
    2 ^ 12 ≤ (contextual.ssrc 1).toNat ∧ (contextual.ssrc 2).toNat < 2 ^ 12 ∧ (contextual.readContext (contextual.ssrc 2).toNat).isSome = true ∧
    Tab.has contextual.contexts (contextual.ssrc 2).toNat = false ∧ Tab.has contextual.contexts (contextual.ssrc 3).toNat = true ∧
    (contextual.removalWaits { kind := 2, va := 0, pasid := (Tab.get {} contextual.contexts 0).pasid, count := 0 } = false ∧ contextual.cohortsOf 0 = [0x200000] ∧
      contextual.curKey ∉ (contextual.cohort 0x200000).keys) ∧
    (storing.cur.priv = true ∧ storing.cur.sup = true ∧ decide ((candidate storing.cur).mask ≠ 0 ∧ storing.cur.also = []) = true ∧ readyTest storing (usesB false 30 3) = true ∧
      storing.removalWaits { kind := 2, va := 0, pasid := (Tab.get {} storing.contexts 0).pasid, count := 0 } = true) ∧
    (Tab.get {} storing.contexts 0).ending = false ∧ (Tab.get {} contextual.contexts 0).ending = false ∧
    (endingSlot.cur.priv = true ∧ endingSlot.cur.sup = true ∧ decide ((candidate endingSlot.cur).mask ≠ 0 ∧ endingSlot.cur.also = []) = true ∧ readyTest endingSlot (usesB false 30 3) = true ∧
      (Tab.get {} endingSlot.contexts 0).ending = true ∧ endingSlot.removalWaits { kind := 2, va := 0, pasid := (Tab.get {} endingSlot.contexts 0).pasid, count := 0 } = false ∧
      endingSlot.cohortsOf 0 = [0x200000] ∧ endingSlot.curKey ∉ (endingSlot.cohort 0x200000).keys) ∧
    256 ≤ (contextual.ssrc 5).toNat ∧
    (∀ q ∈ [0, 2], natBit (contextual.queueWord q 8) 8 = true) ∧ natBit (contextual.queueWord 1 8) 8 = false ∧
    (let wrong (v : Nat) := contextual.queueWord v 0 % 2 ^ 12 ≠ 0 ∨ 2 ^ 52 ≤ contextual.queueWord v 0 ∨ contextual.queueWord v 8 / 2 ^ 5 % 8 ≠ 0 ∨ 2 ^ 10 ≤ contextual.queueWord v 8 ∨
      contextual.queueWord v 8 % 32 < 4 ∨ 16 < contextual.queueWord v 8 % 32 ∨ 2 ^ 42 ≤ contextual.queueWord v 0
     ¬ wrong 0 ∧ wrong 2) := by
  and_intros <;> first
    | decide +kernel
    | exact fun b hb => ready_of_test (by revert b; decide +kernel)
    | exact hasLanes_of (by decide +kernel)

/-! ### Witnesses: the link engine (15) -/

/-- Ports P and C are up, a session is open; a route of peer 9; function 0 has MSI-X, function 1 is in ERROR over a local range, function 2
may be locked, 3 is locked, 4 runs with bus mastering; source 5 has an open claim whose timer has come. -/
def linked : State := { warm with
  now := 100
  local_ := Memory.writeN warm.local_ 0x702000 8 (2 ^ 63 + 9 * 2 ^ 12)
  link := { up := [0, 1, 5], prt := 0x702000, pwbase := 0x400000, pwlimit := 0x500000, mbb := 0x600000, session := true,
            claims := [(5, { open_ := true, timer := some 50 })],
            functions := [(0, { msixEnable := true, pending := [3], vfEnable := true, numVfs := 15 }), (1, { tdi := .error, memory := (0x800000, 0x1000) }),
              (2, { bar := 0x40000000, memorySpace := true, ide := true, slots := (4, 1), queues := (4, 1), memory := (0x10000000, 0x1000) }),
              (3, { tdi := .locked, slots := (8, 1) }), (4, { tdi := .run, busMaster := true })] } }

/-- Operands of `intfw`: reserved ones, each operation on a closed and an open claim, sources of firmware and others, messages. -/
def notifying : State := asked linked [(1, 2 ^ 18), (2, 6), (3, 5), (4, 2 ^ 16 + 6), (5, 2 ^ 16 + 5), (6, 2 ^ 17 + 0x2FF), (7, 2 ^ 17 + 0x300), (8, 3 * 2 ^ 16), (9, 0), (10, 2047), (11, 2048)]
def unreleased : State := { notifying with cores := [(0, { relaxed := [{ pasid := 1, va := 0x500000 }] })] }

theorem witness_Interrupts : notifying.cur.priv = true ∧ HasLanes notifying ∧
    (∀ a ∈ ([1, 2, 3, 4, 5, 6, 7, 8] : List Code), ∀ b ∈ ([9, 10, 11] : List Code), Ready notifying (usesPriv false false 30 a b)) ∧
    2 ^ 18 ≤ (notifying.ssrc 1).toNat ∧ (∀ a ∈ ([2, 3, 4, 5, 6, 7, 8] : List Code), (notifying.ssrc a).toNat / 2 ^ 10 % 2 ^ 6 = 0 ∧ (notifying.ssrc a).toNat < 2 ^ 18) ∧
    (notifying.ssrc 9).toNat = 0 ∧ (notifying.ssrc 11).toNat < 2 ^ 16 ∧ notifying.releaseWaits notifying.cur 4 = false ∧ unreleased.releaseWaits unreleased.cur 4 = true ∧
    (notifying.claim 6).open_ = false ∧ (notifying.claim 5).open_ = true ∧ (notifying.ssrc 6).toNat % 2 ^ 10 < 0x300 ∧ 0x300 ≤ (notifying.ssrc 7).toNat % 2 ^ 10 ∧
    (notifying.ssrc 8).toNat / 2 ^ 16 = 3 ∧ (notifying.ssrc 8).toNat % 2 ^ 10 = 0 ∧ (notifying.ssrc 10).toNat % 2 ^ 12 < 2048 ∧ 2048 ≤ (notifying.ssrc 11).toNat % 2 ^ 12 ∧
    ((linked.claim 5).open_ = true ∧ (linked.claim 5).timer = some 50 ∧ 50 ≤ linked.now) ∧
    (3 ∈ (linked.function 0).pending ∧ (linked.function 0).masked 3 = false ∧ (linked.function 0).msixEnable = true ∧ (linked.function 0).tdi ≠ .error) ∧
    linked.functionThere 0 = true ∧ linked.answersHost = true ∧ 0 ∈ linked.link.up ∧ linked.online = true ∧ (linked.core 191).queueRoom = true ∧ (∀ ev ∈ (linked.core 191).evq, ev.cause ≠ .hostInterrupt) := by
  and_intros <;> first
    | decide +kernel
    | exact fun a ha b hb => ready_of_test (by revert a b; decide +kernel)
    | exact hasLanes_of (by decide +kernel)

/-- A word of local memory with an uncorrectable error; a translation that the host has given. -/
def spoiledLink : State := { linked with ueLocal := [0x480000 / 8] }

/-- Two UC writes on their way to the host. -/
def uncached : State :=
  let o : Outstanding := { peer := false, key := 0x300000, mask := 1, va := 0x500000, uc := true, cells := [] }
  { linked with cores := [(0, { outstanding := [o, o] })] }

theorem witness_HostAndPeerAccesses : 2 ^ 42 < 2 ^ 42 + 1 ∧ (0x400000 : Nat) + 8 ≤ 2 ^ 42 ∧ 1 ∈ linked.link.up ∧ linked.accepting = true ∧ linked.poisonedAt 0x800FF8 8 = true ∧
    linked.poisonedAt 0x801000 8 = false ∧ linked.errorAt .dev 0x801000 8 = false ∧ spoiledLink.errorAt .dev 0x480000 8 = true ∧ linked.online = true ∧ linked.knownPeer 9 = true ∧
    (0x3FFFF8 : Nat) / 128 * 128 < linked.link.pwbase ∧ ¬ ((0x400000 : Nat) / 128 * 128 < linked.link.pwbase ∨ linked.link.pwlimit < (0x400000 + 8 - 1) / 128 * 128) ∧
    (∀ p ∈ peerAtomics, p.2.1 = 4 ∨ p.2.1 = 8) ∧ linked.functionThere 16 = false ∧ linked.functionThere 0 = true ∧ (linked.function 0).tdi ≠ .error ∧ linked.link.up.contains 0 = true ∧
    (let s := { linked with cores := [(0, { flushing := [{ key := 0x300000, pc := 0x100000, before := 2 }], relaxed := [{ pasid := 1, va := 0x500000 }, { pasid := 1, va := 0x500080 }] })] }
     (∃ f l, (s.core 0).flushing = f :: l ∧ Tab.has s.strands f.key = true) ∧ 1 < (s.core 0).relaxed.length) ∧ (∀ k ∈ linked.cores, k.2.outstanding = [] ∧ k.2.relaxed = []) ∧
    linked.answersHost = true ∧
    (∃ o x, (uncached.core 0).outstanding = [x, o] ∧ (o.peer = false ∧ o.uc = true) ∧ x.peer = false ∧ x.uc = true) ∧
    (∀ x ∈ linked.strands, ∀ p ∈ x.2.producers, p.hostLanes = 0) := by
  and_intros <;> first
    | decide +kernel
    | exact ⟨_, _, rfl, by decide +kernel⟩
    | exact ⟨_, _, rfl, by decide +kernel, by decide +kernel, by decide +kernel⟩

theorem witness_PortsAndSessions : (13 : Nat) < 14 ∧ linked.root.stage.isSome = true ∧ (11 : Nat) < 12 ∧ 2 + 3 ∈ linked.link.up ∧ 2 ∈ trainsTo 13 ∧ Tab.get 0 linked.link.width (2 + 3) ≠ 2 ∧ (linked.function 3).bound = true ∧
    (let s := { linked with root := { linked.root with log := [7] } }; s.root.stage.isSome = true ∧ s.root.log[1 - 1]? = some 7 ∧ s.root.log.length < 2 ∧ s.root.identityIndex < 2 ^ 20) ∧
    linked.link.session = true ∧ linked.root.recovery = false ∧ (linked.link.functions.filter fun f => f.2.ide && f.1 != 2).length < 8 := by
  decide

theorem witness_Interfaces : (let s := linked
     let f := s.function 2
     s.link.session = true ∧ s.functionThere 2 = true ∧ f.tdi = .unlocked ∧ f.bar ≠ 0 ∧ f.memorySpace = true ∧ (s.function (s.streamOwner 2)).ide = true ∧ 0 < f.slots.2 ∧ 0 < f.queues.2 ∧ 0 < f.memory.2 ∧
      ∀ n, n < 16 → n ≠ 2 → (s.function n).bound = true → rangesMeet f.slots (s.function n).slots = false ∧ rangesMeet f.queues (s.function n).queues = false ∧
        rangesMeet f.memory (s.function n).memory = false) ∧
    (linked.function 0).bar = 0 ∧ (linked.function 3).tdi = .locked ∧ (linked.function 2).tdi ≠ .locked ∧ (linked.function 4).bound = true ∧ (linked.function 2).bound = false ∧
    (linked.function 4).tdi ≠ .unlocked ∧ linked.root.stage.isSome = true ∧ linked.root.recovery = false ∧ (linked.function 4).config 4 = 1 ∧ (0 : Nat) % 2 = 0 := by
  and_intros <;> decide +kernel

/-! ### Witnesses: the root controller (01, 19) -/

/-- After a stage, or held, in a session of the operator root; with a lease state. -/
def staged (n : Option Nat) (l : Lease) : State := { State.reset with root := { State.reset.root with stage := n, lease := l, session := some State.reset.root.operatorRoot } }
def leaseIs (l : Lease) : State := { warm with root := { warm.root with lease := l, session := some warm.root.operatorRoot } }
def stopped : State := { warm with root := { warm.root with hold := true, tripped := true } }
def revokingLate : State := { leaseIs .revoking with now := 11000000 }

theorem witness_StartAndPower : State.reset.root.stage = none ∧ mayStart State.reset.root State.reset.root.slotA ∧
    (let s := { State.reset with root := { State.reset.root with slotA := {} } }; s.root.stage = none ∧ ¬ mayStart s.root s.root.slotA ∧ ¬ mayStart s.root s.root.slotB) ∧
    (staged (some 0) .vacant).root.hold = false ∧ (staged (some 0) .vacant).guard.sequence = .none ∧ (staged (some 0) .vacant).root.stage = some 0 ∧ (staged (some 0) .vacant).root.recovery = false ∧
    (let s := { State.reset with root := { State.reset.root with stage := some 0, recovery := true } }; s.root.stage = some 0 ∧ s.root.recovery = true ∧ s.root.hold = false ∧ s.guard.sequence = .none) ∧
    (staged (some 1) .vacant).root.stage = some 1 ∧ (staged (some 1) .vacant).root.revokeLater = false ∧ linked.root.recovery = false ∧ linked.link.up.contains 0 = true ∧
    warm.acting = true ∧ warm.contexts ≠ [] ∧ (let s := { warm with contexts := [] }; s.acting = true ∧ s.contexts = [] ∧ ¬ (s.root.customer.isSome = true ∧ s.root.lease = .leased)) ∧
    (let s := { warm with contexts := [], root := { warm.root with customer := some {} } }; s.acting = true ∧ s.contexts = [] ∧ s.root.customer.isSome = true ∧ s.root.lease = .leased) ∧
    (failing .drain).root.stage.isSome = true ∧ (failing .drain).guard.sequence ≠ .none ∧ (failing .drain).guard.sequence ≠ .ended ∧ warm.guard.sequence = .none ∧
    warm.running = true ∧ warm.root.threshold ≤ 100 ∧ 99 < warm.root.threshold ∧ min warm.root.powerLimit 5400 < 5401 ∧ 5400 ≤ min warm.root.powerLimit 5400 ∧ warm.root.stage.isSome = true ∧
    stopped.root.hold = true ∧ stopped.guard.sequence = .none ∧ stopped.root.tripped = true := by
  and_intros <;> first
    | decide +kernel
    | (unfold mayStart; decide +kernel)

theorem witness_LeaseAndService : (warm.root.stage = some 2 ∧ warm.root.session ≠ some warm.root.operatorRoot) ∧ ((staged (some 1) .vacant).root.stage = some 1 ∧ (staged (some 1) .vacant).root.session = some (staged (some 1) .vacant).root.operatorRoot ∧ (staged (some 1) .vacant).root.record = none) ∧
    (let s := { staged (some 1) .vacant with root := { (staged (some 1) .vacant).root with recordIndex := 2 ^ 40 } }; s.root.record = none ∧ 2 ^ 40 ≤ s.root.recordIndex ∧ s.root.stage = some 1 ∧ s.root.session = some s.root.operatorRoot) ∧
    (let r : ScrubRecord := { status := 0, seq := 1, nonce := 0, measured := 0, written := 0, checked := 0, failed := [], covered := 63, retired := 0, index := 0 }
     let s := { staged (some 2) .ready with root := { (staged (some 2) .ready).root with record := some r } }; s.root.record = some r ∧ s.root.stage = some 2 ∧ s.root.session = some s.root.operatorRoot) ∧
    (∀ l ∈ [Lease.vacant, .ready, .leased, .revoking, .scrubbing], (leaseIs l).root.stage = some 2 ∧ (leaseIs l).root.session = some (leaseIs l).root.operatorRoot ∧ (leaseIs l).running = true ∧ (leaseIs l).acting = true ∧ (leaseIs l).root.lease = l ∧ (leaseIs l).guard.sequence = .none ∧
      ∀ q ∈ (leaseIs l).disp.queues, natBit ((leaseIs l).queueWord q.1 0x20) 9 = false) ∧
    (let s := { leaseIs .leased with guard := { sequence := .slice } }; s.running = true ∧ s.root.lease = .leased ∧ s.guard.sequence ≠ .none ∧ s.acting = false ∧
      s.root.stage = some 2 ∧ s.root.session = some s.root.operatorRoot) ∧
    (revokingLate.running = true ∧ revokingLate.root.lease = .revoking ∧ revokingLate.guard.sequence = .none ∧ 11000000 ≤ revokingLate.now - revokingLate.root.revokedAt) ∧
    (let t := leaseIs .scrubbing; natBit 63 5 = true ∧ (63 : Nat) % 64 = 63 ∧ t.root.recordIndex < 2 ^ 40 ∧ t.root.retired.length ≤ 4096) ∧
    (0x100 : Nat) ≤ 0x1F8 ∧ 0x1F8 < 0x200 ∧ 0x1F8 % 8 = 0 ∧ 16 ≤ 128 / 8 ∧ (linked.function (35 / 8)).tdi ≠ .unlocked ∧ (linked.function (21 / 8)).tdi = .unlocked := by
  and_intros <;> decide +kernel

/-! ### Witnesses: the whole machine (00, 02, 03, 04) -/

/-- Whether an outcome is a next state. -/
def isNext (o : Host.Outcome State Fault Refusal) : Bool := match o with | .next _ => true | .fault _ | .refused _ => false
theorem next_of {o : Host.Outcome State Fault Refusal} (h : isNext o = true) : ∃ t, o = .next t := by
  cases o <;> simp_all [isNext]

theorem witness_LimitsKept : Limits user ∧ ∃ t, step user = .next t := by
  and_intros <;> first
    | decide +kernel
    | exact ⟨by decide +kernel, by decide +kernel, by decide +kernel, ⟨by decide +kernel, by decide +kernel⟩, ⟨by decide +kernel, by decide +kernel⟩, ⟨by decide +kernel, by decide +kernel⟩⟩
    | exact ⟨⟨by decide +kernel, by decide +kernel⟩, ⟨by decide +kernel, by decide +kernel⟩, ⟨by decide +kernel, by decide +kernel⟩⟩
    | exact ⟨by decide +kernel, by decide +kernel⟩
    | exact next_of (by decide +kernel)

theorem witness_DecodeOfEncode : (Instr.vadd true false 5 6 0x71).wellFormed = true ∧ encode (.vadd true false 5 6 0x71) = some (wordV 0 0 1 0 5 6 0x71) ∧
    decode (wordV 0 0 1 0 5 6 0x71) = .ok (.vadd true false 5 6 0x71) :=
  ⟨by decide +kernel, by decide +kernel, by decide +kernel⟩

theorem reserved_word (i : Instr) : decode 0xFFFFFFFF ≠ .ok i := by
  have h : (match decode 0xFFFFFFFF with | .ok _ => false | .error _ => true) = true := by decide +kernel
  intro e
  rw [e] at h
  exact absurd h (by simp)

/-- The strand is chosen by its bench, and the fetch has been made. -/
def chosenState : State := (cycleOf user 0 0 []).select 0x300000
def fetchedState : State := (chosenState.fetchWord chosenState.cur 0x100000).1
/-- The fetch gives a word. -/
def gives (r : State × FetchEnd) (w : Word) : Bool := match r.2 with | .word v => v == w | _ => false
theorem fetch_of {r : State × FetchEnd} {w : Word} (h : gives r w = true) : r = (r.1, .word w) := by
  obtain ⟨a, b⟩ := r
  cases b <;> simp_all [gives]

theorem witness_StepRunsDecoded : Runs user 0 0 [] 0x300000 [] fetchedState (candidate chosenState.cur) 0 ∧ decode 0 = .ok (.vadd false false 0 0 0) ∧
    isNext (exec (.vadd false false 0 0 0) { fetchedState with reached := 0 }) = true ∧ (match exec (.vadd false false 0 0 0) { fetchedState with reached := 0 } with | .next t => t.cur.stall | .fault _ | .refused _ => 1) = 0 ∧
    (∀ i, decode 0xFFFFFFFF ≠ .ok i) ∧
    (let s : State := { user with agenda := [.event (.strandAged 0x300000)] }; ({ s with agenda := [] } : State).admits (.strandAged 0x300000) = true) :=
  ⟨by constructor <;> first | decide +kernel | exact fetch_of (by decide +kernel), by decide +kernel, by decide +kernel, by decide +kernel, reserved_word, by decide +kernel⟩

theorem witness_PrivilegedOpcodes : encode (.garmShare false false 9 1 2) = some (wordV 1 0x75 0 0 9 1 2) ∧ privilegedWord (wordV 1 0x75 0 0 9 1 2) = true ∧ user.cur.priv = false ∧
    (usesPriv false false 9 1 2).all (fun u => u.accepted) = true ∧ (usesPriv false false 0x7F 1 2).all (fun u => u.accepted) = false := by
  decide

/-- Register v3, v7 and s1 are empty; line 5 is not resident. -/
def emptied : State := withCur user fun st => { st with vFull := ~~~ (1 <<< 3 ||| 1 <<< 7), sFull := ~~~ 2, absent := 1 <<< 5 }

theorem witness_OperandChecks : emptied.cur.chk ≠ 1 ∧ (usesV false false 0x78 1 2).all (fun u => u.accepted) = false ∧ (usesV true false 4 3 2).all (fun u => u.accepted) = true ∧
    EmptySource emptied 3 ∧ EmptySource emptied 0x61 ∧ ¬ EmptySource emptied 2 ∧
    (let s := withCur user fun st => { st with wb := 120 }; s.cur.chk ≠ 1 ∧ (usedLines (usesV false false 9 1 2) s.cur.wb).all (fun n => decide (n < s.cur.nlines)) = false) ∧
    (usedLines (usesV false false 4 5 2) emptied.cur.wb).all (fun n => decide (n < emptied.cur.nlines)) = true ∧
    (∃ n ∈ usedLines (usesV false false 4 5 2) emptied.cur.wb, emptied.cur.absent.getLsbD n = true) ∧
    (∀ n ∈ usedLines (usesV false false 7 3 2) emptied.cur.wb, emptied.cur.absent.getLsbD n = false) ∧ emptied.cur.vFull.getLsbD (emptied.cur.wb + (7 : Code).toNat) = false := by
  unfold EmptySource
  and_intros <;> decide +kernel

theorem witness_OperandValues : (63 : Nat) < 64 ∧ (user.cur.line 5).length = 64 ∧ (user.cur.line 6).length = 64 ∧ user.cur.sup = false ∧
    (∃ x q, (mailed.cohort mailed.cur.ccb).mailbox = x :: q) := by
  and_intros <;> first
    | decide +kernel
    | exact ⟨_, _, rfl⟩

/-! ### Single steps and operations: results from the spec's tables and worked examples -/

/-- The state that an outcome gives, or the one before. -/
def after (s : State) (o : Host.Outcome State Fault Refusal) : State := match o with | .next t => t | .fault _ | .refused _ => s
/-- A line of elements by lane. -/
def lineBy (f : Nat → Nat) : Line := (List.range 64).map fun l => BitVec.ofNat 32 (f l)
/-- The strand with lines and scalars given, issuing with some lanes. -/
def given (lines : List (Nat × Line)) (scal : List (Nat × Nat)) (m : Mask) : State :=
  withCur (withScalars warm scal) fun st => { st with vec := lines, frontier := [{ mask := m, prio := 0x8000, pc := 0x100000 }] }

/-- 02 Table 2-8: conversions under RNE and RTZ, with and without saturation; flags are inexact 16, underflow 8, overflow 4, invalid 1. -/
theorem test_conversions : ([(0x3E99999A, 0x08, false, 0, 0x2A, 16), (0x3E99999A, 0x08, false, 1, 0x29, 16), (0x43E60000, 0x08, false, 0, 0x7E, 16),
      (0x43EB0000, 0x08, false, 0, 0x7F, 20), (0x43EB0000, 0x08, true, 0, 0x7E, 20), (0xFF800000, 0x08, false, 0, 0x7F, 1), (0xFF800000, 0x08, true, 0, 0xFE, 16),
      (0x3A83126F, 0x08, false, 0, 0x01, 24), (0x3F808000, 0x04, false, 0, 0x3F80, 16), (0x3F818000, 0x04, false, 0, 0x3F82, 16), (0xC7004100, 0x18, false, 0, 0xF4, 20)] :
      List (Nat × Nat × Bool × Nat × Nat × Nat)).all (fun x =>
        let r := convert x.2.1 x.2.2.1 x.2.2.2.1 x.1
        r.1 == x.2.2.2.2.1 && r.2.toNat == x.2.2.2.2.2) = true := by
  decide

/-- 09 Table 9-10: a fused multiply-add of 32 bits, lane by lane. -/
theorem test_fused_multiply_add : ([(0x3FC00000, 0x40000000, 0x3E800000, 0x40500000, 0), (0x3F800001, 0x3F7FFFFF, 0xBF800000, 0x337FFFFE, 0), (0x7F000000, 0x40800000, 0, 0x7F800000, 20),
      (0, 0x7F800000, 0x3F800000, 0x7FC00000, 1), (0x7FC01234, 0x3F800000, 0x3F800000, 0x7FC00000, 0), (0, 0, 0, 0, 0)] : List (Nat × Nat × Nat × Nat × Nat)).all (fun x =>
        let r := Fmt.fma .f32 0 x.1 x.2.1 (Fmt.f32.decode x.2.2.1)
        r.1 == x.2.2.2.1 && r.2.toNat == x.2.2.2.2) = true := by
  decide

/-- 02, worked example of R40: the truncation window of a K-group: 1.0 - 1.0 + 1.75 x 2^-62 leaves 1.5 x 2^-62. -/
theorem test_k_group_window : kGroup (a48Decode 0x3FE000000000 :: [mxProduct (Fmt.bf16.decode 0xBF80) (Fmt.bf16.decode 0x3F80) 127 127,
    mxProduct (Fmt.bf16.decode 0x3060) (Fmt.bf16.decode 0x3000) 127 127]) = 0x383000000000 := by
  decide

/-- 08 Tables 8-7, 8-8: the mask lacks lanes 2 and 5, v1[L] = 10 L. -/
def partial8 : State := given [(1, lineBy fun l => 10 * l)] [] 0xFFFFFFFFFFFFFFDB
theorem test_shuffle_down_zero : (let x := (after partial8 (exec (.vshfldn false false 3 1 0x7C) partial8)).cur.line 3
    [laneOf x 1, laneOf x 4, laneOf x 63, laneOf x 2, laneOf x 5]) = [20, 50, 0, 0, 0] := by decide +kernel
theorem test_shuffle_down_own : laneOf ((after partial8 (exec (.vshfldn false true 4 1 0x7C) partial8)).cur.line 4) 63 = 630 := by decide +kernel
theorem test_sum_of_active_lanes : ((after partial8 (exec (.vredadd false 0x69 1) partial8)).cur.producers.map fun p => p.scalars) = [[(9, 20090)]] := by decide +kernel

/-- R226: addition wraps at 32 bits, and only active lanes are written. -/
theorem test_vadd_wraps : (let s := given [(1, lineBy fun l => 0xFFFFFFFF - l)] [] 0xF
    let x := (after s (exec (.vadd false false 3 1 0x7C) s)).cur.line 3
    [laneOf x 0, laneOf x 3, laneOf x 4]) = [0, 0xFFFFFFFD, 0] := by decide +kernel
theorem test_vmulhis_signs : (let s := given [(1, lineBy fun _ => 0xFFFFFFFE)] [] 1
    laneOf ((after s (exec (.vmulhis false false 3 1 0x7C) s)).cur.line 3) 0) = 0xFFFFFFFF := by decide +kernel

/-- R183, R185: scalars are 64 bits; the signed quotient truncates toward zero; a zero divisor parks the lanes under 0x06. -/
theorem test_sadd_wraps : (let s := given [] [(1, 2 ^ 64 - 1), (2, 2)] 1
    (after s (exec (.sadd false false 1 1 2) s)).cur.scalar 1) = 1 := by decide +kernel
theorem test_sdivs_truncates : (let s := given [] [(1, 2 ^ 64 - 7), (2, 2)] 1
    (after s (exec (.sdivs false false 3 1 2) s)).cur.scalar 3) = 0xFFFFFFFFFFFFFFFD := by decide +kernel
theorem test_divide_by_zero : ((after warm (exec (.sdivu false false 3 1 0x78) warm)).cur.frontier.map fun e => (e.parked, e.cause, e.pc)) = [(true, some .divideByZero, 0x100000)] := by decide +kernel

/-- R164 to R166: `brz` splits lanes by their element; `call` leaves PC + 4 in s63. -/
theorem test_call_links : (let s := after warm (exec (.call 4) warm); (s.cur.scalar 63, s.cur.frontier.map fun e => e.pc)) = (0x100004, [0x100010]) := by decide +kernel
/-- 06 R186: `sysc` parks its lanes for the supervisor, whose queue holds an event of cause 0x0F. -/
theorem test_sysc_parks : (let s := after warm (exec (.sysc 7) warm)
    (s.cur.frontier.map fun e => (e.parked, e.cause), (s.core 0).evq.map fun e => (e.cause, e.param))) = ([(true, some .systemCall)], [(.systemCall, 7)]) := by decide +kernel

/-- 00 R4, 07: a store of a double word leaves its lowest byte at the lowest address. -/
theorem test_store_little_endian : (let s := given [] [(3, 0x400000), (5, 0x1122334455667788)] 1
    let t := after s (exec (.sst 0x65 0x63 0) s)
    (Memory.read t.local_ 0x400000, Memory.read t.local_ 0x400007)) = (0x88, 0x11) := by decide +kernel
/-- 03 R57: a privileged opcode of a user strand raises 0x03 and does nothing else. -/
theorem test_privileged_in_user : ((after warm (exec (.pget 5 0) warm)).cur.frontier.map fun e => (e.parked, e.cause)) = [(true, some .privileged)] := by decide +kernel

/-- 11 R301, R305: a joint operation of INT8 adds 32 products to each element. -/
theorem test_mma_i8 : (let o : MxOp := { operation with form := .i8, aLines := List.replicate 8 (lineBy fun i => 0x01010101 * (i % 2 + 1)), bLines := List.replicate 16 (lineBy fun _ => 0xFFFFFFFF) }
    (o.element 5 0 0, o.element 5 1 127)) = (2 ^ 48 - 27, 2 ^ 48 - 59) := by decide +kernel

/-- The first step after reset runs the word that `withFetchWord` places: `vadd v0, v0, v0`. -/
theorem test_first_step : (let s := State.reset.withFetchWord 32 0; (after s (step s)).strands.map fun x => x.2.frontier.map fun e => e.pc) = [[0x100004]] := by decide +kernel

/-- 07 Table 7-4: `atadd` adds at the home of the line and gives the old value. -/
theorem test_atadd : (let s := given [] [(3, 0x400000), (5, 7)] 1
    let s := { s with local_ := Memory.writeN s.local_ 0x400000 4 0xFFFFFFFE }
    let t := after s (exec (.atadd false false 4 0x63 0x65) s)
    (Memory.readN t.local_ 0x400000 4, t.cur.producers.map fun p => p.lines.map fun l => (l.1, laneOf l.2.2 0))) = (5, [[(4, 0xFFFFFFFE)]]) := by decide +kernel

/-- 10 R274: a unit of a copy stands at its destination. -/
theorem test_copy_unit : (let s := channelled { transfer with started := true }
    let s := { s with local_ := Memory.writeN s.local_ 0x400000 64 (2 ^ 511 + 0xAB) }
    Memory.readN (after s (exec (.deliveryUnit 0 0x200000 3) s)).local_ 0x480000 64) = 2 ^ 511 + 0xAB := by decide +kernel

/-- 14 Table 14-9: QUANT is at least 11,000 cycles; D gets the old value. -/
theorem test_quantum_clamped : (let s := asked warm [(1, 500)]
    let t := after s (exec (.dcfg false 9 2 1) s)
    (t.disp.regs.quant, t.cur.producers.map fun p => p.scalars)) = (11000, [[(9, 11000)]]) := by decide +kernel

/-- 19 Table 19-3: a device that is READY takes a grant, and answers 0. -/
theorem test_grant : (let s := leaseIs .ready
    let t := after s (exec (.grant 9) s)
    (t.root.lease, t.root.leaseId)) = (.leased, 9) := by decide +kernel

end Sys2Proof.Tests
end

section
/-! Settles 00 R4. A read of a place splits at any byte of it, and a write leaves nothing of an earlier write of the same place; what a
single byte holds after a write is `Memory.read_writeN`. -/

namespace Sys2Proof.Machine

/-- The place of byte k in a little-endian value, counted in bits. -/
theorem pow_256_eq_two_pow (k : Nat) : 256 ^ k = 2 ^ (8 * k) := (Nat.pow_mul 2 8 k).symm

/-- A read splits at byte k: the low k bytes, then the rest shifted by 8k bits (00 R4). -/
theorem Memory.readN_add (m : Memory) (a k j : Nat) :
    Memory.readN m a (k + j) = Memory.readN m a k + 2 ^ (8 * k) * Memory.readN m (a + k) j := by
  rw [← pow_256_eq_two_pow]
  induction k generalizing a with
  | zero => simp [Memory.readN]
  | succ k ih =>
    have hplace : a + 1 + k = a + (k + 1) := by omega
    rw [Nat.succ_add]
    simp only [Memory.readN]
    rw [ih (a + 1), hplace, Nat.pow_succ]
    ring

/-- A byte of the place written: bits [8i+7:8i] of the value (00 R4). -/
theorem Memory.read_writeN_add (m : Memory) (a n v i : Nat) (h : i < n) :
    Memory.read (Memory.writeN m a n v) (a + i) = BitVec.ofNat 8 (v / 2 ^ (8 * i)) := by
  rw [Memory.read_writeN, if_pos (by omega), Nat.add_sub_cancel_left, pow_256_eq_two_pow]

/-- A byte outside the place written keeps its value. -/
theorem Memory.read_writeN_outside (m : Memory) (a n v x : Nat) (h : x < a ∨ a + n ≤ x) :
    Memory.read (Memory.writeN m a n v) x = Memory.read m x := by
  rw [Memory.read_writeN, if_neg (by omega)]

/-- Of two writes of the same place, every byte is as the second leaves it. -/
theorem Memory.read_writeN_writeN (m : Memory) (a n u v x : Nat) :
    Memory.read (Memory.writeN (Memory.writeN m a n u) a n v) x = Memory.read (Memory.writeN m a n v) x := by
  by_cases hin : a ≤ x ∧ x < a + n
  · simp only [Memory.read_writeN, if_pos hin]
  · have hout : x < a ∨ a + n ≤ x := by omega
    simp only [Memory.read_writeN_outside _ a n _ x hout]

end Sys2Proof.Machine

namespace Sys2Proof.Proofs

open Sys2Proof.Machine

/-- Settles O53: byte by byte, from what one byte holds after a write. -/
theorem memoryReadsBack : Obligations.MemoryReadsBack := by
  intro m a n v
  refine ⟨?readsBack, Memory.read_writeN_add m a n v, Memory.read_writeN_outside m a n v,
    fun u x => Memory.read_writeN_writeN m a n u v x, ?splits⟩
  case readsBack => rw [Memory.readN_writeN, pow_256_eq_two_pow]
  case splits =>
    intro k hk
    rw [← Memory.readN_add, Nat.add_sub_cancel' hk]

end Sys2Proof.Proofs
end

section

/-! Settles 01 R17 and R18 with 14 Table 14-9. Six registers bound the engines. A function of the state that does not name them leaves
`State.limits` as it was (`f_limits`), so an instruction or event made of such functions keeps every condition `P` on the limits. The few
that write them (`_bounded`) clamp what they write, or set the values of reset. -/

namespace Sys2Proof.Machine

open Sys2Proof.Claims

/-! ### The registers that bound the engines -/

/-- The registers that `Claims.Limits` bounds. -/
structure LimitRegs where
  threshold : Nat
  powerLimit : Nat
  quant : DWord
  latmax : DWord
  mrto : DWord
  sto : DWord

def State.limits (s : State) : LimitRegs :=
  ⟨s.root.threshold, s.root.powerLimit, s.disp.regs.quant, s.disp.regs.latmax, s.disp.regs.mrto, s.disp.regs.sto⟩

/-- Only two fields of a state hold limits. The proof is not `rfl` alone, so that `simp` leaves a rewrite and not a comparison of whole
states to the kernel. -/
@[simp] theorem State.limits_mk (local_ host peer strands cohorts spans cores slices monitors marks disp link guard root
    contexts fwRoot ueLocal ueHost uePeer outputs free agenda now stage2At curKey turn reached) :
    State.limits (State.mk local_ host peer strands cohorts spans cores slices monitors marks disp link guard root contexts
      fwRoot ueLocal ueHost uePeer outputs free agenda now stage2At curKey turn reached) =
      ⟨root.threshold, root.powerLimit, disp.regs.quant, disp.regs.latmax, disp.regs.mrto, disp.regs.sto⟩ := by
  unfold State.limits
  rfl

@[simp] theorem State.limits_fold (s : State) :
    LimitRegs.mk s.root.threshold s.root.powerLimit s.disp.regs.quant s.disp.regs.latmax s.disp.regs.mrto s.disp.regs.sto =
      s.limits := by
  unfold State.limits
  rfl

@[simp] theorem State.limits_ite (c : Prop) [Decidable c] (s t : State) :
    (if c then s else t).limits = if c then s.limits else t.limits :=
  apply_ite State.limits c s t

/-- The state of a pair that a `match` took apart, in terms of what was matched. -/
theorem limits_of_eq {α : Type} {p : State × α} {t : State} {x : α} (h : p = (t, x)) : t.limits = p.1.limits := by
  rw [h]

@[simp] theorem foldl_limits {α : Type} (f : State → α → State) (h : ∀ s x, (f s x).limits = s.limits) (l : List α) (s : State) :
    (l.foldl f s).limits = s.limits := by
  induction l generalizing s with
  | nil => rfl
  | cons a l ih => exact (ih _).trans (h s a)

@[simp] theorem foldl_fst_limits {α β : Type} (f : State × β → α → State × β) (h : ∀ p x, (f p x).1.limits = p.1.limits)
    (l : List α) (p : State × β) : (l.foldl f p).1.limits = p.1.limits := by
  induction l generalizing p with
  | nil => rfl
  | cons a l ih => exact (ih _).trans (h p a)

/-- The limits that no setting passes, of the registers alone (`limits_iff_bounded`). -/
structure LimitRegs.Bounded (l : LimitRegs) : Prop where
  threshold : l.threshold ≤ 100
  power : l.powerLimit ≤ 5400
  quantum : 11000 ≤ l.quant.toNat
  latency : 1100 ≤ l.latmax.toNat ∧ l.latmax.toNat ≤ 1100000
  rendezvous : 4096 ≤ l.mrto.toNat ∧ l.mrto.toNat ≤ 1048576
  switching : 1024 ≤ l.sto.toNat ∧ l.sto.toNat ≤ 1048576

theorem limits_iff_bounded (s : State) : Limits s ↔ s.limits.Bounded :=
  ⟨fun ⟨a, b, c, d, e, f⟩ => ⟨a, b, c, d, e, f⟩, fun ⟨a, b, c, d, e, f⟩ => ⟨a, b, c, d, e, f⟩⟩

/-- The limits of the next state, where an outcome gives one, satisfy a condition. -/
def NextLimits (P : LimitRegs → Prop) : Host.Outcome State Fault Refusal → Prop
  | .next t => P t.limits
  | .fault _ | .refused _ => True

@[simp] theorem nextLimits_next (P) (t : State) : NextLimits P (.next t) ↔ P t.limits := Iff.rfl

@[simp] theorem nextLimits_fault (P) (f : Fault) : NextLimits P (.fault f) ↔ True := Iff.rfl

@[simp] theorem nextLimits_refused (P) (f : Refusal) : NextLimits P (.refused f) ↔ True := Iff.rfl

@[simp] theorem nextLimits_ite (P) (c : Prop) [Decidable c] (a b : Host.Outcome State Fault Refusal) :
    NextLimits P (if c then a else b) ↔ if c then NextLimits P a else NextLimits P b := by
  split <;> rfl

theorem nextLimits_ite_of {P} {c : Prop} [Decidable c] {a b : Host.Outcome State Fault Refusal} (ha : NextLimits P a)
    (hb : NextLimits P b) : NextLimits P (if c then a else b) := by
  split
  · exact ha
  · exact hb

/-! ### Strands, cohorts, cores and events -/

@[simp] theorem State.setStrand_limits (s : State) (k st) : (s.setStrand k st).limits = s.limits := by
  simp [State.setStrand]
@[simp] theorem State.setCur_limits (s : State) (st) : (s.setCur st).limits = s.limits := by
  simp [State.setCur]
@[simp] theorem State.setCore_limits (s : State) (c k) : (s.setCore c k).limits = s.limits := by
  simp [State.setCore]
@[simp] theorem State.setCohort_limits (s : State) (ccb c) : (s.setCohort ccb c).limits = s.limits := by
  simp [State.setCohort]
@[simp] theorem State.setCurCohort_limits (s : State) (c) : (s.setCurCohort c).limits = s.limits := by
  simp [State.setCurCohort]
@[simp] theorem State.tick_limits (s : State) : (s.tick).limits = s.limits := by
  simp [State.tick]
@[simp] theorem State.postEvent_limits (s : State) (core e) : (s.postEvent core e).limits = s.limits := by
  simp [State.postEvent]

/-! ### Translation and accesses by engines (12) -/

@[simp] theorem State.noteWrite_limits (s : State) (l a n) : (s.noteWrite l a n).limits = s.limits := by
  simp [State.noteWrite]
@[simp] theorem State.overwrite_limits (s : State) (peer a n) : (s.overwrite peer a n).limits = s.limits := by
  simp [State.overwrite]
@[simp] theorem State.putQuiet_limits (s : State) (l a n v) : (s.putQuiet l a n v).limits = s.limits := by
  simp only [State.putQuiet]; split <;> simp
@[simp] theorem State.putBytes_limits (s : State) (l a n v) : (s.putBytes l a n v).limits = s.limits := by
  simp [State.putBytes]
@[simp] theorem State.clearBytes_limits (s : State) (l a n) : (s.clearBytes l a n).limits = s.limits := by
  simp only [State.clearBytes]; split <;> simp
@[simp] theorem State.damage_limits (s : State) (l w) : (s.damage l w).limits = s.limits := by
  simp only [State.damage]
  repeat' split
  all_goals simp
@[simp] theorem State.keepEntry_limits (s : State) (core t) : (s.keepEntry core t).limits = s.limits := by
  simp only [State.keepEntry]; split <;> simp
@[simp] theorem State.installSlice_limits (s : State) (pasid va leaf level path) :
    (s.installSlice pasid va leaf level path).limits = s.limits := by
  simp [State.installSlice]
@[simp] theorem State.installLeaf_limits (s : State) (core pasid va leaf level path) :
    (s.installLeaf core pasid va leaf level path).limits = s.limits := by
  simp only [State.installLeaf]; split <;> simp

@[simp] theorem State.setAccessed_limits (s : State) (x addr host dirty) :
    (s.setAccessed x addr host dirty).1.limits = s.limits := by
  simp only [State.setAccessed]
  repeat' split
  all_goals simp

@[simp] theorem State.walkAccess_limits (s : State) (core pasid user k va root) :
    (s.walkAccess core pasid user k va root).1.limits = s.limits := by
  simp only [State.walkAccess]
  repeat' split
  all_goals simp

@[simp] theorem State.atsPage_limits (s : State) (pasid va page) : (s.atsPage pasid va page).1.limits = s.limits := by
  simp only [State.atsPage]; split <;> simp
@[simp] theorem State.atsPlace_limits (s : State) (pasid va p) : (s.atsPlace pasid va p).1.limits = s.limits := by
  simp only [State.atsPlace]; split <;> simp

@[simp] theorem State.translateLeaf_limits (s : State) (core pasid user k va) :
    (s.translateLeaf core pasid user k va).1.limits = s.limits := by
  simp only [State.translateLeaf]
  repeat' split
  all_goals simp

@[simp] theorem State.translateFor_limits (s : State) (core pasid user k va) :
    (s.translateFor core pasid user k va).1.limits = s.limits := by
  simp only [State.translateFor]
  split <;> (rename_i heq; simp [limits_of_eq heq])

@[simp] theorem State.translate_limits (s : State) (core pasid user k va) :
    (s.translate core pasid user k va).1.limits = s.limits := by
  simp [State.translate]
@[simp] theorem State.walkEngine_limits (s : State) (pasid va dirty) : (s.walkEngine pasid va dirty).limits = s.limits := by
  simp only [State.walkEngine]
  repeat' split
  all_goals simp
@[simp] theorem State.touch_limits (s : State) (pasid va dirty) : (s.touch pasid va dirty).limits = s.limits := by
  simp only [State.touch]
  repeat' split
  all_goals simp
@[simp] theorem State.touchRange_limits (s : State) (pasid va n) : (s.touchRange pasid va n).limits = s.limits := by
  simp [State.touchRange]
@[simp] theorem State.engineWrite_limits (s : State) (pasid va n v) : (s.engineWrite pasid va n v).limits = s.limits := by
  simp only [State.engineWrite]; split <;> simp
@[simp] theorem State.poison_limits (s : State) (pasid va words) : (s.poison pasid va words).limits = s.limits :=
  foldl_limits _ (fun s w => by split <;> simp) _ _
@[simp] theorem State.writeRecord_limits (s : State) (r) : (s.writeRecord r).1.limits = s.limits := by
  simp [State.writeRecord]
@[simp] theorem State.writeRecords_limits (s : State) (l) : (s.writeRecords l).1.limits = s.limits := by
  simp [State.writeRecords]

/-! ### Interrupts, machine checks and lane records (13, 15, 18) -/

@[simp] theorem State.setFunction_limits (s : State) (f x) : (s.setFunction f x).limits = s.limits := by
  simp [State.setFunction]
@[simp] theorem State.output_limits (s : State) (o) : (s.output o).limits = s.limits := by
  simp [State.output]
@[simp] theorem State.countLostMsix_limits (s : State) (n) : (s.countLostMsix n).limits = s.limits := by
  simp [State.countLostMsix]
@[simp] theorem State.postMsix_limits (s : State) (fn vec) : (s.postMsix fn vec).limits = s.limits := by
  simp [State.postMsix]
@[simp] theorem State.sendMsix_limits (s : State) (fn vec) : (s.sendMsix fn vec).1.limits = s.limits := by
  simp only [State.sendMsix]
  repeat' split
  all_goals simp
@[simp] theorem State.setClaim_limits (s : State) (i c) : (s.setClaim i c).limits = s.limits := by
  simp [State.setClaim]
@[simp] theorem State.fire_limits (s : State) (i) : (s.fire i).limits = s.limits := by
  simp [State.fire]
@[simp] theorem State.machineCheck_limits (s : State) (ccb sub) : (s.machineCheck ccb sub).limits = s.limits := by
  simp [State.machineCheck]
@[simp] theorem State.laneRecord_limits (s : State) (st kind idx lane pc value) :
    (s.laneRecord st kind idx lane pc value).limits = s.limits := by
  simp [State.laneRecord]
@[simp] theorem State.laneRecords_limits (s : State) (st kind idx m pc v) :
    (s.laneRecords st kind idx m pc v).limits = s.limits := by
  simp [State.laneRecords]
@[simp] theorem State.flow_limits (s : State) (e m target) : (s.flow e m target).limits = s.limits := by
  simp [State.flow]
@[simp] theorem State.stopCohort_limits (s : State) (ccb why) : (s.stopCohort ccb why).limits = s.limits := by
  simp [State.stopCohort]

/-! ### Causes, barriers and frontiers (06, 13) -/

@[simp] theorem State.stopSupervisor_limits (s : State) (core e) : (s.stopSupervisor core e).limits = s.limits := by
  simp [State.stopSupervisor]
@[simp] theorem State.raiseSupervisor_limits (s : State) (k e r) : (s.raiseSupervisor k e r).limits = s.limits := by
  simp [State.raiseSupervisor]
@[simp] theorem State.parkNow_limits (s : State) (k e r) : (s.parkNow k e r).limits = s.limits := by
  simp [State.parkNow]
@[simp] theorem State.park_limits (s : State) (k e r) : (s.park k e r).limits = s.limits := by
  simp [State.park]
@[simp] theorem State.countCheck_limits (s : State) (core i) : (s.countCheck core i).limits = s.limits := by
  simp [State.countCheck]
@[simp] theorem State.takeCause_limits (s0 : State) (k e r) : (s0.takeCause k e r).limits = s0.limits := by
  simp [State.takeCause]
@[simp] theorem State.releaseBarrier_limits (s : State) (ccb) : (s.releaseBarrier ccb).limits = s.limits := by
  simp [State.releaseBarrier]
@[simp] theorem State.unarrive_limits (s : State) (ccb) : (s.unarrive ccb).limits = s.limits := by
  simp [State.unarrive]
@[simp] theorem State.invalidateL1_limits (s : State) (core) : (s.invalidateL1 core).limits = s.limits := by
  simp [State.invalidateL1]
@[simp] theorem State.checkSpan_limits (s : State) (id) : (s.checkSpan id).limits = s.limits := by
  simp [State.checkSpan]
@[simp] theorem State.checkBarrier_limits (s : State) (ccb) : (s.checkBarrier ccb).limits = s.limits := by
  simp only [State.checkBarrier]; split <;> simp
@[simp] theorem State.raiseArrival_limits (s : State) (a c taddr) : (s.raiseArrival a c taddr).limits = s.limits := by
  simp only [State.raiseArrival]; split <;> simp
@[simp] theorem State.failGangs_limits (s : State) (core gs more c) : (s.failGangs core gs more c).limits = s.limits := by
  simp [State.failGangs]
@[simp] theorem State.failGangsOf_limits (s : State) (st) : (s.failGangsOf st).limits = s.limits := by
  simp [State.failGangsOf]
@[simp] theorem State.afterFrontier_limits (s : State) (k) : (s.afterFrontier k).limits = s.limits := by
  simp [State.afterFrontier]
@[simp] theorem State.settle_limits (s : State) (outs raises) : (s.settle outs raises).limits = s.limits := by
  simp [State.settle]
@[simp] theorem State.holdCandidate_limits (s : State) (h) : (s.holdCandidate h).limits = s.limits := by
  simp [State.holdCandidate]
@[simp] theorem State.advance_limits (s : State) : (s.advance).limits = s.limits := by
  simp [State.advance]
@[simp] theorem State.raiseAll_limits (s : State) (c) : (s.raiseAll c).limits = s.limits := by
  simp [State.raiseAll]
@[simp] theorem State.raiseAllAt_limits (s : State) (c taddr) : (s.raiseAllAt c taddr).limits = s.limits := by
  simp [State.raiseAllAt]
@[simp] theorem State.stallWith_limits (s : State) (r) : (s.stallWith r).limits = s.limits := by
  simp [State.stallWith]
@[simp] theorem State.returnFromHandler_limits (s : State) : (s.returnFromHandler).limits = s.limits := by
  simp [State.returnFromHandler]

/-! ### Images (04) -/

@[simp] theorem State.writeWords_limits (s : State) (pasid base l) : (s.writeWords pasid base l).limits = s.limits := by
  simp [State.writeWords]
@[simp] theorem State.writeBlock_limits (s : State) (pasid base n l) : (s.writeBlock pasid base n l).limits = s.limits := by
  simp only [State.writeBlock]; split <;> simp
@[simp] theorem State.saveSpill_limits (s : State) (k) : (s.saveSpill k).limits = s.limits := by
  simp [State.saveSpill]
@[simp] theorem State.saveControl_limits (s : State) (k) : (s.saveControl k).limits = s.limits := by
  simp [State.saveControl]
@[simp] theorem State.poisonLine_limits (s : State) (k n) : (s.poisonLine k n).limits = s.limits := by
  simp [State.poisonLine]
@[simp] theorem State.saveLines_limits (s : State) (k) : (s.saveLines k).limits = s.limits := by
  simp only [State.saveLines]; split <;> simp
@[simp] theorem State.loadStrand_limits (s : State) (k) : (s.loadStrand k).limits = s.limits := by
  simp [State.loadStrand]
@[simp] theorem State.saveCohort_limits (s : State) (ccb) : (s.saveCohort ccb).limits = s.limits := by
  simp [State.saveCohort]
@[simp] theorem State.showBarrier_limits (s : State) (ccb) : (s.showBarrier ccb).limits = s.limits := by
  simp [State.showBarrier]
@[simp] theorem State.showWord_limits (s : State) (ccb off w) : (s.showWord ccb off w).limits = s.limits := by
  simp [State.showWord]
@[simp] theorem State.saveMailbox_limits (s : State) (ccb) : (s.saveMailbox ccb).limits = s.limits := by
  simp [State.saveMailbox]
@[simp] theorem State.saveScratch_limits (s : State) (ccb) : (s.saveScratch ccb).limits = s.limits := by
  simp [State.saveScratch]
@[simp] theorem State.loadCohort_limits (s : State) (ccb) : (s.loadCohort ccb).limits = s.limits := by
  simp [State.loadCohort]
@[simp] theorem State.saveDrains_limits (s : State) (k) : (s.saveDrains k).limits = s.limits := by
  simp [State.saveDrains]
@[simp] theorem State.loadDrains_limits (s : State) (k) : (s.loadDrains k).limits = s.limits := by
  simp [State.loadDrains]
@[simp] theorem State.saveSpan_limits (s : State) (id) : (s.saveSpan id).limits = s.limits := by
  simp [State.saveSpan]

/-! ### Operands, checks and destinations of an instruction (03) -/

@[simp] theorem State.popDrain_limits (s : State) (k q) : (s.popDrain k q).limits = s.limits := by
  simp only [State.popDrain]; split <;> simp
@[simp] theorem State.popQueue_limits (s : State) (k q) : (s.popQueue k q).limits = s.limits := by
  simp [State.popQueue]
@[simp] theorem State.pushQueue_limits (s : State) (k x) : (s.pushQueue k x).limits = s.limits := by
  simp [State.pushQueue]
@[simp] theorem State.popSources_limits (s : State) (us) : (s.popSources us).limits = s.limits := by
  simp [State.popSources]
@[simp] theorem State.onCur_limits (s : State) (f) : (s.onCur f).limits = s.limits := by
  simp [State.onCur]
@[simp] theorem State.halt_limits (s : State) (x1) : (s.halt x1).limits = s.limits := by
  simp only [State.halt]; split <;> simp

theorem State.readFlawed_limits {P : LimitRegs → Prop} (s : State) (m) (k : State → State) (h : P s.limits)
    (hk : ∀ t, P t.limits → P (k t).limits) : P (s.readFlawed m k).limits := by
  simp only [State.readFlawed]
  split
  · simpa using h
  · split
    · simpa using h
    · split
      · exact hk _ (by simpa using h)
      · simpa using hk _ (by simpa using h)

@[simp] theorem runWith_limits {P} {s : State} {us extra bad priv replay} {k : State → State} (h : P s.limits)
    (hk : ∀ t, P t.limits → P (k t).limits) : NextLimits P (runWith s us extra bad priv replay k) := by
  simp only [runWith]
  split
  · simp [h]
  · simp only [nextLimits_next, State.limits_ite]
    split
    · exact hk s h
    · exact State.readFlawed_limits s _ k h hk

@[simp] theorem run_limits {P} {s : State} {us extra bad priv} {k : State → State} (h : P s.limits)
    (hk : ∀ t, P t.limits → P (k t).limits) : NextLimits P (run s us extra bad priv k) :=
  runWith_limits h hk
@[simp] theorem State.pushReplay_limits (s : State) (old us cycles) : (s.pushReplay old us cycles).limits = s.limits := by
  simp [State.pushReplay]
@[simp] theorem State.cutPush_limits (s : State) (old bad) : (s.cutPush old bad).limits = s.limits := by
  simp [State.cutPush]

theorem State.cloneFail_limits {P : LimitRegs → Prop} (s old : State) (m) (hs : P s.limits) (hold : P old.limits) :
    P (s.cloneFail old m).limits := by
  simp only [State.cloneFail]
  split
  · simpa using hs
  · split
    · simpa using hold
    · simpa using hs

@[simp] theorem runVec_limits {P} {s : State} {cycles us extra bad priv} {k : State → State} (h : P s.limits)
    (hk : ∀ t, P t.limits → P (k t).limits) : NextLimits P (runVec s cycles us extra bad priv k) := by
  simp only [runVec]
  split
  · exact runWith_limits h fun t ht => by simpa using hk t ht
  · split
    · exact run_limits h fun t ht => State.cloneFail_limits _ _ _ (hk t ht) ht
    · exact run_limits h hk

@[simp] theorem runPointWith_limits {P} {flags} {s : State} {us extra bad priv} {k : State → State} (h : P s.limits)
    (hk : ∀ t, P t.limits → P (k t).limits) : NextLimits P (runPointWith flags s us extra bad priv k) := by
  refine runWith_limits h fun t ht => ?_
  split
  · simpa using ht
  · split
    · simpa using ht
    · exact hk t ht

@[simp] theorem runPoint_limits {P} {s : State} {us extra bad priv} {k : State → State} (h : P s.limits)
    (hk : ∀ t, P t.limits → P (k t).limits) : NextLimits P (runPoint s us extra bad priv k) :=
  runPointWith_limits h hk
@[simp] theorem runCompare_limits {P} {s : State} {us extra bad priv} {k : State → State} (h : P s.limits)
    (hk : ∀ t, P t.limits → P (k t).limits) : NextLimits P (runCompare s us extra bad priv k) :=
  runPointWith_limits h hk
@[simp] theorem State.comparePoint_limits (s : State) (same) (k : State → State) (hk : (k s).limits = s.limits) :
    (s.comparePoint same k).limits = s.limits := by
  simp [State.comparePoint, hk]
@[simp] theorem State.writeV_limits (s : State) (d late f) : (s.writeV d late f).limits = s.limits := by
  simp [State.writeV]
@[simp] theorem State.writeAcross_limits (s : State) (d late f) : (s.writeAcross d late f).limits = s.limits := by
  simp [State.writeAcross]
@[simp] theorem State.writeS_limits (s : State) (d late v) : (s.writeS d late v).limits = s.limits := by
  simp [State.writeS]

/-! ### Accesses of lanes, lines and stores (07) -/

@[simp] theorem State.checkLane_limits (s : State) (st k f align n lane va) :
    (s.checkLane st k f align n lane va).1.limits = s.limits := by
  simp only [State.checkLane]
  split
  · rfl
  · split
    · rfl
    · split
      · split
        · rfl
        · split <;> rfl
        · rfl
      · split
        · rename_i heq; simp [limits_of_eq heq]
        · rename_i heq; simp [limits_of_eq heq]
        · rename_i heq
          split
          · simp [limits_of_eq heq]
          · split <;> simp [limits_of_eq heq]

@[simp] theorem State.checkLanes_limits (s : State) (st k f align n reqs) :
    (s.checkLanes st k f align n reqs).1.limits = s.limits :=
  foldl_fst_limits _ (fun p x => by split <;> (rename_i heq; simp [limits_of_eq heq])) _ _
@[simp] theorem State.fillLine_limits (s : State) (core key priv) : (s.fillLine core key priv).limits = s.limits := by
  simp [State.fillLine]
@[simp] theorem State.dropL1_limits (s : State) (core) : (s.dropL1 core).limits = s.limits := by
  simp [State.dropL1]
@[simp] theorem State.takeMisses_limits (s : State) (core priv m) : (s.takeMisses core priv m).limits = s.limits := by
  simp [State.takeMisses]
@[simp] theorem State.dropReplies_limits (s : State) (core n) : (s.dropReplies core n).limits = s.limits := by
  simp [State.dropReplies]
@[simp] theorem State.mmioRead_limits (s : State) (n) : (s.mmioRead n).1.limits = s.limits := by
  simp only [State.mmioRead]; split <;> simp
@[simp] theorem State.readPlace_limits (s : State) (core home n x4) : (s.readPlace core home n x4).1.limits = s.limits := by
  simp only [State.readPlace]
  repeat' split
  all_goals simp
@[simp] theorem State.reach_limits (s : State) (core home l) : (s.reach core home l).limits = s.limits := by
  simp [State.reach]
@[simp] theorem State.writePhys_limits (s : State) (core mark n v p) : (s.writePhys core mark n v p).limits = s.limits := by
  simp only [State.writePhys]
  repeat' split
  all_goals simp
@[simp] theorem State.writeQuiet_limits (s : State) (core mark n v x5) : (s.writeQuiet core mark n v x5).limits = s.limits := by
  simp only [State.writeQuiet]; split <;> simp
@[simp] theorem State.notePlace_limits (s : State) (n x2) : (s.notePlace n x2).limits = s.limits := by
  simp only [State.notePlace]; split <;> simp
@[simp] theorem State.writePlace_limits (s : State) (core mark n v p) : (s.writePlace core mark n v p).limits = s.limits := by
  simp [State.writePlace]
@[simp] theorem State.loseCells_limits (s : State) (l cells) : (s.loseCells l cells).limits = s.limits := by
  simp [State.loseCells]
@[simp] theorem State.loseStore_limits (s : State) (core o) : (s.loseStore core o).limits = s.limits := by
  simp [State.loseStore]
@[simp] theorem State.trackStore_limits (s : State) (core o) : (s.trackStore core o).limits = s.limits := by
  simp [State.trackStore]
@[simp] theorem State.sendFlush_limits (s : State) (st) : (s.sendFlush st).limits = s.limits := by
  simp [State.sendFlush]
@[simp] theorem State.noteRelease_limits (s : State) (st scope) : (s.noteRelease st scope).limits = s.limits := by
  simp [State.noteRelease]
@[simp] theorem State.acquire_limits (s : State) (core scope) : (s.acquire core scope).limits = s.limits := by
  simp [State.acquire]
@[simp] theorem State.watch_limits (s : State) (st pc rd wr n l) : (s.watch st pc rd wr n l).limits = s.limits := by
  simp [State.watch]
@[simp] theorem State.releaseMonitors_limits (s : State) (p) : (s.releaseMonitors p).limits = s.limits := by
  simp [State.releaseMonitors]
@[simp] theorem State.releaseArmed_limits (s : State) (p) : (s.releaseArmed p).limits = s.limits := by
  refine (foldl_limits _ (fun s x => ?_) _ _).trans (by simp)
  split <;> simp
@[simp] theorem State.dropWait_limits (s : State) (key) : (s.dropWait key).limits = s.limits := by
  simp [State.dropWait]
@[simp] theorem State.completeWait_limits (s : State) (key w status) : (s.completeWait key w status).limits = s.limits := by
  simp [State.completeWait]

@[simp] theorem State.beginWait_limits (s : State) (va wide cond cmp scope status engine) :
    (s.beginWait va wide cond cmp scope status engine).limits = s.limits := by
  simp only [State.beginWait]
  repeat' split
  all_goals simp

@[simp] theorem State.waitOn_limits (s : State) (va wide cond cmp scope status engine) :
    (s.waitOn va wide cond cmp scope status engine).limits = s.limits := by
  simp [State.waitOn]

/-! ### Loads, stores, fences and cache control (07) -/

@[simp] theorem State.readAll_limits (s : State) (core home n l) : (s.readAll core home n l).1.limits = s.limits :=
  foldl_fst_limits _ (fun p x => by split <;> (rename_i heq; simp [limits_of_eq heq])) _ _
@[simp] theorem State.loadLanes_limits (s : State) (us d k r) : (s.loadLanes us d k r).limits = s.limits := by
  simp [State.loadLanes]
@[simp] theorem State.writeAll_limits (s : State) (core n mark value l) : (s.writeAll core n mark value l).limits = s.limits := by
  simp [State.writeAll]
@[simp] theorem State.storeLanes_limits (s : State) (us form align n r value uniform diff) :
    (s.storeLanes us form align n r value uniform diff).limits = s.limits := by
  simp [State.storeLanes]
theorem vecLoad_limits {P} {s : State} {size dst words d a i} (h : P s.limits) :
    NextLimits P (vecLoad size dst words d a i s) := by
  simp [vecLoad, h]
theorem vecStore_limits {P} {s : State} {size us bad addr d scope} (h : P s.limits) :
    NextLimits P (vecStore size us bad addr d scope s) := by
  simp only [vecStore]; split <;> simp [h]
theorem immStore_limits {P} {size d a i} {s : State} (h : P s.limits) : NextLimits P (immStore size d a i s) := by
  unfold immStore
  exact vecStore_limits h
theorem execLdwx_limits {P} {s : State} {e g d a b} (h : P s.limits) : NextLimits P (execLdwx e g d a b s) := by
  simp [execLdwx, h]

@[simp] theorem State.loadUniform_limits (s : State) (form size home va k) (hk : ∀ t m p v, (k t m p v).limits = t.limits) :
    (s.loadUniform form size home va k).limits = s.limits := by
  simp only [State.loadUniform]
  split
  · rename_i heq; simp [limits_of_eq heq]
  · rename_i heq
    split
    · simp
    · split <;> (rename_i heq2; simp [hk, limits_of_eq heq2, limits_of_eq heq])

theorem scalarLoad_limits {P} {s : State} {size d a i} (h : P s.limits) : NextLimits P (scalarLoad size d a i s) := by
  simp [scalarLoad, h]
theorem scalarStore_limits {P} {s : State} {size d a i} (h : P s.limits) : NextLimits P (scalarStore size d a i s) := by
  simp [scalarStore, h]
theorem execLdbc_limits {P} {s : State} {d a i} (h : P s.limits) : NextLimits P (execLdbc d a i s) := by
  simp [execLdbc, h]
theorem execLdpv_limits {P} {s : State} {d a z o} (h : P s.limits) : NextLimits P (execLdpv d a z o s) := by
  simp [execLdpv, h]
theorem execStpv_limits {P} {s : State} {d a z o} (h : P s.limits) : NextLimits P (execStpv d a z o s) := by
  simp [execStpv, h]
theorem execLda_limits {P} {s : State} {d a sel z} (h : P s.limits) : NextLimits P (execLda d a sel z s) := by
  simp [execLda, h]
theorem execFence_limits {P} {s : State} {sel} (h : P s.limits) : NextLimits P (execFence sel s) := by
  simp [execFence, h]
theorem execXfence_limits {P} {s : State} {sel p q} (h : P s.limits) : NextLimits P (execXfence sel p q s) := by
  simp [execXfence, h]

theorem execPref_limits {P} {a i} {s : State} (h : P s.limits) : NextLimits P (execPref a i s) := by
  refine run_limits h fun t ht => ?_
  dsimp only
  split
  · simpa using ht
  · rw [State.advance_limits, State.takeMisses_limits, foldl_fst_limits]
    · exact ht
    · intro a x
      repeat' split
      all_goals simp

theorem cacheControl_limits {P} {act a i} {s : State} (h : P s.limits) (hact : ∀ t n, (act t n).limits = t.limits) :
    NextLimits P (cacheControl act a i s) :=
  run_limits h fun t ht => by simpa [hact] using ht
theorem execL1Fill_limits {P} {s : State} {core line} (h : P s.limits) : NextLimits P (execL1Fill core line s) := by
  simp only [execL1Fill]; split <;> simp [h]
theorem execStoreLost_limits {P} {s : State} {core place} (h : P s.limits) : NextLimits P (execStoreLost core place s) := by
  simp only [execStoreLost]; split <;> simp [h]
@[simp] theorem State.takeBack_limits (s : State) (key e rs) : (s.takeBack key e rs).limits = s.limits := by
  simp [State.takeBack]
@[simp] theorem State.timeoutWait_limits (s : State) (key w) : (s.timeoutWait key w).limits = s.limits := by
  simp only [State.timeoutWait]; split <;> simp

theorem execAccessTimeout_limits {P} {s : State} {key place lanes} (h : P s.limits) :
    NextLimits P (execAccessTimeout key place lanes s) := by
  simp only [execAccessTimeout]
  repeat' split
  all_goals simp [h]

theorem execPromotionRequest_limits {P} {s : State} {line} (h : P s.limits) : NextLimits P (execPromotionRequest line s) := by
  simp [execPromotionRequest, h]

/-! ### Atomics, waits and monitors (07) -/

@[simp] theorem State.groupAtomics_limits (s : State) (core n op l) : (s.groupAtomics core n op l).1.limits = s.limits :=
  foldl_fst_limits _ (fun p x => by dsimp only; split <;> (rename_i heq; simp [limits_of_eq heq])) _ _

@[simp] theorem State.atomicLanes_limits (s : State) (us align n narrow op addr elems b d diff k)
    (hk : ∀ t m l p q, (k t m l p q).limits = t.limits) :
    (s.atomicLanes us align n narrow op addr elems b d diff k).limits = s.limits := by
  simp [State.atomicLanes, hk]

theorem atomic_limits {P} {s : State} {n op cas e g d a b} (h : P s.limits) : NextLimits P (atomic n op cas e g d a b s) := by
  simp [atomic, h]
theorem vectorAtomic_limits {P} {s : State} {n op e g a b} (h : P s.limits) : NextLimits P (vectorAtomic n op e g a b s) := by
  simp [vectorAtomic, h]
theorem execWaitc_limits {P} {s : State} {e g sel t c w r b} (h : P s.limits) : NextLimits P (execWaitc e g sel t c w r b s) := by
  simp [execWaitc, h]
theorem execCwp_limits {P} {s : State} {e g a b} (h : P s.limits) : NextLimits P (execCwp e g a b s) := by
  simp [execCwp, h]
theorem execCwait_limits {P} {s : State} {e a} (h : P s.limits) : NextLimits P (execCwait e a s) := by
  simp [execCwait, h]
theorem execMonitorFire_limits {P} {s : State} {place} (h : P s.limits) : NextLimits P (execMonitorFire place s) := by
  simp only [execMonitorFire]
  repeat' split
  all_goals simp [h]
theorem execMonitorWake_limits {P} {s : State} {key} (h : P s.limits) : NextLimits P (execMonitorWake key s) := by
  simp only [execMonitorWake]; split <;> simp [h]
theorem execWaitcPoll_limits {P} {s : State} {key} (h : P s.limits) : NextLimits P (execWaitcPoll key s) := by
  simp only [execWaitcPoll]
  repeat' split
  all_goals simp [h]

/-! ### Vector integer instructions (08) -/

theorem vecBin_limits {P} {s : State} {f e g d a b} (h : P s.limits) : NextLimits P (vecBin f e g d a b s) := by
  simp [vecBin, h]
theorem vecMod_limits {P} {s : State} {f e g d a b} (h : P s.limits) : NextLimits P (vecMod f e g d a b s) := by
  simp [vecMod, h]
theorem vecUn_limits {P} {s : State} {f e d a} (h : P s.limits) : NextLimits P (vecUn f e d a s) := by
  simp [vecUn, h]
theorem vecImm_limits {P} {s : State} {f bad imm d a} (h : P s.limits) : NextLimits P (vecImm f bad imm d a s) := by
  simp [vecImm, h]
theorem vecShuffle_limits {P} {s : State} {index e f d a b} (h : P s.limits) : NextLimits P (vecShuffle index e f d a b s) := by
  simp [vecShuffle, h]
@[simp] theorem State.writeLaneScalar_limits (s : State) (d v) : (s.writeLaneScalar d v).limits = s.limits := by
  simp [State.writeLaneScalar]
theorem execVrdlane_limits {P} {s : State} {e g d a b} (h : P s.limits) : NextLimits P (execVrdlane e g d a b s) := by
  simp [execVrdlane, h]
theorem execVwrlane_limits {P} {s : State} {e g d a b} (h : P s.limits) : NextLimits P (execVwrlane e g d a b s) := by
  simp [execVwrlane, h]
theorem vecReduce_limits {P} {s : State} {op signed e d a} (h : P s.limits) : NextLimits P (vecReduce op signed e d a s) := by
  simp [vecReduce, h]
theorem execVscanadd_limits {P} {s : State} {e d a} (h : P s.limits) : NextLimits P (execVscanadd e d a s) := by
  simp [execVscanadd, h]
theorem execVballot_limits {P} {s : State} {e d a} (h : P s.limits) : NextLimits P (execVballot e d a s) := by
  simp [execVballot, h]

/-! ### Vector float instructions (08, 09) -/

@[simp] theorem State.queueFloat_limits (s : State) (d wide r) : (s.queueFloat d wide r).limits = s.limits := by
  simp [State.queueFloat]
theorem vecFloat_limits {P} {s : State} {us wideA wideB wideD modify a b d op bad slow} (h : P s.limits) :
    NextLimits P (vecFloat us wideA wideB wideD modify a b d op s bad slow) := by
  simp [vecFloat, h]

theorem vecFloat3_limits {P} {op modify narrow t e g d a b} {s : State} (h : P s.limits) :
    NextLimits P (vecFloat3 op modify narrow t e g d a b s) := by
  unfold vecFloat3
  exact vecFloat_limits h

theorem vecFloat1_limits {P} {op narrow slow t e d a} {s : State} (h : P s.limits) :
    NextLimits P (vecFloat1 op narrow slow t e d a s) := by
  unfold vecFloat1
  exact vecFloat_limits h

theorem vecConvert_limits {P} {sat e d a c} {s : State} (h : P s.limits) : NextLimits P (vecConvert sat e d a c s) := by
  unfold vecConvert
  exact vecFloat_limits h
theorem vecPack_limits {P} {f e g d a b} {s : State} (h : P s.limits) : NextLimits P (vecPack f e g d a b s) := by
  unfold vecPack
  exact vecFloat_limits h
theorem vecScale_limits {P} {t e g d a b} {s : State} (h : P s.limits) : NextLimits P (vecScale t e g d a b s) := by
  unfold vecScale
  exact vecFloat_limits h
theorem vecDot2_limits {P} {f e g d a b} {s : State} (h : P s.limits) : NextLimits P (vecDot2 f e g d a b s) := by
  unfold vecDot2
  exact vecFloat_limits h
@[simp] theorem State.writeFloat_limits (s : State) (k f) : (s.writeFloat k f).limits = s.limits := by
  simp only [State.writeFloat]
  repeat' split
  all_goals simp
theorem execFloatWriteback_limits {P} {s : State} {key place} (h : P s.limits) :
    NextLimits P (execFloatWriteback key place s) := by
  simp only [execFloatWriteback]; split <;> simp [h]

/-! ### Scalar instructions (06) -/

@[simp] theorem State.raiseNoAddress_limits (s : State) (c) : (s.raiseNoAddress c).limits = s.limits := by
  simp [State.raiseNoAddress]
theorem scaBin_limits {P} {s : State} {f e g d a b} (h : P s.limits) : NextLimits P (scaBin f e g d a b s) := by
  simp [scaBin, h]
theorem scaMod_limits {P} {s : State} {f bad e g d a b} (h : P s.limits) : NextLimits P (scaMod f bad e g d a b s) := by
  simp [scaMod, h]
theorem scaDiv_limits {P} {s : State} {f e g d a b} (h : P s.limits) : NextLimits P (scaDiv f e g d a b s) := by
  simp [scaDiv, h]
theorem scaUn_limits {P} {s : State} {f e d a} (h : P s.limits) : NextLimits P (scaUn f e d a s) := by
  simp [scaUn, h]
theorem scaImm_limits {P} {s : State} {f bad imm d a} (h : P s.limits) : NextLimits P (scaImm f bad imm d a s) := by
  simp [scaImm, h]
theorem execSbfe_limits {P} {s : State} {e g d a b} (h : P s.limits) : NextLimits P (execSbfe e g d a b s) := by
  simp [execSbfe, h]
theorem execSgetst_limits {P} {s : State} {d sel} (h : P s.limits) : NextLimits P (execSgetst d sel s) := by
  simp [execSgetst, h]
theorem execSsetst_limits {P} {s : State} {e g a b} (h : P s.limits) : NextLimits P (execSsetst e g a b s) := by
  simp [execSsetst, h]
@[simp] theorem State.scalarFloat_limits (s : State) (us d r) : (s.scalarFloat us d r).limits = s.limits := by
  simp only [State.scalarFloat]; split <;> simp
theorem scaFloat_limits {P} {s : State} {op modify e g d a b} (h : P s.limits) :
    NextLimits P (scaFloat op modify e g d a b s) := by
  simp [scaFloat, h]
theorem execSfcvt_limits {P} {s : State} {e d a n} (h : P s.limits) : NextLimits P (execSfcvt e d a n s) := by
  simp [execSfcvt, h]
theorem scaLong_limits {P} {s : State} {f d i} (h : P s.limits) : NextLimits P (scaLong f d i s) := by
  simp [scaLong, h]
theorem vecLong_limits {P} {s : State} {f d i} (h : P s.limits) : NextLimits P (vecLong f d i s) := by
  simp [vecLong, h]

/-! ### Branches, spawning and barriers (06) -/

@[simp] theorem State.goto_limits (s : State) (pc) : (s.goto pc).limits = s.limits := by
  simp [State.goto]
@[simp] theorem State.checkTarget_limits (s : State) (a) (k : State → State) (hk : (k s).limits = s.limits) :
    (s.checkTarget a k).limits = s.limits := by
  simp only [State.checkTarget]; split <;> simp [hk]
@[simp] theorem State.branchOn_limits (s : State) (us z uniform a o) : (s.branchOn us z uniform a o).limits = s.limits := by
  simp [State.branchOn]
theorem branch_limits {P} {s : State} {z uniform a o} (h : P s.limits) : NextLimits P (branch z uniform a o s) := by
  simp [branch, h]
@[simp] theorem State.writeLink_limits (s : State) : (s.writeLink).limits = s.limits := by
  simp [State.writeLink]
theorem execJmp_limits {P} {s : State} {o} (h : P s.limits) : NextLimits P (execJmp o s) := by
  simp [execJmp, h]
theorem execCall_limits {P} {s : State} {o} (h : P s.limits) : NextLimits P (execCall o s) := by
  simp [execCall, h]
theorem execJr_limits {P} {s : State} {e a} (h : P s.limits) : NextLimits P (execJr e a s) := by
  simp [execJr, h]
theorem execCallr_limits {P} {s : State} {e a} (h : P s.limits) : NextLimits P (execCallr e a s) := by
  simp [execCallr, h]
theorem execBri_limits {P} {s : State} {a n} (h : P s.limits) : NextLimits P (execBri a n s) := by
  simp [execBri, h]
theorem execSloop_limits {P} {s : State} {a o} (h : P s.limits) : NextLimits P (execSloop a o s) := by
  simp [execSloop, h]
theorem execExit_limits {P} {s : State} (h : P s.limits) : NextLimits P (execExit s) := by
  simp [execExit, h]
theorem execExitto_limits {P} {s : State} {a n} (h : P s.limits) : NextLimits P (execExitto a n s) := by
  simp [execExitto, h]
theorem execSuccessorStart_limits {P} {s : State} {key} (h : P s.limits) : NextLimits P (execSuccessorStart key s) := by
  simp only [execSuccessorStart]; split <;> simp [h]
theorem execSlotFree_limits {P} {s : State} {key} (h : P s.limits) : NextLimits P (execSlotFree key s) := by
  simp [execSlotFree, h]
@[simp] theorem State.startIn_limits (s : State) (ccb n) : (s.startIn ccb n).limits = s.limits := by
  simp [State.startIn]

theorem execSpawn_limits {P} {d a} {s : State} (h : P s.limits) : NextLimits P (execSpawn d a s) := by
  refine run_limits h fun t ht => ?_
  dsimp only
  rw [State.checkTarget_limits]
  · exact ht
  · split
    · simp
    · split <;> simp

theorem execWin_limits {P} {s : State} {i} (h : P s.limits) : NextLimits P (execWin i s) := by
  simp [execWin, h]
theorem execWinq_limits {P} {s : State} {d} (h : P s.limits) : NextLimits P (execWinq d s) := by
  simp [execWinq, h]
theorem execYield_limits {P} {s : State} (h : P s.limits) : NextLimits P (execYield s) := by
  simp [execYield, h]
theorem execNop_limits {P} {s : State} (h : P s.limits) : NextLimits P (execNop s) := by
  simp [execNop, h]
theorem barrier_limits {P} {s : State} {span} (h : P s.limits) : NextLimits P (barrier span s) := by
  simp [barrier, h]
theorem execParv_limits {P} {s : State} {d n k} (h : P s.limits) : NextLimits P (execParv d n k s) := by
  simp [execParv, h]
theorem execPwait_limits {P} {s : State} {a k} (h : P s.limits) : NextLimits P (execPwait a k s) := by
  simp [execPwait, h]

theorem execProducerWriteback_limits {P} {s : State} {key place} (h : P s.limits) :
    NextLimits P (execProducerWriteback key place s) := by
  simp only [execProducerWriteback]
  repeat' split
  all_goals simp [h]

theorem execStrandAged_limits {P} {s : State} {key} (h : P s.limits) : NextLimits P (execStrandAged key s) := by
  simp [execStrandAged, h]
theorem execFrontierRefill_limits {P} {s : State} {key} (h : P s.limits) : NextLimits P (execFrontierRefill key s) := by
  simp [execFrontierRefill, h]

/-! ### Supervisor instructions (13) -/

theorem execTret_limits {P} {s : State} (h : P s.limits) : NextLimits P (execTret s) := by
  simp [execTret, h]
theorem execSighand_limits {P} {s : State} {e d a} (h : P s.limits) : NextLimits P (execSighand e d a s) := by
  simp [execSighand, h]
theorem readTrap_limits {P} {s : State} {f d} (h : P s.limits) : NextLimits P (readTrap f d s) := by
  simp [readTrap, h]
theorem execSigmask_limits {P} {s : State} {e d a} (h : P s.limits) : NextLimits P (execSigmask e d a s) := by
  simp [execSigmask, h]
theorem execSysc_limits {P} {s : State} {n} (h : P s.limits) : NextLimits P (execSysc n s) := by
  simp [execSysc, h]
theorem execBrk_limits {P} {s : State} {n} (h : P s.limits) : NextLimits P (execBrk n s) := by
  simp [execBrk, h]
@[simp] theorem State.actOn_limits (s : State) (key) (f : State → State) (hf : ∀ t, (f t).limits = t.limits) :
    (s.actOn key f).limits = s.limits := by
  simp [State.actOn, hf]
theorem execUnpark_limits {P} {s : State} {e g d a b} (h : P s.limits) : NextLimits P (execUnpark e g d a b s) := by
  simp [execUnpark, h]

theorem execSysrp_limits {P} {e g d a b} {s : State} (h : P s.limits) : NextLimits P (execSysrp e g d a b s) := by
  refine run_limits h fun t ht => ?_
  dsimp only
  split
  · simpa using ht
  · split
    · simpa using ht
    · split <;> simpa using ht

@[simp] theorem State.deliverEntry_limits (s : State) (key e code p v) : (s.deliverEntry key e code p v).limits = s.limits := by
  simp [State.deliverEntry]

theorem execSig_limits {P} {e d a} {s : State} (h : P s.limits) : NextLimits P (execSig e d a s) := by
  refine run_limits h fun t ht => ?_
  dsimp only
  split
  · simpa using ht
  · split <;> simpa using ht

theorem execTinj_limits {P} {e g d a b} {s : State} (h : P s.limits) : NextLimits P (execTinj e g d a b s) := by
  refine run_limits h fun t ht => ?_
  dsimp only
  split
  · simpa using ht
  · split
    · rw [State.advance_limits, State.writeS_limits, State.actOn_limits]
      · simpa using ht
      · intro u; split <;> simp
    · simpa using ht

theorem execPget_limits {P} {d sel} {s : State} (h : P s.limits) : NextLimits P (execPget d sel s) := by
  refine run_limits h fun t ht => ?_
  dsimp only
  split
  · simpa using ht
  · split
    · simpa using ht
    · simpa using ht

theorem execPset_limits {P} {a sel} {s : State} (h : P s.limits) : NextLimits P (execPset a sel s) := by
  refine run_limits h fun t ht => ?_
  dsimp only
  split
  · simpa using ht
  · split
    · simpa using ht
    · simpa using ht

theorem execHeldEventEntry_limits {P} {s : State} {core} (h : P s.limits) : NextLimits P (execHeldEventEntry core s) := by
  simp only [execHeldEventEntry]; split <;> simp [h]
theorem execMachineCheck_limits {P} {s : State} {ccb sub} (h : P s.limits) : NextLimits P (execMachineCheck ccb sub s) := by
  simp [execMachineCheck, h]
theorem execServiceCoreMessage_limits {P} {s : State} {core} (h : P s.limits) : NextLimits P (execServiceCoreMessage core s) := by
  simp [execServiceCoreMessage, h]

/-! ### Context bundles (14) -/

@[simp] theorem State.contextPlace_limits (s : State) (pasid k va) : (s.contextPlace pasid k va).1.limits = s.limits := by
  simp only [State.contextPlace]
  split
  · rfl
  · split
    · rfl
    · split <;> (rename_i heq; simp [limits_of_eq heq])

@[simp] theorem State.touchPages_limits (s : State) (pasid va n) : (s.touchPages pasid va n).limits = s.limits := by
  induction n generalizing s va with
  | zero => rfl
  | succ n ih =>
    simp only [State.touchPages]
    split
    · rename_i heq; simp [ih, limits_of_eq heq]
    · rfl

@[simp] theorem State.touchBundle_limits (s : State) (pasid base) : (s.touchBundle pasid base).limits = s.limits := by
  simp only [State.touchBundle]; split <;> simp

/-! ### Bins and gathering (06) -/

@[simp] theorem State.setBin_limits (s : State) (ccb b x) : (s.setBin ccb b x).limits = s.limits := by
  simp [State.setBin]
@[simp] theorem State.placeThread_limits (s : State) (st pc lane) : (s.placeThread st pc lane).limits = s.limits := by
  simp [State.placeThread]

theorem execBrs_limits {P} {a o} {s : State} (h : P s.limits) : NextLimits P (execBrs a o s) := by
  refine runCompare_limits h fun t ht => ?_
  dsimp only
  repeat' split
  all_goals simpa using ht

@[simp] theorem State.showBins_limits (s : State) (ccb) : (s.showBins ccb).limits = s.limits := by
  simp [State.showBins]
theorem execBinAgeExpiry_limits {P} {s : State} {ccb b} (h : P s.limits) : NextLimits P (execBinAgeExpiry ccb b s) := by
  simp only [execBinAgeExpiry]; split <;> simp [h]

theorem execGatherFormation_limits {P} {ccb} {s : State} (h : P s.limits) : NextLimits P (execGatherFormation ccb s) := by
  unfold execGatherFormation
  dsimp only
  split
  · exact h
  · split
    · generalize s.rangeFaults _ _ _ = faults
      split
      · simpa using h
      · rw [nextLimits_next, State.setBin_limits, State.startIn_limits, State.setCohort_limits, State.touchRange_limits]
        exact h
    · exact h

@[simp] theorem State.dropLines_limits (s : State) (core p n) : (s.dropLines core p n).limits = s.limits := by
  simp only [State.dropLines]; split <;> simp
theorem execLineFill_limits {P} {s : State} {key n} (h : P s.limits) : NextLimits P (execLineFill key n s) := by
  simp [execLineFill, h]
theorem execLineEvict_limits {P} {s : State} {key n} (h : P s.limits) : NextLimits P (execLineEvict key n s) := by
  simp [execLineEvict, h]

/-! ### Accumulator slots (11) -/

@[simp] theorem State.writeTile_limits (s : State) (ccb o n v) : (s.writeTile ccb o n v).limits = s.limits := by
  simp [State.writeTile]
@[simp] theorem State.saveAccs_limits (s : State) (core phys ccb i) : (s.saveAccs core phys ccb i).limits = s.limits := by
  simp [State.saveAccs]
@[simp] theorem State.fillAccs_limits (s : State) (core phys ccb i) : (s.fillAccs core phys ccb i).limits = s.limits := by
  simp [State.fillAccs]
@[simp] theorem State.saveTile_limits (s : State) (core phys ccb i) : (s.saveTile core phys ccb i).limits = s.limits := by
  simp [State.saveTile]
@[simp] theorem State.fillTile_limits (s : State) (core phys ccb i) : (s.fillTile core phys ccb i).limits = s.limits := by
  simp [State.fillTile]
@[simp] theorem State.changeSlot_limits (s : State) (ccb i x) : (s.changeSlot ccb i x).limits = s.limits := by
  simp [State.changeSlot]
@[simp] theorem State.saveEntry_limits (s : State) (core phys ccb i accs tile) :
    (s.saveEntry core phys ccb i accs tile).limits = s.limits := by
  simp [State.saveEntry]
@[simp] theorem State.evictSlot_limits (s : State) (core phys) : (s.evictSlot core phys).limits = s.limits := by
  simp only [State.evictSlot]; split <;> simp
@[simp] theorem State.bindEntry_limits (s : State) (core ccb i x) : (s.bindEntry core ccb i x).limits = s.limits := by
  simp only [State.bindEntry]; split <;> simp
@[simp] theorem State.grantEntry_limits (s : State) (core ccb i acquired) :
    (s.grantEntry core ccb i acquired).limits = s.limits := by
  simp [State.grantEntry]
@[simp] theorem State.releaseEntry_limits (s : State) (ccb i) : (s.releaseEntry ccb i).limits = s.limits := by
  simp [State.releaseEntry]

/-! ### The copy engine (10) -/

@[simp] theorem State.setChannel_limits (s : State) (core ccb ch l) : (s.setChannel core ccb ch l).limits = s.limits := by
  simp [State.setChannel]
@[simp] theorem State.acceptCommand_limits (s : State) (us m ch shape strides) :
    (s.acceptCommand us m ch shape strides).limits = s.limits := by
  simp only [State.acceptCommand]; split <;> simp
theorem transfer_limits {P} {s : State} {op e g c k a b} (h : P s.limits) : NextLimits P (transfer op e g c k a b s) := by
  simp [transfer, h]

@[simp] theorem Tried.andThen_limits {α β : Type} (r : Tried α) (f : State → α → Tried β)
    (hf : ∀ t a, (f t a).1.limits = t.limits) : (r.andThen f).1.limits = r.1.limits := by
  simp only [Tried.andThen]
  split
  · exact hf _ _
  · rfl

@[simp] theorem State.commandPlace_limits (s : State) (m k va) : (s.commandPlace m k va).1.limits = s.limits := by
  simp only [State.commandPlace]
  split
  · rfl
  · split
    · rfl
    · split
      · rename_i heq; simp [limits_of_eq heq]
      · rename_i heq; simp [limits_of_eq heq]
      · rename_i heq
        repeat' split
        all_goals simp [limits_of_eq heq]

@[simp] theorem State.commandRead_limits (s : State) (m va n) : (s.commandRead m va n).1.limits = s.limits := by
  simp only [State.commandRead]
  refine (Tried.andThen_limits _ _ fun _ _ => rfl).trans (foldl_fst_limits _ (fun a x => ?_) _ _)
  refine Tried.andThen_limits _ _ fun t v => (Tried.andThen_limits _ _ fun u p => ?_).trans (by simp)
  repeat' split
  all_goals rfl

@[simp] theorem State.sendWrite_limits (s : State) (core p n v f) : (s.sendWrite core p n v f).limits = s.limits := by
  simp [State.sendWrite]
@[simp] theorem State.commandPut_limits (s : State) (m w va p n v) : (s.commandPut m w va p n v).limits = s.limits := by
  simp [State.commandPut]
@[simp] theorem State.raisePointer_limits (s : State) (m w p v) : (s.raisePointer m w p v).limits = s.limits := by
  simp [State.raisePointer]
@[simp] theorem State.peerAck_limits (s : State) (core place) : (s.peerAck core place).limits = s.limits := by
  simp only [State.peerAck]
  repeat' split
  all_goals simp
@[simp] theorem State.lostWord_limits (s : State) (p v) : (s.lostWord p v).limits = s.limits := by
  simp [State.lostWord]
@[simp] theorem State.lostPut_limits (s : State) (p n v) : (s.lostPut p n v).limits = s.limits := by
  simp [State.lostPut]
@[simp] theorem State.putSlot_limits (s : State) (ccb m v) : (s.putSlot ccb m v).limits = s.limits := by
  simp [State.putSlot]

@[simp] theorem State.pickIndex_limits (s : State) (m) : (s.pickIndex m).1.limits = s.limits := by
  simp only [State.pickIndex]
  repeat' split
  all_goals simp

@[simp] theorem State.unitSource_limits (s : State) (ccb m i) : (s.unitSource ccb m i).1.limits = s.limits := by
  simp only [State.unitSource]
  repeat' split
  all_goals simp

@[simp] theorem State.pointerPlace_limits (s : State) (m) : (s.pointerPlace m).1.limits = s.limits := by
  simp only [State.pointerPlace]
  split
  · rfl
  · refine (Tried.andThen_limits _ _ fun t p => ?_).trans (by simp)
    split <;> rfl

@[simp] theorem State.unitPlace_limits (s : State) (m a) : (s.unitPlace m a).1.limits = s.limits := by
  simp only [State.unitPlace]
  split <;> simp
@[simp] theorem State.putUnit_limits (s : State) (w m a p v) : (s.putUnit w m a p v).limits = s.limits := by
  simp only [State.putUnit]
  repeat' split
  all_goals simp

@[simp] theorem State.deliverUnit_limits (s : State) (w m) : (s.deliverUnit w m).1.limits = s.limits := by
  simp only [State.deliverUnit]
  refine (Tried.andThen_limits _ _ fun _ _ => (Tried.andThen_limits _ _ fun _ _ => (Tried.andThen_limits _ _ fun _ _ =>
    (Tried.andThen_limits _ _ fun _ _ => ?_).trans (by simp)).trans (by simp)).trans (by simp)).trans (by simp)
  split
  · simp
  · split <;> simp

@[simp] theorem State.setHead_limits (s : State) (core ccb ch m) : (s.setHead core ccb ch m).limits = s.limits := by
  simp [State.setHead]
@[simp] theorem State.dropHead_limits (s : State) (core ccb ch) : (s.dropHead core ccb ch).limits = s.limits := by
  simp [State.dropHead]

@[simp] theorem State.channelAction_limits (s : State) (core ccb ch m) : (s.channelAction core ccb ch m).1.limits = s.limits := by
  simp only [State.channelAction]
  repeat' split
  all_goals simp

theorem channelStep_limits {P} {kind core ccb ch} {s : State} (h : P s.limits) :
    NextLimits P (channelStep kind core ccb ch s) := by
  simp only [channelStep]
  split
  · exact h
  · split
    · exact h
    · split <;> (rename_i heq; simp [h, limits_of_eq heq])

theorem execChannelFault_limits {P} {core ccb ch} {s : State} (h : P s.limits) :
    NextLimits P (execChannelFault core ccb ch s) := by
  simp only [execChannelFault]
  split
  · exact h
  · split
    · exact h
    · split <;> (rename_i heq; simp [h, limits_of_eq heq])

theorem repair_limits {P} {f e g d a b} {s : State} (h : P s.limits) : NextLimits P (repair f e g d a b s) := by
  refine run_limits h fun t ht => ?_
  dsimp only
  split
  · simpa using ht
  · split
    · split <;> simpa using ht
    · simpa using ht

theorem execCcan_limits {P} {s : State} {c} (h : P s.limits) : NextLimits P (execCcan c s) := by
  simp [execCcan, h]
theorem execCdone_limits {P} {s : State} {e d a} (h : P s.limits) : NextLimits P (execCdone e d a s) := by
  simp [execCdone, h]
@[simp] theorem State.tileFlawed_limits (s : State) (k : State → State) (hk : (k s).limits = s.limits) :
    (s.tileFlawed k).limits = s.limits := by
  simp [State.tileFlawed, hk]

theorem tileAccess_limits {P} {reads e d a m n} {s : State} {k} (h : P s.limits) (hk : ∀ t x, (k t x).limits = t.limits) :
    NextLimits P (tileAccess reads e d a m n s k) := by
  refine runPoint_limits h fun t ht => ?_
  split
  · simpa using ht
  · simpa [hk] using ht

/-! ### The matrix engine (11) -/

@[simp] theorem State.cleanLatch_limits (s : State) (core) : (s.cleanLatch core).limits = s.limits := by
  simp [State.cleanLatch]
@[simp] theorem State.arrive_limits (s : State) (new a) : (s.arrive new a).limits = s.limits := by
  simp only [State.arrive]
  repeat' split
  all_goals simp

theorem mma_limits {P} {form e g k sel z a b} {s : State} (h : P s.limits) : NextLimits P (mma form e g k sel z a b s) := by
  refine runPoint_limits h fun t ht => ?_
  dsimp only
  repeat' split
  all_goals simpa using ht

theorem execMgang_limits {P} {s : State} {e a} (h : P s.limits) : NextLimits P (execMgang e a s) := by
  simp [execMgang, h]
theorem execMcfg_limits {P} {s : State} {d c} (h : P s.limits) : NextLimits P (execMcfg d c s) := by
  simp [execMcfg, h]
theorem execMacq_limits {P} {s : State} {d w n} (h : P s.limits) : NextLimits P (execMacq d w n s) := by
  simp [execMacq, h]
theorem execMacqRetry_limits {P} {s : State} {key} (h : P s.limits) : NextLimits P (execMacqRetry key s) := by
  simp only [execMacqRetry]; split <;> simp [h]
@[simp] theorem State.dropDrains_limits (s : State) (c p) : (s.dropDrains c p).limits = s.limits := by
  simp [State.dropDrains]
theorem execMrel_limits {P} {s : State} {a} (h : P s.limits) : NextLimits P (execMrel a s) := by
  simp [execMrel, h]
theorem execMzero_limits {P} {s : State} {k} (h : P s.limits) : NextLimits P (execMzero k s) := by
  simp [execMzero, h]
theorem execAspill_limits {P} {s : State} {e g d a b} (h : P s.limits) : NextLimits P (execAspill e g d a b s) := by
  simp [execAspill, h]
theorem execAfill_limits {P} {s : State} {e g d a b} (h : P s.limits) : NextLimits P (execAfill e g d a b s) := by
  simp [execAfill, h]
theorem execMdrain_limits {P} {s : State} {e d a v} (h : P s.limits) : NextLimits P (execMdrain e d a v s) := by
  simp [execMdrain, h]
theorem execDrainEntryReady_limits {P} {s : State} {key q bad} (h : P s.limits) :
    NextLimits P (execDrainEntryReady key q bad s) := by
  simp only [execDrainEntryReady]; split <;> simp [h]
theorem execMstat_limits {P} {s : State} {e d a} (h : P s.limits) : NextLimits P (execMstat e d a s) := by
  simp [execMstat, h]
theorem execMwait_limits {P} {s : State} {e a} (h : P s.limits) : NextLimits P (execMwait e a s) := by
  simp [execMwait, h]
@[simp] theorem State.releaseGang_limits (s : State) (g) : (s.releaseGang g).limits = s.limits := by
  simp [State.releaseGang]

theorem execRendezvousComplete_limits {P} {s0 : State} {core place} (h : P s0.limits) :
    NextLimits P (execRendezvousComplete core place s0) := by
  simp only [execRendezvousComplete]
  repeat' split
  all_goals simp [h]

@[simp] theorem State.pauseGangs_limits (s : State) (core n) : (s.pauseGangs core n).limits = s.limits := by
  simp [State.pauseGangs]
theorem execRendezvousTimeout_limits {P} {s0 : State} {core place} (h : P s0.limits) :
    NextLimits P (execRendezvousTimeout core place s0) := by
  simp only [execRendezvousTimeout]; split <;> simp [h]
@[simp] theorem State.withdrawArrivals_limits (s : State) (ccb) : (s.withdrawArrivals ccb).limits = s.limits := by
  simp [State.withdrawArrivals]
@[simp] theorem State.runOp_limits (s : State) (o error) : (s.runOp o error).limits = s.limits := by
  simp [State.runOp]
theorem execMmaOperationComplete_limits {P} {s : State} {core error column} (h : P s.limits) :
    NextLimits P (execMmaOperationComplete core error column s) := by
  simp only [execMmaOperationComplete]; split <;> simp [h]
theorem execMxnSet_limits {P} {s : State} {core} (h : P s.limits) : NextLimits P (execMxnSet core s) := by
  simp [execMxnSet, h]

/-! ### Admission of a group (14) -/

@[simp] theorem State.scrambleBitmap_limits (s : State) (slot) : (s.scrambleBitmap slot).limits = s.limits := by
  simp [State.scrambleBitmap]

theorem State.takeFrames_limits (s : State) (slot n) {r} (h : s.takeFrames slot n = some r) : r.1.limits = s.limits := by
  simp only [State.takeFrames] at h
  split at h <;> cases h
  simp

theorem State.takePrivate_limits (s : State) (slot) {r} (h : s.takePrivate slot = some r) : r.1.limits = s.limits := by
  simp only [State.takePrivate] at h
  split at h <;> cases h
  simp

@[simp] theorem State.returnMemory_limits (s : State) (slot frames privs) :
    (s.returnMemory slot frames privs).limits = s.limits := by
  simp [State.returnMemory]

theorem State.takeRuns_limits (s : State) (slot l) {r} (h : s.takeRuns slot l = some r) : r.1.limits = s.limits := by
  induction l generalizing s r with
  | nil => cases h; rfl
  | cons n t ih =>
    simp only [State.takeRuns] at h
    split at h
    · obtain ⟨x, hx, rfl⟩ := Option.map_eq_some_iff.1 h
      exact (ih s hx :)
    · split at h
      · cases h
      · rename_i heq
        obtain ⟨x, hx, rfl⟩ := Option.map_eq_some_iff.1 h
        exact (ih _ hx :).trans (s.takeFrames_limits slot n heq)

theorem State.takePrivates_limits (s : State) (slot n) {r} (h : s.takePrivates slot n = some r) : r.1.limits = s.limits := by
  induction n generalizing s r with
  | zero => cases h; rfl
  | succ n ih =>
    simp only [State.takePrivates] at h
    split at h
    · cases h
    · rename_i heq
      obtain ⟨x, hx, rfl⟩ := Option.map_eq_some_iff.1 h
      exact (ih _ hx :).trans (s.takePrivate_limits slot heq)

@[simp] theorem State.promote_limits (s : State) (ccb) : (s.promote ccb).limits = s.limits := by
  simp [State.promote]

@[simp] theorem State.startCohort_limits (s : State) (c privs) : (s.startCohort c privs).limits = s.limits := by
  simp only [State.startCohort, State.saveCohort_limits]
  refine (foldl_limits _ (fun s i => by simp) _ _).trans ((foldl_limits _ (fun s x => ?_) _ _).trans (by simp))
  split <;> simp

theorem State.admitOne_limits (s : State) (x v core launch span pos size spanImage) {r}
    (h : s.admitOne x v core launch span pos size spanImage = some r) : r.1.limits = s.limits := by
  simp only [State.admitOne] at h
  split at h
  · cases h
  · rename_i hruns
    split at h
    · cases h
    · rename_i hprivs
      cases h
      simp [State.takePrivates_limits _ _ _ hprivs, State.takeRuns_limits _ _ _ hruns]

theorem State.admitAll_limits (s : State) (x v launch span size spanImage pos cores) {r}
    (h : s.admitAll x v launch span size spanImage pos cores = some r) : r.1.limits = s.limits := by
  induction cores generalizing s pos r with
  | nil => cases h; rfl
  | cons core t ih =>
    simp only [State.admitAll] at h
    split at h
    · cases h
    · rename_i hone
      obtain ⟨y, hy, rfl⟩ := Option.map_eq_some_iff.1 h
      exact (ih _ _ hy :).trans (State.admitOne_limits _ _ _ _ _ _ _ _ _ hone)

theorem State.launchOf_limits (s : State) (q x) {r} (h : s.launchOf q x = some r) : r.1.limits = s.limits := by
  simp only [State.launchOf] at h
  split at h
  · cases h; rfl
  · split at h
    · cases h
    · rename_i hframes
      cases h
      simp [State.takeFrames_limits _ _ _ hframes]

theorem State.spanOf_limits (s : State) (slot size) {r} (h : s.spanOf slot size = some r) : r.1.limits = s.limits := by
  simp only [State.spanOf] at h
  split at h
  · cases h; rfl
  · split at h
    · cases h
    · rename_i hframes
      cases h
      simp [State.takeFrames_limits _ _ _ hframes]

theorem State.admitGroup_limits (s : State) (q x v cores) {r} (h : s.admitGroup q x v cores = some r) :
    r.1.limits = s.limits := by
  simp only [State.admitGroup] at h
  split at h
  · cases h
  · rename_i hlaunch
    split at h
    · cases h
    · rename_i hspan
      split at h
      · cases h
      · rename_i hall
        cases h
        simp [State.admitAll_limits _ _ _ _ _ _ _ _ _ hall, State.spanOf_limits _ _ _ hspan, State.launchOf_limits _ _ _ hlaunch]

/-! ### Queues, records and joins (14) -/

@[simp] theorem State.setQueue_limits (s : State) (q x) : (s.setQueue q x).limits = s.limits := by
  simp [State.setQueue]
@[simp] theorem State.setQueueWord_limits (s : State) (q off v) : (s.setQueueWord q off v).limits = s.limits := by
  simp [State.setQueueWord]
@[simp] theorem State.unwatch_limits (s : State) (q) : (s.unwatch q).limits = s.limits := by
  simp [State.unwatch]

@[simp] theorem State.watchWord_limits (s : State) (q off cond cmp w) : (s.watchWord q off cond cmp w).limits = s.limits := by
  unfold State.watchWord
  dsimp only
  split <;> simp

@[simp] theorem State.showPoll_limits (s : State) (q) : (s.showPoll q).limits = s.limits := by
  simp [State.showPoll]
@[simp] theorem State.writeStatus_limits (s : State) (q code idx) : (s.writeStatus q code idx).limits = s.limits := by
  simp [State.writeStatus]
@[simp] theorem State.stopQueue_limits (s : State) (q code idx) : (s.stopQueue q code idx).limits = s.limits := by
  simp [State.stopQueue]
@[simp] theorem State.waitQueue_limits (s : State) (q code idx) : (s.waitQueue q code idx).limits = s.limits := by
  simp [State.waitQueue]
@[simp] theorem State.stickStatus_limits (s : State) (q bit) : (s.stickStatus q bit).limits = s.limits := by
  simp [State.stickStatus]
@[simp] theorem State.watchTail_limits (s : State) (q) : (s.watchTail q).limits = s.limits := by
  simp [State.watchTail]
@[simp] theorem State.watchTails_limits (s : State) : (s.watchTails).limits = s.limits := by
  simp [State.watchTails]
@[simp] theorem State.unwatchTails_limits (s : State) : (s.unwatchTails).limits = s.limits := by
  simp [State.unwatchTails]
theorem execTailPoll_limits {P} {s : State} {q} (h : P s.limits) : NextLimits P (execTailPoll q s) := by
  simp [execTailPoll, h]
theorem execTailRead_limits {P} {s : State} {q} (h : P s.limits) : NextLimits P (execTailRead q s) := by
  simp [execTailRead, h]
theorem execQueueResume_limits {P} {s : State} {q} (h : P s.limits) : NextLimits P (execQueueResume q s) := by
  simp [execQueueResume, h]
@[simp] theorem State.touchRecord_limits (s : State) (w) : (s.touchRecord w).limits = s.limits := by
  simp [State.touchRecord]
@[simp] theorem State.dropCode_limits (s : State) : (s.dropCode).limits = s.limits := by
  simp [State.dropCode]
theorem execRecordPop_limits {P} {s : State} {q} (h : P s.limits) : NextLimits P (execRecordPop q s) := by
  simp only [execRecordPop]
  repeat' split
  all_goals simp [h]

theorem State.placeNext_limits (s : State) (q x) {r} (h : s.placeNext q x = .ok r) : r.1.limits = s.limits := by
  simp only [State.placeNext] at h
  split at h
  · cases h
  · split at h
    · cases h
    · rename_i hgroup
      cases h
      simp [State.admitGroup_limits _ _ _ _ _ hgroup]

@[simp] theorem State.finishHead_limits (s : State) (q x) : (s.finishHead q x).limits = s.limits := by
  simp [State.finishHead]

theorem execCohortPlacement_limits {P} {q} {s : State} (h : P s.limits) : NextLimits P (execCohortPlacement q s) := by
  simp only [execCohortPlacement]
  split
  · exact h
  · split
    · exact h
    · split
      · simpa using h
      · rename_i hplace
        have hp := s.placeNext_limits _ _ hplace
        simp [h, hp]

theorem execPromotion_limits {P} {s : State} {ccb} (h : P s.limits) : NextLimits P (execPromotion ccb s) := by
  simp [execPromotion, h]
theorem execStarvationAge_limits {P} {s : State} {record id} (h : P s.limits) : NextLimits P (execStarvationAge record id s) := by
  simp [execStarvationAge, h]
@[simp] theorem State.enqueue_limits (s : State) (pasid b rec_) : (s.enqueue pasid b rec_).1.limits = s.limits := by
  simp only [State.enqueue]
  repeat' split
  all_goals simp [-Nat.reducePow]
theorem execEnq_limits {P} {s : State} {e g d a b} (h : P s.limits) : NextLimits P (execEnq e g d a b s) := by
  simp [execEnq, h]

@[simp] theorem State.chainParent_limits (s : State) (pasid word) : (s.chainParent pasid word).limits = s.limits := by
  have place : (if word % 2 ^ 56 % 64 = 0 then s.contextPlace pasid .atomic (word % 2 ^ 56)
      else (s, .error .misaligned)).1.limits = s.limits := by
    split <;> simp
  simp only [State.chainParent]
  split
  · rename_i heq
    simp [(limits_of_eq heq).trans place]
  · rename_i heq
    have h1 := (limits_of_eq heq).trans place
    split <;> simp [h1]

theorem execJoin_limits {P} {e d a} {s : State} (h : P s.limits) : NextLimits P (execJoin e d a s) := by
  refine runPoint_limits h fun t ht => ?_
  dsimp only
  split
  · simpa using ht
  · split
    · rename_i heq; simpa [limits_of_eq heq] using ht
    · rename_i heq
      split
      · simpa using ht
      · split
        · rename_i hread; simpa [limits_of_eq hread, limits_of_eq heq] using ht
        · rename_i hread; simpa [limits_of_eq hread, limits_of_eq heq] using ht

@[simp] theorem State.completeJoin_limits (s : State) (l) : (s.completeJoin l).limits = s.limits := by
  simp only [State.completeJoin]
  split
  · rfl
  · split <;> (rename_i heq; simp [limits_of_eq heq])

theorem execLaunchCompletion_limits {P} {s : State} {id} (h : P s.limits) : NextLimits P (execLaunchCompletion id s) := by
  simp only [execLaunchCompletion]; split <;> simp [h]

/-! ### Swaps, quanta and completion (14) -/

@[simp] theorem State.countSwitch_limits (s : State) (shift) : (s.countSwitch shift).limits = s.limits := by
  simp [State.countSwitch]
@[simp] theorem State.releaseSwitch_limits (s : State) (c) : (s.releaseSwitch c).limits = s.limits := by
  simp [State.releaseSwitch]
@[simp] theorem State.dropSwitch_limits (s : State) (ccb) : (s.dropSwitch ccb).limits = s.limits := by
  simp [State.dropSwitch]
@[simp] theorem State.endMeet_limits (s : State) (ccb) : (s.endMeet ccb).limits = s.limits := by
  simp [State.endMeet]
@[simp] theorem State.leaveOwners_limits (s : State) (c) : (s.leaveOwners c).limits = s.limits := by
  simp [State.leaveOwners]
@[simp] theorem State.keepEvents_limits (s : State) (ccb) : (s.keepEvents ccb).limits = s.limits := by
  simp [State.keepEvents]
@[simp] theorem State.swapOutOne_limits (s : State) (ccb) : (s.swapOutOne ccb).limits = s.limits := by
  simp [State.swapOutOne]
@[simp] theorem State.checkedMove_limits (s : State) (g reads) (k : State → State) (hk : (k s).limits = s.limits) :
    (s.checkedMove g reads k).limits = s.limits := by
  simp only [State.checkedMove]; split <;> simp [hk]
@[simp] theorem State.swapOut_limits (s : State) (ccb) : (s.swapOut ccb).limits = s.limits := by
  simp [State.swapOut]
@[simp] theorem State.sendAway_limits (s : State) (ccb l) : (s.sendAway ccb l).limits = s.limits := by
  simp [State.sendAway]
theorem execSwapOut_limits {P} {s : State} {ccb} (h : P s.limits) : NextLimits P (execSwapOut ccb s) := by
  simp [execSwapOut, h]
@[simp] theorem State.retakeEntry_limits (s : State) (core ccb i) : (s.retakeEntry core ccb i).limits = s.limits := by
  simp only [State.retakeEntry]; split <;> simp
@[simp] theorem State.rebindEntry_limits (s : State) (core ccb i) : (s.rebindEntry core ccb i).limits = s.limits := by
  simp only [State.rebindEntry]
  repeat' split
  all_goals simp
@[simp] theorem State.rebind_limits (s : State) (core ccb) : (s.rebind core ccb).limits = s.limits := by
  simp [State.rebind]
@[simp] theorem State.raiseMoved_limits (s : State) (k) : (s.raiseMoved k).limits = s.limits := by
  simp only [State.raiseMoved]
  repeat' split
  all_goals simp
@[simp] theorem State.raiseAllMoved_limits (s : State) (ks) : (s.raiseAllMoved ks).limits = s.limits := by
  simp [State.raiseAllMoved]
@[simp] theorem State.loadStrands_limits (s : State) (ccb core) : (s.loadStrands ccb core).limits = s.limits := by
  simp [State.loadStrands]
@[simp] theorem State.swapInOne_limits (s : State) (ccb core) : (s.swapInOne ccb core).limits = s.limits := by
  simp [State.swapInOne]
@[simp] theorem State.touchImages_limits (s : State) (ccb) : (s.touchImages ccb).limits = s.limits := by
  simp [State.touchImages]
@[simp] theorem State.swapIn_limits (s : State) (ccb now cores) : (s.swapIn ccb now cores).limits = s.limits := by
  simp [State.swapIn]
theorem execSwapIn_limits {P} {s : State} {ccb} (h : P s.limits) : NextLimits P (execSwapIn ccb s) := by
  simp only [execSwapIn]
  repeat' split
  all_goals simp [h]
@[simp] theorem State.demoteOne_limits (s : State) (ccb) : (s.demoteOne ccb).limits = s.limits := by
  simp [State.demoteOne]
theorem execDemotion_limits {P} {s : State} {ccb} (h : P s.limits) : NextLimits P (execDemotion ccb s) := by
  simp [execDemotion, h]

theorem execQuantumExpiry_limits {P} {s : State} {ccb} (h : P s.limits) : NextLimits P (execQuantumExpiry ccb s) := by
  simp only [execQuantumExpiry]
  repeat' split
  all_goals simp [h]

@[simp] theorem State.takeVictims_limits (i cores l) (b s : State) : (State.takeVictims i cores l b s).limits = s.limits := by
  induction l generalizing b s with
  | nil => rfl
  | cons v t ih => simp [State.takeVictims, ih]

theorem execPreemption_limits {P} {s : State} (h : P s.limits) : NextLimits P (execPreemption s) := by
  simp only [execPreemption]
  repeat' split
  all_goals simp [h]
theorem execAccDeadlockSwap_limits {P} {s : State} {core} (h : P s.limits) : NextLimits P (execAccDeadlockSwap core s) := by
  simp only [execAccDeadlockSwap]; split <;> simp [h]
theorem execMigration_limits {P} {s : State} {ccb core} (h : P s.limits) : NextLimits P (execMigration ccb core s) := by
  simp only [execMigration]
  repeat' split
  all_goals simp [h]
@[simp] theorem State.leaveSpan_limits (s : State) (c) : (s.leaveSpan c).limits = s.limits := by
  simp [State.leaveSpan]
@[simp] theorem State.countLaunch_limits (s : State) (c) : (s.countLaunch c).limits = s.limits := by
  simp only [State.countLaunch]; split <;> simp
@[simp] theorem State.removeCohort_limits (s : State) (ccb) : (s.removeCohort ccb).limits = s.limits := by
  simp [State.removeCohort]
@[simp] theorem State.endCohort_limits (s : State) (ccb counts) : (s.endCohort ccb counts).limits = s.limits := by
  simp [State.endCohort]
theorem execCohortCompletion_limits {P} {s : State} {ccb} (h : P s.limits) : NextLimits P (execCohortCompletion ccb s) := by
  simp [execCohortCompletion, h]
@[simp] theorem State.stopDead_limits (s : State) (c) : (s.stopDead c).limits = s.limits := by
  simp [State.stopDead]
@[simp] theorem State.stopAllDead_limits (s : State) : (s.stopAllDead).limits = s.limits := by
  simp [State.stopAllDead]
@[simp] theorem State.followDispatch_limits (s : State) : (s.followDispatch).limits = s.limits := by
  simp [State.followDispatch]
@[simp] theorem State.holdGroup_limits (s : State) (ccb hold pin) : (s.holdGroup ccb hold pin).limits = s.limits := by
  simp [State.holdGroup]
@[simp] theorem State.awaitOut_limits (s : State) (ccb) (k : State → State) (hk : ∀ t, (k t).limits = t.limits) :
    (s.awaitOut ccb k).limits = s.limits := by
  simp [State.awaitOut, hk]
theorem execSwapo_limits {P} {s : State} {e g d a b} (h : P s.limits) : NextLimits P (execSwapo e g d a b s) := by
  simp [execSwapo, h]
theorem execSwapi_limits {P} {s : State} {e g d a b} (h : P s.limits) : NextLimits P (execSwapi e g d a b s) := by
  simp [execSwapi, h]

/-! ### Variant switches (14) -/

@[simp] theorem State.setRequest_limits (s : State) (ccb r) : (s.setRequest ccb r).limits = s.limits := by
  simp [State.setRequest]
@[simp] theorem State.lapse_limits (s : State) (ccb) : (s.lapse ccb).limits = s.limits := by
  simp [State.lapse]
@[simp] theorem State.replaceRequest_limits (s : State) (ccb r) : (s.replaceRequest ccb r).limits = s.limits := by
  simp [State.replaceRequest]
@[simp] theorem State.followSwitch_limits (s : State) (ccb) : (s.followSwitch ccb).limits = s.limits := by
  simp only [State.followSwitch]
  repeat' split
  all_goals simp
theorem execSwitchRequest_limits {P} {s : State} {ccb target} (h : P s.limits) :
    NextLimits P (execSwitchRequest ccb target s) := by
  simp only [execSwitchRequest]; split <;> simp [h]
theorem execVreq_limits {P} {s : State} {e g d a b} (h : P s.limits) : NextLimits P (execVreq e g d a b s) := by
  simp [execVreq, h]
@[simp] theorem State.badSwitch_limits (s : State) (ccb point) : (s.badSwitch ccb point).limits = s.limits := by
  simp [State.badSwitch]

theorem execVsw_limits {P} {k} {s : State} (h : P s.limits) : NextLimits P (execVsw k s) := by
  refine run_limits h fun t ht => ?_
  dsimp only
  repeat' split
  all_goals simpa using ht

@[simp] theorem State.switchSlots_limits (s : State) (ccb acc) : (s.switchSlots ccb acc).limits = s.limits := by
  simp [State.switchSlots]

@[simp] theorem State.switchStrands_limits (s : State) (ccb p q mapped) : (s.switchStrands ccb p q mapped).limits = s.limits := by
  simp only [State.switchStrands]
  split
  · simp
  · refine (foldl_limits _ (fun s x => by simp) _ _).trans (foldl_limits _ (fun s x => ?_) _ _)
    split <;> simp

@[simp] theorem State.raiseHeld_limits (s : State) (ks) : (s.raiseHeld ks).limits = s.limits := by
  simp [State.raiseHeld]
@[simp] theorem State.switch_limits (s : State) (ccb new p q) : (s.switch ccb new p q).limits = s.limits := by
  simp [State.switch]
theorem execVariantSwitch_limits {P} {s : State} {ccb} (h : P s.limits) : NextLimits P (execVariantSwitch ccb s) := by
  simp only [execVariantSwitch]
  repeat' split
  all_goals simp [h]
theorem execSwitchTimeout_limits {P} {s : State} {ccb} (h : P s.limits) : NextLimits P (execSwitchTimeout ccb s) := by
  simp only [execSwitchTimeout]; split <;> simp [h]

/-! ### Fences, invalidations and probes of translations (12) -/

theorem execTfence_limits {P} {s : State} {sel} (h : P s.limits) : NextLimits P (execTfence sel s) := by
  simp [execTfence, h]
@[simp] theorem State.removeTranslations_limits (s : State) (r) : (s.removeTranslations r).limits = s.limits := by
  simp [State.removeTranslations]
@[simp] theorem State.invalidate_limits (s : State) (r) : (s.invalidate r).limits = s.limits := by
  simp [State.invalidate]
theorem execTlbinv_limits {P} {s : State} {e g a b} (h : P s.limits) : NextLimits P (execTlbinv e g a b s) := by
  simp [execTlbinv, h]
theorem execTprobe_limits {P} {s : State} {e g d a b} (h : P s.limits) : NextLimits P (execTprobe e g d a b s) := by
  simp [execTprobe, h]
theorem execWalkComplete_limits {P} {s : State} {core pasid user kind va} (h : P s.limits) :
    NextLimits P (execWalkComplete core pasid user kind va s) := by
  simp only [execWalkComplete]; split <;> simp [h]

/-! ### The dispatch registers (14 Table 14-9) -/

@[simp] theorem State.countClamp_limits (s : State) (b) : (s.countClamp b).limits = s.limits := by
  simp [State.countClamp]
@[simp] theorem State.emptyCore_limits (s : State) (core) : (s.emptyCore core).limits = s.limits := by
  simp [State.emptyCore]
@[simp] theorem State.requestCarve_limits (s : State) (v) : (s.requestCarve v).1.limits = s.limits := by
  simp only [State.requestCarve]
  repeat' split
  all_goals simp
theorem execCarveModeChange_limits {P} {s : State} {core} (h : P s.limits) : NextLimits P (execCarveModeChange core s) := by
  simp only [execCarveModeChange]; split <;> simp [h]
@[simp] theorem State.setAct_limits (s : State) (slot act) : (s.setAct slot act).limits = s.limits := by
  simp [State.setAct]
@[simp] theorem State.contextOn_limits (s : State) (v) : (s.contextOn v).1.limits = s.limits := by
  simp only [State.contextOn]
  repeat' split
  all_goals simp
@[simp] theorem State.withdraw_limits (s : State) (p) : (s.withdraw p).limits = s.limits := by
  simp [State.withdraw]
@[simp] theorem State.beginOff_limits (s : State) (slot) : (s.beginOff slot).limits = s.limits := by
  simp [State.beginOff]
@[simp] theorem State.finishOff_limits (s : State) (slot) : (s.finishOff slot).limits = s.limits := by
  simp [State.finishOff]
@[simp] theorem State.contextOff_limits (s : State) (slot) : (s.contextOff slot).limits = s.limits := by
  simp [State.contextOff]
@[simp] theorem State.armQueue_limits (s : State) (v) : (s.armQueue v).1.limits = s.limits := by
  simp only [State.armQueue]
  repeat' split
  all_goals simp
@[simp] theorem State.kill_limits (s : State) (ccb) : (s.kill ccb).1.limits = s.limits := by
  simp only [State.kill]; split <;> simp

/-- A clamped value fits its register, so the register holds it as clamped. -/
theorem clampTo_toNat_bounds {lo hi : Nat} (hlo : lo ≤ hi) (hhi : hi < 2 ^ 64) (v : Nat) :
    lo ≤ (BitVec.ofNat 64 (clampTo lo hi v)).toNat ∧ (BitVec.ofNat 64 (clampTo lo hi v)).toNat ≤ hi := by
  have hmin : min hi v ≤ hi := Nat.min_le_left hi v
  have hmax : max lo (min hi v) ≤ hi := Nat.max_le.2 ⟨hlo, hmin⟩
  rw [clampTo, BitVec.toNat_ofNat, Nat.mod_eq_of_lt (by omega)]
  exact ⟨Nat.le_max_left _ _, hmax⟩

theorem dispatchValue_quantum_toNat (v : DWord) : 11000 ≤ (BitVec.ofNat 64 (dispatchValue 2 v.toNat)).toNat := by
  have fits : max 11000 v.toNat < 2 ^ 64 := Nat.max_lt.2 ⟨by decide, v.isLt⟩
  rw [dispatchValue, BitVec.toNat_ofNat, Nat.mod_eq_of_lt fits]
  exact Nat.le_max_left _ _

/-- A dispatch register takes a value within its limits (14 Table 14-9: QUANT is 2, LATMAX 5, MRTO 6, STO 7). -/
theorem DispatchRegs.write_bounded {t w : Nat} {r : DispatchRegs} (n : Nat) (v : DWord)
    (h : LimitRegs.Bounded ⟨t, w, r.quant, r.latmax, r.mrto, r.sto⟩) :
    LimitRegs.Bounded ⟨t, w, (r.write n v).quant, (r.write n v).latmax, (r.write n v).mrto, (r.write n v).sto⟩ := by
  unfold DispatchRegs.write
  dsimp only
  split
  case h_3 => exact { h with quantum := dispatchValue_quantum_toNat v }
  case h_6 => exact { h with latency := clampTo_toNat_bounds (by decide) (by decide) _ }
  case h_7 => exact { h with rendezvous := clampTo_toNat_bounds (by decide) (by decide) _ }
  case h_8 => exact { h with switching := clampTo_toNat_bounds (by decide) (by decide) _ }
  all_goals exact h

theorem dcfgBody_bounded {g d sel b} {s : State} (h : s.limits.Bounded) :
    NextLimits LimitRegs.Bounded (dcfgBody g d sel b s) := by
  refine run_limits h fun t ht => ?_
  dsimp only
  split
  · simpa using ht
  · simpa using ht
  · split
    · simpa using ht
    · split <;> simpa using ht
  · simpa using ht
  · simpa using ht
  · split
    · simpa using ht
    · rw [State.advance_limits, State.writeS_limits, State.popSources_limits, State.countClamp_limits]
      exact DispatchRegs.write_bounded sel _ ht

/-! ### Host, peers and interfaces (15) -/

@[simp] theorem State.ackClaim_limits (s : State) (i) : (s.ackClaim i).1.limits = s.limits := by
  simp only [State.ackClaim]; split <;> simp
@[simp] theorem State.forwardClaim_limits (s : State) (i) : (s.forwardClaim i).limits = s.limits := by
  simp [State.forwardClaim]
@[simp] theorem State.forwardOp_limits (s : State) (a b) : (s.forwardOp a b).1.limits = s.limits := by
  simp only [State.forwardOp]
  repeat' split
  all_goals simp
theorem intfwBody_limits {P} {s : State} {e g d a b} (h : P s.limits) : NextLimits P (intfwBody e g d a b s) := by
  simp [intfwBody, h]
theorem execClaimTimerExpiry_limits {P} {s : State} {src} (h : P s.limits) : NextLimits P (execClaimTimerExpiry src s) := by
  simp only [execClaimTimerExpiry]; split <;> simp [h]
theorem execIcack_limits {P} {s : State} {src} (h : P s.limits) : NextLimits P (execIcack src s) := by
  simp [execIcack, h]
theorem execMsixUnmask_limits {P} {s : State} {fn vec} (h : P s.limits) : NextLimits P (execMsixUnmask fn vec s) := by
  simp [execMsixUnmask, h]
@[simp] theorem State.clearInterface_limits (s : State) (fn) : (s.clearInterface fn).limits = s.limits := by
  simp [State.clearInterface]
@[simp] theorem State.dropMessages_limits (s : State) (fn) : (s.dropMessages fn).limits = s.limits := by
  simp [State.dropMessages]
@[simp] theorem State.enterError_limits (s : State) (fn) : (s.enterError fn).limits = s.limits := by
  simp [State.enterError]
@[simp] theorem State.failInterface_limits (s : State) (fn) : (s.failInterface fn).limits = s.limits := by
  simp [State.failInterface]
@[simp] theorem State.failInterfaces_limits (s : State) : (s.failInterfaces).limits = s.limits := by
  simp [State.failInterfaces]
@[simp] theorem State.performHost_limits (s : State) (w) : (s.performHost w).limits = s.limits := by
  simp [State.performHost]
@[simp] theorem State.drainIngress_limits (s : State) : (s.drainIngress).limits = s.limits := by
  simp [State.drainIngress]
@[simp] theorem State.hostPosted_limits (s : State) (addr size value) : (s.hostPosted addr size value).limits = s.limits := by
  simp [State.hostPosted]
@[simp] theorem State.performIngress_limits (s : State) : (s.performIngress).limits = s.limits := by
  simp only [State.performIngress]; split <;> simp
theorem execHostMemWrite_limits {P} {s : State} {addr size value} (h : P s.limits) :
    NextLimits P (execHostMemWrite addr size value s) := by
  simp [execHostMemWrite, h]
theorem execHostMemRead_limits {P} {s : State} {addr size} (h : P s.limits) : NextLimits P (execHostMemRead addr size s) := by
  simp [execHostMemRead, h]
@[simp] theorem State.setDecoder_limits (s : State) (i d) : (s.setDecoder i d).limits = s.limits := by
  simp [State.setDecoder]

@[simp] theorem State.hdm_limits {P} {s : State} (hpa n f) (h : P s.limits) (hf : ∀ a, NextLimits P (f a s)) :
    NextLimits P (s.hdm hpa n f) := by
  simp only [State.hdm]
  split
  · exact hf _
  · exact h

theorem execHostSnoop_limits {P} {s : State} {addr size takes value} (h : P s.limits) :
    NextLimits P (execHostSnoop addr size takes value s) := by
  simp [execHostSnoop, h]
@[simp] theorem State.ringDoorbell_limits (s : State) (fn m value) : (s.ringDoorbell fn m value).limits = s.limits := by
  simp [State.ringDoorbell]
theorem execMailboxDoorbell_limits {P} {s : State} {fn m value} (h : P s.limits) :
    NextLimits P (execMailboxDoorbell fn m value s) := by
  simp [execMailboxDoorbell, h]
@[simp] theorem State.barWrite_limits (s : State) (fn off size value) : (s.barWrite fn off size value).limits = s.limits := by
  simp [State.barWrite]
theorem execBar0Access_limits {P} {s : State} {fn off size write value} (h : P s.limits) :
    NextLimits P (execBar0Access fn off size write value s) := by
  simp [execBar0Access, h]
theorem execFlushComplete_limits {P} {s : State} {core} (h : P s.limits) : NextLimits P (execFlushComplete core s) := by
  simp only [execFlushComplete]; split <;> simp [h]
theorem execGlobalObservationResponse_limits {P} {s : State} {core relaxed place} (h : P s.limits) :
    NextLimits P (execGlobalObservationResponse core relaxed place s) := by
  simp [execGlobalObservationResponse, h]
theorem execAtsInvalidationRequest_limits {P} {s : State} {pasid va count} (h : P s.limits) :
    NextLimits P (execAtsInvalidationRequest pasid va count s) := by
  simp [execAtsInvalidationRequest, h]

@[simp] theorem State.watchForPeer_limits (s : State) (aid addr cond size cmp) :
    (s.watchForPeer aid addr cond size cmp).limits = s.limits := by
  simp only [State.watchForPeer]
  repeat' split
  all_goals simp

theorem execPeerInboundAccess_limits {P} {s : State} {aid addr kind size value cmp} (h : P s.limits) :
    NextLimits P (execPeerInboundAccess aid addr kind size value cmp s) := by
  simp only [execPeerInboundAccess]
  repeat' split
  all_goals simp [h]

@[simp] theorem State.peerWrite_limits (s : State) (addr size value) : (s.peerWrite addr size value).limits = s.limits := by
  simp [State.peerWrite]

theorem execAccessTimeout_next_limits {key place lanes} {s t : State} (h : execAccessTimeout key place lanes s = .next t) :
    t.limits = s.limits := by
  have keeps := execAccessTimeout_limits (P := (· = s.limits)) (key := key) (place := place) (lanes := lanes) (s := s) rfl
  rwa [h] at keeps

@[simp] theorem State.failLoads_limits (s : State) (key u) : (s.failLoads key u).limits = s.limits := by
  refine foldl_limits _ (fun t i => ?_) _ _
  split
  · rfl
  · simp only [State.limits_ite]
    split
    · rfl
    · split
      · simp
      · split
        · rename_i heq; exact execAccessTimeout_next_limits heq
        · rfl
        · rfl

@[simp] theorem State.failWaits_limits (s : State) (key u) : (s.failWaits key u).limits = s.limits := by
  simp [State.failWaits]
@[simp] theorem State.failStores_limits (s : State) (c u) : (s.failStores c u).limits = s.limits := by
  simp [State.failStores]
@[simp] theorem State.cutCommand_limits (s : State) (c x) : (s.cutCommand c x).limits = s.limits := by
  simp only [State.cutCommand]; split <;> simp
@[simp] theorem State.failCommand_limits (s : State) (c x) : (s.failCommand c x).limits = s.limits := by
  simp only [State.failCommand]; split <;> simp
@[simp] theorem State.failCopies_limits (s : State) (c u) : (s.failCopies c u).limits = s.limits := by
  simp [State.failCopies]
theorem execPortDown_limits {P} {s : State} {u} (h : P s.limits) : NextLimits P (execPortDown u s) := by
  simp [execPortDown, h]
theorem execPortWidthChange_limits {P} {s : State} {u lanes} (h : P s.limits) : NextLimits P (execPortWidthChange u lanes s) := by
  simp [execPortWidthChange, h]
@[simp] theorem State.sendWaiting_limits (s : State) : (s.sendWaiting).limits = s.limits := by
  simp [State.sendWaiting]
theorem execPortUp_limits {P} {s : State} {port lanes} (h : P s.limits) : NextLimits P (execPortUp port lanes s) := by
  simp [execPortUp, h]
theorem execPortPDown_limits {P} {s : State} (h : P s.limits) : NextLimits P (execPortPDown s) := by
  simp [execPortPDown, h]
theorem execPortCError_limits {P} {s : State} {lost} (h : P s.limits) : NextLimits P (execPortCError lost s) := by
  simp [execPortCError, h]
theorem execPortPError_limits {P} {s : State} (h : P s.limits) : NextLimits P (execPortPError s) := by
  simp [execPortPError, h]

theorem State.takeIdentityIndex_limits (s : State) {r} (h : s.takeIdentityIndex = some r) : r.1.limits = s.limits := by
  simp only [State.takeIdentityIndex] at h
  split at h <;> cases h
  simp

theorem execSpdmRequest_limits {P} {index} {s : State} (h : P s.limits) : NextLimits P (execSpdmRequest index s) := by
  unfold execSpdmRequest
  split
  · exact h
  · dsimp only
    split
    · simpa using h
    · split
      · simpa using h
      · rename_i heq
        simpa [s.takeIdentityIndex_limits heq] using h

theorem execKeyExchange_limits {P} {s : State} (h : P s.limits) : NextLimits P (execKeyExchange s) := by
  unfold execKeyExchange
  split
  · exact h
  · split
    · simpa using h
    · rename_i heq
      simpa [s.takeIdentityIndex_limits heq] using h

@[simp] theorem State.spdm_limits (s : State) (a) : (s.spdm a).limits = s.limits := by
  simp only [State.spdm]
  split
  · rfl
  · split
    · simp
    · simp
    · split
      · simp
      · rename_i heq; simp [s.takeIdentityIndex_limits heq]
    · simp
    · simp

@[simp] theorem State.loseStream_limits (s : State) (owner) : (s.loseStream owner).limits = s.limits := by
  simp [State.loseStream]
theorem execIdeKeyManagement_limits {P} {s : State} {fn secure} (h : P s.limits) :
    NextLimits P (execIdeKeyManagement fn secure s) := by
  simp [execIdeKeyManagement, h]
theorem execIntegrityCheckFail_limits {P} {s : State} {portC fn} (h : P s.limits) :
    NextLimits P (execIntegrityCheckFail portC fn s) := by
  simp [execIntegrityCheckFail, h]
@[simp] theorem State.linkKeys_limits (s : State) (id secure) : (s.linkKeys id secure).limits = s.limits := by
  simp [State.linkKeys]
@[simp] theorem State.linkIntegrity_limits (s : State) (id) : (s.linkIntegrity id).limits = s.limits := by
  simp [State.linkIntegrity]
@[simp] theorem State.coverStream_limits (s : State) (fn owner) : (s.coverStream fn owner).limits = s.limits := by
  simp [State.coverStream]
theorem execLockInterfaceRequest_limits {P} {s : State} {fn} (h : P s.limits) : NextLimits P (execLockInterfaceRequest fn s) := by
  simp [execLockInterfaceRequest, h]
theorem execStartInterfaceRequest_limits {P} {s : State} {fn} (h : P s.limits) :
    NextLimits P (execStartInterfaceRequest fn s) := by
  simp [execStartInterfaceRequest, h]
@[simp] theorem State.scrubRange_limits (s : State) (base size) : (s.scrubRange base size).limits = s.limits := by
  simp [State.scrubRange]
@[simp] theorem State.verifyRange_limits (s : State) (base size) : (s.verifyRange base size).limits = s.limits := by
  simp [State.verifyRange]
theorem execStopInterfaceRequest_limits {P} {s : State} {fn} (h : P s.limits) : NextLimits P (execStopInterfaceRequest fn s) := by
  simp [execStopInterfaceRequest, h]
theorem execGetDeviceInterfaceReport_limits {P} {s : State} {fn} (h : P s.limits) :
    NextLimits P (execGetDeviceInterfaceReport fn s) := by
  simp [execGetDeviceInterfaceReport, h]
@[simp] theorem State.configRead_limits (s : State) (fn item) : (s.configRead fn item).limits = s.limits := by
  simp [State.configRead]
theorem execHostConfigWrite_limits {P} {s : State} {fn item v} (h : P s.limits) :
    NextLimits P (execHostConfigWrite fn item v s) := by
  simp [execHostConfigWrite, h]
theorem execFunctionLevelReset_limits {P} {s : State} {fn} (h : P s.limits) : NextLimits P (execFunctionLevelReset fn s) := by
  simp [execFunctionLevelReset, h]

/-! ### Lane maps and check modes (17) -/

@[simp] theorem State.measure_limits (s : State) (kind value size digest) :
    (s.measure kind value size digest).limits = s.limits := by
  simp [State.measure]
@[simp] theorem State.measureValue_limits (s : State) (kind value) : (s.measureValue kind value).limits = s.limits := by
  simp [State.measureValue]
@[simp] theorem State.declareLane_limits (s : State) (core bench p) : (s.declareLane core bench p).limits = s.limits := by
  simp [State.declareLane]
theorem execLaneReissue_limits {P} {s : State} {key lane passes} (h : P s.limits) :
    NextLimits P (execLaneReissue key lane passes s) := by
  simp [execLaneReissue, h]
@[simp] theorem State.offline_limits (s : State) (p) : (s.offline p).limits = s.limits := by
  simp [State.offline]

@[simp] theorem State.mapOutLane_limits (s : State) (core bench) : (s.mapOutLane core bench).limits = s.limits := by
  unfold State.mapOutLane
  dsimp only
  split
  · rfl
  · split <;> simp

theorem execLmapUpdate_limits {P} {s : State} {core bench} (h : P s.limits) : NextLimits P (execLmapUpdate core bench s) := by
  simp [execLmapUpdate, h]
theorem execLmapw_limits {P} {s : State} {e g d a b} (h : P s.limits) : NextLimits P (execLmapw e g d a b s) := by
  simp [execLmapw, h]
@[simp] theorem State.mapOutColumn_limits (s : State) (core column) : (s.mapOutColumn core column).limits = s.limits := by
  simp [State.mapOutColumn]
theorem execColumnMapOut_limits {P} {s : State} {core column} (h : P s.limits) :
    NextLimits P (execColumnMapOut core column s) := by
  simp [execColumnMapOut, h]
@[simp] theorem State.followMaps_limits (s : State) : (s.followMaps).limits = s.limits := by
  simp [State.followMaps]

theorem chkm_limits {P} {bits f d a} {s : State} (h : P s.limits) (hf : ∀ t x, (f t x).1.limits = t.limits) :
    NextLimits P (chkm bits f d a s) := by
  refine run_limits h fun t ht => ?_
  rw [State.advance_limits, State.writeS_limits, State.popSources_limits]
  split
  · exact ht
  · rwa [hf]

@[simp] theorem State.setFloor_limits (s : State) (v) : (s.setFloor v).1.limits = s.limits := by
  simp only [State.setFloor]
  repeat' split
  all_goals simp
theorem execCloneReplay_limits {P} {s : State} {core bench bad} (h : P s.limits) :
    NextLimits P (execCloneReplay core bench bad s) := by
  simp only [execCloneReplay]; split <;> simp [h]
theorem execPatrolRead_limits {P} {s : State} {line} (h : P s.limits) : NextLimits P (execPatrolRead line s) := by
  simp [execPatrolRead, h]

/-! ### The guard engine (16) -/

@[simp] theorem State.declare_limits (s : State) (pasid l) : (s.declare pasid l).1.limits = s.limits := by
  unfold State.declare
  dsimp only
  repeat' split
  all_goals rfl

@[simp] theorem State.undeclare_limits (s : State) (pasid a) : (s.undeclare pasid a).1.limits = s.limits := by
  unfold State.undeclare
  dsimp only
  split
  · rfl
  · split <;> rfl

@[simp] theorem State.withDescriptors_limits (s : State) (va n k) (hk : ∀ t p l, (k t p l).limits = t.limits) :
    (s.withDescriptors va n k).limits = s.limits := by
  simp only [State.withDescriptors]
  split
  · simp
  · split
    · simp
    · split <;> simp only [State.settle_limits, State.dropReplies_limits, State.watch_limits, hk]
      all_goals
        refine (foldl_fst_limits _ (fun a x => ?_) _ _).trans (by simp)
        split <;> (rename_i heq; simp [limits_of_eq heq])

theorem msdBody_limits {P} {s : State} {e d a n} (h : P s.limits) : NextLimits P (msdBody e d a n s) := by
  simp [msdBody, h]
theorem hstatBody_limits {P} {s : State} {e d a sel} (h : P s.limits) : NextLimits P (hstatBody e d a sel s) := by
  simp [hstatBody, h]
@[simp] theorem State.garmOp_limits (s : State) (a b) : (s.garmOp a b).1.limits = s.limits := by
  simp only [State.garmOp]
  repeat' split
  all_goals simp
theorem garmBody_limits {P} {s : State} {e g d a b} (h : P s.limits) : NextLimits P (garmBody e g d a b s) := by
  simp [garmBody, h]
@[simp] theorem State.extractPiece_limits (s : State) (st m va p v) : (s.extractPiece st m va p v).limits = s.limits := by
  simp only [State.extractPiece]; split <;> simp

theorem execMsx_limits {P} {e g d a b} {s : State} (h : P s.limits) : NextLimits P (execMsx e g d a b s) := by
  refine runPoint_limits h fun t ht => ?_
  dsimp only
  split
  · simpa using ht
  · split
    · simpa using ht
    · split
      · simpa using ht
      · rw [State.advance_limits, State.writeS_limits, State.popSources_limits, State.watch_limits, foldl_limits]
        · simpa using ht
        · intro u x
          split <;> simp

theorem execPowerFail_limits {P} {s : State} (h : P s.limits) : NextLimits P (execPowerFail s) := by
  simp [execPowerFail, h]
@[simp] theorem State.protectedWrite_limits (s : State) (pasid va n v) : (s.protectedWrite pasid va n v).limits = s.limits := by
  simp only [State.protectedWrite]; split <;> simp

@[simp] theorem State.protectCohort_limits (s : State) (ccb) : (s.protectCohort ccb).limits = s.limits := by
  simp only [State.protectCohort]
  refine (foldl_limits _ (fun s i => by simp) _ _).trans (foldl_limits _ (fun s k => ?_) _ _)
  refine (foldl_limits _ (fun s n => ?_) _ _).trans (foldl_limits _ (fun s i => by simp) _ _)
  exact foldl_limits _ (fun s i => by simp) _ _

@[simp] theorem State.protectSlots_limits (s : State) (ccb) : (s.protectSlots ccb).limits = s.limits := by
  simp [State.protectSlots]
@[simp] theorem State.abandon_limits (s : State) (c) : (s.abandon c).limits = s.limits := by
  simp [State.abandon]
@[simp] theorem State.endSequence_limits (s : State) : (s.endSequence).limits = s.limits := by
  simp [State.endSequence]
theorem execDrainComplete_limits {P} {s : State} (h : P s.limits) : NextLimits P (execDrainComplete s) := by
  simp [execDrainComplete, h]
@[simp] theorem State.endSlice_limits (s : State) : (s.endSlice).limits = s.limits := by
  simp [State.endSlice]
theorem execGdone_limits {P} {s : State} (h : P s.limits) : NextLimits P (execGdone s) := by
  simp [execGdone, h]
theorem execGskip_limits {P} {s : State} {handle} (h : P s.limits) : NextLimits P (execGskip handle s) := by
  simp [execGskip, h]
theorem execPolicySliceEnd_limits {P} {s : State} (h : P s.limits) : NextLimits P (execPolicySliceEnd s) := by
  simp [execPolicySliceEnd, h]
theorem execExtentWrites_limits {P} {s : State} (h : P s.limits) : NextLimits P (execExtentWrites s) := by
  simp only [execExtentWrites]
  repeat' split
  all_goals simp [h]
theorem execSealLog_limits {P} {s : State} (h : P s.limits) : NextLimits P (execSealLog s) := by
  simp only [execSealLog]
  split <;> simp [h]
theorem execSupplyReturn_limits {P} {s : State} (h : P s.limits) : NextLimits P (execSupplyReturn s) := by
  simp only [execSupplyReturn]; split <;> simp [h]
theorem execLogErase_limits {P} {s : State} (h : P s.limits) : NextLimits P (execLogErase s) := by
  simp [execLogErase, h]

/-! ### Debugging and sampling (18) -/

theorem setPoint_limits {P} {s : State} {refuses put e g d a b} (h : P s.limits) :
    NextLimits P (setPoint refuses put e g d a b s) := by
  simp [setPoint, h]
@[simp] theorem State.codeHit_limits (s : State) (e hits) : (s.codeHit e hits).limits = s.limits := by
  simp [State.codeHit]
@[simp] theorem State.passPoints_limits (s : State) (key) : (s.passPoints key).limits = s.limits := by
  simp [State.passPoints]
@[simp] theorem State.followSkips_limits (s : State) : (s.followSkips).limits = s.limits := by
  simp [State.followSkips]
theorem passOnce_limits {P} {r} (h : NextLimits P r) : NextLimits P (passOnce r) := by
  cases r <;> simp_all [passOnce]

@[simp] theorem State.breakAt_limits {P} {s : State} {e} {k} (h : P s.limits) (hk : ∀ t, P t.limits → NextLimits P (k t)) :
    NextLimits P (s.breakAt e k) := by
  simp only [State.breakAt]
  split
  · exact passOnce_limits (hk s h)
  · split
    · simp [h]
    · split
      · exact hk s h
      · simp [h]

theorem execDebugStop_limits {P} {s : State} {ccb} (h : P s.limits) : NextLimits P (execDebugStop ccb s) := by
  simp [execDebugStop, h]

@[simp] theorem State.haltRecords_limits (s : State) (ccb) : (s.haltRecords ccb).limits = s.limits := by
  simp only [State.haltRecords]
  split
  · refine foldl_limits _ (fun s k => ?_) _ _
    split <;> simp
  · simp

theorem execHalt_limits {P} {s : State} {e d a} (h : P s.limits) : NextLimits P (execHalt e d a s) := by
  simp [execHalt, h]
theorem execResm_limits {P} {s : State} {e d a} (h : P s.limits) : NextLimits P (execResm e d a s) := by
  simp [execResm, h]
theorem execTrcfg_limits {P} {s : State} {g d sel b} (h : P s.limits) : NextLimits P (execTrcfg g d sel b s) := by
  simp [execTrcfg, h]
theorem execSmpl_limits {P} {s : State} {d p} (h : P s.limits) : NextLimits P (execSmpl d p s) := by
  simp [execSmpl, h]
theorem execSampleTag_limits {P} {s : State} {core bench} (h : P s.limits) : NextLimits P (execSampleTag core bench s) := by
  simp [execSampleTag, h]
@[simp] theorem State.tagIssue_limits (s : State) (st e w) : (s.tagIssue st e w).limits = s.limits := by
  simp [State.tagIssue]
theorem execSampleRecord_limits {P} {s : State} {core place} (h : P s.limits) : NextLimits P (execSampleRecord core place s) := by
  simp only [execSampleRecord]; split <;> simp [h]

/-! ### The root controller (19) -/

@[simp] theorem State.postAll_limits (s : State) (c) : (s.postAll c).limits = s.limits := by
  simp [State.postAll]
@[simp] theorem State.mapCores_limits (s : State) (f) : (s.mapCores f).limits = s.limits := by
  simp [State.mapCores]
theorem execThermalAlarm_limits {P} {s : State} {temp} (h : P s.limits) : NextLimits P (execThermalAlarm temp s) := by
  simp [execThermalAlarm, h]
theorem execThermalTrip_limits {P} {s : State} (h : P s.limits) : NextLimits P (execThermalTrip s) := by
  simp [execThermalTrip, h]
theorem execPowerAlarm_limits {P} {s : State} {watts} (h : P s.limits) : NextLimits P (execPowerAlarm watts s) := by
  simp [execPowerAlarm, h]
theorem execPowerAlarmEnd_limits {P} {s : State} (h : P s.limits) : NextLimits P (execPowerAlarmEnd s) := by
  simp [execPowerAlarmEnd, h]
@[simp] theorem State.startRom_limits (s : State) : (s.startRom).limits = s.limits := by
  simp only [State.startRom]; split <;> simp
theorem execPowerGood_limits {P} {s : State} (h : P s.limits) : NextLimits P (execPowerGood s) := by
  simp [execPowerGood, h]
@[simp] theorem State.freeNonce_limits (s : State) : (s.freeNonce).limits = s.limits := by
  simp [State.freeNonce]
@[simp] theorem State.stageFails_limits (s : State) (n) : (s.stageFails n).limits = s.limits := by
  simp [State.stageFails]
theorem execStage1_limits {P} {s : State} {ok} (h : P s.limits) : NextLimits P (execStage1 ok s) := by
  simp [execStage1, h]
@[simp] theorem State.revoke_limits (s : State) : (s.revoke).limits = s.limits := by
  simp [State.revoke]
@[simp] theorem State.forgetWaits_limits (s : State) : (s.forgetWaits).limits = s.limits := by
  simp [State.forgetWaits]
@[simp] theorem State.startSupervisors_limits (s : State) (root entry) : (s.startSupervisors root entry).limits = s.limits := by
  simp [State.startSupervisors]
@[simp] theorem State.resetSupervisors_limits (s : State) : (s.resetSupervisors).limits = s.limits := by
  simp [State.resetSupervisors]
@[simp] theorem State.startCustomer_limits (s : State) : (s.startCustomer).limits = s.limits := by
  simp only [State.startCustomer]; split <;> simp
@[simp] theorem State.startCore_limits (s : State) (c) : (s.startCore c).limits = s.limits := by
  simp [State.startCore]
theorem execStage2_limits {P} {s : State} {ok root entry} (h : P s.limits) : NextLimits P (execStage2 ok root entry s) := by
  simp [execStage2, h]
@[simp] theorem State.restart_limits (s : State) (powered) : (s.restart powered).limits = State.reset.limits := rfl

/-- The values of reset are in range (the threshold and the power limit: log 2). -/
theorem reset_bounded : State.reset.limits.Bounded := by
  constructor <;> decide

theorem execRailCollapse_bounded {s : State} (h : s.limits.Bounded) : NextLimits LimitRegs.Bounded (execRailCollapse s) := by
  unfold execRailCollapse
  dsimp only
  split
  · exact h
  · rw [nextLimits_next, State.restart_limits]
    exact reset_bounded

theorem execResetDevice_bounded {s : State} (h : s.limits.Bounded) : NextLimits LimitRegs.Bounded (execResetDevice s) := by
  unfold execResetDevice
  split
  · simpa using reset_bounded
  · exact h

theorem execFirmwareUpdate_limits {P} {s : State} {slot version size digest verified} (h : P s.limits) :
    NextLimits P (execFirmwareUpdate slot version size digest verified s) := by
  simp [execFirmwareUpdate, h]
theorem execActivateFirmware_limits {P} {s : State} {root entry} (h : P s.limits) :
    NextLimits P (execActivateFirmware root entry s) := by
  simp [execActivateFirmware, h]
@[simp] theorem State.leaseCommand_limits {P} {s k : State} (h : P s.limits) (hk : P k.limits) :
    NextLimits P (s.leaseCommand k) := by
  simp [State.leaseCommand, h, hk]
theorem execGetState_limits {P} {s : State} (h : P s.limits) : NextLimits P (execGetState s) := by
  simp [execGetState, h]
theorem execStartScrub_limits {P} {s : State} {nonce} (h : P s.limits) : NextLimits P (execStartScrub nonce s) := by
  simp [execStartScrub, h]
theorem execGrant_limits {P} {s : State} {id} (h : P s.limits) : NextLimits P (execGrant id s) := by
  simp [execGrant, h]
theorem execRevoke_limits {P} {s : State} (h : P s.limits) : NextLimits P (execRevoke s) := by
  simp [execRevoke, h]
theorem execRevokeDeadline_limits {P} {s : State} (h : P s.limits) : NextLimits P (execRevokeDeadline s) := by
  simp [execRevokeDeadline, h]

/-- Region 5 of a scrub sets the dispatch registers as reset does; no region touches the thermal threshold or the power limit. -/
theorem State.scrubRegion_bounded (s : State) (i) (h : s.limits.Bounded) : (s.scrubRegion i).limits.Bounded := by
  unfold State.scrubRegion
  split
  case h_6 => exact { reset_bounded with threshold := h.threshold, power := h.power }
  all_goals exact h

theorem execScrubComplete_bounded {lines covered} {s : State} (h : s.limits.Bounded) :
    NextLimits LimitRegs.Bounded (execScrubComplete lines covered s) := by
  unfold execScrubComplete
  split
  · exact h
  · have scrubbed : ((regionsOf covered).foldl (fun (s : State) i => s.scrubRegion i) s).limits.Bounded :=
      List.foldlRecOn (motive := fun t : State => t.limits.Bounded) _ _ h fun t ht i _ => t.scrubRegion_bounded i ht
    simpa using scrubbed

theorem execGetRecord_limits {P} {s : State} (h : P s.limits) : NextLimits P (execGetRecord s) := by
  simp only [execGetRecord]; split <;> simp [h]
@[simp] theorem State.writeLinkRegister_limits (s : State) (off v) : (s.writeLinkRegister off v).limits = s.limits := by
  simp [State.writeLinkRegister]
@[simp] theorem State.writeGuardRegister_limits (s : State) (off v) : (s.writeGuardRegister off v).limits = s.limits := by
  simp [State.writeGuardRegister]

/-- The root controller clamps the thermal threshold and the power limit (01 R18, Table 1-6). -/
theorem State.writeLimit_bounded (s : State) (off v) (h : s.limits.Bounded) : (s.writeLimit off v).limits.Bounded := by
  unfold State.writeLimit
  split
  · rw [State.countClamp_limits]; exact { h with threshold := Nat.min_le_left 100 v }
  · rw [State.countClamp_limits]; exact { h with power := Nat.min_le_left 5400 v }
  · exact h

@[simp] theorem State.writeRange_limits (s : State) (off v) : (s.writeRange off v).limits = s.limits := by
  simp only [State.writeRange]
  repeat' split
  all_goals simp
@[simp] theorem State.readRegister_limits (s : State) (block off) : (s.readRegister block off).limits = s.limits := by
  simp [State.readRegister]
@[simp] theorem State.serviceWrite_limits (s : State) (addr size value) : (s.serviceWrite addr size value).limits = s.limits := by
  simp [State.serviceWrite]
@[simp] theorem State.serviceRead_limits (s : State) (addr size) : (s.serviceRead addr size).limits = s.limits := by
  simp [State.serviceRead]

theorem execRegisterWrite_bounded {block off value} {s : State} (h : s.limits.Bounded) :
    NextLimits LimitRegs.Bounded (execRegisterWrite block off value s) := by
  unfold execRegisterWrite
  dsimp only
  split
  · exact h
  · split
    · simpa using h
    · simpa using h
    · exact s.writeLimit_bounded _ _ h
    · simpa using h
    · exact h

/-! ### Every instruction and event -/

theorem execStl_limits {P} {d a sel z} {s : State} (h : P s.limits) : NextLimits P (execStl d a sel z s) := by
  unfold execStl
  exact vecStore_limits h
theorem execTld_limits {P} {e d a m n} {s : State} (h : P s.limits) : NextLimits P (execTld e d a m n s) :=
  tileAccess_limits h fun t x => by simp

theorem execTst_limits {P} {e d a m n} {s : State} (h : P s.limits) : NextLimits P (execTst e d a m n s) :=
  tileAccess_limits h fun t x => by
    rw [State.advance_limits]
    exact foldl_limits _ (fun _ _ => by simp) _ _

/-- Every instruction and event keeps the limits in range: each arm but five kinds leaves the registers alone. Those write them through
`DispatchRegs.write`, through `State.writeLimit`, by a scrub, or by one of the two resets (01 R17, R18). -/
theorem exec_bounded (i : Instr) {s : State} (h : s.limits.Bounded) : NextLimits LimitRegs.Bounded (exec i s) := by
  cases i <;> dsimp only [exec]
  case vadd | vsub | vmullo | vmulhis | vmulhiu | vadds | vsubs | vaddx2 | vsubx2 | vmins | vminu | vmaxs | vmaxu | vand | vor
    | vxor | vandn | vshl | vshru | vshrs | vrot | vbfeu | vbfes | vcmpeq | vcmplts | vcmpltu | vcmples | vcmpleu =>
    exact vecBin_limits h
  case vmad | vdot4s | vdot4u | vbfi | vsel => exact vecMod_limits h
  case vpopc | vclz | vctz | vbrev | vnot | vabs | vneg | vsx8 | vsx16 | vzx8 | vzx16 | vmov => exact vecUn_limits h
  case vshfl | vshflx | vshflup | vshfldn => exact vecShuffle_limits h
  case vrdlane => exact execVrdlane_limits h
  case vwrlane => exact execVwrlane_limits h
  case vredadd | vredmins | vredmaxs | vredand | vredor => exact vecReduce_limits h
  case vscanadd => exact execVscanadd_limits h
  case vballot => exact execVballot_limits h
  case vaddi | vmuli | vandi | vori | vxori | vshli | vshrui | vshrsi | vcmpeqi | vcmpltsi | vcmpltui => exact vecImm_limits h
  case vfadd | vfsub | vfmul | vffma | vffms | vfmin | vfmax | vfcmpeq | vfcmplt | vfcmple | vfcmpun => exact vecFloat3_limits h
  case vfsqrt | vfrsq | vfrcp | vfexp2 | vflog2 | vfsinpi | vfcospi | vftanh | vfabs | vfneg | vffloor | vfceil | vftrunc |
    vfrne | vffrac | vfclass =>
    exact vecFloat1_limits h
  case vcvt | vcvts => exact vecConvert_limits h
  case vpackF16 | vpackBf16 => exact vecPack_limits h
  case vfscaleF32 | vfscaleF64 => exact vecScale_limits h
  case vfdot2F16 | vfdot2Bf16 => exact vecDot2_limits h
  case sadd | ssub | smul | smulhu | smulhs | smins | sminu | smaxs | smaxu | sand | sor | sxor | sandn | sshl | sshru | sshrs
    | scmpeq | scmplts | scmpltu | scmples | scmpleu =>
    exact scaBin_limits h
  case sdivu | sdivs | sremu | srems => exact scaDiv_limits h
  case sbfe => exact execSbfe_limits h
  case sbfi | ssel => exact scaMod_limits h
  case spopc | sclz | sctz | sbrev | snot | sneg | ssx32 | szx32 | smov => exact scaUn_limits h
  case sgetst => exact execSgetst_limits h
  case ssetst => exact execSsetst_limits h
  case sfadd | sfsub | sfmul | sffma | sfcmplt => exact scaFloat_limits h
  case sfcvt => exact execSfcvt_limits h
  case saddi | sandi | sori | sxori | sshli | sshrui | sshrsi | scmpeqi | scmpltsi | scmpltui => exact scaImm_limits h
  case bri => exact execBri_limits h
  case jr => exact execJr_limits h
  case callr => exact execCallr_limits h
  case exit => exact execExit_limits h
  case exitto => exact execExitto_limits h
  case spawn => exact execSpawn_limits h
  case bar | barSp => exact barrier_limits h
  case parv => exact execParv_limits h
  case pwait => exact execPwait_limits h
  case win => exact execWin_limits h
  case winq => exact execWinq_limits h
  case vsw => exact execVsw_limits h
  case yield => exact execYield_limits h
  case nop => exact execNop_limits h
  case sysc => exact execSysc_limits h
  case brk => exact execBrk_limits h
  case tret => exact execTret_limits h
  case enq => exact execEnq_limits h
  case join => exact execJoin_limits h
  case msd | msdWithdraw => exact msdBody_limits h
  case msx => exact execMsx_limits h
  case hstat | hstatLog => exact hstatBody_limits h
  case sigmask => exact execSigmask_limits h
  case sighand => exact execSighand_limits h
  case sighandCause | sighandTaddr | sighandTmask | sighandFaddr => exact readTrap_limits h
  case pget => exact execPget_limits h
  case pset => exact execPset_limits h
  case unpark => exact execUnpark_limits h
  case sig => exact execSig_limits h
  case tinj => exact execTinj_limits h
  case swapo => exact execSwapo_limits h
  case swapi => exact execSwapi_limits h
  case sysrp => exact execSysrp_limits h
  case tlbinv => exact execTlbinv_limits h
  case tfence => exact execTfence_limits h
  case tprobe => exact execTprobe_limits h
  case aspill => exact execAspill_limits h
  case afill => exact execAfill_limits h
  case chres | chabt => exact repair_limits h
  case lmapw => exact execLmapw_limits h
  case chkmFloor | chkmLmap | chkmLfail | chkmCmap | chkmCnt | chkmClr => exact chkm_limits h fun t x => by simp
  case trcfg => exact execTrcfg_limits h
  case bpset | wpset => exact setPoint_limits h
  case smpl => exact execSmpl_limits h
  case garmShare | garmRead | garmRelease => exact garmBody_limits h
  case dcfg | carve | ctxon | ctxoff | qarm | kill => exact dcfgBody_bounded h
  case vreq => exact execVreq_limits h
  case halt => exact execHalt_limits h
  case resm => exact execResm_limits h
  case intfwAck | intfwFwd | intfwRaise | intfwSend => exact intfwBody_limits h
  case ldb | ldbs | ldh | ldhs | ldw | ldd | ldq => exact vecLoad_limits h
  case stb | sth | stw | std | stq => exact immStore_limits h
  case sld | sldw => exact scalarLoad_limits h
  case sst | sstw => exact scalarStore_limits h
  case ldwx => exact execLdwx_limits h
  case stwx => exact vecStore_limits h
  case lda => exact execLda_limits h
  case fence => exact execFence_limits h
  case xfence => exact execXfence_limits h
  case atadd | atmins | atminu | atmaxs | atmaxu | atand | ator | atxor | atxchg | atcas | atfadd | atdadd | atdcas =>
    exact atomic_limits h
  case vatfadd | vatbadd | vatfmax | vatiadd => exact vectorAtomic_limits h
  case waitc => exact execWaitc_limits h
  case pref => exact execPref_limits h
  case cinv | cwb => exact cacheControl_limits h fun t x => by simp
  case ldpv => exact execLdpv_limits h
  case stpv => exact execStpv_limits h
  case ldbc => exact execLdbc_limits h
  case cpgt | cptg | cpgg | cpat | cpgs | cpsg | cpix | cfill => exact transfer_limits h
  case cwp => exact execCwp_limits h
  case cwait => exact execCwait_limits h
  case cdone => exact execCdone_limits h
  case ccan => exact execCcan_limits h
  case mmaBf16 | mmaF16 | mmaE4m3 | mmaE5m2 | mmaMxe2m1 | mmaMxe4m3 | mmaMxe2m3 | mmaI8 => exact mma_limits h
  case mgang => exact execMgang_limits h
  case macq => exact execMacq_limits h
  case mrel => exact execMrel_limits h
  case mzero => exact execMzero_limits h
  case mdrain => exact execMdrain_limits h
  case mcfg => exact execMcfg_limits h
  case mstat => exact execMstat_limits h
  case mwait => exact execMwait_limits h
  case br | brz | bru | bruz => exact branch_limits h
  case brs => exact execBrs_limits h
  case jmp => exact execJmp_limits h
  case call => exact execCall_limits h
  case sloop => exact execSloop_limits h
  case smovl | smovh | smovx | smovt => exact scaLong_limits h
  case vmovl | vmovh => exact vecLong_limits h
  case strandAged => exact execStrandAged_limits h
  case lineFill => exact execLineFill_limits h
  case lineEvict => exact execLineEvict_limits h
  case frontierRefill => exact execFrontierRefill_limits h
  case producerWriteback => exact execProducerWriteback_limits h
  case floatWriteback => exact execFloatWriteback_limits h
  case successorStart => exact execSuccessorStart_limits h
  case slotFree => exact execSlotFree_limits h
  case binAgeExpiry => exact execBinAgeExpiry_limits h
  case gatherFormation => exact execGatherFormation_limits h
  case l1Fill => exact execL1Fill_limits h
  case storeLost => exact execStoreLost_limits h
  case accessTimeout => exact execAccessTimeout_limits h
  case promotionRequest => exact execPromotionRequest_limits h
  case monitorFire => exact execMonitorFire_limits h
  case waitcPoll => exact execWaitcPoll_limits h
  case monitorWake => exact execMonitorWake_limits h
  case tailPoll => exact execTailPoll_limits h
  case commandStart | deliveryUnit | commandCompletion => exact channelStep_limits h
  case channelFault => exact execChannelFault_limits h
  case rendezvousComplete => exact execRendezvousComplete_limits h
  case rendezvousTimeout => exact execRendezvousTimeout_limits h
  case mmaOperationComplete => exact execMmaOperationComplete_limits h
  case macqRetry => exact execMacqRetry_limits h
  case drainEntryReady => exact execDrainEntryReady_limits h
  case accDeadlockSwap => exact execAccDeadlockSwap_limits h
  case mxnSet => exact execMxnSet_limits h
  case columnMapOut => exact execColumnMapOut_limits h
  case walkComplete => exact execWalkComplete_limits h
  case heldEventEntry => exact execHeldEventEntry_limits h
  case machineCheck => exact execMachineCheck_limits h
  case tailRead => exact execTailRead_limits h
  case recordPop => exact execRecordPop_limits h
  case queueResume => exact execQueueResume_limits h
  case starvationAge => exact execStarvationAge_limits h
  case cohortPlacement => exact execCohortPlacement_limits h
  case promotion => exact execPromotion_limits h
  case demotion => exact execDemotion_limits h
  case quantumExpiry => exact execQuantumExpiry_limits h
  case preemption => exact execPreemption_limits h
  case switchRequest => exact execSwitchRequest_limits h
  case variantSwitch => exact execVariantSwitch_limits h
  case switchTimeout => exact execSwitchTimeout_limits h
  case swapOut => exact execSwapOut_limits h
  case swapIn => exact execSwapIn_limits h
  case migration => exact execMigration_limits h
  case carveModeChange => exact execCarveModeChange_limits h
  case cohortCompletion => exact execCohortCompletion_limits h
  case launchCompletion => exact execLaunchCompletion_limits h
  case debugStop => exact execDebugStop_limits h
  case sampleTag => exact execSampleTag_limits h
  case sampleRecord => exact execSampleRecord_limits h
  case laneReissue => exact execLaneReissue_limits h
  case lmapUpdate => exact execLmapUpdate_limits h
  case cloneReplay => exact execCloneReplay_limits h
  case patrolRead => exact execPatrolRead_limits h
  case hostMemWrite => exact execHostMemWrite_limits h
  case hostMemRead => exact execHostMemRead_limits h
  case bar0Access => exact execBar0Access_limits h
  case mailboxDoorbell => exact execMailboxDoorbell_limits h
  case flushComplete => exact execFlushComplete_limits h
  case atsInvalidationRequest => exact execAtsInvalidationRequest_limits h
  case peerInboundAccess => exact execPeerInboundAccess_limits h
  case portDown => exact execPortDown_limits h
  case portWidthChange => exact execPortWidthChange_limits h
  case claimTimerExpiry => exact execClaimTimerExpiry_limits h
  case icack => exact execIcack_limits h
  case msixUnmask => exact execMsixUnmask_limits h
  case integrityCheckFail => exact execIntegrityCheckFail_limits h
  case ideKeyManagement => exact execIdeKeyManagement_limits h
  case spdmRequest => exact execSpdmRequest_limits h
  case keyExchange => exact execKeyExchange_limits h
  case lockInterfaceRequest => exact execLockInterfaceRequest_limits h
  case startInterfaceRequest => exact execStartInterfaceRequest_limits h
  case stopInterfaceRequest => exact execStopInterfaceRequest_limits h
  case getDeviceInterfaceReport => exact execGetDeviceInterfaceReport_limits h
  case hostConfigWrite => exact execHostConfigWrite_limits h
  case functionLevelReset => exact execFunctionLevelReset_limits h
  case powerFail => exact execPowerFail_limits h
  case drainComplete => exact execDrainComplete_limits h
  case gdone => exact execGdone_limits h
  case gskip => exact execGskip_limits h
  case policySliceEnd => exact execPolicySliceEnd_limits h
  case extentWrites => exact execExtentWrites_limits h
  case sealLog => exact execSealLog_limits h
  case railCollapse => exact execRailCollapse_bounded h
  case supplyReturn => exact execSupplyReturn_limits h
  case logErase => exact execLogErase_limits h
  case thermalAlarm => exact execThermalAlarm_limits h
  case thermalTrip => exact execThermalTrip_limits h
  case powerAlarm => exact execPowerAlarm_limits h
  case powerAlarmEnd => exact execPowerAlarmEnd_limits h
  case powerGood => exact execPowerGood_limits h
  case stage1 => exact execStage1_limits h
  case stage2 => exact execStage2_limits h
  case firmwareUpdate => exact execFirmwareUpdate_limits h
  case activateFirmware => exact execActivateFirmware_limits h
  case getState => exact execGetState_limits h
  case startScrub => exact execStartScrub_limits h
  case grant => exact execGrant_limits h
  case revoke => exact execRevoke_limits h
  case getRecord => exact execGetRecord_limits h
  case revokeDeadline => exact execRevokeDeadline_limits h
  case scrubComplete => exact execScrubComplete_bounded h
  case registerWrite => exact execRegisterWrite_bounded h
  case hostSnoop => exact execHostSnoop_limits h
  case globalObservationResponse => exact execGlobalObservationResponse_limits h
  case portUp => exact execPortUp_limits h
  case portPDown => exact execPortPDown_limits h
  case portCError => exact execPortCError_limits h
  case portPError => exact execPortPError_limits h
  case resetDevice => exact execResetDevice_bounded h
  case serviceCoreMessage => exact execServiceCoreMessage_limits h
  case stl => exact execStl_limits h
  case tld => exact execTld_limits h
  case tst => exact execTst_limits h

/-! ### Fetch and issue (03, 04) -/

@[simp] theorem State.cachedWord_limits (s : State) (core p) : (s.cachedWord core p).1.limits = s.limits := by
  simp only [State.cachedWord]
  repeat' split
  all_goals simp

@[simp] theorem State.fetchWord_limits (s : State) (st pc) : (s.fetchWord st pc).1.limits = s.limits := by
  simp only [State.fetchWord]
  split
  · rename_i heq; simp [limits_of_eq heq]
  · rename_i heq; simp [limits_of_eq heq]
  · rename_i heq
    split
    · simp [limits_of_eq heq]
    · split <;> simp [limits_of_eq heq]

@[simp] theorem State.fetchFault_limits (s : State) (c w) : (s.fetchFault c w).limits = s.limits := by
  simp [State.fetchFault]

theorem State.runWord_bounded {s : State} {w} (h : s.limits.Bounded) : NextLimits LimitRegs.Bounded (s.runWord w) := by
  unfold State.runWord
  split
  · exact exec_bounded _ h
  · simpa using h

@[simp] theorem State.keepWord_limits (s : State) (st n w) : (s.keepWord st n w).limits = s.limits := by
  simp [State.keepWord]

theorem State.runEntry_bounded {s : State} {e} (h : s.limits.Bounded) : NextLimits LimitRegs.Bounded (s.runEntry e) := by
  unfold State.runEntry
  split
  · rename_i heq; simpa [limits_of_eq heq] using h
  · rename_i heq; simpa [limits_of_eq heq] using h
  · rename_i s1 w heq
    have ran : NextLimits LimitRegs.Bounded (({ s1 with reached := 0 } : State).runWord w) :=
      State.runWord_bounded (by simpa [limits_of_eq heq] using h)
    split
    · rename_i hrun
      rw [hrun] at ran
      simpa using ran
    · trivial
    · trivial

theorem State.tryIssue_bounded {s : State} (h : s.limits.Bounded) : NextLimits LimitRegs.Bounded s.tryIssue := by
  unfold State.tryIssue
  dsimp only
  split
  · simpa using h
  · rename_i e _
    repeat refine nextLimits_ite_of (by simpa using h) ?_
    have ran : NextLimits LimitRegs.Bounded (s.breakAt e fun s => s.runEntry e) :=
      State.breakAt_limits h fun t ht => State.runEntry_bounded ht
    split
    · rename_i hrun
      rw [hrun] at ran
      rw [nextLimits_next, State.limits_ite]
      split
      · exact ran
      · simpa using h
    · exact ran
    · exact ran

@[simp] theorem State.select_limits (s : State) (key) : (s.select key).limits = s.limits := by
  simp [State.select]
@[simp] theorem State.report_limits (s : State) (before key) : (s.report before key).limits = s.limits := by
  simp only [State.report]; split <;> simp

/-- The limits of the next state, where the issue of a bench gives one, satisfy a condition. -/
def IssueLimits (P : LimitRegs → Prop) : Host.Outcome (State × Option Nat) Fault Refusal → Prop
  | .next r => P r.1.limits
  | .fault _ | .refused _ => True

@[simp] theorem issueLimits_next (P) (r : State × Option Nat) : IssueLimits P (.next r) ↔ P r.1.limits := Iff.rfl

theorem State.issueFirst_bounded {s : State} {l} (h : s.limits.Bounded) : IssueLimits LimitRegs.Bounded (s.issueFirst l) := by
  induction l generalizing s with
  | nil => exact h
  | cons k l ih =>
    have tried : NextLimits LimitRegs.Bounded (s.select k).tryIssue := State.tryIssue_bounded (by simpa using h)
    unfold State.issueFirst
    split
    · rename_i s1 hissue
      rw [hissue] at tried
      split
      · simpa using tried
      · exact ih tried
    · trivial
    · trivial

@[simp] theorem State.passYields_limits (s : State) (core bench) : (s.passYields core bench).limits = s.limits := by
  simp [State.passYields]
@[simp] theorem State.countReady_limits (s : State) (core bench n order issued) :
    (s.countReady core bench n order issued).limits = s.limits := by
  simp [State.countReady]
@[simp] theorem State.followImages_limits (s : State) : (s.followImages).limits = s.limits := by
  simp [State.followImages]
@[simp] theorem State.followWaits_limits (s : State) : (s.followWaits).limits = s.limits := by
  simp [State.followWaits]
@[simp] theorem State.elapse_limits (s : State) (n) : (s.elapse n).limits = s.limits := by
  simp [State.elapse]
@[simp] theorem State.passReplay_limits (s : State) (core bench p) : (s.passReplay core bench p).limits = s.limits := by
  simp only [State.passReplay]
  split <;> simp

theorem State.issueBench_bounded {s : State} {core bench} (h : s.limits.Bounded) :
    IssueLimits LimitRegs.Bounded (s.issueBench core bench) := by
  unfold State.issueBench
  dsimp only
  split
  · rename_i s0 k hfirst
    have issued : IssueLimits LimitRegs.Bounded (.next (s0, k)) := hfirst ▸ State.issueFirst_bounded (by simpa using h)
    split
    · simpa using issued
    · split <;> simpa using issued
  · trivial
  · trivial

theorem State.issueAny_bounded {s : State} {l} (h : s.limits.Bounded) : NextLimits LimitRegs.Bounded (s.issueAny l) := by
  induction l generalizing s with
  | nil => exact h
  | cons b l ih =>
    have issued : IssueLimits LimitRegs.Bounded (({ s with turn := b + 1 } : State).issueBench (b / 4) (b % 4)) :=
      State.issueBench_bounded (by simpa using h)
    unfold State.issueAny
    split
    · rename_i hissue; rw [hissue] at issued; exact issued
    · rename_i hissue; rw [hissue] at issued; exact ih issued
    · trivial
    · trivial

theorem afterStep_bounded {o} (h : NextLimits LimitRegs.Bounded o) : NextLimits LimitRegs.Bounded (afterStep o) := by
  cases o with
  | next s => simpa [afterStep] using h
  | fault f => trivial
  | refused r => trivial

@[simp] theorem State.flawCommand_limits (s : State) (core ccb ch) : (s.flawCommand core ccb ch).limits = s.limits := by
  simp only [State.flawCommand]; split <;> simp

theorem State.follow_bounded {s : State} (a : Agenda) (h : s.limits.Bounded) : NextLimits LimitRegs.Bounded (s.follow a) := by
  cases a with
  | event i =>
    exact nextLimits_ite_of (afterStep_bounded (exec_bounded i h)) (by simpa using h)
  | bench core bench =>
    simp only [State.follow]
    split
    · split
      · rename_i hissue
        have issued := State.issueBench_bounded (core := core) (bench := bench) h
        rw [hissue] at issued
        simpa using issued
      · trivial
      · trivial
    · simpa using h
  | hdmRead hpa size => exact State.hdm_limits _ _ _ h fun a => execHostMemRead_limits h
  | hdmWrite hpa size value => exact State.hdm_limits _ _ _ h fun a => execHostMemWrite_limits h
  | _ => simpa [State.follow] using h

/-! ### A step -/

theorem step_bounded {s : State} (h : s.limits.Bounded) : NextLimits LimitRegs.Bounded (step s) := by
  unfold step
  split
  · exact nextLimits_ite_of (afterStep_bounded (State.issueAny_bounded h)) (by simpa using h)
  · exact State.follow_bounded _ (by simpa using h)

end Sys2Proof.Machine

namespace Sys2Proof.Proofs

open Sys2Proof.Machine Sys2Proof.Claims

/-- Settles O51: a step writes the registers that bound the engines only by way of a clamp, a scrub or a reset (`step_bounded`). -/
theorem limitsKept : Obligations.LimitsKept := by
  intro s t hs hstep
  rw [limits_iff_bounded] at hs ⊢
  have kept := step_bounded hs
  rwa [hstep] at kept

/-- Settles O52: the reset values are in range (`reset_bounded`), and every memory is empty there. -/
theorem limitsAtReset : Obligations.LimitsAtReset := by
  obtain ⟨hlocal, hhost, hpeer, hdata, hheader, _⟩ := reset_memories_wf
  exact ⟨(limits_iff_bounded _).2 reset_bounded, hlocal, hhost, hpeer, hdata, hheader, fun c => rfl⟩

end Sys2Proof.Proofs
end

section
/-! Settles 02 R22, R31, R32 and Table 2-4 with 09 R255. An operation on a NaN is one equation for its value and flags; the dropped part of a
rounding is its remainder against one half, and the quotient goes up by at most one on it. -/

namespace Sys2Proof.Machine

/-! ### NaN operands -/

theorem FVal.isNan_iff (x : FVal) : x.isNan = true ↔ ∃ sig, x = .nan sig := by
  cases x <;> simp [FVal.isNan]

theorem invalid_if_iff (b : Bool) : (if b then Flags.invalid else 0) = Flags.invalid ↔ b = true := by
  cases b <;> decide

/-- Invalid is raised for a signalling NaN among the operands, and for nothing else (R22, R32). -/
theorem sigFlag_eq_invalid_iff (xs : List FVal) : sigFlag xs = Flags.invalid ↔ FVal.nan true ∈ xs := by
  rw [sigFlag, invalid_if_iff]
  simp

theorem Fmt.addVal_of_isNan (f : Fmt) (frm : Nat) {x y : FVal} (h : x.isNan = true ∨ y.isNan = true) :
    f.addVal frm x y = (f.nanBits, sigFlag [x, y]) := by
  simp only [FVal.isNan_iff] at h
  obtain ⟨a, rfl⟩ | ⟨a, rfl⟩ := h
  · rfl
  · cases x <;> rfl

/-- A product with a NaN is a NaN that signals just if an operand does, and is not 0 times infinity (R255). -/
theorem mulVal_of_isNan {x y : FVal} (h : x.isNan = true ∨ y.isNan = true) :
    mulVal x y = (.nan (decide (x = .nan true) || decide (y = .nan true)), false) := by
  simp only [FVal.isNan_iff] at h
  obtain ⟨a, rfl⟩ | ⟨a, rfl⟩ := h
  · cases y <;> simp [mulVal]
  · cases x <;> simp [mulVal]

theorem Fmt.roundVal_nan (f : Fmt) (frm : Nat) (sig : Bool) :
    f.roundVal frm (.nan sig) = (f.nanBits, if sig then Flags.invalid else 0) := rfl

/-! ### Rounding to a multiple (R31, Table 2-4) -/

/-- The dropped part is the remainder compared with one half, where the quotient is not zero. -/
theorem dropped_eq {m s : Nat} (hs : s ≠ 0) (hm : 2 ^ s ≤ m) :
    dropped m s false = if m % 2 ^ s = 0 then 0 else if 2 * (m % 2 ^ s) < 2 ^ s then 1
      else if 2 * (m % 2 ^ s) = 2 ^ s then 2 else 3 := by
  have hhalf : 2 ^ s = 2 * 2 ^ (s - 1) := by rw [← Nat.pow_succ', Nat.succ_eq_add_one, Nat.sub_add_cancel (by omega)]
  have hnot : ¬ m < 2 ^ (s - 1) := by omega
  have hlt : m % 2 ^ s < 2 ^ (s - 1) ↔ 2 * (m % 2 ^ s) < 2 ^ s := by omega
  have heq : m % 2 ^ s = 2 ^ (s - 1) ↔ 2 * (m % 2 ^ s) = 2 ^ s := by omega
  simp [dropped, hs, hnot, hlt, heq]

/-- Nothing is dropped of a multiple, and something of any other number. -/
theorem dropped_eq_zero_iff {m s : Nat} (hs : s ≠ 0) (hm : 2 ^ s ≤ m) : dropped m s false = 0 ↔ m % 2 ^ s = 0 := by
  rw [dropped_eq hs hm]
  split_ifs <;> simp_all

/-- Rounding where the quotient is not zero: the quotient, raised by one as the mode says of the dropped part. -/
theorem roundMult_eq {m s : Nat} (frm : Nat) (neg : Bool) (hs : s ≠ 0) (hlog : s ≤ Nat.log2 m) :
    roundMult frm neg m 0 s false =
      (m / 2 ^ s + (roundsUp frm neg (m / 2 ^ s % 2 == 1) (dropped m s false)).toNat, !decide (dropped m s false = 0)) := by
  have hshort : ¬ s > Nat.log2 m + 3 := by omega
  cases hup : roundsUp frm neg (m / 2 ^ s % 2 == 1) (dropped m s false) <;> simp [roundMult, hs, hshort, hup]

theorem roundMult_zero (frm : Nat) (neg : Bool) (m : Nat) : roundMult frm neg m 0 0 false = (m, false) := by
  simp [roundMult]

/-- An exact multiple stays in every mode. -/
theorem roundsUp_nothing_dropped (frm : Nat) (neg last : Bool) : roundsUp frm neg last 0 = false := by
  simp [roundsUp]

/-- RTZ keeps the multiple below. -/
theorem roundsUp_toward_zero (neg last : Bool) (rem : Nat) : roundsUp 1 neg last rem = false := rfl

/-- RNE goes up above one half, and at one half from an odd quotient. -/
theorem roundsUp_nearest (neg last : Bool) (rem : Nat) :
    roundsUp 0 neg last rem = (decide (rem = 3) || (decide (rem = 2) && last)) := rfl

/-- The nearest multiple under RNE: below less than one half, above more than one half, and the even one at one half (Table 2-4). -/
theorem roundMult_nearest {m s : Nat} (neg : Bool) (hs : s ≠ 0) (hlog : s ≤ Nat.log2 m) (hm : 2 ^ s ≤ m) :
    let n := (roundMult 0 neg m 0 s false).1
    (2 * (m % 2 ^ s) < 2 ^ s → n = m / 2 ^ s) ∧ (2 ^ s < 2 * (m % 2 ^ s) → n = m / 2 ^ s + 1) ∧
      (2 * (m % 2 ^ s) = 2 ^ s → n % 2 = 0) := by
  have hpos : 0 < 2 ^ s := Nat.two_pow_pos s
  simp only [roundMult_eq 0 neg hs hlog, roundsUp_nearest, dropped_eq hs hm]
  refine ⟨fun hbelow => ?below, fun habove => ?above, fun hhalf => ?half⟩
  case below => by_cases hexact : m % 2 ^ s = 0 <;> simp [hexact, hbelow]
  case above =>
    have hexact : m % 2 ^ s ≠ 0 := by omega
    have hnotBelow : ¬ 2 * (m % 2 ^ s) < 2 ^ s := by omega
    have hnotHalf : 2 * (m % 2 ^ s) ≠ 2 ^ s := by omega
    simp [hexact, hnotBelow, hnotHalf]
  case half =>
    have hexact : m % 2 ^ s ≠ 0 := by omega
    obtain heven | hodd := Nat.mod_two_eq_zero_or_one (m / 2 ^ s)
    · simp [hexact, hhalf, heven]
    · simp [hexact, hhalf, hodd, Nat.add_mod]

end Sys2Proof.Machine

namespace Sys2Proof.Proofs

open Sys2Proof.Machine Sys2Proof.Claims

theorem nanOperands : NanOperands := by
  intro f frm x y z hnan
  have hsum := f.addVal_of_isNan frm hnan
  have hprod := mulVal_of_isNan hnan
  refine ⟨by rw [hsum], ?sumInvalid, by rw [hprod, Fmt.roundVal_nan], ?productInvalid, ?fused⟩
  case sumInvalid =>
    rw [hsum, sigFlag_eq_invalid_iff]
    simp [eq_comm]
  case productInvalid =>
    rw [hprod, Fmt.roundVal_nan, invalid_if_iff]
    simp
  case fused => rw [hprod, f.addVal_of_isNan frm (.inl rfl)]

theorem roundingBounds : RoundingBounds := by
  intro frm neg m s hlog
  obtain rfl | hs := eq_or_ne s 0
  · simp [roundMult_zero, Nat.mod_one]
  have hm0 : m ≠ 0 := by
    rintro rfl
    exact hs (Nat.le_zero.1 hlog)
  have hm : 2 ^ s ≤ m := (Nat.le_log2 hm0).1 hlog
  have hround := roundMult_eq frm neg hs hlog
  intro n isMultiple
  have hn : n = m / 2 ^ s + (roundsUp frm neg (m / 2 ^ s % 2 == 1) (dropped m s false)).toNat := congrArg Prod.fst hround
  refine ⟨?between, ?exactStays, ?towardZero, ?nearest, ?inexact⟩
  case between =>
    have := Bool.toNat_le (roundsUp frm neg (m / 2 ^ s % 2 == 1) (dropped m s false))
    omega
  case exactStays =>
    intro hexact
    rw [hn, (dropped_eq_zero_iff hs hm).2 (of_decide_eq_true hexact), roundsUp_nothing_dropped]
    rfl
  case towardZero =>
    rintro rfl
    rw [hn, roundsUp_toward_zero]
    rfl
  case nearest =>
    rintro rfl -
    exact roundMult_nearest neg hs hlog hm
  case inexact => rw [hround, decide_eq_decide.2 (dropped_eq_zero_iff hs hm)]

/-- Settles O7: by the equations of the operations on a NaN, and by the dropped part of a rounding. -/
theorem floatRounding : Obligations.FloatRounding := ⟨nanOperands, roundingBounds⟩

end Sys2Proof.Proofs
end

section
/-! Settles 02 R28, 03 R51, R52, Tables 3-3 and 3-4, 04 R98, R102 and 01 R8. Each reader of a source code has one equation for every range of
codes; the specials then read as their tables list them. -/

namespace Sys2Proof.Machine

/-! ### Ranges of source codes -/

section Ranges
variable {s : State} {c : Code}

theorem State.vsrc_of_register (h : c.toNat < 0x60) : s.vsrc c = s.cur.line (s.cur.wb + c.toNat) := if_pos h

theorem State.vsrc_of_scalar (h : 0x60 ≤ c.toNat) (h' : c.toNat < 0x70) :
    s.vsrc c = List.replicate 64 (BitVec.ofNat 32 (s.cur.scalar (c.toNat - 0x60)).toNat) := by
  simp [State.vsrc, h', Nat.not_lt.2 h]

theorem State.vsrc64_of_scalar (h : 0x60 ≤ c.toNat) (h' : c.toNat < 0x70) :
    s.vsrc64 c = List.replicate 64 (s.cur.scalar (c.toNat - 0x60)) := by
  simp [State.vsrc64, h', Nat.not_lt.2 h]

theorem State.usrc_of_scalar (h : 0x60 ≤ c.toNat) (h' : c.toNat < 0x70) : s.usrc c = s.cur.scalar (c.toNat - 0x60) := by
  simp [State.usrc, h', Nat.not_lt.2 h]

theorem State.ssrc_of_register (h : c.toNat < 0x40) : s.ssrc c = s.cur.scalar c.toNat := if_pos h

/-- A pop reads the lanes of the entry that it takes. -/
theorem State.vsrc_of_entry {x : Line} (h : 0x70 ≤ c.toNat) (h' : c.toNat < 0x76)
    (hx : s.peek s.cur (c.toNat - 0x70) = .entry x) : s.vsrc c = x := by
  have hreg : ¬ c.toNat < 0x60 := by omega
  simp [State.vsrc, hreg, Nat.not_lt.2 h, h', hx]

/-- As a scalar, lane 0 of the entry is the low half and lane 1 the high one (R52). -/
theorem State.ssrc_of_entry {x : Line} (h : 0x70 ≤ c.toNat) (h' : c.toNat < 0x76)
    (hx : s.peek s.cur (c.toNat - 0x70) = .entry x) : s.ssrc c = linePair x := by
  have hreg : ¬ c.toNat < 0x40 := by omega
  simp [State.ssrc, hreg, h', hx]

theorem State.laneOf_vsrc_of_special (h : 0x76 ≤ c.toNat) {l : Nat} (hl : l < 64) :
    laneOf (s.vsrc c) l = BitVec.ofNat 32 (s.cur.specialLane c.toNat l) := by
  have hreg : ¬ c.toNat < 0x60 := by omega
  have hscalar : ¬ c.toNat < 0x70 := by omega
  simp only [State.vsrc, hreg, hscalar, Nat.not_lt.2 h, if_false]
  exact getD_map_range _ _ _ hl

theorem State.ssrc_of_special (h : 0x76 ≤ c.toNat) : s.ssrc c = s.cur.specialScalar c.toNat := by
  have hreg : ¬ c.toNat < 0x40 := by omega
  simp [State.ssrc, hreg, Nat.not_lt.2 h]

theorem State.vsrc64_of_ones (h : c.toNat = 0x7E) : s.vsrc64 c = List.replicate 64 (BitVec.allOnes 64) := by
  simp [State.vsrc64, h]

/-- A 64-bit lane has the even line's lane as its low half and the next line's as its high half (02 R28). -/
theorem State.toNat_vsrc64_of_register (h : c.toNat < 0x60) {l : Nat} (hl : l < 64)
    (hlo : (s.cur.line (s.cur.wb + c.toNat)).length = 64) (hhi : (s.cur.line (s.cur.wb + c.toNat + 1)).length = 64) :
    ((s.vsrc64 c).getD l 0).toNat = (laneOf (s.cur.line (s.cur.wb + c.toNat)) l).toNat +
      2 ^ 32 * (laneOf (s.cur.line (s.cur.wb + c.toNat + 1)) l).toNat := by
  have hlane : (s.vsrc64 c).getD l 0 = BitVec.ofNat 64 ((laneOf (s.cur.line (s.cur.wb + c.toNat)) l).toNat +
      (laneOf (s.cur.line (s.cur.wb + c.toNat + 1)) l).toNat * 2 ^ 32) := by
    simp [State.vsrc64, h, laneOf, List.getD, hlo, hhi, hl]
  rw [hlane, BitVec.toNat_ofNat]
  omega

end Ranges

/-- A user strand's next pop of q4 is the oldest entry of its cohort's mailbox (04 R102). -/
theorem State.peek_mailbox {s : State} {st : Strand} {x : Line} {q : List Line} (hsup : st.sup = false)
    (h : (s.cohort st.ccb).mailbox = x :: q) : s.peek st 4 = .entry x := by
  simp [State.peek, hsup, h]

/-- What a special gives to a lane and as a scalar, from the two tables (Tables 3-3 and 3-4). -/
theorem State.special_reads {s : State} {c : Code} {n l lane : Nat} {scalar : DWord} (hc : c.toNat = n) (hn : 0x76 ≤ n)
    (hl : l < 64) (hlane : s.cur.specialLane n l = lane) (hscalar : s.cur.specialScalar n = scalar) :
    laneOf (s.vsrc c) l = BitVec.ofNat 32 lane ∧ s.ssrc c = scalar := by
  subst hc
  exact ⟨by rw [laneOf_vsrc_of_special hn hl, hlane], by rw [ssrc_of_special hn, hscalar]⟩

/-! ### Shadow mode -/

theorem Strand.laneNumber_eq (st : Strand) (l : Nat) : st.laneNumber l = if st.chk = 2 then l % 32 else l := by
  simp [Strand.laneNumber, Strand.shadow]

theorem Strand.threads_eq (st : Strand) : st.threads = if st.chk = 2 then 32 else 64 := by
  simp [Strand.threads, Strand.shadow]

end Sys2Proof.Machine

namespace Sys2Proof.Proofs

open Sys2Proof.Machine

/-- Settles O60: from the equation of each reader over the range of the code, and the tables of the specials. -/
theorem operandValues : Obligations.OperandValues := by
  intro c s l hl n st lane threads
  have hlane : st.laneNumber l = lane := st.laneNumber_eq l
  have hthreads : st.threads = threads := st.threads_eq
  refine ⟨?register, ?scalar, ?scalarRegister, ?mailbox, ?zero, ?laneId, ?strandIndex, ?threadId, ?one, ?floatOne, ?ones⟩
  case register =>
    intro h
    exact ⟨by rw [State.vsrc_of_register h], State.toNat_vsrc64_of_register h hl⟩
  case scalar =>
    intro h h'
    rw [State.vsrc_of_scalar h h', State.vsrc64_of_scalar h h', State.usrc_of_scalar h h']
    exact ⟨List.getD_replicate _ hl, List.getD_replicate _ hl, rfl⟩
  case scalarRegister => exact State.ssrc_of_register
  case mailbox =>
    intro h hsup x q hmail
    have hc : c.toNat = 0x74 := h
    have hpop : s.peek s.cur (c.toNat - 0x70) = .entry x := by rw [hc]; exact State.peek_mailbox hsup hmail
    have hlow : 0x70 ≤ c.toNat := by omega
    have hhigh : c.toNat < 0x76 := by omega
    rw [State.vsrc_of_entry hlow hhigh hpop, State.ssrc_of_entry hlow hhigh hpop]
    exact ⟨rfl, rfl⟩
  case zero => exact fun h => State.special_reads h (by decide) hl rfl rfl
  case laneId => exact fun h => State.special_reads h (by decide) hl hlane rfl
  case strandIndex => exact fun h => State.special_reads h (by decide) hl rfl rfl
  case threadId =>
    rw [← hthreads, ← hlane]
    exact fun h => State.special_reads h (by decide) hl rfl rfl
  case one => exact fun h => State.special_reads h (by decide) hl rfl rfl
  case floatOne => exact fun h => State.special_reads h (by decide) hl rfl rfl
  case ones =>
    intro h
    obtain ⟨hlanes, hscalar⟩ := State.special_reads (s := s) h (by decide) hl rfl rfl
    refine ⟨hlanes, hscalar, ?_⟩
    rw [State.vsrc64_of_ones h]
    exact List.getD_replicate _ hl

end Sys2Proof.Proofs
end

section
/-! Settles 03 R44 and R45. Each instruction has its own lemma in `Laws.Encode`: its word gives back its row and its operands. -/

namespace Sys2Proof.Laws.Encode

/-- The lemmas of the single instructions and events, in the order of the constructors of `Instr`. -/
theorem decode_of_encode (i : Instr) : Statement i :=
  i.casesOn
    vadd vsub vmullo vmulhis vmulhiu vmad vadds vsubs vaddx2 vsubx2 vmins vminu vmaxs vmaxu vdot4s vdot4u vand vor vxor vandn vshl
    vshru vshrs vrot vbfeu vbfes vbfi vsel vpopc vclz vctz vbrev vnot vabs vneg vsx8 vsx16 vzx8 vzx16 vmov vcmpeq vcmplts vcmpltu
    vcmples vcmpleu vshfl vshflx vshflup vshfldn vrdlane vwrlane vredadd vredmins vredmaxs vredand vredor vscanadd vballot vaddi
    vmuli vandi vori vxori vshli vshrui vshrsi vcmpeqi vcmpltsi vcmpltui vfadd vfsub vfmul vffma vffms vfmin vfmax vfcmpeq vfcmplt
    vfcmple vfcmpun vfsqrt vfrsq vfrcp vfexp2 vflog2 vfsinpi vfcospi vftanh vfabs vfneg vffloor vfceil vftrunc vfrne vffrac
    vfclass vcvt vcvts vpackF16 vpackBf16 vfscaleF32 vfscaleF64 vfdot2F16 vfdot2Bf16 sadd ssub smul smulhu smulhs sdivu sdivs
    sremu srems smins sminu smaxs smaxu sand sor sxor sandn sshl sshru sshrs sbfe sbfi spopc sclz sctz sbrev snot sneg ssx32 szx32
    smov scmpeq scmplts scmpltu scmples scmpleu ssel sgetst ssetst sfadd sfsub sfmul sffma sfcmplt sfcvt saddi sandi sori sxori
    sshli sshrui sshrsi scmpeqi scmpltsi scmpltui bri jr callr exit exitto spawn bar barSp parv pwait win winq vsw yield nop sysc
    brk tret enq join msd msdWithdraw msx hstat hstatLog sigmask sighand sighandCause sighandTaddr sighandTmask sighandFaddr pget
    pset unpark sig tinj swapo swapi sysrp tlbinv tfence tprobe aspill afill chres chabt lmapw chkmFloor chkmLmap chkmLfail
    chkmCmap chkmCnt chkmClr trcfg bpset wpset smpl garmShare garmRead garmRelease dcfg carve ctxon ctxoff qarm kill vreq halt
    resm intfwAck intfwFwd intfwRaise intfwSend ldb ldbs ldh ldhs ldw ldd ldq stb sth stw std stq sld sldw sst sstw ldwx stwx lda
    stl fence xfence atadd atmins atminu atmaxs atmaxu atand ator atxor atxchg atcas atfadd atdadd atdcas vatfadd vatbadd vatfmax
    vatiadd waitc pref cinv cwb ldpv stpv ldbc cpgt cptg cpgg cpat cpgs cpsg cpix tld tst cwp cwait cdone cfill ccan mmaBf16
    mmaF16 mmaE4m3 mmaE5m2 mmaMxe2m1 mmaMxe4m3 mmaMxe2m3 mmaI8 mgang macq mrel mzero mdrain mcfg mstat mwait br brz bru bruz brs
    jmp call sloop smovl smovh smovx smovt vmovl vmovh strandAged lineFill lineEvict frontierRefill producerWriteback
    floatWriteback successorStart slotFree binAgeExpiry gatherFormation l1Fill storeLost accessTimeout promotionRequest
    monitorFire waitcPoll monitorWake tailPoll commandStart deliveryUnit commandCompletion channelFault rendezvousComplete
    rendezvousTimeout mmaOperationComplete macqRetry drainEntryReady accDeadlockSwap mxnSet columnMapOut walkComplete
    heldEventEntry machineCheck tailRead recordPop queueResume starvationAge cohortPlacement promotion demotion quantumExpiry
    preemption switchRequest variantSwitch switchTimeout swapOut swapIn migration carveModeChange cohortCompletion
    launchCompletion debugStop sampleTag sampleRecord laneReissue lmapUpdate cloneReplay patrolRead hostMemWrite hostMemRead
    bar0Access mailboxDoorbell flushComplete atsInvalidationRequest peerInboundAccess portDown portWidthChange claimTimerExpiry
    icack msixUnmask integrityCheckFail ideKeyManagement spdmRequest keyExchange lockInterfaceRequest startInterfaceRequest
    stopInterfaceRequest getDeviceInterfaceReport hostConfigWrite functionLevelReset powerFail drainComplete gdone gskip
    policySliceEnd extentWrites sealLog railCollapse supplyReturn logErase thermalAlarm thermalTrip powerAlarm powerAlarmEnd
    powerGood stage1 stage2 firmwareUpdate activateFirmware getState startScrub grant revoke getRecord revokeDeadline
    scrubComplete registerWrite hostSnoop globalObservationResponse portUp portPDown portCError portPError resetDevice
    serviceCoreMessage

end Sys2Proof.Laws.Encode

namespace Sys2Proof.Proofs

/-- Settles O54: the lemma of each instruction (`Laws.Encode`), for every instruction. -/
theorem decodeOfEncode : Obligations.DecodeOfEncode := fun i w => Laws.Encode.decode_of_encode i w

end Sys2Proof.Proofs
end

section
/-! Settles 03 R45 and R48. A word is read from its top: the opcode, then field after field. `Head w lo c x` says how far a number x
agrees with w; a field of x and an unused field of w each move `lo` down to the end of the word. -/

namespace Sys2Proof.Machine

/-! ### A word, read from the top -/

/-- The number x holds the bits of w from bit `lo` up, and below them c. -/
def Head (w : Word) (lo c x : Nat) : Prop := x = w.toNat / 2 ^ lo * 2 ^ lo + c

theorem head_opcode {w : Word} {k c x : Nat} (hk : w.toNat / 8388608 = k) : Head w 23 c x ↔ x = k * 8388608 + c := by
  simp [Head, hk]

/-- The bits from `lo + n` up and the n bits from `lo` are the bits from `lo` up. -/
theorem head_bits_add (v lo n : Nat) :
    v / 2 ^ (lo + n) * 2 ^ (lo + n) + v / 2 ^ lo % 2 ^ n * 2 ^ lo = v / 2 ^ lo * 2 ^ lo := by
  rw [pow_add, ← Nat.div_div_eq_div_mul, mul_comm (2 ^ lo), ← mul_assoc, ← add_mul, Nat.div_add_mod']

@[simp] theorem head_add_bits {w : Word} {lo n c x m : Nat} (hm : m = 2 ^ lo) :
    Head w lo c (x + (bitsAt lo n w).toNat * m) ↔ Head w (lo + n) c x := by
  have hbits : (bitsAt lo n w).toNat = w.toNat / 2 ^ lo % 2 ^ n := BitVec.toNat_ofNat _ _
  rw [Head, Head, hm, hbits, ← head_bits_add w.toNat lo n]
  omega

@[simp] theorem head_add_low_bits {w : Word} {n c x : Nat} : Head w 0 c (x + (bitsAt 0 n w).toNat) ↔ Head w n c x := by
  simpa using head_add_bits (w := w) (lo := 0) (n := n) (c := c) (x := x) rfl

@[simp] theorem head_add_bit {w : Word} {lo c x m : Nat} (hm : m = 2 ^ lo) :
    Head w lo c (x + (bitAt lo w).toNat * m) ↔ Head w (lo + 1) c x := by
  have hbit : (bitAt lo w).toNat = w.toNat / 2 ^ lo % 2 ^ 1 := by
    obtain hb | hb := Nat.mod_two_eq_zero_or_one (w.toNat / 2 ^ lo) <;> simp [bitAt, hb]
  rw [Head, Head, hm, hbit, ← head_bits_add w.toNat lo 1]
  omega

/-- A field of w with the value v is passed by, whatever x holds: x needs no part for it (R48). -/
@[simp] theorem fix_iff_head {w : Word} {lo n v : Nat} :
    fix lo n v w = true ↔ ∀ c x, Head w lo c x ↔ Head w (lo + n) (v * 2 ^ lo + c) x := by
  have hfix : fix lo n v w = true ↔ w.toNat / 2 ^ lo % 2 ^ n = v := beq_iff_eq
  simp only [hfix, Head, ← head_bits_add w.toNat lo n]
  constructor
  · rintro rfl c x
    omega
  · intro h
    have hx := (h 0 _).1 rfl
    exact Nat.eq_of_mul_eq_mul_right (Nat.two_pow_pos lo) (by omega)

/-! ### What the rows of a class spell -/

/-- Whatever a decoder reads from w has w as its word. -/
def Spells (w : Word) (r : Except DecodeFault Instr) : Prop := ∀ i, r = .ok i → encode i = some w

theorem spells_error (w : Word) (f : DecodeFault) : Spells w (.error f) := nofun

theorem spells_ok {w : Word} {i : Instr} {x : Nat} (h : encode i = some (BitVec.ofNat 32 x)) (hx : Head w 0 0 x) :
    Spells w (.ok i) := by
  rintro i ⟨⟩
  have hnumber : x = w.toNat := by simpa [Head] using hx
  rw [h, hnumber, BitVec.ofNat_toNat, BitVec.setWidth_eq]

theorem spells_take {w : Word} {i : Instr} {ok : Bool} {x : Nat} (h : encode i = some (BitVec.ofNat 32 x))
    (hx : ok = true → Head w 0 0 x) : Spells w (take ok i) := by
  cases ok with
  | false => exact spells_error w _
  | true => exact spells_ok h (hx rfl)

theorem spells_decodeVector {op : Nat} {w : Word} (hop : w.toNat / 8388608 = op) : Spells w (decodeVector op w) := by
  fun_cases decodeVector op w
  all_goals first | exact spells_error w _ | refine spells_ok rfl ?_ | refine spells_take rfl fun _ => ?_
  all_goals simp_all only [Bool.and_eq_true, fix_iff_head, head_add_bits, head_add_low_bits, head_add_bit, FType.index,
    head_opcode hop, Nat.reduceAdd, Nat.reduceMul, Nat.reducePow]

theorem spells_decodeScalar {op : Nat} {w : Word} (hop : w.toNat / 8388608 = 128 + op) : Spells w (decodeScalar op w) := by
  fun_cases decodeScalar op w
  all_goals first | exact spells_error w _ | refine spells_ok rfl ?_ | refine spells_take rfl fun _ => ?_
  all_goals simp_all [head_opcode hop]

theorem spells_decodeMemory {op : Nat} {w : Word} (hop : w.toNat / 8388608 = 256 + op) : Spells w (decodeMemory op w) := by
  fun_cases decodeMemory op w
  all_goals first | exact spells_error w _ | refine spells_ok rfl ?_ | refine spells_take rfl fun _ => ?_
  all_goals simp_all [head_opcode hop]

theorem spells_decodeLong {op : Nat} {w : Word} (hop : w.toNat / 8388608 = 384 + op) : Spells w (decodeLong op w) := by
  fun_cases decodeLong op w
  all_goals first | exact spells_error w _ | refine spells_ok rfl ?_
  all_goals simp_all [head_opcode hop]

/-- The class and the opcode are the top nine bits of a word (R56). -/
theorem spells_decodeRow (w : Word) : Spells w (decodeRow w) := by
  have hword := w.isLt
  have hclass : w.toNat / 1073741824 < 4 := by omega
  unfold decodeRow
  interval_cases hc : w.toNat / 1073741824
  · exact spells_decodeVector (by omega)
  · exact spells_decodeScalar (by omega)
  · exact spells_decodeMemory (by omega)
  · exact spells_decodeLong (by omega)

/-- The decoder gives the instruction of the row, if no sub-field of it is reserved (R60). -/
theorem decode_eq_ok_iff {w : Word} {i : Instr} : decode w = .ok i ↔ decodeRow w = .ok i ∧ i.wellFormed = true := by
  unfold decode
  cases decodeRow w with
  | error f => simp
  | ok j =>
    by_cases hj : j.wellFormed = true
    · simp only [hj, if_true, Except.ok.injEq]
      exact ⟨by rintro rfl; exact ⟨rfl, hj⟩, And.left⟩
    · simp only [hj, Bool.false_eq_true, if_false, reduceCtorEq, Except.ok.injEq, false_iff, not_and]
      rintro rfl
      exact hj

end Sys2Proof.Machine

namespace Sys2Proof.Proofs

open Sys2Proof.Machine

/-- Settles O55: every row spells the word it is read from (`spells_decodeRow`). -/
theorem encodeOfDecode : Obligations.EncodeOfDecode := by
  intro i w h
  obtain ⟨hrow, hwf⟩ := decode_eq_ok_iff.1 h
  exact ⟨spells_decodeRow w i hrow, hwf⟩

end Sys2Proof.Proofs
end

section
/-! Settles 03 R57 with R59. An instruction with the check of STAT.PRIV raises one of three causes where the field is clear; the words
of all other instructions lie outside the range of the privileged opcodes. -/

namespace Sys2Proof.Machine

open Sys2Proof.Claims

/-! ### An instruction that its operand fields hold back -/

/-- What `State.halt` does with a cause at the PC of the entry. -/
theorem State.halt_trap (s : State) (c : Cause) : s.halt (.trap c (pcWord (candidate s.cur).pc)) = s.raiseAll c := rfl

theorem run_of_operandCause {s : State} {us extra bad priv} {k : State → State} {h : Halt}
    (hc : s.operandCause us bad priv = some h) : run s us extra bad priv k = .next (s.halt h) := by
  simp [run, runWith, State.halted, hc]

theorem run_of_operandWait {s : State} {us extra bad priv} {k : State → State} {h : Halt}
    (hc : s.operandCause us bad priv = none) (hw : s.operandWait us extra false = some h) :
    run s us extra bad priv k = .next (s.halt h) := by
  simp [run, runWith, State.halted, hc, hw]

/-- The first cause without STAT.PRIV: a bad word, a bad operand code, else the missing privilege (R59). -/
def unprivilegedCause (us : List Use) (bad : Bool) : Cause :=
  if bad then .illegalOpcode else if us.all (fun u => u.accepted) then .privileged else .illegalOperand

theorem State.operandCause_unprivileged {s : State} (us : List Use) (bad : Bool) (hp : s.cur.priv = false) :
    s.operandCause us bad true = some (.trap (unprivilegedCause us bad) (pcWord (candidate s.cur).pc)) := by
  unfold unprivilegedCause
  cases bad with
  | true => simp [State.operandCause]
  | false => cases h : us.all fun u => u.accepted <;> simp_all [State.operandCause]

theorem run_unprivileged {s : State} (us extra) (bad : Bool) (k : State → State) (hp : s.cur.priv = false) :
    run s us extra bad true k = .next (s.raiseAll (unprivilegedCause us bad)) := by
  rw [run_of_operandCause (s.operandCause_unprivileged us bad hp), State.halt_trap]

/-! ### The privileged opcodes (R57) -/

/-- The instruction runs with the check of STAT.PRIV. -/
def ChecksPrivilege (i : Instr) : Prop := ∀ s, ∃ us extra bad k, exec i s = run s us extra bad true k

theorem checksPrivilege_pget (d : Code) (sel : BitVec 9) : ChecksPrivilege (.pget d sel) := by
  intro s
  unfold exec execPget
  exact ⟨_, _, _, _, rfl⟩

theorem checksPrivilege_tfence (sel : BitVec 3) : ChecksPrivilege (.tfence sel) := by
  intro s
  unfold exec execTfence
  exact ⟨_, _, _, _, rfl⟩

theorem checksPrivilege_smpl (d : Code) (p : BitVec 5) : ChecksPrivilege (.smpl d p) := by
  intro s
  unfold exec execSmpl
  exact ⟨_, _, _, _, rfl⟩

theorem privilegedWord_iff {w : Word} : privilegedWord w = true ↔ 0x70000000 ≤ w.toNat ∧ w.toNat < 0x80000000 := by
  simp only [privilegedWord, Bool.and_eq_true, decide_eq_true_eq]
  omega

/-- The words of the other instructions lie outside the range of the privileged opcodes, whatever their operands. -/
theorem checksPrivilege_of_encode {i : Instr} {w : Word} (h : encode i = some w) (hw : privilegedWord w = true) :
    ChecksPrivilege i := by
  rw [privilegedWord_iff] at hw
  cases i
  case pget => exact checksPrivilege_pget _ _
  case tfence => exact checksPrivilege_tfence _
  case smpl => exact checksPrivilege_smpl _ _
  all_goals cases h
  all_goals try cases_type FType
  all_goals simp only [BitVec.toNat_ofNat, ← BitVec.toNat_ofBool, FType.index] at hw
  all_goals first | omega | exact fun s => ⟨_, _, _, _, rfl⟩

theorem exec_of_mem_privilegedTable {i : Bool → Bool → Code → Code → Code → Instr} (hi : i ∈ privilegedTable)
    (e g : Bool) (d a b : Code) (s : State) : ∃ k, exec (i e g d a b) s = run s (usesPriv e g d a b) [] false true k := by
  unfold privilegedTable at hi
  fin_cases hi
  all_goals exact ⟨_, rfl⟩

end Sys2Proof.Machine

namespace Sys2Proof.Proofs

open Sys2Proof.Machine Sys2Proof.Claims

/-- Settles O58: from the one lemma of what `run` does without STAT.PRIV (`run_unprivileged`). -/
theorem privilegedOpcodes : Obligations.PrivilegedOpcodes := by
  refine ⟨?anyWord, ?scalarOperands⟩
  case anyWord =>
    intro i w s h hw hp
    obtain ⟨us, extra, bad, k, hrun⟩ := checksPrivilege_of_encode h hw s
    rw [hrun, run_unprivileged us extra bad k hp, unprivilegedCause]
    split_ifs
    · exact .inr (.inr rfl)
    · exact .inl rfl
    · exact .inr (.inl rfl)
  case scalarOperands =>
    intro i hi e g d a b s hp
    obtain ⟨k, hrun⟩ := exec_of_mem_privilegedTable hi e g d a b s
    exact hrun.trans (run_unprivileged _ _ _ k hp)

end Sys2Proof.Proofs
end

section
/-! Settles 03 R49, R50, R53, R54 and R59 with 04 R98, R99 and 06 R162. One lemma for each cause and each wait, in their order, for any
fields; then what the two sources and the destination of a vector integer instruction name. -/

namespace Sys2Proof.Machine

open Sys2Proof.Claims

/-! ### The causes in their order (R59), and the waits (06 R162) -/

/-- Whether a field raises 0x04: a source that reads empty with its trap bit (R49). -/
def State.trapsOn (s : State) (u : Use) : Bool := u.trap && u.role.source && !s.cur.misuses u && s.useEmpty s.cur u

/-- A line or a scalar that the fields name reads empty. -/
def State.NamesEmpty (s : State) (us : List Use) : Prop :=
  (∃ n ∈ usedLines us s.cur.wb, s.cur.vFull.getLsbD n = false) ∨
    ∃ u ∈ us, ∃ m, u.scalar? = some m ∧ s.cur.sFull.getLsbD m = false

section Order
variable {s : State} {us : List Use}

theorem operandCause_of_not_accepted (hcodes : us.all (fun u => u.accepted) = false) (priv : Bool) :
    s.operandCause us false priv = some (.trap .illegalOperand (pcWord (candidate s.cur).pc)) := by
  have hany : us.any (fun u => !u.accepted) = true := by simpa using hcodes
  simp [State.operandCause, hany]

theorem operandCause_of_trapsOn (hcodes : us.all (fun u => u.accepted) = true) (htraps : us.any s.trapsOn = true) :
    s.operandCause us false false = some (.trap .registerEmpty (pcWord (candidate s.cur).pc)) := by
  have hany : us.any (fun u => !u.accepted) = false := by simpa using hcodes
  simp only [State.operandCause, hany, Bool.false_and, Bool.false_eq_true, if_false]
  exact if_pos htraps

theorem operandCause_of_undeclared (hcodes : us.all (fun u => u.accepted) = true) (htraps : us.any s.trapsOn = false)
    (hlines : (usedLines us s.cur.wb).all (fun n => decide (n < s.cur.nlines)) = false) :
    s.operandCause us false false = some (.trap .windowOverflow (pcWord (candidate s.cur).pc)) := by
  have hany : us.any (fun u => !u.accepted) = false := by simpa using hcodes
  have hover : (usedLines us s.cur.wb).any (fun n => decide (s.cur.nlines ≤ n)) = true := by simpa using hlines
  simp only [State.operandCause, hany, hover, Bool.false_and, Bool.false_eq_true, if_false, if_true]
  exact if_neg (Bool.eq_false_iff.1 htraps)

theorem sourceQueues_eq_nil (h : ∀ u ∈ us, u.queue? = none) : sourceQueues us = [] := by
  unfold sourceQueues
  have hsources : ∀ u ∈ us.filter fun u => u.role.source, u.queue? = none := fun u hu => h u (List.mem_filter.1 hu).1
  generalize us.filter (fun u => u.role.source) = l at hsources
  induction l with
  | nil => rfl
  | cons u l ih =>
    obtain ⟨hu, hl⟩ := List.forall_mem_cons.1 hsources
    simpa [hu] using ih hl

theorem operandCause_eq_none (hcodes : us.all (fun u => u.accepted) = true) (htraps : us.any s.trapsOn = false)
    (hlines : (usedLines us s.cur.wb).all (fun n => decide (n < s.cur.nlines)) = true) (hqueues : ∀ u ∈ us, u.queue? = none) :
    s.operandCause us false false = none := by
  have hany : us.any (fun u => !u.accepted) = false := by simpa using hcodes
  have hover : (usedLines us s.cur.wb).any (fun n => decide (s.cur.nlines ≤ n)) = false := by simpa using hlines
  have hmisuse : us.any (fun u => s.cur.misuses u) = false := by
    rw [List.any_eq_false]
    intro u hu
    simp [Strand.misuses, hqueues u hu]
  simp only [State.operandCause, hany, hover, hmisuse, sourceQueues_eq_nil hqueues, Bool.false_and, Bool.false_eq_true,
    if_false, List.filterMap_nil]
  exact if_neg (Bool.eq_false_iff.1 htraps)

theorem operandWait_of_empty {extra : List Nat} {replay : Bool}
    (hresident : (usedLines us s.cur.wb ++ extra).any (fun n => s.cur.absent.getLsbD n) = false)
    (h : s.NamesEmpty us) : s.operandWait us extra replay = some (.wait 8) := by
  simp only [State.operandWait, hresident, Bool.false_eq_true, if_false]
  refine if_pos ?_
  rw [Bool.or_eq_true, List.any_eq_true, List.any_eq_true]
  obtain ⟨n, hn, hempty⟩ | ⟨u, hu, m, hm, hempty⟩ := h
  · exact .inl ⟨n, List.mem_append_left _ hn, by simp [hempty]⟩
  · exact .inr ⟨u, hu, by simp [hm, hempty]⟩

theorem operandWait_of_absent {extra : List Nat} {replay : Bool}
    (h : ∃ n ∈ usedLines us s.cur.wb, s.cur.absent.getLsbD n = true) : s.operandWait us extra replay = some (.wait 7) := by
  obtain ⟨n, hn, habsent⟩ := h
  have hany : (usedLines us s.cur.wb ++ extra).any (fun n => s.cur.absent.getLsbD n) = true :=
    List.any_eq_true.2 ⟨n, List.mem_append_left _ hn, habsent⟩
  simp only [State.operandWait, hany, if_true]

end Order

/-! ### The fields of a vector integer instruction -/

section Fields
variable {s : State} {c : Code} {trap : Bool}

theorem Use.lines_vsrc_register (wb : Nat) (h : c.toNat < 0x60) : (Use.mk .vsrc c trap).lines wb = [wb + c.toNat] := by
  simp [Use.lines, Role.scalarClass, Role.width, isVreg, h]

theorem Use.lines_vsrc_other (wb : Nat) (h : 0x60 ≤ c.toNat) : (Use.mk .vsrc c trap).lines wb = [] := by
  simp [Use.lines, isVreg, Nat.not_lt.2 h]

theorem Use.scalar?_vsrc : (Use.mk .vsrc c trap).scalar? = if isSeg c.toNat then some (c.toNat - 0x60) else none := rfl

theorem Use.lines_vdst (wb : Nat) (h : c.toNat < 0x60) : (Use.mk .vdst c trap).lines wb = [wb + c.toNat] := by
  simp [Use.lines, Role.scalarClass, Role.width, isVreg, h]

theorem Use.queue?_eq_none (role : Role) (h : c.toNat < 0x70) : (Use.mk role c trap).queue? = none := by
  simp [Use.queue?, isQueue, Nat.not_le.2 h]

theorem State.useEmpty_vsrc_iff (h : c.toNat < 0x70) :
    s.useEmpty s.cur ⟨.vsrc, c, trap⟩ = true ↔ EmptySource s c := by
  obtain hreg | hseg := Nat.lt_or_ge c.toNat 0x60
  · simp [State.useEmpty, EmptySource, Use.lines_vsrc_register _ hreg, Use.scalar?_vsrc, Use.queue?_eq_none _ h, isSeg,
      Nat.not_le.2 hreg, hreg]
  · simp [State.useEmpty, EmptySource, Use.lines_vsrc_other _ hseg, Use.scalar?_vsrc, Use.queue?_eq_none _ h, isSeg, hseg, h,
      Nat.not_lt.2 hseg]

theorem emptySource_lt (h : EmptySource s c) : c.toNat < 0x70 := by
  obtain ⟨hreg, _⟩ | ⟨_, hseg, _⟩ := h <;> omega

theorem Strand.misuses_eq_false (st : Strand) (role : Role) (h : c.toNat < 0x70) : st.misuses ⟨role, c, trap⟩ = false := by
  simp [Strand.misuses, Use.queue?_eq_none _ h]

end Fields

section Vector
variable {s : State} {c d a b : Code} {e g trap : Bool}

theorem trapsOn_vsrc_iff (h : c.toNat < 0x70) : s.trapsOn ⟨.vsrc, c, trap⟩ = true ↔ trap = true ∧ EmptySource s c := by
  simp [State.trapsOn, Strand.misuses_eq_false _ _ h, State.useEmpty_vsrc_iff h, Role.source]

theorem any_trapsOn_of_traps (h : (e = true ∧ EmptySource s a) ∨ (g = true ∧ EmptySource s b)) :
    (usesV e g d a b).any s.trapsOn = true := by
  obtain ha | hb := h
  · simp [usesV, (trapsOn_vsrc_iff (emptySource_lt ha.2)).2 ha]
  · simp [usesV, (trapsOn_vsrc_iff (emptySource_lt hb.2)).2 hb]

theorem any_trapsOn_eq_false (ha : a.toNat < 0x70) (hb : b.toNat < 0x70)
    (h : ¬ ((e = true ∧ EmptySource s a) ∨ (g = true ∧ EmptySource s b))) : (usesV e g d a b).any s.trapsOn = false := by
  obtain ⟨hna, hnb⟩ := not_or.1 h
  have hd : s.trapsOn ⟨.vdst, d, false⟩ = false := rfl
  simp only [usesV, List.any_cons, List.any_nil, hd, Bool.or_false, Bool.or_eq_false_iff]
  exact ⟨Bool.eq_false_iff.2 (mt (trapsOn_vsrc_iff ha).1 hna), Bool.eq_false_iff.2 (mt (trapsOn_vsrc_iff hb).1 hnb)⟩

theorem usesV_accepted (ha : a.toNat < 0x70) (hb : b.toNat < 0x70) (hd : d.toNat < 0x60) :
    (usesV e g d a b).all (fun u => u.accepted) = true := by
  simp only [usesV, List.all_cons, List.all_nil, Use.accepted, isVreg, isSeg, Bool.and_true, Bool.and_eq_true,
    Bool.or_eq_true, decide_eq_true_eq]
  omega

theorem usesV_queue? (ha : a.toNat < 0x70) (hb : b.toNat < 0x70) (hd : d.toNat < 0x60) :
    ∀ u ∈ usesV e g d a b, u.queue? = none := by
  simp [usesV, Use.queue?_eq_none, ha, hb, Nat.lt_trans hd]

theorem namesEmpty_of_emptySource {us : List Use} (hu : ⟨.vsrc, c, trap⟩ ∈ us) (h : EmptySource s c) : s.NamesEmpty us := by
  obtain ⟨hreg, _, hempty⟩ | ⟨hlow, hhigh, hempty⟩ := h
  · exact .inl ⟨_, List.mem_flatMap.2 ⟨_, hu, by simp [Use.lines_vsrc_register _ hreg]⟩, hempty⟩
  · exact .inr ⟨_, hu, _, by simp [Use.scalar?_vsrc, isSeg, hlow, hhigh], hempty⟩

theorem namesEmpty_of_usesV (hd : d.toNat < 0x60)
    (h : EmptySource s a ∨ EmptySource s b ∨ s.cur.vFull.getLsbD (s.cur.wb + d.toNat) = false) :
    s.NamesEmpty (usesV e g d a b) := by
  obtain ha | hb | hempty := h
  · exact namesEmpty_of_emptySource (trap := e) (by simp [usesV]) ha
  · exact namesEmpty_of_emptySource (trap := g) (by simp [usesV]) hb
  · exact .inl ⟨_, List.mem_flatMap.2 ⟨⟨.vdst, d, false⟩, by simp [usesV], by simp [Use.lines_vdst _ hd]⟩, hempty⟩

end Vector

/-! ### The instructions of Tables 8-1 and 8-3 -/

theorem runVec_of_chk_ne_one {s : State} (hc : s.cur.chk ≠ 1) (n : Nat) (us extra bad priv) (k : State → State) :
    runVec s n us extra bad priv k = run s us extra bad priv k := by
  simp [runVec, State.queuesReplay, hc]

theorem exec_of_mem_vectorTable {p} (hp : p ∈ vectorTable) (e g : Bool) (d a b : Code) {s : State} (hc : s.cur.chk ≠ 1) :
    ∃ k, exec (p.1 e g d a b) s = run s (usesV e g d a b) [] false false k := by
  have hvec : ∃ k, exec (p.1 e g d a b) s = runVec s 1 (usesV e g d a b) [] false false k := by
    unfold vectorTable at hp
    fin_cases hp
    all_goals exact ⟨_, rfl⟩
  obtain ⟨k, hk⟩ := hvec
  exact ⟨k, by rw [hk, runVec_of_chk_ne_one hc]⟩

end Sys2Proof.Machine

namespace Sys2Proof.Proofs

open Sys2Proof.Machine Sys2Proof.Claims

/-- Settles O59: each cause and each wait by its lemma; the hypotheses of the later ones say that no earlier one applies. -/
theorem operandChecks : Obligations.OperandChecks := by
  intro p hp e g d a b s hchk us ls codes traps declared
  obtain ⟨k, hrun⟩ := exec_of_mem_vectorTable hp e g d a b hchk
  rw [hrun]
  refine ⟨?illegalOperand, ?registerEmpty, ?register⟩
  case illegalOperand => exact fun hcodes => run_of_operandCause (operandCause_of_not_accepted hcodes false)
  case registerEmpty =>
    exact fun hcodes htraps => run_of_operandCause (operandCause_of_trapsOn hcodes (any_trapsOn_of_traps htraps))
  case register =>
    intro ha hb hd htraps
    have hcodes : us.all (fun u => u.accepted) = true := usesV_accepted ha hb hd
    have hnone : us.any s.trapsOn = false := any_trapsOn_eq_false ha hb htraps
    have hcause (hdeclared : declared = true) : s.operandCause us false false = none :=
      operandCause_eq_none hcodes hnone hdeclared (usesV_queue? ha hb hd)
    refine ⟨?windowOverflow, ?absent, ?empty⟩
    case windowOverflow => exact fun hdeclared => run_of_operandCause (operandCause_of_undeclared hcodes hnone hdeclared)
    case absent =>
      exact fun hdeclared habsent => run_of_operandWait (hcause hdeclared) (operandWait_of_absent habsent)
    case empty =>
      intro hdeclared hresident hempty
      have hall : (ls ++ []).any (fun n => s.cur.absent.getLsbD n) = false := by
        rw [List.append_nil, List.any_eq_false]
        exact fun n hn => Bool.eq_false_iff.1 (hresident n hn)
      exact run_of_operandWait (hcause hdeclared) (operandWait_of_empty hall (namesEmpty_of_usesV hd hempty))

end Sys2Proof.Proofs
end

section
/-! DEG of the benches (17 Table 17-1) under the operations of the state: none of them changes it. The frame of O57, in which a degraded
bench takes a second cycle for an issue (06 R154). -/

namespace Sys2Proof.Machine

open Sys2Proof.Claims

/-- DEG of each bench of a core with the lane maps t (17 Table 17-1). -/
def degOf (t : Tab DWord) (b : Nat) : Bool := (Tab.get (0x7F : DWord) t b).getLsbD 63

/-- DEG of each bench of each core. -/
def coresDegBits (t : Tab Core) (c : Nat) : Nat → Bool := degOf (Tab.get {} t c).lmap

/-- DEG of each bench of each core of a state. -/
@[irreducible] def State.degBits (s : State) : Nat → Nat → Bool := coresDegBits s.cores

@[simp] theorem State.degBits_mk (local_ host peer strands cohorts spans cores slices monitors marks disp link guard root
    contexts fwRoot ueLocal ueHost uePeer outputs free agenda now stage2At curKey turn reached) :
    State.degBits (State.mk local_ host peer strands cohorts spans cores slices monitors marks disp link guard root contexts
      fwRoot ueLocal ueHost uePeer outputs free agenda now stage2At curKey turn reached) = coresDegBits cores := by
  unfold State.degBits
  rfl

@[simp] theorem State.coresDegBits_cores (s : State) : coresDegBits s.cores = s.degBits := by
  unfold State.degBits
  rfl

@[simp] theorem State.core_degBits (s : State) (c : Nat) : degOf (s.core c).lmap = s.degBits c := by
  unfold State.degBits
  rfl

theorem State.lmapOf_degBits (s : State) (c b : Nat) : (s.lmapOf c b).getLsbD 63 = s.degBits c b :=
  congrFun (s.core_degBits c) b

@[simp] theorem State.degBits_ite (c : Prop) [Decidable c] (s t : State) :
    (if c then s else t).degBits = if c then s.degBits else t.degBits :=
  apply_ite State.degBits c s t

theorem degBits_of_eq {α : Type} {p : State × α} {t : State} {x : α} (h : p = (t, x)) : t.degBits = p.1.degBits := by
  rw [h]

@[simp] theorem foldl_degBits {α : Type} (f : State → α → State) (h : ∀ s x, (f s x).degBits = s.degBits) (l : List α)
    (s : State) : (l.foldl f s).degBits = s.degBits := by
  induction l generalizing s with
  | nil => rfl
  | cons a l ih => exact (ih _).trans (h s a)

@[simp] theorem foldl_fst_degBits {α β : Type} (f : State × β → α → State × β) (h : ∀ p x, (f p x).1.degBits = p.1.degBits)
    (l : List α) (p : State × β) : (l.foldl f p).1.degBits = p.1.degBits := by
  induction l generalizing p with
  | nil => rfl
  | cons a l ih => exact (ih _).trans (h p a)

@[simp] theorem coresDegBits_map (f : Nat × Core → Core) (h : ∀ x, (f x).lmap = x.2.lmap) (t : Tab Core) :
    coresDegBits (t.map fun x => (x.1, f x)) = coresDegBits t := by
  funext c
  induction t with
  | nil => rfl
  | cons a t ih =>
    obtain ⟨k, v⟩ := a
    simp only [coresDegBits, List.map_cons, Tab.get] at ih ⊢
    split
    · rw [h (k, v)]
    · exact ih

/-- DEG of the benches in the next state, where an instruction gives one, satisfies a condition. -/
def NextDegBits (P : (Nat → Nat → Bool) → Prop) : Host.Outcome State Fault Refusal → Prop
  | .next t => P t.degBits
  | .fault _ | .refused _ => True

@[simp] theorem nextDegBits_next (P) (t : State) : NextDegBits P (.next t) ↔ P t.degBits := Iff.rfl

@[simp] theorem nextDegBits_ite (P) (c : Prop) [Decidable c] (a b : Host.Outcome State Fault Refusal) :
    NextDegBits P (if c then a else b) ↔ if c then NextDegBits P a else NextDegBits P b := by
  split <;> rfl

/-! ### What functions of a core leave of its lane maps -/

@[simp] theorem Core.lmap_ite (c : Prop) [Decidable c] (k l : Core) :
    (if c then k else l).lmap = if c then k.lmap else l.lmap :=
  apply_ite Core.lmap c k l
@[simp] theorem Core.enter_lmap (k : Core) (e) : (k.enter e).lmap = k.lmap := rfl
@[simp] theorem Core.clearColumns_lmap (k : Core) (phys cols) : (k.clearColumns phys cols).lmap = k.lmap := rfl
@[simp] theorem Core.setRegister_lmap (k : Core) (n v) : (k.setRegister n v).lmap = k.lmap := by
  unfold Core.setRegister
  split_ifs <;> rfl
@[simp] theorem Core.setAcc_lmap (k : Core) (phys i j v) : (k.setAcc phys i j v).lmap = k.lmap := rfl
@[simp] theorem foldl_setAcc_lmap (phys : Nat) (v : Nat → Nat) (l : List Nat) (k : Core) :
    (l.foldl (fun k e => k.setAcc phys (e / 128) (e % 128) (v e)) k).lmap = k.lmap := by
  induction l generalizing k with
  | nil => rfl
  | cons e l ih => exact ih _
@[simp] theorem Core.clearTile_lmap (k : Core) (phys) : (k.clearTile phys).lmap = k.lmap := rfl
@[simp] theorem Core.clearSlot_lmap (k : Core) (phys) : (k.clearSlot phys).lmap = k.lmap := rfl

/-! ### Strands, cohorts, cores and events -/

@[simp] theorem State.setStrand_degBits (s : State) (k st) : (s.setStrand k st).degBits = s.degBits := by
  simp [State.setStrand]
@[simp] theorem State.setCur_degBits (s : State) (st) : (s.setCur st).degBits = s.degBits := by
  simp [State.setCur]
@[simp] theorem State.setCore_degBits (s : State) (c : Nat) (k : Core) (h : degOf k.lmap = s.degBits c) :
    (s.setCore c k).degBits = s.degBits := by
  funext x
  simp only [State.setCore, State.degBits_mk, coresDegBits, Tab.get_put]
  split
  · next hx => rw [h, hx]
  · exact s.core_degBits x
@[simp] theorem State.setCohort_degBits (s : State) (ccb c) : (s.setCohort ccb c).degBits = s.degBits := by
  simp [State.setCohort]
@[simp] theorem State.setCurCohort_degBits (s : State) (c) : (s.setCurCohort c).degBits = s.degBits := by
  simp [State.setCurCohort]
@[simp] theorem State.tick_degBits (s : State) : (s.tick).degBits = s.degBits := by
  simp [State.tick]
@[simp] theorem State.postEvent_degBits (s : State) (core e) : (s.postEvent core e).degBits = s.degBits := by
  simp [State.postEvent]

/-! ### Translation and accesses by engines (12) -/

@[simp] theorem State.noteWrite_degBits (s : State) (l a n) : (s.noteWrite l a n).degBits = s.degBits := by
  simp [State.noteWrite]
@[simp] theorem State.overwrite_degBits (s : State) (peer a n) : (s.overwrite peer a n).degBits = s.degBits := by
  simp only [State.overwrite, State.degBits_mk]
  exact (coresDegBits_map (fun k => k.2.overwrite peer a n) (fun _ => rfl) _).trans s.coresDegBits_cores
@[simp] theorem State.putQuiet_degBits (s : State) (l a n v) : (s.putQuiet l a n v).degBits = s.degBits := by
  simp only [State.putQuiet]; split <;> simp
@[simp] theorem State.putBytes_degBits (s : State) (l a n v) : (s.putBytes l a n v).degBits = s.degBits := by
  simp [State.putBytes]
@[simp] theorem State.clearBytes_degBits (s : State) (l a n) : (s.clearBytes l a n).degBits = s.degBits := by
  simp only [State.clearBytes]; split <;> simp
@[simp] theorem State.keepEntry_degBits (s : State) (core t) : (s.keepEntry core t).degBits = s.degBits := by
  simp only [State.keepEntry]; split <;> simp
@[simp] theorem State.installSlice_degBits (s : State) (pasid va leaf level path) :
    (s.installSlice pasid va leaf level path).degBits = s.degBits := by
  simp [State.installSlice]
@[simp] theorem State.installLeaf_degBits (s : State) (core pasid va leaf level path) :
    (s.installLeaf core pasid va leaf level path).degBits = s.degBits := by
  simp only [State.installLeaf]; split <;> simp

@[simp] theorem State.setAccessed_degBits (s : State) (x addr host dirty) :
    (s.setAccessed x addr host dirty).1.degBits = s.degBits := by
  simp only [State.setAccessed]
  repeat' split
  all_goals simp

@[simp] theorem State.walkAccess_degBits (s : State) (core pasid user k va root) :
    (s.walkAccess core pasid user k va root).1.degBits = s.degBits := by
  simp only [State.walkAccess]
  repeat' split
  all_goals simp

@[simp] theorem State.atsPage_degBits (s : State) (pasid va page) : (s.atsPage pasid va page).1.degBits = s.degBits := by
  simp only [State.atsPage]; split <;> simp
@[simp] theorem State.atsPlace_degBits (s : State) (pasid va p) : (s.atsPlace pasid va p).1.degBits = s.degBits := by
  simp only [State.atsPlace]; split <;> simp

@[simp] theorem State.translateLeaf_degBits (s : State) (core pasid user k va) :
    (s.translateLeaf core pasid user k va).1.degBits = s.degBits := by
  simp only [State.translateLeaf]
  repeat' split
  all_goals simp

@[simp] theorem State.translateFor_degBits (s : State) (core pasid user k va) :
    (s.translateFor core pasid user k va).1.degBits = s.degBits := by
  simp only [State.translateFor]
  split <;> (rename_i heq; simp [degBits_of_eq heq])

@[simp] theorem State.translate_degBits (s : State) (core pasid user k va) :
    (s.translate core pasid user k va).1.degBits = s.degBits := by
  simp [State.translate]
@[simp] theorem State.walkEngine_degBits (s : State) (pasid va dirty) : (s.walkEngine pasid va dirty).degBits = s.degBits := by
  simp only [State.walkEngine]
  repeat' split
  all_goals simp
@[simp] theorem State.touch_degBits (s : State) (pasid va dirty) : (s.touch pasid va dirty).degBits = s.degBits := by
  simp only [State.touch]
  repeat' split
  all_goals simp
@[simp] theorem State.touchRange_degBits (s : State) (pasid va n) : (s.touchRange pasid va n).degBits = s.degBits := by
  simp [State.touchRange]
@[simp] theorem State.engineWrite_degBits (s : State) (pasid va n v) : (s.engineWrite pasid va n v).degBits = s.degBits := by
  simp only [State.engineWrite]; split <;> simp
@[simp] theorem State.writeRecord_degBits (s : State) (r) : (s.writeRecord r).1.degBits = s.degBits := by
  simp [State.writeRecord]
@[simp] theorem State.writeRecords_degBits (s : State) (l) : (s.writeRecords l).1.degBits = s.degBits := by
  simp [State.writeRecords]

/-! ### Interrupts, machine checks and lane records (13, 15, 18) -/

@[simp] theorem State.setFunction_degBits (s : State) (f x) : (s.setFunction f x).degBits = s.degBits := by
  simp [State.setFunction]
@[simp] theorem State.output_degBits (s : State) (o) : (s.output o).degBits = s.degBits := by
  simp [State.output]
@[simp] theorem State.countLostMsix_degBits (s : State) (n) : (s.countLostMsix n).degBits = s.degBits := by
  simp [State.countLostMsix]
@[simp] theorem State.postMsix_degBits (s : State) (fn vec) : (s.postMsix fn vec).degBits = s.degBits := by
  simp [State.postMsix]
@[simp] theorem State.sendMsix_degBits (s : State) (fn vec) : (s.sendMsix fn vec).1.degBits = s.degBits := by
  simp only [State.sendMsix]
  repeat' split
  all_goals simp
@[simp] theorem State.setClaim_degBits (s : State) (i c) : (s.setClaim i c).degBits = s.degBits := by
  simp [State.setClaim]
@[simp] theorem State.fire_degBits (s : State) (i) : (s.fire i).degBits = s.degBits := by
  simp [State.fire]
@[simp] theorem State.laneRecord_degBits (s : State) (st kind idx lane pc value) :
    (s.laneRecord st kind idx lane pc value).degBits = s.degBits := by
  simp [State.laneRecord]
@[simp] theorem State.laneRecords_degBits (s : State) (st kind idx m pc v) :
    (s.laneRecords st kind idx m pc v).degBits = s.degBits := by
  simp [State.laneRecords]
@[simp] theorem State.flow_degBits (s : State) (e m target) : (s.flow e m target).degBits = s.degBits := by
  simp [State.flow]
@[simp] theorem State.stopCohort_degBits (s : State) (ccb why) : (s.stopCohort ccb why).degBits = s.degBits := by
  simp [State.stopCohort]

/-! ### Causes, barriers and frontiers (06, 13) -/

@[simp] theorem State.stopSupervisor_degBits (s : State) (core e) : (s.stopSupervisor core e).degBits = s.degBits := by
  simp [State.stopSupervisor]
@[simp] theorem State.raiseSupervisor_degBits (s : State) (k e r) : (s.raiseSupervisor k e r).degBits = s.degBits := by
  simp [State.raiseSupervisor]
@[simp] theorem State.parkNow_degBits (s : State) (k e r) : (s.parkNow k e r).degBits = s.degBits := by
  simp [State.parkNow]
@[simp] theorem State.park_degBits (s : State) (k e r) : (s.park k e r).degBits = s.degBits := by
  simp [State.park]
@[simp] theorem State.countCheck_degBits (s : State) (core i) : (s.countCheck core i).degBits = s.degBits := by
  simp [State.countCheck]
@[simp] theorem State.takeCause_degBits (s0 : State) (k e r) : (s0.takeCause k e r).degBits = s0.degBits := by
  simp [State.takeCause]
@[simp] theorem State.releaseBarrier_degBits (s : State) (ccb) : (s.releaseBarrier ccb).degBits = s.degBits := by
  simp [State.releaseBarrier]
@[simp] theorem State.unarrive_degBits (s : State) (ccb) : (s.unarrive ccb).degBits = s.degBits := by
  simp [State.unarrive]
@[simp] theorem State.invalidateL1_degBits (s : State) (core) : (s.invalidateL1 core).degBits = s.degBits := by
  simp [State.invalidateL1]
@[simp] theorem State.checkSpan_degBits (s : State) (id) : (s.checkSpan id).degBits = s.degBits := by
  simp [State.checkSpan]
@[simp] theorem State.checkBarrier_degBits (s : State) (ccb) : (s.checkBarrier ccb).degBits = s.degBits := by
  simp only [State.checkBarrier]; split <;> simp
@[simp] theorem State.raiseArrival_degBits (s : State) (a c taddr) : (s.raiseArrival a c taddr).degBits = s.degBits := by
  simp only [State.raiseArrival]; split <;> simp
@[simp] theorem State.failGangs_degBits (s : State) (core gs more c) : (s.failGangs core gs more c).degBits = s.degBits := by
  simp [State.failGangs]
@[simp] theorem State.failGangsOf_degBits (s : State) (st) : (s.failGangsOf st).degBits = s.degBits := by
  simp [State.failGangsOf]
@[simp] theorem State.afterFrontier_degBits (s : State) (k) : (s.afterFrontier k).degBits = s.degBits := by
  simp [State.afterFrontier]
@[simp] theorem State.settle_degBits (s : State) (outs raises) : (s.settle outs raises).degBits = s.degBits := by
  simp [State.settle]
@[simp] theorem State.holdCandidate_degBits (s : State) (h) : (s.holdCandidate h).degBits = s.degBits := by
  simp [State.holdCandidate]
@[simp] theorem State.advance_degBits (s : State) : (s.advance).degBits = s.degBits := by
  simp [State.advance]
@[simp] theorem State.raiseAll_degBits (s : State) (c) : (s.raiseAll c).degBits = s.degBits := by
  simp [State.raiseAll]
@[simp] theorem State.raiseAllAt_degBits (s : State) (c taddr) : (s.raiseAllAt c taddr).degBits = s.degBits := by
  simp [State.raiseAllAt]
@[simp] theorem State.stallWith_degBits (s : State) (r) : (s.stallWith r).degBits = s.degBits := by
  simp [State.stallWith]
@[simp] theorem State.returnFromHandler_degBits (s : State) : (s.returnFromHandler).degBits = s.degBits := by
  simp [State.returnFromHandler]

/-! ### Images (04) -/

@[simp] theorem State.writeWords_degBits (s : State) (pasid base l) : (s.writeWords pasid base l).degBits = s.degBits := by
  simp [State.writeWords]
@[simp] theorem State.writeBlock_degBits (s : State) (pasid base n l) : (s.writeBlock pasid base n l).degBits = s.degBits := by
  simp only [State.writeBlock]; split <;> simp
@[simp] theorem State.saveSpill_degBits (s : State) (k) : (s.saveSpill k).degBits = s.degBits := by
  simp [State.saveSpill]
@[simp] theorem State.saveControl_degBits (s : State) (k) : (s.saveControl k).degBits = s.degBits := by
  simp [State.saveControl]
@[simp] theorem State.loadStrand_degBits (s : State) (k) : (s.loadStrand k).degBits = s.degBits := by
  simp [State.loadStrand]
@[simp] theorem State.saveCohort_degBits (s : State) (ccb) : (s.saveCohort ccb).degBits = s.degBits := by
  simp [State.saveCohort]
@[simp] theorem State.showWord_degBits (s : State) (ccb off w) : (s.showWord ccb off w).degBits = s.degBits := by
  simp [State.showWord]
@[simp] theorem State.saveSpan_degBits (s : State) (id) : (s.saveSpan id).degBits = s.degBits := by
  simp [State.saveSpan]

/-! ### Operands, checks and destinations of an instruction (03) -/

@[simp] theorem State.popDrain_degBits (s : State) (k q) : (s.popDrain k q).degBits = s.degBits := by
  simp only [State.popDrain]; split <;> simp
@[simp] theorem State.popQueue_degBits (s : State) (k q) : (s.popQueue k q).degBits = s.degBits := by
  simp [State.popQueue]
@[simp] theorem State.pushQueue_degBits (s : State) (k x) : (s.pushQueue k x).degBits = s.degBits := by
  simp [State.pushQueue]
@[simp] theorem State.popSources_degBits (s : State) (us) : (s.popSources us).degBits = s.degBits := by
  simp [State.popSources]
@[simp] theorem State.onCur_degBits (s : State) (f) : (s.onCur f).degBits = s.degBits := by
  simp [State.onCur]
@[simp] theorem State.halt_degBits (s : State) (x1) : (s.halt x1).degBits = s.degBits := by
  simp only [State.halt]; split <;> simp

theorem State.readFlawed_degBits {P : (Nat → Nat → Bool) → Prop} (s : State) (m) (k : State → State) (h : P s.degBits)
    (hk : ∀ t, P t.degBits → P (k t).degBits) : P (s.readFlawed m k).degBits := by
  simp only [State.readFlawed]
  split
  · simpa using h
  · split
    · simpa using h
    · split
      · exact hk _ (by simpa using h)
      · simpa using hk _ (by simpa using h)

@[simp] theorem runWith_degBits {P} {s : State} {us extra bad priv replay} {k : State → State} (h : P s.degBits)
    (hk : ∀ t, P t.degBits → P (k t).degBits) : NextDegBits P (runWith s us extra bad priv replay k) := by
  simp only [runWith]
  split
  · simp [h]
  · simp only [nextDegBits_next, State.degBits_ite]
    split
    · exact hk s h
    · exact State.readFlawed_degBits s _ k h hk

@[simp] theorem run_degBits {P} {s : State} {us extra bad priv} {k : State → State} (h : P s.degBits)
    (hk : ∀ t, P t.degBits → P (k t).degBits) : NextDegBits P (run s us extra bad priv k) :=
  runWith_degBits h hk
@[simp] theorem State.pushReplay_degBits (s : State) (old us cycles) : (s.pushReplay old us cycles).degBits = s.degBits := by
  simp [State.pushReplay]
@[simp] theorem State.cutPush_degBits (s : State) (old bad) : (s.cutPush old bad).degBits = s.degBits := by
  simp [State.cutPush]

theorem State.cloneFail_degBits {P : (Nat → Nat → Bool) → Prop} (s old : State) (m) (hs : P s.degBits) (hold : P old.degBits) :
    P (s.cloneFail old m).degBits := by
  simp only [State.cloneFail]
  split
  · simpa using hs
  · split
    · simpa using hold
    · simpa using hs

@[simp] theorem runVec_degBits {P} {s : State} {cycles us extra bad priv} {k : State → State} (h : P s.degBits)
    (hk : ∀ t, P t.degBits → P (k t).degBits) : NextDegBits P (runVec s cycles us extra bad priv k) := by
  simp only [runVec]
  split
  · exact runWith_degBits h fun t ht => by simpa using hk t ht
  · split
    · exact run_degBits h fun t ht => State.cloneFail_degBits _ _ _ (hk t ht) ht
    · exact run_degBits h hk

@[simp] theorem runPointWith_degBits {P} {flags} {s : State} {us extra bad priv} {k : State → State} (h : P s.degBits)
    (hk : ∀ t, P t.degBits → P (k t).degBits) : NextDegBits P (runPointWith flags s us extra bad priv k) := by
  refine runWith_degBits h fun t ht => ?_
  split
  · simpa using ht
  · split
    · simpa using ht
    · exact hk t ht

@[simp] theorem runPoint_degBits {P} {s : State} {us extra bad priv} {k : State → State} (h : P s.degBits)
    (hk : ∀ t, P t.degBits → P (k t).degBits) : NextDegBits P (runPoint s us extra bad priv k) :=
  runPointWith_degBits h hk
@[simp] theorem runCompare_degBits {P} {s : State} {us extra bad priv} {k : State → State} (h : P s.degBits)
    (hk : ∀ t, P t.degBits → P (k t).degBits) : NextDegBits P (runCompare s us extra bad priv k) :=
  runPointWith_degBits h hk
@[simp] theorem State.comparePoint_degBits (s : State) (same) (k : State → State) (hk : (k s).degBits = s.degBits) :
    (s.comparePoint same k).degBits = s.degBits := by
  simp [State.comparePoint, hk]
@[simp] theorem State.writeV_degBits (s : State) (d late f) : (s.writeV d late f).degBits = s.degBits := by
  simp [State.writeV]
@[simp] theorem State.writeAcross_degBits (s : State) (d late f) : (s.writeAcross d late f).degBits = s.degBits := by
  simp [State.writeAcross]
@[simp] theorem State.writeS_degBits (s : State) (d late v) : (s.writeS d late v).degBits = s.degBits := by
  simp [State.writeS]

/-! ### Accesses of lanes, lines and stores (07) -/

@[simp] theorem State.checkLane_degBits (s : State) (st k f align n lane va) :
    (s.checkLane st k f align n lane va).1.degBits = s.degBits := by
  simp only [State.checkLane]
  split
  · rfl
  · split
    · rfl
    · split
      · split
        · rfl
        · split <;> rfl
        · rfl
      · split
        · rename_i heq; simp [degBits_of_eq heq]
        · rename_i heq; simp [degBits_of_eq heq]
        · rename_i heq
          split
          · simp [degBits_of_eq heq]
          · split <;> simp [degBits_of_eq heq]

@[simp] theorem State.checkLanes_degBits (s : State) (st k f align n reqs) :
    (s.checkLanes st k f align n reqs).1.degBits = s.degBits :=
  foldl_fst_degBits _ (fun p x => by split <;> (rename_i heq; simp [degBits_of_eq heq])) _ _
@[simp] theorem State.dropL1_degBits (s : State) (core) : (s.dropL1 core).degBits = s.degBits := by
  simp [State.dropL1]
@[simp] theorem State.takeMisses_degBits (s : State) (core priv m) : (s.takeMisses core priv m).degBits = s.degBits := by
  simp [State.takeMisses]
@[simp] theorem State.dropReplies_degBits (s : State) (core n) : (s.dropReplies core n).degBits = s.degBits := by
  simp [State.dropReplies]
@[simp] theorem State.mmioRead_degBits (s : State) (n) : (s.mmioRead n).1.degBits = s.degBits := by
  simp only [State.mmioRead]; split <;> simp
@[simp] theorem State.readPlace_degBits (s : State) (core home n x4) : (s.readPlace core home n x4).1.degBits = s.degBits := by
  simp only [State.readPlace]
  repeat' split
  all_goals simp
@[simp] theorem State.reach_degBits (s : State) (core home l) : (s.reach core home l).degBits = s.degBits := by
  simp [State.reach]
@[simp] theorem State.writePhys_degBits (s : State) (core mark n v p) : (s.writePhys core mark n v p).degBits = s.degBits := by
  simp only [State.writePhys]
  repeat' split
  all_goals simp
@[simp] theorem State.writeQuiet_degBits (s : State) (core mark n v x5) : (s.writeQuiet core mark n v x5).degBits = s.degBits := by
  simp only [State.writeQuiet]; split <;> simp
@[simp] theorem State.notePlace_degBits (s : State) (n x2) : (s.notePlace n x2).degBits = s.degBits := by
  simp only [State.notePlace]; split <;> simp
@[simp] theorem State.writePlace_degBits (s : State) (core mark n v p) : (s.writePlace core mark n v p).degBits = s.degBits := by
  simp [State.writePlace]
@[simp] theorem State.loseCells_degBits (s : State) (l cells) : (s.loseCells l cells).degBits = s.degBits := by
  simp [State.loseCells]
@[simp] theorem State.loseStore_degBits (s : State) (core o) : (s.loseStore core o).degBits = s.degBits := by
  simp [State.loseStore]
@[simp] theorem State.trackStore_degBits (s : State) (core o) : (s.trackStore core o).degBits = s.degBits := by
  simp [State.trackStore]
@[simp] theorem State.sendFlush_degBits (s : State) (st) : (s.sendFlush st).degBits = s.degBits := by
  simp [State.sendFlush]
@[simp] theorem State.noteRelease_degBits (s : State) (st scope) : (s.noteRelease st scope).degBits = s.degBits := by
  simp [State.noteRelease]
@[simp] theorem State.acquire_degBits (s : State) (core scope) : (s.acquire core scope).degBits = s.degBits := by
  simp [State.acquire]
@[simp] theorem State.watch_degBits (s : State) (st pc rd wr n l) : (s.watch st pc rd wr n l).degBits = s.degBits := by
  simp [State.watch]
@[simp] theorem State.releaseMonitors_degBits (s : State) (p) : (s.releaseMonitors p).degBits = s.degBits := by
  simp [State.releaseMonitors]
@[simp] theorem State.releaseArmed_degBits (s : State) (p) : (s.releaseArmed p).degBits = s.degBits := by
  refine (foldl_degBits _ (fun s x => ?_) _ _).trans (by simp)
  split <;> simp
@[simp] theorem State.dropWait_degBits (s : State) (key) : (s.dropWait key).degBits = s.degBits := by
  simp [State.dropWait]
@[simp] theorem State.completeWait_degBits (s : State) (key w status) : (s.completeWait key w status).degBits = s.degBits := by
  simp [State.completeWait]

@[simp] theorem State.beginWait_degBits (s : State) (va wide cond cmp scope status engine) :
    (s.beginWait va wide cond cmp scope status engine).degBits = s.degBits := by
  simp only [State.beginWait]
  repeat' split
  all_goals simp

@[simp] theorem State.waitOn_degBits (s : State) (va wide cond cmp scope status engine) :
    (s.waitOn va wide cond cmp scope status engine).degBits = s.degBits := by
  simp [State.waitOn]

end Sys2Proof.Machine
end

section
/-! DEG of the benches under the instructions, by family. -/

namespace Sys2Proof.Machine

open Sys2Proof.Claims

/-! ### Loads, stores, fences and cache control (07) -/

@[simp] theorem State.readAll_degBits (s : State) (core home n l) : (s.readAll core home n l).1.degBits = s.degBits :=
  foldl_fst_degBits _ (fun p x => by split <;> (rename_i heq; simp [degBits_of_eq heq])) _ _
@[simp] theorem State.loadLanes_degBits (s : State) (us d k r) : (s.loadLanes us d k r).degBits = s.degBits := by
  simp [State.loadLanes]
@[simp] theorem State.writeAll_degBits (s : State) (core n mark value l) : (s.writeAll core n mark value l).degBits = s.degBits := by
  simp [State.writeAll]
@[simp] theorem State.storeLanes_degBits (s : State) (us form align n r value uniform diff) :
    (s.storeLanes us form align n r value uniform diff).degBits = s.degBits := by
  simp [State.storeLanes]
theorem vecLoad_degBits {P} {s : State} {size dst words d a i} (h : P s.degBits) :
    NextDegBits P (vecLoad size dst words d a i s) := by
  simp [vecLoad, h]
theorem vecStore_degBits {P} {s : State} {size us bad addr d scope} (h : P s.degBits) :
    NextDegBits P (vecStore size us bad addr d scope s) := by
  simp only [vecStore]; split <;> simp [h]
theorem immStore_degBits {P} {size d a i} {s : State} (h : P s.degBits) : NextDegBits P (immStore size d a i s) := by
  unfold immStore
  exact vecStore_degBits h
theorem execLdwx_degBits {P} {s : State} {e g d a b} (h : P s.degBits) : NextDegBits P (execLdwx e g d a b s) := by
  simp [execLdwx, h]

@[simp] theorem State.loadUniform_degBits (s : State) (form size home va k) (hk : ∀ t m p v, (k t m p v).degBits = t.degBits) :
    (s.loadUniform form size home va k).degBits = s.degBits := by
  simp only [State.loadUniform]
  split
  · rename_i heq; simp [degBits_of_eq heq]
  · rename_i heq
    split
    · simp
    · split <;> (rename_i heq2; simp [hk, degBits_of_eq heq2, degBits_of_eq heq])

theorem scalarLoad_degBits {P} {s : State} {size d a i} (h : P s.degBits) : NextDegBits P (scalarLoad size d a i s) := by
  simp [scalarLoad, h]
theorem scalarStore_degBits {P} {s : State} {size d a i} (h : P s.degBits) : NextDegBits P (scalarStore size d a i s) := by
  simp [scalarStore, h]
theorem execLdbc_degBits {P} {s : State} {d a i} (h : P s.degBits) : NextDegBits P (execLdbc d a i s) := by
  simp [execLdbc, h]
theorem execLdpv_degBits {P} {s : State} {d a z o} (h : P s.degBits) : NextDegBits P (execLdpv d a z o s) := by
  simp [execLdpv, h]
theorem execStpv_degBits {P} {s : State} {d a z o} (h : P s.degBits) : NextDegBits P (execStpv d a z o s) := by
  simp [execStpv, h]
theorem execLda_degBits {P} {s : State} {d a sel z} (h : P s.degBits) : NextDegBits P (execLda d a sel z s) := by
  simp [execLda, h]
theorem execFence_degBits {P} {s : State} {sel} (h : P s.degBits) : NextDegBits P (execFence sel s) := by
  simp [execFence, h]
theorem execXfence_degBits {P} {s : State} {sel p q} (h : P s.degBits) : NextDegBits P (execXfence sel p q s) := by
  simp [execXfence, h]

theorem execPref_degBits {P} {a i} {s : State} (h : P s.degBits) : NextDegBits P (execPref a i s) := by
  refine run_degBits h fun t ht => ?_
  dsimp only
  split
  · simpa using ht
  · rw [State.advance_degBits, State.takeMisses_degBits, foldl_fst_degBits]
    · exact ht
    · intro a x
      repeat' split
      all_goals simp

theorem cacheControl_degBits {P} {act a i} {s : State} (h : P s.degBits) (hact : ∀ t n, (act t n).degBits = t.degBits) :
    NextDegBits P (cacheControl act a i s) :=
  run_degBits h fun t ht => by simpa [hact] using ht

/-! ### Atomics, waits and monitors (07) -/

@[simp] theorem State.groupAtomics_degBits (s : State) (core n op l) : (s.groupAtomics core n op l).1.degBits = s.degBits :=
  foldl_fst_degBits _ (fun p x => by dsimp only; split <;> (rename_i heq; simp [degBits_of_eq heq])) _ _

@[simp] theorem State.atomicLanes_degBits (s : State) (us align n narrow op addr elems b d diff k)
    (hk : ∀ t m l p q, (k t m l p q).degBits = t.degBits) :
    (s.atomicLanes us align n narrow op addr elems b d diff k).degBits = s.degBits := by
  simp [State.atomicLanes, hk]

theorem atomic_degBits {P} {s : State} {n op cas e g d a b} (h : P s.degBits) : NextDegBits P (atomic n op cas e g d a b s) := by
  simp [atomic, h]
theorem vectorAtomic_degBits {P} {s : State} {n op e g a b} (h : P s.degBits) : NextDegBits P (vectorAtomic n op e g a b s) := by
  simp [vectorAtomic, h]
theorem execWaitc_degBits {P} {s : State} {e g sel t c w r b} (h : P s.degBits) : NextDegBits P (execWaitc e g sel t c w r b s) := by
  simp [execWaitc, h]
theorem execCwp_degBits {P} {s : State} {e g a b} (h : P s.degBits) : NextDegBits P (execCwp e g a b s) := by
  simp [execCwp, h]
theorem execCwait_degBits {P} {s : State} {e a} (h : P s.degBits) : NextDegBits P (execCwait e a s) := by
  simp [execCwait, h]

/-! ### Vector integer instructions (08) -/

theorem vecBin_degBits {P} {s : State} {f e g d a b} (h : P s.degBits) : NextDegBits P (vecBin f e g d a b s) := by
  simp [vecBin, h]
theorem vecMod_degBits {P} {s : State} {f e g d a b} (h : P s.degBits) : NextDegBits P (vecMod f e g d a b s) := by
  simp [vecMod, h]
theorem vecUn_degBits {P} {s : State} {f e d a} (h : P s.degBits) : NextDegBits P (vecUn f e d a s) := by
  simp [vecUn, h]
theorem vecImm_degBits {P} {s : State} {f bad imm d a} (h : P s.degBits) : NextDegBits P (vecImm f bad imm d a s) := by
  simp [vecImm, h]
theorem vecShuffle_degBits {P} {s : State} {index e f d a b} (h : P s.degBits) : NextDegBits P (vecShuffle index e f d a b s) := by
  simp [vecShuffle, h]
@[simp] theorem State.writeLaneScalar_degBits (s : State) (d v) : (s.writeLaneScalar d v).degBits = s.degBits := by
  simp [State.writeLaneScalar]
theorem execVrdlane_degBits {P} {s : State} {e g d a b} (h : P s.degBits) : NextDegBits P (execVrdlane e g d a b s) := by
  simp [execVrdlane, h]
theorem execVwrlane_degBits {P} {s : State} {e g d a b} (h : P s.degBits) : NextDegBits P (execVwrlane e g d a b s) := by
  simp [execVwrlane, h]
theorem vecReduce_degBits {P} {s : State} {op signed e d a} (h : P s.degBits) : NextDegBits P (vecReduce op signed e d a s) := by
  simp [vecReduce, h]
theorem execVscanadd_degBits {P} {s : State} {e d a} (h : P s.degBits) : NextDegBits P (execVscanadd e d a s) := by
  simp [execVscanadd, h]
theorem execVballot_degBits {P} {s : State} {e d a} (h : P s.degBits) : NextDegBits P (execVballot e d a s) := by
  simp [execVballot, h]

/-! ### Vector float instructions (08, 09) -/

@[simp] theorem State.queueFloat_degBits (s : State) (d wide r) : (s.queueFloat d wide r).degBits = s.degBits := by
  simp [State.queueFloat]
theorem vecFloat_degBits {P} {s : State} {us wideA wideB wideD modify a b d op bad slow} (h : P s.degBits) :
    NextDegBits P (vecFloat us wideA wideB wideD modify a b d op s bad slow) := by
  simp [vecFloat, h]

theorem vecFloat3_degBits {P} {op modify narrow t e g d a b} {s : State} (h : P s.degBits) :
    NextDegBits P (vecFloat3 op modify narrow t e g d a b s) := by
  unfold vecFloat3
  exact vecFloat_degBits h

theorem vecFloat1_degBits {P} {op narrow slow t e d a} {s : State} (h : P s.degBits) :
    NextDegBits P (vecFloat1 op narrow slow t e d a s) := by
  unfold vecFloat1
  exact vecFloat_degBits h

theorem vecConvert_degBits {P} {sat e d a c} {s : State} (h : P s.degBits) : NextDegBits P (vecConvert sat e d a c s) := by
  unfold vecConvert
  exact vecFloat_degBits h
theorem vecPack_degBits {P} {f e g d a b} {s : State} (h : P s.degBits) : NextDegBits P (vecPack f e g d a b s) := by
  unfold vecPack
  exact vecFloat_degBits h
theorem vecScale_degBits {P} {t e g d a b} {s : State} (h : P s.degBits) : NextDegBits P (vecScale t e g d a b s) := by
  unfold vecScale
  exact vecFloat_degBits h
theorem vecDot2_degBits {P} {f e g d a b} {s : State} (h : P s.degBits) : NextDegBits P (vecDot2 f e g d a b s) := by
  unfold vecDot2
  exact vecFloat_degBits h

/-! ### Scalar instructions (06) -/

@[simp] theorem State.raiseNoAddress_degBits (s : State) (c) : (s.raiseNoAddress c).degBits = s.degBits := by
  simp [State.raiseNoAddress]
theorem scaBin_degBits {P} {s : State} {f e g d a b} (h : P s.degBits) : NextDegBits P (scaBin f e g d a b s) := by
  simp [scaBin, h]
theorem scaMod_degBits {P} {s : State} {f bad e g d a b} (h : P s.degBits) : NextDegBits P (scaMod f bad e g d a b s) := by
  simp [scaMod, h]
theorem scaDiv_degBits {P} {s : State} {f e g d a b} (h : P s.degBits) : NextDegBits P (scaDiv f e g d a b s) := by
  simp [scaDiv, h]
theorem scaUn_degBits {P} {s : State} {f e d a} (h : P s.degBits) : NextDegBits P (scaUn f e d a s) := by
  simp [scaUn, h]
theorem scaImm_degBits {P} {s : State} {f bad imm d a} (h : P s.degBits) : NextDegBits P (scaImm f bad imm d a s) := by
  simp [scaImm, h]
theorem execSbfe_degBits {P} {s : State} {e g d a b} (h : P s.degBits) : NextDegBits P (execSbfe e g d a b s) := by
  simp [execSbfe, h]
theorem execSgetst_degBits {P} {s : State} {d sel} (h : P s.degBits) : NextDegBits P (execSgetst d sel s) := by
  simp [execSgetst, h]
theorem execSsetst_degBits {P} {s : State} {e g a b} (h : P s.degBits) : NextDegBits P (execSsetst e g a b s) := by
  simp [execSsetst, h]
@[simp] theorem State.scalarFloat_degBits (s : State) (us d r) : (s.scalarFloat us d r).degBits = s.degBits := by
  simp only [State.scalarFloat]; split <;> simp
theorem scaFloat_degBits {P} {s : State} {op modify e g d a b} (h : P s.degBits) :
    NextDegBits P (scaFloat op modify e g d a b s) := by
  simp [scaFloat, h]
theorem execSfcvt_degBits {P} {s : State} {e d a n} (h : P s.degBits) : NextDegBits P (execSfcvt e d a n s) := by
  simp [execSfcvt, h]
theorem scaLong_degBits {P} {s : State} {f d i} (h : P s.degBits) : NextDegBits P (scaLong f d i s) := by
  simp [scaLong, h]
theorem vecLong_degBits {P} {s : State} {f d i} (h : P s.degBits) : NextDegBits P (vecLong f d i s) := by
  simp [vecLong, h]

/-! ### Branches, spawning and barriers (06) -/

@[simp] theorem State.goto_degBits (s : State) (pc) : (s.goto pc).degBits = s.degBits := by
  simp [State.goto]
@[simp] theorem State.checkTarget_degBits (s : State) (a) (k : State → State) (hk : (k s).degBits = s.degBits) :
    (s.checkTarget a k).degBits = s.degBits := by
  simp only [State.checkTarget]; split <;> simp [hk]
@[simp] theorem State.branchOn_degBits (s : State) (us z uniform a o) : (s.branchOn us z uniform a o).degBits = s.degBits := by
  simp [State.branchOn]
theorem branch_degBits {P} {s : State} {z uniform a o} (h : P s.degBits) : NextDegBits P (branch z uniform a o s) := by
  simp [branch, h]
@[simp] theorem State.writeLink_degBits (s : State) : (s.writeLink).degBits = s.degBits := by
  simp [State.writeLink]
theorem execJmp_degBits {P} {s : State} {o} (h : P s.degBits) : NextDegBits P (execJmp o s) := by
  simp [execJmp, h]
theorem execCall_degBits {P} {s : State} {o} (h : P s.degBits) : NextDegBits P (execCall o s) := by
  simp [execCall, h]
theorem execJr_degBits {P} {s : State} {e a} (h : P s.degBits) : NextDegBits P (execJr e a s) := by
  simp [execJr, h]
theorem execCallr_degBits {P} {s : State} {e a} (h : P s.degBits) : NextDegBits P (execCallr e a s) := by
  simp [execCallr, h]
theorem execBri_degBits {P} {s : State} {a n} (h : P s.degBits) : NextDegBits P (execBri a n s) := by
  simp [execBri, h]
theorem execSloop_degBits {P} {s : State} {a o} (h : P s.degBits) : NextDegBits P (execSloop a o s) := by
  simp [execSloop, h]
theorem execExit_degBits {P} {s : State} (h : P s.degBits) : NextDegBits P (execExit s) := by
  simp [execExit, h]
theorem execExitto_degBits {P} {s : State} {a n} (h : P s.degBits) : NextDegBits P (execExitto a n s) := by
  simp [execExitto, h]
@[simp] theorem State.startIn_degBits (s : State) (ccb n) : (s.startIn ccb n).degBits = s.degBits := by
  simp [State.startIn]

theorem execSpawn_degBits {P} {d a} {s : State} (h : P s.degBits) : NextDegBits P (execSpawn d a s) := by
  refine run_degBits h fun t ht => ?_
  dsimp only
  rw [State.checkTarget_degBits]
  · exact ht
  · split
    · simp
    · split <;> simp

theorem execWin_degBits {P} {s : State} {i} (h : P s.degBits) : NextDegBits P (execWin i s) := by
  simp [execWin, h]
theorem execWinq_degBits {P} {s : State} {d} (h : P s.degBits) : NextDegBits P (execWinq d s) := by
  simp [execWinq, h]
theorem execYield_degBits {P} {s : State} (h : P s.degBits) : NextDegBits P (execYield s) := by
  simp [execYield, h]
theorem execNop_degBits {P} {s : State} (h : P s.degBits) : NextDegBits P (execNop s) := by
  simp [execNop, h]
theorem barrier_degBits {P} {s : State} {span} (h : P s.degBits) : NextDegBits P (barrier span s) := by
  simp [barrier, h]
theorem execParv_degBits {P} {s : State} {d n k} (h : P s.degBits) : NextDegBits P (execParv d n k s) := by
  simp [execParv, h]
theorem execPwait_degBits {P} {s : State} {a k} (h : P s.degBits) : NextDegBits P (execPwait a k s) := by
  simp [execPwait, h]

/-! ### Supervisor instructions (13) -/

theorem execTret_degBits {P} {s : State} (h : P s.degBits) : NextDegBits P (execTret s) := by
  simp [execTret, h]
theorem execSighand_degBits {P} {s : State} {e d a} (h : P s.degBits) : NextDegBits P (execSighand e d a s) := by
  simp [execSighand, h]
theorem readTrap_degBits {P} {s : State} {f d} (h : P s.degBits) : NextDegBits P (readTrap f d s) := by
  simp [readTrap, h]
theorem execSigmask_degBits {P} {s : State} {e d a} (h : P s.degBits) : NextDegBits P (execSigmask e d a s) := by
  simp [execSigmask, h]
theorem execSysc_degBits {P} {s : State} {n} (h : P s.degBits) : NextDegBits P (execSysc n s) := by
  simp [execSysc, h]
theorem execBrk_degBits {P} {s : State} {n} (h : P s.degBits) : NextDegBits P (execBrk n s) := by
  simp [execBrk, h]
@[simp] theorem State.actOn_degBits (s : State) (key) (f : State → State) (hf : ∀ t, (f t).degBits = t.degBits) :
    (s.actOn key f).degBits = s.degBits := by
  simp [State.actOn, hf]
theorem execUnpark_degBits {P} {s : State} {e g d a b} (h : P s.degBits) : NextDegBits P (execUnpark e g d a b s) := by
  simp [execUnpark, h]

theorem execSysrp_degBits {P} {e g d a b} {s : State} (h : P s.degBits) : NextDegBits P (execSysrp e g d a b s) := by
  refine run_degBits h fun t ht => ?_
  dsimp only
  split
  · simpa using ht
  · split
    · simpa using ht
    · split <;> simpa using ht

@[simp] theorem State.deliverEntry_degBits (s : State) (key e code p v) : (s.deliverEntry key e code p v).degBits = s.degBits := by
  simp [State.deliverEntry]

theorem execSig_degBits {P} {e d a} {s : State} (h : P s.degBits) : NextDegBits P (execSig e d a s) := by
  refine run_degBits h fun t ht => ?_
  dsimp only
  split
  · simpa using ht
  · split <;> simpa using ht

theorem execTinj_degBits {P} {e g d a b} {s : State} (h : P s.degBits) : NextDegBits P (execTinj e g d a b s) := by
  refine run_degBits h fun t ht => ?_
  dsimp only
  split
  · simpa using ht
  · split
    · rw [State.advance_degBits, State.writeS_degBits, State.actOn_degBits]
      · simpa using ht
      · intro u; split <;> simp
    · simpa using ht

theorem execPget_degBits {P} {d sel} {s : State} (h : P s.degBits) : NextDegBits P (execPget d sel s) := by
  refine run_degBits h fun t ht => ?_
  dsimp only
  split
  · simpa using ht
  · split
    · simpa using ht
    · simpa using ht

theorem execPset_degBits {P} {a sel} {s : State} (h : P s.degBits) : NextDegBits P (execPset a sel s) := by
  refine run_degBits h fun t ht => ?_
  dsimp only
  split
  · simpa using ht
  · split
    · simpa using ht
    · simpa using ht

/-! ### Context bundles (14) -/

@[simp] theorem State.contextPlace_degBits (s : State) (pasid k va) : (s.contextPlace pasid k va).1.degBits = s.degBits := by
  simp only [State.contextPlace]
  split
  · rfl
  · split
    · rfl
    · split <;> (rename_i heq; simp [degBits_of_eq heq])

/-! ### Bins and gathering (06) -/

@[simp] theorem State.setBin_degBits (s : State) (ccb b x) : (s.setBin ccb b x).degBits = s.degBits := by
  simp [State.setBin]
@[simp] theorem State.placeThread_degBits (s : State) (st pc lane) : (s.placeThread st pc lane).degBits = s.degBits := by
  simp [State.placeThread]

theorem execBrs_degBits {P} {a o} {s : State} (h : P s.degBits) : NextDegBits P (execBrs a o s) := by
  refine runCompare_degBits h fun t ht => ?_
  dsimp only
  repeat' split
  all_goals simpa using ht

/-! ### Accumulator slots (11) -/

@[simp] theorem State.writeTile_degBits (s : State) (ccb o n v) : (s.writeTile ccb o n v).degBits = s.degBits := by
  simp [State.writeTile]
@[simp] theorem State.saveAccs_degBits (s : State) (core phys ccb i) : (s.saveAccs core phys ccb i).degBits = s.degBits := by
  simp [State.saveAccs]
@[simp] theorem State.fillAccs_degBits (s : State) (core phys ccb i) : (s.fillAccs core phys ccb i).degBits = s.degBits := by
  simp [State.fillAccs]
@[simp] theorem State.saveTile_degBits (s : State) (core phys ccb i) : (s.saveTile core phys ccb i).degBits = s.degBits := by
  simp [State.saveTile]
@[simp] theorem State.changeSlot_degBits (s : State) (ccb i x) : (s.changeSlot ccb i x).degBits = s.degBits := by
  simp [State.changeSlot]
@[simp] theorem State.saveEntry_degBits (s : State) (core phys ccb i accs tile) :
    (s.saveEntry core phys ccb i accs tile).degBits = s.degBits := by
  simp [State.saveEntry]
@[simp] theorem State.evictSlot_degBits (s : State) (core phys) : (s.evictSlot core phys).degBits = s.degBits := by
  simp only [State.evictSlot]; split <;> simp
@[simp] theorem State.bindEntry_degBits (s : State) (core ccb i x) : (s.bindEntry core ccb i x).degBits = s.degBits := by
  simp only [State.bindEntry]; split <;> simp
@[simp] theorem State.grantEntry_degBits (s : State) (core ccb i acquired) :
    (s.grantEntry core ccb i acquired).degBits = s.degBits := by
  simp [State.grantEntry]
@[simp] theorem State.releaseEntry_degBits (s : State) (ccb i) : (s.releaseEntry ccb i).degBits = s.degBits := by
  simp [State.releaseEntry]

/-! ### The copy engine (10) -/

@[simp] theorem State.setChannel_degBits (s : State) (core ccb ch l) : (s.setChannel core ccb ch l).degBits = s.degBits := by
  simp [State.setChannel]
@[simp] theorem State.acceptCommand_degBits (s : State) (us m ch shape strides) :
    (s.acceptCommand us m ch shape strides).degBits = s.degBits := by
  simp only [State.acceptCommand]; split <;> simp
theorem transfer_degBits {P} {s : State} {op e g c k a b} (h : P s.degBits) : NextDegBits P (transfer op e g c k a b s) := by
  simp [transfer, h]

@[simp] theorem State.setHead_degBits (s : State) (core ccb ch m) : (s.setHead core ccb ch m).degBits = s.degBits := by
  simp [State.setHead]
theorem repair_degBits {P} {f e g d a b} {s : State} (h : P s.degBits) : NextDegBits P (repair f e g d a b s) := by
  refine run_degBits h fun t ht => ?_
  dsimp only
  split
  · simpa using ht
  · split
    · split <;> simpa using ht
    · simpa using ht

theorem execCcan_degBits {P} {s : State} {c} (h : P s.degBits) : NextDegBits P (execCcan c s) := by
  simp [execCcan, h]
theorem execCdone_degBits {P} {s : State} {e d a} (h : P s.degBits) : NextDegBits P (execCdone e d a s) := by
  simp [execCdone, h]
@[simp] theorem State.tileFlawed_degBits (s : State) (k : State → State) (hk : (k s).degBits = s.degBits) :
    (s.tileFlawed k).degBits = s.degBits := by
  simp [State.tileFlawed, hk]

theorem tileAccess_degBits {P} {reads e d a m n} {s : State} {k} (h : P s.degBits) (hk : ∀ t x, (k t x).degBits = t.degBits) :
    NextDegBits P (tileAccess reads e d a m n s k) := by
  refine runPoint_degBits h fun t ht => ?_
  split
  · simpa using ht
  · simpa [hk] using ht

/-! ### The matrix engine (11) -/

@[simp] theorem State.cleanLatch_degBits (s : State) (core) : (s.cleanLatch core).degBits = s.degBits := by
  simp [State.cleanLatch]
@[simp] theorem State.arrive_degBits (s : State) (new a) : (s.arrive new a).degBits = s.degBits := by
  simp only [State.arrive]
  repeat' split
  all_goals simp

theorem mma_degBits {P} {form e g k sel z a b} {s : State} (h : P s.degBits) : NextDegBits P (mma form e g k sel z a b s) := by
  refine runPoint_degBits h fun t ht => ?_
  dsimp only
  repeat' split
  all_goals simpa using ht

theorem execMgang_degBits {P} {s : State} {e a} (h : P s.degBits) : NextDegBits P (execMgang e a s) := by
  simp [execMgang, h]
theorem execMcfg_degBits {P} {s : State} {d c} (h : P s.degBits) : NextDegBits P (execMcfg d c s) := by
  simp [execMcfg, h]
theorem execMacq_degBits {P} {s : State} {d w n} (h : P s.degBits) : NextDegBits P (execMacq d w n s) := by
  simp [execMacq, h]
@[simp] theorem State.dropDrains_degBits (s : State) (c p) : (s.dropDrains c p).degBits = s.degBits := by
  simp [State.dropDrains]
theorem execMrel_degBits {P} {s : State} {a} (h : P s.degBits) : NextDegBits P (execMrel a s) := by
  simp [execMrel, h]
theorem execMzero_degBits {P} {s : State} {k} (h : P s.degBits) : NextDegBits P (execMzero k s) := by
  simp [execMzero, h]
theorem execAspill_degBits {P} {s : State} {e g d a b} (h : P s.degBits) : NextDegBits P (execAspill e g d a b s) := by
  simp [execAspill, h]
theorem execAfill_degBits {P} {s : State} {e g d a b} (h : P s.degBits) : NextDegBits P (execAfill e g d a b s) := by
  simp [execAfill, h]
theorem execMdrain_degBits {P} {s : State} {e d a v} (h : P s.degBits) : NextDegBits P (execMdrain e d a v s) := by
  simp [execMdrain, h]
theorem execMstat_degBits {P} {s : State} {e d a} (h : P s.degBits) : NextDegBits P (execMstat e d a s) := by
  simp [execMstat, h]
theorem execMwait_degBits {P} {s : State} {e a} (h : P s.degBits) : NextDegBits P (execMwait e a s) := by
  simp [execMwait, h]

/-! ### Admission of a group (14) -/

@[simp] theorem State.scrambleBitmap_degBits (s : State) (slot) : (s.scrambleBitmap slot).degBits = s.degBits := by
  simp [State.scrambleBitmap]

@[simp] theorem State.returnMemory_degBits (s : State) (slot frames privs) :
    (s.returnMemory slot frames privs).degBits = s.degBits := by
  simp [State.returnMemory]

/-! ### Queues, records and joins (14) -/

@[simp] theorem State.setQueue_degBits (s : State) (q x) : (s.setQueue q x).degBits = s.degBits := by
  simp [State.setQueue]
@[simp] theorem State.setQueueWord_degBits (s : State) (q off v) : (s.setQueueWord q off v).degBits = s.degBits := by
  simp [State.setQueueWord]
@[simp] theorem State.unwatch_degBits (s : State) (q) : (s.unwatch q).degBits = s.degBits := by
  simp [State.unwatch]

@[simp] theorem State.watchWord_degBits (s : State) (q off cond cmp w) : (s.watchWord q off cond cmp w).degBits = s.degBits := by
  unfold State.watchWord
  dsimp only
  split <;> simp

@[simp] theorem State.showPoll_degBits (s : State) (q) : (s.showPoll q).degBits = s.degBits := by
  simp [State.showPoll]
@[simp] theorem State.writeStatus_degBits (s : State) (q code idx) : (s.writeStatus q code idx).degBits = s.degBits := by
  simp [State.writeStatus]
@[simp] theorem State.stopQueue_degBits (s : State) (q code idx) : (s.stopQueue q code idx).degBits = s.degBits := by
  simp [State.stopQueue]
@[simp] theorem State.watchTail_degBits (s : State) (q) : (s.watchTail q).degBits = s.degBits := by
  simp [State.watchTail]
@[simp] theorem State.enqueue_degBits (s : State) (pasid b rec_) : (s.enqueue pasid b rec_).1.degBits = s.degBits := by
  simp only [State.enqueue]
  repeat' split
  all_goals simp [-Nat.reducePow]
theorem execEnq_degBits {P} {s : State} {e g d a b} (h : P s.degBits) : NextDegBits P (execEnq e g d a b s) := by
  simp [execEnq, h]

@[simp] theorem State.chainParent_degBits (s : State) (pasid word) : (s.chainParent pasid word).degBits = s.degBits := by
  have place : (if word % 2 ^ 56 % 64 = 0 then s.contextPlace pasid .atomic (word % 2 ^ 56)
      else (s, .error .misaligned)).1.degBits = s.degBits := by
    split <;> simp
  simp only [State.chainParent]
  split
  · rename_i heq
    simp [(degBits_of_eq heq).trans place]
  · rename_i heq
    have h1 := (degBits_of_eq heq).trans place
    split <;> simp [h1]

theorem execJoin_degBits {P} {e d a} {s : State} (h : P s.degBits) : NextDegBits P (execJoin e d a s) := by
  refine runPoint_degBits h fun t ht => ?_
  dsimp only
  split
  · simpa using ht
  · split
    · rename_i heq; simpa [degBits_of_eq heq] using ht
    · rename_i heq
      split
      · simpa using ht
      · split
        · rename_i hread; simpa [degBits_of_eq hread, degBits_of_eq heq] using ht
        · rename_i hread; simpa [degBits_of_eq hread, degBits_of_eq heq] using ht

/-! ### Swaps, quanta and completion (14) -/

@[simp] theorem State.countSwitch_degBits (s : State) (shift) : (s.countSwitch shift).degBits = s.degBits := by
  simp [State.countSwitch]
@[simp] theorem State.releaseSwitch_degBits (s : State) (c) : (s.releaseSwitch c).degBits = s.degBits := by
  simp [State.releaseSwitch]
@[simp] theorem State.dropSwitch_degBits (s : State) (ccb) : (s.dropSwitch ccb).degBits = s.degBits := by
  simp [State.dropSwitch]
@[simp] theorem State.endMeet_degBits (s : State) (ccb) : (s.endMeet ccb).degBits = s.degBits := by
  simp [State.endMeet]
@[simp] theorem State.sendAway_degBits (s : State) (ccb l) : (s.sendAway ccb l).degBits = s.degBits := by
  simp [State.sendAway]
@[simp] theorem State.leaveSpan_degBits (s : State) (c) : (s.leaveSpan c).degBits = s.degBits := by
  simp [State.leaveSpan]
@[simp] theorem State.countLaunch_degBits (s : State) (c) : (s.countLaunch c).degBits = s.degBits := by
  simp only [State.countLaunch]; split <;> simp
@[simp] theorem State.removeCohort_degBits (s : State) (ccb) : (s.removeCohort ccb).degBits = s.degBits := by
  simp [State.removeCohort]
@[simp] theorem State.endCohort_degBits (s : State) (ccb counts) : (s.endCohort ccb counts).degBits = s.degBits := by
  simp [State.endCohort]
@[simp] theorem State.holdGroup_degBits (s : State) (ccb hold pin) : (s.holdGroup ccb hold pin).degBits = s.degBits := by
  simp [State.holdGroup]
@[simp] theorem State.awaitOut_degBits (s : State) (ccb) (k : State → State) (hk : ∀ t, (k t).degBits = t.degBits) :
    (s.awaitOut ccb k).degBits = s.degBits := by
  simp [State.awaitOut, hk]
theorem execSwapo_degBits {P} {s : State} {e g d a b} (h : P s.degBits) : NextDegBits P (execSwapo e g d a b s) := by
  simp [execSwapo, h]
theorem execSwapi_degBits {P} {s : State} {e g d a b} (h : P s.degBits) : NextDegBits P (execSwapi e g d a b s) := by
  simp [execSwapi, h]

/-! ### Variant switches (14) -/

@[simp] theorem State.setRequest_degBits (s : State) (ccb r) : (s.setRequest ccb r).degBits = s.degBits := by
  simp [State.setRequest]
@[simp] theorem State.lapse_degBits (s : State) (ccb) : (s.lapse ccb).degBits = s.degBits := by
  simp [State.lapse]
@[simp] theorem State.replaceRequest_degBits (s : State) (ccb r) : (s.replaceRequest ccb r).degBits = s.degBits := by
  simp [State.replaceRequest]
theorem execVreq_degBits {P} {s : State} {e g d a b} (h : P s.degBits) : NextDegBits P (execVreq e g d a b s) := by
  simp [execVreq, h]
@[simp] theorem State.badSwitch_degBits (s : State) (ccb point) : (s.badSwitch ccb point).degBits = s.degBits := by
  simp [State.badSwitch]

theorem execVsw_degBits {P} {k} {s : State} (h : P s.degBits) : NextDegBits P (execVsw k s) := by
  refine run_degBits h fun t ht => ?_
  dsimp only
  repeat' split
  all_goals simpa using ht

/-! ### Fences, invalidations and probes of translations (12) -/

theorem execTfence_degBits {P} {s : State} {sel} (h : P s.degBits) : NextDegBits P (execTfence sel s) := by
  simp [execTfence, h]
@[simp] theorem State.removeTranslations_degBits (s : State) (r) : (s.removeTranslations r).degBits = s.degBits := by
  simp [State.removeTranslations]
@[simp] theorem State.invalidate_degBits (s : State) (r) : (s.invalidate r).degBits = s.degBits := by
  simp [State.invalidate]
theorem execTlbinv_degBits {P} {s : State} {e g a b} (h : P s.degBits) : NextDegBits P (execTlbinv e g a b s) := by
  simp [execTlbinv, h]
theorem execTprobe_degBits {P} {s : State} {e g d a b} (h : P s.degBits) : NextDegBits P (execTprobe e g d a b s) := by
  simp [execTprobe, h]

/-! ### The dispatch registers (14 Table 14-9) -/

@[simp] theorem State.countClamp_degBits (s : State) (b) : (s.countClamp b).degBits = s.degBits := by
  simp [State.countClamp]
@[simp] theorem State.emptyCore_degBits (s : State) (core) : (s.emptyCore core).degBits = s.degBits := by
  simp [State.emptyCore]
@[simp] theorem State.requestCarve_degBits (s : State) (v) : (s.requestCarve v).1.degBits = s.degBits := by
  simp only [State.requestCarve]
  repeat' split
  all_goals simp
@[simp] theorem State.setAct_degBits (s : State) (slot act) : (s.setAct slot act).degBits = s.degBits := by
  simp [State.setAct]
@[simp] theorem State.contextOn_degBits (s : State) (v) : (s.contextOn v).1.degBits = s.degBits := by
  simp only [State.contextOn]
  repeat' split
  all_goals simp
@[simp] theorem State.withdraw_degBits (s : State) (p) : (s.withdraw p).degBits = s.degBits := by
  simp [State.withdraw]
@[simp] theorem State.beginOff_degBits (s : State) (slot) : (s.beginOff slot).degBits = s.degBits := by
  simp [State.beginOff]
@[simp] theorem State.finishOff_degBits (s : State) (slot) : (s.finishOff slot).degBits = s.degBits := by
  simp [State.finishOff]
@[simp] theorem State.armQueue_degBits (s : State) (v) : (s.armQueue v).1.degBits = s.degBits := by
  simp only [State.armQueue]
  repeat' split
  all_goals simp
@[simp] theorem State.kill_degBits (s : State) (ccb) : (s.kill ccb).1.degBits = s.degBits := by
  simp only [State.kill]; split <;> simp

theorem dcfgBody_degBits {P} {g d sel b} {s : State} (h : P s.degBits) : NextDegBits P (dcfgBody g d sel b s) := by
  refine run_degBits h fun t ht => ?_
  dsimp only
  repeat' split
  all_goals simpa using ht

/-! ### Host, peers and interfaces (15) -/

@[simp] theorem State.ackClaim_degBits (s : State) (i) : (s.ackClaim i).1.degBits = s.degBits := by
  simp only [State.ackClaim]; split <;> simp
@[simp] theorem State.forwardClaim_degBits (s : State) (i) : (s.forwardClaim i).degBits = s.degBits := by
  simp [State.forwardClaim]
@[simp] theorem State.forwardOp_degBits (s : State) (a b) : (s.forwardOp a b).1.degBits = s.degBits := by
  simp only [State.forwardOp]
  repeat' split
  all_goals simp
theorem intfwBody_degBits {P} {s : State} {e g d a b} (h : P s.degBits) : NextDegBits P (intfwBody e g d a b s) := by
  simp [intfwBody, h]

/-! ### Lane maps and check modes (17) -/

@[simp] theorem State.measure_degBits (s : State) (kind value size digest) :
    (s.measure kind value size digest).degBits = s.degBits := by
  simp [State.measure]
@[simp] theorem State.measureValue_degBits (s : State) (kind value) : (s.measureValue kind value).degBits = s.degBits := by
  simp [State.measureValue]

/-- A lane map that takes a new DIS is of a bench that is not degraded, and stays so (17 R451). -/
theorem lmapw_degBit {old lfail : DWord} {x y : Nat} {df : Bool} (h : lmapStatus old lfail x y = 0) :
    (BitVec.ofNat 64 (old.toNat - natBits old.toNat 61 1 * 2 ^ 61 + df.toNat * 2 ^ 61 - lmapDis old + y % 128)).getLsbD 63 =
      old.getLsbD 63 := by
  have hclear : ¬ (old.getLsbD 63 = true ∨ old.getLsbD 62 = true) := by
    intro hset
    simp only [lmapStatus, hset, if_true] at h
    split at h <;> cases h
  have h63 : old.toNat.testBit 63 = false := Bool.eq_false_iff.2 fun hb => hclear (.inl hb)
  have h62 : old.toNat.testBit 62 = false := Bool.eq_false_iff.2 fun hb => hclear (.inr hb)
  have hdf : df.toNat ≤ 1 := Bool.toNat_le df
  have hold := old.isLt
  simp only [Nat.testBit_eq_decide_div_mod_eq, decide_eq_false_iff_not] at h62 h63
  have hsmall : old.toNat - natBits old.toNat 61 1 * 2 ^ 61 + df.toNat * 2 ^ 61 - lmapDis old + y % 128 < 2 ^ 63 := by omega
  rw [BitVec.getLsbD_ofNat, Nat.testBit_lt_two_pow hsmall, Bool.and_false]
  exact (Bool.eq_false_iff.2 fun hb => hclear (.inl hb)).symm

theorem execLmapw_degBits {P} {s : State} {e g d a b} (h : P s.degBits) : NextDegBits P (execLmapw e g d a b s) := by
  refine run_degBits h fun t ht => ?_
  dsimp only
  split
  · simpa using ht
  · rw [State.advance_degBits, State.writeS_degBits, State.popSources_degBits]
    split
    · next hst =>
      rwa [State.setCore_degBits]
      rw [← State.core_degBits]
      funext n
      simp only [degOf, Tab.get_put]
      split
      · next hn => rw [hn]; exact lmapw_degBit hst
      · rfl
    · exact ht
theorem chkm_degBits {P} {bits f d a} {s : State} (h : P s.degBits) (hf : ∀ t x, (f t x).1.degBits = t.degBits) :
    NextDegBits P (chkm bits f d a s) := by
  refine run_degBits h fun t ht => ?_
  rw [State.advance_degBits, State.writeS_degBits, State.popSources_degBits]
  split
  · exact ht
  · rwa [hf]

@[simp] theorem State.setFloor_degBits (s : State) (v) : (s.setFloor v).1.degBits = s.degBits := by
  simp only [State.setFloor]
  repeat' split
  all_goals simp

/-! ### The guard engine (16) -/

@[simp] theorem State.declare_degBits (s : State) (pasid l) : (s.declare pasid l).1.degBits = s.degBits := by
  unfold State.declare
  dsimp only
  repeat' split
  all_goals simp

@[simp] theorem State.undeclare_degBits (s : State) (pasid a) : (s.undeclare pasid a).1.degBits = s.degBits := by
  unfold State.undeclare
  dsimp only
  split
  · rfl
  · split <;> simp

@[simp] theorem State.withDescriptors_degBits (s : State) (va n k) (hk : ∀ t p l, (k t p l).degBits = t.degBits) :
    (s.withDescriptors va n k).degBits = s.degBits := by
  simp only [State.withDescriptors]
  split
  · simp
  · split
    · simp
    · split <;> simp only [State.settle_degBits, State.dropReplies_degBits, State.watch_degBits, hk]
      all_goals
        refine (foldl_fst_degBits _ (fun a x => ?_) _ _).trans (by simp)
        split <;> (rename_i heq; simp [degBits_of_eq heq])

theorem msdBody_degBits {P} {s : State} {e d a n} (h : P s.degBits) : NextDegBits P (msdBody e d a n s) := by
  simp [msdBody, h]
theorem hstatBody_degBits {P} {s : State} {e d a sel} (h : P s.degBits) : NextDegBits P (hstatBody e d a sel s) := by
  simp [hstatBody, h]
@[simp] theorem State.garmOp_degBits (s : State) (a b) : (s.garmOp a b).1.degBits = s.degBits := by
  simp only [State.garmOp]
  repeat' split
  all_goals simp
theorem garmBody_degBits {P} {s : State} {e g d a b} (h : P s.degBits) : NextDegBits P (garmBody e g d a b s) := by
  simp [garmBody, h]
@[simp] theorem State.extractPiece_degBits (s : State) (st m va p v) : (s.extractPiece st m va p v).degBits = s.degBits := by
  simp only [State.extractPiece]; split <;> simp

theorem execMsx_degBits {P} {e g d a b} {s : State} (h : P s.degBits) : NextDegBits P (execMsx e g d a b s) := by
  refine runPoint_degBits h fun t ht => ?_
  dsimp only
  split
  · simpa using ht
  · split
    · simpa using ht
    · split
      · simpa using ht
      · rw [State.advance_degBits, State.writeS_degBits, State.popSources_degBits, State.watch_degBits, foldl_degBits]
        · simpa using ht
        · intro u x
          split <;> simp

/-! ### Debugging and sampling (18) -/

theorem setPoint_degBits {P} {s : State} {refuses put e g d a b} (hput : ∀ k x y, (put k x y).lmap = k.lmap) (h : P s.degBits) :
    NextDegBits P (setPoint refuses put e g d a b s) := by
  simp [setPoint, hput, h]
@[simp] theorem State.haltRecords_degBits (s : State) (ccb) : (s.haltRecords ccb).degBits = s.degBits := by
  simp only [State.haltRecords]
  split
  · refine foldl_degBits _ (fun s k => ?_) _ _
    split <;> simp
  · simp

theorem execHalt_degBits {P} {s : State} {e d a} (h : P s.degBits) : NextDegBits P (execHalt e d a s) := by
  simp [execHalt, h]
theorem execResm_degBits {P} {s : State} {e d a} (h : P s.degBits) : NextDegBits P (execResm e d a s) := by
  simp [execResm, h]
theorem execTrcfg_degBits {P} {s : State} {g d sel b} (h : P s.degBits) : NextDegBits P (execTrcfg g d sel b s) := by
  simp [execTrcfg, h]
theorem execSmpl_degBits {P} {s : State} {d p} (h : P s.degBits) : NextDegBits P (execSmpl d p s) := by
  simp [execSmpl, h]
@[simp] theorem State.tagIssue_degBits (s : State) (st e w) : (s.tagIssue st e w).degBits = s.degBits := by
  simp [State.tagIssue]

end Sys2Proof.Machine
end

section
/-! DEG of the benches under `exec` of a word, and under what an issue does before and after it. -/

namespace Sys2Proof.Machine

open Sys2Proof.Claims

/-! ### Every instruction with a word -/

theorem execStl_degBits {P} {d a sel z} {s : State} (h : P s.degBits) : NextDegBits P (execStl d a sel z s) := by
  unfold execStl
  exact vecStore_degBits h
theorem execTld_degBits {P} {e d a m n} {s : State} (h : P s.degBits) : NextDegBits P (execTld e d a m n s) :=
  tileAccess_degBits h fun t x => by simp

theorem execTst_degBits {P} {e d a m n} {s : State} (h : P s.degBits) : NextDegBits P (execTst e d a m n s) :=
  tileAccess_degBits h fun t x => by
    rw [State.advance_degBits]
    exact foldl_degBits _ (fun _ _ => by simp) _ _

/-- No instruction with a word changes DEG of a bench: only `lmapw` writes a lane map at all (17 R451). -/
theorem exec_degBits {P} {i : Instr} {s : State} (hw : (encode i).isSome = true) (h : P s.degBits) :
    NextDegBits P (exec i s) := by
  cases i
  case strandAged | lineFill | lineEvict | frontierRefill | producerWriteback | floatWriteback | successorStart | slotFree | binAgeExpiry |
    gatherFormation | l1Fill | storeLost | accessTimeout | promotionRequest | monitorFire | waitcPoll | monitorWake | tailPoll |
    commandStart | deliveryUnit | commandCompletion | channelFault | rendezvousComplete | rendezvousTimeout | mmaOperationComplete |
    macqRetry | drainEntryReady | accDeadlockSwap | mxnSet | columnMapOut | walkComplete | heldEventEntry | machineCheck | tailRead |
    recordPop | queueResume | starvationAge | cohortPlacement | promotion | demotion | quantumExpiry | preemption | switchRequest |
    variantSwitch | switchTimeout | swapOut | swapIn | migration | carveModeChange | cohortCompletion | launchCompletion | debugStop |
    sampleTag | sampleRecord | laneReissue | lmapUpdate | cloneReplay | patrolRead | hostMemWrite | hostMemRead | bar0Access |
    mailboxDoorbell | flushComplete | atsInvalidationRequest | peerInboundAccess | portDown | portWidthChange | claimTimerExpiry | icack |
    msixUnmask | integrityCheckFail | ideKeyManagement | spdmRequest | keyExchange | lockInterfaceRequest | startInterfaceRequest |
    stopInterfaceRequest | getDeviceInterfaceReport | hostConfigWrite | functionLevelReset | powerFail | drainComplete | gdone | gskip |
    policySliceEnd | extentWrites | sealLog | railCollapse | supplyReturn | logErase | thermalAlarm | thermalTrip | powerAlarm |
    powerAlarmEnd | powerGood | stage1 | stage2 | firmwareUpdate | activateFirmware | getState | startScrub | grant | revoke | getRecord |
    revokeDeadline | scrubComplete | registerWrite | hostSnoop | globalObservationResponse | portUp | portPDown | portCError | portPError |
    resetDevice | serviceCoreMessage =>
    cases hw
  all_goals dsimp only [exec]
  case vadd | vsub | vmullo | vmulhis | vmulhiu | vadds | vsubs | vaddx2 | vsubx2 | vmins | vminu | vmaxs | vmaxu | vand | vor
    | vxor | vandn | vshl | vshru | vshrs | vrot | vbfeu | vbfes | vcmpeq | vcmplts | vcmpltu | vcmples | vcmpleu =>
    exact vecBin_degBits h
  case vmad | vdot4s | vdot4u | vbfi | vsel => exact vecMod_degBits h
  case vpopc | vclz | vctz | vbrev | vnot | vabs | vneg | vsx8 | vsx16 | vzx8 | vzx16 | vmov => exact vecUn_degBits h
  case vshfl | vshflx | vshflup | vshfldn => exact vecShuffle_degBits h
  case vrdlane => exact execVrdlane_degBits h
  case vwrlane => exact execVwrlane_degBits h
  case vredadd | vredmins | vredmaxs | vredand | vredor => exact vecReduce_degBits h
  case vscanadd => exact execVscanadd_degBits h
  case vballot => exact execVballot_degBits h
  case vaddi | vmuli | vandi | vori | vxori | vshli | vshrui | vshrsi | vcmpeqi | vcmpltsi | vcmpltui => exact vecImm_degBits h
  case vfadd | vfsub | vfmul | vffma | vffms | vfmin | vfmax | vfcmpeq | vfcmplt | vfcmple | vfcmpun => exact vecFloat3_degBits h
  case vfsqrt | vfrsq | vfrcp | vfexp2 | vflog2 | vfsinpi | vfcospi | vftanh | vfabs | vfneg | vffloor | vfceil | vftrunc |
    vfrne | vffrac | vfclass =>
    exact vecFloat1_degBits h
  case vcvt | vcvts => exact vecConvert_degBits h
  case vpackF16 | vpackBf16 => exact vecPack_degBits h
  case vfscaleF32 | vfscaleF64 => exact vecScale_degBits h
  case vfdot2F16 | vfdot2Bf16 => exact vecDot2_degBits h
  case sadd | ssub | smul | smulhu | smulhs | smins | sminu | smaxs | smaxu | sand | sor | sxor | sandn | sshl | sshru | sshrs
    | scmpeq | scmplts | scmpltu | scmples | scmpleu =>
    exact scaBin_degBits h
  case sdivu | sdivs | sremu | srems => exact scaDiv_degBits h
  case sbfe => exact execSbfe_degBits h
  case sbfi | ssel => exact scaMod_degBits h
  case spopc | sclz | sctz | sbrev | snot | sneg | ssx32 | szx32 | smov => exact scaUn_degBits h
  case sgetst => exact execSgetst_degBits h
  case ssetst => exact execSsetst_degBits h
  case sfadd | sfsub | sfmul | sffma | sfcmplt => exact scaFloat_degBits h
  case sfcvt => exact execSfcvt_degBits h
  case saddi | sandi | sori | sxori | sshli | sshrui | sshrsi | scmpeqi | scmpltsi | scmpltui => exact scaImm_degBits h
  case bri => exact execBri_degBits h
  case jr => exact execJr_degBits h
  case callr => exact execCallr_degBits h
  case exit => exact execExit_degBits h
  case exitto => exact execExitto_degBits h
  case spawn => exact execSpawn_degBits h
  case bar | barSp => exact barrier_degBits h
  case parv => exact execParv_degBits h
  case pwait => exact execPwait_degBits h
  case win => exact execWin_degBits h
  case winq => exact execWinq_degBits h
  case vsw => exact execVsw_degBits h
  case yield => exact execYield_degBits h
  case nop => exact execNop_degBits h
  case sysc => exact execSysc_degBits h
  case brk => exact execBrk_degBits h
  case tret => exact execTret_degBits h
  case enq => exact execEnq_degBits h
  case join => exact execJoin_degBits h
  case msd | msdWithdraw => exact msdBody_degBits h
  case msx => exact execMsx_degBits h
  case hstat | hstatLog => exact hstatBody_degBits h
  case sigmask => exact execSigmask_degBits h
  case sighand => exact execSighand_degBits h
  case sighandCause | sighandTaddr | sighandTmask | sighandFaddr => exact readTrap_degBits h
  case pget => exact execPget_degBits h
  case pset => exact execPset_degBits h
  case unpark => exact execUnpark_degBits h
  case sig => exact execSig_degBits h
  case tinj => exact execTinj_degBits h
  case swapo => exact execSwapo_degBits h
  case swapi => exact execSwapi_degBits h
  case sysrp => exact execSysrp_degBits h
  case tlbinv => exact execTlbinv_degBits h
  case tfence => exact execTfence_degBits h
  case tprobe => exact execTprobe_degBits h
  case aspill => exact execAspill_degBits h
  case afill => exact execAfill_degBits h
  case chres | chabt => exact repair_degBits h
  case lmapw => exact execLmapw_degBits h
  case chkmFloor | chkmLmap | chkmLfail | chkmCmap | chkmCnt | chkmClr => exact chkm_degBits h fun t x => by simp
  case trcfg => exact execTrcfg_degBits h
  case bpset | wpset => exact setPoint_degBits (fun _ _ _ => rfl) h
  case smpl => exact execSmpl_degBits h
  case garmShare | garmRead | garmRelease => exact garmBody_degBits h
  case dcfg | carve | ctxon | ctxoff | qarm | kill => exact dcfgBody_degBits h
  case vreq => exact execVreq_degBits h
  case halt => exact execHalt_degBits h
  case resm => exact execResm_degBits h
  case intfwAck | intfwFwd | intfwRaise | intfwSend => exact intfwBody_degBits h
  case ldb | ldbs | ldh | ldhs | ldw | ldd | ldq => exact vecLoad_degBits h
  case stb | sth | stw | std | stq => exact immStore_degBits h
  case sld | sldw => exact scalarLoad_degBits h
  case sst | sstw => exact scalarStore_degBits h
  case ldwx => exact execLdwx_degBits h
  case stwx => exact vecStore_degBits h
  case lda => exact execLda_degBits h
  case fence => exact execFence_degBits h
  case xfence => exact execXfence_degBits h
  case atadd | atmins | atminu | atmaxs | atmaxu | atand | ator | atxor | atxchg | atcas | atfadd | atdadd | atdcas =>
    exact atomic_degBits h
  case vatfadd | vatbadd | vatfmax | vatiadd => exact vectorAtomic_degBits h
  case waitc => exact execWaitc_degBits h
  case pref => exact execPref_degBits h
  case cinv | cwb => exact cacheControl_degBits h fun t x => by simp
  case ldpv => exact execLdpv_degBits h
  case stpv => exact execStpv_degBits h
  case ldbc => exact execLdbc_degBits h
  case cpgt | cptg | cpgg | cpat | cpgs | cpsg | cpix | cfill => exact transfer_degBits h
  case cwp => exact execCwp_degBits h
  case cwait => exact execCwait_degBits h
  case cdone => exact execCdone_degBits h
  case ccan => exact execCcan_degBits h
  case mmaBf16 | mmaF16 | mmaE4m3 | mmaE5m2 | mmaMxe2m1 | mmaMxe4m3 | mmaMxe2m3 | mmaI8 => exact mma_degBits h
  case mgang => exact execMgang_degBits h
  case macq => exact execMacq_degBits h
  case mrel => exact execMrel_degBits h
  case mzero => exact execMzero_degBits h
  case mdrain => exact execMdrain_degBits h
  case mcfg => exact execMcfg_degBits h
  case mstat => exact execMstat_degBits h
  case mwait => exact execMwait_degBits h
  case br | brz | bru | bruz => exact branch_degBits h
  case brs => exact execBrs_degBits h
  case jmp => exact execJmp_degBits h
  case call => exact execCall_degBits h
  case sloop => exact execSloop_degBits h
  case smovl | smovh | smovx | smovt => exact scaLong_degBits h
  case vmovl | vmovh => exact vecLong_degBits h
  case stl => exact execStl_degBits h
  case tld => exact execTld_degBits h
  case tst => exact execTst_degBits h

/-! ### Fetch and issue (03, 04) -/

@[simp] theorem State.cachedWord_degBits (s : State) (core p) : (s.cachedWord core p).1.degBits = s.degBits := by
  simp only [State.cachedWord]
  repeat' split
  all_goals simp

@[simp] theorem State.fetchWord_degBits (s : State) (st pc) : (s.fetchWord st pc).1.degBits = s.degBits := by
  simp only [State.fetchWord]
  split
  · rename_i heq; simp [degBits_of_eq heq]
  · rename_i heq; simp [degBits_of_eq heq]
  · rename_i heq
    split
    · simp [degBits_of_eq heq]
    · split <;> simp [degBits_of_eq heq]

@[simp] theorem State.keepWord_degBits (s : State) (st n w) : (s.keepWord st n w).degBits = s.degBits := by
  simp [State.keepWord]

@[simp] theorem State.select_degBits (s : State) (key) : (s.select key).degBits = s.degBits := by
  simp [State.select]
@[simp] theorem State.report_degBits (s : State) (before key) : (s.report before key).degBits = s.degBits := by
  simp only [State.report]; split <;> simp

@[simp] theorem State.passYields_degBits (s : State) (core bench) : (s.passYields core bench).degBits = s.degBits := by
  simp [State.passYields]

end Sys2Proof.Machine
end

section
/-! Settles 03 R59 with 06 R152: one lemma for each part of a cycle of a bench, from the fetched word up to the step. -/

namespace Sys2Proof.Machine

open Sys2Proof.Claims

/-! ### What the end of an issue leaves alone -/

@[simp] theorem State.curStall_keepWord (s : State) (st : Strand) (n : Nat) (w : Word) : (s.keepWord st n w).curStall = s.curStall := by
  unfold State.keepWord
  dsimp only
  split <;> rfl

@[simp] theorem State.curStall_tagIssue (s : State) (st : Strand) (e : Entry) (w : Word) :
    (s.tagIssue st e w).curStall = s.curStall := by
  unfold State.tagIssue
  dsimp only
  split <;> rfl

/-! ### From the word to the cycle of a bench -/

theorem State.runWord_of_ok {s : State} {w : Word} {i : Instr} (h : decode w = .ok i) : s.runWord w = exec i s := by
  simp [State.runWord, h]

theorem State.runWord_of_not_ok {s : State} {w : Word} (h : ∀ i, decode w ≠ .ok i) :
    s.runWord w = .next (s.raiseAll .illegalOpcode) := by
  unfold State.runWord
  split
  · next i hi => exact absurd hi (h i)
  · rfl

section Issue
variable {s s1 t : State} {e : Entry} {w : Word} {i : Instr}

/-- An instruction that its fields do not hold back runs, and the replay queue and the sampler take its word. -/
theorem State.runEntry_of_word (hfetch : s.fetchWord s.cur e.pc = (s1, .word w)) (hword : decode w = .ok i)
    (hrun : exec i { s1 with reached := 0 } = .next t) (hstall : t.cur.stall = 0) :
    s.runEntry e = .next ((t.keepWord s.cur (s1.replayQueue s.cur).length w).tagIssue s.cur e w) := by
  simp [State.runEntry, hfetch, State.runWord_of_ok hword, hrun, State.curStall, hstall]

/-- A candidate entry that nothing holds back runs (R155 to R162). -/
theorem State.tryIssue_of_candidate (hentry : candidate? s.cur = some e) (hgoing : e.parked = false)
    (hposted : s.cur.frontier.all (fun x => !x.pending) = true) (hawake : s.cur.waitAt e.pc = none)
    (hbound : s.cur.bound = none) (hpoints : s.pointsAt e = []) (hskips : s.curCohort.skip = false) :
    s.tryIssue = s.runEntry e := by
  have hpending : s.cur.frontier.any (fun x => x.pending) = false := by simpa using hposted
  have hfind : s.cur.frontier.find? (fun e => decide (e.hold = .no)) = some e := hentry
  have hbreak : s.breakAt e (fun s => s.runEntry e) = s.runEntry e := by simp [State.breakAt, hpoints, hskips]
  simp [State.tryIssue, hfind, hgoing, hpending, hawake, hbound, hbreak]

theorem State.issueFirst_of_issues {k : Nat} {l : List Nat} (hissue : (s.select k).tryIssue = .next t) (hstall : t.curStall = 0) :
    s.issueFirst (k :: l) = .next (l.foldl (fun u x => u.report s x) t, some k) := by
  simp [State.issueFirst, hissue, hstall]

end Issue

@[simp] theorem State.lmapOf_passYields (s : State) (core bench c n : Nat) :
    (s.passYields core bench).lmapOf c n = s.lmapOf c n := rfl

/-- The strands of a bench after the issue of strand k, which leads to t: the others report what holds them back (R162), the ready
cycles are counted (R152), and a degraded bench takes a second cycle (R154). -/
noncomputable def benchAfter (b : State) (core bench k : Nat) (others : List Nat) (t : State) : State :=
  let u := others.foldl (fun u x => u.report b x) t
  if (b.lmapOf core bench).getLsbD 63 then
    ((u.countReady core bench 2 (k :: others) (some k)).passYields core bench).elapse 1
  else u.countReady core bench 1 (k :: others) (some k)

/-- The bench cycle in which its first strand issues: the same whether replays go before the user strands or not (17 R456). -/
theorem State.issueBench_of_issues {s t : State} {core bench k : Nat} {others : List Nat} (horder : s.benchOrder core bench = k :: others)
    (hfirst : s.replaysFirst core bench = false ∨ (2 ^ 64 ≤ k ∧ ∀ x ∈ others, x < 2 ^ 64))
    (hissue : ((s.passYields core bench).select k).tryIssue = .next t) (hstall : t.curStall = 0) :
    s.issueBench core bench = .next (benchAfter (s.passYields core bench) core bench k others t, some k) := by
  have hissues := fun l => State.issueFirst_of_issues (l := l) hissue hstall
  unfold State.issueBench benchAfter
  cases hreplays : s.replaysFirst core bench with
  | false =>
    simp only [horder, hissues others, Bool.false_eq_true, if_false, Bool.not_false, if_true, Option.isSome_some, Bool.true_and,
      State.lmapOf_passYields]
    split <;> next hdeg => simp only [hdeg, ↓reduceIte, Bool.false_eq_true]
  | true =>
    obtain ⟨hsup, husers⟩ := hfirst.resolve_left (by simp [hreplays])
    have htaken : (k :: others).filter (fun k => decide (2 ^ 64 ≤ k)) = [k] := by
      rw [List.filter_cons_of_pos (by simpa using hsup), List.filter_eq_nil_iff.2 fun x hx => by simpa using husers x hx]
    have hrest : (k :: others).filter (fun k => decide (k < 2 ^ 64)) = others := by
      rw [List.filter_cons_of_neg (by simpa using hsup), List.filter_eq_self.2 fun x hx => by simpa using husers x hx]
    simp only [horder, htaken, hrest, hissues [], List.foldl_nil, Bool.not_true, Bool.false_eq_true, if_false, if_true,
      Option.isSome_some, Bool.true_and, State.lmapOf_passYields]
    split <;> next hdeg => simp only [hdeg, ↓reduceIte, Bool.false_eq_true]

/-- An issue that leaves DEG as it was takes the cycles that the bench had at its beginning. -/
theorem afterIssue_eq_benchAfter {b t : State} {core bench k : Nat} {others : List Nat} (hdeg : t.degBits = b.degBits) :
    afterIssue b core bench k others t = (benchAfter b core bench k others t).elapse 1 := by
  have hreported : (others.foldl (fun u x => u.report b x) t).degBits = b.degBits := by simp [hdeg]
  simp only [afterIssue, benchAfter, State.lmapOf_degBits, hreported]
  split <;> rfl

theorem step_of_event {s : State} {i : Instr} {rest : List Agenda} (hagenda : s.agenda = .event i :: rest)
    (hadmits : ({ s with agenda := rest } : State).admits i = true) :
    step s = afterStep (exec i { s with agenda := rest }) := by
  simp [step, hagenda, State.follow, hadmits]

theorem step_of_bench {s t : State} {core bench : Nat} {rest : List Agenda} {k : Option Nat}
    (hagenda : s.agenda = .bench core bench :: rest) (hacting : s.acting = true)
    (hissue : ({ s with agenda := rest } : State).issueBench core bench = .next (t, k)) : step s = .next (t.elapse 1) := by
  have hacts : ({ s with agenda := rest } : State).acting = true := hacting
  simp [step, hagenda, State.follow, hacts, hissue]

end Sys2Proof.Machine

namespace Sys2Proof.Proofs
open Sys2Proof.Machine Sys2Proof.Claims

/-- Settles O57: the cycle of the bench is followed down to `exec`; that no instruction changes DEG (`exec_degBits`) makes the cycles
that it takes the same before and after it. -/
theorem stepRunsDecoded : Obligations.StepRunsDecoded := by
  refine ⟨?word, fun s w h => State.runWord_of_not_ok h, fun s i rest => step_of_event⟩
  case word =>
    intro s core bench k rest others s1 t e w i hruns hword hexec hstall b st
    obtain ⟨hagenda, hacting, horder, hfirst, hentry, hgoing, hposted, hawake, hbound, hpoints, hskips, hfetch⟩ := hruns
    have hissue : (b.select k).tryIssue = .next ((t.keepWord st (s1.replayQueue st).length w).tagIssue st e w) :=
      (State.tryIssue_of_candidate hentry hgoing hposted hawake hbound hpoints hskips).trans
        (State.runEntry_of_word hfetch hword hexec hstall)
    have hcycle := State.issueBench_of_issues horder hfirst hissue (by rwa [State.curStall_tagIssue, State.curStall_keepWord])
    have hencode : (encode i).isSome = true := by
      rw [spells_decodeRow w i (decode_eq_ok_iff.1 hword).1]
      rfl
    have hfetched : s1.degBits = b.degBits := by
      rw [degBits_of_eq hfetch, State.fetchWord_degBits, State.select_degBits]
    have hdeg : t.degBits = b.degBits := by
      have hran := exec_degBits (P := (· = b.degBits)) (s := { s1 with reached := 0 }) hencode (by simpa using hfetched)
      rwa [hexec] at hran
    rw [step_of_bench hagenda hacting hcycle, afterIssue_eq_benchAfter (by simpa using hdeg)]
    rfl

end Sys2Proof.Proofs
end

section
/-! Settles 04 R99, 06 R152, R158 and 13 R344, R351. A write-back, a parked cause, an event and a notice each have one equation for
what they write and one for what they leave; the entries that never merge show where the lanes of a held cause stand. -/

namespace Sys2Proof.Machine

/-! ### What a write-back writes (04 R99) -/

theorem getLsbD_setBit_true {w : Nat} (x : BitVec w) (i j : Nat) (h : j < w) :
    (setBit x i true).getLsbD j = (x.getLsbD j || i == j) := by
  rw [setBit, if_pos rfl, BitVec.getLsbD_or, BitVec.getLsbD_ofNat, Nat.testBit_two_pow, beq_eq_decide]
  simp only [h, decide_true, Bool.true_and]

/-- The lines of a producer, written in their order. -/
def Strand.writeLines (st : Strand) (l : List (Nat × Mask × Line)) : Strand :=
  l.foldl (fun st x => st.writeLanes x.1 x.2.1 (laneOf x.2.2)) st

/-- The scalars of a producer, written in their order. -/
def Strand.writeScalars (st : Strand) (l : List (Nat × DWord)) : Strand := l.foldl (fun st x => st.setScalar x.1 x.2) st

/-- A strand without its scalars. -/
def Strand.scalarless (st : Strand) : Strand := { st with scal := [], sFull := 0 }

theorem Strand.writeScalars_scalarless (l : List (Nat × DWord)) (st : Strand) :
    (st.writeScalars l).scalarless = st.scalarless := by
  induction l generalizing st with
  | nil => rfl
  | cons a l ih => exact ih _

theorem Strand.scalar_writeScalars_of_not_mem (l : List (Nat × DWord)) (st : Strand) (m : Nat) (h : ¬ ∃ x ∈ l, x.1 = m) :
    (st.writeScalars l).scalar m = st.scalar m := by
  induction l generalizing st with
  | nil => rfl
  | cons a l ih =>
    simp only [List.exists_mem_cons_iff, not_or] at h
    obtain ⟨ha, hl⟩ := h
    exact (ih _ hl).trans ((Strand.scalar_setScalar ..).trans (if_neg (Ne.symm ha)))

theorem Strand.scalar_writeScalars_of_mem (l : List (Nat × DWord)) (st : Strand) (hd : (l.map fun x => x.1).Nodup)
    (x : Nat × DWord) (hx : x ∈ l) : (st.writeScalars l).scalar x.1 = x.2 := by
  induction l generalizing st with
  | nil => cases hx
  | cons a l ih =>
    obtain ⟨hnew, hrest⟩ := List.nodup_cons.1 hd
    rcases List.mem_cons.1 hx with rfl | hx
    · exact (scalar_writeScalars_of_not_mem l _ _ (by simpa using hnew)).trans
        ((Strand.scalar_setScalar ..).trans (if_pos rfl))
    · exact ih _ hrest hx

theorem Strand.sFull_writeScalars (l : List (Nat × DWord)) (st : Strand) (m : Nat) (h : m < 64) :
    (st.writeScalars l).sFull.getLsbD m = (st.sFull.getLsbD m || l.any fun x => x.1 == m) := by
  induction l generalizing st with
  | nil => simp [Strand.writeScalars]
  | cons a l ih =>
    rw [List.any_cons, ← Bool.or_assoc]
    exact (ih _).trans (congrArg (· || _) (getLsbD_setBit_true _ _ _ h))

theorem Strand.line_writeLines_of_mem (l : List (Nat × Mask × Line)) (st : Strand) (hd : (l.map fun x => x.1).Nodup)
    (x : Nat × Mask × Line) (hx : x ∈ l) :
    (st.writeLines l).line x.1 = mergeLine (st.line x.1) x.2.1 (laneOf x.2.2) := by
  induction l generalizing st with
  | nil => cases hx
  | cons a l ih =>
    obtain ⟨hnew, hrest⟩ := List.nodup_cons.1 hd
    rcases List.mem_cons.1 hx with rfl | hx
    · exact (line_writeLines l _ _ (by simpa using hnew)).trans ((Strand.line_writeLanes ..).trans (if_pos rfl))
    · have hne : x.1 ≠ a.1 := fun he => hnew (List.mem_map.2 ⟨x, hx, he⟩)
      have hkept := (Strand.line_writeLanes st a.1 x.1 a.2.1 (laneOf a.2.2)).trans (if_neg hne)
      exact (ih _ hrest hx).trans (congrArg (mergeLine · x.2.1 (laneOf x.2.2)) hkept)

theorem Strand.vFull_writeLines (l : List (Nat × Mask × Line)) (st : Strand) (n : Nat) (h : n < 512) :
    (st.writeLines l).vFull.getLsbD n = (st.vFull.getLsbD n || l.any fun x => x.1 == n) := by
  induction l generalizing st with
  | nil => simp [Strand.writeLines]
  | cons a l ih =>
    rw [List.any_cons, ← Bool.or_assoc]
    exact (ih _).trans (congrArg (· || _) (getLsbD_setBit_true _ _ _ h))

/-- A strand after the lines and the scalars of a producer. -/
def Strand.writeBack (st : Strand) (p : Producer) : Strand := (st.writeLines p.lines).writeScalars p.scalars

section WriteBack
variable (st : Strand) (p : Producer)

theorem Strand.writeBack_frame : (st.writeBack p).scalarless.lineless = st.scalarless.lineless :=
  (congrArg Strand.lineless (Strand.writeScalars_scalarless p.scalars _)).trans
    (congrArg Strand.scalarless (lineless_writeLines p.lines st))

theorem Strand.writeBack_producers : (st.writeBack p).producers = st.producers := (congrArg Strand.producers (st.writeBack_frame p) :)

theorem Strand.writeBack_ccb : (st.writeBack p).ccb = st.ccb := (congrArg Strand.ccb (st.writeBack_frame p) :)

theorem Strand.writeBack_line (n : Nat) : (st.writeBack p).line n = (st.writeLines p.lines).line n :=
  (congrArg (fun x => Strand.line x n) (Strand.writeScalars_scalarless p.scalars (st.writeLines p.lines)) :)

theorem Strand.writeBack_vFull {x : Nat × Mask × Line} (hx : x ∈ p.lines) (h : x.1 < 512) :
    (st.writeBack p).vFull.getLsbD x.1 = true := by
  have hkept : (st.writeBack p).vFull = (st.writeLines p.lines).vFull :=
    (congrArg Strand.vFull (Strand.writeScalars_scalarless p.scalars (st.writeLines p.lines)) :)
  have hany : p.lines.any (fun y => y.1 == x.1) = true := List.any_eq_true.2 ⟨x, hx, beq_self_eq_true _⟩
  rw [hkept, Strand.vFull_writeLines _ _ _ h, hany, Bool.or_true]

theorem Strand.writeBack_sFull {x : Nat × DWord} (hx : x ∈ p.scalars) (h : x.1 < 64) :
    (st.writeBack p).sFull.getLsbD x.1 = true := by
  have hany : p.scalars.any (fun y => y.1 == x.1) = true := List.any_eq_true.2 ⟨x, hx, beq_self_eq_true _⟩
  rw [Strand.writeBack, Strand.sFull_writeScalars _ _ _ h, hany, Bool.or_true]

theorem Strand.writeBack_lane (hd : (p.lines.map fun x => x.1).Nodup) {x : Nat × Mask × Line} (hx : x ∈ p.lines) {l : Nat}
    (hl : l < 64) : laneOf ((st.writeBack p).line x.1) l =
      if x.2.1.getLsbD l then laneOf x.2.2 l else laneOf (st.line x.1) l := by
  rw [st.writeBack_line, Strand.line_writeLines_of_mem _ _ hd x hx, laneOf_mergeLine _ _ _ _ hl]

/-- A write-back keeps every register but the lines and the scalars that the producer holds. -/
theorem Strand.writeBack_registers :
    SameRegisters st (st.writeBack p) (fun n => ∃ x ∈ p.lines, x.1 = n) (fun m => ∃ x ∈ p.scalars, x.1 = m) st.stat := by
  have hframe := st.writeBack_frame p
  refine ⟨fun n hn => (st.writeBack_line p n).trans (line_writeLines _ _ _ hn), fun m hm => ?_, (congrArg Strand.stat hframe :),
    (congrArg Strand.wb hframe :), (congrArg Strand.gang hframe :), (congrArg Strand.cause hframe :),
    (congrArg Strand.taddr hframe :), (congrArg Strand.tmask hframe :), (congrArg Strand.handler hframe :),
    (congrArg Strand.sigmask hframe :), (congrArg Strand.faddr hframe :)⟩
  exact (Strand.scalar_writeScalars_of_not_mem _ _ _ hm).trans
    (congrArg (fun x => Strand.scalar x m) (lineless_writeLines p.lines st) :)

end WriteBack

/-- The registers and the tile store of a core do not depend on its event queue, on what it holds back or on its replies. -/
theorem Core.alike_queues (k : Core) (evq : List Event) (held : List Held) (replies : Nat) :
    k.alike { k with evq := evq, held := held, replies := replies } := ⟨rfl, rfl, rfl, rfl, rfl, rfl, rfl⟩

/-- A state after the entry that a producer may push. -/
def State.pushOf (s : State) (k : Nat) (o : Option (Nat × Line)) : State := o.elim s fun x => s.pushQueue k x.2

section Push
variable (s : State) (k : Nat) (o : Option (Nat × Line))

theorem State.strand_pushOf (j : Nat) : (s.pushOf k o).strand j = s.strand j := by cases o <;> rfl

theorem State.mailbox_pushOf {x : Nat × Line} (h : o = some x) :
    ((s.pushOf k o).cohort (s.strand k).ccb).mailbox = (s.cohort (s.strand k).ccb).mailbox ++ [x.2] := by
  simp [h, State.pushOf, State.pushQueue]

theorem State.pushOf_memory : SameMemory s (s.pushOf k o) := by
  cases o with
  | none => exact SameMemory.refl s
  | some x => exact SameMemory.setCohort _ _ _ rfl

theorem State.pushOf_engines : SameEngines s (s.pushOf k o) := by
  cases o with
  | none => exact SameEngines.refl s
  | some x => exact SameEngines.setCohort _ _ _

end Push

/-- A state in which a producer gives up the miss-status entries it held, and its strand is a given one. -/
def State.release (s : State) (key : Nat) (p : Producer) (st : Strand) : State :=
  let core := (s.strand key).core
  (s.setCore core { s.core core with replies := (s.core core).replies - p.replies }).setStrand key st

theorem exec_producerWriteback {s : State} {key place : Nat} {p : Producer} (h : (s.strand key).producers[place]? = some p) :
    exec (.producerWriteback key place) s = .next ((s.release key p
      (({ s.strand key with producers := (s.strand key).producers.eraseIdx place } : Strand).writeBack p)).pushOf key p.push) := by
  show execProducerWriteback key place s = _
  simp only [execProducerWriteback, h]
  cases p.push <;> rfl

section Release
variable (s : State) (key : Nat) (p : Producer) (st : Strand)

theorem State.release_memory : SameMemory s (s.release key p st) := by
  refine (SameMemory.setCore s (s.strand key).core _ ?_).trans (SameMemory.setStrand _ key st)
  exact Core.alike_queues ..

theorem State.release_engines : SameEngines s (s.release key p st) := by
  refine (SameEngines.setCore s (s.strand key).core _ ?_).trans (SameEngines.setStrand _ key st)
  exact Core.alike_queues ..

theorem State.strand_release_self : (s.release key p st).strand key = st := State.strand_setStrand_self _ _ _

theorem State.strand_release_ne {k : Nat} (h : k ≠ key) : (s.release key p st).strand k = s.strand k :=
  State.strand_setStrand_ne _ _ _ _ h

end Release

theorem OnlyStrand.setStrand (s : State) (key : Nat) (x : Strand) : OnlyStrand s (s.setStrand key x) key :=
  ⟨fun _ hk => State.strand_setStrand_ne _ _ _ _ hk, rfl, SameMemory.setStrand _ _ _, SameEngines.setStrand _ _ _⟩

/-! ### Entries that never merge (06 R157; 13 R351) -/

theorem mem_insertEntry (x e : Entry) (l : List Entry) : x ∈ insertEntry e l ↔ x = e ∨ x ∈ l := by
  induction l with
  | nil => simp [insertEntry]
  | cons y t ih =>
    unfold insertEntry
    split
    · simp
    · rw [List.mem_cons, ih, List.mem_cons, or_left_comm]

theorem mem_insertEntries (x : Entry) (l acc : List Entry) :
    x ∈ l.foldl (fun acc e => insertEntry e acc) acc ↔ x ∈ l ∨ x ∈ acc := by
  induction l generalizing acc with
  | nil => simp
  | cons y t ih => rw [List.foldl_cons, ih, mem_insertEntry, List.mem_cons, or_left_comm, or_assoc]

/-- A parked entry, or one whose cause is held, merges with no other. -/
theorem mem_mergeEntries_of_fixed {x : Entry} (h : (x.parked || x.pending) = true) (l : List Entry) :
    x ∈ mergeEntries l ↔ x ∈ l := by
  induction l with
  | nil => rfl
  | cons y t ih =>
    unfold mergeEntries
    split
    · next hnil => rw [hnil] at ih; simp [← ih]
    · next z u hcons =>
      rw [hcons] at ih
      rw [List.mem_cons (l := t), ← ih]
      split
      · next hjoin =>
        simp only [Entry.joins, Bool.and_eq_true, Bool.not_eq_true'] at hjoin
        obtain ⟨⟨⟨⟨-, hyparked⟩, hzparked⟩, hypending⟩, hzpending⟩ := hjoin
        have hy : x ≠ y := by rintro rfl; simp [hyparked, hypending] at h
        have hz : x ≠ z := by rintro rfl; simp [hzparked, hzpending] at h
        have hyz : x ≠ y.join z := by rintro rfl; simp [Entry.join, hyparked, hypending] at h
        simp [hy, hz, hyz]
      · exact List.mem_cons

theorem mem_orderFrontier_of_fixed {x : Entry} (h : (x.parked || x.pending) = true) (l : List Entry) :
    x ∈ orderFrontier l ↔ x ∈ l := by
  rw [orderFrontier, mem_mergeEntries_of_fixed h, mem_insertEntries]
  simp

/-- No entry of a frontier holds a cause for just these lanes. -/
def NoneHeld (m : Mask) (l : List Entry) : Prop := ∀ n ∈ l, n.pending = true → n.mask ≠ m

theorem noneHeld_orderFrontier {m : Mask} {l : List Entry} (h : NoneHeld m l) : NoneHeld m (orderFrontier l) :=
  fun n hn hp => h n ((mem_orderFrontier_of_fixed (by simp [hp]) l).1 hn) hp

theorem Strand.noneHeld_unhold (st : Strand) (m : Mask) : NoneHeld m (st.unhold m).frontier := by
  refine noneHeld_orderFrontier fun n hn hp => ?_
  simpa [hp] using (List.mem_filter.1 hn).2

theorem all_of_noneHeld {m : Mask} {l : List Entry} (h : NoneHeld m l) : l.all (fun n => !(n.pending && n.mask == m)) = true := by
  rw [List.all_eq_true]
  intro n hn
  cases hp : n.pending with
  | false => rfl
  | true => simpa [hp] using h n hn hp

theorem Strand.wake_frontier (st : Strand) (r : Nat) : (st.wake r).frontier = st.frontier := by
  unfold Strand.wake; split <;> rfl

theorem Strand.wake_core (st : Strand) (r : Nat) : (st.wake r).core = st.core := by
  unfold Strand.wake; split <;> rfl

/-! ### A cause that parks its lanes (13 R345) -/

/-- The entry in which the lanes of a cause stand once they have parked. -/
def State.parkedEntry (s : State) (st : Strand) (e : Entry) (r : Raise) : Entry :=
  let rpc := if r.restartsNext then nextPc e.pc else e.pc
  { mask := r.mask, prio := s.nextPrio st e.prio rpc, pc := rpc, parked := true, order := st.nextOrder, cause := some r.cause }

section Park
variable {s : State} {k : Nat} {e : Entry} {r : Raise}

theorem State.parkNow_of_no_records (hr : r.records = []) : s.parkNow k e r =
    (s.setStrand k { (s.strand k).setFrontier ((s.strand k).frontier ++ [s.parkedEntry (s.strand k) e r]) with
      nextOrder := (s.strand k).nextOrder + 1 }).setCore (s.strand k).core
      ((s.core (s.strand k).core).enter (s.causeEvent (s.strand k) e r none)) := by
  unfold State.parkNow
  rw [hr]
  rfl

theorem State.parkNow_frontier (hr : r.records = []) : ((s.parkNow k e r).strand k).frontier =
    orderFrontier ((s.strand k).frontier ++ [s.parkedEntry (s.strand k) e r]) := by
  rw [State.parkNow_of_no_records hr, State.strand_setCore, State.strand_setStrand_self]
  rfl

theorem State.parkNow_core (hr : r.records = []) : (s.parkNow k e r).core (s.strand k).core =
    (s.core (s.strand k).core).enter (s.causeEvent (s.strand k) e r none) := by
  rw [State.parkNow_of_no_records hr, State.core_setCore_self]

theorem State.parkNow_memory (hr : r.records = []) : SameMemory s (s.parkNow k e r) := by
  rw [State.parkNow_of_no_records hr]
  exact (SameMemory.setStrand _ _ _).trans (SameMemory.setCore _ _ _ (Core.alike_queues ..))

theorem State.parkNow_engines (hr : r.records = []) : SameEngines s (s.parkNow k e r) := by
  rw [State.parkNow_of_no_records hr]
  exact (SameEngines.setStrand _ _ _).trans (SameEngines.setCore _ _ _ (Core.alike_queues ..))

theorem State.parkedEntry_mem_parkNow (hr : r.records = []) :
    s.parkedEntry (s.strand k) e r ∈ ((s.parkNow k e r).strand k).frontier := by
  rw [State.parkNow_frontier hr]
  exact (mem_orderFrontier_of_fixed rfl _).2 (List.mem_append_right _ (List.mem_singleton.2 rfl))

theorem State.noneHeld_parkNow (hr : r.records = []) {m : Mask} (h : NoneHeld m (s.strand k).frontier) :
    NoneHeld m ((s.parkNow k e r).strand k).frontier := by
  rw [State.parkNow_frontier hr]
  refine noneHeld_orderFrontier fun n hn hp => ?_
  rcases List.mem_append.1 hn with hn | hn
  · exact h n hn hp
  · rw [List.mem_singleton.1 hn] at hp
    cases hp

end Park

/-! ### What a core holds back, and its event queue (13 R351) -/

/-- A state in which a core holds a given list back. -/
def State.setHeld (s : State) (core : Nat) (t : List Held) : State := s.setCore core { s.core core with held := t }

/-- A state in which the lanes of a held cause have left the entry in which they waited, before they park. -/
def State.unheld (s : State) (core key : Nat) (r : Raise) (t : List Held) : State :=
  (s.setHeld core t).setStrand key (((s.strand key).unhold r.mask).wake 2)

section Held
variable {s : State} {core key : Nat} {e : Entry} {r : Raise} {t : List Held}

theorem State.setHeld_memory (s : State) (core : Nat) (t : List Held) : SameMemory s (s.setHeld core t) :=
  SameMemory.setCore _ _ _ (Core.alike_queues ..)

theorem State.setHeld_engines (s : State) (core : Nat) (t : List Held) : SameEngines s (s.setHeld core t) :=
  SameEngines.setCore _ _ _ (Core.alike_queues ..)

theorem State.core_unheld (s : State) (core key : Nat) (r : Raise) (t : List Held) :
    (s.unheld core key r t).core core = { s.core core with held := t } := State.core_setCore_self _ _ _

theorem State.strand_unheld (s : State) (core key : Nat) (r : Raise) (t : List Held) :
    (s.unheld core key r t).strand key = ((s.strand key).unhold r.mask).wake 2 := State.strand_setStrand_self _ _ _

theorem State.strandCore_unheld (s : State) (core key : Nat) (r : Raise) (t : List Held) :
    ((s.unheld core key r t).strand key).core = (s.strand key).core := by
  rw [State.strand_unheld, Strand.wake_core]
  rfl

theorem State.noneHeld_unheld (s : State) (core key : Nat) (r : Raise) (t : List Held) :
    NoneHeld r.mask ((s.unheld core key r t).strand key).frontier := by
  rw [State.strand_unheld, Strand.wake_frontier]
  exact Strand.noneHeld_unhold _ _

theorem exec_heldEventEntry_of_event {x : Event} (hheld : (s.core core).held = .event x :: t)
    (hroom : (s.core core).evq.length < 64) :
    exec (.heldEventEntry core) s = .next (s.setCore core { (s.core core).enter x with held := t }) := by
  show execHeldEventEntry core s = _
  simp only [execHeldEventEntry, hheld, if_pos hroom]

theorem exec_heldEventEntry_of_cause (hheld : (s.core core).held = .cause key e r :: t) (hroom : (s.core core).roomFor r = true) :
    exec (.heldEventEntry core) s = .next ((s.unheld core key r t).parkNow key e r) := by
  show execHeldEventEntry core s = _
  simp only [execHeldEventEntry, hheld, if_pos hroom]
  rfl

end Held

theorem Core.roomFor_of_no_records {k : Core} {r : Raise} (hr : r.records = []) (h : k.evq.length < 64) : k.roomFor r = true := by
  simp [Core.roomFor, hr, h]

theorem Core.hasEvent_of_room {k : Core} {c : Cause} (hroom : k.queueRoom = true)
    (h : k.evq.all (fun e => decide (e.cause ≠ c)) = true) : k.hasEvent c = false := by
  have hheld : k.held = [] := by simpa using (Bool.and_eq_true_iff.1 hroom).2
  simpa [Core.hasEvent, hheld] using h

theorem State.postEvent_of_room {s : State} {core : Nat} {e : Event} (hroom : (s.core core).queueRoom = true)
    (hnew : (e.cause.merges && (s.core core).hasEvent e.cause) = false) :
    s.postEvent core e = s.setCore core ((s.core core).enter e) := by
  simp only [State.postEvent, hnew, hroom, Bool.false_eq_true, if_false, if_true]

theorem State.postEvent_of_merge {s : State} {core : Nat} {e : Event}
    (h : (e.cause.merges && (s.core core).hasEvent e.cause) = true) : s.postEvent core e = s := by
  simp only [State.postEvent, h, if_true]

theorem exec_serviceCoreMessage (s : State) (core : Nat) :
    exec (.serviceCoreMessage core) s = .next (s.postEvent core { cause := .serviceMessage }) := rfl

theorem SameMemory.enter (s : State) (core : Nat) (e : Event) : SameMemory s (s.setCore core ((s.core core).enter e)) :=
  SameMemory.setCore _ _ _ (Core.alike_queues ..)

theorem SameEngines.enter (s : State) (core : Nat) (e : Event) : SameEngines s (s.setCore core ((s.core core).enter e)) :=
  SameEngines.setCore _ _ _ (Core.alike_queues ..)

/-! ### A source that fires, and a machine check (15 R421, R424; 13 R344) -/

/-- A state without its link engine and its outputs. -/
def State.linkless (s : State) : State := { s with link := {}, outputs := [] }

/-- A message toward the host changes the link engine and the outputs alone, and no claim. -/
theorem State.sendMsix_linkless (s : State) (fn vec : Nat) : (s.sendMsix fn vec).1.linkless = s.linkless := by
  unfold State.sendMsix State.postMsix
  dsimp only
  repeat' split
  all_goals rfl

theorem State.claim_sendMsix (s : State) (fn vec i : Nat) : (s.sendMsix fn vec).1.claim i = s.claim i := by
  unfold State.sendMsix State.postMsix
  dsimp only
  repeat' split
  all_goals rfl

theorem State.claim_setClaim_self (s : State) (i : Nat) (c : Claim) : (s.setClaim i c).claim i = c := by
  simp [State.claim, State.setClaim, Tab.get_put]

theorem State.fire_linkless (s : State) (i : Nat) : (s.fire i).linkless = s.linkless := by
  unfold State.fire
  dsimp only
  split
  · rfl
  · split
    · rfl
    · split
      · exact State.sendMsix_linkless _ _ _
      · rfl

/-- Whatever a source's claim makes of it, it is counted. -/
theorem State.fire_count (s : State) (i : Nat) : ((s.fire i).claim i).cnt = ((s.claim i).cnt + 1) % 2 ^ 32 := by
  unfold State.fire
  dsimp only
  split
  · rw [State.claim_setClaim_self]
  · split
    · exact congrArg Claim.cnt (State.claim_setClaim_self s i _)
    · split
      · rw [State.claim_sendMsix, State.claim_setClaim_self]
      · rw [State.claim_setClaim_self]

section Linkless
variable {s t : State} (h : t.linkless = s.linkless)
include h

theorem strand_of_linkless (k : Nat) : t.strand k = s.strand k := (congrArg (fun x => State.strand x k) h :)

theorem core_of_linkless (k : Nat) : t.core k = s.core k := (congrArg (fun x => State.core x k) h :)

theorem cohort_of_linkless (c : DWord) : t.cohort c = s.cohort c := (congrArg (fun x => State.cohort x c) h :)

theorem sameMemory_of_linkless : SameMemory s t :=
  ⟨(congrArg State.local_ h :), (congrArg State.host h :), (congrArg State.peer h :),
    fun c => congrArg Cohort.scratch (cohort_of_linkless h c), fun c => congrArg Core.tile (core_of_linkless h c)⟩

end Linkless

/-- The event of a machine check (Table 13-2). -/
def checkEvent (c : Cohort) (ccb : DWord) (sub : Nat) : Event := { cause := .machineCheck, sub := sub, pasid := c.pasid, cib := ccb }

/-- A state in which a cohort is stopped and the event of its machine check stands in the queue of its core. -/
def State.checked (s : State) (ccb : DWord) (sub : Nat) : State :=
  let c := s.cohort ccb
  (s.setCohort ccb { c with dead := true }).setCore c.core ((s.core c.core).enter (checkEvent c ccb sub))

theorem State.machineCheck_of_room {s : State} {ccb : DWord} {sub : Nat} (hroom : (s.core (s.cohort ccb).core).queueRoom = true) :
    s.machineCheck ccb sub = (s.checked ccb sub).fire 0x222 := by
  have hpost := State.postEvent_of_room (s := s.setCohort ccb { s.cohort ccb with dead := true })
    (e := checkEvent (s.cohort ccb) ccb sub) hroom rfl
  exact congrArg (State.fire · 0x222) hpost

section Checked
variable (s : State) (ccb : DWord) (sub : Nat)

theorem State.checked_dead : ((s.checked ccb sub).cohort ccb).dead = true := by
  unfold State.checked
  rw [State.cohort_setCore, State.cohort_setCohort_self]

theorem State.checked_evq : ((s.checked ccb sub).core (s.cohort ccb).core).evq =
    (s.core (s.cohort ccb).core).evq ++ [checkEvent (s.cohort ccb) ccb sub] :=
  congrArg Core.evq (State.core_setCore_self _ _ _)

theorem State.checked_memory : SameMemory s (s.checked ccb sub) := by
  refine (SameMemory.setCohort s ccb _ ?_).trans (SameMemory.enter _ (s.cohort ccb).core _)
  rfl

end Checked

theorem exec_machineCheck {s : State} {ccb sub : Nat} (hlisted : Tab.has s.cohorts ccb = true)
    (halive : (s.cohort (BitVec.ofNat 64 ccb)).dead = false)
    (hfault : (sub = 1 ∧ (s.imageFaults (s.cohort (BitVec.ofNat 64 ccb))).1 = true) ∨
      (sub = 3 ∧ (s.imageFaults (s.cohort (BitVec.ofNat 64 ccb))).2 = true)) :
    exec (.machineCheck ccb sub) s = .next (s.machineCheck (BitVec.ofNat 64 ccb) sub) := by
  show execMachineCheck ccb sub s = _
  refine if_pos ?_
  simpa [hlisted, halive] using hfault

end Sys2Proof.Machine

namespace Sys2Proof.Proofs
open Sys2Proof.Machine Sys2Proof.Claims

/-- The strand's part by `Strand.writeBack`; the pushed entry and the miss-status entries touch no strand. -/
theorem schedulerEvents : Claims.SchedulerEvents := by
  refine ⟨?writeback, ?aged, ?refill⟩
  case writeback =>
    intro s key place p hp
    let st : Strand := { s.strand key with producers := (s.strand key).producers.eraseIdx place }
    have hstrand : ((s.release key p (st.writeBack p)).pushOf key p.push).strand key = st.writeBack p := by
      rw [State.strand_pushOf, State.strand_release_self]
    have hccb : ((s.release key p (st.writeBack p)).strand key).ccb = (s.strand key).ccb := by
      rw [State.strand_release_self, Strand.writeBack_ccb]
    refine ⟨_, exec_producerWriteback hp, ?_⟩
    rw [hstrand]
    refine ⟨Strand.writeBack_producers _ _, fun hd x hx hn => ⟨Strand.writeBack_vFull _ _ hx hn, fun l hl =>
        Strand.writeBack_lane _ _ hd hx hl⟩,
      fun hd x hx hm => ⟨Strand.scalar_writeScalars_of_mem _ _ hd x hx, Strand.writeBack_sFull _ _ hx hm⟩, fun x hx => ?_,
      { Strand.writeBack_registers st p with }, fun k hk => ?_, (State.release_memory ..).trans (State.pushOf_memory ..),
      (State.release_engines ..).trans (State.pushOf_engines ..)⟩
    · rw [← hccb]
      exact State.mailbox_pushOf _ _ _ hx
    · rw [State.strand_pushOf, State.strand_release_ne _ _ _ _ hk]
  case aged =>
    intro s key hready hentry
    exact ⟨_, if_pos ⟨hready, hentry⟩, by rw [State.strand_setStrand_self], OnlyStrand.setStrand _ _ _⟩
  case refill =>
    intro s key hslot hspilled
    refine ⟨_, if_pos ⟨hslot, hspilled⟩, ?_, ?_, OnlyStrand.setStrand _ _ _⟩ <;> rw [State.strand_setStrand_self]

/-- An event by the equation of `exec`; a cause by what `State.parkNow` does to the strand that it no longer holds; notices by
`State.postEvent` and `State.fire`. -/
theorem eventQueue : Claims.EventQueue := by
  refine ⟨?event, ?cause, ?service, ?machineCheck⟩
  case event =>
    intro s core e t hheld hroom
    exact ⟨_, exec_heldEventEntry_of_event hheld hroom, by rw [State.core_setCore_self]; rfl, by rw [State.core_setCore_self],
      SameMemory.setCore _ _ _ (Core.alike_queues ..), SameEngines.setCore _ _ _ (Core.alike_queues ..),
      fun _ => rfl⟩
  case cause =>
    intro s core key e r t hheld hcore hr hroom
    let u := s.unheld core key r t
    have hcoreOf : (u.strand key).core = core := (s.strandCore_unheld core key r t).trans hcore
    have hafter : (u.parkNow key e r).core core =
        ({ s.core core with held := t } : Core).enter (u.causeEvent (u.strand key) e r none) := by
      have hparked := State.parkNow_core (s := u) (k := key) (e := e) hr
      rwa [hcoreOf, State.core_unheld] at hparked
    refine ⟨_, u.causeEvent (u.strand key) e r none,
      exec_heldEventEntry_of_cause hheld (Core.roomFor_of_no_records hr hroom), congrArg Core.held hafter,
      ⟨_, State.parkedEntry_mem_parkNow hr, rfl, rfl, rfl, rfl⟩,
      all_of_noneHeld (State.noneHeld_parkNow hr (State.noneHeld_unheld s core key r t)), congrArg Core.evq hafter,
      rfl, rfl, rfl, rfl, rfl, rfl, ?_, ?_⟩
    · exact ((s.setHeld_memory core t).trans (SameMemory.setStrand _ _ _)).trans (State.parkNow_memory hr)
    · exact ((s.setHeld_engines core t).trans (SameEngines.setStrand _ _ _)).trans (State.parkNow_engines hr)
  case service =>
    refine fun s core => ⟨fun hnew hroom => ?_, fun hstands => ?_⟩
    · have hmerge : (Cause.serviceMessage.merges && (s.core core).hasEvent .serviceMessage) = false := by
        rw [Core.hasEvent_of_room hroom hnew, Bool.and_false]
      rw [exec_serviceCoreMessage, State.postEvent_of_room hroom hmerge]
      exact ⟨_, rfl, by rw [State.core_setCore_self]; rfl, SameMemory.enter _ _ _, SameEngines.enter _ _ _, fun _ => rfl⟩
    · have hmerge : (Cause.serviceMessage.merges && (s.core core).hasEvent .serviceMessage) = true :=
        Bool.or_eq_true_iff.2 (.inl hstands)
      rw [exec_serviceCoreMessage, State.postEvent_of_merge hmerge]
  case machineCheck =>
    intro s ccb sub _ hlisted c halive hfault hroom
    have hfired := (s.checked (BitVec.ofNat 64 ccb) sub).fire_linkless 0x222
    refine ⟨_, (exec_machineCheck hlisted halive hfault).trans (congrArg _ (State.machineCheck_of_room hroom)), ?_, ?_,
      State.fire_count _ _, (State.checked_memory ..).trans (sameMemory_of_linkless hfired), fun k => strand_of_linkless hfired k⟩
    · rw [cohort_of_linkless hfired, State.checked_dead]
    · rw [core_of_linkless hfired]
      exact State.checked_evq _ _ _

/-- Settles O19: the scheduler's events and those of the event queues, each from the equation of its instruction. -/
theorem engineEvents : Obligations.EngineEvents := ⟨schedulerEvents, eventQueue⟩

end Sys2Proof.Proofs
end

section
/-! Settles 05 R116, R123 and 07 R196. The checks of an address have one equation for each way they end, in their order; what an
access meets at a leaf of the core's cache has one for a refusal and one for a place. -/

namespace Sys2Proof.Machine

open Sys2Proof.Claims

/-! ### The parts of the virtual address space (05 R116) -/

theorem canonical_eq_true_iff (va : DWord) : canonical va = true ↔ va.toNat < 2 ^ 56 := by
  rw [canonical, beq_iff_eq, Nat.div_eq_zero_iff]
  omega

theorem canonical_eq_false_iff (va : DWord) : canonical va = false ↔ 2 ^ 56 ≤ va.toNat := by
  rw [← Bool.not_eq_true, canonical_eq_true_iff, not_lt]

theorem inAperture_eq_true_iff (va : DWord) :
    inAperture va = true ↔ 0xFFFF0000000000 ≤ va.toNat ∧ va.toNat < 2 ^ 56 := by
  rw [inAperture, beq_iff_eq]
  omega

theorem canonical_of_inAperture {va : DWord} (h : inAperture va = true) : canonical va = true :=
  (canonical_eq_true_iff va).2 ((inAperture_eq_true_iff va).1 h).2

theorem canonical_of_below_aperture {va : DWord} (h : va.toNat < 0xFFFF0000000000) : canonical va = true :=
  (canonical_eq_true_iff va).2 (by omega)

theorem inAperture_eq_false_of_below {va : DWord} (h : va.toNat < 0xFFFF0000000000) : inAperture va = false :=
  Bool.eq_false_iff.2 fun hin => absurd ((inAperture_eq_true_iff va).1 hin).1 h.not_ge

/-! ### An access at a leaf of the core's cache (12 R329, R331, R333) -/

section Cached
variable {s : State} {core pasid root va : Nat} {user : Bool} {k : Access} {e : TlbEntry}

theorem accessCause_of_leafCause {x : Nat} {c : Cause} (h : leafCause x user k = some c) : accessCause x user k = some c := by
  rw [accessCause, h]

theorem accessCause_eq_none {x : Nat} (h : leafCause x user k = none) (hk : k ≠ .fetch) : accessCause x user k = none := by
  rw [accessCause, h]
  exact if_neg fun hf => hk hf.1

theorem State.cachedEntry_of_core (h : (s.core core).tlb.find? (fun t => t.covers pasid va) = some e) :
    s.cachedEntry (some core) pasid va = some e := by
  rw [State.cachedEntry, Option.bind_some, h]

/-- A hit in the core's own cache changes no cache. -/
theorem State.keepEntry_of_mem (h : e ∈ (s.core core).tlb) : s.keepEntry (some core) e = s :=
  if_pos (List.contains_iff_mem.2 h)

/-- ATS stands before the pages of the host alone (15 R412). -/
theorem State.atsPlace_of_not_host {p : Phys} (h : p.loc ≠ .host) : s.atsPlace pasid va p = (s, p) :=
  if_neg fun hp => h hp.1

section Hit
variable (hroot : s.rootOf pasid = some root) (he : (s.core core).tlb.find? (fun t => t.covers pasid va) = some e)
include hroot he

theorem State.translate_of_refused {c : Cause} (hc : accessCause (e.leafFor va) user k = some c) :
    s.translate core pasid user k va = (s, .fail c { level := 0, big := decide (e.level = 2) }) := by
  simp only [State.translate, State.translateFor, State.translateLeaf, hroot, State.cachedEntry_of_core he, hc]

theorem State.translate_of_cached (hc : accessCause (e.leafFor va) user k = none)
    (hd : k.writes = true → entD (e.leafFor va) = true) (hloc : (leafPhys (e.leafFor va) e.level va).loc ≠ .host) :
    s.translate core pasid user k va =
      (s, .ok (leafPhys (e.leafFor va) e.level va) { level := 0, big := decide (e.level = 2) }) := by
  have hserved : ¬ (k.writes && !entD (e.leafFor va)) = true := by simpa using hd
  have hkeep : s.keepEntry (some core) e = s := State.keepEntry_of_mem (List.mem_of_find?_eq_some he)
  simp only [State.translate, State.translateFor, State.translateLeaf, hroot, State.cachedEntry_of_core he, hc,
    if_neg hserved, hkeep, State.atsPlace_of_not_host hloc]

end Hit

end Cached

/-! ### The cohort's scratch window (05 R123) -/

section Window
variable {s : State} {ccb va : DWord} {n : Nat} (hwindow : va.toNat < 0xFFFF8000000000)
include hwindow

theorem State.scratchPlace_of_fits (hfits : va.toNat - 0xFFFF0000000000 + n ≤ (s.cohort ccb).variant.scratch) :
    s.scratchPlace ccb va n = some (ccb, va.toNat - 0xFFFF0000000000) :=
  (if_pos hwindow).trans (if_pos hfits)

theorem State.scratchPlace_of_exceeds (hexceeds : (s.cohort ccb).variant.scratch < va.toNat - 0xFFFF0000000000 + n) :
    s.scratchPlace ccb va n = none :=
  (if_pos hwindow).trans (if_neg hexceeds.not_ge)

end Window

/-! ### The checks in their order (07 R196) -/

theorem State.imagePlace_of_none {s : State} {p : Phys} (h : s.structAt p = none) (st : Strand) (k : Access) (f : Form) :
    s.imagePlace st k f p = some (.phys p) := by
  rw [State.imagePlace, h]

section Checks
variable {s : State} {st : Strand} {k : Access} {f : Form} {align n i : Nat} {va : DWord}

theorem State.checkLane_of_misaligned (h : va.toNat % align ≠ 0) :
    s.checkLane st k f align n i va = (s, .error { lane := i, cause := .misaligned, va := va }) :=
  if_pos h

variable (haligned : va.toNat % align = 0)
include haligned

theorem State.checkLane_of_nonCanonical (h : 2 ^ 56 ≤ va.toNat) :
    s.checkLane st k f align n i va = (s, .error { lane := i, cause := .nonCanonical, va := va }) := by
  simp [State.checkLane, haligned, (canonical_eq_false_iff va).2 h]

section Aperture
variable (haperture : inAperture va = true)
include haperture

theorem State.checkLane_of_scratchPlace {ccb : DWord} {o : Nat} (hplace : s.scratchPlace st.ccb va n = some (ccb, o))
    (hform : f ≠ .wait) (hsup : st.sup = false) : s.checkLane st k f align n i va = (s, .ok (.scratch ccb o)) := by
  simp [State.checkLane, haligned, canonical_of_inAperture haperture, haperture, hplace, hsup]

theorem State.checkLane_of_no_scratchPlace (hplace : s.scratchPlace st.ccb va n = none) :
    s.checkLane st k f align n i va = (s, .error { lane := i, cause := .scratchBound, va := va }) := by
  cases f <;> simp [State.checkLane, haligned, canonical_of_inAperture haperture, haperture, hplace]

end Aperture

section Translated
variable {w : Walked} (hbelow : va.toNat < 0xFFFF0000000000)
include hbelow

theorem State.checkLane_of_fail {c : Cause}
    (hx : s.translate st.core (s.pasidOf st) (!st.sup) k va.toNat = (s, .fail c w)) :
    s.checkLane st k f align n i va = (s, .error { lane := i, cause := c, va := va, walk := some w }) := by
  simp [State.checkLane, haligned, canonical_of_below_aperture hbelow, inAperture_eq_false_of_below hbelow, hx]

theorem State.checkLane_of_ok {p : Phys} (hx : s.translate st.core (s.pasidOf st) (!st.sup) k va.toNat = (s, .ok p w))
    (hform : f.refuses p = false) (hstruct : s.structAt p = none) :
    s.checkLane st k f align n i va = (s, .ok (.phys p)) := by
  simp [State.checkLane, haligned, canonical_of_below_aperture hbelow, inAperture_eq_false_of_below hbelow, hx, hform,
    State.imagePlace_of_none hstruct]

end Translated

end Checks

end Sys2Proof.Machine

namespace Sys2Proof.Proofs

open Sys2Proof.Machine Sys2Proof.Claims

/-- Settles O20: each check by the equation of `State.checkLane` where it is the first that applies. -/
theorem accessChecks : Obligations.AccessChecks := by
  intro s k f align n i va r
  refine ⟨fun h => ?misaligned, fun ha h => ?nonCanonical, fun ha hlow hhigh hform hsup => ?scratch,
    fun ha hbelow root e hroot he => ?leaf⟩
  case misaligned => exact congrArg Prod.snd (State.checkLane_of_misaligned h)
  case nonCanonical => exact congrArg Prod.snd (State.checkLane_of_nonCanonical ha h)
  case scratch =>
    have haperture : inAperture va = true := (inAperture_eq_true_iff va).2 ⟨hlow, by omega⟩
    refine ⟨fun hfits => ?_, fun hexceeds => ?_⟩
    · exact State.checkLane_of_scratchPlace ha haperture (State.scratchPlace_of_fits hhigh hfits) hform hsup
    · exact congrArg Prod.snd
        (State.checkLane_of_no_scratchPlace ha haperture (State.scratchPlace_of_exceeds hhigh hexceeds))
  case leaf =>
    refine ⟨fun c hc => ?refused, fun hc hk hd hloc hallowed hstruct => ?reached⟩
    case refused =>
      have hx := State.translate_of_refused hroot he (accessCause_of_leafCause hc)
      exact congrArg Prod.snd (State.checkLane_of_fail ha hbelow hx)
    case reached =>
      have hx := State.translate_of_cached hroot he (accessCause_eq_none hc hk) hd (hloc.trans_ne (by decide))
      exact State.checkLane_of_ok ha hbelow hx hallowed hstruct

end Sys2Proof.Proofs
end

section
/-! What every instruction of the sequencer rests on (06 R155 to R161, 03 R49): the end of an issue depends on the frontier, on the
causes beside the instruction, on the place of the strand and on its cohort's priority map and barrier. What an instruction does
before that end keeps them (`SameCourse`), so where its lanes go and what it leaves alone are shown once, here. -/

namespace Sys2Proof.Machine

open Sys2Proof.Claims

/-! ### What the end of an issue depends on -/

/-- Two states whose issuing entries end an issue alike: the same frontier, the same causes beside it, the same strand and cohort. -/
structure SameCourse (s t : State) : Prop where
  frontier : t.cur.frontier = s.cur.frontier
  also : t.cur.also = s.cur.also
  sup : t.cur.sup = s.cur.sup
  ccb : t.cur.ccb = s.cur.ccb
  pmap : t.curCohort.pmap = s.curCohort.pmap
  barrier : t.curCohort.barrier = s.curCohort.barrier

theorem SameCourse.refl (s : State) : SameCourse s s := ⟨rfl, rfl, rfl, rfl, rfl, rfl⟩

theorem SameCourse.trans {s t u : State} (h : SameCourse s t) (g : SameCourse t u) : SameCourse s u :=
  ⟨g.frontier.trans h.frontier, g.also.trans h.also, g.sup.trans h.sup, g.ccb.trans h.ccb, g.pmap.trans h.pmap,
    g.barrier.trans h.barrier⟩

/-- A new value of the issuing strand. -/
theorem SameCourse.setCur {s : State} {x : Strand} (frontier : x.frontier = s.cur.frontier) (also : x.also = s.cur.also)
    (sup : x.sup = s.cur.sup) (ccb : x.ccb = s.cur.ccb) : SameCourse s (s.setCur x) := by
  have hcohort : (s.setCur x).curCohort = s.curCohort := by
    rw [State.curCohort, State.cur_setCur, ccb, State.cohort_setCur, State.curCohort]
  refine ⟨?_, ?_, ?_, ?_, congrArg Cohort.pmap hcohort, congrArg Cohort.barrier hcohort⟩
  all_goals rwa [State.cur_setCur]

/-- A new value of a cohort. -/
theorem SameCourse.setCohort {s : State} {k : DWord} {x : Cohort} (pmap : x.pmap = (s.cohort k).pmap)
    (barrier : x.barrier = (s.cohort k).barrier) : SameCourse s (s.setCohort k x) := by
  have hkept {α : Type} (f : Cohort → α) (hf : f x = f (s.cohort k)) : f (s.setCohort k x).curCohort = f s.curCohort := by
    rw [State.curCohort, State.cur_setCohort, State.cohort_setCohort]
    split
    · next hk => rw [hf, ← hk]; rfl
    · rfl
  exact ⟨rfl, rfl, rfl, rfl, hkept Cohort.pmap pmap, hkept Cohort.barrier barrier⟩

theorem Popped.course {s t : State} (h : Popped s t) : SameCourse s t := by
  have hcohort : t.curCohort.queueless = s.curCohort.queueless := by
    rw [State.curCohort, h.ccb]
    exact h.cohorts s.cur.ccb
  exact ⟨h.frontier, (congrArg Strand.also h.cur :), (congrArg Strand.sup h.cur :), h.ccb,
    (congrArg Cohort.pmap hcohort :), (congrArg Cohort.barrier hcohort :)⟩

theorem SameCourse.popSources (s : State) (us : List Use) : SameCourse s (s.popSources us) := (popped_popSources s us).course

theorem SameCourse.pushQueue (s : State) (k : Nat) (x : Line) : SameCourse s (s.pushQueue k x) := SameCourse.setCohort rfl rfl

/-- What a scalar write leaves of its strand beside the frontier. -/
theorem SameCourse.putScalar (s : State) (late : Bool) (m : Nat) (v : DWord) :
    SameCourse s (s.onCur fun st => st.putScalar late m v) := by
  refine SameCourse.setCur ?_ ?_ ?_ ?_
  all_goals cases late <;> simp [Strand.putScalar]

theorem SameCourse.writeS (s : State) (d : Code) (late : Bool) (v : DWord) : SameCourse s (s.writeS d late v) := by
  unfold State.writeS
  split
  · exact SameCourse.putScalar ..
  · exact (SameCourse.setCur (by simp) (by simp) (by simp) (by simp)).trans (SameCourse.pushQueue ..)

theorem SameCourse.candidate {s t : State} (h : SameCourse s t) : candidate t.cur = candidate s.cur := candidate_congr h.frontier

theorem SameCourse.hasLanes {s t : State} (h : SameCourse s t) (hl : HasLanes s) : HasLanes t := hl.of h.frontier h.also

theorem SameCourse.nextPrio {s t : State} (h : SameCourse s t) (p : BitVec 16) (pc : Pc) :
    t.nextPrio t.cur p pc = s.nextPrio s.cur p pc := by
  have hpmap : (t.cohort t.cur.ccb).pmap = (s.cohort s.cur.ccb).pmap := h.pmap
  rw [State.nextPrio, State.prioOf, h.sup, hpmap]
  rfl

theorem SameCourse.moved {s t : State} (h : SameCourse s t) (outs : List (Pc × Mask)) : t.moved outs = s.moved outs := by
  simp only [State.moved, h.frontier, h.candidate, h.nextPrio]

theorem SameCourse.goes {s t u : State} {outs : List (Pc × Mask)} (h : SameCourse s t) (hg : Goes t u outs) : Goes s u outs := by
  intro hfree
  rw [← h.moved]
  exact hg (by rwa [h.sup, h.barrier])

/-! ### The end of an issue -/

/-- Some lane of the outcomes goes on. -/
def SomeGoes (outs : List (Pc × Mask)) : Prop := outs.any (fun o => decide (o.2 ≠ 0)) = true

section Settle
variable {s t : State} {outs : List (Pc × Mask)} (h : SameCourse s t) (hl : HasLanes s) (hgo : SomeGoes outs)
include h hl hgo

theorem SameCourse.goes_settle : Goes s (t.settle outs []) outs := h.goes (Machine.goes_settle t outs hgo (h.hasLanes hl).2)

theorem SameCourse.quiet_settle : Quiet t (t.settle outs []) := Machine.quiet_settle t outs hgo (h.hasLanes hl).2

end Settle

section Advance
variable {s t : State} (h : SameCourse s t) (hl : HasLanes s)
include h hl

theorem SameCourse.quiet_advance : Quiet t t.advance := Machine.quiet_advance t (h.hasLanes hl)

theorem SameCourse.goes_advance : Goes s t.advance [(place s + 4, lanes s)] := by
  have hgoes := h.goes (Machine.goes_advance t (h.hasLanes hl))
  rwa [h.candidate] at hgoes

end Advance

theorem someGoes_lanes {s : State} (hl : HasLanes s) (pc : Pc) : SomeGoes [(pc, lanes s)] := by simpa [SomeGoes, lanes] using hl.1

/-! ### Writes of the issuing strand -/

/-- A scalar write changes the scalar and STAT.SDW (06 R178). -/
theorem Keeps.putScalar (s : State) (m : Nat) (v : DWord) :
    Keeps s (s.onCur fun st => st.putScalar false m v) (fun _ => False) (fun i => i = m) s.cur.markScalarWrite.stat := by
  refine Keeps.setCur ?_ (putScalar_drains ..)
  refine ⟨fun _ _ => by simp [Strand.putScalar], fun i hi => ?_, rfl, ?_, ?_, ?_, ?_, ?_, ?_, ?_, ?_⟩
  · have hne : ¬ i = m := hi
    simp [Strand.putScalar, Strand.scalar_setScalar, hne]
  all_goals simp [Strand.putScalar]

theorem State.scalar_putScalar (s : State) (m : Nat) (v : DWord) :
    (s.onCur fun st => st.putScalar false m v).cur.scalar m = v := by
  simp [State.onCur, Strand.putScalar, Strand.scalar_setScalar]

theorem Quiet.scalar {s t : State} (h : Quiet s t) (m : Nat) : t.cur.scalar m = s.cur.scalar m :=
  (congrArg (fun st => Strand.scalar st m) h.cur :)

/-- A ready scalar instruction gives D its value, and its lanes go on to the next word. -/
theorem scalarResult_goes {s : State} (us : List Use) (d : Code) (v : DWord) (hl : HasLanes s) :
    ScalarResult s ((s.popSources us).writeS d (popsInto us) v).advance us d v s.cur.markScalarWrite.stat ∧
      Goes s ((s.popSources us).writeS d (popsInto us) v).advance [(place s + 4, lanes s)] :=
  ⟨scalarResult_writeS s us d v hl, ((SameCourse.popSources s us).trans (SameCourse.writeS ..)).goes_advance hl⟩

/-! ### Instructions that nothing holds back, and reserved values -/

/-- An instruction without fields is ready. -/
theorem ready_nil (s : State) : Ready s [] := by
  have hfloats : s.cur.floatBusy [] false = false := by simp [Strand.floatBusy]
  exact ⟨rfl, rfl, rfl, rfl, rfl, rfl, rfl, hfloats, rfl, rfl, rfl⟩

section Lines
variable {st : Strand} {ls ls' : List Nat} (hsub : ls' ⊆ ls)
include hsub

theorem Strand.floatBusy_of_subset {push push' : Bool} (hpush : push' = true → push = true) (h : st.floatBusy ls push = false) :
    st.floatBusy ls' push' = false := by
  simp only [Strand.floatBusy, List.any_eq_false, Bool.or_eq_true, Bool.and_eq_true, List.any_eq_true, List.contains_iff_mem,
    not_or] at h ⊢
  intro f hf
  obtain ⟨hlines, hpushed⟩ := h f hf
  exact ⟨fun ⟨x, hx, hn⟩ => hlines ⟨x, hx, hsub hn⟩, fun ⟨hp, hq⟩ => hpushed ⟨hpush hp, hq⟩⟩

theorem Strand.lateIn_of_subset {now : Nat} (h : st.lateIn now ls = false) : st.lateIn now ls' = false := by
  rw [Strand.lateIn, List.any_eq_false] at h ⊢
  exact fun n hn => h n (hsub hn)

end Lines

section Extra
variable {s : State} {us : List Use} {extra : List Nat} (h : Ready s us extra)
include h

/-- The fields alone are ready where lines are waited for beside them. -/
theorem Ready.fields : Ready s us := by
  have hsub : usedLines us s.cur.wb ++ [] ⊆ usedLines us s.cur.wb ++ extra := by simp
  exact { h with
    full := List.all_eq_true.2 fun n hn => List.all_eq_true.1 h.full n (hsub hn)
    floats := Strand.floatBusy_of_subset hsub id h.floats
    late := Strand.lateIn_of_subset hsub h.late }

/-- The lines that are waited for beside the fields hold nothing back by themselves. -/
theorem Ready.lines : Ready s [] extra := by
  have hsub : usedLines [] s.cur.wb ++ extra ⊆ usedLines us s.cur.wb ++ extra := List.subset_append_right ..
  exact { ready_nil s with
    full := List.all_eq_true.2 fun n hn => List.all_eq_true.1 h.full n (hsub hn)
    floats := Strand.floatBusy_of_subset hsub nofun h.floats
    late := Strand.lateIn_of_subset hsub h.late }

end Extra

/-- A ready instruction without a check of STAT.PRIV ends as its effect does. -/
theorem Ready.run {s t : State} {us : List Use} {extra : List Nat} {k : State → State} (h : Ready s us extra) (hk : k s = t) :
    run s us extra false false k = .next t := (run_of_ready (priv := false) h nofun k).trans (congrArg _ hk)

theorem Ready.runPointWith {flags : Bool} {s t : State} {us : List Use} {extra : List Nat} {k : State → State}
    (h : Ready s us extra) (hc : Unchecked s) (hk : k s = t) : runPointWith flags s us extra false false k = .next t :=
  (runPointWith_of_ready (priv := false) h hc nofun flags k).trans (congrArg _ hk)

theorem Ready.runPoint {s t : State} {us : List Use} {extra : List Nat} {k : State → State} (h : Ready s us extra)
    (hc : Unchecked s) (hk : k s = t) : runPoint s us extra false false k = .next t := h.runPointWith hc hk

theorem Ready.runCompare {s t : State} {us : List Use} {extra : List Nat} {k : State → State} (h : Ready s us extra)
    (hc : Unchecked s) (hk : k s = t) : runCompare s us extra false false k = .next t := h.runPointWith hc hk

theorem run_of_bad (s : State) (us : List Use) (extra : List Nat) (priv : Bool) (k : State → State) :
    run s us extra true priv k = .next (s.raiseAll .illegalOpcode) := rfl

theorem runPointWith_of_bad (flags : Bool) (s : State) (us : List Use) (extra : List Nat) (priv : Bool) (k : State → State) :
    runPointWith flags s us extra true priv k = .next (s.raiseAll .illegalOpcode) := rfl

end Sys2Proof.Machine
end

section
/-! Settles 06 R183 to R187 and R192. Each shape of a scalar instruction has one equation for what it does when it is ready; a table's
row is its shape with the row's formula. -/

namespace Sys2Proof.Machine

open Sys2Proof.Claims

/-! ### The shapes of the scalar unit -/

section Shapes
variable {s : State} (hl : HasLanes s) {e g : Bool} {d a b : Code}
include hl

/-- The V-format shape gives D its value of A and B, and the lanes go on (R184). -/
theorem scaBin_of_ready (f : DWord → DWord → DWord) (h : Ready s (usesS e g d a b)) : ∃ t, scaBin f e g d a b s = .next t ∧
    ScalarResult s t (usesS e g d a b) d (f (s.ssrc a) (s.ssrc b)) s.cur.markScalarWrite.stat ∧
    Goes s t [(place s + 4, lanes s)] :=
  ⟨_, h.run rfl, scalarResult_goes (usesS e g d a b) d _ hl⟩

theorem scaDiv_of_nonzero (f : DWord → DWord → DWord) (h : Ready s (usesS e g d a b)) (hb : s.ssrc b ≠ 0) :
    ∃ t, scaDiv f e g d a b s = .next t ∧
      ScalarResult s t (usesS e g d a b) d (f (s.ssrc a) (s.ssrc b)) s.cur.markScalarWrite.stat :=
  ⟨_, h.run (if_neg hb), scalarResult_writeS s (usesS e g d a b) d _ hl⟩

theorem scaMod_of_allowed (f : DWord → DWord → DWord → DWord) (bad : DWord → Bool) (h : Ready s (usesSM e g d a b))
    (hb : bad (s.ssrc b) = false) : ∃ t, scaMod f bad e g d a b s = .next t ∧
      ScalarResult s t (usesSM e g d a b) d (f (s.ssrc a) (s.ssrc b) (s.ssrc d)) s.cur.markScalarWrite.stat :=
  ⟨_, h.run (if_neg (Bool.eq_false_iff.1 hb)), scalarResult_writeS s (usesSM e g d a b) d _ hl⟩

theorem scaUn_of_ready (f : DWord → DWord) (h : Ready s (usesSU e d a)) : ∃ t, scaUn f e d a s = .next t ∧
    ScalarResult s t (usesSU e d a) d (f (s.ssrc a)) s.cur.markScalarWrite.stat :=
  ⟨_, h.run rfl, scalarResult_writeS s (usesSU e d a) d _ hl⟩

theorem scaImm_of_ready (f : DWord → DWord → DWord) (imm : DWord) (h : Ready s (usesSU false d a)) :
    ∃ t, scaImm f false imm d a s = .next t ∧
      ScalarResult s t (usesSU false d a) d (f (s.ssrc a) imm) s.cur.markScalarWrite.stat :=
  ⟨_, h.run rfl, scalarResult_writeS s (usesSU false d a) d _ hl⟩

theorem scaLong_of_ready (f : DWord → DWord → DWord) (i : BitVec 16) (h : Ready s [⟨.sreg, d, false⟩]) :
    ∃ t, scaLong f d i s = .next t ∧
      ScalarResult s t [⟨.sreg, d, false⟩] d (f (s.cur.scalar d.toNat) (i.zeroExtend 64)) s.cur.markScalarWrite.stat :=
  ⟨_, h.run rfl, scalarResult_writeS s [⟨.sreg, d, false⟩] d _ hl⟩

theorem vecLong_of_ready (f : Word → Word → Word) (i : BitVec 16) (h : Ready s [⟨.vreg, d, false⟩]) :
    ∃ t, vecLong f d i s = .next t ∧
      VectorResult s t [⟨.vreg, d, false⟩] d fun l => f (laneOf (s.vsrc d) l) (i.zeroExtend 32) :=
  ⟨_, h.run rfl, vectorResult_writeV s [⟨.vreg, d, false⟩] d _ hl⟩

theorem execSbfe_of_allowed (h : Ready s (usesS e g d a b)) (hb : fieldReserved (s.ssrc b) = false) :
    ∃ t, execSbfe e g d a b s = .next t ∧
      ScalarResult s t (usesS e g d a b) d (valSbfe (s.ssrc a) (s.ssrc b)) s.cur.markScalarWrite.stat :=
  ⟨_, h.run (if_neg (Bool.eq_false_iff.1 hb)), scalarResult_writeS s (usesS e g d a b) d _ hl⟩

end Shapes

section Traps
variable {s : State} {e g : Bool} {d a b : Code}

/-- A zero divisor raises 0x06, with TADDR 0, and does nothing else (R185). -/
theorem scaDiv_of_zero (f : DWord → DWord → DWord) (h : Ready s (usesS e g d a b)) (hb : s.ssrc b = 0) :
    scaDiv f e g d a b s = .next (s.raiseAllAt .divideByZero 0) :=
  h.run (if_pos hb)

theorem scaMod_of_reserved (f : DWord → DWord → DWord → DWord) (bad : DWord → Bool) (h : Ready s (usesSM e g d a b))
    (hb : bad (s.ssrc b) = true) : scaMod f bad e g d a b s = .next (s.raiseAll .illegalOpcode) :=
  h.run (if_pos hb)

theorem execSbfe_of_reserved (h : Ready s (usesS e g d a b)) (hb : fieldReserved (s.ssrc b) = true) :
    execSbfe e g d a b s = .next (s.raiseAll .illegalOpcode) :=
  h.run (if_pos hb)

theorem scaImm_of_bad (f : DWord → DWord → DWord) (imm : DWord) :
    scaImm f true imm d a s = .next (s.raiseAll .illegalOpcode) := run_of_bad ..

end Traps

/-! ### The rows of the tables -/

section Rows
variable (e g : Bool) (d a b : Code) (s : State)

theorem exec_of_mem_scalarTable {p} (hp : p ∈ scalarTable) : exec (p.1 e g d a b) s = scaBin p.2 e g d a b s := by
  unfold scalarTable at hp
  fin_cases hp
  all_goals rfl

theorem exec_of_mem_divideTable {p} (hp : p ∈ divideTable) : exec (p.1 e g d a b) s = scaDiv p.2 e g d a b s := by
  unfold divideTable at hp
  fin_cases hp
  all_goals rfl

theorem exec_of_mem_scalarUnaryTable {p} (hp : p ∈ scalarUnaryTable) : exec (p.1 e d a) s = scaUn p.2 e d a s := by
  unfold scalarUnaryTable at hp
  fin_cases hp
  all_goals rfl

/-- An immediate form computes a function of A and of its sign-extended immediate (R187). -/
theorem exec_of_mem_scalarImmediateTable {p} (hp : p ∈ scalarImmediateTable) (i : BitVec 9) :
    ∃ f, exec (p.1 d a i) s = scaImm f false (i.signExtend 64) d a s ∧ ∀ x, f x (i.signExtend 64) = p.2 x i := by
  unfold scalarImmediateTable at hp
  fin_cases hp
  all_goals exact ⟨_, rfl, fun _ => rfl⟩

/-- An immediate shift is the shift by B with the immediate in its place (R187). -/
theorem exec_of_mem_scalarShiftTable {p} (hp : p ∈ scalarShiftTable) (i : BitVec 9) :
    ∃ f : DWord → DWord → DWord, exec (p.1 d a i) s = scaImm f (shiftTooLong i 64) (i.zeroExtend 64) d a s ∧
      ∀ x n, f x n = p.2 x (n.toNat % 64) := by
  unfold scalarShiftTable at hp
  fin_cases hp
  all_goals exact ⟨_, rfl, fun _ _ => rfl⟩

theorem exec_of_mem_longTable {p} (hp : p ∈ longTable) (i : BitVec 16) :
    ∃ f : DWord → DWord → DWord, exec (p.1 d i) s = scaLong f d i s ∧ ∀ x, f x (i.zeroExtend 64) = p.2 x i := by
  unfold longTable at hp
  fin_cases hp
  exacts [⟨fun _ i => i, rfl, fun _ => rfl⟩, ⟨replace16 16, rfl, fun _ => rfl⟩, ⟨replace16 32, rfl, fun _ => rfl⟩,
    ⟨replace16 48, rfl, fun _ => rfl⟩]

end Rows

/-- A count below 64 is itself, of the 6 bits that a shift looks at. -/
theorem toNat_zeroExtend_mod_64 {i : BitVec 9} (h : i.toNat < 64) : (i.zeroExtend 64).toNat % 64 = i.toNat := by
  rw [BitVec.toNat_setWidth]
  omega

end Sys2Proof.Machine

namespace Sys2Proof.Proofs

open Sys2Proof.Machine Sys2Proof.Claims

theorem scalarIntegerResult : ScalarIntegerResult := by
  intro p hp e g d a b s hl hready
  rw [exec_of_mem_scalarTable e g d a b s hp]
  exact scaBin_of_ready hl p.2 hready

theorem scalarDivide : ScalarDivide := by
  intro p hp e g d a b s hready
  rw [exec_of_mem_divideTable e g d a b s hp]
  exact ⟨fun hb hl => scaDiv_of_nonzero hl p.2 hready hb, scaDiv_of_zero p.2 hready⟩

/-- Settles O8: a row is the V-format shape, or that of the divides, with its formula. -/
theorem scalarArithmetic : Obligations.ScalarArithmetic := ⟨scalarIntegerResult, scalarDivide⟩

theorem scalarOtherForms : ScalarOtherForms := by
  refine ⟨?unary, ?immediate, ?shift, ?extract, ?insert⟩
  case unary =>
    intro p hp e d a s hl hready
    rw [exec_of_mem_scalarUnaryTable e d a s hp]
    exact scaUn_of_ready hl p.2 hready
  case immediate =>
    intro p hp d a i s hl hready
    obtain ⟨f, hexec, hf⟩ := exec_of_mem_scalarImmediateTable d a s hp i
    rw [hexec, ← hf]
    exact scaImm_of_ready hl f _ hready
  case shift =>
    intro p hp d a i s
    obtain ⟨f, hexec, hf⟩ := exec_of_mem_scalarShiftTable d a s hp i
    rw [hexec]
    refine ⟨fun hi hl hready => ?_, fun hi => ?_⟩
    · have hcount : shiftTooLong i 64 = false := decide_eq_false hi.not_ge
      rw [hcount, ← toNat_zeroExtend_mod_64 hi, ← hf]
      exact scaImm_of_ready hl f _ hready
    · have hcount : shiftTooLong i 64 = true := decide_eq_true hi
      rw [hcount]
      exact scaImm_of_bad f _
  case extract =>
    intro e g d a b s hready
    exact ⟨fun hb hl => execSbfe_of_allowed hl hready hb, execSbfe_of_reserved hready⟩
  case insert =>
    intro e g d a b s hready
    exact ⟨fun hb hl => scaMod_of_allowed hl valSbfi fieldReserved hready hb, scaMod_of_reserved valSbfi fieldReserved hready,
      fun hl => scaMod_of_allowed hl valSsel (fun _ => false) hready rfl⟩

theorem longImmediates : LongImmediates := by
  refine ⟨fun p hp d i s hl hready => ?_, fun d i s hl hready => ⟨?_, ?_⟩⟩
  · obtain ⟨f, hexec, hf⟩ := exec_of_mem_longTable d s hp i
    rw [hexec, ← hf]
    exact scaLong_of_ready hl f i hready
  · exact vecLong_of_ready hl (fun _ i => i) i hready
  · exact vecLong_of_ready hl (fun d i => insertField d i 16 16) i hready

/-- Settles O9: each form by its shape; a reserved value raises before anything is written. -/
theorem scalarForms : Obligations.ScalarForms := ⟨scalarOtherForms, longImmediates⟩

end Sys2Proof.Proofs
end

section
/-! Settles 06 R188 to R191 with 09 R250. A read or a write of STAT waits for the float results before it; a scalar float instruction writes
D, then unites its flags into STAT, and traps last. -/

namespace Sys2Proof.Machine

open Sys2Proof.Claims

/-! ### STAT and its items (R188, R189) -/

/-- The model's items are those of Table 6-8. -/
theorem State.statusItem_eq (s : State) (n : Nat) : s.statusItem n = statusOf s n := by
  unfold State.statusItem statusOf
  rcases n with _ | _ | _ | _ | _ | _ | n
  case succ.succ.succ.succ.succ.succ => simp
  all_goals rfl

theorem statWritable_eq : statWritable = statFields := by decide

section Status
variable {s : State} {d sel a b : Code} {e g : Bool}

theorem execSgetst_of_ready (hsel : sel.toNat < 7) (hfloats : sel.toNat = 0 → s.cur.floats = [])
    (h : Ready s [⟨.sdst, d, false⟩]) : execSgetst d sel s = .next (s.writeS d false (statusOf s sel.toNat)).advance := by
  have hlisted : decide (7 ≤ sel.toNat) = false := decide_eq_false hsel.not_ge
  have hgo : ¬ (sel.toNat = 0 ∧ s.cur.floats ≠ []) := fun ⟨hzero, hwait⟩ => hwait (hfloats hzero)
  unfold execSgetst
  rw [hlisted]
  refine h.run ((if_neg hgo).trans ?_)
  rw [State.statusItem_eq]

theorem execSgetst_of_unlisted (hsel : 7 ≤ sel.toNat) : execSgetst d sel s = .next (s.raiseAll .illegalOpcode) := by
  unfold execSgetst
  rw [decide_eq_true hsel]
  exact run_of_bad ..

theorem execSgetst_of_outstanding (hsel : sel.toNat = 0) (hfloats : s.cur.floats ≠ []) (h : Ready s [⟨.sdst, d, false⟩]) :
    execSgetst d sel s = .next (s.stallWith 12) := by
  have hlisted : decide (7 ≤ sel.toNat) = false := decide_eq_false (by omega)
  unfold execSgetst
  rw [hlisted]
  exact h.run (if_pos ⟨hsel, hfloats⟩)

/-- A write of STAT changes STAT alone. -/
theorem Keeps.writeStat (s : State) (m v : DWord) : Keeps s (s.onCur fun st => st.writeStat m v) (fun _ => False) (fun _ => False)
    ((s.cur.stat &&& ~~~ m) ||| (v &&& m)) :=
  Keeps.setCur ⟨fun _ _ => rfl, fun _ _ => rfl, rfl, rfl, rfl, rfl, rfl, rfl, rfl, rfl, rfl⟩

theorem execSsetst_of_ready (hfloats : s.cur.floats = []) (h : Ready s [⟨.ssrc, a, e⟩, ⟨.ssrc, b, g⟩]) :
    execSsetst e g a b s = .next ((s.popSources [⟨.ssrc, a, e⟩, ⟨.ssrc, b, g⟩]).onCur fun st =>
      st.writeStat (s.ssrc b &&& statWritable) (s.ssrc a)).advance :=
  h.run (if_neg (not_not.2 hfloats))

end Status

/-! ### Scalar float instructions (R190, R191) -/

/-- Flags united into STAT after a scalar result. -/
theorem ScalarResult.addFlags {s t : State} {us : List Use} {d : Code} {v x : DWord} (h : ScalarResult s t us d v x) (f g : BitVec 5) :
    ScalarResult s (t.onCur fun st => st.addFlags f g) us d v (x ||| BitVec.ofNat 64 f.toNat) := by
  rw [← h.keeps.own.stat]
  exact h.setStat _ _

/-- Without an enabled flag the result is D and the flags (R190). -/
theorem scalarResult_scalarFloat {s : State} (us : List Use) (d : Code) (r : Nat × Flags) (hl : HasLanes s)
    (hquiet : r.2 &&& s.cur.te = 0) : ScalarResult s (s.scalarFloat us d r) us d (BitVec.ofNat 64 r.1)
      (s.cur.markScalarWrite.stat ||| BitVec.ofNat 64 r.2.toNat) := by
  have htrap : floatCauses.find? (fun c => (r.2 &&& s.cur.te).getLsbD c.1) = none := by simp [hquiet]
  obtain ⟨hwritten, hfrontier, halso⟩ := scalarResult_write s us d (BitVec.ofNat 64 r.1)
  let shadow (st : Strand) : Flags := if st.shadow then r.2 else 0
  let u := (s.popSources us).writeS d (popsInto us) (BitVec.ofNat 64 r.1)
  have hquiet : Quiet (u.onCur fun st => st.addFlags r.2 (shadow st)) (u.onCur fun st => st.addFlags r.2 (shadow st)).advance :=
    quiet_advance_setCur u _ rfl rfl (hl.of hfrontier halso)
  unfold State.scalarFloat
  simp only [htrap, Option.isNone_none, Bool.and_true]
  exact (hwritten.addFlags r.2 (shadow u.cur)).quiet hquiet

/-- The lowest enabled flag traps after D and STAT are written (R190; 13 R344). -/
theorem State.scalarFloat_of_enabled {s : State} (us : List Use) (d : Code) (r : Nat × Flags) {c : Nat × Cause}
    (htrap : floatCauses.find? (fun c => (r.2 &&& s.cur.te).getLsbD c.1) = some c) :
    s.scalarFloat us d r = (((s.popSources us).writeS d false (BitVec.ofNat 64 r.1)).onCur fun st =>
      st.addFlags r.2 (if st.shadow then r.2 else 0)).settle [] [{ cause := c.2, mask := lanes s, taddr := pcWord (place s) }] := by
  unfold State.scalarFloat
  simp only [htrap, Option.isNone_some, Bool.and_false]
  rfl

/-- An instruction that ends as `State.scalarFloat` is a scalar float instruction. -/
theorem scalarFloatDone_of_exec {i : Instr} {s : State} {us : List Use} {d : Code} {r : Nat × Flags} (hl : HasLanes s)
    (h : exec i s = .next (s.scalarFloat us d r)) : ScalarFloatDone i s us d r :=
  ⟨fun hquiet => ⟨_, h, scalarResult_scalarFloat us d r hl hquiet⟩,
    fun _ htrap => h.trans (congrArg _ (State.scalarFloat_of_enabled us d r htrap))⟩

theorem exec_of_mem_scalarFloatTable {p} (hp : p ∈ scalarFloatTable) (e g : Bool) (d a b : Code) (s : State) :
    exec (p.1 e g d a b) s = scaFloat p.2.1 p.2.2 e g d a b s := by
  unfold scalarFloatTable at hp
  fin_cases hp
  all_goals rfl

end Sys2Proof.Machine

namespace Sys2Proof.Proofs

open Sys2Proof.Machine Sys2Proof.Claims

theorem statusRegister : StatusRegister := by
  refine ⟨?read, fun d sel s => ⟨execSgetst_of_unlisted, execSgetst_of_outstanding⟩, ?write⟩
  case read =>
    intro d sel s hl hsel hfloats hready
    exact ⟨_, execSgetst_of_ready hsel hfloats hready, scalarResult_goes [⟨.sdst, d, false⟩] d _ hl⟩
  case write =>
    intro e g a b s hl hfloats hready
    let us : List Use := [⟨.ssrc, a, e⟩, ⟨.ssrc, b, g⟩]
    have hpopped := popped_popSources s us
    have hkept := (hpopped.keeps _ _).trans (Keeps.writeStat (s.popSources us) (s.ssrc b &&& statWritable) (s.ssrc a))
    have hcourse : SameCourse s ((s.popSources us).onCur fun st => st.writeStat (s.ssrc b &&& statWritable) (s.ssrc a)) :=
      hpopped.course.trans (SameCourse.setCur rfl rfl rfl rfl)
    refine ⟨_, execSsetst_of_ready hfloats hready, ?_⟩
    rw [← statWritable_eq, ← hpopped.stat]
    exact hkept.quiet (hcourse.quiet_advance hl)

theorem scalarFloatResult : ScalarFloatResult := by
  refine ⟨fun p hp e g d a b s => ?table, fun e d a n s => ⟨fun hn hl hready => ?convert, fun hn => ?unlisted⟩⟩
  case table =>
    intro us hl hready
    refine scalarFloatDone_of_exec hl ?_
    rw [exec_of_mem_scalarFloatTable hp]
    exact hready.run rfl
  case convert =>
    refine scalarFloatDone_of_exec hl ?_
    show execSfcvt e d a n s = _
    unfold execSfcvt
    rw [decide_eq_false hn.not_ge]
    exact hready.run rfl
  case unlisted =>
    show execSfcvt e d a n s = _
    unfold execSfcvt
    rw [decide_eq_true hn]
    exact run_of_bad ..

/-- Settles O10: STAT by its reads and its write, the float instructions by how `State.scalarFloat` ends. -/
theorem statusAndScalarFloat : Obligations.StatusAndScalarFloat := ⟨statusRegister, scalarFloatResult⟩

end Sys2Proof.Proofs
end

section
/-! Settles 06 R163 to R168. A target from a scalar is checked before anything is done; a branch, a jump or a counted branch then ends its
issue with the outcomes that its rule gives. -/

namespace Sys2Proof.Machine

open Sys2Proof.Claims

/-! ### Flow records that are off (18 R476) -/

theorem State.flow_of_untraced {s : State} (h : Untraced s) (e : Entry) (m : Mask) (target : Pc) : s.flow e m target = s := by
  unfold Untraced at h
  simp [State.flow, h]

theorem trace_setCore (s : State) (k : Nat) (x : Core) (h : x.trace = (s.core k).trace) (c : Nat) :
    ((s.setCore k x).core c).trace = (s.core c).trace := by
  rw [State.core_setCore]
  split
  · next hc => rw [h, hc]
  · rfl

/-- A pop leaves the trace registers of every core. -/
theorem trace_popQueue (s : State) (k q c : Nat) : ((s.popQueue k q).core c).trace = (s.core c).trace := by
  unfold State.popQueue State.popDrain
  dsimp only
  split
  · exact trace_setCore _ _ _ (by rfl) _
  · split
    · rfl
    · split
      · rfl
      · split
        · rfl
        · split
          · exact trace_setCore _ _ _ (by rfl) _
          · rfl

theorem trace_popSources (s : State) (us : List Use) (c : Nat) : ((s.popSources us).core c).trace = (s.core c).trace := by
  unfold State.popSources
  exact List.foldlRecOn (motive := fun t => (t.core c).trace = (s.core c).trace) _ _ rfl
    fun t ht q _ => (trace_popQueue t t.curKey q c).trans ht

theorem Untraced.popSources {s : State} (h : Untraced s) (us : List Use) : Untraced (s.popSources us) := by
  have hcore : (s.popSources us).cur.core = s.cur.core := (congrArg Strand.core (popped_popSources s us).cur :)
  rwa [Untraced, hcore, trace_popSources]

theorem Untraced.putScalar {s : State} (h : Untraced s) (late : Bool) (m : Nat) (v : DWord) :
    Untraced (s.onCur fun st => st.putScalar late m v) := by
  have hcore : (s.cur.putScalar late m v).core = s.cur.core := by cases late <;> simp [Strand.putScalar]
  rwa [Untraced, State.onCur, State.cur_setCur, hcore]

theorem State.goto_of_untraced {s : State} (h : Untraced s) (pc : Pc) : s.goto pc = s.settle [(pc, lanes s)] [] := by
  rw [State.goto, State.flow_of_untraced h]
  rfl

/-! ### Targets (R163) -/

section Target
variable (s : State) {a : DWord} (k : State → State)

theorem State.checkTarget_of_misaligned (h : a.toNat % 4 ≠ 0) : s.checkTarget a k = s.raiseAllAt .misaligned a := by
  simp [State.checkTarget, targetCause, h]

theorem State.checkTarget_of_nonCanonical (h : a.toNat % 4 = 0) (hhigh : 2 ^ 48 ≤ a.toNat) :
    s.checkTarget a k = s.raiseAllAt .nonCanonical a := by
  have hbits : a.toNat / 2 ^ 48 ≠ 0 := by omega
  simp only [State.checkTarget, targetCause, h, ne_eq, not_true_eq_false, if_false, hbits, not_false_eq_true, if_true]

theorem State.checkTarget_of_good (h : a.toNat % 4 = 0) (hlow : a.toNat < 2 ^ 48) : s.checkTarget a k = k s := by
  have hbits : a.toNat / 2 ^ 48 = 0 := Nat.div_eq_of_lt hlow
  simp only [State.checkTarget, targetCause, h, ne_eq, not_true_eq_false, if_false, hbits]

/-- How an instruction ends that goes on once its target is good. -/
theorem next_of_checkTarget {x : Host.Outcome State Fault Refusal} (h : x = .next (s.checkTarget a k)) :
    (a.toNat % 4 = 0 → a.toNat < 2 ^ 48 → x = .next (k s)) ∧
    (a.toNat % 4 ≠ 0 → x = .next (s.raiseAllAt .misaligned a)) ∧
    (a.toNat % 4 = 0 → 2 ^ 48 ≤ a.toNat → x = .next (s.raiseAllAt .nonCanonical a)) := by
  subst h
  exact ⟨fun ha hlow => congrArg _ (s.checkTarget_of_good k ha hlow), fun ha => congrArg _ (s.checkTarget_of_misaligned k ha),
    fun ha hhigh => congrArg _ (s.checkTarget_of_nonCanonical k ha hhigh)⟩

end Target

/-! ### The entry goes on as a whole -/

section Whole
variable {s : State} (us : List Use) (hl : HasLanes s)
include hl

theorem settle_popSources {outs : List (Pc × Mask)} (hgo : SomeGoes outs) :
    Goes s ((s.popSources us).settle outs []) outs ∧ OnlyGoesOn s ((s.popSources us).settle outs []) := by
  have hcourse := SameCourse.popSources s us
  exact ⟨hcourse.goes_settle hl hgo, ((popped_popSources s us).keeps _ _).quiet (hcourse.quiet_settle hl hgo)⟩

/-- The entry goes to another address, and a scalar is written (R166, R168). -/
theorem settle_putScalar (m : Nat) (v : DWord) (pc : Pc) :
    let t := ((s.popSources us).onCur fun st => st.putScalar false m v).settle [(pc, lanes s)] []
    Goes s t [(pc, lanes s)] ∧ t.cur.scalar m = v ∧
      Keeps s t (fun _ => False) (fun i => i = m) s.cur.markScalarWrite.stat := by
  have hpopped := popped_popSources s us
  have hcourse := hpopped.course.trans (SameCourse.putScalar (s.popSources us) false m v)
  have hquiet := hcourse.quiet_settle hl (someGoes_lanes hl pc)
  refine ⟨hcourse.goes_settle hl (someGoes_lanes hl pc), ?_, ?_⟩
  · rw [hquiet.scalar, State.scalar_putScalar]
  · rw [← markScalarWrite_stat_congr hpopped.frontier hpopped.stat]
    exact ((hpopped.keeps _ _).trans (Keeps.putScalar ..)).quiet hquiet

variable (hu : Untraced s)
include hu

theorem goto_popSources (pc : Pc) :
    Goes s ((s.popSources us).goto pc) [(pc, lanes s)] ∧ OnlyGoesOn s ((s.popSources us).goto pc) := by
  have hlanes : lanes (s.popSources us) = lanes s := congrArg Entry.mask (popped_popSources s us).candidate
  rw [State.goto_of_untraced (hu.popSources us), hlanes]
  exact settle_popSources us hl (someGoes_lanes hl pc)

theorem goto_putScalar (m : Nat) (v : DWord) (pc : Pc) :
    let t := ((s.popSources us).onCur fun st => st.putScalar false m v).goto pc
    Goes s t [(pc, lanes s)] ∧ t.cur.scalar m = v ∧
      Keeps s t (fun _ => False) (fun i => i = m) s.cur.markScalarWrite.stat := by
  have hcourse := (SameCourse.popSources s us).trans (SameCourse.putScalar (s.popSources us) false m v)
  have hlanes : lanes ((s.popSources us).onCur fun st => st.putScalar false m v) = lanes s :=
    congrArg Entry.mask hcourse.candidate
  rw [State.goto_of_untraced ((hu.popSources us).putScalar false m v), hlanes]
  exact settle_putScalar us hl m v pc

end Whole

/-- The link is the address after the instruction (R166). -/
theorem State.writeLink_popSources (s : State) (us : List Use) : (s.popSources us).writeLink =
    (s.popSources us).onCur fun st => st.putScalar false 63 (BitVec.ofNat 64 (place s + 4).toNat) := by
  have hplace : (candidate (s.popSources us).cur).pc = place s := congrArg Entry.pc (popped_popSources s us).candidate
  rw [← hplace]
  rfl

/-! ### Conditional branches (R164) -/

theorem Unchecked.shadow {s : State} (h : Unchecked s) : s.cur.shadow = false := by simp [Strand.shadow, h.mode]

section Branch
variable {s : State} (hc : Unchecked s)
include hc

theorem State.condition_eq_taken (a : Code) (z : Bool) : s.condition a z = taken s z a := by
  have htest (l : Nat) : (decide (laneOf (s.vsrc a) (s.cur.laneNumber l) ≠ 0) != z) =
      if z then laneOf (s.vsrc a) l == 0 else laneOf (s.vsrc a) l != 0 := by
    rw [Strand.laneNumber, hc.shadow, if_neg Bool.false_ne_true]
    cases z <;> simp [bne, beq_eq_decide]
  simp only [State.condition, taken, lanes, htest]

theorem State.shadowDiff_eq_zero (same : Nat → Nat → Bool) : s.shadowDiff same = 0 := by simp [State.shadowDiff, hc.shadow]

end Branch

/-- A cause of no lane is none. -/
theorem State.settle_mismatch_of_none (s : State) (outs : List (Pc × Mask)) (pc : Pc) :
    s.settle outs [mismatch 0 pc] = s.settle outs [] := by simp [State.settle, mismatch]

theorem and_not_zero (m : Mask) : m &&& ~~~ 0 = m := by
  rw [show (0 : Mask) = 0#64 from rfl, BitVec.not_zero, BitVec.and_allOnes]

/-- Outside shadow mode and without flow records: lanes that must not part raise 0x07 where they do, and the others go on (R164). -/
theorem State.branchOn_eq {s : State} (hc : Unchecked s) (hu : Untraced s) (us : List Use) (z uniform : Bool) (a : Code)
    (o : BitVec 16) : s.branchOn us z uniform a o =
      if (uniform && decide (taken s z a ≠ 0 ∧ lanes s &&& ~~~ taken s z a ≠ 0)) = true then s.raiseAllAt .nonUniformBranch 0
      else (s.popSources us).settle [(place s + BitVec.ofInt 48 (4 * o.toInt), taken s z a),
        (place s + 4, lanes s &&& ~~~ taken s z a)] [] := by
  simp only [State.branchOn, State.condition_eq_taken hc, State.shadowDiff_eq_zero hc, and_not_zero, if_true,
    State.flow_of_untraced (hu.popSources us), State.settle_mismatch_of_none]
  rfl

/-- Of a mask with a lane, one of the two parts has one. -/
theorem someGoes_parts {m t : Mask} (h : m ≠ 0) (p q : Pc) : SomeGoes [(p, t), (q, m &&& ~~~ t)] := by
  rw [SomeGoes, List.any_eq_true]
  by_cases ht : t = 0
  · exact ⟨(q, m &&& ~~~ t), by simp, decide_eq_true (by rwa [ht, and_not_zero])⟩
  · exact ⟨(p, t), by simp, decide_eq_true ht⟩

theorem branch_of_ready {s : State} {a : Code} (hc : Unchecked s) (hu : Untraced s) (h : Ready s [⟨.vsrc, a, false⟩])
    (z uniform : Bool) (o : BitVec 16) : branch z uniform a o s = .next
      (if (uniform && decide (taken s z a ≠ 0 ∧ lanes s &&& ~~~ taken s z a ≠ 0)) = true then s.raiseAllAt .nonUniformBranch 0
      else (s.popSources [⟨.vsrc, a, false⟩]).settle [(place s + BitVec.ofInt 48 (4 * o.toInt), taken s z a),
        (place s + 4, lanes s &&& ~~~ taken s z a)] []) :=
  h.runCompare hc (State.branchOn_eq hc hu ..)

theorem exec_of_mem_branchTable {p} (hp : p ∈ branchTable) (a : Code) (o : BitVec 16) (s : State) :
    exec (p.1 a o) s = branch p.2.1 p.2.2 a o s := by
  unfold branchTable at hp
  fin_cases hp
  all_goals rfl

/-! ### Jumps and calls (R166) -/

section Jumps
variable {s : State} (hc : Unchecked s)
include hc

theorem execJmp_of_ready (o : BitVec 23) : execJmp o s = .next (s.goto (place s + BitVec.ofInt 48 (4 * o.toInt))) :=
  (ready_nil s).runPoint hc rfl

theorem execCall_of_ready (o : BitVec 23) (h : Ready s [⟨.sreg, 63, false⟩]) : execCall o s = .next
    ((s.onCur fun st => st.putScalar false 63 (BitVec.ofNat 64 (place s + 4).toNat)).goto
      (place s + BitVec.ofInt 48 (4 * o.toInt))) :=
  h.runPoint hc rfl

theorem execJr_of_ready {e : Bool} {a : Code} (h : Ready s [⟨.ssrc, a, e⟩]) : execJr e a s = .next
    (s.checkTarget (s.ssrc a) fun u => (u.popSources [⟨.ssrc, a, e⟩]).goto (targetPc (s.ssrc a))) :=
  h.runPoint hc rfl

theorem execCallr_of_ready {e : Bool} {a : Code} (h : Ready s [⟨.ssrc, a, e⟩, ⟨.sreg, 63, false⟩]) : execCallr e a s = .next
    (s.checkTarget (s.ssrc a) fun u =>
      (u.popSources [⟨.ssrc, a, e⟩, ⟨.sreg, 63, false⟩]).writeLink.goto (targetPc (s.ssrc a))) :=
  h.runPoint hc rfl

end Jumps

/-! ### Indexed and counted branches (R167, R168) -/

/-- The word that `bri` goes to: the one its index numbers, past the n words for an index that is no such number (R167). -/
theorem indexedTarget_eq (pc : Pc) (v n : Nat) :
    pc + BitVec.ofNat 48 (4 + 4 * (if v < n then v else n)) = pc + 4 + BitVec.ofNat 48 (4 * min v n) := by
  have hmin : (if v < n then v else n) = min v n := by split <;> omega
  rw [hmin, BitVec.ofNat_add, ← BitVec.add_assoc]
  rfl

theorem execBri_of_no_words {a : Code} {s : State} : execBri a 0 s = .next (s.raiseAll .illegalOpcode) := rfl

section Counted
variable {s : State} (hc : Unchecked s) {a : Code}
include hc

theorem execBri_of_ready {n : BitVec 9} (hn : n ≠ 0) (h : Ready s [⟨.ssrc, a, false⟩]) : execBri a n s = .next
    ((s.popSources [⟨.ssrc, a, false⟩]).goto (place s + 4 + BitVec.ofNat 48 (4 * min (s.ssrc a).toNat n.toNat))) := by
  have hlisted : (n == 0) = false := beq_eq_false_iff_ne.2 hn
  unfold execBri
  rw [hlisted, ← indexedTarget_eq]
  exact h.runPoint hc rfl

/-- A counter that reaches 0 sends the lanes to the next word, any other back (R168). -/
theorem execSloop_of_ready (hu : Untraced s) (o : BitVec 16) (h : Ready s [⟨.sloop, a, false⟩]) : execSloop a o s = .next
    ((s.onCur fun st => st.putScalar false (a.toNat - 0x60) (s.cur.scalar (a.toNat - 0x60) - 1)).settle
      [(if s.cur.scalar (a.toNat - 0x60) = 1 then place s + 4 else place s + BitVec.ofInt 48 (4 * o.toInt), lanes s)] []) := by
  have hlanes (v : DWord) : candidate (s.onCur fun st => st.putScalar false (a.toNat - 0x60) v).cur = candidate s.cur :=
    (SameCourse.putScalar ..).candidate
  refine h.runPoint hc ?_
  by_cases hlast : s.cur.scalar (a.toNat - 0x60) = 1
  · refine (if_neg (by simp [hlast])).trans ?_
    rw [if_pos hlast, State.advance, hlanes]
    rfl
  · refine (if_pos (fun hzero => hlast (BitVec.sub_eq_iff_eq_add.1 hzero))).trans ?_
    rw [if_neg hlast, State.goto_of_untraced (hu.putScalar ..), lanes, hlanes]
    rfl

end Counted

end Sys2Proof.Machine

namespace Sys2Proof.Proofs

open Sys2Proof.Machine Sys2Proof.Claims

theorem conditionalBranches : ConditionalBranches := by
  intro p hp a o s hl hc hu hready t1 t2
  rw [exec_of_mem_branchTable hp, branch_of_ready hc hu hready]
  refine ⟨fun hallowed => ?allowed, fun huniform h1 h2 => ?parted⟩
  case allowed =>
    have hgo : ¬ (p.2.2 && decide (t1 ≠ 0 ∧ t2 ≠ 0)) = true := by rwa [Bool.and_eq_true, decide_eq_true_eq]
    exact ⟨_, congrArg _ (if_neg hgo), settle_popSources _ hl (someGoes_parts hl.1 _ _)⟩
  case parted =>
    have hparted : (p.2.2 && decide (t1 ≠ 0 ∧ t2 ≠ 0)) = true := by
      rw [Bool.and_eq_true, decide_eq_true_eq]
      exact ⟨huniform, h1, h2⟩
    exact congrArg _ (if_pos hparted)

theorem jumps : Jumps := by
  refine ⟨?jmp, ?call, ?jr, ?callr⟩
  case jmp => exact fun o s hl hc hu => ⟨_, execJmp_of_ready hc o, goto_popSources [] hl hu _⟩
  case call => exact fun o s hl hc hu hready => ⟨_, execCall_of_ready hc o hready, goto_putScalar [] hl hu _ _ _⟩
  case jr =>
    intro e a s hl hc hu hready v
    obtain ⟨hgood, hbad⟩ := next_of_checkTarget _ _ (execJr_of_ready hc hready)
    exact ⟨fun hv hlow => ⟨_, hgood hv hlow, goto_popSources _ hl hu _⟩, hbad⟩
  case callr =>
    intro e a s hl hc hu hready v
    obtain ⟨hgood, hbad⟩ := next_of_checkTarget _ _ (execCallr_of_ready hc hready)
    rw [State.writeLink_popSources] at hgood
    exact ⟨fun hv hlow => ⟨_, hgood hv hlow, goto_putScalar _ hl hu _ _ _⟩, hbad⟩

/-- Settles O11: a branch by its two outcomes, a jump by its target. -/
theorem branchesAndJumps : Obligations.BranchesAndJumps := ⟨conditionalBranches, jumps⟩

theorem indexedAndCounted : IndexedAndCounted := by
  refine ⟨fun a n s hl hc hu hready => ⟨fun hn => ?indexed, fun hn => ?none⟩, fun a o s hl hc hu hready => ?counted⟩
  case indexed => exact ⟨_, execBri_of_ready hc hn hready, goto_popSources _ hl hu _⟩
  case none =>
    subst hn
    exact execBri_of_no_words
  case counted =>
    intro m
    obtain ⟨hgoes, hcount, hkept⟩ := settle_putScalar [] hl m (s.cur.scalar m - 1)
      (if s.cur.scalar m = 1 then place s + 4 else place s + BitVec.ofInt 48 (4 * o.toInt))
    exact ⟨_, execSloop_of_ready hc hu o hready, hcount, hgoes, hkept⟩

end Sys2Proof.Proofs
end

section
/-! Settles 06 R169 and R170, with O12. Lanes that end leave a frontier with what else is in it; a strand whose frontier is then empty has
exited unless it has a successor (R171). The barrier that its exit may complete moves no entry of such a strand. -/

namespace Sys2Proof.Machine

open Sys2Proof.Claims

/-! ### Rendezvous that do not list a strand (11 R299) -/

/-- No rendezvous of its core lists a strand. -/
def State.Unlisted (s : State) (st : Strand) : Prop :=
  (s.core st.core).latch.all (fun g => !(g.ccb == st.ccb && (gangMembers g.members).contains st.sidx)) = true

/-- Such a strand fails no rendezvous by its exit. -/
theorem State.failGangsOf_of_unlisted {s : State} {st : Strand} (h : s.Unlisted st) :
    s.failGangsOf st = s.setCore st.core (s.core st.core) := by
  have hnone : (s.core st.core).latch.filter (fun g => g.ccb == st.ccb && (gangMembers g.members).contains st.sidx) = [] :=
    List.filter_eq_nil_iff.2 fun g hg => by rw [Bool.not_eq_true, ← Bool.not_eq_true', List.all_eq_true.1 h g hg]
  have hkept : (s.core st.core).latch.filter (fun x => decide (x ∉ ([] : List Gang))) = (s.core st.core).latch :=
    List.filter_eq_self.2 fun _ _ => by simp
  rw [State.failGangsOf, hnone, State.failGangs, hkept]
  rfl

theorem Quiet.setCore (s : State) (k : Nat) : Quiet s (s.setCore k (s.core k)) := by
  refine ⟨fun _ => rfl, fun _ => rfl, fun c => ?_, rfl⟩
  rw [State.core_setCore]
  split
  · next hc => rw [hc]
  · rfl

/-! ### A strand that a released barrier does not move (R180) -/

/-- What becomes of an entry when a barrier is released. -/
def State.passBarrier (s : State) (st : Strand) (e : Entry) : Entry :=
  if e.hold = .barrier then { e with pc := nextPc e.pc, prio := s.prioOf st (nextPc e.pc), hold := .no } else e

theorem State.map_passBarrier_of_free (s : State) (st : Strand) {l : List Entry} (h : ∀ e ∈ l, e.hold ≠ .barrier) :
    l.map (s.passBarrier st) = l :=
  (List.map_congr_left fun e he => if_neg (h e he)).trans (List.map_id' l)

/-- A released barrier takes each strand of its cohort on. -/
theorem State.releaseBarrier_strand (s : State) (ccb : DWord) (k : Nat) : (s.releaseBarrier ccb).strand k =
    ((s.cohort ccb).keys.foldl (fun (s : State) j =>
      s.setStrand j ((s.strand j).setFrontier ((s.strand j).frontier.map (s.passBarrier (s.strand j))))) s).strand k := rfl

/-- A strand has this frontier, and has exited or not. -/
structure Strand.Stands (st : Strand) (l : List Entry) (exited : Bool) : Prop where
  frontier : st.frontier = l
  exited : st.exited = exited

section Stands
variable {s : State} {k : Nat} {l : List Entry} {b : Bool} (hordered : orderFrontier l = l) (hfree : ∀ e ∈ l, e.hold ≠ .barrier)
  (h : (s.strand k).Stands l b)
include hordered hfree h

theorem Strand.Stands.releaseBarrier (ccb : DWord) : ((s.releaseBarrier ccb).strand k).Stands l b := by
  rw [State.releaseBarrier_strand]
  refine List.foldlRecOn (motive := fun t : State => (t.strand k).Stands l b) _ _ h fun t ht j _ => ?_
  by_cases hj : k = j
  · subst hj
    rw [State.strand_setStrand_self, ht.frontier, t.map_passBarrier_of_free _ hfree]
    exact ⟨hordered, ht.exited⟩
  · rwa [State.strand_setStrand_ne _ _ _ _ hj]

theorem Strand.Stands.checkSpan (id : Nat) : ((s.checkSpan id).strand k).Stands l b := by
  unfold State.checkSpan
  dsimp only
  split
  · exact h
  · refine List.foldlRecOn (motive := fun t : State => (t.strand k).Stands l b) _ _ h fun t ht x _ => ?_
    split
    · exact Strand.Stands.releaseBarrier hordered hfree ht x
    · exact ht

theorem Strand.Stands.checkBarrier (ccb : DWord) : ((s.checkBarrier ccb).strand k).Stands l b := by
  unfold State.checkBarrier
  dsimp only
  split
  · exact Strand.Stands.checkSpan hordered hfree h _
  · split
    · exact h
    · split
      · exact Strand.Stands.releaseBarrier hordered hfree h ccb
      · refine Strand.Stands.checkSpan hordered hfree ?_ _
        exact h

end Stands

/-! ### After the frontier of a strand has changed -/

/-- A strand once its frontier has changed: it has exited if nothing is left (R171). -/
def Strand.noteExit (st : Strand) (now : Nat) : Strand :=
  { st with exited := st.exited || st.done, exitedAt := if st.done && !st.exited then now else st.exitedAt }

/-- A state in which the exit of a strand, if it is one, is noted, and the rendezvous that list the strand have failed. -/
def State.exitNoted (s : State) (k : Nat) : State :=
  let t := s.setStrand k ((s.strand k).noteExit s.now)
  if (s.strand k).done && !(s.strand k).exited then t.failGangsOf (s.strand k) else t

theorem State.afterFrontier_eq {s : State} {k : Nat} (hsup : (s.strand k).sup = false) : s.afterFrontier k =
    if ((s.strand k).done || ((s.exitNoted k).cohort (s.strand k).ccb).barrier.isSome) = true then
      (s.exitNoted k).checkBarrier (s.strand k).ccb
    else s.exitNoted k :=
  if_neg (by simp [hsup])

section After
variable {s : State} {k : Nat} (h : (s.strand k).done = false ∨ s.Unlisted (s.strand k))
include h

/-- Without a rendezvous that lists the strand, nothing but its exit is noted. -/
theorem State.exitNoted_of_unlisted : Quiet s (s.exitNoted k) ∧ (∀ c, (s.exitNoted k).cohort c = s.cohort c) ∧
    ∀ j, (s.exitNoted k).strand j = (s.setStrand k ((s.strand k).noteExit s.now)).strand j := by
  let t := s.setStrand k ((s.strand k).noteExit s.now)
  have ht : Quiet s t := Quiet.setStrand _ _ _ rfl
  unfold State.exitNoted
  dsimp only
  split
  · next hexit =>
    have hdone : (s.strand k).done = true := (Bool.and_eq_true_iff.1 hexit).1
    have hfailed : t.failGangsOf (s.strand k) = t.setCore (s.strand k).core (t.core (s.strand k).core) :=
      State.failGangsOf_of_unlisted (h.resolve_left (by simp [hdone]))
    rw [hfailed]
    exact ⟨ht.trans (Quiet.setCore _ _), fun _ => rfl, fun _ => rfl⟩
  · exact ⟨ht, fun _ => rfl, fun _ => rfl⟩

theorem quiet_afterFrontier_of_unlisted : Quiet s (s.afterFrontier k) := by
  obtain ⟨hquiet, -, -⟩ := State.exitNoted_of_unlisted h
  cases hsup : (s.strand k).sup with
  | true =>
    have hkept : s.afterFrontier k = s := if_pos hsup
    rw [hkept]
    exact Quiet.refl s
  | false =>
    rw [State.afterFrontier_eq hsup]
    split
    · exact hquiet.trans (quiet_checkBarrier _ _)
    · exact hquiet

/-- Where no barrier is pending the strand keeps its new frontier, and has exited if nothing is left (R171). -/
theorem stands_afterFrontier (hsup : (s.strand k).sup = false) (hbarrier : (s.cohort (s.strand k).ccb).barrier = none) :
    ((s.afterFrontier k).strand k).Stands (s.strand k).frontier ((s.strand k).exited || (s.strand k).done) := by
  obtain ⟨-, hcohort, hstrand⟩ := State.exitNoted_of_unlisted h
  have hnoted : ((s.exitNoted k).strand k).Stands (s.strand k).frontier ((s.strand k).exited || (s.strand k).done) := by
    rw [hstrand, State.strand_setStrand_self]
    exact ⟨rfl, rfl⟩
  rw [State.afterFrontier_eq hsup, hcohort, hbarrier]
  split
  · next hleft =>
    have hdone : (s.strand k).done = true := by simpa using hleft
    have hnil : (s.strand k).frontier = [] := List.isEmpty_iff.1 (Bool.and_eq_true_iff.1 hdone).1
    rw [hnil] at hnoted ⊢
    exact hnoted.checkBarrier rfl (by simp) _
  · exact hnoted

end After

/-! ### Lanes that end (R169, R170) -/

/-- The issuing strand when its candidate entry has gone to the outcomes. -/
def State.goneOn (s : State) (outs : List (Pc × Mask)) : Strand :=
  let st := s.cur
  let e := candidate st
  { st.setFrontier (dropCandidate st.frontier ++ (outs.filter fun o => decide (o.2 ≠ 0)).map fun o =>
      ({ mask := o.2, prio := s.nextPrio st e.prio o.1, pc := o.1 } : Entry)) with
    stall := 0, lastIssue := s.now, ready := 0, aged := false, also := []
    flushed := if st.flushed = some e.pc then none else st.flushed }

theorem State.goneOn_frontier (s : State) (outs : List (Pc × Mask)) : (s.goneOn outs).frontier = s.moved outs := rfl

theorem State.settle_of_no_causes {s : State} (ha : s.cur.also = []) (outs : List (Pc × Mask)) :
    s.settle outs [] = (s.setCur (s.goneOn outs)).afterFrontier s.curKey := by
  simp only [State.settle, ha, List.append_nil, List.filter_nil, orderRaises_nil, List.foldl_nil]
  rfl

theorem State.quiet_goneOn (s : State) (outs : List (Pc × Mask)) : Quiet s (s.setCur (s.goneOn outs)) := Quiet.setStrand _ _ _ rfl

theorem State.strand_goneOn (s : State) (outs : List (Pc × Mask)) : (s.setCur (s.goneOn outs)).strand s.curKey = s.goneOn outs :=
  State.cur_setCur _ _

/-- The lanes of the entry end: the rest of the frontier stands, and the strand has exited if nothing is left. -/
theorem settle_of_ended {s : State} (hsup : s.cur.sup = false) (ha : s.cur.also = [])
    (h : s.cur.succ.isSome = true ∨ s.Unlisted s.cur) : Quiet s (s.settle [] []) ∧
      (s.curCohort.barrier = none →
        (s.settle [] []).cur.Stands (s.moved []) (s.cur.exited || ((s.moved []).isEmpty && s.cur.succ.isNone))) := by
  let u := s.setCur (s.goneOn [])
  have hu : u.strand s.curKey = s.goneOn [] := s.strand_goneOn []
  have hafter : (u.strand s.curKey).done = false ∨ u.Unlisted (u.strand s.curKey) := by
    rw [hu]
    refine h.imp (fun hsucc => ?_) id
    have hnone : (s.goneOn []).succ.isNone = false := by rw [Option.isNone_eq_false_iff]; exact hsucc
    rw [Strand.done, hnone, Bool.and_false]
  have hquiet : Quiet s (u.afterFrontier s.curKey) := (s.quiet_goneOn []).trans (quiet_afterFrontier_of_unlisted hafter)
  rw [State.settle_of_no_causes ha]
  refine ⟨hquiet, fun hbarrier => ?_⟩
  have hstands := stands_afterFrontier hafter (by rw [hu]; exact hsup) (by rw [hu]; exact hbarrier)
  rw [hu] at hstands
  rw [State.cur, hquiet.curKey]
  exact hstands

theorem Quiet.succ {s t : State} (h : Quiet s t) : t.cur.succ = s.cur.succ := (congrArg Strand.succ h.cur :)

/-- What ends the lanes of an entry keeps all else, whatever was done before the end of the issue. -/
theorem settle_ended {s t : State} (hkept : OnlyGoesOn s t) (hcourse : SameCourse s t) (hl : HasLanes s) (hsup : s.cur.sup = false)
    (h : t.cur.succ.isSome = true ∨ t.Unlisted t.cur) : Goes s (t.settle [] []) [] ∧ OnlyGoesOn s (t.settle [] []) := by
  obtain ⟨hquiet, hstands⟩ := settle_of_ended (hcourse.sup.trans hsup) (hcourse.hasLanes hl).2 h
  refine ⟨fun hfree => ?_, hkept.quiet hquiet⟩
  have hbarrier : s.curCohort.barrier = none := hfree.resolve_left (by simp [hsup])
  rw [← hcourse.moved]
  exact (hstands (hcourse.barrier.trans hbarrier)).frontier

section Exit
variable {s : State}

theorem execExit_of_user (hc : Unchecked s) (hsup : s.cur.sup = false) : execExit s = .next (s.settle [] []) := by
  unfold execExit State.notSupervisor
  rw [hsup]
  exact (ready_nil s).runPoint hc rfl

theorem execExit_of_supervisor (hsup : s.cur.sup = true) : execExit s = .next (s.raiseAll .illegalOpcode) := by
  unfold execExit State.notSupervisor
  rw [hsup]
  rfl

variable {a : Code} {n : BitVec 9}

theorem execExitto_of_refused (h : s.cur.sup = true ∨ 96 < n.toNat) : execExitto a n s = .next (s.raiseAll .illegalOpcode) := by
  have hbad : (s.cur.sup || decide (96 < n.toNat)) = true := by simpa using h
  unfold execExitto State.notSupervisor
  rw [hbad]
  rfl

/-- A state in which the issuing strand has a successor. -/
def State.withSuccessor (s : State) (x : Successor) : State := s.onCur fun st => { st with succ := some x }

section Allowed
variable (hc : Unchecked s) (hsup : s.cur.sup = false) (hn : n.toNat ≤ 96) (h : Ready s [⟨.ssrc, a, false⟩])
include hc hsup hn h

theorem execExitto_of_beyond (hlines : s.cur.nlines < s.cur.wb + n.toNat) :
    execExitto a n s = .next (s.raiseAll .windowOverflow) := by
  have hbad : (s.cur.sup || decide (96 < n.toNat)) = false := by simpa [hsup] using hn
  unfold execExitto State.notSupervisor
  rw [hbad]
  exact h.runPoint hc (if_pos hlines)

theorem execExitto_of_within (hlines : s.cur.wb + n.toNat ≤ s.cur.nlines) (hv : (s.ssrc a).toNat % 4 = 0)
    (hlow : (s.ssrc a).toNat < 2 ^ 48) : execExitto a n s = .next (((s.popSources [⟨.ssrc, a, false⟩]).withSuccessor
      ⟨BitVec.ofNat 48 (s.ssrc a).toNat, n.toNat, (s.popSources [⟨.ssrc, a, false⟩]).cur.wb⟩).settle [] []) := by
  have hbad : (s.cur.sup || decide (96 < n.toNat)) = false := by simpa [hsup] using hn
  unfold execExitto State.notSupervisor
  rw [hbad]
  exact h.runPoint hc ((if_neg hlines.not_gt).trans (s.checkTarget_of_good _ hv hlow))

end Allowed

end Exit

end Sys2Proof.Machine

namespace Sys2Proof.Proofs

open Sys2Proof.Machine Sys2Proof.Claims

theorem exits : Exits := by
  refine ⟨fun s hl hc => ⟨fun hsup hlatch => ?exit, execExit_of_supervisor⟩,
    fun a n s hl hc => ⟨execExitto_of_refused, ?exitto⟩⟩
  case exit =>
    obtain ⟨hgoes, hkept⟩ := settle_ended (Keeps.refl s _ _) (SameCourse.refl s) hl hsup (.inr hlatch)
    obtain ⟨-, hstands⟩ := settle_of_ended hsup hl.2 (.inr hlatch)
    exact ⟨_, execExit_of_user hc hsup, hgoes, hkept, fun hbarrier => (hstands hbarrier).exited⟩
  case exitto =>
    intro hsup hn hready v
    refine ⟨execExitto_of_beyond hc hsup hn hready, fun hlines hv hlow => ?_⟩
    let us : List Use := [⟨.ssrc, a, false⟩]
    have hpopped := popped_popSources s us
    let x : Successor := ⟨BitVec.ofNat 48 v, n.toNat, (s.popSources us).cur.wb⟩
    let t := (s.popSources us).withSuccessor x
    have hsucc : t.cur.succ = some x := congrArg Strand.succ (State.cur_setCur _ _)
    have hcourse : SameCourse s t := hpopped.course.trans (SameCourse.setCur rfl rfl rfl rfl)
    have hkept : OnlyGoesOn s t := by
      have hset : Keeps (s.popSources us) t (fun _ => False) (fun _ => False) (s.popSources us).cur.stat :=
        Keeps.setCur ⟨fun _ _ => rfl, fun _ _ => rfl, rfl, rfl, rfl, rfl, rfl, rfl, rfl, rfl, rfl⟩
      rw [hpopped.stat] at hset
      exact (hpopped.keeps _ _).trans hset
    have hleft : t.cur.succ.isSome = true := by rw [hsucc]; rfl
    obtain ⟨hgoes, hends⟩ := settle_ended hkept hcourse hl hsup (.inl hleft)
    obtain ⟨hquiet, -⟩ := settle_of_ended (hcourse.sup.trans hsup) (hcourse.hasLanes hl).2 (.inl hleft)
    have hleaves : (t.settle [] []).cur.succ = some x := hquiet.succ.trans hsucc
    rw [← hpopped.wb]
    exact ⟨_, execExitto_of_within hc hsup hn hready hlines hv hlow, hgoes, hends, hleaves⟩

/-- Settles O12: the branches by their targets, the exits by what ends the lanes of an entry. -/
theorem loopsAndExits : Obligations.LoopsAndExits := ⟨indexedAndCounted, exits⟩

end Sys2Proof.Proofs
end

section
/-! Settles 06 R161, R171 and R172 with 04 R105. A strand that starts is the start state of its slot with some lines written; the end of the
issue that starts it, and a barrier completed by it, leave it so. -/

namespace Sys2Proof.Machine

open Sys2Proof.Claims

/-! ### The start state of a strand (04 Table 4-9) -/

/-- A strand with its first lines written. -/
def Strand.setLines (st : Strand) (n : Nat) (f : Nat → Line) : Strand := (List.range n).foldl (fun st i => st.setLine i (f i)) st

section Lines
variable (st : Strand) (n : Nat) (f : Nat → Line)

theorem Strand.setLines_succ : st.setLines (n + 1) f = (st.setLines n f).setLine n (f n) := by
  simp [Strand.setLines, List.range_succ]

theorem Strand.setLines_lineless : (st.setLines n f).lineless = st.lineless := by
  induction n with
  | zero => rfl
  | succ n ih =>
    rw [Strand.setLines_succ, ← ih]
    rfl

theorem Strand.line_setLines (i : Nat) : (st.setLines n f).line i = if i < n then f i else st.line i := by
  induction n with
  | zero => rfl
  | succ n ih =>
    rw [Strand.setLines_succ, Strand.line_setLine, ih]
    by_cases hi : i = n
    · subst hi
      simp
    · have hlt : i < n + 1 ↔ i < n := by omega
      simp [hi, hlt]

end Lines

theorem Tab.get_of_forall_ne {α : Type} (d : α) {t : Tab α} {k : Nat} (h : ∀ x ∈ t, k ≠ x.1) : Tab.get d t k = d := by
  induction t with
  | nil => rfl
  | cons a t ih => rw [Tab.get, if_neg (h a List.mem_cons_self), ih fun x hx => h x (List.mem_cons_of_mem a hx)]

/-- A table read where the values equal to the default have been left out. -/
theorem Tab.get_filter_ne {α : Type} [DecidableEq α] (d : α) {t : Tab α} (h : Tab.rising t) (k : Nat) :
    Tab.get d (List.filter (fun x => decide (x.2 ≠ d)) t) k = Tab.get d t k := by
  induction t with
  | nil => rfl
  | cons a t ih =>
    obtain ⟨j, v⟩ := a
    obtain ⟨hlow, hrest⟩ := h
    by_cases hv : v = d
    · rw [List.filter_cons_of_neg (by simpa using hv), ih hrest, Tab.get]
      split
      · next hk =>
        subst hk
        rw [hv, Tab.get_of_forall_ne d fun x hx => (hlow x hx).ne]
      · rfl
    · rw [List.filter_cons_of_pos (by simpa using hv), Tab.get, Tab.get, ih hrest]

/-- A strand starts with the number of its slot in s4. -/
theorem Cohort.startScalars_get (c : Cohort) (k : Nat) (priv : DWord) : Tab.get 0 (c.startScalars k priv) 4 = BitVec.ofNat 64 k := by
  refine (Tab.get_filter_ne 0 ?_ 4).trans rfl
  simp [Tab.rising]

section Start
variable (c : Cohort) (old : Strand) (k : Nat) (pc : Pc) (mask : Mask)

theorem startState_startStrand : StartState c k (c.startStrand old k pc mask) := ⟨rfl, rfl, rfl, rfl, rfl, rfl, rfl, rfl, rfl, rfl⟩

theorem scalar_startStrand_setLines (n : Nat) (f : Nat → Line) :
    ((c.startStrand old k pc mask).setLines n f).scalar 4 = BitVec.ofNat 64 k := by
  have hscal : ((c.startStrand old k pc mask).setLines n f).scal = c.startScalars k old.privBase :=
    (congrArg Strand.scal (Strand.setLines_lineless ..) :)
  rw [Strand.scalar, hscal, Cohort.startScalars_get]

variable {c k} {a b : Strand}

/-- The start state is not one of the lines, nor of what the end of an issue changes. -/
theorem startState_of_still_lineless (h : StartState c k a) (heq : b.still.lineless = a.still.lineless) : StartState c k b where
  stat := (congrArg Strand.stat heq).trans h.stat
  window := (congrArg Strand.wb heq).trans h.window
  gang := (congrArg Strand.gang heq).trans h.gang
  cause := (congrArg Strand.cause heq).trans h.cause
  taddr := (congrArg Strand.taddr heq).trans h.taddr
  tmask := (congrArg Strand.tmask heq).trans h.tmask
  handler := (congrArg Strand.handler heq).trans h.handler
  sigmask := (congrArg Strand.sigmask heq).trans h.sigmask
  index := (congrArg Strand.sidx heq).trans h.index
  succ := (congrArg Strand.succ heq).trans h.succ

theorem startState_setLines (h : StartState c k a) (n : Nat) (f : Nat → Line) : StartState c k (a.setLines n f) :=
  startState_of_still_lineless h (congrArg Strand.still (a.setLines_lineless n f))

theorem startState_of_still (h : StartState c k a) (heq : b.still = a.still) : StartState c k b :=
  startState_of_still_lineless h (congrArg Strand.lineless heq)

end Start

theorem Strand.scalar_of_still {a b : Strand} (h : b.still = a.still) (m : Nat) : b.scalar m = a.scalar m :=
  (congrArg (fun st => Strand.scalar st m) h :)

theorem Strand.line_of_still {a b : Strand} (h : b.still = a.still) (n : Nat) : b.line n = a.line n :=
  (congrArg (fun st => Strand.line st n) h :)

/-! ### Successors and slots (R171) -/

/-- The strand that a successor starts. -/
def State.successor (s : State) (key : Nat) (x : Successor) : Strand :=
  let st := s.strand key
  { ((s.cohort st.ccb).startStrand st st.sidx x.pc startMask).setLines x.lines (fun i => st.line (x.base + i)) with
    scal := st.scal, nlines := st.nlines, replies := st.replies, drains := st.drains, readyq := st.readyq }

section Successor
variable {s : State} {key : Nat} {x : Successor}

theorem execSuccessorStart_of_ended (hsucc : (s.strand key).succ = some x) (hfrontier : (s.strand key).frontier = [])
    (hproducers : (s.strand key).producers = []) (hfloats : (s.strand key).floats = []) :
    execSuccessorStart key s = .next (s.setStrand key (s.successor key x)) := by
  have hended : ((s.strand key).frontier.isEmpty && (s.strand key).producers.isEmpty && (s.strand key).floats.isEmpty) = true := by
    rw [hfrontier, hproducers, hfloats]
    rfl
  unfold execSuccessorStart
  dsimp only
  rw [hsucc]
  exact if_pos hended

variable (s key x)

theorem State.successor_frontier : (s.successor key x).frontier =
    [{ mask := startMask, prio := prioIn (s.cohort (s.strand key).ccb).pmap x.pc, pc := x.pc }] :=
  (congrArg Strand.frontier (Strand.setLines_lineless ..) :)

theorem State.startState_successor : StartState (s.cohort (s.strand key).ccb) (s.strand key).sidx (s.successor key x) :=
  { startState_setLines (startState_startStrand ..) _ _ with }

theorem State.line_successor (n : Nat) :
    (s.successor key x).line n = if n < x.lines then (s.strand key).line (x.base + n) else zeroLine :=
  Strand.line_setLines ..

end Successor

theorem execSlotFree_of_ended {s : State} {key : Nat} (hexited : (s.strand key).exited = true)
    (hproducers : (s.strand key).producers = []) (hfloats : (s.strand key).floats = []) :
    execSlotFree key s = .next (s.setStrand key { s.strand key with freed := true }) := by
  have hended : ((s.strand key).exited && (s.strand key).producers.isEmpty && (s.strand key).floats.isEmpty) = true := by
    rw [hexited, hproducers, hfloats]
    rfl
  exact if_pos hended

/-! ### Another strand at the end of an issue (R159, R180) -/

theorem moved_ne_nil (s : State) {outs : List (Pc × Mask)} (hgo : SomeGoes outs) : s.moved outs ≠ [] := by
  obtain ⟨o, ho, hlane⟩ := List.any_eq_true.1 hgo
  have hgone : o ∈ outs.filter fun o => decide (o.2 ≠ 0) := List.mem_filter.2 ⟨ho, hlane⟩
  exact orderFrontier_ne_nil _ (List.append_ne_nil_of_right_ne_nil _ (List.ne_nil_of_mem (List.mem_map_of_mem hgone)))

section Other
variable {s : State} {j : Nat} {l : List Entry} {b : Bool} (hordered : orderFrontier l = l) (hfree : ∀ e ∈ l, e.hold ≠ .barrier)
  (h : (s.strand j).Stands l b)
include hordered hfree h

/-- A strand none of whose entries is held at a barrier stands as before when the frontier of another has changed. -/
theorem Strand.Stands.afterFrontier {k : Nat} (hk : (s.strand k).done = false ∨ s.Unlisted (s.strand k)) (hj : j ≠ k) :
    ((s.afterFrontier k).strand j).Stands l b := by
  obtain ⟨-, -, hstrand⟩ := State.exitNoted_of_unlisted hk
  have hnoted : ((s.exitNoted k).strand j).Stands l b := by
    rwa [hstrand, State.strand_setStrand_ne _ _ _ _ hj]
  cases hsup : (s.strand k).sup with
  | true =>
    have hkept : s.afterFrontier k = s := if_pos hsup
    rwa [hkept]
  | false =>
    rw [State.afterFrontier_eq hsup]
    split
    · exact hnoted.checkBarrier hordered hfree _
    · exact hnoted

theorem Strand.Stands.settle {outs : List (Pc × Mask)} (hgo : SomeGoes outs) (ha : s.cur.also = []) (hj : j ≠ s.curKey) :
    ((s.settle outs []).strand j).Stands l b := by
  let u := s.setCur (s.goneOn outs)
  have hgone : u.strand s.curKey = s.goneOn outs := s.strand_goneOn outs
  have hstays : (u.strand s.curKey).done = false := by
    rw [hgone, Strand.done, State.goneOn_frontier, List.isEmpty_eq_false_iff.2 (moved_ne_nil s hgo), Bool.false_and]
  have hu : (u.strand j).Stands l b := by rwa [show u.strand j = s.strand j from State.strand_setStrand_ne _ _ _ _ hj]
  rw [State.settle_of_no_causes ha]
  exact hu.afterFrontier hordered hfree (.inl hstays) hj

end Other

/-! ### Spawned strands (R172) -/

theorem advance_putScalar (s : State) (us : List Use) (m : Nat) (v : DWord) :
    ((s.popSources us).onCur fun st => st.putScalar false m v).advance =
      ((s.popSources us).onCur fun st => st.putScalar false m v).settle [(place s + 4, lanes s)] [] := by
  have hcourse := (SameCourse.popSources s us).trans (SameCourse.putScalar (s.popSources us) false m v)
  rw [State.advance, hcourse.candidate]
  rfl

/-- The strand that starts in slot k of the issuing strand's cohort, with the first lines of the window. -/
def State.spawned (s : State) (k : Nat) (pc : Pc) (n : Nat) : Strand :=
  (s.curCohort.startStrand (s.slotStrand s.curCohort k) k pc startMask).setLines n fun i => s.cur.line (s.cur.wb + i)

section Spawned
variable (s : State) (k : Nat) (pc : Pc) (n : Nat)

theorem State.spawned_key : (s.spawned k pc n).key = (s.slotStrand s.curCohort k).key :=
  (congrArg Strand.key (Strand.setLines_lineless ..) :)

theorem State.spawned_frontier : (s.spawned k pc n).frontier = [{ mask := startMask, prio := prioIn s.curCohort.pmap pc, pc := pc }] :=
  (congrArg Strand.frontier (Strand.setLines_lineless ..) :)

theorem State.startState_spawned : StartState s.curCohort k (s.spawned k pc n) :=
  startState_setLines (startState_startStrand ..) _ _

theorem State.scalar_spawned : (s.spawned k pc n).scalar 4 = BitVec.ofNat 64 k := scalar_startStrand_setLines ..

theorem State.line_spawned {i : Nat} (h : i < n) : (s.spawned k pc n).line i = s.cur.line (s.cur.wb + i) :=
  (Strand.line_setLines ..).trans (if_pos h)

end Spawned

theorem SameCourse.unarrive (s : State) (ccb : DWord) : SameCourse s (s.unarrive ccb) := by
  unfold State.unarrive
  dsimp only
  split
  · have hcohort : SameCourse s (s.setCohort ccb { s.cohort ccb with spanArrived := false }) := SameCourse.setCohort rfl rfl
    exact ⟨hcohort.frontier, hcohort.also, hcohort.sup, hcohort.ccb, hcohort.pmap, hcohort.barrier⟩
  · exact SameCourse.refl s

theorem State.strand_unarrive (s : State) (ccb : DWord) (k : Nat) : (s.unarrive ccb).strand k = s.strand k := by
  unfold State.unarrive
  dsimp only
  split <;> rfl

theorem State.curKey_unarrive (s : State) (ccb : DWord) : (s.unarrive ccb).curKey = s.curKey := by
  unfold State.unarrive
  dsimp only
  split <;> rfl

section StartIn
variable (s : State) (ccb : DWord) (n : Strand)

theorem State.strand_startIn : (s.startIn ccb n).strand n.key = n := by
  rw [State.startIn, State.strand_unarrive, State.strand_setStrand_self]

theorem State.curKey_startIn : (s.startIn ccb n).curKey = s.curKey := State.curKey_unarrive ..

variable {n}

theorem SameCourse.startIn (h : n.key ≠ s.curKey) : SameCourse s (s.startIn ccb n) := by
  have hcur : (s.setStrand n.key n).cur = s.cur := State.strand_setStrand_ne _ _ _ _ h.symm
  have hcohort : (s.setStrand n.key n).curCohort = s.curCohort := by rw [State.curCohort, hcur]; rfl
  have hset : SameCourse s (s.setStrand n.key n) := by
    refine ⟨?_, ?_, ?_, ?_, congrArg Cohort.pmap hcohort, congrArg Cohort.barrier hcohort⟩ <;> rw [hcur]
  exact hset.trans (SameCourse.unarrive ..)

/-- The strand that an instruction starts is as it starts, once the instruction has given its scalar a value. -/
theorem startIn_advance (hl : HasLanes s) (hn : n.key ≠ s.curKey) {l : List Entry} (hfrontier : n.frontier = l)
    (hordered : orderFrontier l = l) (hfree : ∀ e ∈ l, e.hold ≠ .barrier) (m : Nat) (v : DWord) :
    let t := ((s.startIn ccb n).onCur fun st => st.putScalar false m v).advance
    t.cur.scalar m = v ∧ (t.strand n.key).still = n.still ∧ (t.strand n.key).frontier = l := by
  let t := (s.startIn ccb n).onCur fun st => st.putScalar false m v
  have hkey : n.key ≠ t.curKey := by rwa [show t.curKey = s.curKey from State.curKey_startIn ..]
  have hstarted : t.strand n.key = n := (State.strand_setStrand_ne _ _ _ _ hkey).trans (State.strand_startIn ..)
  have hlanes : HasLanes t := ((SameCourse.startIn s ccb hn).trans (SameCourse.putScalar ..)).hasLanes hl
  have hquiet := quiet_advance t hlanes
  have hstands : (t.strand n.key).Stands l n.exited := by rw [hstarted]; exact ⟨hfrontier, rfl⟩
  have hends := hstands.settle hordered hfree (someGoes_lanes hlanes (place t + 4)) hlanes.2 hkey
  exact ⟨(hquiet.scalar m).trans (State.scalar_putScalar ..), (hquiet.strands n.key).trans (congrArg Strand.still hstarted),
    hends.frontier⟩

end StartIn

/-- A scalar destination of a ready instruction is a scalar register. -/
theorem Ready.writeS {s : State} {us : List Use} {extra : List Nat} {d : Code} {g : Bool} (h : Ready s us extra)
    (hmem : ⟨.sreg, d, g⟩ ∈ us) (t : State) (late : Bool) (v : DWord) :
    t.writeS d late v = t.onCur fun st => st.putScalar late d.toNat v := by
  have hlt : d.toNat < 64 := of_decide_eq_true (List.all_eq_true.1 h.accepted _ hmem)
  exact if_pos hlt

section ExecSpawn
variable {d a : Code} {s : State} (hsup : s.cur.sup = false)
  (h : Ready s [⟨.ssrc, a, false⟩, ⟨.sreg, d, false⟩] ((List.range 8).map fun i => s.cur.wb + i))
  (hv : (s.ssrc a).toNat % 4 = 0) (hlow : (s.ssrc a).toNat < 2 ^ 48)
include hsup h hv hlow

theorem execSpawn_of_full (hfree : s.freeSlot s.curCohort = none) : execSpawn d a s =
    .next ((s.popSources [⟨.ssrc, a, false⟩, ⟨.sreg, d, false⟩]).onCur fun st =>
      st.putScalar false d.toNat (BitVec.allOnes 64)).advance := by
  unfold execSpawn State.notSupervisor
  rw [hsup]
  refine h.fields.run ?_
  rw [s.checkTarget_of_good _ hv hlow]
  dsimp only
  rw [operandWait_of_ready h.lines, hfree, ← h.writeS (g := false) (by simp)]

theorem execSpawn_of_slot {k : Nat} (hfree : s.freeSlot s.curCohort = some k) : execSpawn d a s =
    .next (((s.popSources [⟨.ssrc, a, false⟩, ⟨.sreg, d, false⟩]).startIn s.curCohort.ccb
      (s.spawned k (targetPc (s.ssrc a)) 8)).onCur fun st => st.putScalar false d.toNat (BitVec.ofNat 64 k)).advance := by
  unfold execSpawn State.notSupervisor
  rw [hsup]
  refine h.fields.run ?_
  rw [s.checkTarget_of_good _ hv hlow]
  dsimp only
  rw [operandWait_of_ready h.lines, hfree, ← h.writeS (g := false) (by simp)]
  rfl

end ExecSpawn

end Sys2Proof.Machine

namespace Sys2Proof.Proofs

open Sys2Proof.Machine Sys2Proof.Claims

theorem successorAndSlot : SuccessorAndSlot := by
  refine ⟨fun s key x hsucc hfrontier hproducers hfloats => ⟨_, execSuccessorStart_of_ended hsucc hfrontier hproducers hfloats,
    OnlyStrand.setStrand _ _ _, ?_⟩, fun _ _ => execSlotFree_of_ended⟩
  rw [State.strand_setStrand_self]
  exact ⟨⟨_, s.successor_frontier key x, rfl, rfl, rfl, rfl⟩, s.startState_successor key x, fun _ => rfl,
    s.line_successor key x, rfl⟩

theorem spawn : Spawn := by
  intro d a s hsup hl h v hv hlow
  let us : List Use := [⟨.ssrc, a, false⟩, ⟨.sreg, d, false⟩]
  refine ⟨fun hfree => ⟨_, execSpawn_of_full hsup h hv hlow hfree, ?full⟩, fun k hfree hother => ?slot⟩
  case full =>
    rw [advance_putScalar]
    exact (settle_putScalar us hl d.toNat (BitVec.allOnes 64) (place s + 4)).2
  case slot =>
    let n := s.spawned k (targetPc (s.ssrc a)) 8
    have hn : n.key ≠ (s.popSources us).curKey := by rwa [s.spawned_key, (popped_popSources s us).curKey]
    obtain ⟨hscalar, hstill, hfrontier⟩ := startIn_advance _ s.curCohort.ccb ((SameCourse.popSources s us).hasLanes hl) hn
      (s.spawned_frontier ..) rfl (List.forall_mem_singleton.2 nofun) d.toNat (BitVec.ofNat 64 k)
    rw [← s.spawned_key k (targetPc (s.ssrc a)) 8]
    refine ⟨_, _, execSpawn_of_slot hsup h hv hlow hfree, hscalar, rfl, startState_of_still (s.startState_spawned ..) hstill,
      (Strand.scalar_of_still hstill 4).trans (s.scalar_spawned ..),
      fun i hi => (Strand.line_of_still hstill i).trans (s.line_spawned _ _ _ hi),
      ?_⟩
    rw [hfrontier]
    rfl

/-- Settles O13: the strand that starts by its start state, and by what the end of the issue leaves of it. -/
theorem strandCreation : Obligations.StrandCreation := ⟨successorAndSlot, spawn⟩

end Sys2Proof.Proofs
end

section
/-! Settles 06 R173, R174 and R179 to R181. Nothing holds an instruction without fields back; what it changes of its strand or its
cohort stands after the end of the issue. -/

namespace Sys2Proof.Machine

open Sys2Proof.Claims

/-! ### The window (R173) -/

section Window
variable {s : State} {i : BitVec 9} (h : i.toNat % 8 = 0)
include h

/-- A state whose issuing strand has another window base. -/
def State.withWindow (s : State) (wb : Nat) : State := s.onCur fun st => { st.markScalarWrite with wb := wb }

theorem execWin_of_outside (hout : (s.cur.wb : Int) + i.toInt < 0 ∨ (s.cur.nlines : Int) - 8 < s.cur.wb + i.toInt) :
    execWin i s = .next (s.raiseAll .windowOverflow) := by
  unfold execWin
  rw [h]
  exact (ready_nil s).run (if_pos hout)

theorem execWin_of_within (hlow : 0 ≤ (s.cur.wb : Int) + i.toInt) (hhigh : (s.cur.wb : Int) + i.toInt ≤ (s.cur.nlines : Int) - 8) :
    execWin i s = .next (s.withWindow ((s.cur.wb : Int) + i.toInt).toNat).advance := by
  unfold execWin
  rw [h]
  exact (ready_nil s).run (if_neg (by omega))

end Window

theorem execWin_of_odd {s : State} {i : BitVec 9} (h : i.toNat % 8 ≠ 0) : execWin i s = .next (s.raiseAll .illegalOpcode) := by
  have hbad : (i.toNat % 8 != 0) = true := bne_iff_ne.2 h
  unfold execWin
  rw [hbad]
  exact run_of_bad ..

section WithWindow
variable (s : State) (wb : Nat)

theorem SameCourse.withWindow : SameCourse s (s.withWindow wb) :=
  SameCourse.setCur (by simp) (by simp) (by simp) (by simp)

theorem State.cur_withWindow : (s.withWindow wb).cur = { s.cur.markScalarWrite with wb := wb } := State.cur_setCur ..

/-- The window base changes and STAT as a scalar write changes it; lines and scalars stay. -/
theorem withWindow_advance (hl : HasLanes s) : let t := (s.withWindow wb).advance
    t.cur.wb = wb ∧ (∀ n, t.cur.line n = s.cur.line n) ∧ (∀ m, t.cur.scalar m = s.cur.scalar m) ∧
      t.cur.stat = s.cur.markScalarWrite.stat ∧ SameMemory s t ∧ SameEngines s t ∧
      ∀ k, k ≠ s.curKey → SameRegisters (s.strand k) (t.strand k) (fun _ => False) (fun _ => False) (s.strand k).stat := by
  have hquiet := (SameCourse.withWindow s wb).quiet_advance hl
  have hstill : (s.withWindow wb).advance.cur.still = ({ s.cur.markScalarWrite with wb := wb } : Strand).still := by
    rw [hquiet.cur, State.cur_withWindow]
  refine ⟨(congrArg Strand.wb hstill :), fun n => ?_, fun m => ?_, (congrArg Strand.stat hstill :),
    (SameMemory.setStrand ..).trans hquiet.memory, (SameEngines.setStrand ..).trans hquiet.engines, fun k hk => ?_⟩
  · exact (Strand.line_of_still hstill n).trans (s.cur.markScalarWrite_line n)
  · exact (Strand.scalar_of_still hstill m).trans (s.cur.markScalarWrite_scalar m)
  · have hkept : (s.withWindow wb).strand k = s.strand k := State.strand_setStrand_ne _ _ _ _ hk
    rw [← hkept]
    exact sameRegisters_of_still (hquiet.strands k) _ _

end WithWindow

theorem execWinq_of_ready {s : State} {d : Code} (h : Ready s [⟨.sdst, d, false⟩]) :
    execWinq d s = .next (s.writeS d false (BitVec.ofNat 64 s.cur.wb)).advance := h.run rfl

/-! ### Yields (R174) -/

/-- A state in which the issuing strand gives its bench up. -/
def State.yielding (s : State) : State := s.onCur fun st => { st with yield := 16 }

theorem SameCourse.yielding (s : State) : SameCourse s s.yielding := SameCourse.setCur rfl rfl rfl rfl

theorem onlyGoesOn_yielding (s : State) : OnlyGoesOn s s.yielding :=
  Keeps.setCur ⟨fun _ _ => rfl, fun _ _ => rfl, rfl, rfl, rfl, rfl, rfl, rfl, rfl, rfl, rfl⟩

theorem execYield_eq (s : State) : execYield s = .next s.yielding.advance := (ready_nil s).run rfl

theorem execNop_eq (s : State) : execNop s = .next s.advance := (ready_nil s).run rfl

theorem Quiet.yield {s t : State} (h : Quiet s t) : t.cur.yield = s.cur.yield := (congrArg Strand.yield h.cur :)

/-! ### Cohort barriers (R179) -/

section Barrier
variable {s : State} (hsup : s.cur.sup = false) (span : Bool)
include hsup

theorem barrier_of_clear (hprio : (candidate s.cur).prio ≠ 0xFFFF)
    (hclear : ∀ b, s.curCohort.barrier = some b → b.pc = place s ∧ b.span = span) : barrier span s =
      .next ((s.setCurCohort { s.curCohort with barrier := some { pc := place s, span := span } }).holdCandidate .barrier) := by
  unfold barrier State.notSupervisor
  rw [hsup]
  refine (ready_nil s).run (if_neg ?_)
  rw [not_or]
  refine ⟨hprio, ?_⟩
  split
  · simp
  · next b hb =>
    obtain ⟨hpc, hspan⟩ := hclear b hb
    simp [hpc, hspan, place]

theorem barrier_of_misuse (h : (candidate s.cur).prio = 0xFFFF ∨
    ¬ ∀ b, s.curCohort.barrier = some b → b.pc = place s ∧ b.span = span) :
    barrier span s = .next (s.raiseAllAt .barrierMisuse 0) := by
  unfold barrier State.notSupervisor
  rw [hsup]
  refine (ready_nil s).run (if_pos (h.imp id fun hother => ?_))
  simp only [not_forall] at hother
  obtain ⟨b, hb, hne⟩ := hother
  rw [hb]
  by_cases hpc : b.pc = place s
  · have hspan : b.span ≠ span := fun heq => hne ⟨hpc, heq⟩
    simp [hspan]
  · have hpc' : b.pc ≠ (candidate s.cur).pc := hpc
    simp [hpc']

end Barrier

/-! ### Phase barriers (R181) -/

/-- A phase barrier at which one more of n + 1 has arrived. -/
def Phase.arrive (p : Phase) (n : Nat) : Phase :=
  if p.cnt = n then { ph := !p.ph, n := n } else { cnt := p.cnt + 1, ph := p.ph, n := n, act := true }

/-- A state in which the issuing strand has arrived at phase barrier k of its cohort. -/
def State.countArrival (s : State) (k n : Nat) : State :=
  s.setCurCohort { s.curCohort with phases := Tab.put s.curCohort.phases k ((Tab.get {} s.curCohort.phases k).arrive n) }

section Arrive
variable {d : Code} {n : BitVec 5} {k : BitVec 3} {s : State} (hsup : s.cur.sup = false) (h : Ready s [⟨.sreg, d, false⟩])
include hsup h

theorem execParv_of_misuse (hact : (Tab.get {} s.curCohort.phases k.toNat).act = true)
    (hn : (Tab.get {} s.curCohort.phases k.toNat).n ≠ n.toNat) : execParv d n k s = .next (s.raiseAllAt .barrierMisuse 0) := by
  unfold execParv State.notSupervisor
  rw [hsup]
  exact h.run (if_pos (by simp [hact, hn]))

theorem execParv_of_matching (hn : ¬ ((Tab.get {} s.curCohort.phases k.toNat).act = true ∧
    (Tab.get {} s.curCohort.phases k.toNat).n ≠ n.toNat)) : execParv d n k s =
      .next ((s.countArrival k.toNat n.toNat).onCur fun st => st.putScalar false d.toNat
        (if (Tab.get {} s.curCohort.phases k.toNat).ph then 1 else 0)).advance := by
  unfold execParv State.notSupervisor
  rw [hsup]
  refine h.run ((if_neg (by simpa using hn)).trans ?_)
  rw [← h.writeS (g := false) (by simp), State.countArrival, Phase.arrive]
  simp only [Nat.add_right_cancel_iff]
  split <;> rfl

end Arrive

theorem SameCourse.countArrival (s : State) (k n : Nat) : SameCourse s (s.countArrival k n) := SameCourse.setCohort rfl rfl

theorem Quiet.phases {s t : State} (h : Quiet s t) (c : DWord) : (t.cohort c).phases = (s.cohort c).phases :=
  (congrArg Cohort.phases (h.cohorts c) :)

/-- An arrival counts at its phase barrier and gives a scalar. -/
theorem countArrival_advance {s : State} (hl : HasLanes s) (k n m : Nat) (v : DWord) :
    let t := ((s.countArrival k n).onCur fun st => st.putScalar false m v).advance
    t.cur.scalar m = v ∧
      Tab.get {} (t.cohort s.cur.ccb).phases k = (Tab.get {} s.curCohort.phases k).arrive n ∧
      Keeps s t (fun _ => False) (fun i => i = m) s.cur.markScalarWrite.stat := by
  have hquiet := ((SameCourse.countArrival s k n).trans (SameCourse.putScalar _ false m v)).quiet_advance hl
  refine ⟨(hquiet.scalar m).trans (State.scalar_putScalar ..), ?_, ?_⟩
  · have hcounted : ((s.countArrival k n).cohort s.cur.ccb).phases = Tab.put s.curCohort.phases k _ :=
      congrArg Cohort.phases (State.cohort_setCohort_self s s.cur.ccb _)
    rw [hquiet.phases]
    exact (congrArg (fun x => Tab.get {} x k) hcounted).trans ((Tab.get_put ..).trans (if_pos rfl))
  · have hset : Keeps s (s.countArrival k n) (fun _ => False) (fun i => i = m) s.cur.stat :=
      Keeps.setCohort (by rfl) _ _
    exact (hset.trans (Keeps.putScalar ..)).quiet hquiet

section Wait
variable {a : Code} {k : BitVec 3} {s : State} (h : Ready s [⟨.ssrc, a, false⟩])
include h

theorem execPwait_of_same (hsame : (Tab.get {} s.curCohort.phases k.toNat).ph = (s.ssrc a).getLsbD 0) :
    execPwait a k s = .next (s.stallWith 4) := h.run (if_pos hsame)

theorem execPwait_of_other (hother : (Tab.get {} s.curCohort.phases k.toNat).ph ≠ (s.ssrc a).getLsbD 0) :
    execPwait a k s = .next (s.popSources [⟨.ssrc, a, false⟩]).advance := h.run (if_neg hother)

end Wait

end Sys2Proof.Machine

namespace Sys2Proof.Proofs

open Sys2Proof.Machine Sys2Proof.Claims

theorem windowAndYield : WindowAndYield := by
  refine ⟨fun i s => ⟨execWin_of_odd, fun hi hlow hhigh hl => ?win, execWin_of_outside⟩, fun d s hl h => ?winq, fun s hl => ?yield⟩
  case win =>
    obtain ⟨hwb, hkept⟩ := withWindow_advance s ((s.cur.wb : Int) + i.toInt).toNat hl
    exact ⟨_, execWin_of_within hi hlow hhigh, by rw [hwb, Int.toNat_of_nonneg hlow], hkept⟩
  case winq =>
    exact ⟨_, execWinq_of_ready h, (scalarResult_goes [⟨.sdst, d, false⟩] d (BitVec.ofNat 64 s.cur.wb) hl).1⟩
  case yield =>
    have hquiet := (SameCourse.yielding s).quiet_advance hl
    exact ⟨⟨_, execYield_eq s, hquiet.yield.trans (congrArg Strand.yield (State.cur_setCur ..)),
        (onlyGoesOn_yielding s).quiet hquiet⟩,
      _, execNop_eq s, (SameCourse.refl s).goes_advance hl, (Keeps.refl s _ _).quiet (quiet_advance s hl)⟩

theorem barriers : Barriers := by
  refine ⟨fun span s hsup => ?bar, fun d n k s hsup h => ⟨fun hn hl => ?parv, execParv_of_misuse hsup h⟩, fun a k s h =>
    ⟨fun hother hl => ⟨_, execPwait_of_other h hother, ?pwait⟩, execPwait_of_same h⟩⟩
  case bar =>
    cases span with
    | false => exact ⟨barrier_of_clear hsup false, barrier_of_misuse hsup false⟩
    | true => exact ⟨barrier_of_clear hsup true, barrier_of_misuse hsup true⟩
  case parv =>
    obtain ⟨hscalar, hphase, hkept⟩ := countArrival_advance hl k.toNat n.toNat d.toNat
      (if (Tab.get {} s.curCohort.phases k.toNat).ph then 1 else 0)
    refine ⟨_, execParv_of_matching hsup h hn, hscalar, ?_, hkept⟩
    rw [hphase, Phase.arrive]
    split
    · exact ⟨rfl, rfl, rfl⟩
    · exact ⟨rfl, rfl, rfl, rfl⟩
  case pwait =>
    have hcourse := SameCourse.popSources s [⟨.ssrc, a, false⟩]
    exact ⟨hcourse.goes_advance hl, ((popped_popSources s _).keeps _ _).quiet (hcourse.quiet_advance hl)⟩

/-- Settles O14: instructions without fields by what they change, barriers by their two cases, phases by their arrivals. -/
theorem windowAndBarriers : Obligations.WindowAndBarriers := ⟨windowAndYield, barriers⟩

end Sys2Proof.Proofs
end

section
/-! What an engine that reads or writes memory leaves alone (12 R331, R333; 17 R463): it has to do with bytes, error marks, monitors,
caches and translations, and with no strand and no cohort. -/

namespace Sys2Proof.Machine

open Sys2Proof.Claims

/-- The strands and cohorts of a state, and the strand that issues. -/
structure Actors where
  strands : Tab Strand
  cohorts : Tab Cohort
  curKey : Nat

def State.actors (s : State) : Actors := ⟨s.strands, s.cohorts, s.curKey⟩

/-- Only three fields of a state are its actors; `simp` rewrites with this in place of comparing whole states. -/
@[simp] theorem State.actors_mk (local_ host peer strands cohorts spans cores slices monitors marks disp link guard root
    contexts fwRoot ueLocal ueHost uePeer outputs free agenda now stage2At curKey turn reached) :
    State.actors (State.mk local_ host peer strands cohorts spans cores slices monitors marks disp link guard root contexts
      fwRoot ueLocal ueHost uePeer outputs free agenda now stage2At curKey turn reached) = ⟨strands, cohorts, curKey⟩ := by
  unfold State.actors
  rfl

@[simp] theorem State.actors_fold (s : State) : Actors.mk s.strands s.cohorts s.curKey = s.actors := by
  unfold State.actors
  rfl

@[simp] theorem State.actors_ite (c : Prop) [Decidable c] (s t : State) :
    (if c then s else t).actors = if c then s.actors else t.actors :=
  apply_ite State.actors c s t

theorem foldl_actors {α : Type} {f : State → α → State} (h : ∀ s x, (f s x).actors = s.actors) (l : List α) (s : State) :
    (l.foldl f s).actors = s.actors := by
  induction l generalizing s with
  | nil => rfl
  | cons a l ih => exact (ih _).trans (h s a)

/-! ### Bytes, marks and caches -/

section Frame
variable (s : State)

@[simp] theorem State.setCore_actors (c x) : (s.setCore c x).actors = s.actors := by
  simp [State.setCore]

@[simp] theorem State.noteWrite_actors (l a n) : (s.noteWrite l a n).actors = s.actors := by
  simp [State.noteWrite]

@[simp] theorem State.overwrite_actors (peer a n) : (s.overwrite peer a n).actors = s.actors := by
  simp [State.overwrite]

@[simp] theorem State.putQuiet_actors (l a n v) : (s.putQuiet l a n v).actors = s.actors := by
  cases l <;> simp [State.putQuiet]

@[simp] theorem State.putBytes_actors (l a n v) : (s.putBytes l a n v).actors = s.actors := by
  simp [State.putBytes]

@[simp] theorem State.damage_actors (l w) : (s.damage l w).actors = s.actors := by
  cases l <;> simp [State.damage]

@[simp] theorem State.installSlice_actors (pasid va leaf level path) :
    (s.installSlice pasid va leaf level path).actors = s.actors := by
  simp [State.installSlice]

@[simp] theorem State.setAccessed_actors (x addr host dirty) : (s.setAccessed x addr host dirty).1.actors = s.actors := by
  simp only [State.setAccessed, apply_ite Prod.fst, State.actors_ite, State.putBytes_actors, ite_self]

@[simp] theorem State.atsPlace_actors (pasid va p) : (s.atsPlace pasid va p).1.actors = s.actors := by
  unfold State.atsPlace State.atsPage
  dsimp only
  split
  · split
    · rfl
    · simp [State.tick]
  · rfl

/-! ### Accesses of an engine -/

@[simp] theorem State.walkEngine_actors (pasid va dirty) : (s.walkEngine pasid va dirty).actors = s.actors := by
  simp only [State.walkEngine]
  repeat' split
  all_goals simp

@[simp] theorem State.touch_actors (pasid va dirty) : (s.touch pasid va dirty).actors = s.actors := by
  unfold State.touch
  dsimp only
  repeat' split
  all_goals simp

@[simp] theorem State.touchRange_actors (pasid va n) : (s.touchRange pasid va n).actors = s.actors :=
  foldl_actors (fun _ _ => State.touch_actors ..) _ _

@[simp] theorem State.engineWrite_actors (pasid va n v) : (s.engineWrite pasid va n v).actors = s.actors := by
  unfold State.engineWrite
  dsimp only
  split <;> simp

@[simp] theorem State.writeWords_actors (pasid base l) : (s.writeWords pasid base l).actors = s.actors :=
  foldl_actors (fun _ _ => State.engineWrite_actors ..) _ _

@[simp] theorem State.poison_actors (pasid va words) : (s.poison pasid va words).actors = s.actors := by
  refine foldl_actors (fun t w => ?_) _ _
  split
  · exact State.damage_actors ..
  · rfl

@[simp] theorem State.setBin_actors (ccb b x) : (s.setBin ccb b x).actors = s.actors := State.writeWords_actors ..

@[simp] theorem State.dropLines_actors (core p n) : (s.dropLines core p n).actors = s.actors := by
  unfold State.dropLines
  split
  · rfl
  · exact State.setCore_actors ..

end Frame

/-! ### What it means to have the same actors -/

section Same
variable {s t : State} (h : t.actors = s.actors)
include h

theorem strand_of_actors (k : Nat) : t.strand k = s.strand k :=
  congrArg (fun a => Tab.get (Strand.fresh k) a k) (congrArg Actors.strands h)

theorem cohort_of_actors (c : DWord) : t.cohort c = s.cohort c :=
  congrArg (fun a => Tab.get ({ ccb := c } : Cohort) a c.toNat) (congrArg Actors.cohorts h)

theorem curKey_of_actors : t.curKey = s.curKey := congrArg Actors.curKey h

theorem cur_of_actors : t.cur = s.cur := by
  unfold State.cur
  rw [curKey_of_actors h, strand_of_actors h]

theorem sameCourse_of_actors : SameCourse s t := by
  have hcohort : t.curCohort = s.curCohort := by
    unfold State.curCohort
    rw [cur_of_actors h, cohort_of_actors h]
  refine ⟨?_, ?_, ?_, ?_, congrArg Cohort.pmap hcohort, congrArg Cohort.barrier hcohort⟩ <;> rw [cur_of_actors h]

end Same

end Sys2Proof.Machine
end

section
/-! Settles 06 R165, R176 and R177 with 01 R8 and 04 R94. A thread that a split branch ends goes into a bin of spawn memory and leaves
every strand as it is; a strand that forms from a bin, or a line that is filled or evicted, changes one strand. -/

namespace Sys2Proof.Machine

open Sys2Proof.Claims

/-! ### Threads that go into bins (R176) -/

/-- A cohort without the times of its bins. -/
def Cohort.binless (c : Cohort) : Cohort := { c with binOpened := [], binDue := [] }

section Place
variable (s : State) (st : Strand) (pc : Pc) (lane : Nat)

/-- A thread that is placed changes what its cohort knows of its bins, and no strand. -/
theorem placeThread_actors : ∃ x : Cohort, x.binless = (s.cohort st.ccb).binless ∧
    (s.placeThread st pc lane).actors = (s.setCohort st.ccb x).actors := by
  unfold State.placeThread
  dsimp only
  rw [State.setBin_actors, foldl_actors fun _ _ => State.engineWrite_actors .., State.engineWrite_actors]
  refine ⟨_, ?_, rfl⟩
  split
  · split <;> rfl
  · split <;> rfl

theorem SameCourse.placeThread : SameCourse s (s.placeThread st pc lane) := by
  obtain ⟨x, hx, h⟩ := placeThread_actors s st pc lane
  have hset : SameCourse s (s.setCohort st.ccb x) := SameCourse.setCohort (congrArg Cohort.pmap hx :) (congrArg Cohort.barrier hx :)
  exact hset.trans (sameCourse_of_actors h)

theorem cur_placeThread : (s.placeThread st pc lane).cur = s.cur := by
  obtain ⟨x, -, h⟩ := placeThread_actors s st pc lane
  exact cur_of_actors (s := s.setCohort st.ccb x) h

end Place

/-- A state in which the threads of some lanes have been placed. -/
def State.placeThreads (s : State) (st : Strand) (pc : Pc) (lanes : List Nat) : State :=
  lanes.foldl (fun s l => s.placeThread st pc l) s

theorem placeThreads_keeps (s : State) (st : Strand) (pc : Pc) (lanes : List Nat) :
    SameCourse s (s.placeThreads st pc lanes) ∧ (s.placeThreads st pc lanes).cur = s.cur :=
  List.foldlRecOn (motive := fun t => SameCourse s t ∧ t.cur = s.cur) _ _ ⟨SameCourse.refl s, rfl⟩
    fun t ⟨hcourse, hcur⟩ l _ => ⟨hcourse.trans (SameCourse.placeThread t st pc l), (cur_placeThread t st pc l).trans hcur⟩

/-! ### Split branches (R165) -/

/-- The lanes that a branch does not take. -/
def State.untaken (s : State) (a : Code) : Mask := lanes s &&& ~~~ taken s false a

/-- Where the smaller side of a split branch is sent, its lanes, and the side that stays. -/
def State.sides (s : State) (a : Code) (o : BitVec 16) : Pc × Mask × Pc × Mask :=
  if decide (laneCount (taken s false a) ≤ laneCount (s.untaken a)) then
    (place s + BitVec.ofInt 48 (4 * o.toInt), taken s false a, (place s + 4, s.untaken a))
  else (place s + 4, s.untaken a, (place s + BitVec.ofInt 48 (4 * o.toInt), taken s false a))

/-- The side that a split keeps has a lane. -/
theorem someGoes_sides {s : State} {a : Code} {o : BitVec 16} {endPc : Pc} {ends : Mask} {stay : Pc × Mask}
    (hsides : s.sides a o = (endPc, ends, stay)) (ht : taken s false a ≠ 0) (hf : s.untaken a ≠ 0) : SomeGoes [stay] := by
  have hlane : stay.2 ≠ 0 := by
    unfold State.sides at hsides
    split at hsides
    · cases hsides
      exact hf
    · cases hsides
      exact ht
  simpa [SomeGoes] using hlane

/-- A split leaves the strand with the side that stays. -/
theorem settle_placeThreads {s : State} (hl : HasLanes s) (us : List Use) (endPc : Pc) (lanes : List Nat) {outs : List (Pc × Mask)}
    (hgo : SomeGoes outs) : let t := ((s.popSources us).placeThreads s.cur endPc lanes).settle outs []
    Goes s t outs ∧ SameRegisters s.cur t.cur (fun _ => False) (fun _ => False) s.cur.stat := by
  have hpopped := popped_popSources s us
  obtain ⟨hplaced, hcur⟩ := placeThreads_keeps (s.popSources us) s.cur endPc lanes
  have hcourse := hpopped.course.trans hplaced
  refine ⟨hcourse.goes_settle hl hgo, ?_⟩
  have hquiet := hcourse.quiet_settle hl hgo
  have hown : SameRegisters s.cur ((s.popSources us).placeThreads s.cur endPc lanes).cur (fun _ => False) (fun _ => False)
      s.cur.stat := by
    rw [hcur]
    exact (hpopped.keeps (fun _ => False) (fun _ => False)).own
  have hends := hown.trans (sameRegisters_of_still hquiet.cur _ _)
  rwa [hown.stat] at hends

theorem execBrs_of_supervisor {s : State} {a : Code} {o : BitVec 16} (hsup : s.cur.sup = true) :
    execBrs a o s = .next (s.raiseAll .illegalOpcode) := by
  unfold execBrs State.notSupervisor
  rw [hsup]
  exact runPointWith_of_bad ..

theorem execBr_of_ready {s : State} {a : Code} {o : BitVec 16} (hc : Unchecked s) (h : Ready s [⟨.vsrc, a, false⟩]) :
    execBr a o s = .next (s.branchOn [⟨.vsrc, a, false⟩] false false a o) :=
  h.runCompare hc rfl

section Split
variable {s : State} {a : Code} {o : BitVec 16} (hc : Unchecked s) (hsup : s.cur.sup = false) (h : Ready s [⟨.vsrc, a, false⟩])
include hc hsup h

theorem execBrs_of_whole (hwhole : taken s false a = 0 ∨ s.untaken a = 0 ∨ (candidate s.cur).prio = 0xFFFF) :
    execBrs a o s = .next (s.branchOn [⟨.vsrc, a, false⟩] false false a o) := by
  unfold execBrs State.notSupervisor
  rw [hsup]
  refine h.runCompare hc ?_
  dsimp only
  rw [State.condition_eq_taken hc]
  exact if_pos (hwhole.imp id (Or.imp id .inr))

variable (hsplit : ¬ (taken s false a = 0 ∨ s.untaken a = 0 ∨ (candidate s.cur).prio = 0xFFFF))
include hsplit

theorem execBrs_of_beyond (hlines : s.cur.nlines < s.cur.wb + 16) : execBrs a o s = .next (s.raiseAll .windowOverflow) := by
  unfold execBrs State.notSupervisor
  rw [hsup]
  refine h.runCompare hc ?_
  dsimp only
  rw [State.condition_eq_taken hc, hc.shadow]
  exact (if_neg (by simpa [State.untaken, lanes] using hsplit)).trans (if_pos hlines)

variable (hu : Untraced s) (hlines : s.cur.wb + 16 ≤ s.cur.nlines)
  (hready : s.operandWait [] ((List.range 16).map fun m => s.cur.wb + m) false = none)
  {endPc : Pc} {ends : Mask} {stay : Pc × Mask} (hsides : s.sides a o = (endPc, ends, stay))
include hu hlines hready hsides

/-- The smaller side of a split goes into bins if they have room for it (R165, R176). -/
theorem execBrs_of_split : execBrs a o s = .next (if s.binRoom s.curCohort endPc < laneCount ends then s.raiseAllAt .gatherFull 0
    else ((s.popSources [⟨.vsrc, a, false⟩]).placeThreads s.cur endPc (lanesOf ends)).settle [stay] []) := by
  unfold execBrs State.notSupervisor
  rw [hsup]
  refine h.runCompare hc ?_
  dsimp only
  rw [State.condition_eq_taken hc, hc.shadow, hready]
  refine (if_neg (by simpa [State.untaken, lanes] using hsplit)).trans ((if_neg hlines.not_gt).trans ?_)
  dsimp only
  rw [State.flow_of_untraced hu, ite_self]
  change (if s.binRoom s.curCohort (s.sides a o).1 < laneCount (s.sides a o).2.1 then s.raiseAllAt .gatherFull 0
    else ((s.popSources [⟨.vsrc, a, false⟩]).placeThreads s.cur (s.sides a o).1 (lanesOf (s.sides a o).2.1)).settle
      [(s.sides a o).2.2] []) = _
  rw [hsides]

theorem execBrs_by_room (hl : HasLanes s) :
    (s.binRoom s.curCohort endPc < laneCount ends → execBrs a o s = .next (s.raiseAllAt .gatherFull 0)) ∧
    (laneCount ends ≤ s.binRoom s.curCohort endPc → ∃ t, execBrs a o s = .next t ∧ Goes s t [stay] ∧
      SameRegisters s.cur t.cur (fun _ => False) (fun _ => False) s.cur.stat) := by
  obtain ⟨ht, hrest⟩ := not_or.1 hsplit
  obtain ⟨hf, -⟩ := not_or.1 hrest
  rw [execBrs_of_split hc hsup h hsplit hu hlines hready hsides]
  exact ⟨fun hroom => congrArg _ (if_pos hroom), fun hroom => ⟨_, congrArg _ (if_neg hroom.not_gt),
    settle_placeThreads hl _ endPc _ (someGoes_sides hsides ht hf)⟩⟩

end Split

/-! ### Bins that are due (R177) -/

theorem execBinAgeExpiry_of_aged (s : State) (ccb b : Nat) :
    let key : DWord := BitVec.ofNat 64 ccb
    let c := s.cohort key
    s.resident key = true → (s.bin c b).open_ = true → b < 32 → 1024 ≤ s.now - Tab.get s.now c.binOpened b →
    execBinAgeExpiry ccb b s =
      .next (s.setCohort key { c with binDue := Tab.put c.binDue b (Tab.get s.now c.binOpened b + 1024) }) := by
  intro key c hresident hopen hb hage
  have haged : s.binAgedAt c b = some (Tab.get s.now c.binOpened b + 1024) := if_pos (by simp [hopen, hage])
  unfold execBinAgeExpiry
  dsimp only
  rw [haged]
  exact if_pos (by simp [hopen, hb, hresident, key, c])

theorem quiet_unarrive (s : State) (ccb : DWord) : Quiet s (s.unarrive ccb) := by
  unfold State.unarrive
  dsimp only
  split
  · exact Quiet.cohortSpans _ _ _ _ rfl
  · exact Quiet.refl s

theorem slotStrand_of_actors {s t : State} (h : t.actors = s.actors) (c : Cohort) (k : Nat) : t.slotStrand c k = s.slotStrand c k := by
  unfold State.slotStrand
  split
  · exact strand_of_actors h _
  · rfl

/-- The strand that forms from bin b of a cohort, in slot k (R177). -/
def State.gathered (s : State) (c : Cohort) (base : DWord) (b k : Nat) : Strand :=
  let x := s.bin c b
  let mask : Mask := BitVec.ofNat 64 (2 ^ x.count - 1)
  let n := c.startStrand (s.slotStrand c k) k (BitVec.ofNat 48 (x.pc.toNat / 4 * 4)) mask
  n.setLines (min 16 n.nlines) fun m => mergeLine zeroLine mask
    (laneOf (natLine ((s.engineRead c.pasid (binBase base b + 0x100 + 0x100 * m) 256).getD 0)))

/-- A state in which that strand has started and the bin is free. -/
def State.formation (s : State) (c : Cohort) (base : DWord) (b k : Nat) : State :=
  ((s.setCohort base { c with binDue := Tab.del c.binDue b, binOpened := Tab.del c.binOpened b }).startIn base
    (s.gathered c base b k)).setBin base b { s.bin c b with count := 0, open_ := false, closed := false }

section Gathered
variable (s : State) (c : Cohort) (base : DWord) (b k : Nat)

theorem State.gathered_key : (s.gathered c base b k).key = (s.slotStrand c k).key :=
  (congrArg Strand.key (Strand.setLines_lineless ..) :)

theorem State.gathered_frontier : (s.gathered c base b k).frontier.map (fun e => (e.pc, e.mask)) =
    [(BitVec.ofNat 48 ((s.bin c b).pc.toNat / 4 * 4), BitVec.ofNat 64 (2 ^ (s.bin c b).count - 1))] :=
  (congrArg (fun st => List.map (fun e : Entry => (e.pc, e.mask)) (Strand.frontier st)) (Strand.setLines_lineless ..) :)

theorem State.startState_gathered : StartState c k (s.gathered c base b k) := startState_setLines (startState_startStrand ..) _ _

theorem State.scalar_gathered : (s.gathered c base b k).scalar 4 = BitVec.ofNat 64 k := scalar_startStrand_setLines ..

theorem State.strand_formation : (s.formation c base b k).strand (s.gathered c base b k).key = s.gathered c base b k :=
  (strand_of_actors (State.setBin_actors ..) _).trans (State.strand_startIn ..)

/-- Its cohort counts neither the age of the bin nor a time when it was due. -/
theorem State.cohort_formation : ((s.formation c base b k).cohort base).binDue = Tab.del c.binDue b ∧
    ((s.formation c base b k).cohort base).binOpened = Tab.del c.binOpened b := by
  let x : Cohort := { c with binDue := Tab.del c.binDue b, binOpened := Tab.del c.binOpened b }
  let t := (s.setCohort base x).setStrand (s.gathered c base b k).key (s.gathered c base b k)
  have hset : t.cohort base = x := State.cohort_setCohort_self ..
  have hbin : (s.formation c base b k).cohort base = (t.unarrive base).cohort base := cohort_of_actors (State.setBin_actors ..) base
  have hstill : ((s.formation c base b k).cohort base).still = x.still := by
    rw [hbin, (quiet_unarrive t base).cohorts, hset]
  exact ⟨(congrArg Cohort.binDue hstill :), (congrArg Cohort.binOpened hstill :)⟩

end Gathered

theorem execGatherFormation_of_due (s : State) (ccb b k : Nat) :
    let key : DWord := BitVec.ofNat 64 ccb
    let c := s.cohort key
    s.resident key = true → c.dead = false → c.halted = false → s.dueBin c = some b → s.freeSlot c = some k →
    (s.rangeFaults c.pasid (binBase key b) 0x1100).2 = false →
    execGatherFormation ccb s = .next ((s.touchRange c.pasid (binBase key b) 0x1100).formation c key b k) := by
  intro key c hresident hdead hhalted hdue hfree hsound
  have hforms : (!s.resident key || c.dead || c.halted) = false := by rw [hresident, hdead, hhalted]; rfl
  have hunmarked : ¬ (s.rangeFaults c.pasid (binBase key b) 0x1100).2 = true := by rw [hsound]; exact Bool.false_ne_true
  unfold execGatherFormation
  rw [if_neg (Bool.eq_false_iff.1 hforms), hdue, hfree]
  exact if_neg hunmarked

/-! ### Lines that come and go (01 R8) -/

section Line
variable (s : State) (key n : Nat)

theorem execLineFill_of_absent :
    let st := s.strand key
    let pasid := (s.cohort st.ccb).pasid
    let a := st.cib.toNat + 0x1000 + 0x100 * n
    n < st.nlines → s.rangeFaults pasid a 256 = (false, false) → st.absent.getLsbD n = true →
    execLineFill key n s = .next ((s.touchRange pasid a 256).setStrand key { st with
      vec := Tab.set zeroLine st.vec n (natLine ((s.engineRead pasid a 256).getD 0)), absent := setBit st.absent n false }) := by
  intro st pasid a hn hsound habsent
  have hfills : (!st.absent.getLsbD n || decide (st.nlines ≤ n)) = false := by simp [habsent, hn]
  unfold execLineFill
  rw [if_neg (Bool.eq_false_iff.1 hfills), hsound]
  rfl

/-- A state in which line n of a strand has been written to its image. -/
def State.evicting (s : State) (key n : Nat) : State :=
  let st := s.strand key
  let pasid := (s.cohort st.ccb).pasid
  let a := st.cib.toNat + 0x1000 + 0x100 * n
  ((s.engineWrite pasid a 256 (lineNat (st.line n))).dropLines st.core (s.engineAddr pasid a) 256).poisonLine key n

theorem State.line_poisonLine (m : Nat) : ((s.poisonLine key n).strand key).line m = (s.strand key).line m := by
  unfold State.poisonLine
  dsimp only
  split
  · rfl
  · rw [State.strand_setStrand_self]
    rfl

theorem State.line_evicting (m : Nat) : ((s.evicting key n).strand key).line m = (s.strand key).line m := by
  refine (State.line_poisonLine ..).trans (congrArg (fun st => Strand.line st m) (strand_of_actors ?_ key))
  rw [State.dropLines_actors, State.engineWrite_actors]

theorem execLineEvict_of_resident :
    let st := s.strand key
    let pasid := (s.cohort st.ccb).pasid
    let a := st.cib.toNat + 0x1000 + 0x100 * n
    n < st.nlines → s.rangeFaults pasid a 256 = (false, false) →
    st.sup = false → st.absent.getLsbD n = false → st.vFull.getLsbD n = true → st.floatBusy [n] false = false →
      st.lateIn s.now [n] = false → n ∉ s.busyLines st → s.resident st.ccb = true →
    execLineEvict key n s = .next ((s.evicting key n).setStrand key
      { (s.evicting key n).strand key with absent := setBit st.absent n true }) := by
  intro st pasid a hn hsound hsup habsent hfull hfloats hlate hbusy hresident
  have hfree : (st.sup || st.absent.getLsbD n || !st.vFull.getLsbD n || st.floatBusy [n] false || (s.busyLines st).contains n
      || decide (st.nlines ≤ n) || !s.resident st.ccb || st.lateIn s.now [n]) = false := by
    simp [hsup, habsent, hfull, hfloats, hlate, hbusy, hresident, hn]
  unfold execLineEvict
  rw [if_neg (Bool.eq_false_iff.1 hfree), hsound]
  rfl

end Line

end Sys2Proof.Machine

namespace Sys2Proof.Proofs

open Sys2Proof.Machine Sys2Proof.Claims

/-- Settles O33: a split by its two sides, the rest by what each event writes. -/
theorem gatherUnit : Obligations.GatherUnit := by
  refine ⟨fun a o s hl hc hu h => ?brs, ?due, ?gather, ?line⟩
  case brs =>
    intro t1 t2
    refine ⟨fun hsup => ?_, fun hsup hwhole => ?_, fun hsup ht hf hprio => ⟨?_, fun hlines hready => ?_⟩⟩
    · exact execBrs_of_supervisor hsup
    · exact (execBrs_of_whole hc hsup h hwhole).trans (execBr_of_ready hc h).symm
    · exact execBrs_of_beyond hc hsup h (not_or.2 ⟨ht, not_or.2 ⟨hf, hprio⟩⟩)
    · exact execBrs_by_room hc hsup h (not_or.2 ⟨ht, not_or.2 ⟨hf, hprio⟩⟩) hu hlines hready rfl hl
  case due =>
    intro s ccb b key c hresident hopen hclosed hb opened hage
    refine ⟨_, execBinAgeExpiry_of_aged s ccb b hresident hopen hb hage, ?_, SameMemory.setCohort _ _ _ rfl⟩
    rw [State.cohort_setCohort_self, Tab.get_put, if_pos rfl]
  case gather =>
    intro s ccb b k key c hresident hdead hhalted hdue hfree hsound bin
    let u := s.touchRange c.pasid (binBase key b) 0x1100
    have hkey : (u.gathered c key b k).key = (s.slotStrand c k).key := by
      rw [State.gathered_key, slotStrand_of_actors (State.touchRange_actors ..)]
    rw [← hkey]
    exact ⟨_, _, execGatherFormation_of_due s ccb b k hresident hdead hhalted hdue hfree hsound, u.strand_formation c key b k,
      u.startState_gathered c key b k, u.gathered_frontier c key b k, u.scalar_gathered c key b k, u.cohort_formation c key b k⟩
  case line =>
    intro s key n st pasid a hn hsize hsound
    refine ⟨fun habsent => ⟨_, execLineFill_of_absent s key n hn hsound habsent, ?_, ?_, SameMemory.setStrand _ _ _⟩,
      fun hsup habsent hfull hfloats hlate hbusy hresident =>
        ⟨_, execLineEvict_of_resident s key n hn hsound hsup habsent hfull hfloats hlate hbusy hresident, ?_, fun m => ?_⟩⟩
    · rw [State.strand_setStrand_self]
      exact getLsbD_setBit_false _ _
    · rw [State.strand_setStrand_self]
      exact (Tab.get_set ..).trans (if_pos rfl)
    · rw [State.strand_setStrand_self]
      exact (getLsbD_setBit_true _ _ _ hsize).trans (by simp)
    · rw [State.strand_setStrand_self]
      exact s.line_evicting key n m

end Sys2Proof.Proofs
end

section
/-! Settles 08 R226 to R235. The element-wise instructions have four shapes: two sources, two sources and D, one source, one source and an
immediate. Each shape has one lemma for what it does when it is ready; a table's row is its shape with the row's formula. -/

namespace Sys2Proof.Machine

open Sys2Proof.Claims

/-! ### Vector destinations -/

theorem SameCourse.writeV (s : State) (d : Code) (late : Bool) (f : Nat → Word) : SameCourse s (s.writeV d late f) := by
  unfold State.writeV
  dsimp only
  split
  · cases late
    · exact SameCourse.setCur rfl rfl rfl rfl
    · exact SameCourse.setCur rfl rfl rfl rfl
  · exact SameCourse.pushQueue ..

/-- A ready vector instruction gives D its values, and its lanes go on to the next word (R227). -/
theorem vectorResult_goes {s : State} (us : List Use) (d : Code) (f : Nat → Word) (hl : HasLanes s) :
    VectorResult s ((s.popSources us).writeV d (popsInto us) f).advance us d f ∧
      Goes s ((s.popSources us).writeV d (popsInto us) f).advance [(place s + 4, lanes s)] :=
  ⟨vectorResult_writeV s us d f hl, ((SameCourse.popSources s us).trans (SameCourse.writeV ..)).goes_advance hl⟩

/-! ### The shapes of the element-wise instructions -/

/-- A ready instruction of a vector engine ends as its effect does, outside clone mode. -/
theorem Ready.runVec {s t : State} {us : List Use} {extra : List Nat} {n : Nat} {k : State → State} (h : Ready s us extra)
    (hchk : s.cur.chk ≠ 1) (hk : k s = t) : runVec s n us extra false false k = .next t :=
  (runVec_of_ready h hchk n k).trans (congrArg _ hk)

section Shapes
variable {s : State} (hl : HasLanes s) (hchk : s.cur.chk ≠ 1) {e g : Bool} {d a b : Code}
include hl hchk

theorem vecBin_of_ready (f : Word → Word → Word → Word) (h : Ready s (usesV e g d a b)) : ∃ t, vecBin f e g d a b s = .next t ∧
    VectorResult s t (usesV e g d a b) d (fun l => f (laneOf (s.vsrc a) l) (laneOf (s.vsrc b) l) 0) ∧
    Goes s t [(place s + 4, lanes s)] :=
  ⟨_, h.runVec hchk rfl, vectorResult_goes (usesV e g d a b) d _ hl⟩

theorem vecMod_of_ready (f : Word → Word → Word → Word) (h : Ready s (usesM e g d a b)) : ∃ t, vecMod f e g d a b s = .next t ∧
    VectorResult s t (usesM e g d a b) d (fun l => f (laneOf (s.vsrc a) l) (laneOf (s.vsrc b) l) (laneOf (s.vsrc d) l)) :=
  ⟨_, h.runVec hchk rfl, vectorResult_writeV s (usesM e g d a b) d _ hl⟩

theorem vecUn_of_ready (f : Word → Word) (h : Ready s (usesU e d a)) : ∃ t, vecUn f e d a s = .next t ∧
    VectorResult s t (usesU e d a) d (fun l => f (laneOf (s.vsrc a) l)) :=
  ⟨_, h.runVec hchk rfl, vectorResult_writeV s (usesU e d a) d _ hl⟩

theorem vecImm_of_ready (f : Word → Word → Word) (imm : Word) (h : Ready s (usesU false d a)) :
    ∃ t, vecImm f false imm d a s = .next t ∧
      VectorResult s t (usesU false d a) d (fun l => f (laneOf (s.vsrc a) l) imm) :=
  ⟨_, h.runVec hchk rfl, vectorResult_writeV s (usesU false d a) d _ hl⟩

end Shapes

theorem vecImm_of_bad {s : State} (hchk : s.cur.chk ≠ 1) {d a : Code} (f : Word → Word → Word) (imm : Word) :
    vecImm f true imm d a s = .next (s.raiseAll .illegalOpcode) := by
  unfold vecImm
  exact (runVec_of_chk_ne_one hchk ..).trans (run_of_bad ..)

/-! ### The formulas of the tables -/

theorem truth_decide {n : Nat} (p : Prop) [Decidable p] : (truth (decide p) : BitVec n) = if p then 1 else 0 := by
  simp [truth]

/-- An extracted field has no more bits than its width, so it is its own low word. -/
theorem toNat_laneVbfeu (a b d : Word) : (laneVbfeu a b d).toNat = a.toNat / 2 ^ count5 b % 2 ^ fieldWidth b := by
  have hwidth : 2 ^ fieldWidth b ≤ 2 ^ 32 := Nat.pow_le_pow_right (by decide) (Nat.min_le_right ..)
  have hfield : a.toNat / 2 ^ count5 b % 2 ^ fieldWidth b < 2 ^ fieldWidth b := Nat.mod_lt _ (Nat.two_pow_pos _)
  rw [laneVbfeu, BitVec.toNat_ofNat, Nat.mod_eq_of_lt (hfield.trans_le hwidth)]

theorem laneVbfes_eq_signedField (a b d : Word) : laneVbfes a b d = signedField a (count5 b) (fieldWidth b) := by
  rw [laneVbfes, signedField, toNat_laneVbfeu]

/-- A count below 32 is itself, of the 5 bits that a shift looks at. -/
theorem count5_zeroExtend {i : BitVec 9} (h : i.toNat < 32) : count5 (i.zeroExtend 32) = i.toNat := by
  rw [count5, BitVec.toNat_setWidth]
  omega

/-! ### The rows of the tables -/

section Rows
variable (e g : Bool) (d a b : Code) (s : State)

/-- The comparisons are the last five rows. -/
theorem exec_eq_vecBin_of_mem_vectorTable {p} (hp : p ∈ vectorTable) :
    ∃ f, exec (p.1 e g d a b) s = vecBin f e g d a b s ∧ ∀ x y, f x y 0 = p.2 x y := by
  unfold vectorTable at hp
  fin_cases hp
  iterate 22 exact ⟨_, rfl, fun _ _ => rfl⟩
  all_goals exact ⟨_, rfl, fun _ _ => truth_decide _⟩

theorem exec_of_mem_readModifyTable {p} (hp : p ∈ readModifyTable) : exec (p.1 e g d a b) s = vecMod p.2 e g d a b s := by
  unfold readModifyTable at hp
  fin_cases hp
  all_goals rfl

theorem exec_of_mem_unaryTable {p} (hp : p ∈ unaryTable) : exec (p.1 e d a) s = vecUn p.2 e d a s := by
  unfold unaryTable at hp
  fin_cases hp
  all_goals rfl

/-- An immediate form computes a function of A and of its sign-extended immediate (R234). -/
theorem exec_of_mem_immediateTable {p} (hp : p ∈ immediateTable) (i : BitVec 9) : ∃ f : Word → Word → Word,
    exec (p.1 d a i) s = vecImm f false (i.signExtend 32) d a s ∧ ∀ x, f x (i.signExtend 32) = p.2 x i := by
  unfold immediateTable at hp
  fin_cases hp
  exacts [⟨fun x y => laneVadd x y 0, rfl, fun _ => rfl⟩, ⟨fun x y => laneVmullo x y 0, rfl, fun _ => rfl⟩,
    ⟨fun x y => laneVand x y 0, rfl, fun _ => rfl⟩, ⟨fun x y => laneVor x y 0, rfl, fun _ => rfl⟩,
    ⟨fun x y => laneVxor x y 0, rfl, fun _ => rfl⟩, ⟨fun x y => laneVcmpeq x y 0, rfl, fun _ => truth_decide _⟩,
    ⟨fun x y => laneVcmplts x y 0, rfl, fun _ => truth_decide _⟩, ⟨fun x y => laneVcmpltu x y 0, rfl, fun _ => truth_decide _⟩]

/-- An immediate shift is the shift by B with the immediate in its place (R234). -/
theorem exec_of_mem_immediateShiftTable {p} (hp : p ∈ immediateShiftTable) (i : BitVec 9) :
    exec (p.1 d a i) s = vecImm (fun x n => p.2 x (count5 n)) (shiftTooLong i 32) (i.zeroExtend 32) d a s := by
  unfold immediateShiftTable at hp
  fin_cases hp
  all_goals rfl

end Rows

end Sys2Proof.Machine

namespace Sys2Proof.Proofs

open Sys2Proof.Machine Sys2Proof.Claims

/-- Settles O1: a row is the shape of two sources with its formula. -/
theorem vectorIntegerResult : Obligations.VectorIntegerResult := by
  intro p hp e g d a b s hl hchk hready
  obtain ⟨f, hexec, hf⟩ := exec_eq_vecBin_of_mem_vectorTable e g d a b s hp
  rw [hexec]
  simp only [← hf]
  exact vecBin_of_ready hl hchk f hready

theorem vectorReadModifyResult : VectorReadModifyResult := by
  refine ⟨fun p hp e g d a b s hl hchk hready => ?table, fun e g d a b s hl hchk hready => ?extract⟩
  case table =>
    rw [exec_of_mem_readModifyTable e g d a b s hp]
    exact vecMod_of_ready hl hchk p.2 hready
  case extract =>
    obtain ⟨t, hnext, hresult, -⟩ := vecBin_of_ready hl hchk laneVbfes hready
    simp only [laneVbfes_eq_signedField] at hresult
    exact ⟨t, hnext, hresult⟩

theorem vectorUnaryResult : VectorUnaryResult := by
  intro p hp e d a s hl hchk hready
  rw [exec_of_mem_unaryTable e d a s hp]
  exact vecUn_of_ready hl hchk p.2 hready

theorem vectorImmediateResult : VectorImmediateResult := by
  refine ⟨fun p hp d a i s hl hchk hready => ?table, fun p hp d a i s hchk => ?shift⟩
  case table =>
    obtain ⟨f, hexec, hf⟩ := exec_of_mem_immediateTable d a s hp i
    rw [hexec]
    simp only [← hf]
    exact vecImm_of_ready hl hchk f _ hready
  case shift =>
    rw [exec_of_mem_immediateShiftTable d a s hp i]
    refine ⟨fun hi hl hready => ?_, fun hi => ?_⟩
    · have hcount : shiftTooLong i 32 = false := decide_eq_false hi.not_ge
      rw [hcount, ← count5_zeroExtend hi]
      exact vecImm_of_ready hl hchk (fun x n => p.2 x (count5 n)) _ hready
    · have hcount : shiftTooLong i 32 = true := decide_eq_true hi
      rw [hcount]
      exact vecImm_of_bad hchk _ _

/-- Settles O2: a row is its shape with its formula; an immediate count that is too long raises before anything is read. -/
theorem vectorOtherForms : Obligations.VectorOtherForms :=
  ⟨vectorReadModifyResult, vectorUnaryResult, vectorImmediateResult⟩

end Sys2Proof.Proofs
end

section
/-! Settles 08 R236 to R242. What travels across lanes lands in a line that dependents wait for, in a line or a scalar that a producer
fills, or in a queue (R229). Outside shadow mode nothing is compared and a strand has 64 lanes. -/

namespace Sys2Proof.Machine

open Sys2Proof.Claims

/-! ### What is kept, with more lines named -/

theorem SameRegisters.mono {a b : Strand} {L L' S : Nat → Prop} {x : DWord} (h : SameRegisters a b L S x)
    (hL : ∀ n, L n → L' n) : SameRegisters a b L' S x :=
  { h with lines := fun n hn => h.lines n fun hl => hn (hL n hl) }

theorem Keeps.mono {s t : State} {L L' S : Nat → Prop} {x : DWord} (h : Keeps s t L S x) (hL : ∀ n, L n → L' n) :
    Keeps s t L' S x :=
  { h with own := h.own.mono hL }

theorem Quiet.line {s t : State} (h : Quiet s t) (n : Nat) : t.cur.line n = s.cur.line n :=
  (congrArg (fun st => Strand.line st n) h.cur :)

/-! ### Two writes of one place -/

theorem Tab.put_put {α : Type} (t : Tab α) (x : Nat) (v w : α) : Tab.put (Tab.put t x v) x w = Tab.put t x w := by
  induction t with
  | nil => simp [Tab.put]
  | cons h t ih =>
    obtain ⟨k, u⟩ := h
    by_cases hlt : x < k
    · simp [Tab.put, hlt]
    · by_cases heq : x = k
      · simp [Tab.put, heq]
      · simp [Tab.put, hlt, heq, ih]

/-- The last value of the issuing strand stands. -/
@[simp] theorem State.setCur_setCur (s : State) (x y : Strand) : (s.setCur x).setCur y = s.setCur y :=
  congrArg (fun t => { s with strands := t }) (Tab.put_put s.strands s.curKey x y)

/-! ### A line that lands after its issue (R229) -/

/-- Lanes of a line are written, and dependents wait for it. -/
def Strand.landLine (st : Strand) (now n : Nat) (m : Mask) (f : Nat → Word) : Strand := (st.writeLanes n m f).delay now n

/-- The producer of the lanes m of a line. -/
def lineProducer (n : Nat) (m : Mask) (f : Nat → Word) : Producer := { lines := [(n, m, mergeLine zeroLine m f)] }

/-- A line is emptied until a producer fills the lanes of the entry (04 R99). -/
def Strand.awaitLine (st : Strand) (n : Nat) (f : Nat → Word) : Strand :=
  { st.emptyLine n with producers := st.producers ++ [lineProducer n (candidate st).mask f] }

section Lines
variable (s : State) (n : Nat) (f : Nat → Word)

theorem SameCourse.landLine (m : Mask) : SameCourse s (s.onCur fun st => st.landLine s.now n m f) :=
  SameCourse.setCur rfl rfl rfl rfl

theorem SameCourse.awaitLine : SameCourse s (s.onCur fun st => st.awaitLine n f) := SameCourse.setCur rfl rfl rfl rfl

theorem State.line_landLine (m : Mask) (k : Nat) : (s.onCur fun st => st.landLine s.now n m f).cur.line k =
    if k = n then mergeLine (s.cur.line n) m f else s.cur.line k := by
  rw [State.onCur, State.cur_setCur]
  exact Strand.line_writeLanes ..

/-- Nothing but the line changes. -/
theorem Keeps.landLine (m : Mask) :
    Keeps s (s.onCur fun st => st.landLine s.now n m f) (fun k => k = n) (fun _ => False) s.cur.stat := by
  refine Keeps.setCur ⟨fun k hk => ?_, fun _ _ => rfl, rfl, rfl, rfl, rfl, rfl, rfl, rfl, rfl, rfl⟩
  exact (Strand.line_writeLanes ..).trans (if_neg hk)

theorem Keeps.awaitLine (L : Nat → Prop) : Keeps s (s.onCur fun st => st.awaitLine n f) L (fun _ => False) s.cur.stat :=
  Keeps.setCur ⟨fun _ _ => rfl, fun _ _ => rfl, rfl, rfl, rfl, rfl, rfl, rfl, rfl, rfl, rfl⟩

variable {s}

/-- Lanes of one line are written whatever the entry's mask, and the issue ends. -/
theorem landLine_advance (hl : HasLanes s) (m : Mask) : let t := (s.onCur fun st => st.landLine s.now n m f).advance
    (∀ l, l < 64 → laneOf (t.cur.line n) l = if m.getLsbD l then f l else laneOf (s.cur.line n) l) ∧
      Keeps s t (fun k => k = n) (fun _ => False) s.cur.stat := by
  have hquiet := (SameCourse.landLine s n f m).quiet_advance hl
  refine ⟨fun l hl64 => ?_, (Keeps.landLine s n f m).quiet hquiet⟩
  rw [hquiet.line, State.line_landLine, if_pos rfl, laneOf_mergeLine _ _ _ _ hl64]

end Lines

section Across
variable (s : State) (d : Code) (f : Nat → Word)

theorem State.writeAcross_of_now (hd : d.toNat < 0x60) :
    s.writeAcross d false f = s.onCur fun st => st.landLine s.now (s.cur.wb + d.toNat) (candidate s.cur).mask f := by
  have hwrite : s.writeV d false f = s.setCur (s.cur.writeLanes (s.cur.wb + d.toNat) (candidate s.cur).mask f) := if_pos hd
  rw [State.writeAcross, if_pos ⟨hd, rfl⟩, hwrite, State.onCur, State.cur_setCur, State.setCur_setCur]
  rfl

theorem State.writeAcross_of_late (hd : d.toNat < 0x60) :
    s.writeAcross d true f = s.onCur fun st => st.awaitLine (s.cur.wb + d.toNat) f := by
  rw [State.writeAcross, if_neg (by simp)]
  exact if_pos hd

theorem State.writeAcross_of_not_now (late : Bool) (h : ¬ (d.toNat < 0x60 ∧ late = false)) :
    s.writeAcross d late f = s.writeV d late f := if_neg h

end Across

/-- A vector destination of a result that travels across lanes holds what any other vector result gives it (R229). -/
theorem vectorResult_writeAcross (s : State) (us : List Use) (d : Code) (f : Nat → Word) (hl : HasLanes s) :
    VectorResult s ((s.popSources us).writeAcross d (popsInto us) f).advance us d f := by
  by_cases hnow : d.toNat < 0x60 ∧ popsInto us = false
  · obtain ⟨hd, hpops⟩ := hnow
    obtain ⟨hlanes, hkeeps⟩ := landLine_advance (s.cur.wb + d.toNat) f hl (candidate s.cur).mask
    rw [hpops, popSources_of_none s us hpops, State.writeAcross_of_now s d f hd]
    exact ⟨fun _ _ => hlanes, fun _ hlate => absurd hlate (by simp [hpops]), fun hn => absurd hd hn,
      hkeeps.mono fun _ hn => ⟨hd, hpops, hn⟩⟩
  · rw [State.writeAcross_of_not_now _ _ _ _ hnow]
    exact vectorResult_writeV s us d f hl

/-! ### Outside shadow mode (R242) -/

section Unshadowed
variable {s : State} (hchk : s.cur.chk = 0)
include hchk

theorem shadow_of_chk_zero : s.cur.shadow = false := by simp [Strand.shadow, hchk]

theorem threads_of_chk_zero : s.cur.threads = 64 := by simp [Strand.threads_eq, hchk]

theorem chk_ne_one_of_chk_zero : s.cur.chk ≠ 1 := by simp [hchk]

theorem State.comparePoint_of_chk_zero (same : Bool) (k : State → State) : s.comparePoint same k = k s := by
  simp [State.comparePoint, State.shadowDiff, shadow_of_chk_zero hchk]

theorem reduceMask_of_chk_zero (m : Mask) : reduceMask s.cur m = m := by simp [reduceMask, shadow_of_chk_zero hchk]

end Unshadowed

/-! ### Shuffles (R236) -/

/-- The lane of x that lane l of a shuffle takes where its half of n lanes reads lane j; a lane that is none fills. -/
def shuffledLane (x : Line) (fill : Bool) (n l : Nat) (j : Int) : Word :=
  if 0 ≤ j ∧ j < n then laneOf x (j.toNat + l / n * n) else if fill then laneOf x l else 0

theorem vecShuffle_of_ready {s : State} (hl : HasLanes s) (hchk : s.cur.chk ≠ 1) {e f : Bool} {d a b : Code}
    (index : Int → Int → Int) (h : Ready s (usesV e false d a b)) : ∃ t, vecShuffle index e f d a b s = .next t ∧
      VectorResult s t (usesV e false d a b) d fun l => shuffledLane (s.vsrc a) f s.cur.threads l
        (index (l % s.cur.threads : Nat) (laneOf (s.vsrc b) (l % s.cur.threads)).toNat) :=
  ⟨_, h.runVec hchk rfl, vectorResult_writeAcross s (usesV e false d a b) d _ hl⟩

theorem exec_of_mem_shuffleTable {p} (hp : p ∈ shuffleTable) (e f : Bool) (d a b : Code) (s : State) :
    ∃ index : Int → Int → Int, exec (p.1 e f d a b) s = vecShuffle index e f d a b s ∧ ∀ l x : Nat, index l x = p.2 l x := by
  unfold shuffleTable at hp
  fin_cases hp
  exacts [⟨fun _ x => x, rfl, fun _ _ => rfl⟩, ⟨indexXor, rfl, fun _ _ => rfl⟩, ⟨fun l x => l - x, rfl, fun _ _ => rfl⟩,
    ⟨fun l x => l + x, rfl, fun _ _ => rfl⟩]

/-! ### Lanes and scalars (R237, R238) -/

/-- The lanes that `vwrlane` writes: the one that B names, and none for a number that is no lane. -/
theorem getLsbD_namedLane (k l : Nat) (hl64 : l < 64) :
    (maskOf fun i => decide (k < 64) && (i % 64 == k)).getLsbD l = decide (l = k) := by
  rw [getLsbD_maskOf _ _ hl64, Nat.mod_eq_of_lt hl64, ← beq_eq_decide, Bool.and_eq_right_iff_imp, beq_iff_eq, decide_eq_true_eq]
  omega

section Moves
variable {s : State} (hl : HasLanes s) (hchk : s.cur.chk = 0) {e g : Bool} {d a b : Code}
include hl hchk

theorem execVrdlane_of_ready (h : Ready s [⟨.vsrc, a, e⟩, ⟨.useg, b, g⟩, ⟨.seg, d, false⟩]) :
    let k := (s.usrc b).toNat % 0x100000000
    ∃ t, execVrdlane e g d a b s = .next t ∧
      GivenScalar s t (d.toNat - 0x60) (if k < 64 then BitVec.ofNat 64 (laneOf (s.vsrc a) k).toNat else 0) := by
  intro k
  refine ⟨_, h.runVec (chk_ne_one_of_chk_zero hchk) (State.comparePoint_of_chk_zero hchk _ _), ?_⟩
  rw [threads_of_chk_zero hchk]
  exact givenScalar_putScalar s _ (d.toNat - 0x60) _ hl

theorem execVwrlane_of_ready (h : Ready s [⟨.useg, a, e⟩, ⟨.useg, b, g⟩, ⟨.vreg, d, false⟩]) :
    ∃ t, execVwrlane e g d a b s = .next t ∧
      (∀ l, l < 64 → laneOf (t.cur.line (s.cur.wb + d.toNat)) l =
        if l = (s.usrc b).toNat % 0x100000000 then BitVec.ofNat 32 (s.usrc a).toNat
        else laneOf (s.cur.line (s.cur.wb + d.toNat)) l) ∧
      Keeps s t (fun n => n = s.cur.wb + d.toNat) (fun _ => False) s.cur.stat := by
  let k := (s.usrc b).toNat % 0x100000000
  obtain ⟨hlanes, hkeeps⟩ := landLine_advance (s.cur.wb + d.toNat) (fun _ => BitVec.ofNat 32 (s.usrc a).toNat) hl
    (maskOf fun i => decide (k < s.cur.threads) && (i % s.cur.threads == k))
  refine ⟨_, h.runVec (chk_ne_one_of_chk_zero hchk) rfl, fun l hl64 => (hlanes l hl64).trans ?_, hkeeps⟩
  simp only [threads_of_chk_zero hchk, getLsbD_namedLane k l hl64, decide_eq_true_eq, k]

end Moves

/-! ### Reductions, scans and ballots (R239 to R241) -/

section Combinations
variable {s : State} (hl : HasLanes s) (hchk : s.cur.chk = 0) {e : Bool} {d a : Code}
include hl hchk

theorem vecReduce_of_scalar (op : Word → Word → Word) (signed : Bool) (h : Ready s [⟨.vsrc, a, e⟩, ⟨.vred, d, false⟩])
    (hd : isSeg d.toNat = true) : let r := reduceLanes op (s.vsrc a) (candidate s.cur).mask
    ∃ t, vecReduce op signed e d a s = .next t ∧
      GivenScalar s t (d.toNat - 0x60) (if signed then r.signExtend 64 else r.zeroExtend 64) := by
  intro r
  refine ⟨_, h.runVec (chk_ne_one_of_chk_zero hchk) ((if_pos hd).trans (State.comparePoint_of_chk_zero hchk _ _)), ?_⟩
  rw [reduceMask_of_chk_zero hchk]
  exact givenScalar_putScalar s _ (d.toNat - 0x60) _ hl

theorem vecReduce_of_vector (op : Word → Word → Word) (signed : Bool) (h : Ready s [⟨.vsrc, a, e⟩, ⟨.vred, d, false⟩])
    (hd : isSeg d.toNat = false) : ∃ t, vecReduce op signed e d a s = .next t ∧
      VectorResult s t [⟨.vsrc, a, e⟩, ⟨.vred, d, false⟩] d fun _ => reduceLanes op (s.vsrc a) (candidate s.cur).mask := by
  refine ⟨_, h.runVec (chk_ne_one_of_chk_zero hchk) (if_neg (Bool.eq_false_iff.1 hd)), ?_⟩
  rw [reduceMask_of_chk_zero hchk]
  exact vectorResult_writeAcross s _ d _ hl

theorem execVscanadd_of_ready (h : Ready s (usesU e d a)) : ∃ t, execVscanadd e d a s = .next t ∧
    VectorResult s t (usesU e d a) d fun l => prefixSum (s.vsrc a) (candidate s.cur).mask 0 l := by
  refine ⟨_, h.runVec (chk_ne_one_of_chk_zero hchk) rfl, ?_⟩
  simp only [shadow_of_chk_zero hchk, Bool.false_and, Bool.false_eq_true, if_false]
  exact vectorResult_writeAcross s (usesU e d a) d _ hl

end Combinations

theorem exec_of_mem_reductionTable {p} (hp : p ∈ reductionTable) (e : Bool) (d a : Code) (s : State) :
    exec (p.1 e d a) s = vecReduce p.2.1 p.2.2 e d a s := by
  unfold reductionTable at hp
  fin_cases hp
  all_goals rfl

/-! ### Pairs of lines (R241) -/

theorem getLsbD_setBit_false_of_false {w : Nat} {x : BitVec w} {i : Nat} (j : Nat) (h : x.getLsbD i = false) :
    (setBit x j false).getLsbD i = false := by
  simp [setBit, h]

/-- The second register of a pair is the next one. -/
theorem toNat_pair {d : Code} (hd : isSeg d.toNat = false) (h : (Use.mk .vbal d false).accepted = true) :
    d.toNat + 1 < 0x60 ∧ (d + 1).toNat = d.toNat + 1 := by
  have hpair : d.toNat < 0x60 ∧ d.toNat % 2 = 0 := by simpa [Use.accepted, hd, isVreg] using h
  have hsum : (d + 1).toNat = (d.toNat + 1) % 2 ^ 7 := BitVec.toNat_add ..
  omega

section Pair
variable (s : State) {d : Code} (hd : d.toNat + 1 < 0x60) (hd1 : (d + 1).toNat = d.toNat + 1) (f : Nat → Word)
include hd hd1

theorem State.writeAcross_pair_now (x y : Nat → Word) : let n := s.cur.wb + d.toNat
    let u := s.onCur fun st => st.landLine s.now n (candidate s.cur).mask x
    (s.writeAcross d false x).writeAcross (d + 1) false y =
      u.onCur fun st => st.landLine u.now (n + 1) (candidate s.cur).mask y := by
  intro n u
  have hwb : u.cur.wb = s.cur.wb := (Keeps.landLine s n x (candidate s.cur).mask).own.window
  have hmask : candidate u.cur = candidate s.cur := (SameCourse.landLine s n x (candidate s.cur).mask).candidate
  rw [s.writeAcross_of_now d x (by omega), State.writeAcross_of_now _ (d + 1) y (by omega), hwb, hmask, hd1]
  rfl

theorem State.writeAcross_pair_late (x y : Nat → Word) : let n := s.cur.wb + d.toNat
    (s.writeAcross d true x).writeAcross (d + 1) true y =
      (s.onCur fun st => st.awaitLine n x).onCur fun st => st.awaitLine (n + 1) y := by
  intro n
  have hwb : (s.onCur fun st => st.awaitLine n x).cur.wb = s.cur.wb :=
    (Keeps.awaitLine s n x fun _ => False).own.window
  rw [s.writeAcross_of_late d x (by omega), State.writeAcross_of_late _ (d + 1) y (by omega), hwb, hd1]
  rfl

/-- Without a pop both lines hold the entry's lanes. -/
theorem writePair_now (hl : HasLanes s) :
    let t := ((s.writeAcross d false fun _ => f 0).writeAcross (d + 1) false fun _ => f 1).advance
    let line (h : Nat) : Nat := s.cur.wb + d.toNat + h
    (∀ h, h < 2 → ∀ l, l < 64 → laneOf (t.cur.line (line h)) l =
      if (candidate s.cur).mask.getLsbD l then f h else laneOf (s.cur.line (line h)) l) ∧
      Keeps s t (fun n => n = line 0 ∨ n = line 1) (fun _ => False) s.cur.stat := by
  intro t line
  let m := (candidate s.cur).mask
  let u := s.onCur fun st => st.landLine s.now (line 0) m fun _ => f 0
  have hlow : Keeps s u (fun n => n = line 0) (fun _ => False) s.cur.stat := Keeps.landLine ..
  let v := u.onCur fun st => st.landLine u.now (line 1) m fun _ => f 1
  have hhigh : Keeps u v (fun n => n = line 1) (fun _ => False) u.cur.stat := Keeps.landLine ..
  have hquiet : Quiet v v.advance := ((SameCourse.landLine s (line 0) (fun _ => f 0) m).trans
    (SameCourse.landLine u (line 1) (fun _ => f 1) m)).quiet_advance hl
  have ht : t = v.advance := congrArg State.advance (s.writeAcross_pair_now hd hd1 _ _)
  rw [ht]
  refine ⟨fun h hh l hl64 => ?lines, ?keeps⟩
  case lines =>
    have hne : line 0 ≠ line 1 := by simp [line]
    rw [hquiet.line, State.line_landLine u, State.line_landLine s, State.line_landLine s, if_neg hne.symm]
    obtain rfl | rfl : h = 0 ∨ h = 1 := by omega
    · rw [if_neg hne, if_pos rfl, laneOf_mergeLine _ _ _ _ hl64]
    · rw [if_pos rfl, laneOf_mergeLine _ _ _ _ hl64]
  case keeps =>
    rw [hlow.own.stat] at hhigh
    exact ((hlow.mono fun _ => .inl).trans (hhigh.mono fun _ => .inr)).quiet hquiet

/-- With a pop both lines are emptied and a producer has each (04 R99). -/
theorem writePair_late (hl : HasLanes s) :
    let t := ((s.writeAcross d true fun _ => f 0).writeAcross (d + 1) true fun _ => f 1).advance
    let line (h : Nat) : Nat := s.cur.wb + d.toNat + h
    Keeps s t (fun _ => False) (fun _ => False) s.cur.stat ∧ ∀ h, h < 2 → t.cur.vFull.getLsbD (line h) = false ∧
      ∃ p ∈ t.cur.producers, p.lines =
        [(line h, (candidate s.cur).mask, mergeLine zeroLine (candidate s.cur).mask fun _ => f h)] := by
  intro t line
  let m := (candidate s.cur).mask
  let u := s.onCur fun st => st.awaitLine (line 0) fun _ => f 0
  have hlow : Keeps s u (fun _ => False) (fun _ => False) s.cur.stat := Keeps.awaitLine ..
  let v := u.onCur fun st => st.awaitLine (line 1) fun _ => f 1
  have hhigh : Keeps u v (fun _ => False) (fun _ => False) u.cur.stat := Keeps.awaitLine ..
  have hquiet : Quiet v v.advance := ((SameCourse.awaitLine s (line 0) fun _ => f 0).trans
    (SameCourse.awaitLine u (line 1) fun _ => f 1)).quiet_advance hl
  have ht : t = v.advance := congrArg State.advance (s.writeAcross_pair_late hd hd1 _ _)
  rw [ht]
  have hcur : v.cur = (s.cur.awaitLine (line 0) fun _ => f 0).awaitLine (line 1) fun _ => f 1 := by
    simp [u, v, State.onCur]
  have hstill := hquiet.cur
  rw [hcur] at hstill
  have hfull : v.advance.cur.vFull = setBit (setBit s.cur.vFull (line 0) false) (line 1) false :=
    (congrArg Strand.vFull hstill :)
  have hproducers : v.advance.cur.producers = s.cur.producers ++ [lineProducer (line 0) m fun _ => f 0] ++ [lineProducer (line 1) m fun _ => f 1] :=
    (congrArg Strand.producers hstill :)
  rw [hlow.own.stat] at hhigh
  refine ⟨(hlow.trans hhigh).quiet hquiet, fun h hh => ⟨?full, ?producer⟩⟩
  case full =>
    rw [hfull]
    obtain rfl | rfl : h = 0 ∨ h = 1 := by omega
    · exact getLsbD_setBit_false_of_false _ (getLsbD_setBit_false ..)
    · exact getLsbD_setBit_false ..
  case producer =>
    refine ⟨lineProducer (line h) m fun _ => f h, ?_, rfl⟩
    rw [hproducers]
    obtain rfl | rfl : h = 0 ∨ h = 1 := by omega
    all_goals simp

end Pair

/-- The lanes of the entry whose A is not zero (R241). -/
def State.ballot (s : State) (a : Code) : Mask :=
  maskOf fun l => (candidate s.cur).mask.getLsbD l && decide (laneOf (s.vsrc a) l ≠ 0)

/-- The half of a ballot that each line of a pair takes. -/
def ballotHalf (m : Mask) (h : Nat) : Word := BitVec.ofNat 32 (m.toNat / 2 ^ (32 * h))

section Ballot
variable {s : State} (hl : HasLanes s) (hchk : s.cur.chk = 0) {e : Bool} {d a : Code}
include hchk

theorem execVballot_of_pair (h : Ready s [⟨.vsrc, a, e⟩, ⟨.vbal, d, false⟩]) (hd : isSeg d.toNat = false) :
    let us : List Use := [⟨.vsrc, a, e⟩, ⟨.vbal, d, false⟩]
    let half := ballotHalf (s.ballot a)
    execVballot e d a s = .next (((s.popSources us).writeAcross d (popsInto us) fun _ => half 0).writeAcross (d + 1) (popsInto us)
      fun _ => half 1).advance := by
  intro us half
  refine h.runVec (chk_ne_one_of_chk_zero hchk) ((if_neg (Bool.eq_false_iff.1 hd)).trans ?_)
  rw [reduceMask_of_chk_zero hchk]
  simp only [half, ballotHalf, State.ballot, Nat.mul_zero, Nat.pow_zero, Nat.div_one, Nat.mul_one, us]

include hl

theorem execVballot_of_scalar (h : Ready s [⟨.vsrc, a, e⟩, ⟨.vbal, d, false⟩]) (hd : isSeg d.toNat = true) :
    ∃ t, execVballot e d a s = .next t ∧ GivenScalar s t (d.toNat - 0x60) (s.ballot a) := by
  refine ⟨_, h.runVec (chk_ne_one_of_chk_zero hchk) ((if_pos hd).trans (State.comparePoint_of_chk_zero hchk _ _)), ?_⟩
  rw [reduceMask_of_chk_zero hchk]
  exact givenScalar_putScalar s _ (d.toNat - 0x60) _ hl

end Ballot

end Sys2Proof.Machine

namespace Sys2Proof.Proofs

open Sys2Proof.Machine Sys2Proof.Claims

theorem vectorShuffleResult : VectorShuffleResult := by
  intro p hp e f d a b s hl hchk hready
  obtain ⟨index, hexec, hindex⟩ := exec_of_mem_shuffleTable hp e f d a b s
  rw [hexec]
  simp only [← hindex]
  exact vecShuffle_of_ready hl hchk index hready

theorem laneMoves : LaneMoves :=
  ⟨fun _ _ _ _ _ _ hl hchk hready => execVrdlane_of_ready hl hchk hready,
    fun _ _ _ _ _ _ hl hchk hready => execVwrlane_of_ready hl hchk hready⟩

theorem laneCombinations : LaneCombinations := by
  refine ⟨fun p hp e d a s hl hchk hready => ?reduction, fun e d a s hl hchk hready => ?scan,
    fun e d a s hl hchk hready => ?ballot⟩
  case reduction =>
    intro r
    rw [exec_of_mem_reductionTable hp]
    cases hd : isSeg d.toNat
    · obtain ⟨t, hnext, hresult⟩ := vecReduce_of_vector hl hchk p.2.1 p.2.2 hready hd
      exact ⟨t, hnext, nofun, fun _ => hresult⟩
    · obtain ⟨t, hnext, hgiven⟩ := vecReduce_of_scalar hl hchk p.2.1 p.2.2 hready hd
      exact ⟨t, hnext, fun _ => hgiven, nofun⟩
  case scan => exact execVscanadd_of_ready hl hchk hready
  case ballot =>
    intro us m half line
    cases hd : isSeg d.toNat
    · have haccepted : (Use.mk .vbal d false).accepted = true := List.all_eq_true.1 hready.accepted _ (by simp)
      obtain ⟨hpair, hnext⟩ := toNat_pair hd haccepted
      refine ⟨_, execVballot_of_pair hchk hready hd, nofun, fun _ hpops => ?now, fun _ hpops => ?late⟩
      case now =>
        rw [hpops, popSources_of_none s us hpops]
        exact writePair_now s hpair hnext half hl
      case late =>
        have hpopped := popped_popSources s us
        obtain ⟨hkeeps, hlines⟩ := writePair_late (s.popSources us) hpair hnext half (hpopped.hasLanes hl)
        rw [hpops]
        rw [hpopped.wb, hpopped.candidate] at hlines
        rw [hpopped.stat] at hkeeps
        exact ⟨(hpopped.keeps _ _).trans hkeeps, hlines⟩
    · obtain ⟨t, hnext, hgiven⟩ := execVballot_of_scalar hl hchk hready hd
      exact ⟨t, hnext, fun _ => hgiven, nofun, nofun⟩

/-- Settles O3: what travels across lanes lands as any other result; the ballot by its two lines. -/
theorem laneExchange : Obligations.LaneExchange := ⟨vectorShuffleResult, laneMoves, laneCombinations⟩

end Sys2Proof.Proofs
end

section
/-! Settles 09 R244 to R266. A typed float instruction is one of two shapes with the formula of its row; conversions, packs, scales
and paired dot products are the shape beneath both. Each shape queues its results when it is ready, as `vecFloat_of_ready` says. -/

namespace Sys2Proof.Machine

open Sys2Proof.Claims

/-! ### The shapes of the float instructions -/

section Shapes
variable {s : State} (hl : HasLanes s) (hchk : s.cur.chk ≠ 1) {ty : FType} {e g : Bool} {d a b : Code}
include hl hchk

theorem vecFloat3_of_ready (op : Fmt → Nat → Nat → Nat → Nat → Nat × Flags) (modify narrow : Bool)
    (h : Ready s (usesF ty modify narrow e g d a b)) : ∃ t, vecFloat3 op modify narrow ty e g d a b s = .next t ∧
      FloatQueued s t d (typeWide ty && !narrow) fun l => perElement ty (op (typeFmt ty) s.cur.frm)
        ((s.lanesAt (typeWide ty) a).getD l 0) ((s.lanesAt (typeWide ty) b).getD l 0)
        ((if modify then s.lanesAt (typeWide ty && !narrow) d else []).getD l 0) :=
  vecFloat_of_ready h hl hchk ..

/-- The element function looks at A alone, so that the other two arguments do not matter. -/
theorem vecFloat1_of_ready (op : Fmt → Nat → Nat → Nat × Flags) (narrow slow : Bool) (h : Ready s (usesF1 ty narrow e d a)) :
    ∃ t, vecFloat1 op narrow slow ty e d a s = .next t ∧ FloatQueued s t d (typeWide ty && !narrow) fun l =>
      perElement ty (fun x _ _ => op (typeFmt ty) s.cur.frm x) ((s.lanesAt (typeWide ty) a).getD l 0) 0 0 :=
  vecFloat_of_ready h hl hchk (typeWide ty) false (typeWide ty && !narrow) false a 0x78 d
    (fun frm x _ _ => perElement ty (fun x _ _ => op (typeFmt ty) frm x) x 0 0) slow

end Shapes

/-! ### The rows of the tables -/

section Rows
variable (ty : FType) (e g : Bool) (d a b : Code) (s : State)

theorem exec_of_mem_floatTable {p} (hp : p ∈ floatTable) :
    exec (p.1 ty e g d a b) s = vecFloat3 p.2.1 p.2.2.1 p.2.2.2 ty e g d a b s := by
  unfold floatTable at hp
  fin_cases hp
  all_goals rfl

/-- The rows up to `vftanh` are the slow ones. -/
theorem exec_of_mem_floatUnaryTable {p} (hp : p ∈ floatUnaryTable) :
    ∃ slow, exec (p.1 ty e d a) s = vecFloat1 p.2.1 p.2.2 slow ty e d a s := by
  unfold floatUnaryTable at hp
  fin_cases hp
  all_goals exact ⟨_, rfl⟩

end Rows

/-! ### Conversions (R263) -/

theorem exec_convert (sat e : Bool) (d a c : Code) (s : State) :
    exec (if sat then .vcvts e d a c else .vcvt e d a c) s = vecConvert sat e d a c s := by cases sat <;> rfl

/-- A code that is not listed raises before anything is read. -/
theorem vecConvert_of_unlisted {s : State} (hchk : s.cur.chk ≠ 1) {sat e : Bool} {d a c : Code}
    (hcode : cvtListed sat c.toNat = false) : vecConvert sat e d a c s = .next (s.raiseAll .illegalOpcode) := by
  unfold vecConvert vecFloat
  rw [hcode]
  exact (runVec_of_chk_ne_one hchk ..).trans (run_of_bad ..)

/-! ### Packing, scaling and paired dot products (R264 to R266) -/

section Forms
variable (h w e g : Bool) (d a b : Code) (s : State)

theorem exec_pack : exec (if h then .vpackF16 e g d a b else .vpackBf16 e g d a b) s =
    vecPack (if h then .f16 else .bf16) e g d a b s := by cases h <;> rfl

theorem exec_scale : exec (if w then .vfscaleF64 e g d a b else .vfscaleF32 e g d a b) s =
    vecFloat [⟨if w then .vsrc64 else .vsrc, a, e⟩, ⟨.vsrc, b, g⟩, ⟨if w then .vdst64 else .vdst, d, false⟩]
      w false w false a b d (fun frm x y _ => (if w then Fmt.f64 else Fmt.f32).scale frm x y) s := by cases w <;> rfl

theorem exec_dot2 : exec (if h then .vfdot2F16 e g d a b else .vfdot2Bf16 e g d a b) s =
    vecDot2 (if h then .f16 else .bf16) e g d a b s := by cases h <;> rfl

end Forms

end Sys2Proof.Machine

namespace Sys2Proof.Proofs

open Sys2Proof.Machine Sys2Proof.Claims

theorem vectorFloatResult : VectorFloatResult := by
  intro p hp ty e g d a b s hl hchk hready
  rw [exec_of_mem_floatTable ty e g d a b s hp]
  exact vecFloat3_of_ready hl hchk p.2.1 _ _ hready

theorem vectorFloatFunctions : VectorFloatFunctions := by
  intro p hp ty e d a s hl hchk hready
  obtain ⟨slow, hexec⟩ := exec_of_mem_floatUnaryTable ty e d a s hp
  rw [hexec]
  exact vecFloat1_of_ready hl hchk p.2.1 _ slow hready

/-- Settles O4: a row is its shape with its formula. -/
theorem vectorFloatForms : Obligations.VectorFloatForms := ⟨vectorFloatResult, vectorFloatFunctions⟩

/-- Settles O5: each form is the shape of every float instruction, with the widths that its code or its type gives. -/
theorem vectorFloatConversions : Obligations.VectorFloatConversions := by
  refine ⟨fun sat e d a c s hchk => ?convert, fun h e g d a b s hl hchk hready => ?pack,
    fun w e g d a b s hl hchk hready => ?scale, fun h e g d a b s hl hchk hready => ?dot⟩
  case convert =>
    intro wideA wideD
    rw [exec_convert]
    refine ⟨fun hcode hl hready => ?_, vecConvert_of_unlisted hchk⟩
    unfold vecConvert
    rw [hcode]
    exact vecFloat_of_ready hready hl hchk ..
  case pack =>
    rw [exec_pack]
    exact vecFloat_of_ready hready hl hchk ..
  case scale =>
    rw [exec_scale]
    exact vecFloat_of_ready hready hl hchk ..
  case dot =>
    rw [exec_dot2]
    exact vecFloat_of_ready hready hl hchk ..

end Sys2Proof.Proofs
end

section
/-! Settles 09 R246, R250 to R252. A result that is written leaves the list, its lines and flags go into the strand and its entry
into the mailbox (`State.writtenFloat`); the lanes of a cause then leave their entries (`State.leave`) and park. `FloatTaken` says
what all of these steps keep. -/

namespace Sys2Proof.Machine

/-! ### The result in the strand (R250, R251) -/

/-- A strand after a float result: its lines, and its flags united into STAT. -/
def Strand.writeFloat (st : Strand) (f : FloatResult) : Strand := (st.writeLines f.lines).addFlags f.union f.shadow

section Strand
variable (st : Strand) (f : FloatResult)

theorem Strand.writeFloat_floats : (st.writeFloat f).floats = st.floats := (congrArg Strand.floats (lineless_writeLines f.lines st) :)

theorem Strand.writeFloat_ccb : (st.writeFloat f).ccb = st.ccb := (congrArg Strand.ccb (lineless_writeLines f.lines st) :)

theorem Strand.writeFloat_core : (st.writeFloat f).core = st.core := (congrArg Strand.core (lineless_writeLines f.lines st) :)

theorem Strand.writeFloat_sup : (st.writeFloat f).sup = st.sup := (congrArg Strand.sup (lineless_writeLines f.lines st) :)

/-- A result's lines are those of a producer without scalars. -/
theorem Strand.writeFloat_registers : SameRegisters st (st.writeFloat f) (fun n => ∃ x ∈ f.lines, x.1 = n) (fun _ => False)
    (st.stat ||| BitVec.ofNat 64 f.union.toNat) := by
  have hlines := st.writeBack_registers { lines := f.lines }
  exact { hlines with
    scalars := fun m _ => hlines.scalars m (by simp)
    stat := congrArg (· ||| BitVec.ofNat 64 f.union.toNat) hlines.stat }

theorem Strand.writeFloat_lane (hd : (f.lines.map fun x => x.1).Nodup) {x : Nat × Mask × Line} (hx : x ∈ f.lines) {l : Nat}
    (hl : l < 64) : laneOf ((st.writeFloat f).line x.1) l =
      if x.2.1.getLsbD l then laneOf x.2.2 l else laneOf (st.line x.1) l :=
  st.writeBack_lane { lines := f.lines } hd hx hl

end Strand

/-! ### The steps of a write-back -/

/-- A state in which a result has left the list of its strand. -/
def State.takeFloat (s : State) (k place : Nat) : State :=
  s.setStrand k { s.strand k with floats := (s.strand k).floats.eraseIdx place }

/-- A state in which a result is written, before any trap. -/
def State.writtenFloat (s : State) (k : Nat) (f : FloatResult) : State :=
  (s.setStrand k ((s.strand k).writeFloat f)).pushOf k f.push

/-- A state in which lanes have left their entries. -/
def State.leave (s : State) (k : Nat) (m : Mask) : State :=
  s.setStrand k ((s.strand k).setFrontier (takeLanes m (s.strand k).frontier))

section Steps
variable {s : State} {k place : Nat} {f : FloatResult} {r : Raise}

theorem exec_floatWriteback (h : (s.strand k).floats[place]? = some f) :
    exec (.floatWriteback k place) s = .next ((s.takeFloat k place).writeFloat k f) := by
  show execFloatWriteback k place s = _
  simp only [execFloatWriteback, h]
  rfl

theorem State.writeFloat_of_quiet (h : f.raises = [] ∨ s.guard.sequence ≠ .none) : s.writeFloat k f = s.writtenFloat k f := by
  have hquiet : f.raises.isEmpty = true ∨ s.guard.sequence ≠ .none := h.imp_left List.isEmpty_iff.2
  unfold State.writeFloat
  cases hpush : f.push <;> exact (if_pos hquiet).trans (by rw [State.writtenFloat, hpush]; rfl)

theorem State.writeFloat_of_raise (h : f.raises = [r]) (hseq : s.guard.sequence = .none) :
    s.writeFloat k f = ((s.writtenFloat k f).leave k r.mask).takeCause k { mask := r.mask, prio := f.prio, pc := f.pc } r := by
  unfold State.writeFloat
  cases hpush : f.push <;>
    simp [h, hseq, hpush, State.writtenFloat, State.leave, State.pushOf, Strand.writeFloat, Strand.writeLines]

theorem ne_uncorrectable_of_mem_floatCauses : ∀ c ∈ floatCauses, c.2 ≠ Cause.uncorrectable := by decide

/-- A cause of a float result is one of five, concerns the place of its instruction and has no fault records (R252). -/
theorem FloatResult.of_mem_raises (h : r ∈ f.raises) :
    r.cause ≠ .uncorrectable ∧ r.sub = 0 ∧ r.records = [] ∧ r.taddr = pcWord f.pc := by
  obtain ⟨hmem, -⟩ := List.mem_filter.1 h
  obtain ⟨c, hc, rfl⟩ := List.mem_map.1 hmem
  exact ⟨ne_uncorrectable_of_mem_floatCauses c hc, rfl, rfl, rfl⟩

/-- A cause that no handler takes parks its lanes where its event finds a place (13 R345, R351). -/
theorem State.takeCause_eq_parkNow {e : Entry} (hcause : r.cause ≠ .uncorrectable) (hsub : r.sub = 0)
    (hsup : (s.strand k).sup = false) (hhandler : (s.strand k).handlerOpen e.prio = false)
    (hheld : (s.core (s.strand k).core).held = []) (hroom : (s.core (s.strand k).core).roomFor r = true) :
    s.takeCause k e r = s.parkNow k e r := by
  have hcount : ¬ (r.cause = .uncorrectable ∨ r.sub = Cause.uncorrectable.code) := by
    rw [hsub]
    exact not_or.2 ⟨hcause, by decide⟩
  have hplace : ((s.core (s.strand k).core).held.isEmpty && (s.core (s.strand k).core).roomFor r) = true := by
    rw [hheld, hroom]; rfl
  unfold State.takeCause
  simp only [if_neg hcount, hsup, hhandler, Bool.and_false, Bool.false_eq_true, if_false]
  exact if_pos hplace

theorem State.strand_parkNow {e : Entry} (hr : r.records = []) : (s.parkNow k e r).strand k =
    { (s.strand k).setFrontier ((s.strand k).frontier ++ [s.parkedEntry (s.strand k) e r]) with
      nextOrder := (s.strand k).nextOrder + 1 } := by
  rw [State.parkNow_of_no_records hr, State.strand_setCore, State.strand_setStrand_self]

theorem State.strand_parkNow_ne {e : Entry} (hr : r.records = []) {j : Nat} (h : j ≠ k) :
    (s.parkNow k e r).strand j = s.strand j := by
  rw [State.parkNow_of_no_records hr, State.strand_setCore, State.strand_setStrand_ne _ _ _ _ h]

theorem State.writtenFloat_strand (s : State) (k : Nat) (f : FloatResult) :
    (s.writtenFloat k f).strand k = (s.strand k).writeFloat f := by
  rw [State.writtenFloat, State.strand_pushOf, State.strand_setStrand_self]

theorem State.writtenFloat_core (s : State) (k : Nat) (f : FloatResult) (c : Nat) : (s.writtenFloat k f).core c = s.core c := by
  unfold State.writtenFloat State.pushOf
  cases f.push <;> rfl

theorem State.mailbox_writtenFloat {x : Nat × Line} (h : f.push = some x) :
    ((s.writtenFloat k f).cohort (s.strand k).ccb).mailbox = (s.cohort (s.strand k).ccb).mailbox ++ [x.2] := by
  have hpushed := State.mailbox_pushOf (s.setStrand k ((s.strand k).writeFloat f)) k f.push h
  rwa [State.strand_setStrand_self, Strand.writeFloat_ccb] at hpushed

theorem State.strand_takeFloat (s : State) (k place : Nat) :
    (s.takeFloat k place).strand k = { s.strand k with floats := (s.strand k).floats.eraseIdx place } :=
  State.strand_setStrand_self ..

end Steps

/-! ### What every step keeps -/

/-- A result is off the list and its flags are in STAT; beside them its lines may have changed, and no other register, no other
strand and no memory. -/
structure FloatTaken (s t : State) (k place : Nat) (f : FloatResult) : Prop where
  floats : (t.strand k).floats = (s.strand k).floats.eraseIdx place
  registers : SameRegisters (s.strand k) (t.strand k) (fun n => ∃ x ∈ f.lines, x.1 = n) (fun _ => False)
    ((s.strand k).stat ||| BitVec.ofNat 64 f.union.toNat)
  sup : (t.strand k).sup = (s.strand k).sup
  core : (t.strand k).core = (s.strand k).core
  others : ∀ j, j ≠ k → t.strand j = s.strand j
  memory : SameMemory s t
  engines : SameEngines s t

/-- The written result. -/
theorem floatTaken_writtenFloat (s : State) (k place : Nat) (f : FloatResult) :
    FloatTaken s ((s.takeFloat k place).writtenFloat k f) k place f := by
  let st : Strand := { s.strand k with floats := (s.strand k).floats.eraseIdx place }
  have hstrand : ((s.takeFloat k place).writtenFloat k f).strand k = st.writeFloat f := by
    rw [State.writtenFloat_strand, State.strand_takeFloat]
  have hregs := st.writeFloat_registers f
  refine ⟨hstrand ▸ st.writeFloat_floats f, hstrand ▸ { hregs with }, hstrand ▸ st.writeFloat_sup f,
    hstrand ▸ st.writeFloat_core f, fun j hj => ?_,
    ((SameMemory.setStrand ..).trans (SameMemory.setStrand ..)).trans (State.pushOf_memory ..),
    ((SameEngines.setStrand ..).trans (SameEngines.setStrand ..)).trans (State.pushOf_engines ..)⟩
  rw [State.writtenFloat, State.strand_pushOf, State.strand_setStrand_ne _ _ _ _ hj, State.takeFloat,
    State.strand_setStrand_ne _ _ _ _ hj]

/-- A handler that is off, or whose mask is set, takes no cause (13 R357). -/
theorem Strand.handlerOpen_of_closed {st : Strand} (h : st.handler.getLsbD 0 = false ∨ st.tm = true) (p : BitVec 16) :
    st.handlerOpen p = false := by
  unfold Strand.handlerOpen
  rcases h with hoff | htm
  · rw [hoff]
    rfl
  · simp [htm]

section Taken
variable {s t u : State} {k place : Nat} {f : FloatResult} (h : FloatTaken s t k place f)
include h

/-- Entries that move in the frontier of the strand are no registers. -/
theorem FloatTaken.setFrontier {l : List Entry} {n : Nat}
    (hstrand : u.strand k = { (t.strand k).setFrontier l with nextOrder := n })
    (hothers : ∀ j, j ≠ k → u.strand j = t.strand j) (hmem : SameMemory t u) (heng : SameEngines t u) :
    FloatTaken s u k place f where
  floats := hstrand ▸ h.floats
  registers := hstrand ▸ { h.registers with }
  sup := hstrand ▸ h.sup
  core := hstrand ▸ h.core
  others := fun j hj => (hothers j hj).trans (h.others j hj)
  memory := h.memory.trans hmem
  engines := h.engines.trans heng

theorem FloatTaken.leave (m : Mask) : FloatTaken s (t.leave k m) k place f :=
  h.setFrontier (State.strand_setStrand_self ..) (fun _ hj => State.strand_setStrand_ne _ _ _ _ hj) (SameMemory.setStrand ..)
    (SameEngines.setStrand ..)

theorem FloatTaken.parkNow {e : Entry} {r : Raise} (hr : r.records = []) : FloatTaken s (t.parkNow k e r) k place f :=
  h.setFrontier (State.strand_parkNow hr) (fun _ hj => State.strand_parkNow_ne hr hj) (State.parkNow_memory hr)
    (State.parkNow_engines hr)

/-- Flags that unite into STAT clear no bit of it, so that a closed handler stays closed. -/
theorem FloatTaken.handlerOpen (hclosed : (s.strand k).handler.getLsbD 0 = false ∨ (s.strand k).tm = true) (p : BitVec 16) :
    (t.strand k).handlerOpen p = false := by
  refine Strand.handlerOpen_of_closed ?_ p
  rw [h.registers.handler, Strand.tm, h.registers.stat, BitVec.getLsbD_or]
  exact hclosed.imp_right fun htm => by rw [show (s.strand k).stat.getLsbD 62 = true from htm, Bool.true_or]

end Taken

end Sys2Proof.Machine

namespace Sys2Proof.Proofs

open Sys2Proof.Machine Sys2Proof.Claims

/-- Settles O6: the write-back is `State.writtenFloat`, and with one cause its lanes leave their entries and park. -/
theorem floatWriteback : Obligations.FloatWriteback := by
  refine ⟨fun s key place f hf hquiet => ?quiet, fun s key place f r hf hr hseq hsup hclosed hheld hroom => ?trap⟩
  case quiet =>
    have htaken := floatTaken_writtenFloat s key place f
    have hccb : ((s.takeFloat key place).strand key).ccb = (s.strand key).ccb := by rw [State.strand_takeFloat]
    refine ⟨_, (exec_floatWriteback hf).trans (congrArg _ (State.writeFloat_of_quiet hquiet)), htaken.floats,
      htaken.registers.stat, fun hd x hx l hl => ?_, fun x hx => hccb ▸ State.mailbox_writtenFloat hx, fun hnone => ?_,
      { htaken.registers with stat := rfl }, htaken.others, htaken.memory, htaken.engines⟩
    · rw [State.writtenFloat_strand, Strand.writeFloat_lane _ f hd hx hl, State.strand_takeFloat]
      rfl
    · rw [State.writtenFloat, hnone]
      rfl
  case trap =>
    obtain ⟨hcause, hsub, hrecords, htaddr⟩ := FloatResult.of_mem_raises (hr ▸ List.mem_singleton_self r)
    let e : Entry := { mask := r.mask, prio := f.prio, pc := f.pc }
    let u := ((s.takeFloat key place).writtenFloat key f).leave key r.mask
    have hwritten : (s.takeFloat key place).writeFloat key f = u.takeCause key e r := State.writeFloat_of_raise hr hseq
    have hleft : FloatTaken s u key place f := (floatTaken_writtenFloat s key place f).leave r.mask
    have hcore : u.core (u.strand key).core = s.core (s.strand key).core := by
      rw [hleft.core]
      exact State.writtenFloat_core ..
    have hparks : u.takeCause key e r = u.parkNow key e r :=
      State.takeCause_eq_parkNow hcause hsub (hleft.sup.trans hsup) (hleft.handlerOpen hclosed _) (hcore ▸ hheld)
        (hcore ▸ Core.roomFor_of_no_records hrecords hroom)
    have hparked : FloatTaken s (u.parkNow key e r) key place f := hleft.parkNow hrecords
    have hevq := congrArg Core.evq (State.parkNow_core (s := u) (k := key) (e := e) hrecords)
    rw [hcore, hleft.core] at hevq
    exact ⟨_, (exec_floatWriteback hf).trans (congrArg _ (hwritten.trans hparks)), hparked.floats, hparked.registers.stat,
      ⟨_, State.parkedEntry_mem_parkNow hrecords, rfl, rfl, rfl, rfl⟩, ⟨_, hevq, rfl, rfl, htaddr⟩,
      { hparked.registers with stat := rfl }, hparked.others, hparked.memory, hparked.engines⟩

end Sys2Proof.Proofs
end

section
/-! The channels of the copy engine (10 R269). A write of a channel leaves all but the channels of its owner alone; what an instruction
does around that write, a pop before it, a scalar result or the end of its issue after it, keeps the channels. -/

namespace Sys2Proof.Machine

open Sys2Proof.Claims

/-- A cohort without its channels, and without the count that orders its accumulator commands. -/
def Cohort.channelless (c : Cohort) : Cohort := { c with channels := [], mxOrder := 0 }

/-- A core without the channels of its supervisor strand. -/
def Core.channelless (k : Core) : Core := { k with channels := [] }

/-- Only channels of the copy engine differ, and the order counts of cohorts. -/
structure OnlyChannels (s t : State) : Prop where
  strands : ∀ k, t.strand k = s.strand k
  cohorts : ∀ c, (t.cohort c).channelless = (s.cohort c).channelless
  cores : ∀ c, (t.core c).channelless = (s.core c).channelless
  rest : t.rest = s.rest

section OnlyChannels
variable {s t u : State}

theorem OnlyChannels.refl (s : State) : OnlyChannels s s := ⟨fun _ => rfl, fun _ => rfl, fun _ => rfl, rfl⟩

theorem OnlyChannels.trans (h : OnlyChannels s t) (g : OnlyChannels t u) : OnlyChannels s u :=
  ⟨fun k => (g.strands k).trans (h.strands k), fun c => (g.cohorts c).trans (h.cohorts c),
    fun c => (g.cores c).trans (h.cores c), g.rest.trans h.rest⟩

theorem OnlyChannels.setCohort (s : State) (k : DWord) (x : Cohort) (h : x.channelless = (s.cohort k).channelless) :
    OnlyChannels s (s.setCohort k x) := by
  refine ⟨fun _ => rfl, fun c => ?_, fun _ => rfl, rfl⟩
  rw [State.cohort_setCohort]
  split
  · next hc => rw [hc, h]
  · rfl

theorem OnlyChannels.setCore (s : State) (k : Nat) (x : Core) (h : x.channelless = (s.core k).channelless) :
    OnlyChannels s (s.setCore k x) := by
  refine ⟨fun _ => rfl, fun _ => rfl, fun c => ?_, rfl⟩
  rw [State.core_setCore]
  split
  · next hc => rw [hc, h]
  · rfl

theorem OnlyChannels.setChannel (s : State) (core : Nat) (ccb : DWord) (ch : Nat) (l : List Command) :
    OnlyChannels s (s.setChannel core ccb ch l) := by
  unfold State.setChannel
  dsimp only
  split
  · exact OnlyChannels.setCore _ _ _ rfl
  · exact OnlyChannels.setCohort _ _ _ rfl

variable (h : OnlyChannels s t)
include h

theorem OnlyChannels.curKey : t.curKey = s.curKey := (congrArg State.curKey h.rest :)

theorem OnlyChannels.cur : t.cur = s.cur := by
  unfold State.cur
  rw [h.curKey, h.strands]

theorem OnlyChannels.memory : SameMemory s t :=
  ⟨(congrArg State.local_ h.rest :), (congrArg State.host h.rest :), (congrArg State.peer h.rest :),
    fun c => (congrArg Cohort.scratch (h.cohorts c) :), fun c => (congrArg Core.tile (h.cores c) :)⟩

theorem OnlyChannels.engines : SameEngines s t :=
  ⟨(congrArg State.disp h.rest :), (congrArg State.link h.rest :), (congrArg State.guard h.rest :),
    (congrArg State.root h.rest :), (congrArg State.contexts h.rest :), fun c => (congrArg Core.frb (h.cores c) :),
    fun c => (congrArg Core.frt (h.cores c) :), fun c => (congrArg Core.frh (h.cores c) :),
    fun c => (congrArg Core.tgt (h.cores c) :), fun c => (congrArg Core.lmap (h.cores c) :),
    fun c => (congrArg Core.cmap (h.cores c) :)⟩

theorem OnlyChannels.keeps (L S : Nat → Prop) : Keeps s t L S s.cur.stat := by
  refine ⟨h.curKey, ?_, fun k _ => ?_, h.memory, h.engines, fun hd =>
    ⟨h.cur ▸ hd, fun c => (congrArg Core.accs (h.cores c) :)⟩⟩
  · rw [h.cur]
    exact SameRegisters.refl ..
  · rw [h.strands]
    exact SameRegisters.refl ..

theorem OnlyChannels.course : SameCourse s t := by
  have hcohort : t.curCohort.channelless = s.curCohort.channelless := by
    unfold State.curCohort
    rw [h.cur]
    exact h.cohorts _
  refine ⟨?_, ?_, ?_, ?_, (congrArg Cohort.pmap hcohort :), (congrArg Cohort.barrier hcohort :)⟩
  all_goals rw [h.cur]

theorem OnlyChannels.setCur_both (x : Strand) : OnlyChannels (s.setCur x) (t.setCur x) := by
  refine ⟨fun k => ?_, h.cohorts, h.cores, h.rest⟩
  simp only [State.setCur, h.curKey, State.strand_setStrand, h.strands]

theorem OnlyChannels.pushQueue_both (x : Line) : OnlyChannels (s.pushQueue s.curKey x) (t.pushQueue t.curKey x) := by
  have hnow : t.now = s.now := (congrArg State.now h.rest :)
  refine ⟨h.strands, fun c => ?_, h.cores, h.rest⟩
  simp only [State.pushQueue, h.curKey, h.strands, State.cohort_setCohort]
  split
  · have hmail : (t.cohort (s.strand s.curKey).ccb).mailbox = (s.cohort (s.strand s.curKey).ccb).mailbox :=
      (congrArg Cohort.mailbox (h.cohorts _) :)
    rw [hmail, hnow]
    exact congrArg (fun k : Cohort => { k with
      mailbox := (s.cohort (s.strand s.curKey).ccb).mailbox ++ [x], mailAt := s.now }) (h.cohorts _)
  · exact h.cohorts c

/-- A scalar result that is written on both sides leaves only the channels different. -/
theorem OnlyChannels.writeS_both (d : Code) (late : Bool) (v : DWord) : OnlyChannels (s.writeS d late v) (t.writeS d late v) := by
  unfold State.writeS State.onCur
  rw [h.cur]
  split
  · exact h.setCur_both _
  · exact (h.setCur_both _).pushQueue_both _

/-- A scalar result stands whatever channels change. -/
theorem OnlyChannels.scalarResult {r : State} {us : List Use} {d : Code} {v x : DWord} (hr : ScalarResult r s us d v x) :
    ScalarResult r t us d v x := by
  have hkeeps := hr.keeps.trans (h.keeps _ _)
  rw [hr.keeps.own.stat] at hkeeps
  refine ⟨?_, ?_, fun hd => (congrArg Cohort.mailbox (h.cohorts _) :).trans (hr.push hd), hkeeps⟩
  all_goals rw [h.cur]
  exacts [hr.now, hr.late]

end OnlyChannels

/-! ### What a channel holds -/

section Channel
variable (s : State) (core : Nat) (ccb : DWord) (ch : Nat)

theorem State.channelsOf_setChannel (l : List Command) :
    (s.setChannel core ccb ch l).channelsOf core ccb = Tab.set [] (s.channelsOf core ccb) ch l := by
  unfold State.setChannel State.channelsOf
  dsimp only
  split
  · rw [State.core_setCore_self]
  · rw [State.cohort_setCohort_self]

theorem State.channel_setChannel (l : List Command) (n : Nat) :
    (s.setChannel core ccb ch l).channel core ccb n = if n = ch then l else s.channel core ccb n := by
  rw [State.channel, State.channelsOf_setChannel, Tab.get_set]
  rfl

@[simp] theorem State.headCommand_setHead (m : Command) : (s.setHead core ccb ch m).headCommand core ccb ch = some m := by
  rw [State.headCommand, State.setHead, State.channel_setChannel, if_pos rfl]
  rfl

theorem State.channelsOf_congr {s t : State} (hcores : ∀ c, (t.core c).channels = (s.core c).channels)
    (hcohorts : ∀ c, (t.cohort c).channels = (s.cohort c).channels) : t.channelsOf core ccb = s.channelsOf core ccb := by
  unfold State.channelsOf
  rw [hcores, hcohorts]

theorem Quiet.channelsOf {s t : State} (h : Quiet s t) : t.channelsOf core ccb = s.channelsOf core ccb :=
  State.channelsOf_congr core ccb (fun c => (congrArg Core.channels (h.cores c) :))
    (fun c => (congrArg Cohort.channels (h.cohorts c) :))

/-- A new value of a cohort with the same channels. -/
theorem State.channelsOf_setCohort (k : DWord) (x : Cohort) (h : x.channels = (s.cohort k).channels) :
    (s.setCohort k x).channelsOf core ccb = s.channelsOf core ccb := by
  refine State.channelsOf_congr core ccb (fun _ => rfl) fun c => ?_
  rw [State.cohort_setCohort]
  split
  · next hc => rw [hc, h]
  · rfl

theorem State.channelsOf_writeS (d : Code) (late : Bool) (v : DWord) :
    (s.writeS d late v).channelsOf core ccb = s.channelsOf core ccb := by
  unfold State.writeS
  split
  · rfl
  · exact State.channelsOf_setCohort _ _ _ _ _ rfl

variable {s core ccb ch}

/-- What a channel holds depends on the channels of its owner alone. -/
theorem State.channel_of_channelsOf {t : State} (h : t.channelsOf core ccb = s.channelsOf core ccb) (n : Nat) :
    t.channel core ccb n = s.channel core ccb n := congrArg (fun l => Tab.get [] l n) h

end Channel

/-- The end of an issue leaves the channels of the issuing strand as they are. -/
theorem Quiet.ownChannel {s t : State} (h : Quiet s t) (c : BitVec 3) : ownChannel t c = ownChannel s c := by
  have hcore : t.cur.core = s.cur.core := (congrArg Strand.core h.cur :)
  have hsup : t.cur.sup = s.cur.sup := (congrArg Strand.sup h.cur :)
  have hccb : t.cur.ccb = s.cur.ccb := (congrArg Strand.ccb h.cur :)
  unfold Claims.ownChannel Strand.channelOwner
  rw [hcore, hsup, hccb]
  exact State.channel_of_channelsOf (h.channelsOf ..) _

end Sys2Proof.Machine
end

section
/-! Settles 10 R269, R272, R273, R286, R287, R289 and R290. -/

namespace Sys2Proof.Machine

open Sys2Proof.Claims

/-! ### Acceptance (R269, R273) -/

/-- The next accumulator command of a cohort, which no supervisor strand has, takes this place in their order (R281). -/
def State.setOrder (s : State) (owner : DWord) (n : Nat) : State :=
  if owner = 0 then s else s.setCohort owner { s.cohort owner with mxOrder := n }

theorem OnlyChannels.setOrder (s : State) (owner : DWord) (n : Nat) : OnlyChannels s (s.setOrder owner n) := by
  unfold State.setOrder
  split
  · exact OnlyChannels.refl s
  · exact OnlyChannels.setCohort _ _ _ rfl

theorem State.channelsOf_setOrder (s : State) (core : Nat) (ccb owner : DWord) (n : Nat) :
    (s.setOrder owner n).channelsOf core ccb = s.channelsOf core ccb := by
  unfold State.setOrder
  split
  · rfl
  · exact State.channelsOf_setCohort _ _ _ _ _ rfl

section Accept
variable {s : State} {us : List Use} {m : Command} {ch shape strides : Nat}

theorem State.acceptCommand_of_cause {x : Cause} (hcause : lowestCause (s.commandCauses s.curCohort m shape strides) = some x)
    (hx : x ≠ .accOwnerMiss) : s.acceptCommand us m ch shape strides = s.raiseAllAt x 0 := by
  simp only [State.acceptCommand, hcause, if_neg hx]

/-- The channel of a number that the issuing strand names. -/
def State.namedChannel (s : State) (ch : Nat) : List Command := s.channel s.cur.core s.cur.channelOwner ch

theorem State.acceptCommand_of_full (hcause : lowestCause (s.commandCauses s.curCohort m shape strides) = none)
    (hfull : 16 ≤ (s.namedChannel ch).length ∨ 256 ≤ s.commandsOn s.cur.core) :
    s.acceptCommand us m ch shape strides = s.stallWith 12 := by
  simp only [State.acceptCommand, hcause]
  exact if_pos (or_assoc.1 (.inl hfull))

/-- The state in which a command has joined the end of a channel of the issuing strand, and counts among the accumulator commands
of its cohort. -/
def State.joined (s : State) (ch : Nat) (m : Command) : State :=
  (s.setChannel s.cur.core s.cur.channelOwner ch (s.namedChannel ch ++ [{ m with order := s.curCohort.mxOrder }])).setOrder
    s.cur.channelOwner (s.curCohort.mxOrder + 1)

theorem State.acceptCommand_of_room (hcause : lowestCause (s.commandCauses s.curCohort m shape strides) = none)
    (hchannel : (s.namedChannel ch).length < 16) (hengine : s.commandsOn s.cur.core < 256)
    (hold : ∀ x ∈ s.namedChannel ch, x.old = false)
    (hdrains : m.dest = .slot → s.drainHolds s.curCohort m.slotIdx m.col0 m.len = false) (hpops : s.popSources us = s) :
    s.acceptCommand us m ch shape strides = (s.joined ch m).settle [(place s + 4, lanes s)] [] := by
  have hfree : ¬ (16 ≤ (s.namedChannel ch).length ∨ 256 ≤ s.commandsOn s.cur.core ∨
      ((s.namedChannel ch).any fun x => x.old) = true) := by
    have hany : ((s.namedChannel ch).any fun x => x.old) = false := by simpa using hold
    simp [hany, hchannel, hengine]
  have hreads : ¬ (m.dest = .slot ∧ s.drainHolds s.curCohort m.slotIdx m.col0 m.len = true) := by
    rintro ⟨hdest, hholds⟩
    rw [hdrains hdest] at hholds
    exact Bool.false_ne_true hholds
  simp only [State.acceptCommand, hcause, hpops]
  exact (if_neg hfree).trans (if_neg hreads)

theorem OnlyChannels.joined (s : State) (ch : Nat) (m : Command) : OnlyChannels s (s.joined ch m) :=
  (OnlyChannels.setChannel ..).trans (OnlyChannels.setOrder ..)

/-- Only the named channel has one more command. -/
theorem State.namedChannel_joined (s : State) (ch : Nat) (m : Command) (n : Nat) : (s.joined ch m).namedChannel n =
    if n = ch then s.namedChannel ch ++ [{ m with order := s.curCohort.mxOrder }] else s.namedChannel n := by
  rw [State.namedChannel, (OnlyChannels.joined s ch m).cur]
  exact (State.channel_of_channelsOf (State.channelsOf_setOrder ..) n).trans (State.channel_setChannel ..)

end Accept

section Transfer
variable {s : State} {op : CopyOp} {e g : Bool} {c : BitVec 3} {k : BitVec 4} {a b : Code}

theorem transfer_of_odd (hk : k.toNat % 2 = 1) : transfer op e g c k a b s = .next (s.raiseAll .illegalOpcode) := by
  have hbad : (k.toNat % 2 != 0) = true := by simp [hk]
  unfold transfer
  rw [hbad]
  exact runPointWith_of_bad ..

/-- The fields of a transfer command name scalars and specials alone, and no queue. -/
theorem popSources_usesCopy (h : Ready s (usesCopy e g k a b)) : s.popSources (usesCopy e g k a b) = s := by
  have hsegments : ∀ u ∈ usesCopy e g k a b, u.code.toNat < 0x70 := by
    have hcodes := h.accepted
    simp only [usesCopy, List.all_cons, List.all_nil, Use.accepted, isSeg, Bool.and_eq_true, decide_eq_true_eq] at hcodes
    have hk : (k.zeroExtend 7).toNat = k.toNat := BitVec.toNat_setWidth_of_le (by decide)
    have hk1 : (k.zeroExtend 7 + 1 : Code).toNat = (k.toNat + 1) % 2 ^ 7 := by rw [BitVec.toNat_add, hk]; rfl
    simp only [usesCopy, List.forall_mem_cons, hk, hk1]
    refine ⟨?_, ?_, ?_, ?_, ?_, ?_, nofun⟩
    all_goals omega
  have hqueues : ∀ u ∈ usesCopy e g k a b, u.queue? = none := fun u hu => Use.queue?_eq_none u.role (hsegments u hu)
  have hsources := sourceQueues_eq_nil hqueues
  exact popSources_of_none s _ (by rw [popsInto, hsources]; rfl)

theorem transfer_of_ready (hc : Unchecked s) (hk : k.toNat % 2 = 0) (h : Ready s (usesCopy e g k a b)) :
    transfer op e g c k a b s = .next (s.acceptCommand (usesCopy e g k a b) { commandOf s op k a b with order := 0 } c.toNat
      (s.usrc b).toNat (s.usrc (b + 1)).toNat) := by
  have hbad : (k.toNat % 2 != 0) = false := by simp [hk]
  unfold transfer
  rw [hbad]
  exact h.runPoint hc rfl

end Transfer

theorem exec_of_mem_copyTable {p} (hp : p ∈ copyTable) (e g : Bool) (c : BitVec 3) (k : BitVec 4) (a b : Code) (s : State) :
    exec (p.1 e g c k a b) s = transfer p.2 e g c k a b s := by
  unfold copyTable at hp
  fin_cases hp
  all_goals rfl

/-! ### `ccan` (R287) -/

/-- A command of a channel that `ccan` ends. -/
def Command.cancelled (m : Command) : Command :=
  if m.ended.isSome && m.parked.isNone then m else { m with ended := some (2, 0), parked := none }

/-- A state in which every command of a channel of the issuing strand is cancelled. -/
def State.cancelled (s : State) (ch : Nat) : State :=
  s.setChannel s.cur.core s.cur.channelOwner ch ((s.namedChannel ch).map Command.cancelled)

theorem OnlyChannels.cancelled (s : State) (ch : Nat) : OnlyChannels s (s.cancelled ch) := OnlyChannels.setChannel ..

theorem State.namedChannel_cancelled (s : State) (ch n : Nat) : (s.cancelled ch).namedChannel n =
    if n = ch then (s.namedChannel ch).map Command.cancelled else s.namedChannel n := by
  rw [State.namedChannel, (OnlyChannels.cancelled s ch).cur]
  exact State.channel_setChannel ..

theorem execCcan_eq {s : State} (hc : Unchecked s) (c : BitVec 3) : execCcan c s = .next (s.cancelled c.toNat).advance :=
  (ready_nil s).runPoint hc rfl

/-! ### One access for the whole entry (07 R202) -/

theorem Popped.reach (s : State) (core : Nat) (home : Bool) (l : List Place) : Popped s (s.reach core home l) :=
  ⟨rfl, fun _ => rfl, ⟨rfl, rfl, rfl, fun _ => rfl, fun _ => rfl⟩, ⟨rfl, rfl, rfl, rfl, rfl, fun _ => rfl, fun _ => rfl, fun _ => rfl,
    fun _ => rfl, fun _ => rfl, fun _ => rfl⟩, fun _ h => h, fun _ _ => rfl, fun _ => rfl⟩

theorem Popped.takeMisses (s : State) (core : Nat) (priv : Bool) (m : Misses) : Popped s (s.takeMisses core priv m) :=
  Popped.setCore _ _ _ ⟨rfl, rfl, rfl, rfl, rfl, rfl, rfl⟩ rfl

theorem Popped.dropL1 (s : State) (core : Nat) : Popped s (s.dropL1 core) :=
  Popped.setCore _ _ _ ⟨rfl, rfl, rfl, rfl, rfl, rfl, rfl⟩ rfl

/-- A state in which an access of the issuing strand is made: it has its miss-status entries (07 R213). -/
def State.accessing (s : State) (home : Bool) (p : Place) : State :=
  (s.reach s.cur.core home [p]).takeMisses s.cur.core false (s.planMisses s.cur.core home [p])

theorem Popped.accessing (s : State) (home : Bool) (p : Place) : Popped s (s.accessing home p) :=
  (Popped.reach ..).trans (Popped.takeMisses ..)

/-- A read of an MMIO page takes a free value (05 R151). -/
theorem State.mmioRead_ne (s : State) (n : Nat) : (s.mmioRead n).1 ≠ s := by
  intro h
  have hfree := congrArg State.free h
  unfold State.mmioRead at hfree
  split at hfree
  · exact Nat.succ_ne_self _ hfree
  · have hticks : s.free + 2 = s.free := hfree
    omega

theorem State.watch_of_unwatched {s : State} {st : Strand} (h : (s.core st.core).watchPoints = []) (pc : Pc) (rd wr : Bool)
    (n : Nat) (l : List (Nat × DWord)) : s.watch st pc rd wr n l = s := by
  have hhits (va : DWord) : (s.core st.core).watchHits (s.pasidOf st) rd wr va n = [] := by simp [Core.watchHits, h]
  simp [State.watch, hhits]

/-- An access takes no L1 line and no error mark, so that it reads what the state before it shows. -/
theorem State.readPlace_accessing {s : State} {home : Bool} {n v : Nat} {p : Place}
    (h : s.readPlace s.cur.core home n p = (s, .ok v)) :
    (s.accessing home p).readPlace s.cur.core home n p = (s.accessing home p, .ok v) := by
  have hl1 : ((s.accessing home p).core s.cur.core).l1 = (s.core s.cur.core).l1 :=
    (congrArg Core.l1 (State.core_setCore_self ..)).trans rfl
  cases p with
  | scratch c o => exact congrArg (Prod.mk _) (congrArg Prod.snd h)
  | line key l b => exact congrArg (Prod.mk _) (congrArg Prod.snd h)
  | gone => exact congrArg (Prod.mk _) (congrArg Prod.snd h)
  | phys q =>
    have hlate : (s.accessing home (.phys q)).lateCause q n = s.lateCause q n := rfl
    simp only [State.readPlace, hl1, hlate] at h ⊢
    split at h
    · exact congrArg (Prod.mk _) (congrArg Prod.snd h)
    · split at h
      · cases h
      · split at h
        · exact absurd (congrArg Prod.fst h) (s.mmioRead_ne n)
        · next hloc => exact (if_neg hloc).trans (congrArg (Prod.mk _) (congrArg Prod.snd h))

/-- The physical place of an access, which its producer keeps; one that reaches no memory shows local address 0. -/
def Place.physical : Place → Phys
  | .phys q => q
  | .scratch _ _ | .line _ _ _ | .gone => { loc := .dev, addr := 0, uc := false, locked := false }

/-- A uniform access that reads is made, and its value handed on. -/
theorem State.loadUniform_of_reads {s : State} {form : Form} {n v : Nat} {home : Bool} {va : DWord} {p : Place}
    (h : EntryReads s form n home va p v) (k : State → Misses → Phys → Nat → State) :
    s.loadUniform form n home va k =
      (k (s.accessing home p) (s.planMisses s.cur.core home [p]) p.physical v).advance := by
  have hreach : s.checkLane s.cur .read form n n 0 va = (s, .ok p) := h.reach
  have hread := State.readPlace_accessing h.value
  have hpoints : ((s.accessing home p).core s.cur.core).watchPoints = [] :=
    (congrArg Core.watchPoints (State.core_setCore_self ..)).trans h.unwatched
  simp only [State.loadUniform, hreach, h.free, Bool.false_eq_true, if_false]
  rw [← State.accessing, hread]
  simp only [State.watch_of_unwatched hpoints]
  cases p <;> rfl

/-! ### `cdone` (R286) -/

section Given
variable {s t u : State} {m : Nat} {v : DWord}

theorem Strand.produce_eq (st : Strand) (m : Nat) (p : Producer) : st.produce m p = { st with
    stat := st.markScalarWrite.stat, sFull := setBit st.sFull m false, producers := st.producers ++ [p] } := by
  unfold Strand.produce Strand.markScalarWrite
  split <;> rfl

theorem SameCourse.produce (s : State) (m : Nat) (p : Producer) : SameCourse s (s.onCur fun st => st.produce m p) := by
  rw [State.onCur, Strand.produce_eq]
  exact SameCourse.setCur rfl rfl rfl rfl

/-- A scalar that a producer has to give is empty until then (04 R99). -/
theorem givenScalar_produce (s : State) (m : Nat) {p : Producer} (hp : p.scalars = [(m, v)]) :
    GivenScalar s (s.onCur fun st => st.produce m p) m v := by
  rw [State.onCur, Strand.produce_eq]
  refine ⟨?_, ⟨p, ?_, hp⟩, Keeps.setCur ⟨fun _ _ => rfl, fun _ _ => rfl, rfl, rfl, rfl, rfl, rfl, rfl, rfl, rfl, rfl⟩⟩
  · rw [State.cur_setCur]
    exact getLsbD_setBit_false ..
  · rw [State.cur_setCur]
    exact List.mem_append_right _ (List.mem_singleton_self p)

theorem GivenScalar.quiet (h : GivenScalar s t m v) (q : Quiet t u) : GivenScalar s u m v := by
  have hfull : u.cur.sFull = t.cur.sFull := (congrArg Strand.sFull q.cur :)
  have hproducers : u.cur.producers = t.cur.producers := (congrArg Strand.producers q.cur :)
  exact ⟨hfull ▸ h.empty, hproducers ▸ h.producer, h.keeps.quiet q⟩

/-- The scalar stays to be given when the L1 of a core is dropped after it. -/
theorem GivenScalar.dropL1 (h : GivenScalar s t m v) (core : Nat) : GivenScalar s (t.dropL1 core) m v := by
  have hkeeps := h.keeps.trans ((Popped.dropL1 t core).keeps _ _)
  rw [h.keeps.own.stat] at hkeeps
  exact ⟨h.empty, h.producer, hkeeps⟩

/-- What is popped before the scalar is given does not bear on it. -/
theorem GivenScalar.of_popped (hp : Popped s t) (h : GivenScalar t u m v) : GivenScalar s u m v := by
  have hkeeps := (hp.keeps _ _).trans h.keeps
  rw [markScalarWrite_stat_congr hp.frontier hp.stat] at hkeeps
  exact ⟨h.empty, h.producer, hkeeps⟩

end Given

theorem execCdone_of_reads {s : State} (hl : HasLanes s) (hc : Unchecked s) {e : Bool} {d a : Code} {p : Place} {v : Nat}
    (h : Ready s [⟨.sseg, a, e⟩, ⟨.seg, d, false⟩]) (hr : EntryReads s .plain 8 true (s.usrc a) p v) :
    ∃ t, execCdone e d a s = .next t ∧ GivenScalar s t (d.toNat - 0x60) (BitVec.ofNat 64 v) := by
  refine ⟨_, h.runPoint hc (State.loadUniform_of_reads hr _), ?_⟩
  have haccess := Popped.accessing s true p
  have hgiven := (givenScalar_produce (s.accessing true p) (d.toNat - 0x60) (v := BitVec.ofNat 64 v) (p := scalarProducer s
    (candidate s.cur) (d.toNat - 0x60) (s.usrc a) (s.planMisses s.cur.core true [p]) p.physical v) rfl).dropL1 s.cur.core
  exact (hgiven.of_popped haccess).quiet
    (((haccess.course.trans (SameCourse.produce ..)).trans (Popped.dropL1 ..).course).quiet_advance hl)

/-! ### `chres` and `chabt` (R289, R290) -/

section Repair
variable {s : State} (hpriv : s.cur.priv = true) (f : Command → Command) {e g : Bool} {d a b : Code}

/-- The operands of `chres` and `chabt`. -/
def usesRepair (e g : Bool) (d a b : Code) : List Use := [⟨.ssrc, a, e⟩, ⟨.ssrc, b, g⟩, ⟨.sdst, d, false⟩]

/-- Whether the engine of the issuing core holds a command of a cohort. -/
def State.serves (s : State) (ccb : DWord) : Bool := (s.channelsOf s.cur.core ccb).any fun x => x.2.any fun m => m.core == s.cur.core

variable (h : Ready s (usesRepair e g d a b))
include hpriv h

theorem repair_of_unknown (hnone : 8 ≤ (s.ssrc b).toNat ∨ s.serves (s.ssrc a) = false) : repair f e g d a b s =
    .next ((s.popSources (usesRepair e g d a b)).writeS d (popsInto (usesRepair e g d a b)) 2).advance :=
  (run_of_ready h (fun _ => hpriv) _).trans (congrArg _ (if_pos hnone))

theorem repair_of_running (hch : (s.ssrc b).toNat < 8) (hhere : s.serves (s.ssrc a) = true)
    (hhead : ∀ m, s.headCommand s.cur.core (s.ssrc a) (s.ssrc b).toNat = some m → m.parked = none ∨ m.core ≠ s.cur.core) :
    repair f e g d a b s =
      .next ((s.popSources (usesRepair e g d a b)).writeS d (popsInto (usesRepair e g d a b)) 1).advance := by
  have hknown : ¬ (8 ≤ (s.ssrc b).toNat ∨ s.serves (s.ssrc a) = false) := by simp [hhere, hch]
  refine (run_of_ready h (fun _ => hpriv) _).trans (congrArg _ ((if_neg hknown).trans ?_))
  dsimp only
  split
  · next m hm =>
    have hidle : ¬ (m.parked.isSome && m.core == s.cur.core) = true := by
      obtain hrun | hcore := hhead m hm
      · simp [hrun]
      · simp [hcore]
    exact if_neg hidle
  · rfl

theorem repair_of_parked (hch : (s.ssrc b).toNat < 8) (hhere : s.serves (s.ssrc a) = true) {m : Command}
    (hhead : s.headCommand s.cur.core (s.ssrc a) (s.ssrc b).toNat = some m) (hparked : m.parked.isSome = true)
    (hcore : m.core = s.cur.core) : repair f e g d a b s =
      .next (((s.popSources (usesRepair e g d a b)).setHead s.cur.core (s.ssrc a) (s.ssrc b).toNat (f m)).writeS d
        (popsInto (usesRepair e g d a b)) 0).advance := by
  have hknown : ¬ (8 ≤ (s.ssrc b).toNat ∨ s.serves (s.ssrc a) = false) := by simp [hhere, hch]
  refine (run_of_ready h (fun _ => hpriv) _).trans (congrArg _ ((if_neg hknown).trans ?_))
  simp only [hhead, hparked, hcore, BEq.rfl, Bool.and_self, if_true]
  rfl

end Repair

/-- The head of a channel changes, and a scalar result is written. -/
theorem scalarResult_setHead {s : State} (us : List Use) (core : Nat) (ccb : DWord) (ch : Nat) (m : Command) (d : Code) (v : DWord)
    (hl : HasLanes s) : let t := (((s.popSources us).setHead core ccb ch m).writeS d (popsInto us) v).advance
    ScalarResult s t us d v s.cur.markScalarWrite.stat ∧ t.headCommand core ccb ch = some m := by
  have hset : OnlyChannels (s.popSources us) ((s.popSources us).setHead core ccb ch m) := OnlyChannels.setChannel ..
  have hquiet := (((SameCourse.popSources s us).trans hset.course).trans (SameCourse.writeS _ d (popsInto us) v)).quiet_advance hl
  obtain ⟨hresult, -, -⟩ := scalarResult_write s us d v
  refine ⟨((hset.writeS_both ..).scalarResult hresult).quiet hquiet, ?_⟩
  have hchannels := (hquiet.channelsOf core ccb).trans (State.channelsOf_writeS ..)
  exact (congrArg List.head? (State.channel_of_channelsOf hchannels ch)).trans (State.headCommand_setHead ..)

/-- A repair of a parked command changes it as its row says. -/
theorem exec_of_mem_repairTable {r} (hr : r ∈ repairTable) (e g : Bool) (d a b : Code) (s : State) : ∃ f : Command → Command,
    exec (r.1 e g d a b) s = repair f e g d a b s ∧ ∀ m x, m.parked = some x → f m = r.2 m x := by
  unfold repairTable at hr
  fin_cases hr
  · exact ⟨_, rfl, fun _ _ _ => rfl⟩
  · exact ⟨_, rfl, fun m x hx => by rw [hx]; rfl⟩

end Sys2Proof.Machine

namespace Sys2Proof.Proofs

open Sys2Proof.Machine Sys2Proof.Claims

theorem transferAcceptance : TransferAcceptance := by
  intro p hp e g c k a b s hc m causes
  rw [exec_of_mem_copyTable hp]
  refine ⟨transfer_of_odd, fun hk h => ?_⟩
  rw [transfer_of_ready hc hk h]
  refine ⟨fun x hx hne => ?cause, fun hnone hfull => ?full, fun hnone hchannel hengine hl hold hdrains => ?room⟩
  case cause => rw [State.acceptCommand_of_cause hx hne]
  case full => rw [State.acceptCommand_of_full hnone hfull]
  case room =>
    have hjoins := OnlyChannels.joined s c.toNat { m with order := 0 }
    have hquiet := hjoins.course.quiet_settle hl (someGoes_lanes hl (place s + 4))
    refine ⟨_, congrArg _ (State.acceptCommand_of_room hnone hchannel hengine hold hdrains (popSources_usesCopy h)), ?_, fun x hx => ?_,
      (hjoins.keeps _ _).quiet hquiet⟩
    · exact (hquiet.ownChannel c).trans ((State.namedChannel_joined ..).trans (if_pos rfl))
    · have hne : x.toNat ≠ c.toNat := fun heq => hx (BitVec.eq_of_toNat_eq heq)
      exact (hquiet.ownChannel x).trans ((State.namedChannel_joined ..).trans (if_neg hne))

theorem channelInstructions : ChannelInstructions := by
  refine ⟨fun c s hl hc => ?ccan, fun e d a s p v hl hc h hr => execCdone_of_reads hl hc h hr, fun r hr e g d a b s hpriv hl => ?repair⟩
  case ccan =>
    have hcancels := OnlyChannels.cancelled s c.toNat
    have hquiet := hcancels.course.quiet_advance hl
    refine ⟨_, execCcan_eq hc c, (hcancels.keeps _ _).quiet hquiet, ?_, fun x hx => ?_⟩
    · exact (hquiet.ownChannel c).trans ((State.namedChannel_cancelled ..).trans (if_pos rfl))
    · have hne : x.toNat ≠ c.toNat := fun heq => hx (BitVec.eq_of_toNat_eq heq)
      exact (hquiet.ownChannel x).trans ((State.namedChannel_cancelled ..).trans (if_neg hne))
  case repair =>
    intro us h ccb ch i here head
    obtain ⟨f, hexec, hf⟩ := exec_of_mem_repairTable hr e g d a b s
    refine ⟨fun hnone => ?_, fun hch hhere hhead => ?_, fun m x hch hhere hhead hparked hcore => ?_⟩
    · exact ⟨_, hexec.trans (repair_of_unknown hpriv f h hnone), scalarResult_writeS s us d 2 hl⟩
    · exact ⟨_, hexec.trans (repair_of_running hpriv f h hch hhere hhead), scalarResult_writeS s us d 1 hl⟩
    · rw [← hf m x hparked]
      exact ⟨_, hexec.trans (repair_of_parked hpriv f h hch hhere hhead (by rw [hparked]; rfl) hcore),
        scalarResult_setHead us s.cur.core ccb ch (f m) d 0 hl⟩

/-- Settles O34: a command joins its channel, waits or raises by the branches of its acceptance; a change of channels leaves all
else alone. -/
theorem transferCommands : Obligations.TransferCommands := ⟨transferAcceptance, channelInstructions⟩

end Sys2Proof.Proofs
end

section
/-! Settles 10 R270, R274 to R276 and R288. Each action on the head of a channel has one equation for what it does; the step of a channel
is its action. What a fault record is written through leaves all of a core but its writes under way as they were. -/

namespace Sys2Proof.Machine

open Sys2Proof.Claims

/-! ### A write to local memory -/

section Local
variable (s : State) (a n v : Nat)

theorem State.core_putBytes_dev (k : Nat) : (s.putBytes .dev a n v).core k = s.core k := by
  simp only [State.putBytes, State.noteWrite]
  split
  · rfl
  · split <;> rfl

theorem State.local_putBytes_dev : (s.putBytes .dev a n v).local_ = Memory.writeN s.local_ a n v := by
  simp only [State.putBytes, State.noteWrite]
  split
  · next h => cases h
  · split <;> rfl

theorem State.channelsOf_putBytes_dev (core : Nat) (ccb : DWord) :
    (s.putBytes .dev a n v).channelsOf core ccb = s.channelsOf core ccb :=
  State.channelsOf_congr core ccb (fun k => congrArg Core.channels (s.core_putBytes_dev a n v k))
    (fun c => congrArg Cohort.channels (cohort_of_actors (s.putBytes_actors .dev a n v) c))

variable {s} {m : Command} {w : Sender} {va : DWord} {p : Phys}

theorem State.placeLink_of_dev (hp : p.loc = .dev) : s.placeLink p = none := by
  rw [State.placeLink, hp]

/-- A write of a command to local memory is performed when it is made. -/
theorem State.commandPut_of_dev (hp : p.loc = .dev) : s.commandPut m w va p n v = s.putBytes .dev p.addr n v := by
  simp [State.commandPut, State.sendWrite, hp]

end Local

/-! ### A write to the tile store (R267) -/

/-- The bytes that a write of n bytes at a window offset puts into the tile store. -/
def tileBytes (c : Cohort) (o n v : Nat) : List (Nat × Byte) :=
  (List.range n).map fun i => (c.tileAddr (o + i), BitVec.ofNat 8 (v / 2 ^ (8 * i)))

/-- A core without its tile store. -/
def Core.tileless (k : Core) : Core := { k with tile := [] }

/-- Bytes are written into the tile store of a core, first to last, and nothing else changes. -/
structure TileStored (s t : State) (core : Nat) (l : List (Nat × Byte)) : Prop where
  bytes : ∀ x, Memory.read (t.core core).tile x = tileAfter l (Memory.read (s.core core).tile x) x
  others : ∀ k, k ≠ core → (t.core k).tile = (s.core k).tile
  strands : ∀ k, t.strand k = s.strand k
  cohorts : ∀ c, t.cohort c = s.cohort c
  cores : ∀ k, (t.core k).tileless = (s.core k).tileless
  rest : t.rest = s.rest

theorem Memory.read_foldl_write (addr : Nat → Nat) (value : Nat → Byte) (l : List Nat) (m : Memory) (x : Nat) :
    Memory.read (l.foldl (fun m i => Memory.write m (addr i) (value i)) m) x =
      tileAfter (l.map fun i => (addr i, value i)) (Memory.read m x) x := by
  induction l generalizing m with
  | nil => rfl
  | cons i l ih =>
    rw [List.foldl_cons, ih, Memory.read_write, if_congr eq_comm rfl rfl]
    rfl

theorem tileStored_writeTile (s : State) (ccb : DWord) (o n v : Nat) :
    TileStored s (s.writeTile ccb o n v) (s.cohort ccb).core (tileBytes (s.cohort ccb) o n v) := by
  refine ⟨fun x => ?_, fun k hk => ?_, fun _ => rfl, fun _ => rfl, fun k => ?_, rfl⟩
  · have hpow (i : Nat) : 256 ^ i = 2 ^ (8 * i) := by rw [Nat.pow_mul]
    simp only [State.writeTile, State.core_setCore_self, hpow]
    exact Memory.read_foldl_write ..
  · rw [State.writeTile, State.core_setCore, if_neg hk]
  · rw [State.writeTile, State.core_setCore]
    split
    · next hk => rw [hk]; rfl
    · rfl

theorem TileStored.channelsOf {s t : State} {k : Nat} {l : List (Nat × Byte)} (h : TileStored s t k l) (core : Nat) (ccb : DWord) :
    t.channelsOf core ccb = s.channelsOf core ccb :=
  State.channelsOf_congr core ccb (fun c => (congrArg Core.channels (h.cores c) :)) fun c => congrArg Cohort.channels (h.cohorts c)

/-! ### The head of a channel is changed or dropped -/

theorem OnlyChannels.setHead (s : State) (core : Nat) (ccb : DWord) (ch : Nat) (m : Command) :
    OnlyChannels s (s.setHead core ccb ch m) := OnlyChannels.setChannel ..

theorem OnlyChannels.dropHead (s : State) (core : Nat) (ccb : DWord) (ch : Nat) : OnlyChannels s (s.dropHead core ccb ch) :=
  OnlyChannels.setChannel ..

theorem OnlyChannels.relaxed {s t : State} (h : OnlyChannels s t) (k : Nat) : (t.core k).relaxed = (s.core k).relaxed :=
  (congrArg Core.relaxed (h.cores k) :)

theorem State.channel_dropHead (s : State) (core : Nat) (ccb : DWord) (ch : Nat) :
    (s.dropHead core ccb ch).channel core ccb ch = (s.channel core ccb ch).tail :=
  (State.channel_setChannel ..).trans (if_pos rfl)

/-! ### What the engine does next with a command -/

section Next
variable {m : Command}

theorem Command.next_of_fresh (hended : m.ended = none) (hstarted : m.started = false) : m.next = .start := by
  simp [Command.next, hended, hstarted]

theorem Command.next_of_delivering (hended : m.ended = none) (hstarted : m.started = true) (hleft : m.delivered < m.total) :
    m.next = .unit := by
  simp [Command.next, hended, hstarted, hleft]

theorem Command.next_of_done (h : m.ended = none → m.started = true ∧ m.total ≤ m.delivered) : m.next = .complete := by
  cases hended : m.ended with
  | some x => simp [Command.next, hended]
  | none =>
    obtain ⟨hstarted, hdone⟩ := h hended
    simp [Command.next, hended, hstarted, Nat.not_lt.2 hdone]

end Next

/-! ### The actions on the head of a channel -/

section Action
variable {s s1 : State} {core : Nat} {ccb : DWord} {ch : Nat} {m : Command}

theorem State.channelAction_start (hnext : m.next = .start) (hpwa : m.pwa = 0) :
    s.channelAction core ccb ch m = (s.setHead core ccb ch { m with started := true }, .ok ()) := by
  simp only [State.channelAction, hnext, hpwa, if_true]

/-- The base of the pointer is what the pointer word holds at the start (R275). -/
theorem State.channelAction_start_pointer {v : Nat} (hnext : m.next = .start) (hpwa : m.pwa ≠ 0)
    (hread : s.commandRead m m.pwa 8 = (s, .ok v)) :
    s.channelAction core ccb ch m = (s.setHead core ccb ch { m with started := true, base := v }, .ok ()) := by
  simp only [State.channelAction, hnext, if_neg hpwa, hread, Tried.andThen]

theorem State.channelAction_unit {m1 : Command} (hnext : m.next = .unit)
    (hunit : s.deliverUnit { ccb := ccb, channel := ch } m = (s1, .ok m1)) :
    s.channelAction core ccb ch m = (s1.setHead core ccb ch m1, .ok ()) := by
  simp only [State.channelAction, hnext, hunit, Tried.andThen]

theorem State.channelAction_complete (hnext : m.next = .complete) (hcwa : m.cwa = 0) :
    s.channelAction core ccb ch m = (s.dropHead core ccb ch, .ok ()) := by
  simp only [State.channelAction, hnext, hcwa, if_true]

theorem State.channelAction_complete_word {p : Phys} (hnext : m.next = .complete) (hcwa : m.cwa ≠ 0)
    (hplace : s.commandPlace m .write m.cwa = (s, .ok p)) (hp : p.loc = .dev) :
    s.channelAction core ccb ch m = ((s.putBytes .dev p.addr 8 (m.completion ch)).dropHead core ccb ch, .ok ()) := by
  simp only [State.channelAction, hnext, if_neg hcwa, hplace, Tried.andThen, State.placeLink_of_dev hp, Option.isSome_none,
    Bool.false_eq_true, if_false, State.commandPut_of_dev _ _ hp]

/-- A completion word whose address has no translation parks the channel (R288). -/
theorem State.channelAction_complete_fault {c : Cause} {w : Walked} (hnext : m.next = .complete) (hcwa : m.cwa ≠ 0)
    (hcanonical : canonical m.cwa = true) (haperture : inAperture m.cwa = false)
    (hwalk : s.translate m.core m.pasid m.user .write m.cwa.toNat = (s1, .fail c w)) :
    s.channelAction core ccb ch m = (s1, .error (.park { cause := c, va := m.cwa, kind := .write, level := w.level })) := by
  have hplace : s.commandPlace m .write m.cwa = (s1, .error (.park { cause := c, va := m.cwa, kind := .write, level := w.level })) := by
    simp [State.commandPlace, hcanonical, haperture, hwalk]
  simp only [State.channelAction, hnext, if_neg hcwa, hplace, Tried.andThen]

end Action

/-! ### Units (R274, R275) -/

section Unit
variable {s : State} {w : Sender} {m : Command} {i v : Nat}

/-- The address or the offset of the next unit at its destination. -/
def Command.unitAddr (m : Command) : DWord := rowAddr m.dst m.destStride m.row + BitVec.ofNat 64 m.col

/-- The command after its next unit, of the row that an index word picks. -/
def Command.afterUnit (m : Command) (i : Nat) : Command :=
  Command.after { m with picked := if m.op = .cpix then some i else none } m.unit.2.2

/-- A unit without a pointer, whose source is read and whose destination is reached, is written. -/
theorem State.deliverUnit_of_place {p : Option Phys} (hpwa : m.pwa = 0) (hpick : s.pickIndex m = (s, .ok i))
    (hsource : s.unitSource w.ccb m i = (s, .ok v)) (hplace : s.unitPlace m m.unitAddr = (s, .ok p))
    (hlink : p.bind s.placeLink = none) : s.deliverUnit w m = (s.putUnit w m m.unitAddr p v, .ok (m.afterUnit i)) := by
  have hpointer : s.pointerPlace m = (s, .ok none) := if_pos hpwa
  have hplace' : s.unitPlace m (rowAddr m.dst m.destStride m.unit.1 + BitVec.ofNat 64 m.unit.2.1) = (s, .ok p) := hplace
  simp only [State.deliverUnit, hpick, hsource, hplace', hpointer, Tried.andThen, hlink]
  rfl

theorem State.deliverUnit_of_memory {p : Phys} (hpwa : m.pwa = 0) (hpick : s.pickIndex m = (s, .ok i))
    (hsource : s.unitSource w.ccb m i = (s, .ok v)) (hdest : m.dest = .memory)
    (hplace : s.commandPlace m .write m.unitAddr = (s, .ok p)) (hp : p.loc = .dev) :
    s.deliverUnit w m = (s.putBytes .dev p.addr m.unit.2.2 v, .ok (m.afterUnit i)) := by
  have hunit : s.unitPlace m m.unitAddr = (s, .ok (some p)) := by simp only [State.unitPlace, hdest, if_true, hplace, Tried.andThen]
  rw [State.deliverUnit_of_place hpwa hpick hsource hunit (State.placeLink_of_dev hp)]
  simp only [State.putUnit, hdest, State.commandPut_of_dev _ _ hp]

theorem State.deliverUnit_of_tile (hpwa : m.pwa = 0) (hpick : s.pickIndex m = (s, .ok i))
    (hsource : s.unitSource w.ccb m i = (s, .ok v)) (hdest : m.dest = .tile) :
    s.deliverUnit w m = (s.writeTile w.ccb m.unitAddr.toNat m.unit.2.2 v, .ok (m.afterUnit i)) := by
  have hunit : s.unitPlace m m.unitAddr = (s, .ok none) := by simp [State.unitPlace, hdest]
  rw [State.deliverUnit_of_place hpwa hpick hsource hunit rfl]
  simp only [State.putUnit, hdest]

end Unit

/-! ### The step of a channel -/

/-- The relaxed channel of a core takes no write in an action that leaves the core's writes as they were (15 R411). -/
theorem channelStep_of_action {s s1 : State} {core ccb ch : Nat} {m : Command} {kind : Next} (h : AtHead s core ccb ch m)
    (hnext : m.next = kind)
    (hacked : (kind == .complete && s.unacknowledged m.core { ccb := BitVec.ofNat 64 ccb, channel := ch }) = false)
    (haction : s.channelAction core (BitVec.ofNat 64 ccb) ch m = (s1, .ok ()))
    (hrelaxed : (s1.core m.core).relaxed = (s.core m.core).relaxed) : channelStep kind core ccb ch s = .next s1 := by
  obtain ⟨hhead, hrunning, hfree, hroom⟩ := h
  simp [channelStep, hhead, hrunning, hnext, hfree, hacked, haction, hrelaxed, Nat.not_lt.2 hroom]

/-! ### What an engine that writes memory leaves of a core (05 R135, R148) -/

/-- A core without its writes that are under way: an engine that writes the same bytes takes them out. -/
def Core.landed (k : Core) : Core := { k with outstanding := [], relaxed := [], peerCopies := [] }

/-- A core of a state without its writes under way. -/
def State.landed (s : State) (c : Nat) : Core := (s.core c).landed

section Landed
variable (s : State) (c : Nat)

theorem Tab.get_map {α : Type} (f : α → α) (d : α) (hd : f d = d) (t : Tab α) (x : Nat) :
    Tab.get d (t.map fun k => (k.1, f k.2)) x = f (Tab.get d t x) := by
  induction t with
  | nil => exact hd.symm
  | cons k t ih =>
    simp only [List.map_cons, Tab.get, ih]
    split <;> rfl

theorem State.landed_ite (p : Prop) [Decidable p] (t : State) : (if p then s else t).landed c = if p then s.landed c else t.landed c :=
  apply_ite (fun u => State.landed u c) p s t

@[simp] theorem State.landed_overwrite (peer a n) : (s.overwrite peer a n).landed c = s.landed c := by
  have hcore : (s.overwrite peer a n).core c = (s.core c).overwrite peer a n := by
    refine Tab.get_map (fun k => k.overwrite peer a n) ({} : Core) ?_ s.cores c
    cases peer <;> rfl
  rw [State.landed, hcore]
  rfl

@[simp] theorem State.landed_noteWrite (l a n) : (s.noteWrite l a n).landed c = s.landed c := by
  unfold State.noteWrite
  split <;> rfl

@[simp] theorem State.landed_putQuiet (l a n v) : (s.putQuiet l a n v).landed c = s.landed c := by
  cases l with
  | dev => rfl
  | host => exact State.landed_overwrite ..
  | peer => exact State.landed_overwrite ..
  | mmio => rfl

@[simp] theorem State.landed_putBytes (l a n v) : (s.putBytes l a n v).landed c = s.landed c := by
  unfold State.putBytes
  split
  · rfl
  · exact (State.landed_noteWrite ..).trans (State.landed_putQuiet ..)

@[simp] theorem State.landed_setAccessed (x addr host dirty) : (s.setAccessed x addr host dirty).1.landed c = s.landed c := by
  simp only [State.setAccessed, apply_ite Prod.fst, State.landed_ite, State.landed_putBytes, ite_self]

@[simp] theorem State.landed_installSlice (pasid va leaf level path) :
    (s.installSlice pasid va leaf level path).landed c = s.landed c := rfl

@[simp] theorem State.landed_atsPlace (pasid va p) : (s.atsPlace pasid va p).1.landed c = s.landed c := by
  unfold State.atsPlace State.atsPage
  dsimp only
  split
  · split <;> rfl
  · rfl

@[simp] theorem State.landed_walkEngine (pasid va dirty) : (s.walkEngine pasid va dirty).landed c = s.landed c := by
  unfold State.walkEngine
  split
  · rfl
  · split
    · rfl
    · split
      · simp
      · rfl

@[simp] theorem State.landed_touch (pasid va dirty) : (s.touch pasid va dirty).landed c = s.landed c := by
  unfold State.touch
  dsimp only
  split
  · rfl
  · split <;> simp

@[simp] theorem State.landed_engineWrite (pasid va n v) : (s.engineWrite pasid va n v).landed c = s.landed c := by
  unfold State.engineWrite
  dsimp only
  split <;> simp

end Landed

/-! ### Fault records and parked channels (R288; 12 R336) -/

section Record
variable (s : State) (r : FaultRecord)

/-- The four words of a fault record are written. -/
def State.recorded : State :=
  let k := s.core r.core
  let a := k.frb.toNat + 32 * (k.frt.toNat % 4096)
  (((s.engineWrite 0 a 8 r.addr).engineWrite 0 (a + 8) 8 r.mask.toNat).engineWrite 0 (a + 16) 8
    (r.pasid % 2 ^ 20 + r.cause * 2 ^ 20 + r.sub * 2 ^ 26 + r.kind * 2 ^ 32 + r.level * 2 ^ 34 + r.channel.isSome.toNat * 2 ^ 36 +
      r.channel.getD 0 * 2 ^ 37 + r.core * 2 ^ 40 + r.bench * 2 ^ 48 + r.slot * 2 ^ 50)).engineWrite 0 (a + 24) 8 r.last

theorem State.landed_recorded (c : Nat) : (s.recorded r).landed c = s.landed c := by
  simp [State.recorded]

theorem State.actors_recorded : (s.recorded r).actors = s.actors := by
  simp [State.recorded]

/-- The core of a fault record, once it is written: the tail of its ring has moved. -/
def State.recordCore : Core := { (s.recorded r).core r.core with frt := (s.core r.core).frt + 1 }

theorem State.evq_recordCore : (s.recordCore r).evq = (s.core r.core).evq := (congrArg Core.evq (s.landed_recorded r r.core) :)

/-- A fault record is written, and an event enters the queue of its core. -/
theorem State.postEvent_writeRecord {e : Event} (hroom : (s.core r.core).queueRoom = true) (hmerges : e.cause.merges = false) :
    (s.writeRecord r).1.postEvent r.core e =
      ((s.recorded r).setCore r.core (s.recordCore r)).setCore r.core ((s.recordCore r).enter e) := by
  have hrecord : (s.writeRecord r).1 = (s.recorded r).setCore r.core (s.recordCore r) := rfl
  have hcore : ((s.writeRecord r).1.core r.core) = s.recordCore r := State.core_setCore_self ..
  have hheld : (s.recordCore r).held = (s.core r.core).held := (congrArg Core.held (s.landed_recorded r r.core) :)
  have hrecordRoom : ((s.writeRecord r).1.core r.core).queueRoom = true := by
    rwa [hcore, Core.queueRoom, s.evq_recordCore, hheld]
  rw [State.postEvent_of_room hrecordRoom (by rw [hmerges]; rfl), hcore, hrecord]

/-- Neither the record nor the event has to do with channels. -/
theorem State.channelsOf_enter_recorded (e : Event) (core : Nat) (ccb : DWord) :
    (((s.recorded r).setCore r.core (s.recordCore r)).setCore r.core ((s.recordCore r).enter e)).channelsOf core ccb =
      s.channelsOf core ccb := by
  have hlanded (c : Nat) : ((s.recorded r).core c).channels = (s.core c).channels :=
    (congrArg Core.channels (s.landed_recorded r c) :)
  refine State.channelsOf_congr core ccb (fun c => ?core) fun c => ?cohort
  case core =>
    simp only [State.core_setCore]
    split
    · next hc => rw [hc]; exact hlanded r.core
    · exact hlanded c
  case cohort =>
    simp only [State.cohort_setCore]
    exact congrArg Cohort.channels (cohort_of_actors (s.actors_recorded r) c)

end Record

/-- The fault record of a parked channel. -/
def faultRecord (m : Command) (f : ChannelFault) (ccb ch : Nat) : FaultRecord := {
  addr := f.va.toNat % 2 ^ 56, mask := 0, pasid := m.pasid, cause := Cause.copyChannel.code, sub := f.cause.code,
  kind := f.kind.code, level := f.level, channel := some ch, core := m.core, bench := 0, slot := 0, last := ccb }

/-- The event of a parked channel, whose record has a number. -/
def faultEvent (m : Command) (f : ChannelFault) (ccb ch n : Nat) : Event := {
  cause := .copyChannel, sub := f.cause.code, pasid := m.pasid, param := ch, cib := BitVec.ofNat 64 ccb, taddr := f.va, seq := some n }

/-- A fault parks the channel, and its record and its event are made. -/
theorem execChannelFault_of_park {s s1 : State} {core ccb ch : Nat} {m : Command} {f : ChannelFault} (h : AtHead s core ccb ch m)
    (hring : (s.core m.core).ringFull = false)
    (haction : s.channelAction core (BitVec.ofNat 64 ccb) ch m = (s1, .error (.park f))) :
    let s2 := s1.setHead core (BitVec.ofNat 64 ccb) ch { m with parked := some f.cause.code }
    execChannelFault core ccb ch s = .next ((s2.writeRecord (faultRecord m f ccb ch)).1.postEvent m.core
      (faultEvent m f ccb ch (s2.writeRecord (faultRecord m f ccb ch)).2)) := by
  obtain ⟨hhead, hrunning, hfree, -⟩ := h
  simp only [execChannelFault, hhead, hrunning, hfree, hring, haction, Option.isSome_none, Bool.or_self, Bool.false_eq_true, if_false]
  rfl

/-! ### The steps of a channel, by what they leave (R270, R274 to R276, R288) -/

section Steps
variable {s : State} {core ccb ch : Nat} {m : Command} (h : AtHead s core ccb ch m)
include h

/-- A start changes the head of its channel alone. -/
theorem exec_commandStart_of_action {m1 : Command} (hnext : m.next = .start)
    (haction : s.channelAction core (BitVec.ofNat 64 ccb) ch m = (s.setHead core (BitVec.ofNat 64 ccb) ch m1, .ok ())) :
    ∃ t, exec (.commandStart core ccb ch) s = .next t ∧ SameMemory s t ∧
      t.headCommand core (BitVec.ofNat 64 ccb) ch = some m1 := by
  have hset := OnlyChannels.setHead s core (BitVec.ofNat 64 ccb) ch m1
  exact ⟨_, channelStep_of_action h hnext rfl haction (hset.relaxed _), hset.memory, State.headCommand_setHead ..⟩

section Unit
variable {i v : Nat} (hnext : m.next = .unit) (hpwa : m.pwa = 0) (hpick : s.pickIndex m = (s, .ok i))
  (hsource : s.unitSource (BitVec.ofNat 64 ccb) m i = (s, .ok v))
include hnext hpwa hpick hsource

theorem exec_deliveryUnit_of_memory {p : Phys} (hdest : m.dest = .memory)
    (hplace : s.commandPlace m .write m.unitAddr = (s, .ok p)) (hp : p.loc = .dev) :
    ∃ t, exec (.deliveryUnit core ccb ch) s = .next t ∧
      t.headCommand core (BitVec.ofNat 64 ccb) ch = some (m.afterUnit i) ∧ ∀ x, Memory.read t.local_ x =
        if p.addr ≤ x ∧ x < p.addr + m.unit.2.2 then BitVec.ofNat 8 (v / 2 ^ (8 * (x - p.addr))) else Memory.read s.local_ x := by
  let u := s.putBytes .dev p.addr m.unit.2.2 v
  have hunit : s.deliverUnit { ccb := BitVec.ofNat 64 ccb, channel := ch } m = (u, .ok (m.afterUnit i)) :=
    State.deliverUnit_of_memory hpwa hpick hsource hdest hplace hp
  have hset := OnlyChannels.setHead u core (BitVec.ofNat 64 ccb) ch (m.afterUnit i)
  have hrelaxed := (hset.relaxed m.core).trans (congrArg Core.relaxed (s.core_putBytes_dev ..))
  refine ⟨_, channelStep_of_action h hnext rfl (State.channelAction_unit hnext hunit) hrelaxed, State.headCommand_setHead .., fun x => ?_⟩
  have hpow (k : Nat) : 256 ^ k = 2 ^ (8 * k) := by rw [Nat.pow_mul]
  rw [hset.memory.local_, State.local_putBytes_dev, Memory.read_writeN, hpow]

theorem exec_deliveryUnit_of_tile (hdest : m.dest = .tile) : let c := s.cohort (BitVec.ofNat 64 ccb)
    ∃ t, exec (.deliveryUnit core ccb ch) s = .next t ∧
      t.headCommand core (BitVec.ofNat 64 ccb) ch = some (m.afterUnit i) ∧ t.local_ = s.local_ ∧
      ∀ x, Memory.read (t.core c.core).tile x =
        tileAfter (tileBytes c m.unitAddr.toNat m.unit.2.2 v) (Memory.read (s.core c.core).tile x) x := by
  intro c
  let u := s.writeTile (BitVec.ofNat 64 ccb) m.unitAddr.toNat m.unit.2.2 v
  have hunit : s.deliverUnit { ccb := BitVec.ofNat 64 ccb, channel := ch } m = (u, .ok (m.afterUnit i)) :=
    State.deliverUnit_of_tile hpwa hpick hsource hdest
  have hstored : TileStored s u c.core (tileBytes c m.unitAddr.toNat m.unit.2.2 v) := tileStored_writeTile ..
  have hset := OnlyChannels.setHead u core (BitVec.ofNat 64 ccb) ch (m.afterUnit i)
  have hrelaxed := (hset.relaxed m.core).trans (congrArg Core.relaxed (hstored.cores m.core) :)
  refine ⟨_, channelStep_of_action h hnext rfl (State.channelAction_unit hnext hunit) hrelaxed, State.headCommand_setHead ..,
    hset.memory.local_.trans (congrArg State.local_ hstored.rest :), fun x => ?_⟩
  rw [hset.memory.tile]
  exact hstored.bytes x

end Unit

section Completion
variable (hnext : m.next = .complete) (hacked : s.unacknowledged m.core { ccb := BitVec.ofNat 64 ccb, channel := ch } = false)
include hnext hacked

theorem exec_commandCompletion_of_no_word (hcwa : m.cwa = 0) :
    ∃ t, exec (.commandCompletion core ccb ch) s = .next t ∧ SameMemory s t ∧
      t.channel core (BitVec.ofNat 64 ccb) ch = (s.channel core (BitVec.ofNat 64 ccb) ch).tail := by
  have hdrop := OnlyChannels.dropHead s core (BitVec.ofNat 64 ccb) ch
  exact ⟨_, channelStep_of_action h hnext hacked (State.channelAction_complete hnext hcwa) (hdrop.relaxed _), hdrop.memory,
    State.channel_dropHead ..⟩

theorem exec_commandCompletion_of_word {p : Phys} (hcwa : m.cwa ≠ 0)
    (hplace : s.commandPlace m .write m.cwa = (s, .ok p)) (hp : p.loc = .dev) :
    ∃ t, exec (.commandCompletion core ccb ch) s = .next t ∧
      t.channel core (BitVec.ofNat 64 ccb) ch = (s.channel core (BitVec.ofNat 64 ccb) ch).tail ∧
      Memory.readN t.local_ p.addr 8 = m.completion ch % 2 ^ 64 := by
  let u := s.putBytes .dev p.addr 8 (m.completion ch)
  have hdrop := OnlyChannels.dropHead u core (BitVec.ofNat 64 ccb) ch
  have hrelaxed := (hdrop.relaxed m.core).trans (congrArg Core.relaxed (s.core_putBytes_dev ..))
  have hchannel := State.channel_of_channelsOf (s.channelsOf_putBytes_dev p.addr 8 (m.completion ch) core (BitVec.ofNat 64 ccb)) ch
  refine ⟨_, channelStep_of_action h hnext hacked (State.channelAction_complete_word hnext hcwa hplace hp) hrelaxed,
    (State.channel_dropHead ..).trans (congrArg List.tail hchannel), ?_⟩
  rw [hdrop.memory.local_, State.local_putBytes_dev, Memory.readN_writeN]
  norm_num

end Completion

theorem exec_channelFault_of_park {s1 : State} {f : ChannelFault} (hring : (s.core m.core).ringFull = false)
    (hroom : (s1.core m.core).queueRoom = true)
    (haction : s.channelAction core (BitVec.ofNat 64 ccb) ch m = (s1, .error (.park f))) :
    ∃ t n, exec (.channelFault core ccb ch) s = .next t ∧
      t.headCommand core (BitVec.ofNat 64 ccb) ch = some { m with parked := some f.cause.code } ∧
      (t.core m.core).evq = (s1.core m.core).evq ++ [faultEvent m f ccb ch n] ∧
      (t.core m.core).frt = (s1.core m.core).frt + 1 := by
  let parked : Command := { m with parked := some f.cause.code }
  let s2 := s1.setHead core (BitVec.ofNat 64 ccb) ch parked
  let r := faultRecord m f ccb ch
  let n := (s2.writeRecord r).2
  have hset : OnlyChannels s1 s2 := OnlyChannels.setHead ..
  have hcore : (s2.core m.core).channelless = (s1.core m.core).channelless := hset.cores m.core
  have hroom2 : (s2.core r.core).queueRoom = true := (congrArg Core.queueRoom hcore :).trans hroom
  have hevq : (s2.recordCore r).evq = (s1.core m.core).evq := (s2.evq_recordCore r).trans (congrArg Core.evq hcore :)
  have hfrt : (s2.core m.core).frt = (s1.core m.core).frt := (congrArg Core.frt hcore :)
  have hchannels := s2.channelsOf_enter_recorded r (faultEvent m f ccb ch n) core (BitVec.ofNat 64 ccb)
  have hfault : execChannelFault core ccb ch s = .next ((s2.writeRecord r).1.postEvent r.core (faultEvent m f ccb ch n)) :=
    execChannelFault_of_park h hring haction
  rw [s2.postEvent_writeRecord r hroom2 rfl] at hfault
  refine ⟨_, n, hfault, ?_, ?_, ?_⟩
  · exact (congrArg List.head? (State.channel_of_channelsOf hchannels ch)).trans (State.headCommand_setHead ..)
  · exact (congrArg Core.evq (State.core_setCore_self ..)).trans (congrArg (· ++ [faultEvent m f ccb ch n]) hevq)
  · exact (congrArg Core.frt (State.core_setCore_self ..)).trans (congrArg (· + 1) hfrt)

end Steps

end Sys2Proof.Machine

namespace Sys2Proof.Proofs

open Sys2Proof.Machine Sys2Proof.Claims

/-- Settles O35: a step of a channel is the action on its head. -/
theorem copyChannels : Obligations.CopyChannels := by
  refine ⟨fun s core ccb ch m h hended hstarted => ?start, fun s core ccb ch i v m h hended hstarted hleft hpwa hpick hsource => ?unit,
    fun s core ccb ch m h hdone hacked => ?completion, fun s s1 core ccb ch m f h hring hroom hfault => ?fault⟩
  case start =>
    have hnext := Command.next_of_fresh hended hstarted
    exact ⟨fun hpwa => exec_commandStart_of_action h hnext (State.channelAction_start hnext hpwa),
      fun v hpwa hread => exec_commandStart_of_action h hnext (State.channelAction_start_pointer hnext hpwa hread)⟩
  case unit =>
    have hnext := Command.next_of_delivering hended hstarted hleft
    exact ⟨fun p hdest hplace hp => exec_deliveryUnit_of_memory h hnext hpwa hpick hsource hdest hplace hp,
      fun hdest => exec_deliveryUnit_of_tile h hnext hpwa hpick hsource hdest⟩
  case completion =>
    have hnext := Command.next_of_done hdone
    exact ⟨fun hcwa => exec_commandCompletion_of_no_word h hnext hacked hcwa,
      fun p hcwa hplace hp => exec_commandCompletion_of_word h hnext hacked hcwa hplace hp⟩
  case fault =>
    have haction : s.channelAction core (BitVec.ofNat 64 ccb) ch m = (s1, .error (.park f)) := by
      obtain hpark | ⟨hdone, hcanonical, haperture, hcwa, hva, hkind, w, hwalk, hlevel⟩ := hfault
      · exact hpark
      · have hnext := Command.next_of_done hdone
        rw [State.channelAction_complete_fault hnext hcwa hcanonical haperture hwalk, ← hva, ← hkind, ← hlevel]
    obtain ⟨t, n, hnext, hhead, hevq, hfrt⟩ := exec_channelFault_of_park h hring hroom haction
    exact ⟨t, _, hnext, hhead, hevq, rfl, rfl, rfl, rfl, rfl, hfrt⟩

end Sys2Proof.Proofs
end

section
/-! Settles 10 R282 and R283 with Table 10-7. A tile instruction checks its lines, its offset and its window in this order; what `tld`
gives its lines and what `tst` writes is laid out by the parts of each lane. -/

namespace Sys2Proof.Machine

open Sys2Proof.Claims

/-! ### The checks of a tile instruction (R282) -/

/-- The fields of a tile instruction of n lines, which `tst` reads. -/
def usesTile (reads e : Bool) (d a : Code) (n : Nat) : List Use := [⟨.sseg, a, e⟩, ⟨.vlines n reads, d, false⟩]

section Checks
variable {s : State} {reads e : Bool} {d a : Code} {m n : Nat} (k : State → Nat → State)

theorem runPointWith_of_operandCause {us : List Use} {extra : List Nat} {flags bad priv : Bool} {k : State → State} {h : Halt}
    (hc : s.operandCause us bad priv = some h) : runPointWith flags s us extra bad priv k = .next (s.halt h) := by
  simp [runPointWith, runWith, State.halted, hc]

/-- Lines beyond the declared ones are found before anything else, once the offset is not empty. -/
theorem tileAccess_of_undeclared (hcodes : (usesTile reads e d a n).all (fun u => u.accepted) = true)
    (hfull : e = true → s.cur.sFull.getLsbD (a.toNat - 0x60) = true)
    (hlines : ∃ l ∈ (List.range n).map (fun i => s.cur.wb + d.toNat + i), s.cur.nlines ≤ l) :
    tileAccess reads e d a m n s k = .next (s.raiseAll .windowOverflow) := by
  have haccepted := hcodes
  simp only [usesTile, List.all_cons, List.all_nil, Use.accepted, Bool.and_true, Bool.and_eq_true] at haccepted
  obtain ⟨ha, hd⟩ := haccepted
  have hseg : 0x60 ≤ a.toNat ∧ a.toNat < 0x70 := by simpa [isSeg] using ha
  have hreg : d.toNat < 0x60 := of_decide_eq_true hd
  have hused : usedLines (usesTile reads e d a n) s.cur.wb = (List.range n).map fun i => s.cur.wb + d.toNat + i := by
    simp [usedLines, usesTile, Use.lines, isVreg, Nat.not_lt.2 hseg.1, hreg, Role.scalarClass, Role.width]
  have htraps : (usesTile reads e d a n).any s.trapsOn = false := by
    have hqueue : (Use.mk .sseg a e).queue? = none := Use.queue?_eq_none _ hseg.2
    have hlines : (Use.mk .sseg a e).lines s.cur.wb = [] := by simp [Use.lines, isVreg, Nat.not_lt.2 hseg.1]
    have hscalar : (Use.mk .sseg a e).scalar? = some (a.toNat - 0x60) := if_pos ha
    cases e <;> simp_all [usesTile, State.trapsOn, State.useEmpty]
  have hover : (usedLines (usesTile reads e d a n) s.cur.wb).all (fun l => decide (l < s.cur.nlines)) = false := by
    obtain ⟨l, hl, hle⟩ := hlines
    rw [hused, List.all_eq_false]
    exact ⟨l, hl, by simpa using hle⟩
  exact runPointWith_of_operandCause (operandCause_of_undeclared hcodes htraps hover)

variable (hc : Unchecked s) (h : Ready s (usesTile reads e d a n))
include hc h

theorem tileAccess_of_cause {c : Cause} (hcause : s.cur.tileCause s.curCohort m n (s.usrc a) = some c) :
    tileAccess reads e d a m n s k = .next (s.raiseAllAt c 0) :=
  h.runPoint hc (by rw [hcause])

theorem tileAccess_of_flawed (hcause : s.cur.tileCause s.curCohort m n (s.usrc a) = none)
    (hflawed : s.curCohort.flawedTile = true) : tileAccess reads e d a m n s k = .next (flawedTile s) :=
  h.runPoint hc (by rw [hcause]; exact if_pos hflawed)

theorem tileAccess_of_sound (hcause : s.cur.tileCause s.curCohort m n (s.usrc a) = none)
    (hflawed : s.curCohort.flawedTile = false) :
    tileAccess reads e d a m n s k = .next (k s (s.usrc a).toNat) :=
  h.runPoint hc (by rw [hcause]; exact if_neg (Bool.eq_false_iff.1 hflawed))

end Checks

/-! ### `tld` -/

theorem zipIdx_map_range {α : Type} (f : Nat → α) (n : Nat) :
    ((List.range n).map f).zipIdx = (List.range n).map fun i => (f i, i) := by
  apply List.ext_getElem <;> simp

/-- The sum of four numbered terms, with any weights: to reduce it at the weight 2²⁴ would unroll a product. -/
theorem sum_zipIdx_map_range_four {α : Type} (f : Nat → α) (g : α × Nat → Nat) :
    (((List.range 4).map f).zipIdx.map g).sum = g (f 0, 0) + g (f 1, 1) + g (f 2, 2) + g (f 3, 3) := by
  simp [List.range_succ, Nat.add_assoc]

/-- The word of a lane is the sum of its parts (Table 10-7). -/
theorem tileWord_eq_sum (s : State) (mode o l i : Nat) : tileWord s mode o l i =
    BitVec.ofNat 32 ((tileParts mode o l i).zipIdx.map fun x =>
      s.readTile s.curCohort x.1.1 x.1.2 * 2 ^ (8 * x.1.2 * x.2)).sum := by
  unfold tileWord tileParts
  split
  · simp
  · simp
  · simp
  · next h0 h1 h2 =>
    rw [if_neg h0, if_neg h1, if_neg h2, sum_zipIdx_map_range_four]
    simp

section Load
variable (st : Strand) (lines : List (Nat × Mask × Line))

/-- Lines are emptied until a load gives them (04 R99). -/
def Strand.awaitTile : Strand :=
  { lines.foldl (fun st x => st.emptyLine x.1) st with producers := st.producers ++ [{ lines := lines, tile := true }] }

theorem foldl_emptyLine (lines : List (Nat × Mask × Line)) (st : Strand) : lines.foldl (fun st x => st.emptyLine x.1) st =
    { st with vFull := lines.foldl (fun f x => setBit f x.1 false) st.vFull } := by
  induction lines generalizing st with
  | nil => rfl
  | cons x lines ih => exact ih _

theorem Strand.awaitTile_eq : st.awaitTile lines = { st with
    vFull := lines.foldl (fun f x => setBit f x.1 false) st.vFull, producers := st.producers ++ [{ lines := lines, tile := true }] } := by
  rw [Strand.awaitTile, foldl_emptyLine]

/-- A line that is named is empty. -/
theorem getLsbD_foldl_setBit_false {w n : Nat} (f : BitVec w) (h : f.getLsbD n = false ∨ ∃ x ∈ lines, x.1 = n) :
    (lines.foldl (fun f x => setBit f x.1 false) f).getLsbD n = false := by
  induction lines generalizing f with
  | nil => simpa using h
  | cons x lines ih =>
    refine ih _ ?_
    obtain hf | ⟨y, hy, rfl⟩ := h
    · exact .inl (getLsbD_setBit_false_of_false _ hf)
    · obtain rfl | hy := List.mem_cons.1 hy
      · exact .inl (getLsbD_setBit_false ..)
      · exact .inr ⟨y, hy, rfl⟩

end Load

/-- What a `tld` gives its lines. -/
def State.tileLoad (s : State) (d : Code) (mode n o : Nat) : List (Nat × Mask × Line) :=
  (List.range n).map fun i => (s.cur.wb + d.toNat + i, lanes s, mergeLine zeroLine (lanes s) fun l => tileWord s mode o l i)

theorem exec_tld (s : State) (e : Bool) (d a : Code) (m : BitVec 2) (n : BitVec 5) :
    exec (.tld e d a m n) s = execTld e d a m n s := rfl

theorem exec_tld_eq_tileAccess (s : State) (e : Bool) (d a : Code) (m : BitVec 2) (n : BitVec 5) :
    ∃ k, exec (.tld e d a m n) s = tileAccess false e d a m.toNat (n.toNat + 1) s k := by
  rw [exec_tld, execTld]
  exact ⟨_, rfl⟩

section Load
variable {s : State} (hc : Unchecked s) {e : Bool} {d a : Code} {m : BitVec 2} {n : BitVec 5}
include hc

theorem exec_tld_of_sound (h : Ready s (usesTile false e d a (n.toNat + 1)))
    (hcause : s.cur.tileCause s.curCohort m.toNat (n.toNat + 1) (s.usrc a) = none) (hflawed : s.curCohort.flawedTile = false) :
    exec (.tld e d a m n) s =
      .next (s.onCur fun st => st.awaitTile (s.tileLoad d m.toNat (n.toNat + 1) (s.usrc a).toNat)).advance := by
  rw [exec_tld]
  refine (tileAccess_of_sound _ hc h hcause hflawed).trans ?_
  simp only [shadow_of_chk_zero hc.mode, Bool.false_eq_true, if_false, tileLines, zipIdx_map_range, List.map_map,
    ← tileWord_eq_sum]
  rfl

end Load

/-! ### `tst` -/

theorem TileStored.refl (s : State) (core : Nat) : TileStored s s core [] :=
  ⟨fun _ => rfl, fun _ _ => rfl, fun _ => rfl, fun _ => rfl, fun _ => rfl, rfl⟩

section Stored
variable {s t u : State} {core : Nat} {l l' : List (Nat × Byte)}

theorem TileStored.trans (h : TileStored s t core l) (g : TileStored t u core l') : TileStored s u core (l ++ l') := by
  refine ⟨fun x => ?_, fun k hk => (g.others k hk).trans (h.others k hk), fun k => (g.strands k).trans (h.strands k),
    fun c => (g.cohorts c).trans (h.cohorts c), fun k => (g.cores k).trans (h.cores k), g.rest.trans h.rest⟩
  rw [g.bytes, h.bytes]
  exact List.foldl_append.symm

/-- A loop whose rounds write bytes that the cohorts decide writes them round after round. -/
theorem TileStored.foldl {α : Type} {f : State → α → State} {g : α → List (Nat × Byte)}
    (h : ∀ t x, (∀ c, t.cohort c = s.cohort c) → TileStored t (f t x) core (g x)) (xs : List α)
    (ht : ∀ c, t.cohort c = s.cohort c) : TileStored t (xs.foldl f t) core (xs.flatMap g) := by
  induction xs generalizing t with
  | nil => exact TileStored.refl t core
  | cons x xs ih =>
    have hround := h t x ht
    exact hround.trans (ih fun c => (hround.cohorts c).trans (ht c))

variable (h : TileStored s t core l)
include h

theorem TileStored.curKey : t.curKey = s.curKey := (congrArg State.curKey h.rest :)

theorem TileStored.cur : t.cur = s.cur := by
  unfold State.cur
  rw [h.curKey, h.strands]

theorem TileStored.course : SameCourse s t := by
  have hcohort : t.curCohort = s.curCohort := by
    unfold State.curCohort
    rw [h.cur, h.cohorts]
  refine ⟨?_, ?_, ?_, ?_, congrArg Cohort.pmap hcohort, congrArg Cohort.barrier hcohort⟩
  all_goals rw [h.cur]

theorem TileStored.engines : SameEngines s t :=
  ⟨(congrArg State.disp h.rest :), (congrArg State.link h.rest :), (congrArg State.guard h.rest :),
    (congrArg State.root h.rest :), (congrArg State.contexts h.rest :), fun c => (congrArg Core.frb (h.cores c) :),
    fun c => (congrArg Core.frt (h.cores c) :), fun c => (congrArg Core.frh (h.cores c) :),
    fun c => (congrArg Core.tgt (h.cores c) :), fun c => (congrArg Core.lmap (h.cores c) :),
    fun c => (congrArg Core.cmap (h.cores c) :)⟩

end Stored

/-- Bytes of a field of a word are bytes of the word. -/
theorem tileBytes_natBits (c : Cohort) (o n w i : Nat) : tileBytes c o n (natBits w (8 * n * i) (8 * n)) =
    (List.range n).map fun j => (c.tileAddr (o + j), BitVec.ofNat 8 (w / 2 ^ (8 * (n * i + j)))) := by
  refine List.map_congr_left fun j hj => Prod.ext rfl ?_
  have hlt : j < n := List.mem_range.1 hj
  refine BitVec.eq_of_getLsbD_eq fun b hb => ?_
  have hin : b + 8 * j < 8 * n := by omega
  have hplace : b + 8 * j + 8 * n * i = b + 8 * (n * i + j) := by ring
  simp only [natBits, BitVec.getLsbD_ofNat, Nat.testBit_div_two_pow, Nat.testBit_mod_two_pow, hin, hplace, decide_true,
    Bool.true_and]

/-- The state in which `tst` has written the lanes of its lines, in the loops of its meaning. -/
def State.tileStore (s : State) (d : Code) (mode n o : Nat) : State :=
  ((List.range n).map fun i => (s.cur.wb + d.toNat + i, i)).foldl (fun t x =>
    (lanesOf (lanes s)).foldl (fun t l =>
      (tileParts mode o l x.2).zipIdx.foldl (fun t p =>
        t.writeTile s.cur.ccb p.1.1 p.1.2 (natBits (laneOf (s.cur.line x.1) l).toNat (8 * p.1.2 * p.2) (8 * p.1.2))) t) t) s

theorem tileStored_tileStore (s : State) (d : Code) (mode n o : Nat) :
    TileStored s (s.tileStore d mode n o) s.curCohort.core (tileStores s d mode n o) := by
  have hpart (t : State) (ht : ∀ c, t.cohort c = s.cohort c) (w : Nat) (p : (Nat × Nat) × Nat) :
      TileStored t (t.writeTile s.cur.ccb p.1.1 p.1.2 (natBits w (8 * p.1.2 * p.2) (8 * p.1.2))) s.curCohort.core
        ((List.range p.1.2).map fun j => (s.curCohort.tileAddr (p.1.1 + j), BitVec.ofNat 8 (w / 2 ^ (8 * (p.1.2 * p.2 + j))))) := by
    have hcohort : t.cohort s.cur.ccb = s.curCohort := ht _
    rw [← tileBytes_natBits, ← hcohort]
    exact tileStored_writeTile ..
  have hloops := TileStored.foldl (s := s) (core := s.curCohort.core) (fun t x ht =>
    TileStored.foldl (s := s) (fun t l ht => TileStored.foldl (s := s) (fun t p ht =>
      hpart t ht (laneOf (s.cur.line x.1) l).toNat p) (tileParts mode o l x.2).zipIdx ht) (lanesOf (lanes s)) ht)
    ((List.range n).map fun i => (s.cur.wb + d.toNat + i, i)) (t := s) fun _ => rfl
  rw [List.flatMap_map] at hloops
  exact hloops

theorem exec_tst (s : State) (e : Bool) (d a : Code) (m : BitVec 2) (n : BitVec 5) :
    exec (.tst e d a m n) s = execTst e d a m n s := rfl

theorem exec_tst_eq_tileAccess (s : State) (e : Bool) (d a : Code) (m : BitVec 2) (n : BitVec 5) :
    ∃ k, exec (.tst e d a m n) s = tileAccess true e d a m.toNat (n.toNat + 1) s k := by
  rw [exec_tst, execTst]
  exact ⟨_, rfl⟩

theorem exec_tst_of_sound {s : State} (hc : Unchecked s) {e : Bool} {d a : Code} {m : BitVec 2} {n : BitVec 5}
    (h : Ready s (usesTile true e d a (n.toNat + 1)))
    (hcause : s.cur.tileCause s.curCohort m.toNat (n.toNat + 1) (s.usrc a) = none) (hflawed : s.curCohort.flawedTile = false) :
    exec (.tst e d a m n) s = .next (s.tileStore d m.toNat (n.toNat + 1) (s.usrc a).toNat).advance := by
  rw [exec_tst]
  refine (tileAccess_of_sound _ hc h hcause hflawed).trans ?_
  simp only [shadow_of_chk_zero hc.mode, Bool.false_eq_true, if_false, tileLines, zipIdx_map_range]
  rfl

/-! ### What `tld` leaves -/

section Loaded
variable (s : State) (d : Code) (mode n o : Nat)

theorem State.cur_awaitTile : (s.onCur fun st => st.awaitTile (s.tileLoad d mode n o)).cur = { s.cur with
    vFull := (s.tileLoad d mode n o).foldl (fun f x => setBit f x.1 false) s.cur.vFull
    producers := s.cur.producers ++ [{ lines := s.tileLoad d mode n o, tile := true }] } := by
  rw [State.onCur, State.cur_setCur, Strand.awaitTile_eq]

theorem SameCourse.awaitTile : SameCourse s (s.onCur fun st => st.awaitTile (s.tileLoad d mode n o)) := by
  rw [State.onCur, Strand.awaitTile_eq]
  exact SameCourse.setCur rfl rfl rfl rfl

theorem onlyGoesOn_awaitTile : OnlyGoesOn s (s.onCur fun st => st.awaitTile (s.tileLoad d mode n o)) := by
  rw [State.onCur, Strand.awaitTile_eq]
  exact Keeps.setCur ⟨fun _ _ => rfl, fun _ _ => rfl, rfl, rfl, rfl, rfl, rfl, rfl, rfl, rfl, rfl⟩

theorem loadQueued_awaitTile {t : State} (hquiet : Quiet (s.onCur fun st => st.awaitTile (s.tileLoad d mode n o)) t) :
    LoadQueued s t d n fun l i => tileWord s mode o l i := by
  have hstill := hquiet.cur
  rw [State.cur_awaitTile] at hstill
  have hproducers : t.cur.producers = s.cur.producers ++ [{ lines := s.tileLoad d mode n o, tile := true }] :=
    (congrArg Strand.producers hstill :)
  have hfull : t.cur.vFull = (s.tileLoad d mode n o).foldl (fun f x => setBit f x.1 false) s.cur.vFull :=
    (congrArg Strand.vFull hstill :)
  refine ⟨⟨_, hproducers, rfl, rfl⟩, fun i hi => ?_⟩
  rw [hfull]
  exact getLsbD_foldl_setBit_false _ _ (.inr ⟨_, List.mem_map_of_mem (List.mem_range.2 hi), rfl⟩)

end Loaded

end Sys2Proof.Machine

namespace Sys2Proof.Proofs

open Sys2Proof.Machine Sys2Proof.Claims

/-- Settles O36: the checks are the same for both; `tld` gives its lines to a producer, and `tst` writes part after part. -/
theorem tileTransfers : Obligations.TileTransfers := by
  intro e d a m n s hc count ls us o cause
  obtain ⟨k, htld⟩ := exec_tld_eq_tileAccess s e d a m n
  obtain ⟨k', htst⟩ := exec_tst_eq_tileAccess s e d a m n
  refine ⟨fun hcodes hfull hlines => ?undeclared, fun h => ?load, fun h => ?store⟩
  case undeclared =>
    rw [htld, htst]
    exact ⟨tileAccess_of_undeclared k hcodes hfull hlines, tileAccess_of_undeclared k' hcodes hfull hlines⟩
  case load =>
    refine ⟨fun c hcause => htld.trans (tileAccess_of_cause k hc h hcause),
      fun hcause hflawed => htld.trans (tileAccess_of_flawed k hc h hcause hflawed), fun hcause hflawed hl => ?_⟩
    have hquiet := (SameCourse.awaitTile s d m.toNat count o.toNat).quiet_advance hl
    exact ⟨_, exec_tld_of_sound hc h hcause hflawed, loadQueued_awaitTile _ _ _ _ _ hquiet, (onlyGoesOn_awaitTile ..).quiet hquiet⟩
  case store =>
    refine ⟨fun c hcause => htst.trans (tileAccess_of_cause k' hc h hcause),
      fun hcause hflawed => htst.trans (tileAccess_of_flawed k' hc h hcause hflawed), fun hcause hflawed hl => ?_⟩
    have hstored := tileStored_tileStore s d m.toNat count o.toNat
    have hquiet := hstored.course.quiet_advance hl
    have hregisters := sameRegisters_of_still hquiet.cur (fun _ => False) (fun _ => False)
    rw [hstored.cur] at hregisters
    refine ⟨_, exec_tst_of_sound hc h hcause hflawed, fun x => ?_, fun k hk => (hquiet.memory.tile k).trans (hstored.others k hk),
      hquiet.memory.local_.trans (congrArg State.local_ hstored.rest :), hquiet.memory.host.trans (congrArg State.host hstored.rest :),
      hquiet.memory.peer.trans (congrArg State.peer hstored.rest :), hstored.engines.trans hquiet.engines,
      fun k => (hquiet.memory.scratch k).trans (congrArg Cohort.scratch (hstored.cohorts k)), hregisters⟩
    rw [hquiet.memory.tile]
    exact hstored.bytes x

end Sys2Proof.Proofs
end
